-- ==== Sys2Proof/Word.lean ====
section
/-! DEFINITION. The word types of the Gestra 9 and the sparse map that holds storage. -/

namespace Sys2Proof

/-- One byte of memory (00 R3). -/
abbrev Byte := BitVec 8

/-- A 32-bit register value or instruction word (02 R56, 05 R173). -/
abbrev W32 := BitVec 32

/-- A 64-bit scalar register, address or program counter (02 R56, 04 R142). -/
abbrev W64 := BitVec 64

/-- Storage by number: pairs of a key and what stands there, keys strictly rising. -/
abbrev FMap (α : Type) := List (Nat × α)

end Sys2Proof
end

