-- ==== Sys2Proof/Machine/Maps.lean ====
section
/-! DEFINITION. Operations on the sparse maps that hold storage, and on lists. All are structural recursions. -/

namespace Sys2Proof.Machine

/-- What stands at key `k`. -/
def mget {α : Type} : FMap α → Nat → Option α
  | [], _ => none
  | (a, v) :: m, k => if k == a then some v else mget m k

/-- Put `v` at key `k`, keeping the keys rising. -/
def mset {α : Type} : FMap α → Nat → α → FMap α
  | [], k, v => [(k, v)]
  | (a, x) :: m, k, v =>
    if k == a then (k, v) :: m else if k < a then (k, v) :: (a, x) :: m else (a, x) :: mset m k v

/-- Take key `k` out. -/
def mdel {α : Type} : FMap α → Nat → FMap α
  | [], _ => []
  | (a, x) :: m, k => if k == a then mdel m k else (a, x) :: mdel m k

/-- Put a value, or take the key out. -/
def mput {α : Type} (m : FMap α) (k : Nat) : Option α → FMap α
  | some v => mset m k v
  | none => mdel m k

/-- Change what stands at `k`, if anything does. -/
def mmod {α : Type} (m : FMap α) (k : Nat) (f : α → α) : FMap α :=
  match mget m k with
  | some v => mset m k (f v)
  | none => m

/-- A map whose absent keys read as `z` and that never lists `z`. -/
def zget {α : Type} (z : α) (m : FMap α) (k : Nat) : α := (mget m k).getD z

/-- Write into such a map. -/
def zset {α : Type} [DecidableEq α] (z : α) (m : FMap α) (k : Nat) (v : α) : FMap α :=
  if v = z then mdel m k else mset m k v

/-- The keys rise strictly, all above or equal to `lo`. -/
def keysFrom {α : Type} : Nat → FMap α → Bool
  | _, [] => true
  | lo, (a, _) :: m => decide (lo ≤ a) && keysFrom (a + 1) m

/-- The numbers `lo, lo+1, …, lo+n-1`. -/
def span (lo : Nat) : Nat → List Nat
  | 0 => []
  | n + 1 => lo :: span (lo + 1) n

/-- Element `k` of a list, replaced. -/
def lset {α : Type} : List α → Nat → α → List α
  | [], _, _ => []
  | _ :: l, 0, v => v :: l
  | x :: l, k + 1, v => x :: lset l k v

/-- Element `k` of a list, changed. -/
def lmod {α : Type} : List α → Nat → (α → α) → List α
  | [], _, _ => []
  | x :: l, 0, f => f x :: l
  | x :: l, k + 1, f => x :: lmod l k f

/-- Element `k`, or `z` past the end. -/
def lget {α : Type} (z : α) : List α → Nat → α
  | [], _ => z
  | x :: _, 0 => x
  | _ :: l, k + 1 => lget z l k

/-- Each element with its place. -/
def enumFrom {α : Type} : Nat → List α → List (Nat × α)
  | _, [] => []
  | n, x :: l => (n, x) :: enumFrom (n + 1) l

/-- The little-endian bytes of a number (00 R3). -/
def bytesOf : Nat → Nat → List Byte
  | 0, _ => []
  | n + 1, v => BitVec.ofNat 8 v :: bytesOf n (v / 256)

/-- The number that little-endian bytes hold (00 R3). -/
def ofBytes : List Byte → Nat
  | [] => 0
  | b :: l => b.toNat + 256 * ofBytes l

/-- `n` bits of `v` from bit `lo` up. -/
def bitsAt (v lo n : Nat) : Nat := v / 2 ^ lo % 2 ^ n

/-- Bit `k` of `v`. -/
def tst (v k : Nat) : Bool := v / 2 ^ k % 2 == 1

/-- A bit as a number. -/
def bnat (b : Bool) : Nat := if b then 1 else 0

/-- `x` as a two's-complement number of `n` bits (00 R5). -/
def sgn (n x : Nat) : Int := if tst x (n - 1) then (x % 2 ^ n : Nat) - (2 ^ n : Nat) else (x % 2 ^ n : Nat)

/-- An exact integer wrapped into `n` bits (03 R95). -/
def wrap (n : Nat) (i : Int) : Nat := (i % (2 ^ n : Nat)).toNat

/-- The low `n` bits of `x` extended with its sign bit to `w` bits. -/
def sext (n w x : Nat) : Nat := wrap w (sgn n x)

/-- `a` divided by `b`, rounded up. -/
def cdiv (a b : Nat) : Nat := (a + b - 1) / b

end Sys2Proof.Machine
end

