-- ==== Sys2Proof/Syntax.lean ====
section
/-! DEFINITION. The instructions of Varpol and the steps of the device: one constructor for each row of
spec/opcode_table.json. A word row carries the bit fields of its word; a step row (a step the
device takes by itself or at the request of the world outside) carries the numbers that say which
wave, queue, engine or register the step concerns. -/

namespace Sys2Proof

/-- A 7-bit operand specifier (02 R56, 05 R175): v0-v95, o0-o7, l0-l7, s0-s15. -/
abbrev Spec := BitVec 7

/-- A scalar register number, s0-s63 (05 R174). -/
abbrev SReg := BitVec 6

/-- A rounding modifier (03 R101), coded as 05 R181 codes it. -/
inductive RM where
  | rn
  | rz
  | ru
  | rd
  | rs
  deriving DecidableEq, Repr

/-- One row of the table. In word rows `m` is the switch marker, bit 31 (05 R173). -/
inductive Instr where
  /-- R177. HN word that gives the instruction it modifies a stall count, dependency-slot waits and a slot to set. -/
  | hint (stall : BitVec 4) (wmask : BitVec 16) (seten : Bool) (slot : BitVec 4)
  /-- R178. HN word that supplies the upper 25 bits of a wide immediate for the instruction it modifies. -/
  | wimm (p : BitVec 25)
  /-- R207. Scalar 64-bit add, executed once for the packed threads. -/
  | sadd (m : Bool) (d : SReg) (a : SReg) (i : Bool) (x : BitVec 7)
  /-- R207. Scalar 64-bit subtract. -/
  | ssub (m : Bool) (d : SReg) (a : SReg) (i : Bool) (x : BitVec 7)
  /-- R207. Scalar 64-bit multiply, low 64 bits. -/
  | smul (m : Bool) (d : SReg) (a : SReg) (i : Bool) (x : BitVec 7)
  /-- R207. Scalar signed multiply, high 64 bits. -/
  | smulhI64 (m : Bool) (d : SReg) (a : SReg) (i : Bool) (x : BitVec 7)
  /-- R207. Scalar unsigned multiply, high 64 bits. -/
  | smulhN64 (m : Bool) (d : SReg) (a : SReg) (i : Bool) (x : BitVec 7)
  /-- R207. Scalar bitwise AND. -/
  | sand (m : Bool) (d : SReg) (a : SReg) (i : Bool) (x : BitVec 7)
  /-- R207. Scalar bitwise OR. -/
  | sor (m : Bool) (d : SReg) (a : SReg) (i : Bool) (x : BitVec 7)
  /-- R207. Scalar bitwise XOR. -/
  | sxor (m : Bool) (d : SReg) (a : SReg) (i : Bool) (x : BitVec 7)
  /-- R207. Scalar shift left by x[5:0]. -/
  | sshl (m : Bool) (d : SReg) (a : SReg) (i : Bool) (x : BitVec 7)
  /-- R207. Scalar logical shift right. -/
  | sshr (m : Bool) (d : SReg) (a : SReg) (i : Bool) (x : BitVec 7)
  /-- R207. Scalar arithmetic shift right. -/
  | ssar (m : Bool) (d : SReg) (a : SReg) (i : Bool) (x : BitVec 7)
  /-- R207. Scalar signed minimum. -/
  | sminI64 (m : Bool) (d : SReg) (a : SReg) (i : Bool) (x : BitVec 7)
  /-- R207. Scalar unsigned minimum. -/
  | sminN64 (m : Bool) (d : SReg) (a : SReg) (i : Bool) (x : BitVec 7)
  /-- R207. Scalar signed maximum. -/
  | smaxI64 (m : Bool) (d : SReg) (a : SReg) (i : Bool) (x : BitVec 7)
  /-- R207. Scalar unsigned maximum. -/
  | smaxN64 (m : Bool) (d : SReg) (a : SReg) (i : Bool) (x : BitVec 7)
  /-- R207. Scalar move of a register or immediate. -/
  | smov (m : Bool) (d : SReg) (i : Bool) (x : BitVec 7)
  /-- R207. Scalar compare equal, writing 1 or 0. -/
  | sceq (m : Bool) (d : SReg) (a : SReg) (i : Bool) (x : BitVec 7)
  /-- R207. Scalar signed less-than compare. -/
  | scltI64 (m : Bool) (d : SReg) (a : SReg) (i : Bool) (x : BitVec 7)
  /-- R207. Scalar unsigned less-than compare. -/
  | scltN64 (m : Bool) (d : SReg) (a : SReg) (i : Bool) (x : BitVec 7)
  /-- R207. Scalar signed less-or-equal compare. -/
  | scleI64 (m : Bool) (d : SReg) (a : SReg) (i : Bool) (x : BitVec 7)
  /-- R207. Scalar unsigned less-or-equal compare. -/
  | scleN64 (m : Bool) (d : SReg) (a : SReg) (i : Bool) (x : BitVec 7)
  /-- R208. Scalar zero-extended 32-bit global load. -/
  | sldN32 (m : Bool) (d : SReg) (a : SReg) (i : Bool) (x : BitVec 7)
  /-- R208. Scalar 64-bit global load. -/
  | sldN64 (m : Bool) (d : SReg) (a : SReg) (i : Bool) (x : BitVec 7)
  /-- R208. Scalar 32-bit global store. -/
  | sstN32 (m : Bool) (d : SReg) (a : SReg) (i : Bool) (x : BitVec 7)
  /-- R208. Scalar 64-bit global store. -/
  | sstN64 (m : Bool) (d : SReg) (a : SReg) (i : Bool) (x : BitVec 7)
  /-- R208. Scalar 32-bit scratchpad load. -/
  | sldSN32 (m : Bool) (d : SReg) (a : SReg) (i : Bool) (x : BitVec 7)
  /-- R208. Scalar 32-bit scratchpad store. -/
  | sstSN32 (m : Bool) (d : SReg) (a : SReg) (i : Bool) (x : BitVec 7)
  /-- R212. Read a wave special register into a scalar register. -/
  | rdsrScalar (m : Bool) (d : SReg) (n : BitVec 7)
  /-- R214. Write a special register from a scalar under its access rules. -/
  | wrsr (m : Bool) (a : SReg) (n : BitVec 7)
  /-- R231. Write the wave's current grant to a scalar. -/
  | getw (m : Bool) (d : SReg)
  /-- R232. Set the width request of the level-2 unit, effective at the next resume. -/
  | setw (m : Bool) (a : SReg) (i : Bool) (x : BitVec 7)
  /-- R67. Blocking acquisition of extended main-register blocks. -/
  | xacq (m : Bool) (c : BitVec 7)
  /-- R67. Non-blocking acquisition of extended blocks, writing a status. -/
  | xacqNb (m : Bool) (d : SReg) (c : BitVec 7)
  /-- R68. Release extended blocks down to a count. -/
  | xrel (m : Bool) (c : BitVec 7)
  /-- R234. Join the wave and switch it to triple mode. -/
  | modeTriple (m : Bool)
  /-- R234. Join the wave and switch it to single mode. -/
  | modeSingle (m : Bool)
  /-- R237. Write the device record to memory and its length to a scalar. -/
  | fqryDevice (m : Bool) (d : SReg) (a : SReg)
  /-- R238. Write the numeric behaviour record. -/
  | fqryNumeric (m : Bool) (d : SReg) (a : SReg)
  /-- R239. Write the placement record. -/
  | fqryPlacement (m : Bool) (d : SReg) (a : SReg)
  /-- R243. Read a sampling control record and start the core's stall sampler. -/
  | smplStart (m : Bool) (a : SReg)
  /-- R247. Stop the stall sampler and write its counts with STAT 0. -/
  | smplStop (m : Bool) (a : SReg)
  /-- R247. Write the sampler's counts with STAT 1 and keep sampling. -/
  | smplFlush (m : Bool) (a : SReg)
  /-- R215. Save em into a scalar. -/
  | emsave (m : Bool) (d : SReg)
  /-- R215. Set the packed threads' em bits from a scalar. -/
  | emset (m : Bool) (a : SReg)
  /-- R215. AND em with a scalar mask. -/
  | emand (m : Bool) (a : SReg)
  /-- R215. AND em with the complement of a scalar mask. -/
  | emandn (m : Bool) (a : SReg)
  /-- R215. OR em with a scalar mask. -/
  | emor (m : Bool) (a : SReg)
  /-- R215. Save em and set em to em AND cm. -/
  | emif (m : Bool) (d : SReg)
  /-- R215. Set em to the saved mask AND NOT em. -/
  | emelse (m : Bool) (d : SReg)
  /-- R211. Write the address of the word plus a byte offset to a scalar. -/
  | sadr (m : Bool) (d : SReg) (x : BitVec 7)
  /-- R218. Unconditional relative branch. -/
  | br (m : Bool) (off : BitVec 21)
  /-- R218. Relative branch of active threads whose cm bit is set. -/
  | brc (m : Bool) (off : BitVec 21)
  /-- R218. Relative branch of active threads whose cm bit is clear. -/
  | brnc (m : Bool) (off : BitVec 21)
  /-- R218. Branch of all packed threads if any active thread has cm set. -/
  | brany (m : Bool) (off : BitVec 21)
  /-- R218. Branch of all packed threads if every active thread has cm set. -/
  | brall (m : Bool) (off : BitVec 21)
  /-- R218. Relative call writing the return address to o6:o7. -/
  | call (m : Bool) (off : BitVec 21)
  /-- R218. Register call writing the return address to o6:o7. -/
  | callr (m : Bool) (t : Spec)
  /-- R218. Return to the address in o6:o7. -/
  | ret (m : Bool)
  /-- R218. Jump to a register target. -/
  | jmpr (m : Bool) (t : Spec)
  /-- R221. Move active packed threads to Exited, ending the wave with its last thread. -/
  | exit (m : Bool)
  /-- R222. Place packed threads At RCB to wait for their cohort. -/
  | rcb (m : Bool)
  /-- R223. Open a block section recording live-ins, masks, entry and opidx. -/
  | block (m : Bool) (lim : BitVec 20)
  /-- R224. End the run and give up the quadrant or the coroutine turn. -/
  | yield (m : Bool)
  /-- R225. Raise the software trap with a code at user level. -/
  | trap (m : Bool) (c : BitVec 8)
  /-- R372. Trap 0 at privileged level: reload state from the frame and resume user code. -/
  | handlerReturn (m : Bool)
  /-- R372. Trap 1 at privileged level after pre-emption: the saved wave leaves the core once its counters drain. -/
  | handlerSaved (m : Bool)
  /-- R372. Trap 2 at privileged level: every thread of the wave becomes Exited. -/
  | handlerEndWave (m : Bool)
  /-- R382. Trap 3 at privileged level: refuse the re-slice so the unit resumes at its old grant. -/
  | handlerRefuseReslice (m : Bool)
  /-- R375. Trap 4 at privileged level: end the context. -/
  | handlerEndContext (m : Bool)
  /-- R226. No effect; ends a run when S is set. -/
  | nop (m : Bool)
  /-- R229. Arrive at a named barrier and wait for the phase. -/
  | bar (m : Bool) (n : BitVec 9) (c : BitVec 12)
  /-- R229. Arrive at a named barrier without waiting. -/
  | barArr (m : Bool) (n : BitVec 9) (c : BitVec 12)
  /-- R229. Arrive at a tree barrier and wait for the phase. -/
  | tbar (m : Bool) (p : BitVec 3)
  /-- R229. Arrive at a tree barrier without waiting. -/
  | tbarArr (m : Bool) (p : BitVec 3)
  /-- R230. Wait until an arrival word's generation reaches a value. -/
  | waitgen (m : Bool) (off : SReg) (g : SReg)
  /-- R306. Wait until a named outstanding-access counter is at or below a value. -/
  | waitc (m : Bool) (c : BitVec 2) (v : BitVec 6)
  /-- R307. Order the packed threads' accesses and wait for their earlier load results. -/
  | fenceW (m : Bool)
  /-- R254. 32-bit wrapping add. -/
  | addN32 (m : Bool) (d : Spec) (a : Spec) (b : Spec)
  /-- R254. 32-bit wrapping subtract. -/
  | subN32 (m : Bool) (d : Spec) (a : Spec) (b : Spec)
  /-- R254. 32-bit multiply, low bits. -/
  | mulN32 (m : Bool) (d : Spec) (a : Spec) (b : Spec)
  /-- R254. Signed 32-bit multiply, high bits. -/
  | mulhI32 (m : Bool) (d : Spec) (a : Spec) (b : Spec)
  /-- R254. Unsigned 32-bit multiply, high bits. -/
  | mulhN32 (m : Bool) (d : Spec) (a : Spec) (b : Spec)
  /-- R254. 32-bit bitwise AND. -/
  | andB32 (m : Bool) (d : Spec) (a : Spec) (b : Spec)
  /-- R254. 32-bit bitwise OR. -/
  | orB32 (m : Bool) (d : Spec) (a : Spec) (b : Spec)
  /-- R254. 32-bit bitwise XOR. -/
  | xorB32 (m : Bool) (d : Spec) (a : Spec) (b : Spec)
  /-- R254. 32-bit shift left. -/
  | shlB32 (m : Bool) (d : Spec) (a : Spec) (b : Spec)
  /-- R254. 32-bit logical shift right. -/
  | shrB32 (m : Bool) (d : Spec) (a : Spec) (b : Spec)
  /-- R254. 32-bit arithmetic shift right. -/
  | sarB32 (m : Bool) (d : Spec) (a : Spec) (b : Spec)
  /-- R254. Signed 32-bit minimum. -/
  | minI32 (m : Bool) (d : Spec) (a : Spec) (b : Spec)
  /-- R254. Unsigned 32-bit minimum. -/
  | minN32 (m : Bool) (d : Spec) (a : Spec) (b : Spec)
  /-- R254. Signed 32-bit maximum. -/
  | maxI32 (m : Bool) (d : Spec) (a : Spec) (b : Spec)
  /-- R254. Unsigned 32-bit maximum. -/
  | maxN32 (m : Bool) (d : Spec) (a : Spec) (b : Spec)
  /-- R254. Saturating signed 32-bit add. -/
  | addsI32 (m : Bool) (d : Spec) (a : Spec) (b : Spec)
  /-- R254. 32-bit add of an immediate. -/
  | addN32Imm (m : Bool) (d : Spec) (a : Spec) (imm : BitVec 7)
  /-- R254. 32-bit AND with an immediate. -/
  | andB32Imm (m : Bool) (d : Spec) (a : Spec) (imm : BitVec 7)
  /-- R254. 32-bit OR with an immediate. -/
  | orB32Imm (m : Bool) (d : Spec) (a : Spec) (imm : BitVec 7)
  /-- R254. 32-bit XOR with an immediate. -/
  | xorB32Imm (m : Bool) (d : Spec) (a : Spec) (imm : BitVec 7)
  /-- R254. 32-bit shift left by an immediate. -/
  | shlB32Imm (m : Bool) (d : Spec) (a : Spec) (imm : BitVec 7)
  /-- R254. 32-bit logical shift right by an immediate. -/
  | shrB32Imm (m : Bool) (d : Spec) (a : Spec) (imm : BitVec 7)
  /-- R254. 32-bit arithmetic shift right by an immediate. -/
  | sarB32Imm (m : Bool) (d : Spec) (a : Spec) (imm : BitVec 7)
  /-- R254. Move a 32-bit immediate. -/
  | movB32 (m : Bool) (d : Spec) (imm : BitVec 7)
  /-- R254. Immediate minus register, 32 bits. -/
  | rsubN32 (m : Bool) (d : Spec) (a : Spec) (imm : BitVec 7)
  /-- R254. Signed minimum with an immediate. -/
  | minI32Imm (m : Bool) (d : Spec) (a : Spec) (imm : BitVec 7)
  /-- R254. Signed maximum with an immediate. -/
  | maxI32Imm (m : Bool) (d : Spec) (a : Spec) (imm : BitVec 7)
  /-- R254. 64-bit add of an immediate. -/
  | addN64Imm (m : Bool) (d : Spec) (a : Spec) (imm : BitVec 7)
  /-- R254. Move a sign-extended 64-bit immediate. -/
  | movB64 (m : Bool) (d : Spec) (imm : BitVec 7)
  /-- R213. Read a special register into a per-thread destination. -/
  | rdsrVector (m : Bool) (d : Spec) (n : BitVec 7)
  /-- R254. 64-bit wrapping add. -/
  | addN64 (m : Bool) (d : Spec) (a : Spec) (b : Spec)
  /-- R254. 64-bit wrapping subtract. -/
  | subN64 (m : Bool) (d : Spec) (a : Spec) (b : Spec)
  /-- R254. 64-bit multiply, low bits. -/
  | mulN64 (m : Bool) (d : Spec) (a : Spec) (b : Spec)
  /-- R254. 64-bit bitwise AND. -/
  | andB64 (m : Bool) (d : Spec) (a : Spec) (b : Spec)
  /-- R254. 64-bit bitwise OR. -/
  | orB64 (m : Bool) (d : Spec) (a : Spec) (b : Spec)
  /-- R254. 64-bit bitwise XOR. -/
  | xorB64 (m : Bool) (d : Spec) (a : Spec) (b : Spec)
  /-- R254. 64-bit shift left. -/
  | shlB64 (m : Bool) (d : Spec) (a : Spec) (b : Spec)
  /-- R254. 64-bit logical shift right. -/
  | shrB64 (m : Bool) (d : Spec) (a : Spec) (b : Spec)
  /-- R254. 64-bit arithmetic shift right. -/
  | sarB64 (m : Bool) (d : Spec) (a : Spec) (b : Spec)
  /-- R254. Count set bits. -/
  | popcB32 (m : Bool) (d : Spec) (a : Spec)
  /-- R254. Count leading zeros. -/
  | clzB32 (m : Bool) (d : Spec) (a : Spec)
  /-- R254. Reverse bit order. -/
  | brevB32 (m : Bool) (d : Spec) (a : Spec)
  /-- R255. Unsigned bit-field extract. -/
  | bfeN32 (m : Bool) (d : Spec) (a : Spec) (b : Spec)
  /-- R255. Signed bit-field extract. -/
  | bfeI32 (m : Bool) (d : Spec) (a : Spec) (b : Spec)
  /-- R254. Saturating signed 32-bit subtract. -/
  | subsI32 (m : Bool) (d : Spec) (a : Spec) (b : Spec)
  /-- R254. Exact unsigned 64-bit product of two 32-bit values. -/
  | mulwN32 (m : Bool) (d : Spec) (a : Spec) (b : Spec)
  /-- R256. Integer equal compare into cm. -/
  | ceqN32 (m : Bool) (a : Spec) (b : Spec)
  /-- R256. Integer not-equal compare into cm. -/
  | cneN32 (m : Bool) (a : Spec) (b : Spec)
  /-- R256. Signed less-than compare into cm. -/
  | cltI32 (m : Bool) (a : Spec) (b : Spec)
  /-- R256. Signed less-or-equal compare into cm. -/
  | cleI32 (m : Bool) (a : Spec) (b : Spec)
  /-- R256. Unsigned less-than compare into cm. -/
  | cltN32 (m : Bool) (a : Spec) (b : Spec)
  /-- R256. Unsigned less-or-equal compare into cm. -/
  | cleN32 (m : Bool) (a : Spec) (b : Spec)
  /-- R256. 64-bit equal compare into cm. -/
  | ceqN64 (m : Bool) (a : Spec) (b : Spec)
  /-- R256. 64-bit signed less-than compare into cm. -/
  | cltI64 (m : Bool) (a : Spec) (b : Spec)
  /-- R256. 64-bit unsigned less-than compare into cm. -/
  | cltN64 (m : Bool) (a : Spec) (b : Spec)
  /-- R257. Select one of two 32-bit values by cm. -/
  | selB32 (m : Bool) (d : Spec) (a : Spec) (b : Spec)
  /-- R257. Select one of two 64-bit values by cm. -/
  | selB64 (m : Bool) (d : Spec) (a : Spec) (b : Spec)
  /-- R261. FP32 equal compare into cm by sibling majority. -/
  | fceqF32 (m : Bool) (a : Spec) (b : Spec)
  /-- R261. FP32 not-equal or unordered compare into cm. -/
  | fcneF32 (m : Bool) (a : Spec) (b : Spec)
  /-- R261. FP32 less-than compare into cm. -/
  | fcltF32 (m : Bool) (a : Spec) (b : Spec)
  /-- R261. FP32 less-or-equal compare into cm. -/
  | fcleF32 (m : Bool) (a : Spec) (b : Spec)
  /-- R261. FP32 greater-than compare into cm. -/
  | fcgtF32 (m : Bool) (a : Spec) (b : Spec)
  /-- R261. FP32 greater-or-equal compare into cm. -/
  | fcgeF32 (m : Bool) (a : Spec) (b : Spec)
  /-- R261. FP32 unordered compare into cm. -/
  | fcunF32 (m : Bool) (a : Spec) (b : Spec)
  /-- R261. FP32 ordered compare into cm. -/
  | fcordF32 (m : Bool) (a : Spec) (b : Spec)
  /-- R262. FP32 minimum with -0 below +0. -/
  | fminF32 (m : Bool) (d : Spec) (a : Spec) (b : Spec)
  /-- R262. FP32 maximum with -0 below +0. -/
  | fmaxF32 (m : Bool) (d : Spec) (a : Spec) (b : Spec)
  /-- R263. Clear the sign bit. -/
  | fabsF32 (m : Bool) (d : Spec) (a : Spec)
  /-- R263. Invert the sign bit. -/
  | fnegF32 (m : Bool) (d : Spec) (a : Spec)
  /-- R263. Copy the sign of b onto a. -/
  | fcopysignF32 (m : Bool) (d : Spec) (a : Spec) (b : Spec)
  /-- R264. Classify an FP32 value into a one-hot mask. -/
  | fclassF32 (m : Bool) (d : Spec) (a : Spec)
  /-- R265. Correctly rounded 2^a for -1 <= a <= 1. -/
  | fexfF32 (m : Bool) (d : Spec) (a : Spec) (rm : RM)
  /-- R265. Correctly rounded base-two logarithm. -/
  | flog2F32 (m : Bool) (d : Spec) (a : Spec) (rm : RM)
  /-- R265. Correctly rounded reciprocal. -/
  | frcpF32 (m : Bool) (d : Spec) (a : Spec) (rm : RM)
  /-- R265. Correctly rounded reciprocal square root. -/
  | frsqrtF32 (m : Bool) (d : Spec) (a : Spec) (rm : RM)
  /-- R267. Round to an integral FP32 value. -/
  | frintF32 (m : Bool) (d : Spec) (a : Spec) (rm : RM)
  /-- R269. Convert i32 to FP32. -/
  | cvtF32I32 (m : Bool) (d : Spec) (a : Spec) (rm : RM)
  /-- R269. Convert n32 to FP32. -/
  | cvtF32N32 (m : Bool) (d : Spec) (a : Spec) (rm : RM)
  /-- R270. Convert FP32 to i32, median in triple mode. -/
  | cvtI32F32 (m : Bool) (d : Spec) (a : Spec) (rm : RM)
  /-- R270. Convert FP32 to n32. -/
  | cvtN32F32 (m : Bool) (d : Spec) (a : Spec) (rm : RM)
  /-- R269. Narrow FP32 to FP16. -/
  | cvtF16F32 (m : Bool) (d : Spec) (a : Spec) (rm : RM)
  /-- R269. Narrow FP32 to BF16. -/
  | cvtBf16F32 (m : Bool) (d : Spec) (a : Spec) (rm : RM)
  /-- R100. Narrow FP32 to FP8 E4M3, saturating or not. -/
  | cvtE4m3F32 (m : Bool) (d : Spec) (a : Spec) (sat : Bool) (rm : RM)
  /-- R100. Narrow FP32 to FP8 E5M2, saturating or not. -/
  | cvtE5m2F32 (m : Bool) (d : Spec) (a : Spec) (sat : Bool) (rm : RM)
  /-- R269. Widen FP16 to FP32 exactly. -/
  | cvtF32F16 (m : Bool) (d : Spec) (a : Spec)
  /-- R269. Widen BF16 to FP32 exactly. -/
  | cvtF32Bf16 (m : Bool) (d : Spec) (a : Spec)
  /-- R269. Widen E4M3 to FP32 exactly. -/
  | cvtF32E4m3 (m : Bool) (d : Spec) (a : Spec)
  /-- R269. Widen E5M2 to FP32 exactly. -/
  | cvtF32E5m2 (m : Bool) (d : Spec) (a : Spec)
  /-- R269. Convert i64 to FP32. -/
  | cvtF32I64 (m : Bool) (d : Spec) (a : Spec) (rm : RM)
  /-- R270. Convert FP32 to i64. -/
  | cvtI64F32 (m : Bool) (d : Spec) (a : Spec) (rm : RM)
  /-- R271. Pack four bytes into a PACK6 group. -/
  | pack6 (m : Bool) (d : Spec) (a : Spec)
  /-- R271. Unpack a PACK6 group into four bytes, as i6 or n6. -/
  | unpack6 (m : Bool) (d : Spec) (a : Spec) (k : Bool)
  /-- R272. Digit count of the three siblings. -/
  | fdig (m : Bool) (d : Spec) (a : Spec)
  /-- R272. Mean of the three siblings into every sibling. -/
  | fmean (m : Bool) (d : Spec) (a : Spec)
  /-- R272. Broadcast one sibling of a to every sibling. -/
  | sibget (m : Bool) (d : Spec) (a : Spec) (n : BitVec 2)
  /-- R273. Write sibling 0 of a into one sibling of d. -/
  | sibset (m : Bool) (d : Spec) (a : Spec) (n : BitVec 2)
  /-- R272. Keyed random word from Rsg under the draw identity. -/
  | krnd (m : Bool) (d : Spec) (a : Spec) (w : BitVec 2)
  /-- R277. Evaluate a piecewise-quadratic activation function from the run's bank. -/
  | act (m : Bool) (d : Spec) (a : Spec) (b : Spec)
  /-- R278. Update the running maximum and rescale the running sum. -/
  | mseaMax (m : Bool) (d : Spec) (a : Spec) (b : Spec)
  /-- R278. Add 2^(x-m) to the running sum. -/
  | mseaAcc (m : Bool) (d : Spec) (a : Spec) (b : Spec)
  /-- R280. Read a value from another present thread of the wave. -/
  | shfl (m : Bool) (d : Spec) (a : Spec) (b : Spec) (mask : BitVec 4)
  /-- R281. 1 if any present member's predicate holds. -/
  | voteAny (m : Bool) (d : Spec) (a : Spec) (mask : BitVec 4)
  /-- R281. 1 if every present member's predicate holds. -/
  | voteAll (m : Bool) (d : Spec) (a : Spec) (mask : BitVec 4)
  /-- R281. Mask of present members whose predicate holds. -/
  | voteBallot (m : Bool) (d : Spec) (a : Spec) (mask : BitVec 4)
  /-- R281. Mask of present members with an equal 32-bit value. -/
  | matchN32 (m : Bool) (d : Spec) (a : Spec) (mask : BitVec 4)
  /-- R281. Mask of present members with an equal 64-bit value. -/
  | matchN64 (m : Bool) (d : Spec) (a : Spec) (mask : BitVec 4)
  /-- R139. Ordered 64-leaf FP32 reduction tree per sibling. -/
  | redOF32 (m : Bool) (d : Spec) (a : Spec) (mask : BitVec 4)
  /-- R281. Wrapping sum over contributing threads. -/
  | redAddN32 (m : Bool) (d : Spec) (a : Spec) (mask : BitVec 4)
  /-- R281. Signed minimum over contributing threads. -/
  | redMinI32 (m : Bool) (d : Spec) (a : Spec) (mask : BitVec 4)
  /-- R281. Signed maximum over contributing threads. -/
  | redMaxI32 (m : Bool) (d : Spec) (a : Spec) (mask : BitVec 4)
  /-- R281. Unsigned minimum over contributing threads. -/
  | redMinN32 (m : Bool) (d : Spec) (a : Spec) (mask : BitVec 4)
  /-- R281. Unsigned maximum over contributing threads. -/
  | redMaxN32 (m : Bool) (d : Spec) (a : Spec) (mask : BitVec 4)
  /-- R282. Move one thread's value into a scalar register. -/
  | vtos (m : Bool) (d : BitVec 4) (a : Spec) (b : BitVec 4)
  /-- R295. Global load of an unsigned byte. -/
  | ldGN8 (m : Bool) (d : Spec) (a : Spec) (imm : BitVec 7)
  /-- R295. Global load of a signed byte. -/
  | ldGI8 (m : Bool) (d : Spec) (a : Spec) (imm : BitVec 7)
  /-- R295. Global load of an unsigned halfword. -/
  | ldGN16 (m : Bool) (d : Spec) (a : Spec) (imm : BitVec 7)
  /-- R295. Global load of a signed halfword. -/
  | ldGI16 (m : Bool) (d : Spec) (a : Spec) (imm : BitVec 7)
  /-- R295. Global load of a 32-bit word. -/
  | ldGN32 (m : Bool) (d : Spec) (a : Spec) (imm : BitVec 7)
  /-- R295. Global FP32 load with class-dependent sibling transfer. -/
  | ldGF32 (m : Bool) (d : Spec) (a : Spec) (imm : BitVec 7)
  /-- R295. Global FP16 load. -/
  | ldGF16 (m : Bool) (d : Spec) (a : Spec) (imm : BitVec 7)
  /-- R295. Global BF16 load. -/
  | ldGBf16 (m : Bool) (d : Spec) (a : Spec) (imm : BitVec 7)
  /-- R295. Global 64-bit load. -/
  | ldGN64 (m : Bool) (d : Spec) (a : Spec) (imm : BitVec 7)
  /-- R295. Global byte store. -/
  | stGN8 (m : Bool) (d : Spec) (a : Spec) (imm : BitVec 7)
  /-- R295. Global halfword store. -/
  | stGN16 (m : Bool) (d : Spec) (a : Spec) (imm : BitVec 7)
  /-- R295. Global 32-bit store. -/
  | stGN32 (m : Bool) (d : Spec) (a : Spec) (imm : BitVec 7)
  /-- R295. Global FP32 store with class-dependent sibling transfer. -/
  | stGF32 (m : Bool) (d : Spec) (a : Spec) (imm : BitVec 7)
  /-- R295. Global FP16 store. -/
  | stGF16 (m : Bool) (d : Spec) (a : Spec) (imm : BitVec 7)
  /-- R295. Global BF16 store. -/
  | stGBf16 (m : Bool) (d : Spec) (a : Spec) (imm : BitVec 7)
  /-- R295. Global 64-bit store. -/
  | stGN64 (m : Bool) (d : Spec) (a : Spec) (imm : BitVec 7)
  /-- R295. Scratchpad load of an unsigned byte. -/
  | ldSN8 (m : Bool) (d : Spec) (a : Spec) (imm : BitVec 7)
  /-- R295. Scratchpad load of a signed byte. -/
  | ldSI8 (m : Bool) (d : Spec) (a : Spec) (imm : BitVec 7)
  /-- R295. Scratchpad load of an unsigned halfword. -/
  | ldSN16 (m : Bool) (d : Spec) (a : Spec) (imm : BitVec 7)
  /-- R295. Scratchpad load of a signed halfword. -/
  | ldSI16 (m : Bool) (d : Spec) (a : Spec) (imm : BitVec 7)
  /-- R295. Scratchpad 32-bit load. -/
  | ldSN32 (m : Bool) (d : Spec) (a : Spec) (imm : BitVec 7)
  /-- R295. Scratchpad FP32 load. -/
  | ldSF32 (m : Bool) (d : Spec) (a : Spec) (imm : BitVec 7)
  /-- R295. Scratchpad FP16 load. -/
  | ldSF16 (m : Bool) (d : Spec) (a : Spec) (imm : BitVec 7)
  /-- R295. Scratchpad BF16 load. -/
  | ldSBf16 (m : Bool) (d : Spec) (a : Spec) (imm : BitVec 7)
  /-- R295. Scratchpad 64-bit load. -/
  | ldSN64 (m : Bool) (d : Spec) (a : Spec) (imm : BitVec 7)
  /-- R295. Scratchpad byte store. -/
  | stSN8 (m : Bool) (d : Spec) (a : Spec) (imm : BitVec 7)
  /-- R295. Scratchpad halfword store. -/
  | stSN16 (m : Bool) (d : Spec) (a : Spec) (imm : BitVec 7)
  /-- R295. Scratchpad 32-bit store. -/
  | stSN32 (m : Bool) (d : Spec) (a : Spec) (imm : BitVec 7)
  /-- R295. Scratchpad FP32 store, Mean in triple mode. -/
  | stSF32 (m : Bool) (d : Spec) (a : Spec) (imm : BitVec 7)
  /-- R295. Scratchpad FP16 store. -/
  | stSF16 (m : Bool) (d : Spec) (a : Spec) (imm : BitVec 7)
  /-- R295. Scratchpad BF16 store. -/
  | stSBf16 (m : Bool) (d : Spec) (a : Spec) (imm : BitVec 7)
  /-- R295. Scratchpad 64-bit store. -/
  | stSN64 (m : Bool) (d : Spec) (a : Spec) (imm : BitVec 7)
  /-- R298. Global atomic 32-bit add returning the old value. -/
  | atomGAddN32 (m : Bool) (d : Spec) (a : Spec) (b : Spec)
  /-- R298. Global atomic 64-bit add with return. -/
  | atomGAddN64 (m : Bool) (d : Spec) (a : Spec) (b : Spec)
  /-- R299. Global atomic FP32 add, round to nearest, with return. -/
  | atomGAddF32 (m : Bool) (d : Spec) (a : Spec) (b : Spec)
  /-- R298. Global atomic signed minimum with return. -/
  | atomGMinI32 (m : Bool) (d : Spec) (a : Spec) (b : Spec)
  /-- R298. Global atomic unsigned minimum with return. -/
  | atomGMinN32 (m : Bool) (d : Spec) (a : Spec) (b : Spec)
  /-- R298. Global atomic signed maximum with return. -/
  | atomGMaxI32 (m : Bool) (d : Spec) (a : Spec) (b : Spec)
  /-- R298. Global atomic unsigned maximum with return. -/
  | atomGMaxN32 (m : Bool) (d : Spec) (a : Spec) (b : Spec)
  /-- R298. Global atomic AND with return. -/
  | atomGAndB32 (m : Bool) (d : Spec) (a : Spec) (b : Spec)
  /-- R298. Global atomic OR with return. -/
  | atomGOrB32 (m : Bool) (d : Spec) (a : Spec) (b : Spec)
  /-- R298. Global atomic XOR with return. -/
  | atomGXorB32 (m : Bool) (d : Spec) (a : Spec) (b : Spec)
  /-- R298. Global atomic 32-bit exchange. -/
  | atomGExchN32 (m : Bool) (d : Spec) (a : Spec) (b : Spec)
  /-- R298. Global atomic 64-bit exchange. -/
  | atomGExchN64 (m : Bool) (d : Spec) (a : Spec) (b : Spec)
  /-- R298. Global atomic 32-bit compare-and-swap. -/
  | atomGCasN32 (m : Bool) (d : Spec) (a : Spec) (b : Spec)
  /-- R298. Global atomic 64-bit compare-and-swap. -/
  | atomGCasN64 (m : Bool) (d : Spec) (a : Spec) (b : Spec)
  /-- R302. Global no-return atomic 32-bit add. -/
  | atomnGAddN32 (m : Bool) (a : Spec) (b : Spec)
  /-- R302. Global no-return atomic 64-bit add. -/
  | atomnGAddN64 (m : Bool) (a : Spec) (b : Spec)
  /-- R299. Global no-return atomic FP32 add. -/
  | atomnGAddF32 (m : Bool) (a : Spec) (b : Spec)
  /-- R302. Global no-return atomic signed minimum. -/
  | atomnGMinI32 (m : Bool) (a : Spec) (b : Spec)
  /-- R302. Global no-return atomic unsigned minimum. -/
  | atomnGMinN32 (m : Bool) (a : Spec) (b : Spec)
  /-- R302. Global no-return atomic signed maximum. -/
  | atomnGMaxI32 (m : Bool) (a : Spec) (b : Spec)
  /-- R302. Global no-return atomic unsigned maximum. -/
  | atomnGMaxN32 (m : Bool) (a : Spec) (b : Spec)
  /-- R302. Global no-return atomic AND. -/
  | atomnGAndB32 (m : Bool) (a : Spec) (b : Spec)
  /-- R302. Global no-return atomic OR. -/
  | atomnGOrB32 (m : Bool) (a : Spec) (b : Spec)
  /-- R302. Global no-return atomic XOR. -/
  | atomnGXorB32 (m : Bool) (a : Spec) (b : Spec)
  /-- R298. Scratchpad atomic 32-bit add with return. -/
  | atomSAddN32 (m : Bool) (d : Spec) (a : Spec) (b : Spec)
  /-- R298. Scratchpad atomic 64-bit add with return. -/
  | atomSAddN64 (m : Bool) (d : Spec) (a : Spec) (b : Spec)
  /-- R299. Scratchpad atomic FP32 add with return. -/
  | atomSAddF32 (m : Bool) (d : Spec) (a : Spec) (b : Spec)
  /-- R298. Scratchpad atomic signed minimum. -/
  | atomSMinI32 (m : Bool) (d : Spec) (a : Spec) (b : Spec)
  /-- R298. Scratchpad atomic unsigned minimum. -/
  | atomSMinN32 (m : Bool) (d : Spec) (a : Spec) (b : Spec)
  /-- R298. Scratchpad atomic signed maximum. -/
  | atomSMaxI32 (m : Bool) (d : Spec) (a : Spec) (b : Spec)
  /-- R298. Scratchpad atomic unsigned maximum. -/
  | atomSMaxN32 (m : Bool) (d : Spec) (a : Spec) (b : Spec)
  /-- R298. Scratchpad atomic AND. -/
  | atomSAndB32 (m : Bool) (d : Spec) (a : Spec) (b : Spec)
  /-- R298. Scratchpad atomic OR. -/
  | atomSOrB32 (m : Bool) (d : Spec) (a : Spec) (b : Spec)
  /-- R298. Scratchpad atomic XOR. -/
  | atomSXorB32 (m : Bool) (d : Spec) (a : Spec) (b : Spec)
  /-- R298. Scratchpad atomic 32-bit exchange. -/
  | atomSExchN32 (m : Bool) (d : Spec) (a : Spec) (b : Spec)
  /-- R298. Scratchpad atomic 64-bit exchange. -/
  | atomSExchN64 (m : Bool) (d : Spec) (a : Spec) (b : Spec)
  /-- R298. Scratchpad atomic 32-bit compare-and-swap. -/
  | atomSCasN32 (m : Bool) (d : Spec) (a : Spec) (b : Spec)
  /-- R298. Scratchpad atomic 64-bit compare-and-swap. -/
  | atomSCasN64 (m : Bool) (d : Spec) (a : Spec) (b : Spec)
  /-- R258. FP32 add with one rounding point. -/
  | faddF32 (m : Bool) (rm : RM) (d : Spec) (a : Spec) (b : Spec)
  /-- R258. FP32 subtract. -/
  | fsubF32 (m : Bool) (rm : RM) (d : Spec) (a : Spec) (b : Spec)
  /-- R258. FP32 multiply. -/
  | fmulF32 (m : Bool) (rm : RM) (d : Spec) (a : Spec) (b : Spec)
  /-- R258. FP32 divide, long-latency. -/
  | fdivF32 (m : Bool) (rm : RM) (d : Spec) (a : Spec) (b : Spec)
  /-- R258. FP32 square root, long-latency. -/
  | fsqrtF32 (m : Bool) (rm : RM) (d : Spec) (a : Spec)
  /-- R259. Scale an FP32 value by 2^b. -/
  | fexpiF32 (m : Bool) (rm : RM) (d : Spec) (a : Spec) (b : Spec)
  /-- R258. Fused a*b+c. -/
  | ffmaF32 (m : Bool) (rm : RM) (d : Spec) (a : Spec) (b : Spec) (c : BitVec 4)
  /-- R258. Fused a*b-c. -/
  | ffmsF32 (m : Bool) (rm : RM) (d : Spec) (a : Spec) (b : Spec) (c : BitVec 4)
  /-- R258. Fused -(a*b)+c. -/
  | fnmaF32 (m : Bool) (rm : RM) (d : Spec) (a : Spec) (b : Spec) (c : BitVec 4)
  /-- R258. Fused -(a*b)-c. -/
  | fnmsF32 (m : Bool) (rm : RM) (d : Spec) (a : Spec) (b : Spec) (c : BitVec 4)
  /-- R303. Load the decayed value of a dw64 word at its home slice. -/
  | ldD (m : Bool) (d : Spec) (a : Spec)
  /-- R303. Store a dw64 word with a class and the current stamp. -/
  | stD (m : Bool) (c : BitVec 4) (a : Spec) (b : Spec)
  /-- R136. Atomically decay a dw64 word and add an addend. -/
  | dadd (m : Bool) (a : Spec) (b : Spec)
  /-- R138. Rewrite a dw64 word under its old class and set a new class. -/
  | dcls (m : Bool) (c : BitVec 4) (a : Spec)
  /-- R305. Write an arrival word's TARGET and apply Advance. -/
  | armS (m : Bool) (a : Spec) (b : Spec)
  /-- R308. Pin the current version of a versioned range's group for the wave. -/
  | vpin (m : Bool) (a : Spec)
  /-- R310. Release the wave's version pin. -/
  | vunpin (m : Bool)
  /-- R311. Write the wave's pinned version to every active thread. -/
  | vread (m : Bool) (d : Spec)
  /-- R312. Prefetch hint with no visible effect. -/
  | prefG (m : Bool) (a : Spec)
  /-- R323. Load, optionally rebase, check and store back a tensor record. -/
  | tdesc (m : Bool) (x : SReg) (y : SReg) (z : SReg) (orig : Bool) (base : Bool)
  /-- R329. Stage a B view into the gantry. -/
  | mload (m : Bool) (x : SReg) (y : SReg)
  /-- R329. Stage an A view into the turntable. -/
  | tturn (m : Bool) (x : SReg) (y : SReg)
  /-- R332. Matrix multiply-accumulate of untiled operands. -/
  | mma (m : Bool) (x : SReg) (y : SReg) (z : SReg) (narrow : Bool) (clear : Bool)
  /-- R332. Matrix multiply-accumulate with block scales. -/
  | mmaSc (m : Bool) (x : SReg) (y : SReg) (z : SReg) (narrow : Bool) (clear : Bool)
  /-- R332. Matrix multiply-accumulate with a plane-nested A. -/
  | mmaPn (m : Bool) (x : SReg) (y : SReg) (z : SReg) (narrow : Bool) (clear : Bool)
  /-- R333. Write the accumulator region to memory, scaled by Tsp. -/
  | mstore (m : Bool) (x : SReg) (sat : Bool)
  /-- R339. Copy one view to another on a copy engine, with an optional follow-on. -/
  | ecopy (m : Bool) (x : SReg) (y : SReg) (z : SReg) (eng : BitVec 2)
  /-- R341. Gather table rows by an index list. -/
  | egath (m : Bool) (x : SReg) (y : SReg) (z : SReg)
  /-- R341. Scatter rows into a table by an index list. -/
  | escat (m : Bool) (x : SReg) (y : SReg) (z : SReg)
  /-- R343. Issue one participant's command of a collective. -/
  | ecoll (m : Bool) (x : SReg) (y : SReg) (z : SReg) (eng : BitVec 3)
  /-- R344. Request a switch of the context's version group to a new version. -/
  | publish (m : Bool) (x : SReg)
  /-- R345. Read a consist's milepost into a scalar. -/
  | eseqMilepost (m : Bool) (x : SReg) (eng : BitVec 3)
  /-- R345. Read the sequence number of the wave's last command on a consist. -/
  | eseqLast (m : Bool) (x : SReg) (eng : BitVec 3)
  /-- R346. Wait until a consist's milepost reaches a sequence number. -/
  | ewait (m : Bool) (x : SReg) (eng : BitVec 3)
  /-- R348. Apply one adaptive-optimizer step to selected parameter rows. -/
  | optstep (m : Bool) (x : SReg) (y : SReg)
  /-- R350. Rewrite decaying words whose age reached 2^14. -/
  | dsweep (m : Bool) (x : SReg) (eng : BitVec 2)
  /-- R229. Once the wave's earlier accesses are performed, its threads' arrivals are counted. -/
  | barrierArrive (wave : Nat)
  /-- R38. Combined arrivals reach the platform tree's root and the tier-wide phase completes. -/
  | treeBarrierPhaseComplete (launch plat unit : Nat)
  /-- R221. An ended wave's slot is freed once its counters reach 0. -/
  | waveSlotFree (wave : Nat)
  /-- R83. A long-latency result arrives, releasing a parked wave when all owed results are in. -/
  | resultArrival (wave id : Nat)
  /-- R152. A store or no-return write is applied at its performance point and leaves the counter. -/
  | storePerformed (wave id : Nat)
  /-- R161. An atomic is applied at the home slice or scratchpad and its old value bound. -/
  | atomicPerformed (wave id : Nat)
  /-- R159. A die makes a write from another die visible after its causal predecessors. -/
  | writeMadeVisible (die id : Nat)
  /-- R69. A waiting blocking XACQ or mode-switch re-charge receives its lane-registers in order. -/
  | xacqGrant (core quad : Nat)
  /-- R71. After 1,024 cycles of the deadlock condition, the blocked waves trap. -/
  | deadlockTrap (core : Nat)
  /-- R308. Once the load counter is 0, the wave pins the current version indivisibly. -/
  | vpinPin (wave : Nat)
  /-- R310. Once the load counter is 0, the pin is released and its backing may become free. -/
  | vunpinRelease (wave : Nat)
  /-- R163. A consist command begins after its predecessor's writes, reading and checking its records. -/
  | engineCommandBegin (cid ring : Nat)
  /-- R149. An engine landing of n bytes updates its arrival word's COUNT and GEN. -/
  | arrive (cid ring n : Nat)
  /-- R164. A fully written throw granule's shadow bytes become visible in one event. -/
  | pointsThrow (cid ring : Nat)
  /-- R335. A consist's milepost advances as its commands complete. -/
  | milepostWrite (cid ring : Nat)
  /-- R339. After a copy's last byte lands, its follow-on MM word goes to the matrix unit. -/
  | followOnIssue (cid ring : Nat)
  /-- R317. A queued matrix instruction starts when its queue and interlocks allow. -/
  | matrixQueueStart (core queue : Nat)
  /-- R325. A matrix instruction reaches its completion point and lowers its slot. -/
  | matrixInstructionComplete (core queue : Nat)
  /-- R275. After old runs drain, a table load writes the non-current bank and switches. -/
  | activationTableSwitch (cid ring core : Nat)
  /-- R343. When all participants' commands have begun, the collective takes effect. -/
  | collectiveExecute (part group cseq : Nat)
  /-- R170. After the group's writers finish, PUBLISH switches versions or answers busy. -/
  | publishSwitch (wave id : Nat)
  /-- R371. At a trap point, the wave writes its frame and enters its handler. -/
  | trapEntry (wave : Nat)
  /-- R375. A save handler running beyond SAVELIM is a handler fault. -/
  | saveLimitExpiry (wave : Nat)
  /-- R380. Once every wave of a unit reaches its pre-emption point, all handlers start with cause 0x0E. -/
  | preemptionHandlerStart (unit : Nat)
  /-- R372. A saved wave leaves the core once its load and store counters are 0. -/
  | waveLeavesCore (wave : Nat)
  /-- R382. The Signalbox resumes a saved unit at a chosen grant. -/
  | unitResume (unit : Nat)
  /-- R383. A unit's held resume returns take effect once all have returned and store counters are 0. -/
  | resumeRelease (unit : Nat)
  /-- R386. Retiring pages are unmapped once no wave holds their epoch. -/
  | codeSwapRetire (cid epoch : Nat)
  /-- R244. At each multiple of PERIOD the sampler records each sampled wave. -/
  | sampleTake (core : Nat)
  /-- R394. A Junction claims the head unit of its queue when its die can hold it. -/
  | junctionClaim (junction launch : Nat)
  /-- R395. An empty Junction asks another for work. -/
  | stealRequest (thief launch : Nat)
  /-- R395. A victim's reply delivers its tail unit or none. -/
  | stealReply (victim thief launch : Nat)
  /-- R397. The Signalbox places a claimed unit or gang and writes its bind records. -/
  | unitPlacement (junction launch : Nat)
  /-- R400. Dispatch checks, charges and starts one pending bind record. -/
  | dispatch (die index : Nat)
  /-- R401. Each 2^26 cycles of waiting raises a launch's effective priority. -/
  | priorityAging (launch : Nat)
  /-- R401. After 2^22 cycles unplaced, the Signalbox pre-empts lower-priority units. -/
  | preemptionDecision (launch : Nat)
  /-- R402. A launch resident for TLIMIT units is ended. -/
  | timeLimitExpiry (launch : Nat)
  /-- R403. After every write is performed, the Signalbox writes the completion record and digest. -/
  | launchComplete (launch : Nat)
  /-- R387. A serialised re-execution ends and its digest outcome is recorded. -/
  | serialisedReexecutionEnd (launch : Nat)
  /-- R413. A TLB fills an entry from a valid page-table entry. -/
  | tlbFill (tlb cid va : Nat)
  /-- R415. The done word is written once stale entries and their accesses are gone. -/
  | invalidateDone (id : Nat)
  /-- R419. A fault held by a full ring opens its record when the slot is freed. -/
  | heldFaultOpen (part : Nat)
  /-- R435. The owning device performs or refuses a sharded access arriving over Trunk. -/
  | shardedOwnerAccess (dev mcid va ssn kind data : Nat)
  /-- R435. The owner's answer reaches the requester, completing the access or registering reason 6. -/
  | shardedOwnerAnswer (wave id tid ok data : Nat)
  /-- R424. An evicted dirty line with an uncorrectable granule is poisoned and charged to its writer. -/
  | lineEvictionError (granule : Nat)
  /-- R447. The pile logic die scrubs memory and poisons uncorrectable granules. -/
  | scrubPass (pile granule unit corrected : Nat)
  /-- R448. A predictive counter's window ends and the count restarts. -/
  | predictiveWindow (unit corrected : Nat)
  /-- R440. A doorbell write sets a queue's tail, or is dropped or raises a queue error. -/
  | doorbellWrite (fn queue value : Nat) (relaxed : Bool)
  /-- R437. A write to a queue entry, I3C or other register without a row of its own. -/
  | registerWrite (port reg value : Nat)
  /-- R390. Launch request: read, check and queue a launch record. -/
  | launch (fn queue : Nat)
  /-- R365. Create a context from its descriptor. -/
  | contextCreate (fn queue : Nat)
  /-- R376. End a context, cancelling waves and releasing its resources. -/
  | contextEnd (fn queue : Nat)
  /-- R380. Request pre-emption of a context on a set of cores. -/
  | preempt (fn queue : Nat)
  /-- R415. Request removal of stale translations. -/
  | invalidate (fn queue : Nat)
  /-- R420. Apply a claimed fault record's replay and cancel masks. -/
  | faultResolve (fn queue : Nat)
  /-- R386. Raise the code epoch and mark pages retiring. -/
  | codeSwap (fn queue : Nat)
  /-- R366. Reload the decay factor table from DFTAB. -/
  | decayTableReload (fn queue : Nat)
  /-- R430. Create a versioned range and join it to the owner's group. -/
  | rangeCreate (fn queue : Nat)
  /-- R431. Destroy a versioned range, or answer busy. -/
  | rangeDestroy (fn queue : Nat)
  /-- R433. Configure a shard set. -/
  | shardSet (fn queue : Nat)
  /-- R445. Configure a collective group's rank list. -/
  | collectiveGroup (fn queue : Nat)
  /-- R425. Configure a partition from its descriptor. -/
  | partition (fn queue : Nat)
  /-- R449. Start self-test of named units once they are idle. -/
  | selfTest (fn queue : Nat)
  /-- R449. Self-test of every named unit is done; completion and event written. -/
  | selfTestDone (pass : Nat)
  /-- R446. Set the device number, links and route table. -/
  | trunkConfigure (fn queue : Nat)
  /-- R458. Write a signed attestation report, or refuse when no index remains. -/
  | attest (fn queue : Nat)
  /-- R463. Set a lower package power limit. -/
  | powerLimit (fn queue : Nat)
  /-- R452. Set the device error record's base and size. -/
  | errorRecord (fn queue : Nat)
  /-- R453. Set the predictive counter thresholds. -/
  | predictiveThresholds (fn queue : Nat)
  /-- R442. A Trunk flit arrives; CRC failures are retried from the replay buffer. -/
  | trunkFlitReceive (link flow seq : Nat) (crcOk : Bool) (body : List Nat)
  /-- R442. A link failing 64 retries of one flit is taken down and reported. -/
  | linkDown (link : Nat)
  /-- R444. An exchange-tick pulse advances the tick count and deterministic exchange rounds. -/
  | exchangeTick
  /-- R444. No pulse for 2^30 cycles is logged as a unit error. -/
  | tickLoss
  /-- R454. Power-on or PERST# resets and wipes the device and verifies firmware. -/
  | coldReset (verified : Bool)
  /-- R454. A Function Level Reset of PF0 resets and wipes the device. -/
  | deviceReset
  /-- R454. A Function Level Reset of PF1-PF8 ends and wipes one partition. -/
  | partitionReset (part : Nat)
  /-- R454. A wipe completes and affected functions answer configuration reads again. -/
  | wipeComplete
  /-- R463. I3C THERM write 1 takes the clock to 1.0 GHz at once. -/
  | thermalRequest
  /-- R461. I3C THERM write 0 withdraws the thermal request. -/
  | thermalWithdraw
  /-- R462. Append life-cycle token bytes to the buffer. -/
  | lcbufWrite (byte : Nat)
  /-- R462. LCCMD write 1 checks the token and advances the life-cycle state. -/
  | lcApply
  /-- R461. LCCMD write 2 discards the token buffer. -/
  | lcDiscard
  /-- R463. Power above the limit for 2^22 cycles lowers the clock by 100 MHz. -/
  | clockLower
  /-- R463. Power below 95% of the limit for 2^26 cycles raises the clock. -/
  | clockRaise
  /-- R448. A Trunk link or the host link retrains, and the lane-margin predictive counter is evaluated at that retrain. -/
  | linkRetrain (unit below : Nat)
  /-- R419. A host PCIe AtomicOp CAS or FetchAdd reaches device memory, for example to claim a fault record, and is subject to the partition checks. -/
  | pcieAtomicop (fn addr op size operand : Nat)
  /-- R420. A thread's instruction fetch completes, delivering the word or forming a siding or the instruction-fetch trap at the fetched address. -/
  | instructionFetch (wave tid : Nat)
  deriving DecidableEq, Repr

end Sys2Proof
end

