-- ==== Sys2Proof/Machine/Float.lean ====
section
/-! DEFINITION. Floating-point values, rounding and the numeric helpers of 03: exact values as
ratios of natural numbers, one rounding into a format, the rounding stream generator, the digit
count and the mean of siblings. -/

namespace Sys2Proof.Machine

/-- A floating-point format (03 R96): exponent bits, fraction bits, and whether the all-ones exponent
holds infinity and NaN (`ieee`) or ordinary values but for one NaN (E4M3). -/
structure Fmt where
  eb : Nat
  fb : Nat
  ieee : Bool
  snan : Bool
  deriving DecidableEq, Repr

def fp32 : Fmt := ⟨8, 23, true, true⟩
def bf16 : Fmt := ⟨8, 7, true, true⟩
def fp16 : Fmt := ⟨5, 10, true, true⟩
def e4m3 : Fmt := ⟨4, 3, false, false⟩
def e5m2 : Fmt := ⟨5, 2, true, false⟩

/-- The exponent bias (03 R96). -/
def Fmt.bias (f : Fmt) : Nat := 2 ^ (f.eb - 1) - 1
/-- The exponent of the smallest normal value (03 R97). -/
def Fmt.emin (f : Fmt) : Int := 1 - (f.bias : Int)
/-- The exponent of the binade above the largest finite value (03 R106): 2^(emax+1). -/
def Fmt.etop (f : Fmt) : Int := if f.ieee then (f.bias : Int) + 1 else (f.bias : Int) + 2
/-- Width without the sign bit. -/
def Fmt.mag (f : Fmt) : Nat := f.eb + f.fb
/-- The precision p (03 R96). -/
def Fmt.prec (f : Fmt) : Nat := f.fb + 1
/-- The bits of the largest finite value (03 R97). -/
def Fmt.maxFin (f : Fmt) : Nat := if f.ieee then (2 ^ f.eb - 1) * 2 ^ f.fb - 1 else 2 ^ f.mag - 2
/-- The bits of infinity, in the formats that have it (03 R97). -/
def Fmt.infBits (f : Fmt) : Nat := (2 ^ f.eb - 1) * 2 ^ f.fb
/-- The canonical NaN (03 R97, R99). -/
def Fmt.qnan (f : Fmt) : Nat :=
  if f.ieee then (2 ^ f.eb - 1) * 2 ^ f.fb + 2 ^ (f.fb - 1) else 2 ^ f.mag - 1
/-- The sign bit. -/
def Fmt.signBit (f : Fmt) (neg : Bool) : Nat := if neg then 2 ^ f.mag else 0

/-- A decoded value (03 R96): finite values are ± n/d exactly. -/
inductive FV where
  | nan (signalling : Bool)
  | inf (neg : Bool)
  | fin (neg : Bool) (n d : Nat)
  deriving DecidableEq, Repr

/-- The magnitude k × 2^e as a ratio. -/
def dyadic (k : Nat) (e : Int) : Nat × Nat :=
  if 0 ≤ e then (k * 2 ^ e.toNat, 1) else (k, 2 ^ (-e).toNat)

/-- Decode a bit pattern (03 R96, R99). -/
def fdec (f : Fmt) (bits : Nat) : FV :=
  let neg := tst bits f.mag
  let e := bitsAt bits f.fb f.eb
  let fr := bitsAt bits 0 f.fb
  if f.ieee && e == 2 ^ f.eb - 1 then
    if fr == 0 then .inf neg else .nan (f.snan && !tst fr (f.fb - 1))
  else if !f.ieee && bitsAt bits 0 f.mag == 2 ^ f.mag - 1 then .nan false
  else if e == 0 then
    let q := dyadic fr (f.emin - f.fb)
    .fin neg q.1 q.2
  else
    let q := dyadic (2 ^ f.fb + fr) (f.emin - f.fb + (e - 1 : Nat))
    .fin neg q.1 q.2

/-- The flag bits of `aflag` (02 R76). -/
def fNV : Nat := 1
def fDZ : Nat := 2
def fOF : Nat := 4
def fUF : Nat := 8
def fNX : Nat := 16

/-- How one rounding is made: a static mode (03 R101), a drawn direction (which is `ru` or `rd`), or
stochastic-proportional with its word (03 R106). -/
inductive Rnd where
  | rn
  | rz
  | ru
  | rd
  | sp (word : Nat)
  deriving DecidableEq, Repr

/-- An exact result before rounding. `cancel` is a zero that a sum of nonzero or opposite terms makes. -/
inductive Ex where
  | nan
  | inf (neg : Bool)
  | zero (neg : Bool)
  | cancel
  | fin (neg : Bool) (n d : Nat)
  deriving DecidableEq, Repr

/-- An exact result with the flags its operation set. -/
structure Exact where
  v : Ex
  fl : Nat
  deriving DecidableEq, Repr

/-- Delivered bits and flags. -/
structure FRes where
  bits : Nat
  fl : Nat
  deriving DecidableEq, Repr

/-- ⌊log2 (n/d)⌋ for positive n and d. -/
def ilog (n d : Nat) : Int :=
  let e : Int := (n.log2 : Int) - (d.log2 : Int)
  let below := if 0 ≤ e then n < d * 2 ^ e.toNat else n * 2 ^ (-e).toNat < d
  if below then e - 1 else e

/-- n/d in units of 2^q: whole units, remainder, and the divisor of the remainder. -/
def units (n d : Nat) (q : Int) : Nat × Nat × Nat :=
  let a := if 0 ≤ q then n else n * 2 ^ (-q).toNat
  let b := if 0 ≤ q then d * 2 ^ q.toNat else d
  (a / b, a % b, b)

/-- Whether a magnitude k + r/b (0 < r < b) rounds up in magnitude (03 R101, R106). -/
def roundsUp (rule : Rnd) (neg : Bool) (k r b : Nat) : Bool :=
  if r == 0 then false else
  match rule with
  | .rn => decide (b < 2 * r) || (2 * r == b && k % 2 == 1)
  | .rz => false
  | .ru => !neg
  | .rd => neg
  | .sp w =>
    if neg then !decide (w < (b - r) * 2 ^ 32 / b) else decide (w < r * 2 ^ 32 / b)

/-- The magnitude bits, beyond the largest finite value too, of n/d rounded with the exponent not
below `lo`. -/
def roundMag (f : Fmt) (rule : Rnd) (neg : Bool) (n d : Nat) : Nat × Bool :=
  let e := max (ilog n d) f.emin
  let q := e - f.fb
  let u := units n d q
  let k := if roundsUp rule neg u.1 u.2.1 u.2.2 then u.1 + 1 else u.1
  ((e - f.emin).toNat * 2 ^ f.fb + k, u.2.1 != 0)

/-- The exact value rounded with unbounded exponent lies strictly below the smallest normal (03 R98). -/
def tiny (f : Fmt) (rule : Rnd) (neg : Bool) (n d : Nat) : Bool :=
  let e := ilog n d
  if f.emin ≤ e then false
  else
    let u := units n d (e - f.fb)
    let k := if roundsUp rule neg u.1 u.2.1 u.2.2 then u.1 + 1 else u.1
    !(e + 1 == f.emin && k == 2 ^ (f.fb + 1))

/-- What an overflowing rounding delivers (03 R98, R100, R106); `top` says that the stand-in of the
stochastic-proportional rule was chosen. -/
def overflowBits (f : Fmt) (rule : Rnd) (sat : Bool) (neg : Bool) : Nat :=
  if sat then f.maxFin
  else if !f.ieee then f.qnan
  else
    match rule with
    | .rn => f.infBits
    | .rz => f.maxFin
    | .ru => if neg then f.maxFin else f.infBits
    | .rd => if neg then f.infBits else f.maxFin
    | .sp _ => f.infBits

/-- Overflow as delivered, OF and NX set. A canonical NaN has positive sign (03 R99). -/
def overflow (f : Fmt) (rule : Rnd) (sat neg : Bool) : FRes :=
  let b := overflowBits f rule sat neg
  ⟨(if !sat && !f.ieee then b else b + f.signBit neg), fOF + fNX⟩

/-- Round a positive ratio once into a format (03 R98, R100, R106). -/
def roundFin (f : Fmt) (rule : Rnd) (sat : Bool) (neg : Bool) (n d : Nat) : FRes :=
  let ordinary : FRes :=
    let m := roundMag f rule neg n d
    if f.maxFin < m.1 then overflow f rule sat neg
    else
      ⟨m.1 + f.signBit neg,
        if m.2 then fNX + (if tiny f rule neg n d then fUF else 0) else 0⟩
  match rule with
  | .sp w =>
    let top := dyadic 1 f.etop
    if top.1 * d ≤ n * top.2 then overflow f rule sat neg
    else if f.ieee then ordinary
    else
      -- E4M3: between 448 and 512 the neighbours are those two values
      if n ≤ 448 * d then ordinary
      else
        let r := n - 448 * d
        let b := 64 * d
        if roundsUp (.sp w) neg 0 r b then overflow f rule sat neg
        else ⟨f.maxFin + f.signBit neg, fNX⟩
  | _ => ordinary

/-- Round an exact result once into a format. Inexact deliveries set NX (03 R98). -/
def fround (f : Fmt) (rule : Rnd) (sat : Bool) (x : Exact) : FRes :=
  match x.v with
  | .nan => ⟨f.qnan, x.fl⟩
  | .inf neg =>
    if f.ieee then ⟨(if sat then f.maxFin else f.infBits) + f.signBit neg, x.fl⟩
    else if sat then ⟨f.maxFin + f.signBit neg, x.fl⟩ else ⟨f.qnan, x.fl ||| fNV⟩
  | .zero neg => ⟨f.signBit neg, x.fl⟩
  | .cancel => ⟨f.signBit (rule == .rd), x.fl⟩
  | .fin neg n d =>
    let r := roundFin f rule sat neg n d
    ⟨r.bits, r.fl ||| x.fl⟩

/-- An exact signed ratio as an exact result. -/
def exOfInt (n : Int) (d : Nat) : Ex :=
  if n == 0 then .cancel else .fin (decide (n < 0)) n.natAbs d

/-- The flags of NaN operands: NV for a signalling one (03 R99). -/
def nanFlag : List FV → Nat
  | [] => 0
  | .nan true :: _ => fNV
  | _ :: l => nanFlag l

/-- Some operand is a NaN. -/
def anyNan : List FV → Bool
  | [] => false
  | .nan _ :: _ => true
  | _ :: l => anyNan l

/-- The signed numerator of a finite value. -/
def snum (neg : Bool) (n : Nat) : Int := if neg then -(n : Int) else n

/-- Change the sign. -/
def FV.negate : FV → FV
  | .nan s => .nan s
  | .inf g => .inf (!g)
  | .fin g n d => .fin (!g) n d

/-- Exact sum (03 R98). -/
def fadd (a b : FV) : Exact :=
  if anyNan [a, b] then ⟨.nan, nanFlag [a, b]⟩
  else
    match a, b with
    | .inf x, .inf y => if x == y then ⟨.inf x, 0⟩ else ⟨.nan, fNV⟩
    | .inf x, _ => ⟨.inf x, 0⟩
    | _, .inf y => ⟨.inf y, 0⟩
    | .fin x n d, .fin y m e =>
      if n == 0 && m == 0 && x == y then ⟨.zero x, 0⟩
      else ⟨exOfInt (snum x n * e + snum y m * d) (d * e), 0⟩
    | _, _ => ⟨.nan, 0⟩

/-- Exact product. -/
def fmul (a b : FV) : Exact :=
  if anyNan [a, b] then ⟨.nan, nanFlag [a, b]⟩
  else
    match a, b with
    | .inf x, .inf y => ⟨.inf (x != y), 0⟩
    | .inf x, .fin y m _ => if m == 0 then ⟨.nan, fNV⟩ else ⟨.inf (x != y), 0⟩
    | .fin x n _, .inf y => if n == 0 then ⟨.nan, fNV⟩ else ⟨.inf (x != y), 0⟩
    | .fin x n d, .fin y m e =>
      if n == 0 || m == 0 then ⟨.zero (x != y), 0⟩ else ⟨.fin (x != y) (n * m) (d * e), 0⟩
    | _, _ => ⟨.nan, 0⟩

/-- An exact result read as a value again (the product of a fused form). -/
def Ex.value : Ex → FV
  | .nan => .nan false
  | .inf g => .inf g
  | .zero g => .fin g 0 1
  | .cancel => .fin false 0 1
  | .fin g n d => .fin g n d

/-- Exact a × b + c, rounded once by the caller (03 R98). -/
def ffma (a b c : FV) : Exact :=
  if anyNan [a, b] then
    ⟨.nan, nanFlag [a, b, c]⟩
  else
    let p := fmul a b
    match p.v with
    | .nan => ⟨.nan, p.fl ||| nanFlag [c]⟩
    | v => fadd v.value c

/-- Exact quotient (03 R98): NV for 0/0 and ∞/∞, DZ for a finite nonzero value over zero. -/
def fdiv (a b : FV) : Exact :=
  if anyNan [a, b] then ⟨.nan, nanFlag [a, b]⟩
  else
    match a, b with
    | .inf _, .inf _ => ⟨.nan, fNV⟩
    | .inf x, .fin y _ _ => ⟨.inf (x != y), 0⟩
    | .fin x _ _, .inf y => ⟨.zero (x != y), 0⟩
    | .fin x n d, .fin y m e =>
      if m == 0 then (if n == 0 then ⟨.nan, fNV⟩ else ⟨.inf (x != y), fDZ⟩)
      else if n == 0 then ⟨.zero (x != y), 0⟩
      else ⟨.fin (x != y) (n * e) (d * m), 0⟩
    | _, _ => ⟨.nan, 0⟩

/-- A value as an exact result (conversions). -/
def fexact (a : FV) : Exact :=
  match a with
  | .nan s => ⟨.nan, if s then fNV else 0⟩
  | .inf g => ⟨.inf g, 0⟩
  | .fin g n d => if n == 0 then ⟨.zero g, 0⟩ else ⟨.fin g n d, 0⟩

/-- An integer as an exact result; zero is +0. -/
def exOfZ (i : Int) : Exact := if i == 0 then ⟨.zero false, 0⟩ else ⟨.fin (decide (i < 0)) i.natAbs 1, 0⟩

/-- Newton steps for the integer square root, from above. -/
def isqrtLoop (n : Nat) : Nat → Nat → Nat
  | 0, x => x
  | k + 1, x =>
    let y := (x + n / x) / 2
    if y < x then isqrtLoop n k y else x

/-- ⌊√n⌋. -/
def isqrt (n : Nat) : Nat :=
  if n == 0 then 0 else isqrtLoop n (n.log2 + 2) (2 ^ (n.log2 / 2 + 1))

/-- A positive real known to lie strictly between r/2^k and (r+1)/2^k, or to equal r/2^k, as a ratio that
every rounding decision at a multiple of 2^-k treats as it treats the real. -/
def sticky (r k : Nat) (exact : Bool) : Nat × Nat :=
  if exact then (r, 2 ^ k) else (2 * r + 1, 2 ^ (k + 1))

/-- The square root (03 R98); √x for x below −0 is invalid. -/
def fsqrt (a : FV) : Exact :=
  match a with
  | .nan s => ⟨.nan, if s then fNV else 0⟩
  | .inf g => if g then ⟨.nan, fNV⟩ else ⟨.inf false, 0⟩
  | .fin g n d =>
    if n == 0 then ⟨.zero g, 0⟩
    else if g then ⟨.nan, fNV⟩
    else
      let m := n * d * 2 ^ 400
      let r := isqrt m
      -- √(n/d) = √(n d) / d
      let q := sticky (r / d) 200 (r * r == m && r % d == 0)
      ⟨.fin false q.1 q.2, 0⟩

/-- n/d compared with m/e. -/
def qlt (n d m e : Nat) : Bool := decide (n * e < m * d)

/-- The order of two values that are not NaN, −0 equal to +0: less. -/
def flt (a b : FV) : Bool :=
  match a, b with
  | .inf x, .inf y => x && !y
  | .inf x, .fin _ _ _ => x
  | .fin _ _ _, .inf y => !y
  | .fin x n d, .fin y m e => decide (snum x n * (e : Int) < snum y m * (d : Int))
  | _, _ => false

/-- Equality of two values that are not NaN. -/
def feq (a b : FV) : Bool :=
  match a, b with
  | .inf x, .inf y => x == y
  | .fin x n d, .fin y m e => snum x n * (e : Int) == snum y m * (d : Int)
  | _, _ => false

/-- `MulRn32` (03 R132): one rounding to nearest even, no flag. -/
def mulRn32 (a b : Nat) : Nat := (fround fp32 .rn false (fmul (fdec fp32 a) (fdec fp32 b))).bits

/-- `AddRn32` (03 R136, R139). -/
def addRn32F (a b : Nat) : FRes := fround fp32 .rn false (fadd (fdec fp32 a) (fdec fp32 b))

/-- `AddRn32` without its flags. -/
def addRn32 (a b : Nat) : Nat := (addRn32F a b).bits

/-- `RoundRn32` of an exact signed ratio (03 R118); an exact zero is +0. -/
def roundRn32 (n : Int) (d : Nat) : Nat := (fround fp32 .rn false ⟨exOfInt n d, 0⟩).bits

/-- Add modulo 2^32 (03 R105). -/
def add32 (a b : Nat) : Nat := (a + b) % 4294967296

/-- Rotate a 32-bit value left (03 R105). -/
def rotl32 (x n : Nat) : Nat := (x * 2 ^ n) % 4294967296 + x / 2 ^ (32 - n)

/-- One round of the generator, its state and keys. -/
def rsgRound (x0 x1 x2 x3 k0 k1 : Nat) : Nat × Nat × Nat × Nat :=
  let x0 := add32 (add32 x0 x1) k0
  let x3 := rotl32 (x3 ^^^ x0) 16
  let x2 := add32 (add32 x2 x3) k1
  let x1 := rotl32 (x1 ^^^ x2) 12
  let x0 := add32 x0 x1
  let x3 := rotl32 (x3 ^^^ x0) 8
  let x2 := add32 x2 x3
  let x1 := rotl32 (x1 ^^^ x2) 7
  (x1, x2, x3, x0)

/-- `n` rounds. -/
def rsgLoop : Nat → Nat × Nat × Nat × Nat → Nat → Nat → Nat × Nat × Nat × Nat
  | 0, x, _, _ => x
  | n + 1, (x0, x1, x2, x3), k0, k1 =>
    rsgLoop n (rsgRound x0 x1 x2 x3 k0 k1) (add32 k0 0x9E3779B9) (add32 k1 0xBB67AE85)

/-- The rounding stream generator (03 R105): the four words, word 0 first. -/
def rsg (seed id ctr : Nat) : List Nat :=
  let x0 := bitsAt ctr 0 32
  let x1 := bitsAt ctr 32 32
  let x2 := bitsAt id 0 32
  let x3 := bitsAt id 32 32
  let r := rsgLoop 10 (x0, x1, x2, x3) (bitsAt seed 0 32) (bitsAt seed 32 32)
  [add32 r.1 x0, add32 r.2.1 x1, add32 r.2.2.1 x2, add32 r.2.2.2 x3]

/-- How a stream word rounds under `nctl`.RSTREAM (02 R77, 03 R106). -/
def streamRule (rstream word : Nat) : Rnd :=
  if rstream == 1 then .sp word else if tst word 31 then .ru else .rd

/-- A static mode as a rounding; `.rs` never reaches this (03 R104). -/
def staticRule : RM → Rnd
  | .rn => .rn
  | .rz => .rz
  | .ru => .ru
  | .rd => .rd
  | .rs => .rn

/-- Signed numerators of three finite values over one denominator. -/
def common3 (a b c : FV) : Option (Int × Int × Int × Nat) :=
  match a, b, c with
  | .fin x n d, .fin y m e, .fin z k g => some (snum x n * (e * g : Nat), snum y m * (d * g : Nat), snum z k * (d * e : Nat), d * e * g)
  | _, _, _ => none

/-- The search of the digit count: the greatest c that passes (03 R108). -/
def digitLoop (lhs sq : Nat) : Nat → Nat
  | 0 => 0
  | c + 1 => if lhs < sq * 4 ^ (c + 1) then digitLoop lhs sq c else c + 1

/-- `DigitCount` (03 R108). With S the sum over one denominator and V the sum of (3x − S)^2, the test
3m^2 < 18.515809 s2 4^c reads 6·10^6 S^2 < 18515809 V 4^c. -/
def digitCount (p : Nat) (a b c : FV) : Nat :=
  if anyNan [a, b, c] then 0
  else
    match common3 a b c with
    | none => if feq a b && feq b c then p else 0
    | some (x, y, z, _) =>
      let s := x + y + z
      let v := (3 * x - s) ^ 2 + (3 * y - s) ^ 2 + (3 * z - s) ^ 2
      digitLoop (6000000 * (s ^ 2).toNat) (18515809 * v.toNat) p

/-- `Mean` in a format (03 R114); it sets no flag. -/
def fmean (f : Fmt) (a b c : FV) : Nat :=
  if anyNan [a, b, c] then f.qnan
  else
    match common3 a b c with
    | some (x, y, z, d) =>
      match a, b, c with
      | .fin true 0 _, .fin true 0 _, .fin true 0 _ => f.signBit true
      | _, _, _ => (fround f .rn false ⟨exOfInt (x + y + z) (3 * d), 0⟩).bits
    | none =>
      let infs := [a, b, c].filter (fun v => match v with | .inf _ => true | _ => false)
      if infs.any (· == .inf true) && infs.any (· == .inf false) then f.qnan
      else if infs.any (· == .inf true) then f.infBits + f.signBit true else f.infBits

/-- Order for the median: −∞ < finite < +∞ < NaN (03 R113). -/
def fle3 (a b : FV) : Bool :=
  match a, b with
  | _, .nan _ => true
  | .nan _, _ => false
  | _, _ => !flt b a

/-- The median of three values (03 R113). -/
def fmedian (a b c : FV) : FV :=
  if fle3 a b then (if fle3 b c then b else if fle3 a c then c else a)
  else (if fle3 a c then a else if fle3 b c then c else b)

/-- The 19-bit form of an md32 mean (03 R116, R117): FP32 with 18 fraction bits. -/
def md19 : Fmt := ⟨8, 18, true, true⟩

/-- An md32 word from three FP32 siblings (03 R117). -/
def md32Word (a b c : Nat) : Nat :=
  let x := fdec fp32 a
  let y := fdec fp32 b
  let z := fdec fp32 c
  fmean md19 x y z * 32 + digitCount 24 x y z

/-- The md32 word of one value standing for three equal siblings: C = 24 (03 R115); a NaN is the canonical one with DIG 0 (08 R295). -/
def md32Single (a : Nat) : Nat :=
  let x := fdec fp32 a
  fmean md19 x x x * 32 + (if anyNan [x] then 0 else 24)

/-- The mean that an md32 word holds, as FP32 bits (03 R116). -/
def md32Mean (w : Nat) : Nat := w / 32 * 32

/-- The digit count of an md32 word; 25 to 31 read as 24. -/
def md32Dig (w : Nat) : Nat := min (w % 32) 24

/-- The three siblings rebuilt from an md32 word (03 R118). 0.4025 = 4025/10000. -/
def md32Load (w : Nat) : List Nat :=
  let mb := md32Mean w
  match fdec fp32 mb with
  | .nan _ => [fp32.qnan, fp32.qnan, fp32.qnan]
  | .inf _ => [mb, mb, mb]
  | .fin neg n d =>
    if n == 0 then [mb, mb, mb]
    else
      match fdec fp32 (roundRn32 (4025 * n : Nat) (10000 * d * 2 ^ md32Dig w)) with
      | .fin _ dn dd =>
        let m := snum neg n * dd
        [roundRn32 (m - dn * d) (d * dd), mb, roundRn32 (m + dn * d) (d * dd)]
      | _ => [mb, mb, mb]

/-- `DecayFactor` (03 R132): step i of 15, f and p so far. -/
def decayLoop : Nat → Nat → Nat → Nat → Nat
  | 0, _, f, _ => f
  | n + 1, age, f, p =>
    decayLoop n (age / 2) (if age % 2 == 1 then mulRn32 f p else f) (mulRn32 p p)

/-- `DecayFactor`, γ as FP32 bits. -/
def decayFactor (gamma age : Nat) : Nat := decayLoop 15 age 0x3F800000 gamma

/-- A decay factor as used: an entry outside 0 < γ ≤ 1 counts as 1.0 (03 R131). -/
def gammaUsed (bits : Nat) : Nat :=
  match fdec fp32 bits with
  | .fin false n d => if n != 0 && decide (n ≤ d) then bits else 0x3F800000
  | _ => 0x3F800000

end Sys2Proof.Machine
end

