-- ==== Sys2Proof/Machine/Transcend.lean ====
section
/-! DEFINITION. The special functions of 07 R265-R267 as exact results, conversions to integers (07
R270) and the exponential of the max-subtract-exponential-add pair (07 R278). A transcendental value
is given as a ratio that stands strictly inside the binary interval of width 2^-256 around it, so that
every rounding decision falls as it falls for the value itself (DEDUCED, log 10). -/

namespace Sys2Proof.Machine

/-- Working precision of the series, in bits. -/
def wp : Nat := 320

/-- The sum of 1/(k 2^k) from k on, in units of 2^-wp: n terms. -/
def ln2Loop : Nat → Nat → Nat
  | 0, _ => 0
  | n + 1, k => 2 ^ wp / (k * 2 ^ k) + ln2Loop n (k + 1)

/-- ln 2 in units of 2^-wp. -/
def ln2 : Nat := ln2Loop 330 1

/-- Taylor terms of e^x from term number k, `t` the term before. -/
def expLoop (x : Nat) : Nat → Nat → Nat → Nat
  | 0, _, _ => 0
  | n + 1, k, t =>
    let t' := t * x / 2 ^ wp / k
    t' + expLoop x n (k + 1) t'

/-- 2^f in units of 2^-256 for f = y / 2^wp, 0 ≤ f < 1, rounded down. -/
def exp2Frac (y : Nat) : Nat :=
  let x := y * ln2 / 2 ^ wp
  (2 ^ wp + expLoop x 72 1 (2 ^ wp)) / 2 ^ (wp - 256)

/-- 2^(n/d) as a value: exact for an integral exponent. Exponents beyond every rounding boundary are
held at -1000 and 400 (07 R265, R278). -/
def exp2 (n : Int) (d : Nat) : FV :=
  let i := n / (d : Int)
  let r := (n % (d : Int)).toNat
  if i < -1000 then .fin false (2 ^ 0 * 3) (2 ^ 1001)
  else if 400 < i then .fin false (2 ^ 401) 1
  else if r == 0 then
    let q := dyadic 1 i
    .fin false q.1 q.2
  else
    let m := 2 * exp2Frac (r * 2 ^ wp / d) + 1
    let q := dyadic m (i - 257)
    .fin false q.1 q.2

/-- Terms of artanh z from the odd power number k, in units of 2^-wp. -/
def atanhLoop (z2 : Nat) : Nat → Nat → Nat → Nat
  | 0, _, _ => 0
  | n + 1, k, t => t / k + atanhLoop z2 n (k + 2) (t * z2 / 2 ^ wp)

/-- log2 of m/2^23 for 2^23 ≤ m < 2^24, in units of 2^-256, rounded down. -/
def log2Frac (m : Nat) : Nat :=
  let z := (m - 2 ^ 23) * 2 ^ wp / (m + 2 ^ 23)
  2 * atanhLoop (z * z / 2 ^ wp) 105 1 z * 2 ^ 256 / ln2

/-- `fexf` (07 R265, R266). -/
def fexf (a : FV) : Exact :=
  match a with
  | .nan s => ⟨.nan, if s then fNV else 0⟩
  | .inf _ => ⟨.nan, fNV⟩
  | .fin g n d =>
    if d < n then ⟨.nan, fNV⟩
    else if n == 0 then ⟨.fin false 1 1, 0⟩
    else
      match exp2 (snum g n) d with
      | .fin _ p q => ⟨.fin false p q, 0⟩
      | _ => ⟨.nan, 0⟩

/-- `flog2` (07 R265, R266): a = m × 2^(e-23) with m of 24 bits. -/
def flog2 (a : FV) : Exact :=
  match a with
  | .nan s => ⟨.nan, if s then fNV else 0⟩
  | .inf g => if g then ⟨.nan, fNV⟩ else ⟨.inf false, 0⟩
  | .fin g n d =>
    if n == 0 then ⟨.inf true, fDZ⟩
    else if g then ⟨.nan, fNV⟩
    else
      let e := ilog n d
      let m := (units n d (e - 23)).1
      if m == 2 ^ 23 then (if e == 0 then ⟨.zero false, 0⟩ else exOfZ e)
      else
        let x : Int := e * 2 ^ 256 + log2Frac m
        ⟨exOfInt (2 * x + 1) (2 ^ 257), 0⟩

/-- `frcp` (07 R266): a value below 2^-126, for an operand above 1, sets UF although it may be exact. -/
def frcp (a : FV) : Exact :=
  let r := fdiv (.fin false 1 1) a
  match a with
  | .fin false n d => if d * 2 ^ 126 < n then ⟨r.v, r.fl ||| fUF⟩ else r
  | _ => r

/-- `frsqrt` (07 R266): ±∞ with DZ for a zero. -/
def frsqrt (a : FV) : Exact :=
  match a with
  | .nan s => ⟨.nan, if s then fNV else 0⟩
  | .inf g => if g then ⟨.nan, fNV⟩ else ⟨.zero false, 0⟩
  | .fin g n d =>
    if n == 0 then ⟨.inf g, fDZ⟩
    else if g then ⟨.nan, fNV⟩
    else fsqrt (.fin false d n)

/-- `fexpi` (07 R259): a × 2^b; an exponent beyond every boundary is held at ±500. -/
def fexpi (a : FV) (b : Int) : Exact :=
  match a with
  | .fin g n d =>
    if n == 0 then ⟨.zero g, 0⟩
    else
      let e := max (-500) (min 500 b)
      let q := dyadic 1 e
      ⟨.fin g (n * q.1) (d * q.2), 0⟩
  | v => fexact v

/-- A finite magnitude rounded to an integer. -/
def roundInt (rule : Rnd) (neg : Bool) (n d : Nat) : Nat :=
  let k := n / d
  if roundsUp rule neg k (n % d) d then k + 1 else k

/-- `frint` (07 R267) on FP32 bits. -/
def frint (rule : Rnd) (bits : Nat) : FRes :=
  match fdec fp32 bits with
  | .nan s => ⟨fp32.qnan, if s then fNV else 0⟩
  | .inf _ => ⟨bits, 0⟩
  | .fin g n d =>
    if n % d == 0 then ⟨bits, 0⟩
    else
      let k := roundInt rule g n d
      if k == 0 then ⟨fp32.signBit g, fNX⟩
      else ⟨(fround fp32 .rz false ⟨.fin g k 1, 0⟩).bits, fNX⟩

/-- Float to integer, the range given (07 R270): the integer and its flags. -/
def toInt (rule : Rnd) (lo hi : Int) (a : FV) : Int × Nat :=
  match a with
  | .nan _ => (0, fNV)
  | .inf g => (if g then lo else hi, fNV)
  | .fin g n d =>
    let k := snum g (roundInt rule g n d)
    if hi < k then (hi, fNV)
    else if k < lo then (lo, fNV)
    else (k, if n % d == 0 then 0 else fNX)

/-- `P(a, c)` = 2^(a − c) (07 R278); neither operand is a NaN. -/
def mseaP (a c : FV) : FV :=
  if feq a c then .fin false 1 1
  else
    match a, c with
    | .inf true, _ => .fin false 0 1
    | _, .inf false => .fin false 0 1
    | .inf false, _ => .inf false
    | _, .inf true => .inf false
    | .fin x n d, .fin y m e => exp2 (snum x n * e - snum y m * d) (d * e)
    | _, _ => .fin false 0 1

/-- `fmax` or `fmin` (07 R262) on FP32 bits: the delivered bits and NV for a signalling operand. -/
def fminmax (wantMax : Bool) (a b : Nat) : FRes :=
  let x := fdec fp32 a
  let y := fdec fp32 b
  let fl := nanFlag [x, y]
  match anyNan [x], anyNan [y] with
  | true, true => ⟨fp32.qnan, fl⟩
  | true, false => ⟨b, fl⟩
  | false, true => ⟨a, fl⟩
  | false, false =>
    let aLess := flt x y || (feq x y && tst a 31 && !tst b 31)
    ⟨(if aLess == wantMax then b else a), 0⟩

/-- `msea.max` for one sibling (07 R278): m and l as FP32 bits, and the new pair. -/
def mseaMax (rule : Rnd) (m l x : Nat) : Nat × Nat × Nat :=
  let vs := [fdec fp32 m, fdec fp32 l, fdec fp32 x]
  if anyNan vs then (fp32.qnan, fp32.qnan, nanFlag vs)
  else
    let m' := (fminmax true m x).bits
    let r := fround fp32 rule false (fmul (fdec fp32 l) (mseaP (fdec fp32 m) (fdec fp32 m')))
    (m', r.bits, r.fl)

/-- `msea.acc` for one sibling (07 R278). -/
def mseaAcc (rule : Rnd) (m l x : Nat) : Nat × Nat × Nat :=
  let vs := [fdec fp32 m, fdec fp32 l, fdec fp32 x]
  if anyNan vs then (fp32.qnan, fp32.qnan, nanFlag vs)
  else
    let r := fround fp32 rule false (fadd (fdec fp32 l) (mseaP (fdec fp32 x) (fdec fp32 m)))
    (m, r.bits, r.fl)

/-- `fclass` (07 R264) on FP32 bits. -/
def fclass (bits : Nat) : Nat :=
  match fdec fp32 bits with
  | .nan s => if s then 256 else 512
  | .inf g => if g then 1 else 128
  | .fin g n _ =>
    if n == 0 then (if g then 8 else 16)
    else if bitsAt bits 23 8 == 0 then (if g then 4 else 32)
    else if g then 2 else 64

/-- The sign of a finite term that is zero, if it is. -/
def zeroSign : FV → Option Bool
  | .fin g 0 _ => some g
  | _ => none

/-- A function record's fields read from its 1,056 bytes as a number (07 R274). -/
def actField (record lo : Nat) : Nat := bitsAt record lo 32

/-- `act` for one sibling (07 R277): `record` is the function's 1,056 bytes as a number. -/
def actEval (rule : Rnd) (record x : Nat) : FRes :=
  let xv := fdec fp32 x
  if anyNan [xv] then ⟨fp32.qnan, nanFlag [xv]⟩
  else
    let d1 := fadd xv (FV.negate (fdec fp32 (actField record 0)))
    let w := fmul d1.v.value (fdec fp32 (actField record 32))
    let fl := d1.fl ||| w.fl
    match w.v.value with
    | .nan _ => ⟨fp32.qnan, fl⟩
    | wv =>
      if flt wv (.fin false 0 1) then ⟨(if tst record 128 then x else actField record 64), fl⟩
      else if !flt wv (.fin false 64 1) then ⟨(if tst record 129 then x else actField record 96), fl⟩
      else
        match wv with
        | .fin _ n d =>
          let s := n / d
          let q : FV := .fin false (n % d) d
          let seg := 256 + 128 * s
          let c0 := fdec fp32 (actField record seg)
          let t1 := fmul (fdec fp32 (actField record (seg + 32))) q
          let t2a := fmul (fdec fp32 (actField record (seg + 64))) q
          let t2 := fmul t2a.v.value q
          let sum1 := fadd c0 t1.v.value
          let sum := fadd sum1.v.value t2.v.value
          let fl2 := fl ||| nanFlag [c0] ||| t1.fl ||| t2a.fl ||| t2.fl ||| sum1.fl ||| sum.fl
          let v :=
            match sum.v with
            | .zero _ | .cancel =>
              match zeroSign c0, zeroSign t1.v.value, zeroSign t2.v.value with
              | some a, some b, some c => if a == b && b == c then Ex.zero a else .cancel
              | _, _, _ => .cancel
            | v => v
          fround fp32 rule false ⟨v, fl2⟩
        | _ => ⟨fp32.qnan, fl⟩

end Sys2Proof.Machine
end

