-- ==== Sys2Proof/Config.lean ====
section
/-! DEFINITION. What the manual leaves open: free values, which nothing can evaluate, and the facts of a
device that the manual gives no value for. -/

namespace Sys2Proof

/-- Free values (log 4): value number `i` of draw `n`. No body: a statement holds whatever they are. -/
opaque Config.freeBits : Nat → Nat → W64

/-- The base of a context's register aperture, a 4 GiB boundary below 2^56 (02 R90, log 18): `apbase` is
2^32 times the low 24 bits. -/
opaque Config.apSlot : Nat → BitVec 24

/-- The SHAKE256 digest of each running firmware image (15 R458, log 12). -/
opaque Config.firmwareDigest : Nat → BitVec 512

/-- The device's XMSS signature of 9,732 bytes, with one index, over the bytes of a report (15 R456-R458, log 12). -/
opaque Config.xmssSign : Nat → List Byte → Vector Byte 9732

/-- The signature by the Seraux life-cycle key over a token's first 32 bytes (15 R462, log 12). -/
opaque Config.tokenSign : List Byte → Vector Byte 9732

/-- Other signatures that verify over a token's first 32 bytes: an XMSS key makes more than one (15 R462, log 12). -/
opaque Config.xmssAccepts : List Byte → List Byte → Bool

/-- A life-cycle token's signature verifies over its first 32 bytes (15 R462, log 12). -/
def Config.xmssVerify (message signature : List Byte) : Bool :=
  signature == (Config.tokenSign message).toList || Config.xmssAccepts message signature

/-- The signature of a firmware image that the boot ROM finds verifies (15 R456, log 12), by the number of the attempt and the image. -/
opaque Config.imageSigned : Nat → Nat → Bool

/-- It was made with the production key (15 R455, log 12). -/
opaque Config.imageProduction : Nat → Nat → Bool

/-- The security version of a firmware image, by the number of the attempt and the image (15 R456, log 12). -/
opaque Config.imageVersion : Nat → Nat → Nat

/-- The fused minimum of an image's security version (15 R456, log 12). -/
opaque Config.fusedVersion : Nat → Nat

/-- The device's serial number (15 R462). -/
opaque Config.serial : BitVec 128

/-- The SHAKE256 digest of a partition descriptor (15 R458, log 12). -/
opaque Config.shake256 : List Byte → BitVec 512

/-- The measured package power in watts by cycle, and the temperature of the hottest die as TEMP gives it: the outside decides (15 R461, R463;
log 36). -/
opaque Config.power : Nat → Nat
opaque Config.temperature : Nat → BitVec 16

/-- The nonce of the next life-cycle token, by attempt (15 R461). -/
opaque Config.nonce : Nat → W64

/-- The fused minimum and running security versions, as the report carries them (15 R458). -/
opaque Config.secVersions : List Byte

/-- HOLD of a thread record (12 R373): the hardware's own record of a barrier or wait, by number (log 20). -/
opaque Config.holdWord : Nat → W64

/-- Steps of a deterministic collective, less one, by OP and NPART: the manual says that these two fix the number and does not give it
(15 R444, log 66). -/
opaque Config.collSteps : Nat → Nat → Nat

/-- Granules of 32 bytes in a line of the last-level cache, less one (14 R423): the manual gives no size (log 64). -/
opaque Config.lineGranules : Nat

/-- The slice of the last-level cache, as a unit of kind 3 (15 R450), that serves a line while the units of a list are fenced: the manual
gives no mapping (log 64). -/
opaque Config.sliceOf : List Nat → Nat → Nat

/-- The stepping of this device, as R198 encodes it: A0. The cycle figures of 02 R84 hold for it. -/
def Config.stepping : Nat := 0x4130

end Sys2Proof
end

