-- ==== Sys2Proof/Machine/State.lean ====
section
/-! DEFINITION. The state of the device as plain data: threads, waves, level-2 units, cores, contexts,
launches, partitions, memory, host functions, links and management registers, each with the rule of
spec/ that names it. -/

namespace Sys2Proof.Machine

/-- Why the machine stops. -/
inductive Fault where
  /-- A word is executed while no resident wave stands at hand (`State.cur`): there is nothing for it to
  act on. Raised by `exec` alone; `step` always puts a wave at hand. Safe: the run stops. -/
  | noExecution
  deriving DecidableEq, Repr

/-- Why an instruction has no meaning. -/
inductive Refusal where
  /-- The instruction of this mnemonic has no meaning in the model yet. Raised by `exec`. Safe. -/
  | notModelled (mnemonic : String)
  deriving DecidableEq, Repr

/-- What a 32-bit register copy holds: a value, or an undefined value (02 R88, 00 R8). -/
inductive Cell where
  | val (w : W32)
  | undef
  deriving DecidableEq, Repr

/-- A window entry (02 R60-R62): one value for each sibling, none when undefined; whether it is a
64-bit result; and the place count from which it reads correctly (02 R84). -/
structure WinEntry where
  vals : List W64
  wide : Bool
  due : Nat
  deriving DecidableEq, Repr

/-- Thread states (01 R31). -/
inductive TState where
  | ready
  | awaiting
  | atRcb
  | atBarrier
  | waiting
  | inSiding
  | exited
  deriving DecidableEq, Repr

/-- On what a thread that is not Ready stands (01 R31, 12 R373 HOLD). -/
inductive Hold where
  | none
  /-- named barrier of the unit and the phase it waits for -/
  | named (bar phase : Nat)
  /-- tree barrier of a platform and the phase it waits for -/
  | tree (plat phase : Nat)
  /-- an arrival word's offset and the generation (06 R230) -/
  | gen (off g : Nat)
  /-- a consist and the count of its milepost (09 R346) -/
  | milepost (consist count : Nat)
  /-- a blocking XACQ (02 R67) -/
  | xacq (n : Nat)
  /-- a mode switch that waits for lane-registers (06 R234) -/
  | recharge (triple : Bool)
  /-- the join of a mode switch (06 R234); `rcb` itself when `none` -/
  | join (mode : Option Bool)
  /-- WAITC on a counter at or below n (08 R306) -/
  | waitc (c n : Nat)
  /-- FENCE.W, for the results with these numbers (08 R307) -/
  | fence (ids : List Nat)
  /-- VPIN of a group's owner, waiting for the load counter (08 R308) -/
  | vpin (owner : Nat)
  /-- VUNPIN, waiting for the load counter (08 R310) -/
  | vunpin
  /-- a barrier arrival waiting for performance: tree or named, number, count, and whether it waits
  for the phase (06 R229) -/
  | arrive (tree : Bool) (n count : Nat) (wait : Bool)
  /-- a BLOCK that waits for the wave's results: its address and live-in mask (06 R223) -/
  | block (addr : W64) (mask : Nat)
  /-- standing at a handler exit (12 R372) -/
  | leave (code : Nat)
  deriving DecidableEq, Repr

/-- Writes of one access that the thread digest is to take up in program order (13 R406): 0 not yet performed,
1 performed, 2 not to be performed; each item as the words mixed in turn: address, data and kind. -/
structure Fold where
  id : Nat
  state : Nat
  items : List (List Nat)
  deriving DecidableEq, Repr

/-- The block section a thread stands in (02 R86-R88). -/
structure Section where
  entry : W64
  opidx : W64
  mask : Nat
  implicit : Bool
  regs : FMap Cell
  em : Bool
  cm : Bool
  digest : W64
  /-- the number that the next access had when the section began: results owed earlier belong to its entry -/
  born : Nat
  folds : List Fold
  /-- extended blocks that its wave held at entry (02 R87) -/
  xblk : Nat
  deriving DecidableEq, Repr

/-- A thread (01 R15). Register copies stand at key 4 × specifier + sibling; an absent key reads 0. -/
structure Thread where
  lidx : Nat
  cohort : Nat
  pc : W64
  st : TState
  hold : Hold
  regs : FMap Cell
  win : List WinEntry
  opidx : W64
  /-- pending HN words (05 R179) and the address of the first -/
  hint : Option Nat
  wimm : Option Nat
  hnAddr : Option W64
  sec : Section
  /-- in a run, and its instructions so far (02 R79, R80) -/
  inRun : Bool
  runCount : Nat
  /-- activation bank of the run (07 R276) -/
  runBank : Nat
  /-- registers whose long-latency results the run requested (02 R82) and those written since -/
  owed : List Nat
  clobbered : List Nat
  /-- place count of this thread's words and stalls (02 R84), and from when results read correctly -/
  clock : Nat
  dues : FMap Nat
  /-- a marked word is complete but for the results its wave awaits (02 R83) -/
  marking : Bool
  /-- the section began with the word just passed: what a marker applies to registers belongs to its entry (02 R86, R93) -/
  opened : Bool
  /-- earliest cycle of the next issue, and the sampler's code until then (02 R84, 06 R246, 11 R362) -/
  wake : Nat
  wakeCode : Nat
  /-- its fault was served: the translations of its next word walk afresh (14 R416) -/
  afresh : Bool := false
  /-- selections of its wave in which the thread, Ready all the while, was not packed (01 R46) -/
  missed : Nat := 0
  siding : Nat
  /-- thread digest (13 R406), and writes still to be folded into it -/
  digest : W64
  folds : List Fold
  deriving DecidableEq, Repr

/-- A version pin (04 R171). -/
structure Pin where
  owner : Nat
  version : Nat
  deriving DecidableEq, Repr

/-- Where an access goes after translation (14 R411): one location, three planes a stride apart, an
md32 word, host memory, a unit's share, a register of a thread, or another device. -/
inductive Place where
  | single (pa : Nat)
  | triple (pa stride : Nat)
  | md32 (pa : Nat)
  | host (bus : Nat)
  | scratch (unit off : Nat)
  /-- a register copy of a thread: wave, lidx, register key (none: a reserved position) and width -/
  | aperture (unit lidx : Nat) (key : Option Nat)
  | remote (devn mcid va ssn cls : Nat)
  /-- a page of a versioned range and the version pinned at issue (04 R170): bound when performed -/
  | versioned (vrn pidx off : Nat) (pin : Option Pin)
  /-- a sharded access that its owner has performed: class of the page; the data of the lane is what it
  answered, plane by plane (14 R435) -/
  | answered (cls : Nat)
  /-- a sharded access that its owner has refused: a translation fault (14 R417, R435) -/
  | failed
  /-- a sharded access that met bad memory at its owner: class, the granule there, and whether it was held as poisoned (08 R291,
  14 R424) -/
  | spoiled (cls granule : Nat) (held : Bool)
  deriving DecidableEq, Repr

/-- One thread's part of an access. -/
structure Lane where
  tid : Nat
  va : Nat
  place : Place
  /-- sibling values to store, the operand of an atomic, or a result already computed -/
  data : List Nat
  deriving DecidableEq, Repr

/-- What an outstanding access does when it is performed (04 R152, 08). -/
inductive AOp where
  /-- a result computed at issue, only waiting to arrive, and the flags it raises then (02 R81, 06 R213) -/
  | result (flags : Nat)
  /-- load: size in bytes, type code of 08 R293 -/
  | load (ty : Nat)
  | store (ty : Nat)
  /-- atomic of 08 R298: operation, with return -/
  | atomic (op : Nat) (ret : Bool)
  | ldD
  | stD (cls : Nat)
  | dadd
  | dcls (cls : Nat)
  | arm
  /-- a sampler operation: 0 start, 1 stop, 2 flush (06 R241) -/
  | sampler (act : Nat)
  /-- TDESC (09 R323): its MOD field; the data are S(SY) and S(SZ) -/
  | tdesc (mods : Nat)
  /-- PUBLISH (09 R344) -/
  | publish
  deriving DecidableEq, Repr

/-- An access that a wave has issued and that is not complete (04 R152-R154, 08 R285). -/
structure Access where
  id : Nat
  op : AOp
  lanes : List Lane
  /-- destination: 4 × specifier, or 1024 + scalar number; whether it is 64 bits wide -/
  dest : Option (Nat × Bool)
  addr : W64
  /-- bits [30:0] of the word, for the digest (13 R406) -/
  word : Nat
  /-- accesses that local order puts before it (04 R154) -/
  after : List Nat
  performed : Bool
  user : Bool
  /-- threads active at a scalar access, for the digest (13 R406) -/
  folds : List Nat
  /-- slot lowered at completion (09 R324) -/
  slot : Option Nat
  /-- threads packed at an access of the whole wave (06 R209) -/
  packed : List Nat := []
  /-- its number when it was issued, by which sections tell what belongs to their entry (02 R86) -/
  issued : Nat := id
  deriving DecidableEq, Repr

/-- A page on which a waiting party faulted, and its record (14 R420). -/
structure FPage where
  seq : Nat
  va : Nat
  served : Bool
  deriving DecidableEq, Repr

/-- A siding (01 R34, R35). -/
structure Siding where
  num : Nat
  tids : List Nat
  pages : List FPage
  deriving DecidableEq, Repr

/-- A trap cause with its report (12 R368). -/
structure Cause where
  code : Nat
  taddr : W64
  info0 : W64
  info1 : W32
  sub : Nat
  tmask : W64
  deriving DecidableEq, Repr

/-- Privileged level: the cause being served, the frame, and the user state kept (12 R364, R371). -/
structure Priv where
  cause : Cause
  frame : W64
  since : Nat
  kept : List Thread
  keptEm : W64
  keptCm : W64
  srcw : Nat
  /-- flags that arrived while the handler runs, ORed in at the return (12 R371, R385) -/
  late : W32
  /-- `aflag` and `nctl` at entry (12 R382) -/
  keptAflag : W32
  keptNctl : W32
  /-- a siding of the wave was cancelled while the handler runs: the wave ends at the return (12 R371 step 4) -/
  ended : Bool
  deriving DecidableEq, Repr

/-- A pending aperture write (02 R93): the thread's lidx, register key, siblings it covers, value. -/
structure ApWrite where
  lidx : Nat
  key : Nat
  sibs : List Nat
  value : W32
  deriving DecidableEq, Repr

/-- How far a pre-emption of a wave has come (12 R380). -/
inductive PreState where
  | none
  | requested
  | handler
  | saved
  deriving DecidableEq, Repr

/-- Words and records on a sharded page of another device that a wave needs before it can issue: their address and kind (0 fetch, 1
follow-on record, 2 record of TDESC), the threads that wait, and what the owner answered (14 R435; 06 R219; 09 R323, R339). -/
structure FarRead where
  va : Nat
  kind : Nat
  tids : List Nat
  data : Option Nat
  deriving DecidableEq, Repr

/-- A memory word whose lanes are with the owners of sharded pages: the threads stand at it until every owner has answered; then it
completes for those that no owner has refused (14 R435; 01 R34). -/
structure Held where
  addr : W64
  /-- what is issued then -/
  accs : List Access
  /-- lanes as their owners have answered them, with the number of the access -/
  got : List (Nat × Lane)
  tids : List Nat
  /-- the threads' result, and whether it is 64 bits -/
  dest : Option (Spec × Bool)
  /-- the scalar result of a word of the whole wave -/
  scal : Option Nat
  /-- KINDS of a fault (14 R418) -/
  kinds : Nat
  /-- it forms a block section of its own (02 R86) -/
  own : Bool
  /-- it acts as marked -/
  last : Bool
  deriving DecidableEq, Repr

/-- A resident wave (01 R23, R24). -/
structure Wave where
  launch : Nat
  unit : Nat
  cid : Nat
  core : Nat
  slot : Nat
  wlog : Nat
  grant : Nat
  prio : Nat
  threads : List Thread
  em : W64
  cm : W64
  scal : FMap W64
  aflag : W32
  nctl : W32
  triple : Bool
  det : Bool
  ilk : Bool
  xblk : Nat
  runx : Bool
  pin : Option Pin
  priv : Option Priv
  causes : List Cause
  epoch : Nat
  ptr : Nat
  /-- parked at a switch marker (02 R83) -/
  parked : Bool
  eligSince : Option Nat
  yielded : Bool
  accs : List Access
  /-- outstanding-access counters: accesses in issue order, and whether performed (04 R153) -/
  ldq : List (Nat × Bool)
  stq : List (Nat × Bool)
  enq : List (Nat × Bool)
  slots : List Nat
  /-- slots that a consist command lowers at its milepost: slot, consist, sequence number, and whether the
  slot is that of its follow-on (09 R324, R327, R339) -/
  slotWaits : List (Nat × Nat × Nat × Bool)
  sidings : List Siding
  lastSeq : FMap W64
  cmdErrs : List Cause
  pre : PreState
  frozen : Bool
  apw : List ApWrite
  /-- reads that are with sharded owners (14 R435) -/
  reads : List FarRead := []
  /-- words whose accesses are with sharded owners (14 R435) -/
  held : List Held := []
  deriving DecidableEq, Repr

/-- A named barrier's current phase (01 R37), and the cycle in which the oldest phase that still has waiters to release was filled: they
are released after that cycle (11 R362). -/
structure Bar where
  phase : Nat
  count : Option Nat
  arrived : Nat
  since : Nat
  deriving DecidableEq, Repr

/-- A tree barrier of one tier unit (01 R38): its phase, arrivals not yet used, by gtid, the cycle of the last arrival, and the dies of
those who have arrived, whose writes the phase orders (04 R157). -/
structure TreeBar where
  phase : Nat
  arrived : FMap Nat
  since : Nat
  dies : List Nat := []
  deriving DecidableEq, Repr

/-- What the Signalbox keeps of a saved wave (12 R378-R382). -/
structure SavedWave where
  wlog : Nat
  grant : Nat
  /-- where it was resident last -/
  core : Nat
  slot : Nat
  triple : Bool
  xblk : Nat
  pin : Option Pin
  aflag : W32
  nctl : W32
  epoch : Nat
  slots : List Nat
  slotWaits : List (Nat × Nat × Nat × Bool)
  enq : List (Nat × Bool)
  causes : List Cause
  cmdErrs : List Cause
  lastSeq : FMap W64
  threads : List Thread
  em : W64
  cm : W64
  scal : FMap W64
  deriving DecidableEq, Repr

/-- Where a level-2 unit stands. -/
inductive UState where
  | queued
  | claimed
  | reserved
  | resident
  | saving
  | saved
  | resuming
  | done
  deriving DecidableEq, Repr

/-- The matrix state of a core (09 R314): accumulator words at 3 × (256 m + n) + plane, turntable and
gantry bytes, all absent keys zero; the kind, and the two factors of Tsp. -/
structure MatState where
  acc : FMap W32
  i32 : Bool
  tsA : W32
  tsB : W32
  turn : FMap Byte
  gantry : FMap Byte
  deriving DecidableEq, Repr

/-- A level-2 unit (01 R16, R24; 04 R143; 13 R398). -/
structure LUnit where
  launch : Nat
  ord : Nat
  cid : Nat
  st : UState
  core : Nat
  grant : Nat
  req : Nat
  /-- cycle and wave number of the last width request (06 R232) -/
  reqBy : Nat × Nat
  rslc : Nat
  share : FMap Byte
  shSize : Nat
  shBase : Nat
  nbBase : Nat
  nbars : Nat
  mown : Bool
  bars : FMap Bar
  /-- final digests of threads of ended waves, by lidx -/
  gone : FMap W64
  saved : List SavedWave
  mat : Option MatState
  junction : Nat
  die : Option Nat
  placedAt : Nat
  /-- old grant to return to after a refused re-slice (12 R382) -/
  oldGrant : Option Nat
  /-- flags that arrived while saved (12 R382) -/
  lateFlags : W32
  /-- its first bind record has been dispatched where it stands (13 R400) -/
  begun : Bool := false
  deriving DecidableEq, Repr

/-- A matrix instruction in a queue (09 R317) or a command of a consist (09 R335, R336). Its writes stand in
ascending order of their addresses; `doneW` of them are made. -/
structure Cmd where
  /-- sequence number of the consist, or place in the order of acceptance -/
  seq : W64
  word : Nat
  hintw : Nat
  x : W64
  y : W64
  z : W64
  core : Nat
  slot : Nat
  /-- issuing wave: its unit, the threads it held, and its number -/
  unit : Nat
  lidx : Nat
  grant : Nat
  wlog : Nat
  cid : Nat
  addr : W64
  /-- mode, `nctl`, seed and pin of the issuing wave at issue (02 R77; 09 R332, R338) -/
  pin : Option Pin
  triple : Bool
  nctl : W32
  seed : W64
  /-- its entry in the engine counter (04 R153) -/
  acc : Option Nat
  /-- follow-on record read at issue (09 R339) -/
  follow : Option Nat
  /-- dependency slot of a matrix instruction (09 R324) -/
  slotSet : Option Nat
  /-- consist and sequence number of the `ecopy` that carried it (09 R339) -/
  carried : Option (Nat × Nat)
  /-- its records are read and checked (04 R163) -/
  begun : Bool
  /-- code of R328: of the refusal, and of a command that completes -/
  err : Nat
  note : Nat
  flags : W32
  /-- records read when it began, the index list, and values computed for its elements -/
  recs : List Nat
  idx : List Nat
  vals : List (List Nat)
  doneW : Nat
  /-- bytes written into staging, shown at the milepost (04 R169), with the pages that are copied first -/
  shadow : List (Nat × Byte)
  pages : List (Nat × Nat)
  /-- elements left alone by an optimizer step (09 R348) -/
  nans : Nat
  /-- its master is frozen (14 R427) -/
  frozen : Bool
  /-- collective: its place is taken, and its result is there (09 R343) -/
  joined : Bool
  /-- the follow-on is accepted (09 R339) -/
  sent : Bool
  /-- activation-table image to switch to (07 R275) -/
  actImage : Option (List Byte)
  /-- the page it waits for, and pages reported ahead of it (14 R414, R420, R422) -/
  waitPage : Option FPage
  ahead : List FPage
  /-- data and acknowledgements of sharded owners, by address, bytes and kind (04 R172) -/
  far : FMap Nat
  /-- address of the word itself, after its HN words (12 R368) -/
  iaddr : W64 := addr
  /-- pages whose fault was served, which it walks afresh (14 R416) -/
  walked : List Nat := []
  /-- virtual addresses of the granules in its shadow (14 R424) -/
  vas : FMap Nat := []
  deriving DecidableEq, Repr

/-- The stall sampler of a core (06 R241-R247). -/
structure Sampler where
  cid : Nat
  /-- the starting wave -/
  unit : Nat
  wlog : Nat
  recAddr : W64
  buf : W64
  cap : Nat
  period : Nat
  allWaves : Bool
  start : Nat
  k : Nat
  nwr : Nat
  ndrop : Nat
  /-- samples of the running cycle, which are written as it ends (06 R244, R247) -/
  pending : List Nat
  deriving DecidableEq, Repr

/-- A core's copy of a context's activation table (07 R274): two bank images and the current one. -/
structure ActCopy where
  bankA : List Byte
  bankB : List Byte
  cur : Nat
  switched : Nat
  deriving DecidableEq, Repr

/-- A cached translation (14 R413): context, first page number of 32 KiB, pages, the leaf word. -/
structure TlbEnt where
  cid : Nat
  vpn : Nat
  pages : Nat
  leaf : Nat
  deriving DecidableEq, Repr

/-- A core (00 R2, 09 R314, 13 R392). -/
structure Core where
  mat : MatState
  owner : Option Nat
  loadQ : List Cmd
  compQ : List Cmd
  storeQ : List Cmd
  /-- matrix instructions accepted so far (09 R317) -/
  accepted : Nat
  sampler : Option Sampler
  /-- blocked requests in the order in which they began to wait (02 R69): wave key, and the blocks of an XACQ, or 4 for the
  re-charge of a mode switch (06 R234) -/
  reqs : List (Nat × Nat)
  deadCycles : Nat
  /-- by deterministic launch: gtid of thread 0 of the running coroutine, and whether it has given up the core
  with every wave blocked (01 R47) -/
  running : FMap (Nat × Bool)
  acts : FMap ActCopy
  tlb : List TlbEnt
  /-- by quadrant, the cycle from which it may issue again (01 R27, R30) -/
  busy : FMap Nat
  /-- by quadrant, the wave that issued last and the threads it packed, while the quadrant is busy with them (06 R246) -/
  last : FMap (Nat × List Nat)
  deriving DecidableEq, Repr

/-- A consist of a context on one engine (12 R367, 09 R335). -/
structure Consist where
  ring : Nat
  mpaddr : Nat
  log2n : Nat
  tail : Nat
  milepost : Nat
  cmds : List Cmd
  frozen : Bool
  deriving DecidableEq, Repr

/-- A context (12 R365-R367). -/
structure Context where
  root : Nat
  vbase : W64
  fbase : W64
  errrec : W64
  dftab : W64
  atab : W64
  ctab : W64
  savelim : Nat
  cepoch : Nat
  errlog : Nat
  part : Nat
  ilkf : Bool
  descr : Nat
  apbase : W64
  gammas : List W32
  actImage : List Byte
  consists : FMap Consist
  errCount : Nat
  /-- retiring pages by epoch, with the request to complete: function and queue (12 R386) -/
  retiring : List (Nat × List Nat × Nat × Nat)
  /-- pages unmapped by a code swap (12 R386) -/
  retired : List Nat
  ended : Bool
  /-- bytes that the context has written since its last code swap, as an instruction cache may still hold them (04 R144) -/
  stale : FMap Byte := []
  deriving DecidableEq, Repr

/-- Where a launch stands. -/
inductive LState where
  | waitPlatform
  | active
  /-- cancelled, its record still to be written: STATUS, DSUB and DIGOUT (13 R403) -/
  | ending (status dsub : Nat) (dig : W64)
  | done
  deriving DecidableEq, Repr

/-- A launch (13 R388). -/
structure Launch where
  cid : Nat
  part : Nat
  record : Nat
  addr : Nat
  step : Nat
  didx : Nat
  ndev : Nat
  tiers : List Nat
  ext : List Nat
  compl : Nat
  digest : W64
  tlimit : Nat
  ustride : Nat
  savebase : Nat
  share : Nat
  nctl : W32
  seed : W64
  entry : W64
  digm : Nat
  nbar : Nat
  wreq : Nat
  lvl : Nat
  xblk : Nat
  matrix : Bool
  triple : Bool
  det : Bool
  prio : Nat
  st : LState
  /-- unclaimed unit ordinals of each Junction (13 R393) -/
  queues : List (List Nat)
  /-- Junctions that steal: how many victims have been asked, or 4 at the end of a search (13 R395) -/
  searching : FMap Nat
  /-- the cycle in which each thief's present request reached its victim (13 R395) -/
  asked : FMap Nat := []
  unitsLeft : Nat
  digests : FMap W64
  placedFirst : Option Nat
  resident : Nat
  waiting : Nat
  waitPrio : Nat
  submitted : Nat
  domains : FMap Nat
  trees : FMap TreeBar
  /-- participants on other devices that have exited, by gtid (01 R38) -/
  farGone : List Nat
  /-- serialised re-execution: the free-run digest (13 R407), and the grants of each unit's first placement -/
  serial : Option W64
  grants : FMap Nat
  fn : Nat
  deriving DecidableEq, Repr

/-- A bind record of the Timetable (13 R398). -/
structure Bind where
  lrec : Nat
  launch : Nat
  uord : Nat
  unit : Nat
  shbase : Nat
  wlog : Nat
  cid : Nat
  nbbase : Nat
  grant : Nat
  prio : Nat
  det : Bool
  triple : Bool
  mown : Bool
  xblk : Nat
  state : Nat
  slot : Nat
  core : Nat
  /-- its reserved fields -/
  rsv : Nat := 0
  deriving DecidableEq, Repr

/-- A partition (14 R425) and what the device keeps for it. -/
structure Partition where
  /-- the 256 bytes of the descriptor last accepted -/
  descr : Nat
  cores : Nat
  regions : List (Nat × Nat)
  hostwin : List (Nat × Nat)
  fring : Nat
  flog : Nat
  prioceil : Nat
  engs : Nat
  seqNext : Nat
  /-- records opened and not freed: SEQ, CID and block (14 R419) -/
  recs : List (Nat × Nat × Nat)
  /-- faults held while the slot is not free (14 R419): number, cid, va, reason, kinds, and the core or engine that
  they come from -/
  heldFaults : List (Nat × Nat × Nat × Nat × Nat × Nat)
  shards : FMap (List (Nat × Nat))
  colls : FMap (List (Nat × Nat))
  deriving DecidableEq, Repr

/-- A versioned range (14 R429). `held` gives for each backing the versions it holds (04 R168). -/
structure VRange where
  back : List Nat
  npages : Nat
  cls : Nat
  nb : Nat
  owner : Nat
  readers : Nat
  cur : Nat
  stg : Option Nat
  held : List (List Nat)
  copied : List Nat
  dead : Bool
  /-- destroyed, but for the accesses that are on their way through its leaves (14 R431) -/
  leaving : Bool := false
  deriving DecidableEq, Repr

/-- A write not yet visible on every die (04 R159): bytes with what stood before, the die it came from,
its vector clock, and the dies that have made it visible. -/
structure VWrite where
  id : Nat
  bytes : List (Nat × Byte)
  die : Nat
  clk : List Nat
  seen : List Nat
  deriving DecidableEq, Repr

/-- A submission queue (15 R437). -/
structure Queue where
  qbase : Nat
  head : Nat
  tail : Nat
  qlog : Nat
  qerr : Bool
  /-- the request at HEAD as the Signalbox read it, when it has begun and is not complete (15 R440) -/
  cur : Option Nat
  /-- when each entry from HEAD to TAIL came, by the number of its doorbell (15 R459) -/
  came : List Nat := []
  deriving DecidableEq, Repr

/-- A PCIe function (15 R436, R441). -/
structure Func where
  queues : List Queue
  evbase : Nat
  evlog : Nat
  /-- events written to the ring since it was set (15 R441) -/
  evCount : Nat
  evSeq : FMap Nat
  frozen : Bool
  wiping : Bool
  deriving DecidableEq, Repr

/-- Trunk configuration and link state (15 R442-R446). -/
structure Trunk where
  devn : Nat
  links : Nat
  routes : List Nat
  flows : FMap Nat
  /-- flits that came before an earlier one of their flow: flow, sequence and message -/
  held : List (Nat × Nat × List Nat)
  /-- failures of the flit that a link is to deliver next -/
  retries : FMap Nat
  down : List Nat
  /-- sharded accesses and their answers that flows have delivered and nothing has taken up: flow and message (15 R443) -/
  inbox : List (Nat × List Nat) := []
  deriving DecidableEq, Repr

/-- A participant of a collective whose command has begun (09 R343): rank, consist owner, element
vectors. Remote participants come over Trunk. -/
structure Coll where
  part : Nat
  group : Nat
  cseq : Nat
  rank : Nat
  head : Nat
  cid : Nat
  consist : Nat
  data : List Nat
  /-- tick count when it began (15 R444) -/
  tick : W64
  deriving DecidableEq, Repr

/-- A self-test request under way (15 R449). -/
structure SelfTest where
  units : List Nat
  /-- the request to complete -/
  fn : Nat
  queue : Nat
  deriving DecidableEq, Repr

/-- An invalidation under way (14 R415). -/
structure Inval where
  id : Nat
  cid : Nat
  vpn : Nat
  pages : Nat
  done : Nat
  token : Nat
  fn : Nat
  queue : Nat
  waitFor : List (Nat × Nat)
  deriving DecidableEq, Repr

/-- Management registers, life-cycle, attestation and power (15 R448-R463). -/
structure Mgmt where
  ebase : Nat
  elog : Nat
  ecount : Nat
  /-- entries written to the record since it was set (15 R452) -/
  ewritten : Nat := 0
  newest : List Nat
  /-- thresholds, newest first, each with the counters whose window began under them (15 R453) -/
  thresholds : List (List Nat × List Nat)
  counters : FMap Nat
  crossings : FMap Nat
  fenced : List Nat
  fatal : Bool
  lcs : Nat
  /-- BOOT [7:0] but for a fatal entry: 0 running, 1 verifying, 2 failed (15 R461) -/
  bootStat : Nat
  bootImage : Nat
  therm : Bool
  pcsel : W32
  errn : Nat
  lcnonce : W64
  lcbuf : List Byte
  lccmd : Nat
  blocksLeft : Nat
  indices : Nat
  plim : Nat
  clock : Nat
  temp : W32
  power : W32
  /-- cycles for which the measured power has been above the limit, and below 95 % of it (15 R463) -/
  hot : Nat := 0
  cool : Nat := 0
  /-- the register of the management port that the last private write selected (15 R461) -/
  sel : Nat := 0
  deriving DecidableEq, Repr

/-- What moves next (log 1). -/
inductive Choice where
  /-- the quadrant of a core issues a group -/
  | issue (core quad : Nat)
  /-- a step row of the table happens -/
  | event (i : Instr)
  /-- the word of the group that a quadrant would issue is not in the core's instruction cache yet (13 R404, 11 R362) -/
  | miss (core quad : Nat)
  /-- a cycle passes, once no quadrant may issue in it any more -/
  | tick
  deriving DecidableEq, Repr

/-- The execution at hand while `exec` runs a word (01 R28, R30): the wave, the word and its address,
the first HN word's address, the packed threads in ascending tid, and the HN payloads. -/
structure Exec where
  wave : Nat
  addr : W64
  first : W64
  tids : List Nat
  word : Nat
  hint : Option Nat
  wimm : Option Nat
  deriving DecidableEq, Repr

/-- The device. Waves stand at 32 × core + slot, cores at 48 × die + core. -/
structure State where
  /-- piles (04 R141): an absent byte is 0 (log 3) -/
  mem : FMap Byte
  hostMem : FMap Byte
  poison : List Nat
  latent : List Nat
  /-- last writers of dirty lines of the last-level cache, by line: CID, and from 2^16 up one more than the partition of a context that
  has ended; core (14 R423, R424) -/
  tags : FMap (Nat × Nat)
  vis : List VWrite
  dclk : List (List Nat)
  waves : FMap Wave
  units : FMap LUnit
  cores : FMap Core
  contexts : FMap Context
  launches : FMap Launch
  binds : FMap Bind
  parts : FMap Partition
  gsteps : FMap W64
  ranges : FMap VRange
  groups : FMap Nat
  walkers : FMap (List TlbEnt)
  platforms : FMap Nat
  colls : List Coll
  invals : List Inval
  funcs : FMap Func
  trunk : Trunk
  tickCount : W64
  tickGap : Nat
  /-- the loss of the exchange tick has been logged (15 R444) -/
  tickLost : Bool
  mgmt : Mgmt
  selfTest : Option SelfTest
  booting : Bool
  cycle : Nat
  /-- the model's own: numbers given to accesses and units, the free-value counter (log 4), what moves
  next (log 1), the execution at hand -/
  nextId : Nat
  freeCount : Nat
  agenda : List Choice
  cur : Exec
  deriving DecidableEq, Repr

/-- A queue as reset leaves it (15 R437). -/
def Queue.init : Queue := ⟨0, 0, 0, 0, false, none, []⟩

/-- A function as reset leaves it (15 R437). -/
def Func.init : Func := ⟨List.replicate 16 Queue.init, 0, 0, 0, [], false, false⟩

/-- Thresholds of 15 R453: CRC retries, lane margin, pile bank, DRAM row, SRAM array. -/
def defaultThresholds : List Nat := [256, 1, 64, 4, 16]

/-- Management state right after a cold reset whose firmware verified (15 R437, R448, R452, R457, R461;
values the spec does not give: log 11). -/
def Mgmt.init : Mgmt :=
  { ebase := 0, elog := 0, ecount := 0, newest := [], thresholds := [(defaultThresholds, [])],
    counters := [], crossings := [], fenced := [], fatal := false, lcs := 2, bootStat := 0, bootImage := 0,
    therm := false, pcsel := 0#32, errn := 0, lcnonce := 0#64, lcbuf := [], lccmd := 0, blocksLeft := 16383,
    indices := 64, plim := 2400, clock := 3000, temp := 0#32, power := 0#32 }

/-- No execution at hand. -/
def Exec.idle : Exec := ⟨0, 0#64, 0#64, [], 0, none, none⟩

/-- The device right after reset: nothing resident, memory wiped, every partition's global step 0 (15
R454, 03 R135). -/
def State.reset : State :=
  { mem := [], hostMem := [], poison := [], latent := [], tags := [], vis := [],
    dclk := List.replicate 4 [0, 0, 0, 0], waves := [], units := [], cores := [], contexts := [],
    launches := [], binds := [], parts := [], gsteps := [], ranges := [], groups := [], walkers := [],
    platforms := [], colls := [], invals := [],
    funcs := [(0, Func.init), (1, Func.init), (2, Func.init), (3, Func.init), (4, Func.init),
      (5, Func.init), (6, Func.init), (7, Func.init), (8, Func.init)],
    trunk := ⟨0, 0, [], [], [], [], [], []⟩, tickCount := 0#64, tickGap := 0, tickLost := false, mgmt := Mgmt.init,
    selfTest := none, booting := false, cycle := 0, nextId := 0, freeCount := 0, agenda := [],
    cur := Exec.idle }

end Sys2Proof.Machine
end

