-- ==== Sys2Proof/Machine/Mem.lean ====
section
/-! DEFINITION. Physical memory, the copies the dies hold (04 R159), the partition checks (14 R426) and
translation (14 R408-R413, R417). -/

namespace Sys2Proof.Machine

/-- The machine goes on in `s`. -/
abbrev Out := Host.Outcome State Fault Refusal

/-- Piles of the device: 512 GiB (00 R2). -/
def memSize : Nat := 2 ^ 39

/-- The canonical form of a memory: addresses strictly rising, no zero byte listed (log 3). -/
def Memory.wf (m : FMap Byte) : Bool := keysFrom 0 m && m.all (fun e => e.2 != 0#8)

/-- A byte of device memory at its home slice; an absent byte is 0 (log 3). -/
def homeByte (s : State) (pa : Nat) : Byte := zget 0#8 s.mem pa

/-- The bytes before the first write in coherence order that die `d` has not made visible (04 R159, R160). -/
def unseenByte (d pa : Nat) : List VWrite → Option Byte
  | [] => none
  | v :: l => if v.seen.contains d then unseenByte d pa l else
    match mget v.bytes pa with
    | some b => some b
    | none => unseenByte d pa l

/-- A byte of device memory as the readers of die `d` see it; the Signalbox, host and I/O
dies (numbers from 4) read at home. -/
def dieByte (s : State) (d pa : Nat) : Byte :=
  if d < 4 then (unseenByte d pa s.vis).getD (homeByte s pa) else homeByte s pa

/-- `n` bytes from `pa` up, as die `d` sees them. -/
def dieBytes (s : State) (d : Nat) : Nat → Nat → List Byte
  | _, 0 => []
  | pa, n + 1 => dieByte s d pa :: dieBytes s d (pa + 1) n

/-- `n` bytes at their home slices. -/
def homeBytes (s : State) : Nat → Nat → List Byte
  | _, 0 => []
  | pa, n + 1 => homeByte s pa :: homeBytes s (pa + 1) n

/-- Put bytes into a map that never lists a zero byte. -/
def putBytes (m : FMap Byte) : Nat → List Byte → FMap Byte
  | _, [] => m
  | a, b :: l => putBytes (zset 0#8 m a b) (a + 1) l

/-- `n` bytes of a map. -/
def getBytes (m : FMap Byte) : Nat → Nat → List Byte
  | _, 0 => []
  | a, n + 1 => zget 0#8 m a :: getBytes m (a + 1) n

/-- Put single bytes at their addresses. -/
def putList (m : FMap Byte) : List (Nat × Byte) → FMap Byte
  | [] => m
  | (a, b) :: l => putList (zset 0#8 m a b) l

/-- Each byte with its address. -/
def place (a : Nat) : List Byte → List (Nat × Byte)
  | [] => []
  | b :: l => (a, b) :: place (a + 1) l

/-- Some write that covers one of the bytes is not yet visible to every one of the dies. -/
def coversUnseen (s : State) (dies : List Nat) (as : List Nat) : Bool :=
  s.vis.any fun v => dies.any (fun d => !v.seen.contains d) && as.any (fun a => (mget v.bytes a).isSome)

/-- A write performed at home slices by a unit every die sees at once: the Signalbox, the host, a throw. It
supersedes what a die has not yet made visible (04 R165, R166). -/
def writeHome (s : State) (pa : Nat) (bs : List Byte) : State :=
  { s with
    mem := putBytes s.mem pa bs,
    vis := s.vis.map (fun v => { v with bytes := v.bytes.filter (fun e => decide (e.1 < pa) || decide (pa + bs.length ≤ e.1)) }) }

/-- The home writes of separate bytes. -/
def writeHomeList (s : State) (bs : List (Nat × Byte)) : State :=
  { s with
    mem := putList s.mem bs,
    vis := s.vis.map (fun v => { v with bytes := bs.foldl (fun m b => mdel m b.1) v.bytes }) }

/-- A write that originates on die `d` (04 R159): performed at home, visible on `d`, not yet elsewhere. Its clock is after every write that
the die has performed, so that all writes of a die, also those that nothing orders causally, are shown in the order performed (00 R14, 04
R159; log 7). -/
def writeDie (s : State) (d : Nat) (pa : Nat) (bs : List Byte) : State :=
  let clk := lmod (lget [] s.dclk d) d (· + 1)
  let v : VWrite := ⟨s.nextId, (place pa (homeBytes s pa bs.length)), d, clk, [d]⟩
  { s with
    mem := putBytes s.mem pa bs, vis := s.vis ++ [v], dclk := lset s.dclk d clk,
    nextId := s.nextId + 1 }

/-- Writes of several pieces as one event of die `d`. -/
def writeDieList (s : State) (d : Nat) (bs : List (Nat × Byte)) : State :=
  let clk := lmod (lget [] s.dclk d) d (· + 1)
  let old := bs.foldl (fun m p => mset m p.1 (homeByte s p.1)) []
  let v : VWrite := ⟨s.nextId, old, d, clk, [d]⟩
  { s with
    mem := putList s.mem bs, vis := s.vis ++ [v], dclk := lset s.dclk d clk,
    nextId := s.nextId + 1 }

/-- Die `d` has made visible everything causally before `v` (04 R159), as `writeDie` counts it: the writes of `v`'s own die performed before
it are among them (log 7). -/
def mayShow (s : State) (d : Nat) (v : VWrite) : Bool :=
  (enumFrom 0 v.clk).all fun p =>
    let have_ := lget 0 (lget [] s.dclk d) p.1
    if p.1 == v.die then decide (p.2 ≤ have_ + 1) else decide (p.2 ≤ have_)

/-- Die `d` makes `v` visible; a write visible on all four dies needs no record. -/
def showOn (s : State) (d : Nat) (v : VWrite) : State :=
  let seen := d :: v.seen
  let vis :=
    if seen.length == 4 then s.vis.filter (fun x => x.id != v.id)
    else s.vis.map (fun x => if x.id == v.id then { x with seen := seen } else x)
  { s with vis := vis, dclk := lmod s.dclk d (fun c => lmod c v.die (fun n => max n (lget 0 v.clk v.die))) }

/-- Every write that die `d` has made visible is visible on every die. -/
def allShown (s : State) (d : Nat) : Bool := s.vis.all fun v => !v.seen.contains d

/-- Every write that die `a` has made visible is visible on die `b`: who goes from one to the other does not read older values (04
R157, R158, R160). -/
def seenOn (s : State) (a b : Nat) : Bool := s.vis.all fun v => !v.seen.contains a || v.seen.contains b

/-- Draw a free value (log 4). -/
def freeVal (s : State) (i : Nat) : W64 := Config.freeBits s.freeCount i

/-- The next draws differ from those before. -/
def nextFree (s : State) : State := { s with freeCount := s.freeCount + 1 }

/-- The regions cover the bytes from one address to another, one region after another. -/
def coverFrom (regions : List (Nat × Nat)) : Nat → Nat → Nat → Bool
  | 0, a, e => decide (e ≤ a)
  | f + 1, a, e =>
    decide (e ≤ a) ||
      match regions.find? (fun r => decide (r.1 * 2 ^ 30 ≤ a) && decide (a < (r.1 + r.2) * 2 ^ 30)) with
      | none => false
      | some r => coverFrom regions f ((r.1 + r.2) * 2 ^ 30) e

/-- A device-memory range lies within the regions, which may be adjacent, and piles back it (14 R426, R430). -/
def inRegions (regions : List (Nat × Nat)) (pa n : Nat) : Bool := decide (pa + n ≤ memSize) && coverFrom regions regions.length pa (pa + n)

/-- A host range lies in one of the windows (14 R426). -/
def inWindows : List (Nat × Nat) → Nat → Nat → Bool
  | [], _, _ => false
  | (base, size) :: l, a, n => (decide (base ≤ a) && decide (a + n ≤ base + size)) || inWindows l a n

/-- Bytes that one backing of a range covers. -/
def VRange.span (r : VRange) : Nat := (r.npages + 1) * 32768 * (if r.cls == 1 then 3 else 1)

/-- A read that lies in a backing whose READERS name the partition (14 R426). -/
def readerOk (s : State) (part pa n : Nat) : Bool :=
  s.ranges.any fun e =>
    tst e.2.readers part && (e.2.back.take e.2.nb).any (fun b => decide (b ≤ pa) && decide (pa + n ≤ b + e.2.span))

/-- The physical check of R426 for device memory. -/
def physOk (s : State) (part : Nat) (write : Bool) (pa n : Nat) : Bool :=
  match mget s.parts part with
  | none => false
  | some p => inRegions p.regions pa n || (!write && readerOk s part pa n)

/-- The physical check of R426 for host memory. -/
def hostOk (s : State) (part a n : Nat) : Bool :=
  match mget s.parts part with
  | none => false
  | some p => inWindows p.hostwin a n

/-- The die of a core number. -/
def dieOf (core : Nat) : Nat := core / 48

/-- What a walk ends in. -/
inductive Walk where
  | leaf (entry : Nat) (size : Nat)
  | fault (reason : Nat)
  | viol (pa : Nat)
  deriving DecidableEq, Repr

/-- A table level: lowest index bit, index bits, the size of the next table, and of a page here. -/
structure Level where
  lo : Nat
  width : Nat
  next : Nat
  page : Option Nat
  leafClass : Bool
  deriving DecidableEq, Repr

/-- The levels of 14 R408. -/
def levels : List Level :=
  [⟨43, 13, 65536, none, false⟩, ⟨30, 13, 4096, some (2 ^ 30), false⟩, ⟨21, 9, 512, some (2 ^ 21), false⟩,
    ⟨15, 6, 0, some 32768, true⟩]

/-- ADDR of an entry, as an address. -/
def entryAddr (e : Nat) : Nat := bitsAt e 9 43 * 512

/-- The checks of a leaf (14 R410, R411); 0 passes. -/
def leafFault (l : Level) (e : Nat) : Nat :=
  let cls := bitsAt e 62 2
  let map := bitsAt e 60 2
  let ssn := bitsAt e 52 8
  match l.page with
  | none => 4
  | some size =>
    if cls == 3 || bitsAt e 2 3 != 0 || (ssn != 0 && map != 3) then 4
    else if 2 ≤ map && !l.leafClass then 4
    else if map == 1 && cls != 0 then 4
    else if map == 2 then (if cls != 0 || bitsAt e 19 13 != 0 then 4 else 0)
    else if entryAddr e % size != 0 then 4
    else 0

/-- The walk from one level down (14 R408-R410). `rd` reads an entry as the walking die sees it. -/
def walkFrom (ok : Nat → Bool) (rd : Nat → Nat) (va : Nat) : List Level → Nat → Walk
  | [], _ => .fault 4
  | l :: ls, base =>
    let pa := base + 8 * bitsAt va l.lo l.width
    if !ok pa then .viol pa
    else
      let e := rd pa
      if !tst e 0 then .fault 1
      else if tst e 1 then (if leafFault l e != 0 then .fault 4 else .leaf e (l.page.getD 0))
      else if bitsAt e 2 7 != 0 || bitsAt e 52 12 != 0 then .fault 4
      else if l.leafClass then .fault 4
      else if entryAddr e % l.next != 0 then .fault 4
      else walkFrom ok rd va ls (entryAddr e)

/-- A walk of a context's tables: it reads entries at their home slices, so that it sees every store performed before (14 R416). -/
def walk (s : State) (c : Context) (va : Nat) : Walk :=
  walkFrom (fun pa => physOk s c.part false pa 8) (fun pa => ofBytes (homeBytes s pa 8)) va levels c.root

/-- The entry of a TLB that serves an address (14 R413). -/
def tlbHit (cid va : Nat) : List TlbEnt → Option TlbEnt
  | [] => none
  | e :: l =>
    let vpn := va / 32768
    if e.cid == cid && decide (e.vpn ≤ vpn) && decide (vpn < e.vpn + e.pages) then some e else tlbHit cid va l

/-- The leaf that serves an address: a TLB entry that differs from the tables may or may not be used, access
by access (14 R416). -/
def findLeaf (s : State) (cid : Nat) (tlb : List TlbEnt) (c : Context) (va : Nat) : Walk :=
  let w := walk s c va
  match tlbHit cid va tlb with
  | none => w
  | some e =>
    let held : Walk := .leaf e.leaf (e.pages * 32768)
    if held = w then w else if tst (freeVal s (va / 32768 + 2 ^ 40)).toNat 0 then held else w

/-- A translated page: kind, class, physical base, plane stride, permissions (14 R409, R411). -/
structure Page where
  map : Nat
  cls : Nat
  base : Nat
  stride : Nat
  off : Nat
  ssn : Nat
  vrn : Nat
  pidx : Nat
  rd : Bool
  wr : Bool
  ex : Bool
  priv : Bool
  deriving DecidableEq, Repr

/-- What a translation gives. -/
inductive Xlate where
  | page (p : Page)
  | fault (reason : Nat)
  | viol (pa : Nat)
  deriving DecidableEq, Repr

/-- The page that a leaf maps (14 R411). -/
def pageOf (va e size : Nat) : Page :=
  { map := bitsAt e 60 2, cls := bitsAt e 62 2, base := entryAddr e, stride := size, off := va % size,
    ssn := bitsAt e 52 8, vrn := bitsAt e 9 10, pidx := bitsAt e 32 20,
    rd := tst e 5, wr := tst e 6, ex := tst e 7, priv := tst e 8 }

/-- Whether a context may reach a versioned range (14 R432). -/
def rangeOpen (s : State) (cid part : Nat) (p : Page) : Bool :=
  match mget s.ranges p.vrn with
  | none => false
  | some r => !r.leaving && decide (p.pidx ≤ r.npages) && (r.owner == cid || tst r.readers part)

/-- The class that a page has for accesses: a versioned range's own (14 R411). -/
def pageClass (s : State) (p : Page) : Nat :=
  if p.map == 2 then ((mget s.ranges p.vrn).map (·.cls)).getD 0 else p.cls

/-- Permissions an access needs (14 R412). -/
inductive Need where
  | read
  | write
  | both
  | exec
  deriving DecidableEq, Repr

/-- The page gives the permission. -/
def permits (n : Need) (p : Page) : Bool :=
  match n with
  | .read => p.rd
  | .write => p.wr
  | .both => p.rd && p.wr
  | .exec => p.ex

/-- Translate an address for a context (14 R417): the reasons in their order. -/
def translate (s : State) (cid : Nat) (tlb : List TlbEnt) (privileged : Bool) (need : Need) (va : Nat) : Xlate :=
  match mget s.contexts cid with
  | none => .fault 1
  | some c =>
    match findLeaf s cid tlb c va with
    | .viol pa => .viol pa
    | .fault r => .fault r
    | .leaf e size =>
      let p := pageOf va e size
      if p.priv && !privileged then .fault 3
      else if !permits need p then .fault 2
      else if p.map == 2 && !rangeOpen s cid c.part p then .fault 5
      else .page p

/-- The multiplier mix of 13 R405. -/
def mix (h w : Nat) : Nat :=
  let m := 2 ^ 64
  let h := ((h ^^^ w) * 0x9E3779B97F4A7C15) % m
  let h := h ^^^ (h / 2 ^ 31)
  let h := ((h * 2 ^ 27 % m + h / 2 ^ 37) * 0xC2B2AE3D27D4EB4F) % m
  h ^^^ (h / 2 ^ 29)

/-- The member of a shard set that owns a page (14 R434). -/
def shardOwner (va ns : Nat) : Nat := mix 0 (va / 32768) / 2 ^ 32 * ns / 2 ^ 32

/-- Bind the backing of a versioned range for a read (04 R170): the pinned version's backing, where the
range holds it, else the current one. -/
def backingFor (r : VRange) (group : Nat) (pin : Option Pin) : Nat :=
  let pinned :=
    match pin with
    | some p => if p.owner == group then (enumFrom 0 r.held).find? (fun (e : Nat × List Nat) => e.2.contains p.version) else none
    | none => none
  match pinned with
  | some e => e.1
  | none => r.cur

/-- Physical base of a page in a backing (14 R411). -/
def backingPage (r : VRange) (b pidx : Nat) : Nat :=
  lget 0 r.back b + pidx * 32768 * (if r.cls == 1 then 3 else 1)

/-- The place of an access on a page, sharded and versioned ones included. A sharded page is local when its owner names this device
(14 R435). -/
def placeOn (s : State) (cid part : Nat) (pin : Option Pin) (va : Nat) (p : Page) : Place :=
  let local_ : Place :=
    if p.map == 1 then .host (p.base + p.off)
    else if p.cls == 1 then .triple (p.base + p.off) p.stride
    else if p.cls == 2 then .md32 (p.base + p.off)
    else .single (p.base + p.off)
  if p.map == 2 then .versioned p.vrn p.pidx p.off pin
  else if p.map == 3 then
    match mget s.parts part with
    | none => .remote 0 0 va p.ssn p.cls
    | some q =>
      match mget q.shards p.ssn with
      | none => .remote 0 cid va p.ssn p.cls
      | some ms =>
        let o := lget (0, 0) ms (shardOwner va ms.length)
        if o.2 == s.trunk.devn then local_ else .remote o.2 o.1 va p.ssn p.cls
  else local_

/-- A versioned place bound to the backing it reads at this moment (04 R170). -/
def bindPlace (s : State) (pl : Place) : Place :=
  match pl with
  | .versioned vrn pidx off pin =>
    match mget s.ranges vrn with
    | none => pl
    | some r =>
      let base := backingPage r (backingFor r r.owner pin) pidx + off
      if r.cls == 1 then .triple base 32768 else if r.cls == 2 then .md32 base else .single base
  | p => p

/-- The physical address of a place; 0 where it has none. -/
def Place.phys : Place → Nat
  | .single pa => pa
  | .triple pa _ => pa
  | .md32 pa => pa
  | .host a => a
  | _ => 0

/-- The physical check of a place, for an access of `n` bytes (14 R426). -/
def placeOk (s : State) (part : Nat) (write : Bool) (n : Nat) (pl : Place) : Bool :=
  match bindPlace s pl with
  | .single pa => physOk s part write pa n
  | .md32 pa => physOk s part write pa n
  | .triple pa st => physOk s part write pa n && physOk s part write (pa + st) n && physOk s part write (pa + 2 * st) n
  | .host a => hostOk s part a n
  | _ => true

end Sys2Proof.Machine
end

