-- ==== Sys2Proof/Machine/Waves.lean ====
section
/-! DEFINITION. Reaching waves, threads and units in the state, and what every word does to the threads
that execute it: run and window accounting, cadence and the move to the next word (02 R60-R84). -/

namespace Sys2Proof.Machine

/-- Change a wave. -/
def modW (s : State) (k : Nat) (f : Wave → Wave) : State := { s with waves := mmod s.waves k f }

/-- Put a wave. -/
def setW (s : State) (k : Nat) (w : Wave) : State := { s with waves := mset s.waves k w }

/-- Change a unit. -/
def modU (s : State) (u : Nat) (f : LUnit → LUnit) : State := { s with units := mmod s.units u f }

/-- Change a core, which starts with nothing in it. -/
def Core.init : Core :=
  { mat := ⟨[], false, 0x3F800000#32, 0x3F800000#32, [], []⟩, owner := none, loadQ := [], compQ := [],
    storeQ := [], accepted := 0, sampler := none, reqs := [], deadCycles := 0, running := [], acts := [], tlb := [], busy := [], last := [] }

/-- A core; one that nothing has touched is as `Core.init`. -/
def getC (s : State) (c : Nat) : Core := (mget s.cores c).getD Core.init

/-- Change a core. -/
def modC (s : State) (c : Nat) (f : Core → Core) : State := { s with cores := mset s.cores c (f (getC s c)) }

/-- Change a context. -/
def modX (s : State) (c : Nat) (f : Context → Context) : State := { s with contexts := mmod s.contexts c f }

/-- Change a launch. -/
def modL (s : State) (l : Nat) (f : Launch → Launch) : State := { s with launches := mmod s.launches l f }

/-- Copies of a per-thread register (02 R57). -/
def Wave.nsib (w : Wave) : Nat := if w.triple then 3 else 1

/-- The sibling numbers of the wave's mode. -/
def Wave.sibs (w : Wave) : List Nat := if w.triple then [0, 1, 2] else [0]

/-- Largest issue group (01 R27). -/
def Wave.limit (w : Wave) : Nat := if w.triple then 16 else 48

/-- Thread `t`'s bit of `em` (02 R74). -/
def Wave.active (w : Wave) (t : Nat) : Bool := w.em.getLsbD t

/-- A thread by its tid. -/
def Wave.thread (w : Wave) (t : Nat) : Option Thread := w.threads[t]?

/-- The thread is not exited. -/
def Thread.live (t : Thread) : Bool := t.st != .exited

/-- Tids and threads. -/
def Wave.numbered (w : Wave) : List (Nat × Thread) := enumFrom 0 w.threads

/-- Change the threads of a list of tids. -/
def onTids (tids : List Nat) (f : Nat → Thread → Thread) : Nat → List Thread → List Thread
  | _, [] => []
  | n, t :: l => (if tids.contains n then f n t else t) :: onTids tids f (n + 1) l

/-- Change the threads of a wave with the tids given. -/
def Wave.onTids (w : Wave) (tids : List Nat) (f : Nat → Thread → Thread) : Wave :=
  { w with threads := Machine.onTids tids f 0 w.threads }

/-- Change every thread. -/
def Wave.mapThreads (w : Wave) (f : Thread → Thread) : Wave := { w with threads := w.threads.map f }

/-- The mask with the bits of the tids. -/
def maskOf (tids : List Nat) : W64 := tids.foldl (fun m t => m ||| BitVec.ofNat 64 (2 ^ t)) 0#64

/-- Tids of live threads. -/
def Wave.liveTids (w : Wave) : List Nat := (w.numbered.filter (fun p => p.2.live)).map (·.1)

/-- Bits below the grant. -/
def Wave.all (w : Wave) : W64 := BitVec.ofNat 64 (2 ^ w.grant - 1)

/-- A thread that issued an access stands in a siding; a handler finds it as it was kept (01 R34, 12 R371). -/
def Wave.sided (w : Wave) (a : Access) (n : Nat) : Bool :=
  match w.priv with
  | none => ((w.thread n).map (fun t => t.st == .inSiding)).getD false
  | some p => a.user && ((p.kept[n]?).map (fun t => t.st == .inSiding)).getD false

/-- A result that only threads in sidings, or exited ones, still await (01 R34). -/
def Wave.aside (w : Wave) (a : Access) : Bool :=
  decide ((a.dest.map (·.1)).getD 0 < 1024) &&
    a.lanes.all (fun l => w.sided a l.tid || !((w.thread l.tid).map (·.live)).getD false)

/-- A long-latency result is still owed to a register of the wave, and not to threads in sidings alone (01 R34, 02 R83). -/
def Wave.owes (w : Wave) : Bool := w.accs.any (fun a => a.dest.isSome && !w.aside a)

/-- Counter 0 load, 1 store, 2 engine (04 R153). -/
def Wave.counter (w : Wave) (c : Nat) : Nat :=
  if c == 0 then w.ldq.length else if c == 1 then w.stq.length else w.enq.length

/-- The bank of a context's activation table that is current on a core (07 R274). -/
def actBank (s : State) (core cid : Nat) : Nat := ((mget (getC s core).acts cid).map (·.cur)).getD 0

/-- Accounting of one word for one thread: place count, run, window and next address. `ends` says that the
word acts as marked by itself; the 24th word of a run acts as marked too (02 R79-R84). -/
def Thread.retire (cycle bank : Nat) (ends : Bool) (next : W64) (t : Thread) : Thread :=
  let n := t.runCount + 1
  let last := ends || n == 24
  { t with
    pc := next, hint := none, wimm := none, hnAddr := none, clock := t.clock + 2,
    wake := cycle + 2, wakeCode := 3,
    dues := t.dues.filter (fun e => decide (t.clock + 2 < e.2)),
    inRun := !last, runCount := if last then 0 else n,
    runBank := if t.inRun then t.runBank else bank,
    win := if last then [] else t.win,
    marking := last, opened := false, afresh := false }

/-- The word of a run that makes it exceed its limit (02 R80). -/
def Thread.overruns (ends : Bool) (t : Thread) : Bool := !ends && t.runCount + 1 == 24

/-- Every packed thread passes the word; `next` gives where each goes. -/
def Wave.retire (w : Wave) (cycle bank : Nat) (tids : List Nat) (ends : Bool) (next : Nat → W64) : Wave :=
  let spill := w.numbered.any (fun p => tids.contains p.1 && p.2.overruns ends)
  { w.onTids tids (fun n t => t.retire cycle bank ends (next n)) with runx := w.runx || spill }

/-- A new window entry (02 R60): eight places at most. -/
def pushWin (e : WinEntry) (t : Thread) : Thread := { t with win := (e :: t.win).take 8 }

/-- An undefined window entry (02 R63). -/
def undefWin : WinEntry := ⟨[], false, 0⟩

/-- The implicit section that begins at an address with the thread as it stands (02 R86, R87). -/
def Thread.openSection (born xblk : Nat) (em cm : Bool) (entry : W64) (t : Thread) : Thread :=
  { t with sec := ⟨entry, t.opidx, 0xFFFFF, true, t.regs, em, cm, t.digest, born, t.folds, xblk⟩, opened := true }

/-- Packed threads begin an implicit section where they now stand. -/
def Wave.openSections (w : Wave) (born : Nat) (tids : List Nat) : Wave :=
  w.onTids tids (fun n t => t.openSection born w.xblk (w.em.getLsbD n) (w.cm.getLsbD n) t.pc)

/-- A register specifier stands in an extended block that the wave does not hold (02 R64, R70). -/
def Wave.lacks (w : Wave) (p : Spec) : Bool :=
  decide (p.toNat < 0x60) && decide (32 * (w.xblk + 1) ≤ p.toNat)

/-- A register key (4 × specifier + sibling) in a block not held. -/
def Wave.lacksKey (w : Wave) (key : Nat) : Bool := decide (key / 4 < 0x60) && decide (32 * (w.xblk + 1) ≤ key / 4)

/-- Lane-registers that a wave is charged for `n` blocks (02 R66). -/
def laneRegs (grant : Nat) (triple : Bool) (n : Nat) : Nat := 32 * grant * (if triple then 3 else 1) * n

/-- Lane-registers that a wave holds: none once its last thread has exited or it is saved at pre-emption (02 R66, R68). -/
def Wave.charge (w : Wave) : Nat :=
  if w.threads.any (·.live) && w.pre != .saved then laneRegs w.grant w.triple (w.xblk + 1) else 0

/-- Records whose waves are still to start (13 R399). -/
def Bind.pending (b : Bind) : Bool := b.state == 1 || b.state == 2

/-- Lane-registers charged at the placement of a wave that is still to be dispatched (02 R66). -/
def Bind.charge (b : Bind) : Nat := if b.pending then laneRegs b.grant b.triple (b.xblk + 1) else 0

/-- Lane-registers of a quadrant in use (02 R66). -/
def quadUsed (s : State) (core quad : Nat) : Nat :=
  (s.waves.filter (fun e => e.2.core == core && e.2.slot % 4 == quad)).foldl (fun n e => n + e.2.charge) 0 +
    (s.binds.filter (fun e => e.2.core == core && e.2.slot % 4 == quad)).foldl (fun n e => n + e.2.charge) 0

/-- Lane-registers of a quadrant that are free. -/
def quadFree (s : State) (core quad : Nat) : Nat := 12288 - quadUsed s core quad

/-- Ordinal of the wave's unit. -/
def ordOf (s : State) (w : Wave) : Nat := ((mget s.units w.unit).map (·.ord)).getD 0

/-- Threads in one level-2 unit of the wave's launch (01 R16). -/
def e2Of (s : State) (w : Wave) : Nat := ((mget s.launches w.launch).map (fun l => lget 64 l.ext 0)).getD 64

/-- Logical global identity of a thread (01 R17): with u the mixed-radix digits, gtid is ordinal × E[2] + lidx. -/
def gtidOf (s : State) (w : Wave) (t : Thread) : Nat := ordOf s w * e2Of s w + t.lidx

/-- The launch seed (02 R72). -/
def seedOf (s : State) (w : Wave) : W64 := ((mget s.launches w.launch).map (·.seed)).getD 0#64

/-- The TLB that serves a wave: none while a replayed thread walks afresh (14 R413, R416). -/
def tlbOf (s : State) (w : Wave) : List TlbEnt := if w.threads.any (·.afresh) then [] else (getC s w.core).tlb

/-- The partition of a context. -/
def partOf (s : State) (cid : Nat) : Nat := ((mget s.contexts cid).map (·.part)).getD 0

/-- The global step of a context's partition (03 R135). -/
def gstepOf (s : State) (cid : Nat) : W64 := zget 0#64 s.gsteps (partOf s cid)

/-- The version number of a group (04 R167). -/
def groupVersion (s : State) (owner : Nat) : Nat := (mget s.groups owner).getD 0

/-- `pver` (02 R72). -/
def Wave.pver (w : Wave) : Nat := (w.pin.map (·.version)).getD 0

/-- Set flags in `aflag` (02 R76). -/
def Wave.flag (w : Wave) (f : Nat) : Wave := { w with aflag := w.aflag ||| BitVec.ofNat 32 f }

/-- `wstat` (02 R75). -/
def Wave.wstat (w : Wave) : Nat :=
  bnat w.ilk * 2 ^ 15 + bnat w.triple * 2 ^ 14 + w.xblk % 4 * 2 ^ 12 + (w.sidings.filter (fun f => !f.tids.isEmpty)).length % 8 * 2 ^ 9 +
    bnat w.runx * 2 ^ 8 + bnat w.det * 2 ^ 7

/-- OR of the live-in masks of the sections of live threads (06 R223). -/
def Wave.bmask (w : Wave) : Nat :=
  w.threads.foldl (fun m t => if t.live then m ||| t.sec.mask else m) 0

end Sys2Proof.Machine
end

