-- ==== Sys2Proof/Machine/Flags.lean ====
section
/-! DEFINITION. The flags of `aflag` and the numeric conditions of 03 R109-R112: which bit each names,
how results raise them, and how a rounding point rounds. -/

namespace Sys2Proof.Machine

/-- Bits of `aflag` above the IEEE flags (02 R76). -/
def flCANC : Nat := 2 ^ 5
def flSDIS : Nat := 2 ^ 6
def flIDIV : Nat := 2 ^ 7
def flCDIS : Nat := 2 ^ 8
def flAINF : Nat := 2 ^ 9
def flASAT : Nat := 2 ^ 10
def flSTALE : Nat := 2 ^ 11
def flOPTNAN : Nat := 2 ^ 12
def flABSM : Nat := 2 ^ 13
def flBCM : Nat := 2 ^ 14

/-- Clear the bits written as 1 (00 R9, W1C). -/
def w1c (old new : W32) : W32 := old &&& ~~~new

/-- `nctl` fields (02 R77). -/
def ncRstream (n : W32) : Nat := bitsAt n.toNat 8 2
def ncCancTh (n : W32) : Nat := bitsAt n.toNat 0 5

/-- Conditions of `aflag` whose trap is enabled in `nctl` (02 R77). -/
def enabledConds (n : W32) : Nat :=
  (if n.getLsbD 5 then flCANC else 0) + (if n.getLsbD 6 then flSDIS else 0) +
    (if n.getLsbD 7 then flIDIV else 0)

/-- A write of `nctl` (02 R77): RSTREAM 2 or 3 leaves RSTREAM, and reserved bits read as zero. -/
def writeNctl (old new : W32) : W32 :=
  let low := BitVec.ofNat 32 (new.toNat % 256)
  let r := bitsAt new.toNat 8 2
  if 2 ≤ r then low ||| BitVec.ofNat 32 (ncRstream old * 256) else low ||| BitVec.ofNat 32 (r * 256)

/-- How sibling `k` rounds rounding point `ctr` of a thread (03 R103-R106, 07 R251): `mode` is the word's
modifier, none for an instruction without one. -/
def roundRule (triple : Bool) (nctl : W32) (seed gtid : Nat) (mode : Option RM) (ctr k : Nat) : Rnd :=
  if triple then streamRule (ncRstream nctl) (lget 0 (rsg seed gtid ctr) k)
  else
    match mode with
    | some .rs => streamRule (ncRstream nctl) (lget 0 (rsg seed gtid ctr) 0)
    | some m => staticRule m
    | none => .rn

/-- FP32 values of the siblings, one standing for three in single mode (03 R108). -/
def three (l : List Nat) : FV × FV × FV :=
  match l with
  | [a, b, c] => (fdec fp32 a, fdec fp32 b, fdec fp32 c)
  | a :: _ => (fdec fp32 a, fdec fp32 a, fdec fp32 a)
  | [] => (.nan false, .nan false, .nan false)

/-- The digit count of a register's siblings in FP32 (03 R108). -/
def digits (l : List Nat) : Nat :=
  let v := three l
  digitCount 24 v.1 v.2.1 v.2.2

/-- The least of a list of counts. -/
def leastOf : List Nat → Nat
  | [] => 24
  | a :: l => min a (leastOf l)

/-- CANC: the digits lost from the least exact source to the result exceed the threshold (03 R109). -/
def cancCond (nctl : W32) (sources : List (List Nat)) (res : List Nat) : Nat :=
  if ncCancTh nctl + digits res < leastOf (sources.map digits) then flCANC else 0

/-- IDIV: the divisor or root operand has digit count 0 (03 R111). -/
def idivCond (d : List Nat) : Nat := if digits d == 0 then flIDIV else 0

end Sys2Proof.Machine
end

