-- ==== Sys2Proof/Machine/Operands.lean ====
section
/-! DEFINITION. Operand forms: reading and writing registers of the four levels (02 R56-R63), the
immediates of 05 R178, and results that arrive later (02 R81-R84). -/

namespace Sys2Proof.Machine

/-- Key of scalar `n` among owed and due registers. -/
def scalKey (n : Nat) : Nat := 1024 + n

/-- Key of a thread's `cm` bit among due registers. -/
def cmKey : Nat := 2048

/-- The free value for a thread, sibling and operand port (log 4). -/
def freeOp (s : State) (tid k port : Nat) : Nat := (freeVal s (tid * 64 + k * 16 + port)).toNat

/-- Outside interlocked mode a register whose result is still owed in the run, or due only later, reads
as an undefined value (02 R82, R84). -/
def Thread.unsettled (ilk : Bool) (t : Thread) (key : Nat) : Bool :=
  !ilk && (t.owed.contains key || decide (t.clock < zget 0 t.dues key))

/-- One 32-bit register copy (02 R56, R57); `free` stands for an undefined value. -/
def Thread.reg (ilk : Bool) (t : Thread) (free spec k : Nat) : Nat :=
  if t.unsettled ilk (4 * spec) then free % 2 ^ 32
  else
    match mget t.regs (4 * spec + k) with
    | none => 0
    | some (.val v) => v.toNat
    | some .undef => free % 2 ^ 32

/-- A window entry read at a width (02 R58, R61): 64 bits of a 32-bit entry have a free upper half. -/
def winRead (ilk : Bool) (clock : Nat) (free k : Nat) (wide : Bool) (e : Option WinEntry) : Nat :=
  match e with
  | none => if wide then free else free % 2 ^ 32
  | some e =>
    match e.vals[k]? with
    | none => if wide then free else free % 2 ^ 32
    | some v =>
      if !ilk && decide (clock < e.due) then (if wide then free else free % 2 ^ 32)
      else if !wide then v.toNat % 2 ^ 32
      else if e.wide then v.toNat
      else v.toNat % 2 ^ 32 + free / 2 ^ 32 * 2 ^ 32

/-- `ReadOp(t, k, spec, w)` (07 R249): sibling `k` of an operand, 32 or 64 bits. `port` tells the
instruction's operands apart for undefined values. -/
def readOp (s : State) (w : Wave) (tid : Nat) (t : Thread) (k port : Nat) (p : Spec) (wide : Bool) : Nat :=
  let free := freeOp s tid k (2 * port)
  let n := p.toNat
  if n < 0x68 then
    let lo := t.reg w.ilk free n k
    if wide then lo + 2 ^ 32 * t.reg w.ilk (freeOp s tid k (2 * port + 1)) (n + 1) k else lo
  else if n < 0x70 then winRead w.ilk t.clock free k wide t.win[n - 0x68]?
  else
    let v := if t.unsettled w.ilk (scalKey (n - 0x70)) then free else (zget 0#64 w.scal (n - 0x70)).toNat
    if wide then v else v % 2 ^ 32

/-- A scalar register as the packed threads read it: the first packed thread's places count (02 R84). -/
def readScal (s : State) (w : Wave) (tids : List Nat) (port : Nat) (r : Nat) : W64 :=
  let late := tids.any (fun n => match w.thread n with
    | some t => t.unsettled w.ilk (scalKey r)
    | none => false)
  if late then freeVal s (8192 + port) else zget 0#64 w.scal r

/-- Write a scalar register, its result usable `lat` cycles on (02 R84, 06 R205). -/
def writeScal (w : Wave) (tids : List Nat) (r lat : Nat) (v : W64) : Wave :=
  { w.onTids tids (fun _ t => { t with
      dues := mset t.dues (scalKey r) (t.clock + lat),
      clobbered := if t.owed.contains (scalKey r) then scalKey r :: t.clobbered else t.clobbered }) with
    scal := zset 0#64 w.scal r v }

/-- Put sibling values into a register level location: 32 bits each, or pairs (02 R58). -/
def putCells (regs : FMap Cell) (spec : Nat) (wide : Bool) : Nat → List Nat → FMap Cell
  | _, [] => regs
  | k, v :: l =>
    let m := zset (Cell.val 0#32) regs (4 * spec + k) (.val (BitVec.ofNat 32 v))
    let m := if wide then zset (Cell.val 0#32) m (4 * (spec + 1) + k) (.val (BitVec.ofNat 32 (v / 2 ^ 32))) else m
    putCells m spec wide (k + 1) l

/-- Note that a result of the register reads correctly only `lat` cycles on, and that an owed register has
been written over (02 R82, R84). -/
def Thread.noteWrite (lat : Nat) (key : Nat) (t : Thread) : Thread :=
  { t with
    dues := mset t.dues key (t.clock + lat),
    clobbered := if t.owed.contains key then key :: t.clobbered else t.clobbered }

/-- `WriteD` (07 R249, 02 R60, R62): a fixed-latency result, one value for each sibling of the mode. -/
def Thread.writeD (lat : Nat) (p : Spec) (wide : Bool) (vals : List Nat) (t : Thread) : Thread :=
  let e : WinEntry := ⟨vals.map (BitVec.ofNat 64), wide, t.clock + lat⟩
  let t := pushWin e t
  if p.toNat < 0x68 then
    let t := { t with regs := putCells t.regs p.toNat wide 0 vals }
    let t := t.noteWrite lat (4 * p.toNat)
    if wide then t.noteWrite lat (4 * (p.toNat + 1)) else t
  else t

/-- A long-latency instruction shifts the window and owes its destination (02 R60, R82). -/
def Thread.owe (p : Option Spec) (wide : Bool) (t : Thread) : Thread :=
  let t := pushWin undefWin t
  match p with
  | none => t
  | some p =>
    if p.toNat < 0x68 then
      { t with owed := (4 * p.toNat) :: (if wide then (4 * (p.toNat + 1)) :: t.owed else t.owed) }
    else t

/-- A scalar register that the packed threads are owed. -/
def Wave.oweScal (w : Wave) (tids : List Nat) (r : Nat) : Wave :=
  w.onTids tids (fun _ t => { t with owed := scalKey r :: t.owed })

/-- The destination of an access record: register keys of a specifier, none for window-only. -/
def destKey (p : Spec) (wide : Bool) : Nat × Bool := (4 * p.toNat, wide)

/-- Deliver one thread's long-latency result to its register copies (02 R82, R83), and to the entry state of
a section that began after access `id` was issued (02 R86, R88). Each register written over in the same run
holds either value: bits 0 and 1 of `keep` choose for the two of a pair. -/
def Thread.deliver (id key : Nat) (wide : Bool) (vals : List Nat) (keep : Nat) (t : Thread) : Thread :=
  if !t.live || decide (4 * 0x68 ≤ key) then t
  else
    let kept (h : Nat) : Bool := t.clobbered.contains (key + 4 * h) && tst keep h
    let put (m : FMap Cell) : FMap Cell :=
      let m := if kept 0 then m else putCells m (key / 4) false 0 vals
      if !wide || kept 1 then m else putCells m (key / 4 + 1) false 0 (vals.map (· / 2 ^ 32))
    { t with regs := put t.regs, sec := if id < t.sec.born then { t.sec with regs := put t.sec.regs } else t.sec }

/-- The immediate of a VI word: arithmetic on `bits` bits, with or without a wide part (05 R178). -/
def viImm (wimm : Option Nat) (imm : BitVec 7) (bits : Nat) : Nat :=
  match wimm with
  | some p => sext 32 bits (p * 128 + imm.toNat)
  | none => sext 7 bits imm.toNat

/-- The byte offset of a VI load or store, as a signed integer (05 R178). -/
def viOff (wimm : Option Nat) (imm : BitVec 7) (size : Nat) : Int :=
  match wimm with
  | some p => sgn 32 (p * 128 + imm.toNat)
  | none => sgn 7 imm.toNat * size

/-- The 64-bit immediate of an SC word (05 R178). -/
def scImm (wimm : Option Nat) (x : BitVec 7) : Nat :=
  match wimm with
  | some p => sext 32 64 (p * 128 + x.toNat)
  | none => sext 7 64 x.toNat

/-- The word offset of a relative branch (05 R178). -/
def brOff (wimm : Option Nat) (off : BitVec 21) : Int :=
  match wimm with
  | some p => sgn 46 (p * 2 ^ 21 + off.toNat)
  | none => sgn 21 off.toNat

/-- Operand x of an SC word: S(SB) when I = 0 (bit 6 ignored), else the immediate (06 R206). -/
def scX (s : State) (w : Wave) (e : Exec) (port : Nat) (i : Bool) (x : BitVec 7) : W64 :=
  if i then BitVec.ofNat 64 (scImm e.wimm x) else readScal s w e.tids port (x.toNat % 64)

end Sys2Proof.Machine
end

