-- ==== Sys2Proof/Machine/Report.lean ====
section
/-! DEFINITION. What the Signalbox writes for software to read: event rings (15 R441), the device error
record (15 R451, R452), completion words (15 R438), and writes to a context's privileged structures (12
R385, R465). -/

namespace Sys2Proof.Machine

/-- A number laid out in `n` little-endian bytes. -/
def numBytes (n v : Nat) : List Byte := bytesOf n v

/-- Write at a system address of a host request (PRESUMED, log 19): device memory below 512 GiB, else the
host's bus address. -/
def sysWrite (s : State) (a : Nat) (bs : List Byte) : State :=
  if a + bs.length ≤ memSize then writeHome s a bs else { s with hostMem := putBytes s.hostMem a bs }

/-- A granule of device memory held as poisoned (14 R423) that overlaps `n` bytes at `pa`. -/
def poisonedAt (s : State) (pa n : Nat) : Bool :=
  s.poison.any (fun g => decide (g * 32 < pa + n) && decide (pa < g * 32 + 32))

/-- A 32-byte granule that overlaps a piece and stands in a list of granules. -/
def meets (gs : List Nat) (p : Nat × Nat) : Option Nat :=
  gs.find? (fun g => decide (g * 32 < p.1 + p.2) && decide (p.1 < g * 32 + 32))

/-- Granules of other devices stand above this number. -/
def farGranules : Nat := 2 ^ 40

/-- A granule is held as poisoned from now on (14 R423). -/
def poisonGranule (s : State) (g : Nat) : State :=
  if farGranules ≤ g then s
  else { s with poison := if s.poison.contains g then s.poison else g :: s.poison, latent := s.latent.filter (· != g) }

/-- Read at a system address; poisoned device memory cannot be read. -/
def sysRead (s : State) (a n : Nat) : Option (List Byte) :=
  if a + n ≤ memSize then (if poisonedAt s a n then none else some (homeBytes s a n))
  else some (getBytes s.hostMem a n)

/-- Unit identifiers (15 R450). -/
def unitId (kind place index sub : Nat) : Nat := kind * 2 ^ 28 + place * 2 ^ 24 + index * 2 ^ 16 + sub

/-- The Signalbox as a unit. -/
def uSignalbox : Nat := unitId 8 4 0 0
/-- A core as a unit. -/
def uCore (core : Nat) : Nat := unitId 1 (core / 48) (core % 48) 0xFFFF
/-- An engine of a consist number 5d+e, or 20 and 21, as a unit. -/
def uEngine (con : Nat) : Nat := if con < 20 then unitId 4 (con / 5) (con % 5) 0 else unitId 4 (con - 16) (con - 15) 0
/-- The host interface of a function. -/
def uHost (fn : Nat) : Nat := unitId 7 4 fn 0
/-- A Trunk link. -/
def uLink (l : Nat) : Nat := unitId 6 4 l 0

/-- UNIT of an error entry for which the manual names none (log 4). -/
def freeUnit (s : State) : Nat := (freeVal s 9700).toNat % 2 ^ 32

/-- A function reaches device memory of its own partition and host memory in its windows alone, PF0 all of them (14 R426; 15 R436; log
19). -/
def fnReach (s : State) (fn a n : Nat) : Bool :=
  fn == 0 || if memSize < a + n then hostOk s (fn - 1) a n else physOk s (fn - 1) true a n

/-- Write an event into a function's ring (15 R441; log 69). Sources are the upper half of a unit identifier. -/
def event (s : State) (fn kind unit info : Nat) : State :=
  match mget s.funcs fn with
  | none => s
  | some f =>
    let src := unit / 65536
    let seq := zget 0 f.evSeq src
    let f' := { f with evSeq := mset f.evSeq src ((seq + 1) % 2 ^ 32) }
    let n := 2 ^ f.evlog
    if f.evlog < 6 || decide (16 < f.evlog) || !fnReach s fn (f.evbase + 16 * (f.evCount % n)) 16 then { s with funcs := mset s.funcs fn f' }
    else
      let drop := decide (n ≤ f.evCount)
      sysWrite { s with funcs := mset s.funcs fn { f' with evCount := f.evCount + 1 } } (f.evbase + 16 * (f.evCount % n))
        (numBytes 16 (info % 2 ^ 64 * 2 ^ 64 + seq * 2 ^ 32 + src * 2 ^ 16 + bnat drop * 2 ^ 8 + kind))

/-- Log an entry in the device error record (15 R451, R452, R461): the record counts the entries written to it since it was set, and the
next stands at that count (log 69). -/
def devError (s : State) (cls unit cid part paddr : Nat) : State :=
  let m := s.mgmt
  let e := paddr * 2 ^ 448 + s.tickCount.toNat * 2 ^ 384 + m.ecount * 2 ^ 320 + unit * 2 ^ 288 + cid * 2 ^ 272 +
    cls * 2 ^ 264 + part * 2 ^ 256
  let on := decide (6 ≤ m.elog)
  let s :=
    { s with
      mgmt := { m with
        ecount := m.ecount + 1, ewritten := m.ewritten + bnat on, newest := (e :: m.newest).take 16, fatal := m.fatal || cls == 7 } }
  let s :=
    if on then
      writeHome (writeHome s m.ebase (numBytes 8 (m.ewritten + 1))) (m.ebase + 64 + 64 * (m.ewritten % 2 ^ m.elog)) (numBytes 64 e)
    else s
  event s 0 4 unit m.ecount

/-- The function of a partition. -/
def fnOfPart (part : Nat) : Nat := part + 1

/-- The address stands in the context's register aperture (02 R90). -/
def inAperture (c : Context) (va : Nat) : Bool := decide (c.apbase.toNat ≤ va) && decide (va < c.apbase.toNat + 2 ^ 32)

/-- No walk serves the address: it is not canonical, or stands in the register aperture (14 R408). -/
def unwalked (s : State) (cid va : Nat) : Bool := decide (2 ^ 56 ≤ va) || ((mget s.contexts cid).map (fun c => inAperture c va)).getD false

/-- The Signalbox's translation of a context's privileged structure; an address that is never walked has none. -/
def sbTranslate (s : State) (cid va : Nat) (need : Need) : Xlate :=
  if unwalked s cid va then .fault 1 else translate s cid [] true need va

/-- Where a device write to a context's structure lands: nothing when it is lost (12 R465). -/
inductive SbPlace where
  | dev (pas : List Nat)
  | host (a : Nat)
  | lost (pa : Nat)
  | viol (pa : Nat)
  deriving DecidableEq, Repr

/-- The place of a structure of `n` bytes: single and triple device pages, and host pages, admit it. -/
def sbPlace (s : State) (cid va n : Nat) (need : Need) : SbPlace :=
  let part := partOf s cid
  match sbTranslate s cid va need with
  | .viol pa => .viol pa
  | .fault _ => .lost 0
  | .page p =>
    match placeOn s cid part none va p with
    | .single pa => if physOk s part (need == .write) pa n then .dev [pa] else .viol pa
    | .triple pa st =>
      if physOk s part (need == .write) pa n && physOk s part (need == .write) (pa + st) n && physOk s part (need == .write) (pa + 2 * st) n then
        .dev [pa, pa + st, pa + 2 * st]
      else .viol pa
    | .host a => if hostOk s part a n then .host a else .viol a
    | pl => .lost (bindPlace s pl).phys

/-- Write a context's structure without a report of failure. -/
def sbPut (s : State) (pl : SbPlace) (bs : List Byte) : State :=
  match pl with
  | .dev pas => pas.foldl (fun s pa => writeHome s pa bs) s
  | .host a => { s with hostMem := putBytes s.hostMem a bs }
  | _ => s

/-- The line of the last-level cache that a granule stands in (14 R423). -/
def lineOf (g : Nat) : Nat := g / (Config.lineGranules + 1)

/-- The number under which a byte of host memory stands among those kept for instruction caches. -/
def hostKey (a : Nat) : Nat := 2 ^ 64 + a

/-- A context is about to write bytes: its instruction fetches go on with what stands there until its next code swap (04 R144). -/
def keepOld (s : State) (cid : Nat) (l : List (Nat × Byte)) : State :=
  modX s cid fun c => { c with stale := l.foldl (fun m e => if (mget m e.1).isSome then m else mset m e.1 e.2) c.stale }

/-- The same for device memory. -/
def keepStale (s : State) (cid : Nat) (ps : List (Nat × Nat)) : State :=
  keepOld s cid ((ps.flatMap (fun p => span p.1 p.2)).map (fun a => (a, homeByte s a)))

/-- A context's write to host memory. -/
def putHost (s : State) (cid : Nat) (l : List (Nat × Byte)) : State :=
  let s := keepOld s cid (l.map (fun e => (hostKey e.1, zget 0#8 s.hostMem e.1)))
  { s with hostMem := putList s.hostMem l }

/-- Code that its host has put in place, which every context fetches. -/
def freshCode (s : State) (a n : Nat) : State :=
  { s with contexts := s.contexts.map (fun e => (e.1, { e.2 with stale := e.2.stale.filter (fun x => decide (x.1 < a) || decide (a + n ≤ x.1)) })) }

/-- A context's write to device memory, before it is made: the lines' last writer (14 R423), and the code that it may change (04
R144). -/
def tagWrite (s : State) (cid core : Nat) (ps : List (Nat × Nat)) : State :=
  let s := keepStale s cid ps
  { s with
    tags := ps.foldl (fun m p =>
      (span (lineOf (p.1 / 32)) (lineOf ((p.1 + p.2 - 1) / 32) - lineOf (p.1 / 32) + 1)).foldl (fun m n => mset m n (cid, core)) m) s.tags }

/-- A byte of a read-only field of a fault record (14 R418): writes of it, but for the Signalbox's own, are ignored (00 R9). -/
def readOnly (s : State) (pa : Nat) : Bool :=
  s.parts.any fun e =>
    decide (e.2.fring ≤ pa) && decide (pa < e.2.fring + 64 * 2 ^ e.2.flog) &&
      (decide (32 ≤ (pa - e.2.fring) % 64) || (pa - e.2.fring) % 64 / 8 == 1)

/-- What a write of bytes leaves in each of them: of a read-only one what stands there. -/
def softList (s : State) (bs : List (Nat × Byte)) : List (Nat × Byte) := bs.map (fun e => if readOnly s e.1 then (e.1, homeByte s e.1) else e)

/-- The same for bytes in a row. -/
def soft (s : State) (pa : Nat) (bs : List Byte) : List Byte := (softList s (place pa bs)).map (·.2)

/-- The link is brought up and has not failed (15 R442, R446). -/
def linkUp (s : State) (link : Nat) : Bool := decide (link < 18) && tst s.trunk.links link && !s.trunk.down.contains link

/-- The entry of the route table for a device (15 R446). -/
def routeTo (s : State) (dev : Nat) : Option Nat := s.trunk.routes.find? (fun r => bitsAt r 0 16 == dev)

/-- Ordinary traffic to a device can leave: it is this one, or a link that AMASK of its entry names is up (15 R443, R446). -/
def hasRoute (s : State) (dev : Nat) : Bool :=
  dev == s.trunk.devn || ((routeTo s dev).map (fun r => (span 0 18).any (fun l => tst r (32 + l) && linkUp s l))).getD false

/-- The place of an untyped single-mode store that a sampler makes for its context at user level, as a 64-bit `st.g.n64` would be
checked (06 R244, 08 R288, R292): none when it meets a fault. DESIGN CHOICE (log 60): a sampler has no unit of its own, so that an
address in the register aperture meets a fault. -/
def userPlace (s : State) (cid core va n : Nat) : Option Place :=
  match mget s.contexts cid with
  | none => none
  | some c =>
    if unwalked s cid va then none
    else
      match translate s cid (getC s core).tlb false .write va with
      | .page p =>
        let pl := placeOn s cid c.part none va p
        let admits : Bool := match pl with
          | .single _ => true
          | .triple _ _ => true
          | .host _ => true
          | .remote _ _ _ _ cls => cls != 2
          | _ => false
        if admits && placeOk s c.part true n pl then some pl else none
      | _ => none

/-- Bytes put into device memory for a context on a core: at once for every die, or as a write of the core's die. -/
def putUser (s : State) (cid core : Nat) (home : Bool) (pas : List Nat) (bs : List Byte) : State :=
  let s := tagWrite s cid core (pas.map (fun pa => (pa, bs.length)))
  let l := softList s (pas.flatMap (fun pa => place pa bs))
  if home then writeHomeList s l else writeDieList s (dieOf core) l

/-- A store of a sampler, and whether it is made (06 R244). Samples and the records of a stop or flush are seen by every die at once
(`home`; log 7). On a sharded page of another device the owner's answer is not known: a free value where traffic to it can leave (log
13; 14 R435; 15 R446). DESIGN CHOICE (log 60): bad memory, which 14 R424 charges to a writing wave, drops the store; an error that it
finds is held as poisoned from then on. A sample so dropped counts in NDROP (a record is lost), and no error ring entry is written, since no
wave makes the store. -/
def userStore (s : State) (cid core va : Nat) (bs : List Byte) (home : Bool) : State × Bool :=
  let dev (pas : List Nat) : State × Bool :=
    let ps := pas.map (fun pa => (pa, bs.length))
    if (ps.findSome? (meets s.poison)).isSome then (s, false)
    else
      match ps.findSome? (meets s.latent) with
      | some g => (poisonGranule s g, false)
      | none => (putUser s cid core home pas bs, true)
  match userPlace s cid core va bs.length with
  | some (.single pa) => dev [pa]
  | some (.triple pa st) => dev [pa, pa + st, pa + 2 * st]
  | some (.host a) => (putHost s cid (place a bs), true)
  | some (.remote d _ _ _ _) => (nextFree s, hasRoute s d && tst (freeVal s 9790).toNat 0)
  | _ => (s, false)

/-- A record write of the sampler, which may be lost (06 R247). -/
def tryStore (s : State) (cid core va : Nat) (bs : List Byte) : State := (userStore s cid core va bs true).1

/-- The samples of the running cycle are written, or dropped (06 R244). -/
def flushSamples (s : State) (core : Nat) : State :=
  match (getC s core).sampler with
  | none => s
  | some m =>
    m.pending.foldl (fun s v =>
      let set (s : State) (f : Sampler → Sampler) : State := modC s core (fun c => { c with sampler := c.sampler.map f })
      let n := (((getC s core).sampler).map (·.nwr)).getD 0
      match if m.cap ≤ n then (s, false) else userStore s m.cid core ((m.buf.toNat + 16 * n) % 2 ^ 64) (numBytes 16 v) true with
      | (s, false) => set s (fun x => { x with ndrop := min (2 ^ 32 - 1) (x.ndrop + 1) })
      | (s, true) => set s (fun x => { x with nwr := x.nwr + 1 }))
      (modC s core (fun c => { c with sampler := some { m with pending := [] } }))

/-- Record writes of a stop or flush that are still to be performed write nothing any more: a later write of the same record by the
sampler itself takes their place (06 R247). -/
def supersede (s : State) (core : Nat) (rec' : W64) : State :=
  let replaced (a : Access) : Bool := match a.op with
    | .sampler (_ + 1) => ((a.lanes.head?).bind (fun l => l.data.head?)) == some rec'.toNat
    | _ => false
  { s with waves := s.waves.map (fun e =>
      if e.2.core == core then (e.1, { e.2 with accs := e.2.accs.map (fun a => if replaced a then { a with lanes := [] } else a) }) else e) }

/-- The sampler writes its counts and STAT to the record (06 R242, R247), after every write of it before. -/
def samplerReport (s : State) (core : Nat) (m : Sampler) (stat : Nat) : State :=
  let s := supersede s core m.recAddr
  let s := tryStore s m.cid core (m.recAddr.toNat + 8) (numBytes 4 m.ndrop ++ numBytes 4 m.nwr)
  tryStore s m.cid core (m.recAddr.toNat + 16) (numBytes 1 stat)

/-- The violation report of R427 without its ring entry. -/
def violEvent (s : State) (cid pa : Nat) : State := event s (fnOfPart (partOf s cid)) 3 uSignalbox pa

/-- A write of the context error ring (12 R465): a lost write is logged. DESIGN CHOICE (log 79): one that violates the partition has
no entry, since the entry would have to be written to the ring itself. -/
def ringWrite (s : State) (cid va : Nat) (bs : List Byte) : State :=
  match sbPlace s cid va bs.length .write with
  | .lost pa => devError s 6 uSignalbox cid (partOf s cid) pa
  | .viol pa => violEvent s cid pa
  | pl => sbPut s pl bs

/-- Read a context's structure. -/
def sbRead (s : State) (cid va n : Nat) : Option (List Byte) :=
  match sbPlace s cid va n .read with
  | .dev (pa :: _) => if poisonedAt s pa n then none else some (homeBytes s pa n)
  | .host a => some (getBytes s.hostMem a n)
  | _ => none

/-- An entry of the context error ring (12 R385). `who` is the wave charged: ordinal, wlog, core, slot. -/
def ringEntry (s : State) (cid addr info0 info1 cause sub eng ord wlog core slot : Nat) : State :=
  match mget s.contexts cid with
  | none => s
  | some c =>
    let e := addr * 2 ^ 448 + info0 * 2 ^ 384 + info1 * 2 ^ 320 + c.errCount * 2 ^ 256 + ord % 2 ^ 32 * 2 ^ 224 +
      wlog * 2 ^ 192 + cause * 2 ^ 184 + sub * 2 ^ 176 + eng * 2 ^ 168 + core / 48 * 2 ^ 160 + core % 48 * 2 ^ 152 +
      slot * 2 ^ 144
    let s := modX s cid (fun c => { c with errCount := c.errCount + 1 })
    let s := ringWrite s cid c.errrec.toNat (numBytes 8 (c.errCount + 1))
    ringWrite s cid (c.errrec.toNat + 64 + 64 * (c.errCount % 2 ^ c.errlog)) (numBytes 64 e)

/-- The ring entry and the report of a violation (14 R427): ADDR the instruction that is charged, INFO0 the address that failed. -/
def violEntry (s : State) (cid : Nat) (at_ : W64) (va pa ord wlog core slot : Nat) : State :=
  violEvent (ringEntry s cid at_.toNat va 0 7 7 0 ord wlog core slot) cid pa

/-- A device write to a context's structure (12 R465): a lost write is logged, and a violation has its entry and its report; only the
freeze is for other masters than the Signalbox (14 R427). DESIGN CHOICE (log 79): the entry charges no wave, its fields being 0. -/
def sbWrite (s : State) (cid va : Nat) (bs : List Byte) (unit : Nat) : State :=
  match sbPlace s cid va bs.length .write with
  | .lost pa => devError s 6 unit cid (partOf s cid) pa
  | .viol pa => violEntry s cid 0#64 va pa 0 0 0 0
  | pl => sbPut s pl bs

/-- A device write to a context's structure that an engine makes for a command (12 R465): one that violates the partition freezes the
consist (14 R427). -/
def engineWrite (s : State) (con va : Nat) (bs : List Byte) (unit : Nat) (c : Cmd) : State :=
  match sbPlace s c.cid va bs.length .write with
  | .viol pa =>
    let s := violEntry s c.cid c.addr va pa (((mget s.units c.unit).map (·.ord)).getD 0) c.wlog c.core c.slot
    modX s c.cid (fun x => { x with consists := mmod x.consists con (fun q => { q with frozen := true }) })
  | _ => sbWrite s c.cid va bs unit

/-- The completion word of a request (15 R438). -/
def completeReq (s : State) (cpl tag status : Nat) : State := sysWrite s cpl (numBytes 8 (tag * 2 ^ 32 + status))

/-- A host function is frozen for a violation (14 R427): its requests are dropped, and the host is told. -/
def freezeFn (s : State) (fn pa : Nat) : State :=
  event { s with funcs := mmod s.funcs fn (fun f => { f with frozen := true }) } fn 3 (uHost fn) pa

/-- The request at the head of a function's queue is complete: its word is written, and the next may begin (15 R438,
R440). -/
def finishRequest (s : State) (fn queue status : Nat) : State :=
  match mget s.funcs fn with
  | none => s
  | some f =>
    let q := lget Queue.init f.queues queue
    match q.cur with
    | none => s
    | some v =>
      let cpl := bitsAt v 320 64
      let s := if fnReach s fn cpl 8 then completeReq s cpl (bitsAt v 288 32) status else freezeFn s fn cpl
      match mget s.funcs fn with
      | none => s
      | some f =>
        let q' : Queue := { q with head := (q.head + 1) % 2 ^ q.qlog, cur := none, came := q.came.drop 1 }
        { s with funcs := mset s.funcs fn { f with queues := lset f.queues queue q' } }

/-- Freeze a wave for a violation (14 R427) by the instruction at an address. -/
def freezeWave (s : State) (k : Nat) (at_ : W64) (va pa : Nat) : State :=
  match mget s.waves k with
  | none => s
  | some w => violEntry (setW s k { w with frozen := true }) w.cid at_ va pa (ordOf s w) w.wlog w.core w.slot

end Sys2Proof.Machine
end

