-- ==== Sys2Proof/Machine/Faults.lean ====
section
/-! DEFINITION. Translation faults: registering them in the partition's fault ring and putting the
faulting threads into sidings (01 R34, R35; 14 R417-R420). -/

namespace Sys2Proof.Machine

/-- Where the record of a SEQ stands (14 R418). -/
def recAddr (p : Partition) (seq : Nat) : Nat := p.fring + 64 * (seq % 2 ^ p.flog)

/-- A record's 64 bytes as a number. -/
def readRec (s : State) (p : Partition) (seq : Nat) : Nat := ofBytes (homeBytes s (recAddr p seq) 64)

/-- Write a record. -/
def writeRec (s : State) (p : Partition) (seq v : Nat) : State := writeHome s (recAddr p seq) (bytesOf 64 v)

/-- STATE of a record word (14 R418). -/
def recState (r : Nat) : Nat := bitsAt r 0 8

/-- Set the field of `n` bits at `lo` to `v`. -/
def setField (r lo n v : Nat) : Nat := r % 2 ^ lo + v % 2 ^ n * 2 ^ lo + r / 2 ^ (lo + n) * 2 ^ (lo + n)

/-- OR into a field. -/
def orField (r lo n v : Nat) : Nat := setField r lo n (bitsAt r lo n ||| v)

/-- The open record of a context for a block, if any (14 R419). -/
def openRec (s : State) (p : Partition) (cid block : Nat) : List (Nat × Nat × Nat) → Option Nat
  | [] => none
  | (seq, c, b) :: l =>
    if c == cid && b == block && recState (readRec s p seq) == 1 && bitsAt (readRec s p seq) 320 64 == seq % 2 ^ 64 then some seq
    else openRec s p cid block l

/-- The record as a fault of page `i` opens it. -/
def freshRec (seq cid block i reason kind : Nat) : Nat :=
  2 ^ (448 + i) + block * 2 ^ 384 + seq * 2 ^ 320 + cid * 2 ^ 112 + 2 ^ (104 + reason) + kind * 2 ^ 96 + 2 ^ 64 + 1

/-- NWAIT one higher, saturating. -/
def moreWait (r : Nat) : Nat := setField r 64 32 (min (2 ^ 32 - 1) (bitsAt r 64 32 + 1))

/-- The next slot of the ring is free. -/
def slotFree (s : State) (p : Partition) : Bool := recState (readRec s p p.seqNext) == 0

/-- Open a record in the next slot (14 R419). -/
def openRecord (s : State) (part : Nat) (p : Partition) (cid va reason kind : Nat) : State :=
  let block := va / 2 ^ 21 * 2 ^ 21
  let seq := p.seqNext
  let s := writeRec s p seq (freshRec seq cid block (va / 32768 % 64) reason kind)
  let s : State := { s with parts := mset s.parts part { p with seqNext := seq + 1, recs := (seq, cid, block) :: p.recs } }
  event s (fnOfPart part) 1 uSignalbox seq

/-- Hold a fault (14 R419). The answer names it as 2^64 + its number. -/
def holdFault (s : State) (part : Nat) (p : Partition) (cid va reason kind src : Nat) : State × Nat :=
  let n := s.nextId
  let t : State :=
    { s with
      nextId := n + 1,
      parts := mset s.parts part { p with heldFaults := p.heldFaults ++ [(n, cid, va, reason, kind, src)] } }
  (if slotFree s p then t else event t (fnOfPart part) 2 uSignalbox p.seqNext, 2 ^ 64 + n)

/-- Merge a fault into an open record (14 R419). `first`: the waiting party is new to the record. -/
def mergeFault (s : State) (p : Partition) (seq va reason kind : Nat) (first : Bool) : State :=
  let r := readRec s p seq
  let r := orField r 448 64 (2 ^ (va / 32768 % 64))
  let r := orField r 104 8 (2 ^ reason)
  let r := orField r 96 8 kind
  writeRec s p seq (if first then moreWait r else r)

/-- Register a fault (14 R419): merge into the context's open record of the block, or open one, or hold it. Faults of
one core or engine keep their order. `has`: the records to which the waiting party is attached already. -/
def regFault (s : State) (cid va reason kind src : Nat) (has : List Nat) : State × Nat :=
  let part := partOf s cid
  match mget s.parts part with
  | none => (s, 0)
  | some p =>
    if p.heldFaults.any (fun h => h.2.2.2.2.2 == src) then holdFault s part p cid va reason kind src
    else
      match openRec s p cid (va / 2 ^ 21 * 2 ^ 21) p.recs with
      | some seq => (mergeFault s p seq va reason kind (!has.contains seq), seq)
      | none =>
        if slotFree s p then (openRecord s part p cid va reason kind, p.seqNext) else holdFault s part p cid va reason kind src

/-- Register each faulting page of one party once; the pages with their records. -/
def regPages (cid kind src : Nat) : State → List FPage → List (Nat × Nat) → State × List FPage
  | s, done, [] => (s, done)
  | s, done, (va, reason) :: l =>
    if done.any (fun f => f.va == va / 32768 * 32768) then regPages cid kind src s done l
    else
      let r := regFault s cid va reason kind src (done.map (·.seq))
      regPages cid kind src r.1 (done ++ [⟨r.2, va / 32768 * 32768, false⟩]) l

/-- KINDS bits of 14 R418. -/
def kRead : Nat := 1
def kWrite : Nat := 2
def kExec : Nat := 4
def kLane : Nat := 8
def kScalar : Nat := 16
def kEngine : Nat := 32

/-- The lowest siding number not in use, 0 to 4: number 4 is the pending fifth siding (01 R35). -/
def freeSiding (w : Wave) : Nat :=
  match (span 0 5).find? (fun n => !w.sidings.any (fun f => f.num == n)) with
  | some n => n
  | none => 4

/-- A siding is added. DESIGN CHOICE (log 61): threads whose owner refuses them while a fifth siding is pending join it, so that the
wave never holds more than one beyond the four (01 R35). -/
def addSiding (f : Siding) (l : List Siding) : List Siding :=
  if l.any (fun x => x.num == 4) && f.num == 4 then
    l.map (fun x => if x.num == 4 then { x with tids := x.tids ++ f.tids, pages := x.pages ++ f.pages } else x)
  else l ++ [f]

/-- Threads of a wave enter a siding where they stand (01 R34): HN words, registers and counters stay. -/
def formSiding (s : State) (k : Nat) (kind : Nat) (faults : List (Nat × Nat × Nat)) (tids : List Nat) : State :=
  match mget s.waves k with
  | none => s
  | some w =>
    let r := regPages w.cid kind w.core s [] (faults.map (fun f => (f.2.1, f.2.2)))
    let n := freeSiding w
    let w := w.onTids tids (fun _ t => { t with st := .inSiding, hold := .none, siding := n })
    setW r.1 k { w with sidings := addSiding ⟨n, tids, r.2⟩ w.sidings }

/-- All pages of a siding are served (14 R420). -/
def Siding.over (f : Siding) : Bool := !f.tids.isEmpty && f.pages.all (·.served)

/-- A read before issue as accesses are numbered for an invalidate (14 R415). -/
def FarRead.number (r : FarRead) : Nat := 2 ^ 64 + 4 * r.va + r.kind

/-- Loads and stores that an access counts as (04 R153). -/
def Access.counts (a : Access) : Nat × Nat :=
  match a.op with
  | .load _ => (1, 0)
  | .ldD => (1, 0)
  | .atomic _ ret => (bnat ret, 1)
  | .tdesc _ => (1, 1)
  | .sampler act => (if act == 0 then 4 else 0, 1)
  | .result _ => (0, 0)
  | .publish => (0, 0)
  | _ => (0, 1)

/-- Sidings all of whose pages are served go back to Ready, held while a handler runs (01 R34; 12 R371 step 4; 14 R420). A
pending fifth siding takes the place of one of the first four; where it alone is served, its threads are Ready but the wave
still waits for one of those (01 R35). DESIGN CHOICE (log 61). -/
def Wave.freeSidings (cycle : Nat) (w : Wave) : Wave :=
  if w.priv.isSome then w
  else
    let ended := w.sidings.filter (·.over)
    let place := ((ended.find? (fun f => f.num != 4)).map (·.num) : Option Nat)
    let left := w.sidings.filterMap fun f =>
      if f.num == 4 then
        match place with
        | some n => if f.over || f.tids.isEmpty then none else some { f with num := n }
        | none => some (if f.over then ⟨4, [], []⟩ else f)
      else if f.over then none
      else some f
    let w := ({ w with sidings := left } : Wave).onTids (ended.flatMap (·.tids)) (fun _ t =>
      if t.st == .inSiding then { t with st := .ready, hold := .none, wake := max t.wake (cycle + 1), afresh := true } else t)
    left.foldl (fun w f => w.onTids f.tids (fun _ t => { t with siding := f.num })) w

end Sys2Proof.Machine
end

