-- ==== Sys2Proof/Machine/Units.lean ====
section
/-! DEFINITION. Barriers of a unit, threads that exit, waves that end or are cancelled, launches and
contexts that end (01 R36-R38; 06 R221; 12 R375, R376; 13 R402, R403). -/

namespace Sys2Proof.Machine

/-- Exited threads of a unit: those of ended waves, and those of resident ones that are not among them (01 R37, R55). -/
def exitedOf (s : State) (u : Nat) (unit : LUnit) : Nat :=
  let out (t : Thread) : Bool := !t.live && (mget unit.gone t.lidx).isNone
  s.waves.foldl (fun n e => if e.2.unit == u then n + (e.2.threads.filter out).length else n) unit.gone.length

/-- Threads of a launch's level-2 unit. -/
def extent2 (s : State) (l : Nat) : Nat := ((mget s.launches l).map (fun x => lget 64 x.ext 0)).getD 64

/-- Non-exited threads of a unit (01 R37). -/
def liveOf (s : State) (u : Nat) (unit : LUnit) : Nat := extent2 s unit.launch - exitedOf s u unit

/-- The phase completes (01 R37). -/
def Bar.next (b : Bar) : Bar := ⟨b.phase + 1, none, 0, b.since⟩

/-- The phase is full. -/
def Bar.full (live : Nat) (b : Bar) : Bool :=
  match b.count with
  | none => false
  | some 0 => decide (live ≤ b.arrived)
  | some c => decide (c ≤ b.arrived)

/-- One arrival with a count: the barrier after it, and whether the count differs from the armed one. -/
def Bar.arrive (live count : Nat) (b : Bar) : Bar × Bool :=
  let mism := match b.count with
    | none => false
    | some c => c != count
  let b : Bar := { b with count := some (b.count.getD count), arrived := b.arrived + 1 }
  (if b.full live then b.next else b, mism)

/-- Arrivals of a list of threads in turn: the phase each belongs to, and whether a count differed. -/
def Bar.arriveAll (live count : Nat) : Bar → List Nat → Bar × List (Nat × Nat) × Bool
  | b, [] => (b, [], false)
  | b, t :: l =>
    let r := b.arrive live count
    let q := Bar.arriveAll live count r.1 l
    (q.1, (t, b.phase) :: q.2.1, r.2 || q.2.2)

/-- A named barrier of a unit; one not yet used is in phase 0. -/
def LUnit.bar (u : LUnit) (n : Nat) : Bar := (mget u.bars n).getD ⟨0, none, 0, 0⟩

/-- A thread's wait at a named barrier whose phase is over, since a cycle before this one (11 R362). -/
def Thread.barDone (cycle : Nat) (u : LUnit) (t : Thread) : Bool :=
  match t.st, t.hold with
  | .atBarrier, .named n ph => decide (ph < (u.bar n).phase) && decide ((u.bar n).since < cycle)
  | _, _ => false

/-- Some thread of the unit still waits for an earlier phase of named barrier `n` (11 R362). -/
def waitsBehind (s : State) (u n phase : Nat) : Bool :=
  s.waves.any fun e => e.2.unit == u && e.2.threads.any fun t => t.st == .atBarrier && match t.hold with
    | .named b ph => b == n && decide (ph < phase)
    | _ => false

/-- Phases with a count of 0 that an exit completes (01 R37). -/
def closeBars (s : State) (u : Nat) : State :=
  match mget s.units u with
  | none => s
  | some unit =>
    let live := liveOf s u unit
    let bars := unit.bars.map fun e =>
      if e.2.count == some 0 && e.2.full live then
        (e.1, { e.2.next with since := if waitsBehind s u e.1 e.2.phase then e.2.since else s.cycle })
      else e
    modU s u (fun x => { x with bars := bars })

/-- A wave's arrivals at named barrier `n` (06 R229): each thread takes its phase, and waits if told to. -/
def arriveNamed (s : State) (k n count : Nat) (wait : Bool) (tids : List Nat) : State :=
  match mget s.waves k with
  | none => s
  | some w =>
    match mget s.units w.unit with
    | none => s
    | some unit =>
      let r := Bar.arriveAll (liveOf s w.unit unit) count (unit.bar n) tids
      let old := unit.bar n
      let kept := r.1.phase == old.phase || waitsBehind s w.unit n old.phase
      let s := modU s w.unit (fun u => { u with bars := mset u.bars n { r.1 with since := if kept then old.since else s.cycle } })
      let w := w.onTids tids (fun i t =>
        let ph := ((r.2.1.find? (fun e => e.1 == i)).map (·.2)).getD 0
        if wait then { t with st := .atBarrier, hold := .named n ph }
        else { t with st := .ready, hold := .none })
      let w := if r.2.2 then w.flag (2 ^ 14) else w
      setW s k w

/-- The tier that a platform is bound to (01 R38): level, if any. -/
def platTier (l : Launch) (p : Nat) : Option Nat :=
  (span 3 5).find? fun k => decide (k ≤ l.lvl) && lget 0 l.tiers (k - 2) / 16 % 2 == 1 && lget 0 l.tiers (k - 2) / 32 == p

/-- Level-2 units in one unit of tier `k`. -/
def tierUnits (l : Launch) (k : Nat) : Nat := (span 3 (k - 2)).foldl (fun n j => n * lget 1 l.ext (j - 2)) 1

/-- Threads in one unit of tier `k`. -/
def tierThreads (l : Launch) (k : Nat) : Nat := tierUnits l k * lget 64 l.ext 0

/-- Key of a tree barrier: platform and the ordinal of the tier unit. -/
def treeKey (l : Launch) (plat tier ord : Nat) : Nat := plat + 8 * (ord / tierUnits l tier)

/-- A wave's arrivals at a tree barrier (01 R38): each thread's arrivals fall to successive phases. -/
def arriveTree (s : State) (k plat : Nat) (wait : Bool) (tids : List Nat) : State :=
  match mget s.waves k with
  | none => s
  | some w =>
    match mget s.launches w.launch with
    | none => s
    | some l =>
      match platTier l plat with
      | none => s
      | some tier =>
        let key := treeKey l plat tier (ordOf s w)
        let b := (mget l.trees key).getD ⟨0, [], 0, []⟩
        let g (i : Nat) : Nat := ((w.thread i).map (gtidOf s w)).getD 0
        let b' : TreeBar := { b with
          arrived := tids.foldl (fun m i => mset m (g i) (zget 0 m (g i) + 1)) b.arrived, since := s.cycle,
          dies := (dieOf w.core :: b.dies).eraseDups }
        let s := modL s w.launch (fun l => { l with trees := mset l.trees key b' })
        let w := w.onTids tids (fun i t =>
          if wait then { t with st := .atBarrier, hold := .tree plat (b.phase + zget 0 b.arrived (g i)) }
          else { t with st := .ready, hold := .none })
        setW s k w

/-- Results owed to registers of threads that have exited are discarded (06 R221); a scalar register is the wave's. -/
def dropResults (w : Wave) : Wave :=
  { w with
      accs := w.accs.map fun a =>
      if decide ((a.dest.map (·.1)).getD 1024 < 1024) && (a.lanes.all fun x => !((w.thread x.tid).map (·.live)).getD false) then
        { a with dest := none }
      else a }

/-- A stall sampler whose context has no live wave left on the core stops (06 R247): it takes no sample in this cycle. -/
def stopSampler (s : State) (core cid : Nat) : State :=
  match (getC s core).sampler with
  | none => s
  | some m =>
    if m.cid == cid && !(s.waves.any (fun e => e.2.core == core && e.2.cid == cid && e.2.threads.any (·.live))) then
      modC (samplerReport s core m 0) core (fun c => { c with sampler := none })
    else s

/-- The error ring entry of a cause owed to a wave that has ended; ENG for command errors (12 R385). -/
def ringOf (s : State) (cid ord wlog core slot : Nat) (c : Cause) : State :=
  ringEntry s cid c.taddr.toNat c.info0.toNat c.info1.toNat c.code c.sub (if c.code == 0x0D then bitsAt c.info0.toNat 56 6 else 0)
    ord wlog core slot

/-- Causes that a wave which has ended, resident or saved, can no longer take go to the error ring (09 R328, 12 R385). -/
def ringOwed (s : State) (cid ord wlog core slot : Nat) (causes cmdErrs : List Cause) : State :=
  (causes.filter (fun c => c.code == 0x0C || c.code == 0x0D) ++ cmdErrs).foldl (fun s c => ringOf s cid ord wlog core slot c) s

/-- The causes owed to a resident wave. -/
def owedCauses (s : State) (w : Wave) : State := ringOwed s w.cid (ordOf s w) w.wlog w.core w.slot w.causes w.cmdErrs

/-- Versions of a group that some wave, resident or saved, pins. -/
def pinnedBy (s : State) (owner : Nat) : List Nat :=
  let a := s.waves.foldl (fun l e => match e.2.pin with
    | some p => if p.owner == owner then p.version :: l else l
    | none => l) []
  s.units.foldl (fun l e => e.2.saved.foldl (fun l v => match v.pin with
    | some p => if p.owner == owner then p.version :: l else l
    | none => l) l) a

/-- Ranges of ended contexts that no wave pins any more are destroyed (12 R376), and groups without a range cease (14
R431). -/
def sweepRanges (s : State) : State :=
  let ranges := s.ranges.filter (fun e => !(e.2.dead && !e.2.leaving && (pinnedBy s e.2.owner).isEmpty))
  { s with ranges := ranges, groups := s.groups.filter (fun g => ranges.any (fun e => e.2.owner == g.1 && !e.2.leaving)) }

/-- The last thread of a wave has exited (06 R221): blocks, pin and aperture writes go; the slot stays until
the counters are 0. -/
def endWave (s : State) (k : Nat) : State :=
  match mget s.waves k with
  | none => s
  | some w =>
    if w.threads.any (·.live) then s
    else
      let s := owedCauses s w
      let w' : Wave :=
        { w with
          xblk := 0, pin := none, apw := [], causes := [], cmdErrs := [], sidings := [], held := [], reads := [], parked := false, priv := none,
          accs := w.accs.map (fun a => { a with dest := none }) }
      let s := setW s k w'
      let s := modC s w.core (fun c => { c with reqs := c.reqs.filter (fun r => r.1 != k) })
      sweepRanges (stopSampler s w.core w.cid)

/-- Threads exit (06 R216, R221). -/
def exitThreads (s : State) (k : Nat) (tids : List Nat) : State :=
  match mget s.waves k with
  | none => s
  | some w =>
    let keep := ~~~ (maskOf tids)
    let w := w.onTids tids (fun _ t =>
      { t with
        st := .exited, hold := .none, hint := none, wimm := none, hnAddr := none, marking := false, inRun := false, runCount := 0 })
    let w : Wave :=
      { w with
      em := w.em &&& keep, cm := w.cm &&& keep,
      apw := w.apw.filter (fun a => !(tids.any (fun i => ((w.thread i).map (·.lidx)) == some a.lidx))) }
    let s := setW s k (dropResults w)
    closeBars (endWave s k) w.unit

/-- A wave is cancelled (01 R36): every thread exits, results are discarded, nothing issued is withdrawn. -/
def cancelWave (s : State) (k : Nat) : State :=
  match mget s.waves k with
  | none => s
  | some w =>
    let s := setW s k { w with priv := none, frozen := false, accs := w.accs.map (fun a => { a with dest := none }) }
    exitThreads s k (span 0 w.threads.length)

/-- Platforms that a launch names (13 R389). -/
def platsOf (l : Launch) : List Nat := l.tiers.filterMap (fun t => if tst t 4 then some (t / 32 % 8) else none)

/-- A launch that waits for platforms takes them when all are free (01 R43). -/
def takePlatforms (s : State) (n : Nat) : State :=
  match mget s.launches n with
  | none => s
  | some l =>
    if l.st == .waitPlatform && (platsOf l).all (fun p => (mget s.platforms p).isNone) then
      modL { s with platforms := (platsOf l).foldl (fun m p => mset m p n) s.platforms } n (fun l => { l with st := .active })
    else s

/-- Launch `a` goes before launch `b` (13 R401). -/
def goesBefore (a b : Nat × Launch) : Bool :=
  decide (b.2.waitPrio < a.2.waitPrio) || (a.2.waitPrio == b.2.waitPrio && decide (a.2.submitted ≤ b.2.submitted))

/-- Launches in the order of R401. -/
def inPriority (l : List (Nat × Launch)) : List (Nat × Launch) :=
  l.foldr (fun x out => out.takeWhile (fun y => goesBefore y x && !goesBefore x y) ++ [x] ++ out.dropWhile (fun y => goesBefore y x && !goesBefore x y)) []

/-- Platforms that have become free go to launches that wait for them (01 R43). -/
def grantPlatforms (s : State) : State :=
  ((inPriority (s.launches.filter (fun e => e.2.st == .waitPlatform))).map (·.1)).foldl takePlatforms s

/-- The completion record of a launch (13 R403). -/
def writeCompletion (s : State) (l : Launch) (status err dsub : Nat) (dig : W64) : State :=
  let runc := (l.placedFirst.map (fun p => s.cycle - p)).getD 0
  let v := dig.toNat * 2 ^ 192 + runc * 2 ^ 128 + err * 2 ^ 24 + dsub * 2 ^ 16 + status
  sbWrite s l.cid l.compl (numBytes 32 v) uSignalbox

/-- A launch is over but for its record (13 R402, R403): its platforms and unclaimed units are freed. -/
def endLaunch (s : State) (n status dsub : Nat) (dig : W64) : State :=
  let s := { s with platforms := s.platforms.filter (fun e => e.2 != n) }
  grantPlatforms (modL s n (fun l => { l with st := .ending status dsub dig, queues := [[], [], [], []], searching := [] }))

/-- The record and event of a launch that is over (13 R403, 15 R441). -/
def closeLaunch (s : State) (n status dsub : Nat) (dig : W64) : State :=
  match mget s.launches n with
  | none => s
  | some l =>
    let s := writeCompletion s l status 0 dsub dig
    let s := event s (fnOfPart l.part) 7 uSignalbox l.addr
    grantPlatforms (modL { s with platforms := s.platforms.filter (fun e => e.2 != n) } n
      (fun l => { l with st := .done, queues := [[], [], [], []], searching := [] }))

/-- The unit digest (13 R406). -/
def unitDigest (u : LUnit) : W64 :=
  u.gone.foldl (fun (h : W64) e => BitVec.ofNat 64 (mix h.toNat e.2.toNat)) (BitVec.ofNat 64 (mix 0 u.ord))

/-- A unit ends with its last wave: its share, barriers and matrix unit go back (13 R400). -/
def finishUnit (s : State) (u : Nat) : State :=
  match mget s.units u with
  | none => s
  | some x =>
    let pending := s.binds.any (fun e => e.2.unit == u && (e.2.state == 1 || e.2.state == 2 || e.2.state == 6))
    if s.waves.any (fun e => e.2.unit == u) || pending || !x.saved.isEmpty || x.st == .done then s
    else
      let s := modU s u (fun x => { x with st := .done, share := [], bars := [] })
      let s := modC s x.core (fun c => { c with owner := if c.owner == some u then none else c.owner })
      modL s x.launch (fun l =>
        { l with unitsLeft := l.unitsLeft - 1, digests := if l.digm == 0 then l.digests else mset l.digests x.ord (unitDigest x) })

/-- A unit that is saved goes back to the head of its Junction's queue; ended searches may start again (13 R395,
R401). Saved units stand in a queue as 2^40 + their number. -/
def requeue (s : State) (u : Nat) : State :=
  match mget s.units u with
  | none => s
  | some x =>
    modL s x.launch fun l =>
      { l with
        queues := lmod l.queues x.junction (fun q => (2 ^ 40 + u) :: q),
        searching := l.searching.filter (fun e => e.2 != 4) }

/-- DIGOUT of a launch that did not run to its end: 0 without digests, else no value is stated (log 4). -/
def brokenDigest (s : State) (l : Launch) : W64 := if l.digm == 0 then 0#64 else freeVal s 9500

/-- The saved waves of a unit that no resident wave has taken up yet (12 R382). -/
def leftSaved (s : State) (e : Nat × LUnit) : List SavedWave :=
  e.2.saved.filter (fun v => !s.waves.any (fun w => w.2.unit == e.1 && v.wlog * v.grant / w.2.grant == w.2.wlog))

/-- The error ring entries of saved waves that end with their unit: what they were still owed (09 R328, 12 R385). -/
def ringSaved (s : State) (e : Nat × LUnit) : State :=
  (leftSaved s e).foldl (fun s v => ringOwed s e.2.cid e.2.ord v.wlog v.core v.slot v.causes v.cmdErrs) s

/-- Every wave of a launch is cancelled and its saved and waiting units dropped (01 R36). Records that wait for dispatch stay: they go on
to running or refused, and only refused ones become empty by the Signalbox (13 R399). -/
def cancelLaunch (s : State) (n : Nat) : State :=
  let s := (s.units.filter (fun e => e.2.launch == n)).foldl ringSaved s
  let ks := (s.waves.filter (fun e => e.2.launch == n)).map (·.1)
  let s := ks.foldl cancelWave s
  let s : State :=
    { s with
      units := s.units.map (fun e => if e.2.launch == n then (e.1, { e.2 with saved := [] }) else e),
      binds := s.binds.filter (fun e => !(e.2.launch == n && e.2.state == 6)) }
  ((s.units.filter (fun e => e.2.launch == n)).map (·.1)).foldl finishUnit s

/-- Commands that are accepted and not complete: of the consists and of the matrix queues. -/
def openCommands (s : State) : List Cmd :=
  s.contexts.flatMap (fun e => e.2.consists.flatMap (fun q => q.2.cmds)) ++ s.cores.flatMap (fun e => e.2.loadQ ++ e.2.compQ ++ e.2.storeQ)

/-- Something of the launch is still under way: a wave, a record that dispatch has not taken, a command (13 R403). -/
def launchBusy (s : State) (n : Nat) : Bool :=
  s.waves.any (fun e => e.2.launch == n) || s.binds.any (fun e => e.2.launch == n && e.2.pending) ||
    (openCommands s).any (fun c => ((mget s.units c.unit).map (·.launch)) == some n)

/-- Put CANCEL := BITMAP into an open or claimed record and retire it (14 R421). -/
def retireRec (s : State) (p : Partition) (seq : Nat) : State :=
  let r := readRec s p seq
  if bitsAt r 320 64 == seq % 2 ^ 64 && (recState r == 1 || recState r == 2) then
    let r := setField r 128 64 (bitsAt r 448 64)
    let r := orField r 256 64 (bitsAt r 448 64)
    writeRec s p seq (setField r 0 8 3)
  else s

/-- A counter's accesses leave it in issue order (04 R153). -/
def countOff (id : Nat) (q : List (Nat × Bool)) : List (Nat × Bool) :=
  (q.map (fun e => if e.1 == id then (id, true) else e)).dropWhile (·.2)

/-- A counted command leaves the engine counters that count it (04 R153). -/
def countEverywhere (s : State) (id : Nat) : State :=
  { s with
    waves := s.waves.map (fun e => (e.1, { e.2 with enq := countOff id e.2.enq })),
    units := s.units.map (fun e => (e.1, { e.2 with saved := e.2.saved.map (fun v => { v with enq := countOff id v.enq }) })) }

/-- The engine that a consist is on: 0 to 4 of a die, 5 and 6 for the two collective engines (12 R367). -/
def conEngine (con : Nat) : Nat := if con < 20 then con % 5 else con - 15

/-- Bits [63:62] of a consist's sequence numbers (09 R335). -/
def conTag (con : Nat) : Nat := if con < 20 then con / 5 else 0

/-- INFO0 of a command error (12 R368): die, engine, count; 0 for a matrix instruction. -/
def errInfo (con : Option Nat) (count : Nat) : W64 :=
  match con with
  | none => 0#64
  | some k => BitVec.ofNat 64 (conTag k * 2 ^ 62 + conEngine k * 2 ^ 56 + count % 2 ^ 56)

/-- A command whose page is cancelled as its context ends: refused with code 0x05 (09 R328, 14 R421). -/
def Cmd.giveUpPage (c : Cmd) : Cmd :=
  if c.waitPage.isSome then { c with err := 5, begun := true, shadow := [], pages := [], waitPage := none, ahead := [] } else c

/-- Commands of a consist that have not begun, and one that is frozen, are discarded (12 R375, R376). -/
def dropCommands (c : Consist) : Consist :=
  { c with cmds := (c.cmds.filter (fun x => x.begun && !x.frozen)).map (·.giveUpPage), frozen := false }

/-- Error entries of commands that their context's end cancels at a page (12 R385, 14 R421). -/
def pageErrors (s : State) (con : Option Nat) (l : List Cmd) : State :=
  (l.filter (fun c => c.waitPage.isSome && !c.frozen)).foldl (fun s c =>
    ringEntry s c.cid c.addr.toNat (errInfo con (c.seq.toNat % 2 ^ 62)).toNat 0 0x0D 5 ((con.map conEngine).getD 0)
      (((mget s.units c.unit).map (·.ord)).getD 0) c.wlog c.core c.slot) s

/-- The matrix instructions of an ended context: frozen ones go, waiting ones are refused. -/
def dropMatrix (cid : Nat) (l : List Cmd) : List Cmd :=
  (l.filter (fun c => c.cid != cid || !c.frozen)).map (fun c => if c.cid == cid then c.giveUpPage else c)

/-- What becomes of an ended context's commands (12 R375, R376). -/
def endCommands (s : State) (cid : Nat) (c : Context) : State :=
  let s := c.consists.foldl (fun s e => pageErrors s (some e.1) (e.2.cmds.filter (·.begun))) s
  let gone := c.consists.flatMap (fun e => e.2.cmds.filter (fun x => !x.begun || x.frozen))
  let mats := s.cores.flatMap (fun e => e.2.loadQ ++ e.2.compQ ++ e.2.storeQ)
  let s := pageErrors s none (mats.filter (fun x => x.cid == cid))
  let gone := gone ++ mats.filter (fun x => x.cid == cid && x.frozen)
  let s := modX s cid (fun c => { c with consists := c.consists.map (fun e => (e.1, dropCommands e.2)) })
  let s : State :=
    { s with
      cores := s.cores.map (fun e : Nat × Core =>
        (e.1, { e.2 with loadQ := dropMatrix cid e.2.loadQ, compQ := dropMatrix cid e.2.compQ, storeQ := dropMatrix cid e.2.storeQ })),
      colls := s.colls.filter (fun x => !(x.cid == cid && c.consists.any (fun e => e.1 == x.consist && e.2.cmds.any (·.frozen)))) }
  (gone.filterMap (·.acc)).foldl countEverywhere s

/-- Lines whose last writer was a context that ends: CID and partition stay with the tag, whoever takes the CID up later (14 R423, R424). -/
def endTags (s : State) (cid part : Nat) : State :=
  { s with tags := s.tags.map (fun e => if e.2.1 == cid then (e.1, (cid + 2 ^ 16 * (part + 1), e.2.2)) else e) }

/-- A context ends (12 R375, R376). A handler fault writes its ring entry first: `who` is the wave and the
cause met, which the entry reports (12 R385). -/
def endContext (s : State) (cid : Nat) (who : Option (Wave × Cause)) : State :=
  match mget s.contexts cid with
  | none => s
  | some c =>
    if c.ended then s
    else
      let s : State := match who with
        | none => s
        | some (w, c) => ringEntry s cid c.taddr.toNat c.info0.toNat c.info1.toNat 0x10 c.code 0 (ordOf s w) w.wlog w.core w.slot
      let ls := (s.launches.filter (fun e => e.2.cid == cid && (e.2.st == .waitPlatform || e.2.st == .active))).map (·.1)
      let s : State := ls.foldl (fun s n =>
        match mget s.launches n with
        | some l => endLaunch (cancelLaunch s n) n 5 0 (brokenDigest s l)
        | none => s) s
      let s := endTags (endCommands (modX s cid (fun c => { c with ended := true })) cid c) cid c.part
      let s : State := { s with cores := s.cores.map (fun e : Nat × Core => (e.1, { e.2 with tlb := e.2.tlb.filter (fun x => x.cid != cid) })) }
      let s : State := { s with walkers := s.walkers.map (fun e : Nat × List TlbEnt => (e.1, e.2.filter (fun x => x.cid != cid))) }
      let s : State := match mget s.parts c.part with
        | none => s
        | some p =>
          let s := (p.recs.filter (fun r => r.2.1 == cid)).foldl (fun s r => retireRec s p r.1) s
          let p' : Partition :=
            { p with
              recs := p.recs.filter (fun r => r.2.1 != cid),
              heldFaults := p.heldFaults.filter (fun h => h.2.1 != cid) }
          { s with parts := mset s.parts c.part p' }
      sweepRanges { s with ranges := s.ranges.map (fun e => if e.2.owner == cid then (e.1, { e.2 with dead := true }) else e) }

end Sys2Proof.Machine
end

