-- ==== Sys2Proof/Machine/Ops.lean ====
section
/-! DEFINITION. Taking a trap and leaving a handler (12 R368-R377), and what a wave does when something it
waits for has come: switch markers, counter waits, RCBs and joins, barriers, generations and mileposts. -/

namespace Sys2Proof.Machine

/-- Causes of a trap (12 R368). -/
def cIllegal : Nat := 0x01
def cPrivilege : Nat := 0x02
def cFetch : Nat := 0x03
def cBlock : Nat := 0x04
def cBarrier : Nat := 0x05
def cMatrix : Nat := 0x06
def cMemory : Nat := 0x07
def cMismatch : Nat := 0x08
def cDeadlock : Nat := 0x09
def cInstability : Nat := 0x0A
def cSoftware : Nat := 0x0B
def cData : Nat := 0x0C
def cCommand : Nat := 0x0D
def cPreempt : Nat := 0x0E
def cResume : Nat := 0x0F

/-- A handler fault ends the context (12 R375). Its ring entry reports the cause met (12 R385). -/
def handlerFault (s : State) (k : Nat) (c : Cause) : State :=
  match mget s.waves k with
  | none => s
  | some w => endContext s w.cid (some (w, c))

/-- A handler fault that is no cause of R368: the manual gives no SUB, address or INFO (log 4). -/
def noCause (s : State) : Cause :=
  ⟨(freeVal s 9000).toNat % 256, freeVal s 9001, freeVal s 9002, BitVec.ofNat 32 (freeVal s 9003).toNat, 0, 0#64⟩

/-- Flags that arrive from work in flight (02 R76): kept apart while a handler runs, so that the frame's
AFLAG does not lose them. -/
def Wave.join (w : Wave) (f : Nat) : Wave :=
  let w := w.flag f
  match w.priv with
  | none => w
  | some p => { w with priv := some { p with late := p.late ||| BitVec.ofNat 32 f } }

/-- A cause becomes pending; a cause owed to an ended wave goes to the error ring (12 R385). -/
def addCause (s : State) (k : Nat) (c : Cause) : State :=
  match mget s.waves k with
  | none => s
  | some w =>
    if w.threads.any (·.live) then setW s k { w with causes := w.causes ++ [c] }
    else ringOf s w.cid (ordOf s w) w.wlog w.core w.slot c

/-- A cause met by an instruction that the wave issues: at privileged level a handler fault (12 R375). -/
def meetCause (s : State) (k : Nat) (c : Cause) : State :=
  match mget s.waves k with
  | none => s
  | some w => if w.priv.isSome then handlerFault s k c else addCause s k c

/-- Causes in the order in which a trap point takes them (12 R377). -/
def trapOrder : List Nat := [1, 2, 3, 4, 5, 6, 7, 0x0C, 0x0D, 0x0A, 0x0B, 0x08, 0x09]

/-- The first pending cause in the order of R377. -/
def firstCause (cs : List Cause) : List Nat → Option Cause
  | [] => none
  | c :: l =>
    match cs.find? (fun x => x.code == c) with
    | some x => some x
    | none => firstCause cs l

/-- The list without its first element equal to `c`. -/
def dropOne (c : Cause) : List Cause → List Cause
  | [] => []
  | x :: l => if x = c then l else x :: dropOne c l

/-- The trap frame of a wave slot (12 R369). -/
def frameAddr (c : Context) (w : Wave) : Nat := (c.fbase.toNat + 8192 * (32 * w.core + w.slot)) % 2 ^ 64

/-- PEND: the causes pending besides the one taken (12 R370). -/
def pendMask (cs : List Cause) (pre : Bool) : Nat :=
  (cs.foldl (fun (m : BitVec 32) c => m ||| BitVec.ofNat 32 (2 ^ c.code)) 0#32).toNat + (if pre then 2 ^ 14 else 0)

/-- The frame header (12 R370). -/
def frameHeader (w : Wave) (c : Cause) (srcw pend : Nat) : Nat :=
  c.taddr.toNat * 2 ^ 448 + c.info0.toNat * 2 ^ 384 + c.tmask.toNat * 2 ^ 320 + c.info1.toNat * 2 ^ 288 +
    w.aflag.toNat * 2 ^ 256 + w.nctl.toNat * 2 ^ 224 + w.wstat * 2 ^ 192 + w.epoch % 2 ^ 32 * 2 ^ 160 +
    w.pver * 2 ^ 128 + ((w.pin.map (·.owner)).getD 0) * 2 ^ 112 + srcw * 2 ^ 96 + w.wlog * 2 ^ 64 + w.grant * 2 ^ 56 +
    c.code * 2 ^ 48 + c.sub % 256 * 2 ^ 40 + pend

/-- STATE of a thread record (12 R373); Awaiting results is recorded as Waiting (log 21). -/
def stateCode : TState → Nat
  | .ready => 0
  | .atRcb => 1
  | .atBarrier => 2
  | .waiting => 3
  | .awaiting => 3
  | .inSiding => 4
  | .exited => 5

/-- The number that stands for a barrier or wait; 0 for none. -/
def Hold.number : Hold → Nat
  | .none => 0
  | .named b p => 1 + 16 * (b + 512 * p)
  | .tree b p => 2 + 16 * (b + 512 * p)
  | .gen o g => 3 + 16 * (o + 2 ^ 32 * g)
  | .milepost c n => 4 + 16 * (c + 64 * n)
  | .xacq n => 5 + 16 * n
  | .recharge t => 6 + 16 * bnat t
  | .join m => 7 + 16 * ((m.map (fun t => 1 + bnat t)).getD 0)
  | .waitc c n => 8 + 16 * (c + 4 * n)
  | .fence _ => 9
  | .vpin o => 10 + 16 * o
  | .vunpin => 11
  | .arrive t n c w => 12 + 16 * (bnat t + 2 * bnat w + 4 * (n + 512 * c))
  | .block a m => 13 + 16 * (m + 2 ^ 20 * a.toNat)
  | .leave c => 14 + 16 * c

/-- HOLD as the hardware writes it: 0 where there is nothing to record, otherwise its own value (log 20). -/
def holdWord (h : Hold) : Nat := if h.number == 0 then 0 else (Config.holdWord h.number).toNat

/-- Where a thread stands: at its first pending HN word, if it has passed one (05 R180). -/
def Thread.stand (t : Thread) : W64 := t.hnAddr.getD t.pc

/-- A thread record (12 R373). -/
def threadRecord (em cm : Bool) (limask : Bool) (t : Thread) : Nat :=
  if !t.live then 5 * 2 ^ 40
  else
    t.stand.toNat * 2 ^ 192 + t.opidx.toNat * 2 ^ 128 + holdWord t.hold * 2 ^ 64 +
      (if limask then t.sec.mask % 2 ^ 20 * 2 ^ 44 else 0) + stateCode t.st * 2 ^ 40 +
      (if t.st == .inSiding then t.siding * 2 ^ 37 else 0) + bnat em * 2 ^ 36 + bnat cm * 2 ^ 35 + t.cohort * 2 ^ 24

/-- The copies of o0-o3 of one sibling (12 R369). -/
def operandCopies (free : Nat) (t : Thread) (k : Nat) : Nat :=
  (span 0 4).foldl (fun n j => n + t.reg true free (0x60 + j) k * 2 ^ (32 * j)) 0

/-- Fields of a frame: offset, length in bytes, value. -/
def frameFields (s : State) (w : Wave) (c : Cause) (srcw pend : Nat) : List (Nat × Nat × Nat) :=
  (0, 64, frameHeader w c srcw pend) ::
    ((span 0 8).map (fun j => (0x40 + 8 * j, 8, (zget 0#64 w.scal j).toNat)) ++
      (w.numbered.flatMap fun p =>
        (0x100 + 32 * p.1, 32, threadRecord (w.active p.1) (w.cm.getLsbD p.1) (c.code == cPreempt) p.2) ::
          (if p.2.live then w.sibs.map (fun k => (0x900 + 48 * p.1 + 16 * k, 16, operandCopies (freeOp s p.1 k 12) p.2 k))
           else [])))

/-- Take the bytes of a range out of a map. -/
def clearRange (lo n : Nat) (m : FMap Byte) : FMap Byte := m.filter (fun e => decide (e.1 < lo) || decide (lo + n ≤ e.1))

/-- Write a frame at a physical address: the reserved parts stay. Every die sees it (log 7). -/
def writeFrame (s : State) (pa : Nat) (fs : List (Nat × Nat × Nat)) : State :=
  let m := clearRange (pa + 0x100) 0x1400 (clearRange pa 0x80 s.mem)
  { s with
    mem := fs.foldl (fun m f => if f.2.2 == 0 then m else putBytes m (pa + f.1) (bytesOf f.2.1 f.2.2)) m,
    vis := s.vis.map (fun v => { v with bytes := clearRange pa 0x1500 v.bytes }) }

/-- The threads, masks and scalars with which a handler starts (12 R371 step 3). -/
def handlerStart (s : State) (x : Context) (w : Wave) (c : Cause) (fa srcw : Nat) : Wave :=
  let l := mget s.launches w.launch
  let save := ((l.map (·.savebase)).getD 0 + ordOf s w * (l.map (·.ustride)).getD 0) % 2 ^ 64
  let start (t : Thread) : Thread :=
    if t.live then
      { t with
        st := .ready, hold := .none, pc := x.vbase + BitVec.ofNat 64 (256 * c.code), hint := none, wimm := none,
        hnAddr := none, inRun := false, runCount := 0, win := [], marking := false, wake := s.cycle + 2, wakeCode := 3 }
    else t
  let sc := zset 0#64 w.scal 0 (BitVec.ofNat 64 fa)
  let sc := zset 0#64 sc 1 (BitVec.ofNat 64 c.code)
  let sc := zset 0#64 sc 2 (BitVec.ofNat 64 save)
  let sc := zset 0#64 sc 3 (BitVec.ofNat 64 srcw)
  { w with
    threads := w.threads.map start, em := maskOf w.liveTids, cm := 0#64, scal := sc, parked := false, reads := [],
    priv := some ⟨c, BitVec.ofNat 64 fa, s.cycle, w.threads, w.em, w.cm, srcw, 0#32, w.aflag, w.nctl, false⟩ }

/-- A wave takes a trap (12 R371): frame, handler state, level. A frame that cannot be written is a
handler fault (12 R375). -/
def enterTrap (s : State) (k : Nat) (c : Cause) (srcw : Nat) : State :=
  match mget s.waves k with
  | none => s
  | some w =>
    match mget s.contexts w.cid with
    | none => s
    | some x =>
      let w := { w with causes := dropOne c w.causes }
      let fa := frameAddr x w
      match sbPlace s w.cid fa 8192 .write with
      | .dev pas =>
        let pend := pendMask w.causes (w.pre == .requested)
        let fs := frameFields s w c srcw pend
        let s := pas.foldl (fun s pa => writeFrame s pa fs) s
        setW s k (handlerStart s x w c fa srcw)
      | .viol pa => freezeWave (setW s k w) k c.taddr fa pa
      | _ => endContext s w.cid (some (w, c))

/-- A wave at user level with a pending cause takes it once no result is owed (12 R371, R377). -/
def takeTrap (s : State) (k : Nat) : State :=
  match mget s.waves k with
  | none => s
  | some w =>
    if w.priv.isSome || w.frozen || w.owes || !w.held.isEmpty || w.pre == .saved then s
    else
      match firstCause w.causes trapOrder with
      | none => s
      | some c => enterTrap s k c 0

/-- Aperture writes pending to one thread become register values (02 R93). -/
def applyAp (w : Wave) (t : Thread) : Thread :=
  { t with
    regs := (w.apw.filter (fun a => a.lidx == t.lidx)).foldl
      (fun m a => if w.lacksKey a.key then m
        else a.sibs.foldl (fun m k => zset (Cell.val 0#32) m (a.key + k) (.val a.value)) m) t.regs }

/-- What a completed marker does for one thread: aperture writes are applied, also to the entry of a section that the marked
word began (02 R86, R93), nothing is owed, and a `block` records the state at entry of its section (06 R223). -/
def passMarker (cycle : Nat) (w : Wave) (n : Nat) (t : Thread) : Thread :=
  let a := applyAp w t
  let t : Thread :=
    { a with
      marking := false, owed := [], clobbered := [], wake := max t.wake (cycle + 1),
      sec := if t.opened then { t.sec with regs := a.regs } else t.sec }
  match t.hold with
  | .block a m =>
    { t with
      st := .ready, hold := .none,
      sec := ⟨a, t.opidx, m, false, t.regs, w.active n, w.cm.getLsbD n, t.digest, 0, t.folds, w.xblk⟩ }
  | _ => t

/-- A switch marker completes for the threads that stand at one (02 R83, R93; 09 R328); a wave in which none stands at one any more goes
on once results are owed to threads in sidings alone. -/
def finishMarkers (s : State) (k : Nat) : State :=
  match mget s.waves k with
  | none => s
  | some w =>
    let who (t : Thread) : Bool := t.marking && t.live && t.st != .inSiding
    if !w.threads.any who then (if w.parked && !w.owes then setW s k { w with parked := false } else s)
    else if w.owes then setW s k { w with parked := true }
    else
      let done := (w.threads.filter who).map (·.lidx)
      let w' : Wave :=
        { w with
          parked := false,
          threads := w.threads.mapIdx (fun n t => if who t then passMarker s.cycle w n t else t),
          apw := w.apw.filter (fun a => !done.contains a.lidx),
          causes := w.causes ++ w.cmdErrs, cmdErrs := [] }
      setW s k w'

/-- Awaited counters and results have come (08 R306, R307). -/
def awaitOver (w : Wave) (t : Thread) : Bool :=
  t.st == .awaiting && !t.marking &&
    match t.hold with
    | .waitc c n => decide (w.counter c ≤ n)
    | .fence ids => !w.accs.any (fun a => ids.contains a.id)
    | _ => false

/-- Threads whose wait is over are Ready. -/
def releaseAwaits (s : State) (k : Nat) : State :=
  modW s k fun w => w.mapThreads fun t =>
    if awaitOver w t then { t with st := .ready, hold := .none, wake := max t.wake (s.cycle + 1) } else t

/-- An arrival word's GEN has reached generation `g` (04 R151). -/
def genReached (u : LUnit) (off g : Nat) : Bool :=
  decide ((ofBytes (getBytes u.share (off + 8) 4) + 2 ^ 32 - g % 2 ^ 32) % 2 ^ 32 < 2 ^ 31)

/-- A wait on a generation, milepost or barrier of a user-level thread is over. -/
def waitOver (s : State) (w : Wave) (t : Thread) : Bool :=
  match t.st, t.hold with
  | .waiting, .gen off g => ((mget s.units w.unit).map (fun u => genReached u off g)).getD false
  | .waiting, .milepost c n =>
    match mget s.contexts w.cid with
    | none => false
    | some x => ((mget x.consists c).map (fun q => decide (n ≤ q.milepost))).getD false
  | .atBarrier, .named _ _ => ((mget s.units w.unit).map (fun u => t.barDone s.cycle u)).getD false
  | .atBarrier, .tree p ph =>
    match mget s.launches w.launch with
    | none => false
    | some l =>
      match platTier l p with
      | none => false
      | some tier => decide (ph < ((mget l.trees (treeKey l p tier (ordOf s w))).map (·.phase)).getD 0)
  | _, _ => false

/-- A thread whose wait is over stands ready, to issue two cycles on as after a barrier phase (11 R362, which leaves the delay after other
waits open from one cycle up; log 50); one that waited for a milepost begins its next section (09 R316; log 40). -/
def Thread.awake (cycle : Nat) (t : Thread) : Thread :=
  let entry := match t.hold with
    | .milepost _ _ => t.pc
    | _ => t.sec.entry
  { t with st := .ready, hold := .none, wake := cycle + 2, wakeCode := 3, sec := { t.sec with entry := entry } }

/-- Release the threads of a wave whose waits are over; held while the handler runs (12 R371 step 4). -/
def releaseWaits (s : State) (k : Nat) : State :=
  modW s k fun w =>
    if w.priv.isSome then w
    else w.mapThreads fun t =>
      if waitOver s w t then t.awake s.cycle else t

/-- The phases of its unit's named barriers that are over release their waiters, all waves of the unit in the same cycle (11 R362). -/
def releaseBars (s : State) (k : Nat) : State :=
  match (mget s.waves k).bind (fun w => (mget s.units w.unit).map (fun u => (w.unit, u))) with
  | none => s
  | some (n, u) =>
    { s with waves := s.waves.map (fun e =>
        if e.2.unit == n && e.2.priv.isNone then
          (e.1, e.2.mapThreads (fun t => if t.barDone s.cycle u then t.awake s.cycle else t))
        else e) }

/-- The sets of threads that reconverge together: cohorts (01 R54), or the whole wave in a handler. -/
def Wave.groups (w : Wave) : List (List (Nat × Thread)) :=
  let live := w.numbered.filter (·.2.live)
  if w.priv.isSome then [live]
  else ((live.map (fun p => p.2.cohort)).eraseDups).map (fun v => live.filter (fun p => p.2.cohort == v))

/-- Every thread of the list stands at an RCB, mode switch or handler exit. -/
def allAtRcb (l : List (Nat × Thread)) : Bool := !l.isEmpty && l.all (fun p => p.2.st == .atRcb)

/-- The distinct addresses at which the threads stand. -/
def rcbPcs (l : List (Nat × Thread)) : List W64 := (l.map (fun p => p.2.pc)).eraseDups

/-- The least of a list of addresses. -/
def leastPc : List W64 → W64
  | [] => 0#64
  | [a] => a
  | a :: l => if a ≤ leastPc l then a else leastPc l

/-- Threads released from an RCB stand at the following address (01 R32), to issue two cycles on at the earliest, which 11 R362 leaves open
for a thread that came before the others (log 50). -/
def Thread.passRcb (cycle : Nat) (t : Thread) : Thread :=
  { t with st := .ready, hold := .none, pc := t.pc + 4, wake := max t.wake (cycle + 2), wakeCode := 3 }

/-- Every thread carries the cohort of the whole wave again (01 R54). -/
def Wave.oneCohort (w : Wave) : Wave := w.mapThreads fun t => { t with cohort := w.wlog * w.grant }

/-- Groups whose threads all stand at one `rcb` word. -/
def Wave.joined (w : Wave) : List (List (Nat × Thread)) :=
  w.groups.filter fun g => allAtRcb g && (rcbPcs g).length == 1 && g.all (fun p => p.2.hold == .join none)

/-- Release every cohort whose threads all stand at one `rcb` (01 R32, R54). -/
def releaseRcb (s : State) (k : Nat) : State :=
  modW s k fun w =>
    let out := w.joined.flatMap (fun g => g.map (·.1))
    if out.isEmpty then w
    else
      let whole := w.liveTids.all out.contains && (rcbPcs (w.numbered.filter (·.2.live))).length == 1
      let w := w.onTids out (fun _ t => t.passRcb s.cycle)
      if whole && w.priv.isNone then w.oneCohort else w

/-- Cohorts whose threads stand at two or more RCB addresses (01 R33). -/
def Wave.mismatch (w : Wave) : Option (List (Nat × Thread)) :=
  w.groups.find? (fun g => allAtRcb g && decide (2 ≤ (rcbPcs g).length))

/-- The reconvergence-mismatch trap (01 R33, 12 R368); in a handler it is a handler fault. -/
def raiseMismatch (s : State) (k : Nat) : State :=
  match mget s.waves k with
  | none => s
  | some w =>
    match w.mismatch with
    | none => s
    | some g =>
      let pcs := rcbPcs g
      let c : Cause := ⟨cMismatch, 0#64, leastPc pcs, BitVec.ofNat 32 pcs.length, 0, maskOf (g.map (·.1))⟩
      if w.priv.isSome then handlerFault s k c
      else if w.causes.any (fun c => c.code == cMismatch) then s
      else addCause s k c

/-- Copies of every register for the new mode (06 R234 step 4). -/
def copyRegs (triple : Bool) (regs : FMap Cell) : FMap Cell :=
  if triple then
    regs.foldl (fun m e =>
      if e.1 % 4 == 0 then zset (Cell.val 0#32) (zset (Cell.val 0#32) (zset (Cell.val 0#32) m e.1 e.2) (e.1 + 1) e.2) (e.1 + 2) e.2
      else m) []
  else regs.filter (fun e => e.1 % 4 == 0)

/-- The mode changes (06 R234 steps 4 and 5, R235): the section closes at the following word. -/
def switchMode (born cycle : Nat) (triple : Bool) (w : Wave) : Wave :=
  let pass (n : Nat) (t : Thread) : Thread :=
    let t := { t.passRcb cycle with regs := copyRegs triple t.regs, win := [] }
    t.openSection born w.xblk (w.active n) (w.cm.getLsbD n) t.pc
  { w.onTids w.liveTids pass with triple := triple }.oneCohort

/-- Take a wave out of its core's order of register requests. -/
def dropRequest (s : State) (k : Nat) : State :=
  match mget s.waves k with
  | none => s
  | some w => modC s w.core (fun c => { c with reqs := c.reqs.filter (fun r => r.1 != k) })

/-- Join a core's order of register requests (02 R69): `n` blocks, or 4 for a re-charge. -/
def addRequest (s : State) (k n : Nat) : State :=
  match mget s.waves k with
  | none => s
  | some w => modC s w.core (fun c => { c with reqs := if c.reqs.contains (k, n) then c.reqs else c.reqs ++ [(k, n)] })

/-- Requests that wait in the wave's quadrant. -/
def quadReqs (s : State) (core quad : Nat) : List (Nat × Nat) :=
  (getC s core).reqs.filter (fun r => r.1 % 4 == quad)

/-- A mode switch at which every thread of the wave stands (06 R234). -/
def passJoin (s : State) (k : Nat) : State :=
  match mget s.waves k with
  | none => s
  | some w =>
    let live := w.numbered.filter (·.2.live)
    if w.priv.isSome || !allAtRcb live || (rcbPcs live).length != 1 then s
    else
      match (live.head?.map (fun p => p.2.hold) : Option Hold) with
      | some (.join (some triple)) =>
        if w.triple == triple then
          setW s k (w.onTids (live.map (·.1)) (fun _ t => t.passRcb s.cycle)).oneCohort
        else if !triple then setW s k (switchMode s.nextId s.cycle false w)
        else
          let need := 64 * w.grant * (w.xblk + 1)
          if (quadReqs s w.core (w.slot % 4)).isEmpty && decide (need ≤ quadFree s w.core (w.slot % 4)) then
            setW s k (switchMode s.nextId s.cycle true w)
          else
            addRequest (setW s k (w.mapThreads (fun t =>
              if t.live then { t with st := .waiting, hold := .recharge true } else t))) k 4
      | _ => s

/-- A field of a frame as the wave's core reads it. -/
def frameNat (s : State) (core pa off n : Nat) : Nat := ofBytes (dieBytes s (dieOf core) (pa + off) n)

/-- STATE, HOLD and COH admitted at a return (12 R372, R373). `r` is the record, `t` the thread as the hardware recorded it.
At a resume HOLD must match what was restored in every admitted STATE. DESIGN CHOICE (log 51): a nonzero reserved field
([23:0] here, [39:32] of the frame header) is not read back, and is no handler fault. -/
def recordOk (code e2 r : Nat) (t : Thread) : Bool :=
  let st := bitsAt r 40 4
  if st == 5 then !t.live
  else
    t.live &&
      (if code == cMismatch then decide (st ≤ 1)
       else if code == cResume then
         decide (bitsAt r 24 11 < e2) && bitsAt r 64 64 == holdWord t.hold && (st == 0 || (st == 2 && t.st == .atBarrier))
       else true)

/-- At what a thread returned At RCB stands: what the threads that stood at its address stood at, a mode switch or an RCB; an RCB where
none did (12 R372, 06 R234). DEDUCED (log 51). -/
def rcbAt (pc : W64) (l : List Thread) : Hold :=
  ((l.find? (fun t => t.live && t.st == .atRcb && t.pc == pc)).map (·.hold)).getD (.join none)

/-- A thread as a return leaves it: `all` as the threads stood at entry, `kept` this one, `t` as the handler leaves it. -/
def returnThread (code cycle r : Nat) (copies : List (Nat × Nat)) (all : List Thread) (kept t : Thread) : Thread :=
  if !kept.live then t
  else
    let pc := BitVec.ofNat 64 (bitsAt r 192 64)
    let st := bitsAt r 40 4
    let regs := copies.foldl (fun m p =>
      (span 0 4).foldl (fun m j =>
        zset (Cell.val 0#32) m (4 * (0x60 + j) + p.1) (.val (BitVec.ofNat 32 (bitsAt p.2 (32 * j) 32)))) m) t.regs
    let em := tst r 36
    let cm := tst r 35
    let t : Thread :=
      { t with
        pc := pc, regs := regs, hint := none, wimm := none, hnAddr := none, inRun := false, runCount := 0, win := [],
        marking := false, wake := cycle + 2, wakeCode := 3, siding := kept.siding, st := kept.st, hold := kept.hold,
        opidx := kept.opidx, sec := kept.sec, afresh := kept.afresh }
    if code == cMismatch then
      if st == 0 then { t with st := .ready, hold := .none }
      else { t with st := .atRcb, hold := rcbAt pc all }
    else if code == cResume then
      let opidx := BitVec.ofNat 64 (bitsAt r 128 64)
      { t with
        st := if st == 2 then .atBarrier else .ready, hold := if st == 2 then kept.hold else .none, opidx := opidx,
        cohort := bitsAt r 24 11,
        sec := { kept.sec with entry := pc, opidx := opidx, regs := regs, em := em, cm := cm, digest := t.digest, folds := t.folds } }
    else t

/-- The epoch that a return leaves (12 R372). -/
def returnEpoch (s : State) (w : Wave) (v : Nat) : Nat :=
  let top := ((mget s.contexts w.cid).map (·.cepoch)).getD 0
  if v < w.epoch || top < v then w.epoch else v

/-- Return from a handler (12 R372): a field that the return does not admit is a handler fault. -/
def returnTrap (s : State) (k : Nat) : State :=
  match mget s.waves k with
  | none => s
  | some w =>
    match w.priv with
    | none => s
    | some p =>
      let fail := endContext s w.cid (some (w, p.cause))
      match sbPlace s w.cid p.frame.toNat 8192 .read with
      | .dev (pa :: _) =>
        let rd := frameNat s w.core pa
        let code := p.cause.code
        let recs := p.kept.mapIdx (fun i t => (i, t, rd (0x100 + 32 * i) 32))
        if !(recs.all fun e => recordOk code (e2Of s w) e.2.2 e.2.1) then fail
        else
          let copies (i : Nat) := w.sibs.map (fun j => (j, rd (0x900 + 48 * i + 16 * j) 16))
          let threads := w.threads.mapIdx fun i t =>
            match recs[i]? with
            | none => t
            | some e => returnThread code s.cycle e.2.2 (copies i) p.kept e.2.1 t
          let live := recs.filter (fun e => e.2.1.live)
          let h := rd 0 64
          let w : Wave :=
            { w with
              threads := threads,
              em := maskOf ((live.filter (fun e => tst e.2.2 36)).map (·.1)),
              cm := maskOf ((live.filter (fun e => tst e.2.2 35)).map (·.1)),
              scal := (span 0 8).foldl (fun m j => zset 0#64 m j (BitVec.ofNat 64 (rd (0x40 + 8 * j) 8))) w.scal,
              aflag := BitVec.ofNat 32 (bitsAt h 256 15) ||| p.late,
              nctl := writeNctl w.nctl (BitVec.ofNat 32 (bitsAt h 224 32)),
              epoch := returnEpoch s w (bitsAt h 160 32), priv := none, parked := false }
          let s := setW s k (w.freeSidings s.cycle)
          if p.ended then cancelWave s k else s
      | .viol pa => freezeWave s k p.cause.taddr p.frame.toNat pa
      | _ => fail

/-- A unit whose resume was refused goes back to the Signalbox: its handlers end without a return, and it
resumes at its old grant (12 R372, R382). -/
def refuseReslice (s : State) (u : Nat) : State :=
  let s : State :=
    { s with waves := s.waves.filter (fun e => e.2.unit != u), binds := s.binds.filter (fun e => e.2.unit != u) }
  let core := ((mget s.units u).map (·.core)).getD 0
  let s := modC s core (fun c =>
    { c with owner := if c.owner == some u then none else c.owner, reqs := c.reqs.filter (fun r => (mget s.waves r.1).isSome) })
  let s := modU s u fun x =>
    let old := ((x.saved.head?).map (·.grant)).getD x.grant
    { x with st := .saved, share := [], oldGrant := some old, rslc := if old == x.grant then x.rslc else x.rslc - 1 }
  requeue s u

/-- What a handler exit does once every thread stands at it (12 R372). A saved exit and a return after a
resume wait for the Signalbox (R380, R383). -/
def leaveHandler (s : State) (k : Nat) : State :=
  match mget s.waves k with
  | none => s
  | some w =>
    match w.priv with
    | none => s
    | some p =>
      let live := w.numbered.filter (·.2.live)
      if !allAtRcb live || (rcbPcs live).length != 1 || w.owes then s
      else
        match (live.head?.map (fun p => p.2.hold) : Option Hold) with
        | some (.leave code) =>
          let c := p.cause.code
          let user := decide (1 ≤ c) && decide (c ≤ 0x0D)
          if code == 0 && user then returnTrap s k
          else if code == 0 && c == cResume then s
          else if code == 1 && c == cPreempt then s
          else if code == 2 && user then cancelWave s k
          else if code == 3 && c == cResume then refuseReslice s w.unit
          else if code == 4 then endContext s w.cid none
          else handlerFault s k (noCause s)
        | _ => s

/-- gtid of a wave's thread 0: the order of coroutines (01 R47). -/
def gtid0 (s : State) (w : Wave) : Nat := ordOf s w * e2Of s w + w.wlog * w.grant

/-- No thread of the wave can go on before another thread or party acts (01 R47). -/
def Wave.blocked (w : Wave) : Bool :=
  w.threads.all (fun t => t.st == .atRcb || t.st == .atBarrier || t.st == .waiting || t.st == .exited) && w.priv.isNone

/-- The same, and nothing that its threads wait for has come yet. -/
def Wave.idleNow (s : State) (w : Wave) : Bool := w.blocked && !w.threads.any (waitOver s w)

/-- Waves of a launch on a core, in coroutine order. -/
def coroutines (s : State) (core launch : Nat) : FMap Wave :=
  (s.waves.filter (fun e => e.2.core == core && e.2.launch == launch)).foldl (fun m e => mset m (gtid0 s e.2) e.2) []

/-- The first wave that is not blocked after position `g` in coroutine order, wrapping. -/
def nextCoroutine (s : State) (l : FMap Wave) (g : Nat) : Option Nat :=
  let later := l.filter (fun e => decide (g < e.1))
  let before := l.filter (fun e => decide (e.1 ≤ g))
  ((later ++ before).find? (fun e => !e.2.idleNow s)).map (·.1)

/-- The running wave gives up the core (01 R47). -/
def giveUp (s : State) (core launch g : Nat) : State :=
  let v := match nextCoroutine s (coroutines s core launch) g with
    | some j => (j, false)
    | none => (g, true)
  modC s core (fun c => { c with running := mset c.running launch v })

/-- Keep the running coroutine while it can go on; else the core passes to the next (01 R47, R49). A core on which none has
issued yet has no running coroutine. -/
def settleDet (s : State) (core launch : Nat) : State :=
  match mget (getC s core).running launch with
  | none => s
  | some (g, gave) =>
    if !gave && (coroutines s core launch).any (fun e => decide (e.1 ≤ g) && decide (g < e.1 + e.2.grant) && !e.2.idleNow s) then s
    else giveUp s core launch g

/-- A wave of the launch that comes before this one in coroutine order is still to start on its core (01 R47; 13 R400). -/
def lowerToStart (s : State) (w : Wave) : Bool :=
  s.binds.any fun e => e.2.core == w.core && e.2.launch == w.launch && e.2.pending &&
    decide (e.2.uord * e2Of s w + e.2.wlog * e.2.grant < gtid0 s w)

/-- In deterministic mode only the running wave of the launch issues on a core; before any has issued that is the lowest by
the gtid of its thread 0, once it has started (01 R47). DESIGN CHOICE (log 52): 01 R47 and R49 say nothing of handlers; a wave at privileged
level issues beside the running coroutine. -/
def runsNow (s : State) (w : Wave) : Bool :=
  !w.det || w.priv.isSome ||
    match mget (getC s w.core).running w.launch with
    | some (g, gave) => !gave && decide (gtid0 s w ≤ g) && decide (g < gtid0 s w + w.grant)
    | none => !lowerToStart s w && ((coroutines s w.core w.launch).find? (fun e => !e.2.idleNow s)).map (·.1) == some (gtid0 s w)

/-- The coroutine order follows what has happened to a wave. -/
def afterDet (s : State) (k : Nat) : State :=
  match mget s.waves k with
  | none => s
  | some w => if w.det then settleDet s w.core w.launch else s

/-- What a wave does by itself once what it waits for has come, but for the coroutine order. -/
def advanceStart (s : State) (k : Nat) : State :=
  let s := finishMarkers s k
  let s := releaseAwaits s k
  let s := releaseBars s k
  let s := releaseWaits s k
  let s := releaseRcb s k
  let s := passJoin s k
  let s := raiseMismatch s k
  let s := leaveHandler s k
  let s := releaseWaits s k
  let s := raiseMismatch s k
  takeTrap s k

/-- Everything that a wave does by itself once what it waits for has come. -/
def conclude (s : State) (k : Nat) : State := afterDet (advanceStart s k) k

/-- The state once an execution or a fetch of wave `k` has had its own effect `s`: the wave does what it was
waiting to do, and free values drawn from here on are other ones (log 4). -/
def settled (s : State) (k : Nat) : State := nextFree (conclude s k)

/-- Every wave of a list: waves that one event releases stand released before a core chooses its next coroutine (01 R47). -/
def concludeAll (s : State) (ks : List Nat) : State := ks.foldl afterDet (ks.foldl advanceStart s)

/-- Waves of a unit, of a context, and of a launch. -/
def unitWaves (s : State) (u : Nat) : List Nat := (s.waves.filter (fun e => e.2.unit == u)).map (·.1)
def contextWaves (s : State) (c : Nat) : List Nat := (s.waves.filter (fun e => e.2.cid == c)).map (·.1)
def launchWaves (s : State) (l : Nat) : List Nat := (s.waves.filter (fun e => e.2.launch == l)).map (·.1)

end Sys2Proof.Machine
end

