-- ==== Sys2Proof/Machine/Perform.lean ====
section
/-! DEFINITION. How a word executes: the checks before any effect in the order of 12 R377, the shapes that
instructions share (a per-thread result, a result that arrives later, a scalar operation, a compare), and the
accounting of 02 R79-R84. -/

namespace Sys2Proof.Machine

/-- What a word's execution has to know of its encoding. -/
structure Form where
  /-- bit 31 -/
  marked : Bool
  /-- a run-ending instruction (02 R79) -/
  ends : Bool
  /-- specifiers of per-thread registers that the word names (02 R70) -/
  specs : List Spec
  /-- the word takes a wide immediate (05 R178) -/
  wimm : Bool
  /-- a handler fault at privileged level (12 R374) -/
  user : Bool
  deriving DecidableEq, Repr

/-- A V3 word. -/
def Form.v3 (m : Bool) (specs : List Spec) : Form := ⟨m, false, specs, false, false⟩
/-- A VI word with an immediate that may be wide. -/
def Form.vi (m : Bool) (specs : List Spec) : Form := ⟨m, false, specs, true, false⟩
/-- An SC word; with I = 1 its immediate may be wide. -/
def Form.sc (m i : Bool) : Form := ⟨m, false, [], i, false⟩
/-- An SC word without a wide immediate. -/
def Form.sc0 (m : Bool) : Form := ⟨m, false, [], false, false⟩
/-- A CT word that ends the run. -/
def Form.ct (wimm : Bool) : Form := ⟨true, true, [], wimm, false⟩
/-- The same word, forbidden to a handler. -/
def Form.userOnly (f : Form) : Form := { f with user := true }
/-- The same word, ending the run by itself. -/
def Form.ending (f : Form) : Form := { f with ends := true }

/-- The word acts as marked by its encoding. -/
def Form.last (f : Form) : Bool := f.marked || f.ends

/-- Discard the pending HN words of threads (05 R191). -/
def dropHn (w : Wave) (tids : List Nat) : Wave :=
  w.onTids tids (fun _ t => { t with hint := none, wimm := none, hnAddr := none })

/-- The illegal-instruction trap at a word (05 R191). -/
def illegalAt (s : State) (k : Nat) (addr : W64) (word : Nat) (tids : List Nat) : State :=
  match mget s.waves k with
  | none => s
  | some w =>
    meetCause (setW s k (dropHn w tids)) k ⟨cIllegal, addr, BitVec.ofNat 64 word, 0#32, 0, maskOf tids⟩

/-- The packed threads that are active (00 R11). -/
def Wave.actives (w : Wave) (tids : List Nat) : List Nat :=
  tids.filter fun n => w.active n && ((w.thread n).map (·.live)).getD false

/-- Retire the packed threads to one following address. -/
def passAll (s : State) (w : Wave) (e : Exec) (f : Form) : Wave :=
  w.retire s.cycle (actBank s w.core w.cid) e.tids f.last (fun _ => e.addr + 4)

/-- The checks that come before any effect, in the order of R377: encoding, the handler's forbidden words
(R374), the register block (R70); then the word's own effect. -/
def attempt (f : Form) (body : State → Nat → Wave → Exec → State) (s : State) (w : Wave) : State :=
  let e := s.cur
  let k := e.wave
  if e.wimm.isSome && !f.wimm then illegalAt s k e.addr e.word e.tids
  else if w.priv.isSome && f.user then handlerFault s k (noCause s)
  else
    match if (w.actives e.tids).isEmpty then none else f.specs.find? (fun p => w.lacks p) with
    | some p => meetCause s k ⟨cBlock, e.addr, BitVec.ofNat 64 p.toNat, 0#32, 0, maskOf e.tids⟩
    | none => body s k w e

/-- Run a word for the execution at hand; afterwards the wave does what it was waiting to do. -/
def runWord (f : Form) (body : State → Nat → Wave → Exec → State) (s : State) : Out :=
  match mget s.waves s.cur.wave with
  | none => .fault .noExecution
  | some w => .next (settled (attempt f body s w) s.cur.wave)

/-- What one thread's result is: sibling values, and the bits of `aflag` it raises. -/
structure VRes where
  vals : List Nat
  flags : Nat
  deriving DecidableEq, Repr

/-- Results of the active packed threads, by tid. -/
def laneResults (w : Wave) (tids : List Nat) (comp : Wave → Nat → Thread → VRes) : FMap VRes :=
  (w.actives tids).filterMap fun n => (w.thread n).map (fun t => (n, comp w n t))

/-- Flags of all the results together. -/
def allFlags (l : FMap VRes) : Nat := l.foldl (fun n e => n ||| e.2.flags) 0

/-- Instability conditions met (03 R112): the trap after the effect, if one is enabled. -/
def instability (s : State) (k : Nat) (e : Exec) (res : FMap VRes) : State :=
  match mget s.waves k with
  | none => s
  | some w =>
    let met := res.filter (fun r => r.2.flags / 32 % 8 != 0)
    let all := allFlags met / 32 % 8
    if all * 32 &&& enabledConds w.nctl == 0 then s
    else meetCause s k ⟨cInstability, e.addr + 4, 0#64, 0#32, all, maskOf (met.map (·.1))⟩

/-- A fixed-latency per-thread result with latency `lat` and rounding count `rc` (07 R248, R249). -/
def vecBody (f : Form) (d : Spec) (wide : Bool) (lat rc : Nat) (comp : State → Wave → Nat → Thread → VRes)
    (s : State) (k : Nat) (w : Wave) (e : Exec) : State :=
  let res := laneResults w e.tids (comp s)
  let w := w.onTids e.tids fun n t =>
    match mget res n with
    | some r => { t.writeD lat d wide r.vals with opidx := t.opidx + BitVec.ofNat 64 rc }
    | none => pushWin undefWin t
  let w := w.flag (allFlags res)
  instability (setW s k (passAll s w e f)) k e res

/-- A fixed-latency vector instruction. -/
def runVec (f : Form) (d : Spec) (wide : Bool) (lat rc : Nat) (comp : State → Wave → Nat → Thread → VRes)
    (s : State) : Out :=
  runWord f (vecBody f d wide lat rc comp) s

/-- A new access of a wave. -/
def addAccess (w : Wave) (a : Access) : Wave := { w with accs := w.accs ++ [a] }

/-- Where a long-latency result goes: a window-only destination owes no register. -/
def longDest (d : Spec) (wide : Bool) : Option (Nat × Bool) :=
  if d.toNat < 0x68 then some (destKey d wide) else none

/-- An access that only delivers results computed at issue (02 R81). -/
def resultAccess (s : State) (w : Wave) (e : Exec) (dest : Option (Nat × Bool)) (flags : Nat) (lanes : List (Nat × List Nat)) : Access :=
  { id := s.nextId, op := .result flags, lanes := lanes.map (fun l => ⟨l.1, 0, .single 0, l.2⟩), dest := dest,
    addr := e.addr, word := e.word, after := [], performed := true, user := w.priv.isNone, folds := [], slot := none }

/-- A per-thread result that arrives later (02 R81, R82). -/
def longBody (f : Form) (d : Spec) (wide : Bool) (rc : Nat) (comp : State → Wave → Nat → Thread → VRes)
    (s : State) (k : Nat) (w : Wave) (e : Exec) : State :=
  let res := laneResults w e.tids (comp s)
  let w := w.onTids e.tids fun n t =>
    match mget res n with
    | some _ => { t.owe (some d) wide with opidx := t.opidx + BitVec.ofNat 64 rc }
    | none => pushWin undefWin t
  let w :=
    if res.isEmpty then w
    else addAccess w (resultAccess s w e (longDest d wide) (allFlags res) (res.map (fun r => (r.1, r.2.vals))))
  let s := setW { s with nextId := s.nextId + 1 } k (passAll s w e f)
  instability s k e res

/-- A vector instruction whose result is long-latency. -/
def runLong (f : Form) (d : Spec) (wide : Bool) (rc : Nat) (comp : State → Wave → Nat → Thread → VRes) (s : State) : Out :=
  runWord f (longBody f d wide rc comp) s

/-- Write `cm` bits of the active threads (02 R74, 07 R256), readable two places on. -/
def cmBody (f : Form) (lat : Nat) (comp : State → Wave → Nat → Thread → VRes)
    (s : State) (k : Nat) (w : Wave) (e : Exec) : State :=
  let res := laneResults w e.tids (comp s)
  let ones := maskOf ((res.filter (fun r => r.2.vals == [1])).map (·.1))
  let who := maskOf (res.map (·.1))
  let w : Wave := { w with cm := (w.cm &&& ~~~who) ||| ones }
  let w := w.onTids (res.map (·.1)) (fun _ t => t.noteWrite lat cmKey)
  let w := w.flag (allFlags res)
  instability (setW s k (passAll s w e f)) k e res

/-- A compare. -/
def runCm (f : Form) (lat : Nat) (comp : State → Wave → Nat → Thread → VRes) (s : State) : Out :=
  runWord f (cmBody f lat comp) s

/-- A thread's `cm` bit as an instruction reads it (02 R84). -/
def cmBit (s : State) (w : Wave) (n : Nat) : Bool :=
  match w.thread n with
  | none => false
  | some t => if t.unsettled w.ilk cmKey then tst (freeOp s n 0 14) 0 else w.cm.getLsbD n

/-- `cm` as a mask, read so. -/
def cmMask (s : State) (w : Wave) : W64 := maskOf ((span 0 w.threads.length).filter (cmBit s w))

/-- A scalar-format instruction (06 R202): one effect for the packed threads, nothing when none is active
unless it `always` takes effect. -/
def scalBody (f : Form) (always : Bool) (act : State → Wave → Exec → Wave) (s : State) (k : Nat) (w : Wave) (e : Exec) : State :=
  let w := if always || !(w.actives e.tids).isEmpty then act s w e else w
  setW s k (passAll s w e f)

/-- A scalar-format instruction that changes the wave alone. -/
def runScal (f : Form) (always : Bool) (act : State → Wave → Exec → Wave) (s : State) : Out :=
  runWord f (scalBody f always act) s

/-- S(SD) := Op(S(SA), x) (06 R207), with the latency of 64-bit integer operations. -/
def scalArith (m : Bool) (d a : SReg) (i : Bool) (x : BitVec 7) (op : W64 → W64 → W64) (s : State) : Out :=
  runScal (Form.sc m i) false (fun s w e =>
    writeScal w e.tids d.toNat 6 (op (readScal s w e.tids 1 a.toNat) (scX s w e 2 i x))) s

/-- Accounting of an HN word (05 R176-R179, 02 R80, R84): it stays pending, and its stall count delays the
next word. -/
def Thread.retireHn (cycle bank stall : Nat) (addr : W64) (t : Thread) : Thread :=
  let t' := t.retire cycle bank false (addr + 4)
  { t' with
    hint := t.hint, wimm := t.wimm, hnAddr := some (t.hnAddr.getD addr), clock := t.clock + 2 + stall,
    dues := t.dues, wake := cycle + 2 + stall }

/-- An HN word; a second one of its kind is illegal at that word (05 R179). -/
def hnBody (isHint : Bool) (payload stall : Nat) (s : State) (k : Nat) (w : Wave) (e : Exec) : State :=
  if (if isHint then e.hint.isSome else e.wimm.isSome) then illegalAt s k e.addr e.word e.tids
  else
    let spill := w.numbered.any (fun p => e.tids.contains p.1 && p.2.overruns false)
    let stall := if w.ilk then 0 else stall
    let w := w.onTids e.tids fun _ t =>
      let t := t.retireHn s.cycle (actBank s w.core w.cid) stall e.addr
      if isHint then { t with hint := some payload } else { t with wimm := some payload }
    setW s k { w with runx := w.runx || spill }

/-- An HN word of either kind. -/
def runHn (isHint : Bool) (payload stall : Nat) (s : State) : Out :=
  runWord ⟨false, false, [], true, false⟩ (hnBody isHint payload stall) s

end Sys2Proof.Machine
end

