-- ==== Sys2Proof/Machine/VecFloat.lean ====
section
/-! DEFINITION. Floating-point arithmetic, compares, sign and class instructions and the special functions
(07 R258-R267). -/

namespace Sys2Proof.Machine

/-- The sibling values of an operand (07 R249). -/
def operand (s : State) (w : Wave) (n : Nat) (t : Thread) (port : Nat) (p : Spec) : List Nat :=
  w.sibs.map (fun k => readOp s w n t k port p false)

/-- How sibling `k` of a thread rounds the one rounding point of an instruction (07 R251). -/
def ruleAt (s : State) (w : Wave) (t : Thread) (rm : Option RM) (k : Nat) : Rnd :=
  roundRule w.triple w.nctl (seedOf s w).toNat (gtidOf s w t) rm t.opidx.toNat k

/-- Deliver results with the flags of all siblings together. -/
def gather (l : List FRes) : VRes := ⟨l.map (·.bits), l.foldl (fun n r => n ||| r.fl) 0⟩

/-- `RoundPoint` in every sibling (07 R251). -/
def rounded (f : Fmt) (sat : Bool) (rm : Option RM) (s : State) (w : Wave) (t : Thread) (exs : List Exact) : VRes :=
  gather ((enumFrom 0 exs).map (fun e => fround f (ruleAt s w t rm e.1) sat e.2))

/-- A condition that only triple mode evaluates (03 R109-R112). -/
def inTriple (w : Wave) (f : Nat) : Nat := if w.triple then f else 0

/-- Two operands through an exact operation. -/
def exact2 (op : FV → FV → Exact) (a b : List Nat) : List Exact :=
  List.zipWith (fun x y => op (fdec fp32 x) (fdec fp32 y)) a b

/-- `fadd`, `fsub`: one rounding and the cancellation check (07 R258, R260). -/
def runSum (m : Bool) (rm : RM) (d a b : Spec) (op : FV → FV → Exact) (s : State) : Out :=
  runVec (Form.v3 m [d, a, b]) d false 6 1
    (fun s w n t =>
      let x := operand s w n t 1 a
      let y := operand s w n t 2 b
      let r := rounded fp32 false (some rm) s w t (exact2 op x y)
      ⟨r.vals, r.flags ||| inTriple w (cancCond w.nctl [x, y] r.vals)⟩) s

/-- The fused forms: one rounding of ±(a × b) ± c and the cancellation check (07 R258, R260). -/
def runFused (m : Bool) (rm : RM) (d a b : Spec) (c : BitVec 4) (na nc : Bool) (s : State) : Out :=
  let cs : Spec := BitVec.ofNat 7 (0x60 + c.toNat)
  let flip := fun (g : Bool) (v : FV) => if g then v.negate else v
  runVec (Form.v3 m [d, a, b, cs]) d false 6 1
    (fun s w n t =>
      let x := operand s w n t 1 a
      let y := operand s w n t 2 b
      let z := operand s w n t 3 cs
      let exs := List.zipWith (fun (p : FV × FV) e => ffma (flip na p.1) p.2 (flip nc (fdec fp32 e)))
        (List.zipWith (fun p q => (fdec fp32 p, fdec fp32 q)) x y) z
      let r := rounded fp32 false (some rm) s w t exs
      ⟨r.vals, r.flags ||| inTriple w (cancCond w.nctl [x, y, z] r.vals)⟩) s

/-- `fadd.f32` (07 R258). -/
def execFaddF32 (m : Bool) (rm : RM) (d a b : Spec) (s : State) : Out := runSum m rm d a b fadd s
/-- `fsub.f32` (07 R258). -/
def execFsubF32 (m : Bool) (rm : RM) (d a b : Spec) (s : State) : Out := runSum m rm d a b (fun x y => fadd x y.negate) s
/-- `fmul.f32` (07 R258). -/
def execFmulF32 (m : Bool) (rm : RM) (d a b : Spec) (s : State) : Out :=
  runVec (Form.v3 m [d, a, b]) d false 6 1
    (fun s w n t => rounded fp32 false (some rm) s w t (exact2 fmul (operand s w n t 1 a) (operand s w n t 2 b))) s
/-- `fdiv.f32` (07 R258, R260): long-latency; the divisor is checked. -/
def execFdivF32 (m : Bool) (rm : RM) (d a b : Spec) (s : State) : Out :=
  runLong (Form.v3 m [d, a, b]) d false 1
    (fun s w n t =>
      let y := operand s w n t 2 b
      let r := rounded fp32 false (some rm) s w t (exact2 fdiv (operand s w n t 1 a) y)
      ⟨r.vals, r.flags ||| inTriple w (idivCond y)⟩) s
/-- `fsqrt.f32` (07 R258, R260): long-latency; the operand is checked. -/
def execFsqrtF32 (m : Bool) (rm : RM) (d a : Spec) (s : State) : Out :=
  runLong (Form.v3 m [d, a]) d false 1
    (fun s w n t =>
      let x := operand s w n t 1 a
      let r := rounded fp32 false (some rm) s w t (x.map (fun v => fsqrt (fdec fp32 v)))
      ⟨r.vals, r.flags ||| inTriple w (idivCond x)⟩) s
/-- `fexpi.f32` (07 R259). -/
def execFexpiF32 (m : Bool) (rm : RM) (d a b : Spec) (s : State) : Out :=
  runVec (Form.v3 m [d, a, b]) d false 6 1
    (fun s w n t => rounded fp32 false (some rm) s w t
      (List.zipWith (fun x y => fexpi (fdec fp32 x) (sgn 32 y)) (operand s w n t 1 a) (operand s w n t 2 b))) s

/-- `ffma.f32` (07 R258). -/
def execFfmaF32 (m : Bool) (rm : RM) (d a b : Spec) (c : BitVec 4) (s : State) : Out := runFused m rm d a b c false false s
/-- `ffms.f32` (07 R258). -/
def execFfmsF32 (m : Bool) (rm : RM) (d a b : Spec) (c : BitVec 4) (s : State) : Out := runFused m rm d a b c false true s
/-- `fnma.f32` (07 R258). -/
def execFnmaF32 (m : Bool) (rm : RM) (d a b : Spec) (c : BitVec 4) (s : State) : Out := runFused m rm d a b c true false s
/-- `fnms.f32` (07 R258). -/
def execFnmsF32 (m : Bool) (rm : RM) (d a b : Spec) (c : BitVec 4) (s : State) : Out := runFused m rm d a b c true true s

/-- The majority of the siblings' outcomes (03 R110). -/
def majority (l : List Bool) : Bool := decide (l.length < 2 * (l.filter id).length)

/-- Outcomes that are not all equal (03 R110). -/
def split (l : List Bool) : Bool := l.any id && !l.all id

/-- A floating compare (07 R261): the predicate in each sibling, the majority, SDIS. -/
def runFcmp (m : Bool) (a b : Spec) (rel : FV → FV → Bool) (s : State) : Out :=
  runCm (Form.v3 m [a, b]) 2
    (fun s w n t =>
      let v := List.zipWith (fun x y => (fdec fp32 x, fdec fp32 y)) (operand s w n t 1 a) (operand s w n t 2 b)
      let bs := v.map (fun p => rel p.1 p.2)
      let nv := v.foldl (fun n p => n ||| nanFlag [p.1, p.2]) 0
      ⟨[bnat (majority bs)], nv ||| inTriple w (if split bs then flSDIS else 0)⟩) s

/-- A relation that holds only between ordered values. -/
def ordered (rel : FV → FV → Bool) (a b : FV) : Bool := !anyNan [a, b] && rel a b

/-- `fceq.f32` (07 R261). -/
def execFceqF32 (m : Bool) (a b : Spec) (s : State) : Out := runFcmp m a b (ordered feq) s
/-- `fcne.f32` (07 R261). -/
def execFcneF32 (m : Bool) (a b : Spec) (s : State) : Out := runFcmp m a b (fun x y => !ordered feq x y) s
/-- `fclt.f32` (07 R261). -/
def execFcltF32 (m : Bool) (a b : Spec) (s : State) : Out := runFcmp m a b (ordered flt) s
/-- `fcle.f32` (07 R261). -/
def execFcleF32 (m : Bool) (a b : Spec) (s : State) : Out := runFcmp m a b (ordered (fun x y => !flt y x)) s
/-- `fcgt.f32` (07 R261). -/
def execFcgtF32 (m : Bool) (a b : Spec) (s : State) : Out := runFcmp m a b (ordered (fun x y => flt y x)) s
/-- `fcge.f32` (07 R261). -/
def execFcgeF32 (m : Bool) (a b : Spec) (s : State) : Out := runFcmp m a b (ordered (fun x y => !flt x y)) s
/-- `fcun.f32` (07 R261). -/
def execFcunF32 (m : Bool) (a b : Spec) (s : State) : Out := runFcmp m a b (fun x y => anyNan [x, y]) s
/-- `fcord.f32` (07 R261). -/
def execFcordF32 (m : Bool) (a b : Spec) (s : State) : Out := runFcmp m a b (fun x y => !anyNan [x, y]) s

/-- a below b, −0 below +0; both not NaN (07 R262). -/
def below (a b : Nat) : Bool :=
  flt (fdec fp32 a) (fdec fp32 b) || (feq (fdec fp32 a) (fdec fp32 b) && tst a 31 && !tst b 31)

/-- `fmin`, `fmax` on bits (07 R262). -/
def extreme (greater : Bool) (a b : Nat) : FRes :=
  let x := fdec fp32 a
  let y := fdec fp32 b
  let fl := nanFlag [x] ||| nanFlag [y]
  match anyNan [x], anyNan [y] with
  | true, true => ⟨fp32.qnan, fl⟩
  | true, false => ⟨b, fl⟩
  | false, true => ⟨a, fl⟩
  | false, false => ⟨if below b a != greater then b else a, fl⟩

/-- Two operands, bits to bits. -/
def runBits2 (m : Bool) (d a b : Spec) (op : Nat → Nat → FRes) (s : State) : Out :=
  runVec (Form.v3 m [d, a, b]) d false 2 0
    (fun s w n t => gather (List.zipWith op (operand s w n t 1 a) (operand s w n t 2 b))) s

/-- One operand, bits to bits. -/
def runBits1 (m : Bool) (d a : Spec) (lat : Nat) (op : Nat → FRes) (s : State) : Out :=
  runVec (Form.v3 m [d, a]) d false lat 0 (fun s w n t => gather ((operand s w n t 1 a).map op)) s

/-- `fmin.f32` (07 R262). -/
def execFminF32 (m : Bool) (d a b : Spec) (s : State) : Out := runBits2 m d a b (extreme false) s
/-- `fmax.f32` (07 R262). -/
def execFmaxF32 (m : Bool) (d a b : Spec) (s : State) : Out := runBits2 m d a b (extreme true) s
/-- `fabs.f32` (07 R263). -/
def execFabsF32 (m : Bool) (d a : Spec) (s : State) : Out := runBits1 m d a 2 (fun x => ⟨x % 2 ^ 31, 0⟩) s
/-- `fneg.f32` (07 R263). -/
def execFnegF32 (m : Bool) (d a : Spec) (s : State) : Out := runBits1 m d a 2 (fun x => ⟨(x + 2 ^ 31) % 2 ^ 32, 0⟩) s
/-- `fcopysign.f32` (07 R263). -/
def execFcopysignF32 (m : Bool) (d a b : Spec) (s : State) : Out :=
  runBits2 m d a b (fun x y => ⟨x % 2 ^ 31 + bitsAt y 31 1 * 2 ^ 31, 0⟩) s
/-- `fclass.f32` (07 R264). -/
def execFclassF32 (m : Bool) (d a : Spec) (s : State) : Out := runBits1 m d a 2 (fun x => ⟨fclass x, 0⟩) s

/-- A special function whose result is long-latency (07 R265); `root` says that its operand is checked. -/
def runSpecial (m : Bool) (d a : Spec) (rm : RM) (root : Bool) (op : FV → Exact) (s : State) : Out :=
  runLong (Form.v3 m [d, a]) d false 1
    (fun s w n t =>
      let x := operand s w n t 1 a
      let r := rounded fp32 false (some rm) s w t (x.map (fun v => op (fdec fp32 v)))
      ⟨r.vals, r.flags ||| inTriple w (if root then idivCond x else 0)⟩) s

/-- `fexf.f32` (07 R265). -/
def execFexfF32 (m : Bool) (d a : Spec) (rm : RM) (s : State) : Out := runSpecial m d a rm false fexf s
/-- `flog2.f32` (07 R265). -/
def execFlog2F32 (m : Bool) (d a : Spec) (rm : RM) (s : State) : Out := runSpecial m d a rm false flog2 s
/-- `frcp.f32` (07 R265). -/
def execFrcpF32 (m : Bool) (d a : Spec) (rm : RM) (s : State) : Out := runSpecial m d a rm true frcp s
/-- `frsqrt.f32` (07 R265). -/
def execFrsqrtF32 (m : Bool) (d a : Spec) (rm : RM) (s : State) : Out := runSpecial m d a rm true frsqrt s
/-- `frint.f32` (07 R267). -/
def execFrintF32 (m : Bool) (d a : Spec) (rm : RM) (s : State) : Out :=
  runVec (Form.v3 m [d, a]) d false 6 1
    (fun s w n t => gather ((enumFrom 0 (operand s w n t 1 a)).map (fun e => frint (ruleAt s w t (some rm) e.1) e.2))) s

end Sys2Proof.Machine
end

