-- ==== Sys2Proof/Machine/Convert.lean ====
section
/-! DEFINITION. Conversions, 6-bit packing, sibling, digit and draw instructions, the activation table and
the max-subtract-exponential-add pair (07 R268-R278). -/

namespace Sys2Proof.Machine

/-- A conversion that rounds once into a format (07 R269); `wide` marks a 64-bit source. -/
def runCvt (m : Bool) (d a : Spec) (wide : Bool) (f : Fmt) (sat : Bool) (rm : RM) (src : Nat → Exact) (s : State) : Out :=
  runVec (Form.v3 m [d, a]) d false 6 1
    (fun s w n t => rounded f sat (some rm) s w t (w.sibs.map (fun k => src (readOp s w n t k 1 a wide)))) s

/-- A widening conversion (07 R269): exact. -/
def runWiden (m : Bool) (d a : Spec) (f : Fmt) (s : State) : Out :=
  runBits1 m d a 6 (fun x => fround fp32 .rn false (fexact (fdec f x))) s

/-- A float-to-integer conversion (07 R270, 03 R113): in triple mode the median is converted, and CDIS tells
whether the siblings convert alike. -/
def runToInt (m : Bool) (d a : Spec) (wide : Bool) (rm : RM) (lo hi : Int) (s : State) : Out :=
  runVec (Form.v3 m [d, a]) d wide 6 0
    (fun s w n t =>
      let v := (operand s w n t 1 a).map (fdec fp32)
      let each := v.map (fun x => (toInt (staticRule rm) lo hi x).1)
      let mid := match v with
        | [x, y, z] => fmedian x y z
        | x :: _ => x
        | [] => .nan false
      let r := toInt (staticRule rm) lo hi mid
      let same := each.all (fun i => i == each.headD 0)
      ⟨w.sibs.map (fun _ => wrap (if wide then 64 else 32) r.1), r.2 ||| inTriple w (if same then 0 else flCDIS)⟩) s

/-- `cvt.f32.i32` (07 R268). -/
def execCvtF32I32 (m : Bool) (d a : Spec) (rm : RM) (s : State) : Out := runCvt m d a false fp32 false rm (fun x => exOfZ (sgn 32 x)) s
/-- `cvt.f32.n32` (07 R268). -/
def execCvtF32N32 (m : Bool) (d a : Spec) (rm : RM) (s : State) : Out := runCvt m d a false fp32 false rm (fun x => exOfZ x) s
/-- `cvt.i32.f32` (07 R270). -/
def execCvtI32F32 (m : Bool) (d a : Spec) (rm : RM) (s : State) : Out := runToInt m d a false rm (-(2 ^ 31)) (2 ^ 31 - 1) s
/-- `cvt.n32.f32` (07 R270). -/
def execCvtN32F32 (m : Bool) (d a : Spec) (rm : RM) (s : State) : Out := runToInt m d a false rm 0 (2 ^ 32 - 1) s
/-- `cvt.f16.f32` (07 R269). -/
def execCvtF16F32 (m : Bool) (d a : Spec) (rm : RM) (s : State) : Out := runCvt m d a false fp16 false rm (fun x => fexact (fdec fp32 x)) s
/-- `cvt.bf16.f32` (07 R269). -/
def execCvtBf16F32 (m : Bool) (d a : Spec) (rm : RM) (s : State) : Out := runCvt m d a false bf16 false rm (fun x => fexact (fdec fp32 x)) s
/-- `cvt.e4m3.f32` (07 R269, 03 R100). -/
def execCvtE4m3F32 (m : Bool) (d a : Spec) (sat : Bool) (rm : RM) (s : State) : Out :=
  runCvt m d a false e4m3 sat rm (fun x => fexact (fdec fp32 x)) s
/-- `cvt.e5m2.f32` (07 R269, 03 R100). -/
def execCvtE5m2F32 (m : Bool) (d a : Spec) (sat : Bool) (rm : RM) (s : State) : Out :=
  runCvt m d a false e5m2 sat rm (fun x => fexact (fdec fp32 x)) s
/-- `cvt.f32.f16` (07 R269). -/
def execCvtF32F16 (m : Bool) (d a : Spec) (s : State) : Out := runWiden m d a fp16 s
/-- `cvt.f32.bf16` (07 R269). -/
def execCvtF32Bf16 (m : Bool) (d a : Spec) (s : State) : Out := runWiden m d a bf16 s
/-- `cvt.f32.e4m3` (07 R269). -/
def execCvtF32E4m3 (m : Bool) (d a : Spec) (s : State) : Out := runWiden m d a e4m3 s
/-- `cvt.f32.e5m2` (07 R269). -/
def execCvtF32E5m2 (m : Bool) (d a : Spec) (s : State) : Out := runWiden m d a e5m2 s
/-- `cvt.f32.i64` (07 R268): A is 64 bits. -/
def execCvtF32I64 (m : Bool) (d a : Spec) (rm : RM) (s : State) : Out := runCvt m d a true fp32 false rm (fun x => exOfZ (sgn 64 x)) s
/-- `cvt.i64.f32` (07 R270): D is 64 bits. -/
def execCvtI64F32 (m : Bool) (d a : Spec) (rm : RM) (s : State) : Out := runToInt m d a true rm (-(2 ^ 63)) (2 ^ 63 - 1) s

/-- `pack6` of four bytes (07 R271, 03 R121). -/
def pack6 (x : Nat) : Nat :=
  bitsAt x 0 6 + bitsAt x 8 6 * 2 ^ 6 + bitsAt x 16 6 * 2 ^ 12 + bitsAt x 24 6 * 2 ^ 18

/-- `unpack6` of a group (07 R271). -/
def unpack6 (signed : Bool) (x : Nat) : Nat :=
  let e := fun i => if signed then sext 6 8 (bitsAt x (6 * i) 6) else bitsAt x (6 * i) 6
  e 0 + e 1 * 2 ^ 8 + e 2 * 2 ^ 16 + e 3 * 2 ^ 24

/-- `pack6` (07 R271). -/
def execPack6 (m : Bool) (d a : Spec) (s : State) : Out := runBits1 m d a 6 (fun x => ⟨pack6 x, 0⟩) s
/-- `unpack6` (07 R271). -/
def execUnpack6 (m : Bool) (d a : Spec) (k : Bool) (s : State) : Out := runBits1 m d a 6 (fun x => ⟨unpack6 k x, 0⟩) s

/-- One value for every sibling, made from the operand's siblings (07 R272). -/
def runSib (m : Bool) (d a : Spec) (op : State → Wave → List Nat → Nat) (s : State) : Out :=
  runVec (Form.v3 m [d, a]) d false 6 0
    (fun s w n t =>
      let v := op s w (operand s w n t 1 a)
      ⟨w.sibs.map (fun _ => v), 0⟩) s

/-- `fdig` (07 R272): 24 in single mode, where the value counts as three equal siblings. -/
def execFdig (m : Bool) (d a : Spec) (s : State) : Out := runSib m d a (fun _ w l => if w.triple then digits l else 24) s
/-- `fmean` (07 R272). -/
def execFmean (m : Bool) (d a : Spec) (s : State) : Out :=
  runSib m d a (fun _ w l =>
    let v := three l
    if w.triple then fmean fp32 v.1 v.2.1 v.2.2 else l.headD 0) s
/-- `sibget` (07 R272). -/
def execSibget (m : Bool) (d a : Spec) (n : BitVec 2) (s : State) : Out :=
  runSib m d a (fun _ w l => lget 0 l (if w.triple then n.toNat else 0)) s
/-- `sibset` (07 R272, R273): the other siblings keep what the register holds. -/
def execSibset (m : Bool) (d a : Spec) (n : BitVec 2) (s : State) : Out :=
  runVec (Form.v3 m [d, a]) d false 6 0
    (fun s w tid t =>
      let x := readOp s w tid t 0 1 a false
      ⟨w.sibs.map (fun k => if k == n.toNat then x else t.reg true (freeOp s tid k 8) d.toNat k), 0⟩) s
/-- `krnd` (07 R272, R273). -/
def execKrnd (m : Bool) (d a : Spec) (w : BitVec 2) (s : State) : Out :=
  runVec (Form.v3 m [d, a]) d false 6 0
    (fun s wv n t =>
      let key := readOp s wv n t 0 1 a true
      let v := lget 0 (rsg (seedOf s wv).toNat 0xC000000000000000 key) w.toNat
      ⟨wv.sibs.map (fun _ => v), 0⟩) s

/-- A bank of the copy of a context's activation table at a core (07 R274, R275): a core that holds no copy
takes the context's current contents. -/
def actBytes (s : State) (core cid bank : Nat) : List Byte :=
  match mget (getC s core).acts cid with
  | some c => if bank == 0 then c.bankA else c.bankB
  | none => ((mget s.contexts cid).map (·.actImage)).getD []

/-- Function record `f` of a bank, as a number. -/
def actRecord (l : List Byte) (f : Nat) : Nat := ofBytes ((l.drop (1056 * f)).take 1056)

/-- The bank that a thread's run uses (07 R276). -/
def Thread.bank (s : State) (w : Wave) (t : Thread) : Nat := if t.inRun then t.runBank else actBank s w.core w.cid

/-- `act` (07 R277). -/
def execAct (m : Bool) (d a b : Spec) (s : State) : Out :=
  runLong (Form.v3 m [d, a, b]) d false 1
    (fun s w n t =>
      let f := readOp s w n t 0 2 b false % 4
      let rec' := actRecord (actBytes s w.core w.cid (t.bank s w)) f
      gather ((enumFrom 0 (operand s w n t 1 a)).map (fun e => actEval (ruleAt s w t none e.1) rec' e.2))) s

/-- A sibling's result of `msea.max` or `msea.acc` (07 R278): m and l packed, and flags. -/
def mseaSib (isMax : Bool) (rule : Rnd) (pair x : Nat) : FRes :=
  let m := pair % 2 ^ 32
  let l := pair / 2 ^ 32
  let mv := fdec fp32 m
  let lv := fdec fp32 l
  let xv := fdec fp32 x
  if anyNan [mv, lv, xv] then ⟨fp32.qnan + fp32.qnan * 2 ^ 32, nanFlag [mv] ||| nanFlag [lv] ||| nanFlag [xv]⟩
  else if isMax then
    let m' := if below m x then x else m
    let r := fround fp32 rule false (fmul lv (mseaP mv (fdec fp32 m')))
    ⟨m' + r.bits * 2 ^ 32, r.fl⟩
  else
    let r := fround fp32 rule false (fadd lv (mseaP xv mv))
    ⟨m + r.bits * 2 ^ 32, r.fl⟩

/-- Either instruction of the pair (07 R278). -/
def runMsea (isMax : Bool) (m : Bool) (d a b : Spec) (s : State) : Out :=
  runLong (Form.v3 m [d, a, b]) d true 1
    (fun s w n t => gather (w.sibs.map (fun k =>
      mseaSib isMax (ruleAt s w t none k) (readOp s w n t k 1 a true) (readOp s w n t k 2 b false)))) s

/-- `msea.max` (07 R278). -/
def execMseaMax (m : Bool) (d a b : Spec) (s : State) : Out := runMsea true m d a b s
/-- `msea.acc` (07 R278). -/
def execMseaAcc (m : Bool) (d a b : Spec) (s : State) : Out := runMsea false m d a b s

end Sys2Proof.Machine
end

