-- ==== Sys2Proof/Machine/Cross.lean ====
section
/-! DEFINITION. Cross-thread instructions (07 R279-R283). -/

namespace Sys2Proof.Machine

/-- Presence and the member mask of one wave-wide execution (07 R279). -/
structure Members where
  present : List Nat
  named : List Nat
  absent : Bool
  deriving DecidableEq, Repr

/-- The membership with the mask in scalar `mask`. -/
def members (s : State) (w : Wave) (mask : BitVec 4) : Members :=
  let m := readScal s w s.cur.tids 3 mask.toNat
  let p := w.actives s.cur.tids
  { present := p, named := p.filter (fun i => m.getLsbD i),
    absent := (span 0 w.grant).any (fun i => m.getLsbD i && !p.contains i) }

/-- Sibling `k` of operand `a` in another thread. -/
def readAt (s : State) (w : Wave) (i k : Nat) (a : Spec) (wide : Bool) : Nat :=
  match w.thread i with
  | some t => readOp s w i t k 1 a wide
  | none => 0

/-- A cross-thread instruction with a per-thread result (07 R279). -/
def runCross (m : Bool) (d : Spec) (specs : List Spec) (wide : Bool) (mask : BitVec 4)
    (op : State → Wave → Members → Nat → Thread → VRes) (s : State) : Out :=
  runLong (Form.v3 m (d :: specs)) d wide 0
    (fun s w n t =>
      let g := members s w mask
      let r := op s w g n t
      ⟨r.vals, r.flags ||| (if g.absent then flABSM else 0)⟩) s

/-- One value for every sibling. -/
def sameAll (w : Wave) (v : Nat) : VRes := ⟨w.sibs.map (fun _ => v), 0⟩

/-- The predicate of a vote (07 R281). -/
def votes (s : State) (w : Wave) (a : Spec) (i : Nat) : Bool := readAt s w i 0 a false != 0

/-- The mask of the named present threads that satisfy `p`. -/
def namedMask (g : Members) (p : Nat → Bool) : W64 := maskOf (g.named.filter p)

/-- `shfl` (07 R280). -/
def execShfl (m : Bool) (d a b : Spec) (mask : BitVec 4) (s : State) : Out :=
  runCross m d [a, b] false mask
    (fun s w g n t =>
      let src := readOp s w n t 0 2 b false % w.grant
      let from' := if g.named.contains src then src else n
      ⟨w.sibs.map (fun k => readAt s w from' k a false), 0⟩) s

/-- `vote.any` (07 R281). -/
def execVoteAny (m : Bool) (d a : Spec) (mask : BitVec 4) (s : State) : Out :=
  runCross m d [a] false mask (fun s w g _ _ => sameAll w (bnat (g.named.any (votes s w a)))) s

/-- `vote.all` (07 R281). -/
def execVoteAll (m : Bool) (d a : Spec) (mask : BitVec 4) (s : State) : Out :=
  runCross m d [a] false mask (fun s w g _ _ => sameAll w (bnat (g.named.all (votes s w a)))) s

/-- A wave-wide instruction whose long-latency result goes to a scalar register: no window shifts (07 R249). -/
def scalResultBody (f : Form) (d : Nat) (op : State → Wave → Option W64 × Nat) (s : State) (k : Nat) (w : Wave) (e : Exec) : State :=
  if (w.actives e.tids).isEmpty then setW s k (passAll s w e f)
  else
    let r := op s w
    let lanes := match r.1 with
      | some v => [(lget 0 e.tids 0, [v.toNat])]
      | none => []
    let w := addAccess w (resultAccess s w e (some (scalKey d, true)) r.2 lanes)
    setW { s with nextId := s.nextId + 1 } k (passAll s (w.oweScal e.tids d) e f)

/-- `vote.ballot` (07 R281): to each present thread, or once to a scalar register. -/
def execVoteBallot (m : Bool) (d a : Spec) (mask : BitVec 4) (s : State) : Out :=
  if d.toNat < 0x70 then
    runCross m d [a] true mask (fun s w g _ _ => sameAll w (namedMask g (votes s w a)).toNat) s
  else
    runWord (Form.v3 m [a]) (scalResultBody (Form.v3 m [a]) (d.toNat - 0x70) (fun s w =>
      let g := members s w mask
      (some (namedMask g (votes s w a)), if g.absent then flABSM else 0))) s

/-- `match` of either width (07 R281). -/
def runMatch (m : Bool) (d a : Spec) (wide : Bool) (mask : BitVec 4) (s : State) : Out :=
  runCross m d [a] true mask
    (fun s w g n _ => sameAll w (namedMask g (fun i => readAt s w i 0 a wide == readAt s w n 0 a wide)).toNat) s

/-- `match.n32` (07 R281). -/
def execMatchN32 (m : Bool) (d a : Spec) (mask : BitVec 4) (s : State) : Out := runMatch m d a false mask s
/-- `match.n64` (07 R281). -/
def execMatchN64 (m : Bool) (d a : Spec) (mask : BitVec 4) (s : State) : Out := runMatch m d a true mask s

/-- One level of the reduction tree (03 R139): neighbours added. -/
def treeLevel : List Nat → List Nat × Nat
  | a :: b :: l =>
    let r := addRn32F a b
    let t := treeLevel l
    (r.bits :: t.1, r.fl ||| t.2)
  | l => (l, 0)

/-- The tree over the levels that are left. -/
def treeSum : Nat → List Nat → Nat → FRes
  | 0, l, fl => ⟨l.headD 0, fl⟩
  | n + 1, l, fl =>
    let t := treeLevel l
    treeSum n t.1 (fl ||| t.2)

/-- The ordered sum of 64 leaves: NV and OF as its additions set them (03 R139). -/
def orderedSum (leaves : List Nat) : FRes :=
  let r := treeSum 6 leaves 0
  ⟨r.bits, r.fl &&& (fNV + fOF)⟩

/-- `red.o.f32` (07 R281, 03 R139): a thread that does not contribute brings −0. -/
def execRedOF32 (m : Bool) (d a : Spec) (mask : BitVec 4) (s : State) : Out :=
  runCross m d [a] false mask
    (fun s w g _ _ => gather (w.sibs.map (fun k =>
      orderedSum ((span 0 64).map (fun i => if g.named.contains i then readAt s w i k a false else 0x80000000))))) s

/-- An integer reduction over the contributing threads, per sibling (07 R281). -/
def runRed (m : Bool) (d a : Spec) (mask : BitVec 4) (none' : Nat) (op : Nat → Nat → Nat) (s : State) : Out :=
  runCross m d [a] false mask
    (fun s w g _ _ => ⟨w.sibs.map (fun k => g.named.foldl (fun x i => op x (readAt s w i k a false)) none'), 0⟩) s

/-- `red.add.n32` (07 R281). -/
def execRedAddN32 (m : Bool) (d a : Spec) (mask : BitVec 4) (s : State) : Out := runRed m d a mask 0 add32 s
/-- `red.min.i32` (07 R281). -/
def execRedMinI32 (m : Bool) (d a : Spec) (mask : BitVec 4) (s : State) : Out :=
  runRed m d a mask 0x7FFFFFFF (fun x y => if sgn 32 y < sgn 32 x then y else x) s
/-- `red.max.i32` (07 R281). -/
def execRedMaxI32 (m : Bool) (d a : Spec) (mask : BitVec 4) (s : State) : Out :=
  runRed m d a mask 0x80000000 (fun x y => if sgn 32 x < sgn 32 y then y else x) s
/-- `red.min.n32` (07 R281). -/
def execRedMinN32 (m : Bool) (d a : Spec) (mask : BitVec 4) (s : State) : Out := runRed m d a mask 0xFFFFFFFF min s
/-- `red.max.n32` (07 R281). -/
def execRedMaxN32 (m : Bool) (d a : Spec) (mask : BitVec 4) (s : State) : Out := runRed m d a mask 0 max s

/-- `vtos` (07 R282). -/
def execVtos (m : Bool) (d : BitVec 4) (a : Spec) (b : BitVec 4) (s : State) : Out :=
  runWord (Form.v3 m [a]) (scalResultBody (Form.v3 m [a]) d.toNat (fun s w =>
    let src := (readScal s w s.cur.tids 2 b.toNat).toNat % 2 ^ 32 % w.grant
    if (w.actives s.cur.tids).contains src then (some (BitVec.ofNat 64 (readAt s w src 0 a false)), 0)
    else (none, flABSM))) s

end Sys2Proof.Machine
end

