-- ==== Sys2Proof/Machine/Access.lean ====
section
/-! DEFINITION. Issuing a memory access (08 R284-R292; 02 R90, R91; 06 R208-R210): addresses, the checks and
what failing them does, the record of an access on its way, local order (04 R153, R154) and the writes
that the thread digest takes up (13 R406). -/

namespace Sys2Proof.Machine

/-- The admission rules an access follows (08 R292). -/
inductive AKind where
  | plain (ty : Nat)
  | scalar
  | atomic
  | decay
  | pin
  deriving DecidableEq, Repr

/-- Bytes of a type code (08 R289, R293). -/
def tySize (ty : Nat) : Nat := if ty ≤ 1 then 1 else if ty ≤ 3 || ty == 6 || ty == 7 then 2 else if ty == 8 then 8 else 4

/-- The format of a floating type (08 R295). -/
def tyFmt (ty : Nat) : Option Fmt := if ty == 5 then some fp32 else if ty == 6 then some fp16 else if ty == 7 then some bf16 else none

/-- Another device owns the page (14 R435). -/
def isRemote (pl : Place) : Bool := match pl with
  | .remote _ _ _ _ _ => true
  | _ => false

/-- The earliest cycle of the next issue of a thread that waits for a sharded owner: its answer comes first (14 R435). -/
def farWake : Nat := 2 ^ 64

/-- Step 5 of R288: 0 passes. -/
def admission (s : State) (k : AKind) (write : Bool) (p : Page) : Nat :=
  let cls := pageClass s p
  let plain := match k with
    | .plain _ => true
    | .scalar => true
    | _ => false
  let clsOk := match k with
    | .plain ty => ty == 5 || cls != 2
    | .scalar => cls != 2
    | .pin => true
    | _ => cls == 0
  if !clsOk || (p.map == 1 && !plain && k != .pin) then 5
  else if p.map == 2 then (if write || k == .atomic || k == .decay then 6 else 0)
  else if k == .pin then 6
  else 0

/-- What the checks say of one thread (08 R288). -/
inductive Verdict where
  | ok (pl : Place)
  | coded (code : Nat)
  | trans (reason : Nat)
  | viol (pa : Nat)
  deriving DecidableEq, Repr

/-- The unit is resident: from its first wave's start to its last wave's exit, also while it is being saved or resumed
(01 R42, 12 R380-R382; log 22). -/
def unitStands (s : State) (u : Nat) (x : LUnit) : Bool :=
  x.st == .resident || x.st == .saving || (x.st == .resuming && s.waves.any (fun e => e.2.unit == u))

/-- The unit of a wave's launch with an ordinal, resident (02 R91). -/
def unitAt (s : State) (launch ord : Nat) : Option Nat :=
  (s.units.find? (fun e => e.2.launch == launch && e.2.ord == ord && unitStands s e.1 e.2)).map (·.1)

/-- The place that an aperture address names (02 R90, R91), or nothing when its unit is not resident. -/
def aperturePlace (s : State) (w : Wave) (x : Nat) : Option Place :=
  let ord := ordOf s w / 1024 * 1024 + bitsAt x 22 10
  match unitAt s w.launch ord with
  | none => none
  | some u =>
    let l := bitsAt x 11 11
    let k := bitsAt x 9 2
    let spec := bitsAt x 2 7
    some (.aperture u l (if decide (spec < 0x68) && decide (k < 3) && decide (l < e2Of s w) then some (4 * spec + k) else none))

/-- The checks of a global address (08 R288), then of the partition (14 R426). `align` is the multiple that
the address must be, `size` the bytes of each of its accesses. -/
def checkGlobal (s : State) (w : Wave) (need : Need) (k : AKind) (size align va : Nat) : Verdict :=
  match mget s.contexts w.cid with
  | none => .trans 1
  | some c =>
    if 2 ^ 56 ≤ va then .coded 1
    else if inAperture c va then
      let admitted := (size == 4 || size == 8) && va % size == 0 && match k with
        | .plain _ => true
        | .scalar => true
        | _ => false
      match if admitted then aperturePlace s w (va - c.apbase.toNat) else none with
      | some pl => if va % align != 0 then .coded 2 else .ok pl
      | none => .coded 4
    else if va % align != 0 then .coded 2
    else
      match translate s w.cid (tlbOf s w) w.priv.isSome need va with
      | .viol pa => .viol pa
      | .fault r => .trans r
      | .page p =>
        let write := need == .write || need == .both
        let bad := admission s k write p
        if bad != 0 then .coded bad
        else
          let part := partOf s w.cid
          let pl := placeOn s w.cid part w.pin va p
          if placeOk s part write align pl then .ok pl else .viol (p.base + p.off)

/-- The checks of a scratchpad offset (08 R288). -/
def checkShare (s : State) (w : Wave) (size : Nat) (off : Int) : Verdict :=
  let sh := ((mget s.units w.unit).map (·.shSize)).getD 0
  if decide (off < 0) || decide (sh < off.toNat + size) then .coded 3
  else if off.toNat % size != 0 then .coded 2
  else .ok (.scratch w.unit off.toNat)

/-- Storage that a place stands for, as pieces of a numbered space: 0 device, 1 host, from 2 other kinds. -/
def footprint (s : State) (pl : Place) (n va : Nat) : List (Nat × Nat × Nat) :=
  match bindPlace s pl with
  | .single pa => [(0, pa, n)]
  | .triple pa st => [(0, pa, n), (0, pa + st, n), (0, pa + 2 * st, n)]
  | .md32 pa => [(0, pa, 4)]
  | .host a => [(1, a, n)]
  | .scratch u off => [(4 * u + 2, off, n)]
  | .aperture u l k => [(4 * u + 3, l * 1024 + k.getD 1023, n)]
  | .remote _ _ _ ssn _ => [(4 * ssn + 4, va, n)]
  | .failed => []
  | .answered _ => []
  | .spoiled _ _ _ => []
  | .versioned _ _ _ _ => []

/-- Two lists of pieces share a byte. -/
def overlap (a b : List (Nat × Nat × Nat)) : Bool :=
  a.any fun x => b.any fun y => x.1 == y.1 && decide (x.2.1 < y.2.1 + y.2.2) && decide (y.2.1 < x.2.1 + x.2.2)

/-- Bytes of a lane of an access. -/
def accSize (a : Access) : Nat :=
  match a.op with
  | .load ty => tySize ty
  | .store ty => tySize ty
  | .atomic f _ => if f == 1 || f == 11 || f == 13 then 8 else 4
  | .ldD => 8
  | .stD _ => 8
  | .dadd => 8
  | .dcls _ => 8
  | .arm => 16
  | .tdesc _ => 64
  | .sampler _ => 8
  | _ => 0

/-- The access belongs to every thread packed at it (06 R209). -/
def Access.common (a : Access) : Bool := bitsAt a.word 25 6 == 3 || bitsAt a.word 25 6 == 4 || bitsAt a.word 25 6 == 0x1E

/-- A lane in the scratchpad. -/
def Lane.inShare (l : Lane) : Bool := match l.place with
  | .scratch _ _ => true
  | _ => false

/-- Threads to which a lane of an access belongs for local order (06 R209). -/
def Access.owners (a : Access) (l : Lane) : List Nat := if a.common then a.packed else [l.tid]

/-- Local order of an earlier access before a later one of the wave, items 1 and 5 (04 R154). -/
def ordered2 (s : State) (a b : Access) : Bool :=
  (a.lanes.any (·.inShare) && b.lanes.any (·.inShare)) ||
    a.lanes.any fun x => b.lanes.any fun y =>
      (a.owners x).any (b.owners y).contains &&
        overlap (footprint s x.place (accSize a) x.va) (footprint s y.place (accSize b) y.va)

/-- Outstanding accesses that local order puts before a new one. -/
def earlier (s : State) (w : Wave) (b : Access) : List Nat :=
  (w.accs.filter (fun a => !a.performed && ordered2 s a b)).map (·.id)

/-- DVAL, STAMP and DCLS of a dw64 word (03 R130). -/
def dwVal (v : Nat) : Nat := v % 2 ^ 32
def dwStamp (v : Nat) : Nat := bitsAt v 32 16
def dwCls (v : Nat) : Nat := bitsAt v 48 4
def dwWord (val stamp cls : Nat) : Nat := val % 2 ^ 32 + stamp % 2 ^ 16 * 2 ^ 32 + cls * 2 ^ 48

/-- What the digest takes up of one lane (13 R406): address, data, kind. `st.d` writes a whole word, with STAMP (08 R303); `dadd` and
`dcls` have data 0. `free` stands where the rule states no data. -/
def laneItems (a : Access) (free stamp : Nat) (l : Lane) : List (List Nat) :=
  let base := a.word % 2 ^ 31
  let addr := match l.place with
    | .scratch _ off => 2 ^ 63 + off
    | _ => l.va
  let one (d : Nat) := [[addr, d, base]]
  match a.op with
  | .store _ => (enumFrom 0 l.data).map (fun e => [addr, e.2, base + 2 ^ 32 * e.1])
  | .atomic f _ =>
    if f == 13 then one free
    else if f == 12 then one (lget 0 l.data 0 + 2 ^ 32 * lget 0 l.data 1)
    else one (lget 0 l.data 0)
  | .stD cls => one (dwWord (lget 0 l.data 0) stamp cls)
  | .dadd => one 0
  | .dcls _ => one 0
  | .arm => one (lget 0 l.data 0)
  | _ => []

/-- Take up the writes at the head of the list whose fate is known (13 R406). -/
def settleFolds (h : W64) : List Fold → W64 × List Fold
  | [] => (h, [])
  | f :: l =>
    if f.state == 0 then (h, f :: l)
    else
      let h' := if f.state == 1 then
          f.items.foldl (fun (h : W64) i => i.foldl (fun (h : W64) x => BitVec.ofNat 64 (mix h.toNat x)) h) h
        else h
      settleFolds h' l

/-- The digest of a launch's threads is kept. -/
def keepsDigest (s : State) (w : Wave) : Bool := w.priv.isNone && ((mget s.launches w.launch).map (·.digm != 0)).getD false

/-- STAMP of a word that `st.d` writes (08 R303): `gstep` here, and at a sharded owner that device's own, of which nothing is known here. -/
def Lane.stamp (s : State) (w : Wave) (l : Lane) : Nat := if isRemote l.place then (freeVal s 9101).toNat else (gstepOf s w.cid).toNat

/-- Note the writes of a new access for the digests of its threads. -/
def noteFolds (s : State) (w : Wave) (a : Access) : Wave :=
  if !keepsDigest s w then w
  else
    let free := (freeVal s 9100).toNat
    let own (n : Nat) : List (List Nat) :=
      if a.common then (if a.folds.contains n then a.lanes.flatMap (fun l => laneItems a free (l.stamp s w) l) else [])
      else (a.lanes.filter (fun l => l.tid == n)).flatMap (fun l => laneItems a free (l.stamp s w) l)
    w.onTids (a.folds ++ a.lanes.map (·.tid)) fun n t =>
      let is := own n
      if is.isEmpty then t else { t with folds := t.folds ++ [⟨a.id, 0, is⟩] }

/-- A word that `st.d` writes carries the STAMP of the moment at which it is performed: the digest takes up that word (08 R303, 13 R406). -/
def Wave.restamp (w : Wave) (s : State) (a : Access) : Wave :=
  let here (l : Lane) : Bool := match l.place with
    | .answered _ => false
    | _ => true
  let again (n : Nat) (t : Thread) : Thread :=
    match a.lanes.find? (fun l => l.tid == n && here l) with
    | none => t
    | some l =>
      let put (q : List Fold) : List Fold :=
        q.map (fun f => if f.id == a.id then { f with items := laneItems a 0 (gstepOf s w.cid).toNat l } else f)
      { t with folds := put t.folds, sec := { t.sec with folds := put t.sec.folds } }
  match a.op with
  | .stD _ => { w with threads := w.threads.mapIdx again, priv := w.priv.map (fun p => { p with kept := p.kept.mapIdx again }) }
  | _ => w

/-- The fate of an access's writes is known. -/
def fateOf (id state : Nat) (t : Thread) : Thread :=
  let mark (l : List Fold) := l.map (fun f => if f.id == id then { f with state := state } else f)
  let own := settleFolds t.digest (mark t.folds)
  let sec := settleFolds t.sec.digest (mark t.sec.folds)
  { t with digest := own.1, folds := own.2, sec := { t.sec with digest := sec.1, folds := sec.2 } }

/-- The same for the threads of a wave, as they stand and as a handler keeps them; `bad` names threads whose
writes were refused. -/
def Wave.fate (w : Wave) (id : Nat) (bad : List Nat) : Wave :=
  let f (n : Nat) (t : Thread) : Thread := fateOf id (if bad.contains n then 2 else 1) t
  { w with threads := w.threads.mapIdx f, priv := w.priv.map (fun p => { p with kept := p.kept.mapIdx f }) }

/-- Put an access on its way: counted (04 R153), ordered after what it must follow, and noted for the
digest. -/
def launchAccess (s : State) (w : Wave) (loads stores : Nat) (a : Access) : Wave :=
  let a := { a with after := earlier s w a }
  let w := noteFolds s (addAccess w a) a
  { w with
    ldq := w.ldq ++ List.replicate loads (a.id, false), stq := w.stq ++ List.replicate stores (a.id, false) }

/-- What a per-lane memory instruction is (08 R285). -/
structure MemOp where
  scratch : Bool
  need : Need
  kind : AKind
  size : Nat
  loads : Nat
  stores : Nat
  op : AOp
  /-- register result and whether it is 64 bits -/
  dest : Option (Spec × Bool)
  /-- it forms a block section of its own (02 R86) -/
  own : Bool
  deriving DecidableEq, Repr

/-- Checks of one thread of a per-lane instruction. -/
def MemOp.check (m : MemOp) (s : State) (w : Wave) (addr : Int) : Verdict :=
  if m.scratch then checkShare s w m.size addr
  else checkGlobal s w m.need m.kind m.size m.size (wrap 64 addr)

/-- Coded failures, lowest tid first. -/
def codedOf (vs : List (Nat × Int × Verdict)) : List (Nat × Int × Nat) :=
  vs.filterMap fun v => match v.2.2 with
    | .coded c => some (v.1, v.2.1, c)
    | _ => none

/-- Translation failures: tid, address, reason. -/
def transOf (vs : List (Nat × Int × Verdict)) : List (Nat × Nat × Nat) :=
  vs.filterMap fun v => match v.2.2 with
    | .trans r => some (v.1, wrap 64 v.2.1, r)
    | _ => none

/-- Violations of the partition: address and physical address. -/
def violOf (vs : List (Nat × Int × Verdict)) : List (Nat × Nat) :=
  vs.filterMap fun v => match v.2.2 with
    | .viol pa => some (wrap 64 v.2.1, pa)
    | _ => none

/-- Places of the threads that passed every check. -/
def placesOf (vs : List (Nat × Int × Verdict)) : List (Nat × Int × Place) :=
  vs.filterMap fun v => match v.2.2 with
    | .ok pl => some (v.1, v.2.1, pl)
    | _ => none

/-- KINDS bits of a fault (14 R418). -/
def needKinds (n : Need) : Nat := match n with
  | .read => kRead
  | .write => kWrite
  | .both => kRead + kWrite
  | .exec => kExec

/-- Threads whose access failed in translation stand at the instruction, in a siding; where the instruction
forms a section of its own, that section is the instruction (01 R34, 08 R301). -/
def toSiding (s : State) (k kind : Nat) (own : Bool) (faults : List (Nat × Nat × Nat)) (tids : List Nat) : State :=
  let s : State :=
    if own then
      modW s k fun w => w.onTids tids (fun n t => t.openSection s.nextId w.xblk (w.em.getLsbD n) (w.cm.getLsbD n) t.stand)
    else s
  formSiding s k kind faults tids

/-- The memory-access trap (08 R290). -/
def accessTrap (s : State) (k : Nat) (e : Exec) (code addr : Nat) (who : List Nat) : State :=
  meetCause s k ⟨cMemory, e.first, BitVec.ofNat 64 addr, 0#32, code, maskOf who⟩

/-- The threads of a word stand at it while its accesses are with the owners of sharded pages: they issue again after the answers (14
R435). DEDUCED (log 77): a refused access is a fault in translation, at which 01 R34 has the thread stand. -/
def Wave.hold (code : Nat) (h : Held) (w : Wave) : Wave :=
  { w.onTids h.tids (fun _ t => { t with wake := farWake, wakeCode := code }) with held := w.held ++ [h] }

/-- The REASON of threads that wait for an owner is open (06 R246). -/
def farCode (s : State) : Nat := (freeVal s 9200).toNat % 256

/-- A slot of a wave is lowered (09 R324). -/
def Wave.lowerSlot (w : Wave) (n : Option Nat) : Wave :=
  match n with
  | none => w
  | some i => { w with slots := lmod ((span 0 16).map (lget 0 w.slots)) i (· - 1) }

/-- A per-lane word whose lanes are with their owners: local order is that of its execution (04 R154). -/
def heldOf (s : State) (w : Wave) (m : MemOp) (last : Bool) (addr : W64) (a : Access) : Held :=
  { addr := addr, accs := [{ a with after := earlier s w a }], got := [], tids := a.lanes.map (·.tid), dest := m.dest, scal := none,
    kinds := needKinds m.need + kLane, own := m.own, last := last }

/-- A word of the whole wave whose accesses are with an owner. -/
def heldWhole (s : State) (w : Wave) (e : Exec) (accs : List Access) (scal : Option Nat) (kinds : Nat) (own last : Bool) : Held :=
  { addr := e.addr, accs := accs.map (fun a => { a with after := earlier s w a }), got := [], tids := e.tids, dest := none,
    scal := scal, kinds := kinds, own := own, last := last }

/-- What an owner has answered for a lane. -/
def Held.answer (h : Held) (id : Nat) (l : Lane) : Option Lane :=
  (h.got.find? (fun g => g.1 == id && g.2.tid == l.tid && g.2.va == l.va)).map (·.2)

/-- Every owner has answered. -/
def Held.over (h : Held) : Bool := h.accs.all fun a => a.lanes.all fun l => !isRemote l.place || (h.answer a.id l).isSome

/-- Lanes that an owner has refused, as faults in translation with reason 6 (14 R417, R435). -/
def Held.refusals (h : Held) : List (Nat × Nat × Nat) :=
  h.accs.flatMap fun a => a.lanes.filterMap fun l =>
    if (h.answer a.id l).map (·.place) = some .failed then some (l.tid, l.va, 6) else none

/-- An access of a word whose owners have answered: counted, and noted for the digest with the data of its operands. -/
def enterAccess (s : State) (h : Held) (w : Wave) (a : Access) : Wave :=
  let w := noteFolds s (addAccess w { a with lanes := a.lanes.map (fun l => (h.answer a.id l).getD l) }) a
  { w with
    ldq := w.ldq ++ List.replicate a.counts.1 (a.id, false), stq := w.stq ++ List.replicate a.counts.2 (a.id, false) }

/-- The word completes for the threads that no owner has refused; the others go into a siding at it (01 R34; 14 R435), and in a
handler it is a handler fault (12 R375). A word of the whole wave is refused as a whole (06 R209). -/
def landHeld (s : State) (k : Nat) (w : Wave) (h : Held) : State :=
  let bad := h.refusals
  if !bad.isEmpty && w.priv.isSome then handlerFault s k (noCause s)
  else
    let away := if bad.isEmpty then [] else if h.accs.any (·.common) then h.tids else bad.map (·.1)
    let pass := h.tids.filter (fun n => !away.contains n)
    let w : Wave := { w.onTids h.tids (fun _ t => { t with wake := s.cycle + 1 }) with held := w.held.filter (fun x => decide (x ≠ h)) }
    let accs := h.accs.map (fun a => { a with lanes := a.lanes.filter (fun l => !away.contains l.tid) })
    let w := (accs.filter (fun a => !a.lanes.isEmpty)).foldl (enterAccess s h) w
    let w := match h.dest with
      | none => w
      | some d => w.onTids pass (fun _ t => t.owe (some d.1) d.2)
    let w := match h.scal with
      | some d => if pass.isEmpty then w else w.oweScal pass d
      | none => w
    let w := if away.isEmpty then w else (accs.filter (·.lanes.isEmpty)).foldl (fun w a => w.lowerSlot a.slot) w
    let w := w.retire s.cycle (actBank s w.core w.cid) pass h.last (fun _ => h.addr + 4)
    let w := if h.own then w.openSections s.nextId pass else w
    let s := setW { s with nextId := s.nextId + 1 } k w
    if away.isEmpty then s else toSiding s k h.kinds h.own bad away

/-- A per-lane memory instruction (08 R284-R290): `addr` gives each thread's address or offset, `data` what it
brings, given its place. Threads whose page another device owns wait for the answer. -/
def memBody (f : Form) (m : MemOp) (addr : State → Wave → Nat → Thread → Int)
    (data : State → Wave → Nat → Thread → Place → List Nat) (s : State) (k : Nat) (w : Wave) (e : Exec) : State :=
  let vs := (w.actives e.tids).filterMap fun n =>
    (w.thread n).map fun t =>
      let a := addr s w n t
      (n, a, m.check s w a)
  match codedOf vs, violOf vs with
  | (n, a, c) :: rest, _ => accessTrap s k e c (wrap 64 a) (n :: rest.map (·.1))
  | [], (va, pa) :: _ => freezeWave s k e.first va pa
  | [], [] =>
    let faults := transOf vs
    if !faults.isEmpty && w.priv.isSome then handlerFault s k (noCause s)
    else
      let away := faults.map (·.1)
      let far := (placesOf vs).filter (fun p => isRemote p.2.2)
      let pass := e.tids.filter (fun n => !away.contains n && !far.any (fun p => p.1 == n))
      let ok := (placesOf vs).filter (fun p => !isRemote p.2.2)
      let id := s.nextId
      let lanes (l : List (Nat × Int × Place)) : List Lane := l.filterMap fun p =>
        (w.thread p.1).map (fun t => (⟨p.1, wrap 64 p.2.1, p.2.2, data s w p.1 t p.2.2⟩ : Lane))
      let acc (id : Nat) (l : List (Nat × Int × Place)) : Access :=
        { id := id, op := m.op, lanes := lanes l, dest := m.dest.bind (fun d => longDest d.1 d.2), addr := e.addr,
          word := e.word, after := [], performed := false, user := w.priv.isNone, folds := [], slot := none }
      let w' := if ok.isEmpty then w else launchAccess s w m.loads m.stores (acc id ok)
      let w' := match m.dest with
        | none => w'
        | some d => w'.onTids pass (fun n t => if ok.any (fun p => p.1 == n) then t.owe (some d.1) d.2 else pushWin undefWin t)
      let w' := w'.retire s.cycle (actBank s w.core w.cid) pass f.last (fun _ => e.addr + 4)
      let w' := if m.own then w'.openSections (id + 1) pass else w'
      let w' := if far.isEmpty then w' else w'.hold (farCode s) (heldOf s w m f.last e.addr (acc (id + 1) far))
      let s := setW { s with nextId := id + (if far.isEmpty then 1 else 2) } k w'
      if away.isEmpty then s else toSiding s k (needKinds m.need + kLane) m.own faults away

/-- A per-lane memory instruction. -/
def runMem (f : Form) (m : MemOp) (addr : State → Wave → Nat → Thread → Int)
    (data : State → Wave → Nat → Thread → Place → List Nat) (s : State) : Out :=
  runWord f (memBody f m addr data) s

/-- What the checks say of a scalar access, done for the wave (06 R209, R210). -/
def scalarMem (s : State) (k : Nat) (w : Wave) (e : Exec) (need : Need) (addr : Nat) (v : Verdict)
    (go : Place → State) : State :=
  match v with
  | .coded c => accessTrap s k e c addr e.tids
  | .viol pa => freezeWave s k e.first addr pa
  | .trans r =>
    if w.priv.isSome then handlerFault s k (noCause s)
    else toSiding s k (needKinds need + kScalar) (decide (0x1E ≤ bitsAt e.word 25 6)) [(lget 0 e.tids 0, addr, r)] e.tids
  | .ok pl => go pl

/-- An access of the whole wave (06 R209). -/
def waveAccess (s : State) (w : Wave) (e : Exec) (op : AOp) (va : Nat) (pl : Place) (data : List Nat) (dest : Option (Nat × Bool)) : Access :=
  { id := s.nextId, op := op, lanes := [⟨lget 0 e.tids 0, va, pl, data⟩], dest := dest, addr := e.addr, word := e.word,
    after := [], performed := false, user := w.priv.isNone, folds := w.actives e.tids, slot := none, packed := e.tids }

end Sys2Proof.Machine
end

