-- ==== Sys2Proof/Machine/LoadStore.lean ====
section
/-! DEFINITION. Loads and stores of threads (08 R293-R297), scalar loads and stores (06 R208-R210) and queries
(06 R236-R240). -/

namespace Sys2Proof.Machine

/-- Class of a place as values pass to it (03 R115): 0 one copy, 1 three planes, 2 md32. -/
def placeClass (s : State) (pl : Place) : Nat :=
  match bindPlace s pl with
  | .triple _ _ => 1
  | .md32 _ => 2
  | .remote _ _ _ _ cls => cls
  | .answered cls => cls
  | .spoiled cls _ _ => cls
  | _ => 0

/-- Mean of three values in a format, as bits (03 R114). -/
def meanBits (f : Fmt) (l : List Nat) : Nat := fmean f (fdec f (lget 0 l 0)) (fdec f (lget 0 l 1)) (fdec f (lget 0 l 2))

/-- What a store writes for one thread (08 R294, R295): one value, three planes, or an md32 word. One
sibling value stands for single mode. -/
def passStore (ty cls : Nat) (vals : List Nat) : List Nat :=
  let cut := vals.map (fun v => v % 2 ^ (8 * tySize ty))
  let three' := if cut.length == 3 then cut else List.replicate 3 (cut.headD 0)
  if cls == 1 then three'
  else if cls == 2 then
    (if cut.length == 3 then [md32Word (lget 0 cut 0) (lget 0 cut 1) (lget 0 cut 2)] else [md32Single (cut.headD 0)])
  else
    match tyFmt ty with
    | some f => if cut.length == 3 then [meanBits f cut] else [cut.headD 0]
    | none => [cut.headD 0]

/-- The place is in a register aperture, where stores are untyped (08 R296). -/
def isAperture (pl : Place) : Bool := match pl with
  | .aperture _ _ _ => true
  | _ => false

/-- What a store brings. -/
def storeData (ty : Nat) (d : Spec) (s : State) (w : Wave) (n : Nat) (t : Thread) (pl : Place) : List Nat :=
  let vals := w.sibs.map (fun k => readOp s w n t k 2 d (ty == 8))
  if isAperture pl then [vals.headD 0] else passStore ty (placeClass s pl) vals

/-- The address of a VI word in global memory (08 R287). -/
def gAddr (a : Spec) (imm : BitVec 7) (size : Nat) (s : State) (w : Wave) (n : Nat) (t : Thread) : Int :=
  readOp s w n t 0 1 a true + viOff s.cur.wimm imm size

/-- The scratchpad offset of a VI word (08 R287). -/
def sAddr (a : Spec) (imm : BitVec 7) (size : Nat) (s : State) (w : Wave) (n : Nat) (t : Thread) : Int :=
  readOp s w n t 0 1 a false + viOff s.cur.wimm imm size

/-- A load brings nothing. -/
def noData (_ : State) (_ : Wave) (_ : Nat) (_ : Thread) (_ : Place) : List Nat := []

/-- A global load of a type (08 R293, R295). -/
def runLdG (ty : Nat) (m : Bool) (d a : Spec) (imm : BitVec 7) (s : State) : Out :=
  runMem (Form.vi m [d, a]) ⟨false, .read, .plain ty, tySize ty, 1, 0, .load ty, some (d, ty == 8), false⟩
    (gAddr a imm (tySize ty)) noData s

/-- A global store of a type. -/
def runStG (ty : Nat) (m : Bool) (d a : Spec) (imm : BitVec 7) (s : State) : Out :=
  runMem (Form.vi m [d, a]) ⟨false, .write, .plain ty, tySize ty, 0, 1, .store ty, none, false⟩
    (gAddr a imm (tySize ty)) (storeData ty d) s

/-- A scratchpad load of a type. -/
def runLdS (ty : Nat) (m : Bool) (d a : Spec) (imm : BitVec 7) (s : State) : Out :=
  runMem (Form.vi m [d, a]) ⟨true, .read, .plain ty, tySize ty, 1, 0, .load ty, some (d, ty == 8), false⟩
    (sAddr a imm (tySize ty)) noData s

/-- A scratchpad store of a type. -/
def runStS (ty : Nat) (m : Bool) (d a : Spec) (imm : BitVec 7) (s : State) : Out :=
  runMem (Form.vi m [d, a]) ⟨true, .write, .plain ty, tySize ty, 0, 1, .store ty, none, false⟩
    (sAddr a imm (tySize ty)) (storeData ty d) s

/-- `ld.g.n8` (08 R293-R295). -/
def execLdGN8 (m : Bool) (d a : Spec) (imm : BitVec 7) (s : State) : Out := runLdG 0 m d a imm s
/-- `ld.g.i8` (08 R293-R295). -/
def execLdGI8 (m : Bool) (d a : Spec) (imm : BitVec 7) (s : State) : Out := runLdG 1 m d a imm s
/-- `ld.g.n16` (08 R293-R295). -/
def execLdGN16 (m : Bool) (d a : Spec) (imm : BitVec 7) (s : State) : Out := runLdG 2 m d a imm s
/-- `ld.g.i16` (08 R293-R295). -/
def execLdGI16 (m : Bool) (d a : Spec) (imm : BitVec 7) (s : State) : Out := runLdG 3 m d a imm s
/-- `ld.g.n32` (08 R293-R295). -/
def execLdGN32 (m : Bool) (d a : Spec) (imm : BitVec 7) (s : State) : Out := runLdG 4 m d a imm s
/-- `ld.g.f32` (08 R293-R295). -/
def execLdGF32 (m : Bool) (d a : Spec) (imm : BitVec 7) (s : State) : Out := runLdG 5 m d a imm s
/-- `ld.g.f16` (08 R293-R295). -/
def execLdGF16 (m : Bool) (d a : Spec) (imm : BitVec 7) (s : State) : Out := runLdG 6 m d a imm s
/-- `ld.g.bf16` (08 R293-R295). -/
def execLdGBf16 (m : Bool) (d a : Spec) (imm : BitVec 7) (s : State) : Out := runLdG 7 m d a imm s
/-- `ld.g.n64` (08 R293-R295). -/
def execLdGN64 (m : Bool) (d a : Spec) (imm : BitVec 7) (s : State) : Out := runLdG 8 m d a imm s
/-- `st.g.n8` (08 R293-R295). -/
def execStGN8 (m : Bool) (d a : Spec) (imm : BitVec 7) (s : State) : Out := runStG 0 m d a imm s
/-- `st.g.n16` (08 R293-R295). -/
def execStGN16 (m : Bool) (d a : Spec) (imm : BitVec 7) (s : State) : Out := runStG 2 m d a imm s
/-- `st.g.n32` (08 R293-R295). -/
def execStGN32 (m : Bool) (d a : Spec) (imm : BitVec 7) (s : State) : Out := runStG 4 m d a imm s
/-- `st.g.f32` (08 R293-R295). -/
def execStGF32 (m : Bool) (d a : Spec) (imm : BitVec 7) (s : State) : Out := runStG 5 m d a imm s
/-- `st.g.f16` (08 R293-R295). -/
def execStGF16 (m : Bool) (d a : Spec) (imm : BitVec 7) (s : State) : Out := runStG 6 m d a imm s
/-- `st.g.bf16` (08 R293-R295). -/
def execStGBf16 (m : Bool) (d a : Spec) (imm : BitVec 7) (s : State) : Out := runStG 7 m d a imm s
/-- `st.g.n64` (08 R293-R295). -/
def execStGN64 (m : Bool) (d a : Spec) (imm : BitVec 7) (s : State) : Out := runStG 8 m d a imm s
/-- `ld.s.n8` (08 R293-R295). -/
def execLdSN8 (m : Bool) (d a : Spec) (imm : BitVec 7) (s : State) : Out := runLdS 0 m d a imm s
/-- `ld.s.i8` (08 R293-R295). -/
def execLdSI8 (m : Bool) (d a : Spec) (imm : BitVec 7) (s : State) : Out := runLdS 1 m d a imm s
/-- `ld.s.n16` (08 R293-R295). -/
def execLdSN16 (m : Bool) (d a : Spec) (imm : BitVec 7) (s : State) : Out := runLdS 2 m d a imm s
/-- `ld.s.i16` (08 R293-R295). -/
def execLdSI16 (m : Bool) (d a : Spec) (imm : BitVec 7) (s : State) : Out := runLdS 3 m d a imm s
/-- `ld.s.n32` (08 R293-R295). -/
def execLdSN32 (m : Bool) (d a : Spec) (imm : BitVec 7) (s : State) : Out := runLdS 4 m d a imm s
/-- `ld.s.f32` (08 R293-R295). -/
def execLdSF32 (m : Bool) (d a : Spec) (imm : BitVec 7) (s : State) : Out := runLdS 5 m d a imm s
/-- `ld.s.f16` (08 R293-R295). -/
def execLdSF16 (m : Bool) (d a : Spec) (imm : BitVec 7) (s : State) : Out := runLdS 6 m d a imm s
/-- `ld.s.bf16` (08 R293-R295). -/
def execLdSBf16 (m : Bool) (d a : Spec) (imm : BitVec 7) (s : State) : Out := runLdS 7 m d a imm s
/-- `ld.s.n64` (08 R293-R295). -/
def execLdSN64 (m : Bool) (d a : Spec) (imm : BitVec 7) (s : State) : Out := runLdS 8 m d a imm s
/-- `st.s.n8` (08 R293-R295). -/
def execStSN8 (m : Bool) (d a : Spec) (imm : BitVec 7) (s : State) : Out := runStS 0 m d a imm s
/-- `st.s.n16` (08 R293-R295). -/
def execStSN16 (m : Bool) (d a : Spec) (imm : BitVec 7) (s : State) : Out := runStS 2 m d a imm s
/-- `st.s.n32` (08 R293-R295). -/
def execStSN32 (m : Bool) (d a : Spec) (imm : BitVec 7) (s : State) : Out := runStS 4 m d a imm s
/-- `st.s.f32` (08 R293-R295). -/
def execStSF32 (m : Bool) (d a : Spec) (imm : BitVec 7) (s : State) : Out := runStS 5 m d a imm s
/-- `st.s.f16` (08 R293-R295). -/
def execStSF16 (m : Bool) (d a : Spec) (imm : BitVec 7) (s : State) : Out := runStS 6 m d a imm s
/-- `st.s.bf16` (08 R293-R295). -/
def execStSBf16 (m : Bool) (d a : Spec) (imm : BitVec 7) (s : State) : Out := runStS 7 m d a imm s
/-- `st.s.n64` (08 R293-R295). -/
def execStSN64 (m : Bool) (d a : Spec) (imm : BitVec 7) (s : State) : Out := runStS 8 m d a imm s

/-- The offset of a scalar access (06 R208). -/
def scalOff (s : State) (w : Wave) (e : Exec) (i : Bool) (x : BitVec 7) (size : Nat) : Int :=
  if !i then (readScal s w e.tids 2 (x.toNat % 64)).toNat
  else
    match e.wimm with
    | some p => sgn 32 (p * 128 + x.toNat)
    | none => sgn 7 x.toNat * size

/-- A scalar access (06 R208-R210): one access of the wave. DESIGN CHOICE (log 59): S(SA) + off of a scratchpad access wraps modulo 2^64
before its range check, as a global address does. -/
def scalAccess (f : Form) (share load : Bool) (ty : Nat) (d a : SReg) (i : Bool) (x : BitVec 7)
    (s : State) (k : Nat) (w : Wave) (e : Exec) : State :=
  if (w.actives e.tids).isEmpty then setW s k (passAll s w e f)
  else
    let size := tySize ty
    let addr := wrap 64 ((readScal s w e.tids 1 a.toNat).toNat + scalOff s w e i x size)
    let need : Need := if load then .read else .write
    let v := if share then checkShare s w size addr else checkGlobal s w need .scalar size size addr
    scalarMem s k w e need addr v fun pl =>
      let s' : State := { s with nextId := s.nextId + 1 }
      if load then
        let acc := waveAccess s w e (.load ty) addr pl [] (some (scalKey d.toNat, true))
        if isRemote pl then setW s' k (w.hold (farCode s) (heldWhole s w e [acc] (some d.toNat) (kRead + kScalar) false f.last))
        else setW s' k (passAll s ((launchAccess s w 1 0 acc).oweScal e.tids d.toNat) e f)
      else
        let v := (readScal s w e.tids 3 d.toNat).toNat
        let data := if isAperture pl then [v % 2 ^ (8 * size)] else passStore ty (placeClass s pl) [v]
        let acc := waveAccess s w e (.store ty) addr pl data none
        if isRemote pl then setW s' k (w.hold (farCode s) (heldWhole s w e [acc] none (kWrite + kScalar) false f.last))
        else setW s' k (passAll s (launchAccess s w 0 1 acc) e f)

/-- A scalar load or store. -/
def runScalMem (m : Bool) (share load : Bool) (ty : Nat) (d a : SReg) (i : Bool) (x : BitVec 7) (s : State) : Out :=
  runWord (Form.sc m i) (scalAccess (Form.sc m i) share load ty d a i x) s

/-- `sld.n32` (06 R208). -/
def execSldN32 (m : Bool) (d a : SReg) (i : Bool) (x : BitVec 7) (s : State) : Out := runScalMem m false true 4 d a i x s
/-- `sld.n64` (06 R208). -/
def execSldN64 (m : Bool) (d a : SReg) (i : Bool) (x : BitVec 7) (s : State) : Out := runScalMem m false true 8 d a i x s
/-- `sst.n32` (06 R208). -/
def execSstN32 (m : Bool) (d a : SReg) (i : Bool) (x : BitVec 7) (s : State) : Out := runScalMem m false false 4 d a i x s
/-- `sst.n64` (06 R208). -/
def execSstN64 (m : Bool) (d a : SReg) (i : Bool) (x : BitVec 7) (s : State) : Out := runScalMem m false false 8 d a i x s
/-- `sld.s.n32` (06 R208). -/
def execSldSN32 (m : Bool) (d a : SReg) (i : Bool) (x : BitVec 7) (s : State) : Out := runScalMem m true true 4 d a i x s
/-- `sst.s.n32` (06 R208). -/
def execSstSN32 (m : Bool) (d a : SReg) (i : Bool) (x : BitVec 7) (s : State) : Out := runScalMem m true false 4 d a i x s

/-- The device record (06 R237). -/
def deviceRecord : Nat :=
  0x0000003F * 2 ^ 192 + 192 * 2 ^ 160 + 32 * 2 ^ 128 + 512 * 2 ^ 96 + 0x00010000 * 2 ^ 64 + 0x4753 * 2 ^ 48 +
    0x0009 * 2 ^ 32 + 0x53455258

/-- The numeric behaviour record (06 R238). -/
def numericRecord : Nat :=
  4025 * 2 ^ 208 + 4303 * 2 ^ 192 + 19 * 2 ^ 176 + 64 * 2 ^ 160 + 10 * 2 ^ 144 + 1 * 2 ^ 128 + 0x0000000F * 2 ^ 96 +
    16 * 2 ^ 64 + 3 * 2 ^ 32 + 1

/-- The placement record (06 R239). -/
def placementRecord (s : State) (w : Wave) : Nat :=
  ((mget s.units w.unit).map (·.rslc)).getD 0 % 2 ^ 64 * 2 ^ 64 + Config.stepping * 2 ^ 48 + w.grant * 2 ^ 40 +
    bnat w.det * 2 ^ 34 + bnat w.triple * 2 ^ 33 + bnat w.ilk * 2 ^ 32

/-- The 64-bit stores of a record of `n` words, each an access of the wave. -/
def recordStores (s : State) (w : Wave) (e : Exec) (addr v n : Nat) : List Access :=
  (span 0 n).filterMap fun j =>
    let va := addr + 8 * j
    match checkGlobal s w .write .scalar 8 8 va with
    | .ok pl =>
      let x := bitsAt v (64 * j) 64
      let data := if isAperture pl then [x] else passStore 8 (placeClass s pl) [x]
      some { waveAccess s w e (.store 8) va pl data none with id := s.nextId + j, issued := s.nextId + j }
    | _ => none

/-- `fqry` (06 R236): a record of `n` 64-bit words to S(SA), its length to S(SD). -/
def fqryBody (f : Form) (n : Nat) (rec' : State → Wave → Nat) (d a : SReg) (s : State) (k : Nat) (w : Wave) (e : Exec) : State :=
  if (w.actives e.tids).isEmpty then setW s k (passAll s w e f)
  else
    let addr := (readScal s w e.tids 1 a.toNat).toNat
    scalarMem s k w e .write addr (checkGlobal s w .write .scalar 8 (8 * n) addr) fun pl =>
      let stores := recordStores s w e addr (rec' s w) n
      let t : State := { s with nextId := s.nextId + n }
      let acc := resultAccess t w e (some (scalKey d.toNat, true)) 0 [(lget 0 e.tids 0, [8 * n])]
      let s' : State := { t with nextId := t.nextId + 1 }
      if isRemote pl then
        setW s' k (w.hold (farCode s) (heldWhole s w e (stores ++ [acc]) (some d.toNat) (kWrite + kScalar) false f.last))
      else
        let w := stores.foldl (fun w a => launchAccess s w 0 1 a) w
        setW s' k (passAll s ((addAccess w acc).oweScal e.tids d.toNat) e f)

/-- `fqry` selector 0 (06 R237). -/
def execFqryDevice (m : Bool) (d a : SReg) (s : State) : Out :=
  runWord (Form.sc0 m) (fqryBody (Form.sc0 m) 4 (fun _ _ => deviceRecord) d a) s
/-- `fqry` selector 1 (06 R238). -/
def execFqryNumeric (m : Bool) (d a : SReg) (s : State) : Out :=
  runWord (Form.sc0 m) (fqryBody (Form.sc0 m) 4 (fun _ _ => numericRecord) d a) s
/-- `fqry` selector 2 (06 R239). -/
def execFqryPlacement (m : Bool) (d a : SReg) (s : State) : Out :=
  runWord (Form.sc0 m) (fqryBody (Form.sc0 m) 2 placementRecord d a) s

end Sys2Proof.Machine
end

