-- ==== Sys2Proof/Machine/Atomic.lean ====
section
/-! DEFINITION. Atomics (08 R298-R302), decaying-word instructions (R303, R304), arming (R305), policy versions
(R308-R311) and prefetch (R312). -/

namespace Sys2Proof.Machine

/-- The 64-bit atomics (08 R298). -/
def atomWide (f : Nat) : Bool := f == 1 || f == 11 || f == 13

/-- Sibling 0 of B, or the mean of its siblings in FP32 (08 R300, R304). -/
def meanOperand (s : State) (w : Wave) (n : Nat) (t : Thread) (b : Spec) : Nat :=
  let v := w.sibs.map (fun k => readOp s w n t k 2 b false)
  if v.length == 3 then meanBits fp32 v else v.headD 0

/-- The operand of an atomic (08 R298, R300): a compare-and-swap brings the expected and the new value. -/
def atomData (f : Nat) (b : Spec) (s : State) (w : Wave) (n : Nat) (t : Thread) (_ : Place) : List Nat :=
  if f == 2 then [meanOperand s w n t b]
  else if f == 12 then
    let v := readOp s w n t 0 2 b true
    [v % 2 ^ 32, v / 2 ^ 32]
  else if f == 13 then [readOp s w n t 0 2 b true, readOp s w n t 0 4 (b + 2#7) true]
  else [readOp s w n t 0 2 b (atomWide f)]

/-- The address of a V3 word (08 R287). -/
def addr3 (a : Spec) (s : State) (w : Wave) (n : Nat) (t : Thread) : Int := readOp s w n t 0 1 a true

/-- The scratchpad offset of a V3 word. -/
def off3 (a : Spec) (s : State) (w : Wave) (n : Nat) (t : Thread) : Int := readOp s w n t 0 1 a false

/-- An atomic with return. -/
def runAtom (share : Bool) (f : Nat) (m : Bool) (d a b : Spec) (s : State) : Out :=
  let size := if atomWide f then 8 else 4
  runMem (Form.v3 m [d, a, b])
    ⟨share, .both, .atomic, size, 1, 1, .atomic f true, some (d, atomWide f), true⟩
    (if share then off3 a else addr3 a) (atomData f b) s

/-- An atomic without return. -/
def runAtomn (f : Nat) (m : Bool) (a b : Spec) (s : State) : Out :=
  runMem (Form.v3 m [a, b]) ⟨false, .both, .atomic, if atomWide f then 8 else 4, 0, 1, .atomic f false, none, true⟩
    (addr3 a) (atomData f b) s

/-- `atom.g.add.n32` (08 R298). -/
def execAtomGAddN32 (m : Bool) (d a b : Spec) (s : State) : Out := runAtom false 0 m d a b s
/-- `atom.g.add.n64` (08 R298). -/
def execAtomGAddN64 (m : Bool) (d a b : Spec) (s : State) : Out := runAtom false 1 m d a b s
/-- `atom.g.add.f32` (08 R298). -/
def execAtomGAddF32 (m : Bool) (d a b : Spec) (s : State) : Out := runAtom false 2 m d a b s
/-- `atom.g.min.i32` (08 R298). -/
def execAtomGMinI32 (m : Bool) (d a b : Spec) (s : State) : Out := runAtom false 3 m d a b s
/-- `atom.g.min.n32` (08 R298). -/
def execAtomGMinN32 (m : Bool) (d a b : Spec) (s : State) : Out := runAtom false 4 m d a b s
/-- `atom.g.max.i32` (08 R298). -/
def execAtomGMaxI32 (m : Bool) (d a b : Spec) (s : State) : Out := runAtom false 5 m d a b s
/-- `atom.g.max.n32` (08 R298). -/
def execAtomGMaxN32 (m : Bool) (d a b : Spec) (s : State) : Out := runAtom false 6 m d a b s
/-- `atom.g.and.b32` (08 R298). -/
def execAtomGAndB32 (m : Bool) (d a b : Spec) (s : State) : Out := runAtom false 7 m d a b s
/-- `atom.g.or.b32` (08 R298). -/
def execAtomGOrB32 (m : Bool) (d a b : Spec) (s : State) : Out := runAtom false 8 m d a b s
/-- `atom.g.xor.b32` (08 R298). -/
def execAtomGXorB32 (m : Bool) (d a b : Spec) (s : State) : Out := runAtom false 9 m d a b s
/-- `atom.g.exch.n32` (08 R298). -/
def execAtomGExchN32 (m : Bool) (d a b : Spec) (s : State) : Out := runAtom false 10 m d a b s
/-- `atom.g.exch.n64` (08 R298). -/
def execAtomGExchN64 (m : Bool) (d a b : Spec) (s : State) : Out := runAtom false 11 m d a b s
/-- `atom.g.cas.n32` (08 R298). -/
def execAtomGCasN32 (m : Bool) (d a b : Spec) (s : State) : Out := runAtom false 12 m d a b s
/-- `atom.g.cas.n64` (08 R298). -/
def execAtomGCasN64 (m : Bool) (d a b : Spec) (s : State) : Out := runAtom false 13 m d a b s
/-- `atomn.g.add.n32` (08 R298). -/
def execAtomnGAddN32 (m : Bool) (a b : Spec) (s : State) : Out := runAtomn 0 m a b s
/-- `atomn.g.add.n64` (08 R298). -/
def execAtomnGAddN64 (m : Bool) (a b : Spec) (s : State) : Out := runAtomn 1 m a b s
/-- `atomn.g.add.f32` (08 R298). -/
def execAtomnGAddF32 (m : Bool) (a b : Spec) (s : State) : Out := runAtomn 2 m a b s
/-- `atomn.g.min.i32` (08 R298). -/
def execAtomnGMinI32 (m : Bool) (a b : Spec) (s : State) : Out := runAtomn 3 m a b s
/-- `atomn.g.min.n32` (08 R298). -/
def execAtomnGMinN32 (m : Bool) (a b : Spec) (s : State) : Out := runAtomn 4 m a b s
/-- `atomn.g.max.i32` (08 R298). -/
def execAtomnGMaxI32 (m : Bool) (a b : Spec) (s : State) : Out := runAtomn 5 m a b s
/-- `atomn.g.max.n32` (08 R298). -/
def execAtomnGMaxN32 (m : Bool) (a b : Spec) (s : State) : Out := runAtomn 6 m a b s
/-- `atomn.g.and.b32` (08 R298). -/
def execAtomnGAndB32 (m : Bool) (a b : Spec) (s : State) : Out := runAtomn 7 m a b s
/-- `atomn.g.or.b32` (08 R298). -/
def execAtomnGOrB32 (m : Bool) (a b : Spec) (s : State) : Out := runAtomn 8 m a b s
/-- `atomn.g.xor.b32` (08 R298). -/
def execAtomnGXorB32 (m : Bool) (a b : Spec) (s : State) : Out := runAtomn 9 m a b s
/-- `atom.s.add.n32` (08 R298). -/
def execAtomSAddN32 (m : Bool) (d a b : Spec) (s : State) : Out := runAtom true 0 m d a b s
/-- `atom.s.add.n64` (08 R298). -/
def execAtomSAddN64 (m : Bool) (d a b : Spec) (s : State) : Out := runAtom true 1 m d a b s
/-- `atom.s.add.f32` (08 R298). -/
def execAtomSAddF32 (m : Bool) (d a b : Spec) (s : State) : Out := runAtom true 2 m d a b s
/-- `atom.s.min.i32` (08 R298). -/
def execAtomSMinI32 (m : Bool) (d a b : Spec) (s : State) : Out := runAtom true 3 m d a b s
/-- `atom.s.min.n32` (08 R298). -/
def execAtomSMinN32 (m : Bool) (d a b : Spec) (s : State) : Out := runAtom true 4 m d a b s
/-- `atom.s.max.i32` (08 R298). -/
def execAtomSMaxI32 (m : Bool) (d a b : Spec) (s : State) : Out := runAtom true 5 m d a b s
/-- `atom.s.max.n32` (08 R298). -/
def execAtomSMaxN32 (m : Bool) (d a b : Spec) (s : State) : Out := runAtom true 6 m d a b s
/-- `atom.s.and.b32` (08 R298). -/
def execAtomSAndB32 (m : Bool) (d a b : Spec) (s : State) : Out := runAtom true 7 m d a b s
/-- `atom.s.or.b32` (08 R298). -/
def execAtomSOrB32 (m : Bool) (d a b : Spec) (s : State) : Out := runAtom true 8 m d a b s
/-- `atom.s.xor.b32` (08 R298). -/
def execAtomSXorB32 (m : Bool) (d a b : Spec) (s : State) : Out := runAtom true 9 m d a b s
/-- `atom.s.exch.n32` (08 R298). -/
def execAtomSExchN32 (m : Bool) (d a b : Spec) (s : State) : Out := runAtom true 10 m d a b s
/-- `atom.s.exch.n64` (08 R298). -/
def execAtomSExchN64 (m : Bool) (d a b : Spec) (s : State) : Out := runAtom true 11 m d a b s
/-- `atom.s.cas.n32` (08 R298). -/
def execAtomSCasN32 (m : Bool) (d a b : Spec) (s : State) : Out := runAtom true 12 m d a b s
/-- `atom.s.cas.n64` (08 R298). -/
def execAtomSCasN64 (m : Bool) (d a b : Spec) (s : State) : Out := runAtom true 13 m d a b s

/-- `ld.d` (08 R303). -/
def execLdD (m : Bool) (d a : Spec) (s : State) : Out :=
  runMem (Form.v3 m [d, a]) ⟨false, .read, .decay, 8, 1, 0, .ldD, some (d, false), false⟩ (addr3 a) noData s
/-- `st.d` (08 R303, R304). -/
def execStD (m : Bool) (c : BitVec 4) (a b : Spec) (s : State) : Out :=
  runMem (Form.v3 m [a, b]) ⟨false, .write, .decay, 8, 0, 1, .stD c.toNat, none, false⟩ (addr3 a)
    (fun s w n t _ => [meanOperand s w n t b]) s
/-- `dadd` (08 R303, R304). -/
def execDadd (m : Bool) (a b : Spec) (s : State) : Out :=
  runMem (Form.v3 m [a, b]) ⟨false, .both, .decay, 8, 0, 1, .dadd, none, false⟩ (addr3 a)
    (fun s w n t _ => [meanOperand s w n t b]) s
/-- `dcls` (08 R303, 03 R138). -/
def execDcls (m : Bool) (c : BitVec 4) (a : Spec) (s : State) : Out :=
  runMem (Form.v3 m [a]) ⟨false, .both, .decay, 8, 0, 1, .dcls c.toNat, none, false⟩ (addr3 a) noData s

/-- `arm.s` (08 R305). -/
def execArmS (m : Bool) (a b : Spec) (s : State) : Out :=
  runMem (Form.v3 m [a, b]).userOnly ⟨true, .write, .plain 4, 16, 0, 1, .arm, none, true⟩ (off3 a)
    (fun s w n t _ => [readOp s w n t 0 2 b false]) s

/-- `vpin` (08 R308): the address of the lowest active thread is checked; the threads wait for the load
counter. -/
def execVpin (m : Bool) (a : Spec) (s : State) : Out :=
  let f := (Form.v3 m [a]).userOnly
  runWord f (fun s k w e =>
    match (w.actives e.tids).head?.bind (fun n => (w.thread n).map (fun t => (n, t))) with
    | none => setW s k (passAll s w e f)
    | some (n, t) =>
      let va := readOp s w n t 0 1 a true
      match checkGlobal s w .read .pin 1 1 va with
      | .coded c => accessTrap s k e c va [n]
      | .viol pa => freezeWave s k e.first va pa
      | .trans r => toSiding s k (kRead + kLane) true [(n, va, r)] e.tids
      | .ok pl =>
        let owner := match pl with
          | .versioned vrn _ _ _ => ((mget s.ranges vrn).map (·.owner)).getD 0
          | _ => 0
        setW s k ((passAll s w e f).onTids e.tids (fun _ t => { t with st := .awaiting, hold := .vpin owner }))) s

/-- `vunpin` (08 R310). -/
def execVunpin (m : Bool) (s : State) : Out :=
  let f := (Form.v3 m []).userOnly
  runWord f (fun s k w e =>
    let w' := passAll s w e f
    if (w.actives e.tids).isEmpty then setW s k w'
    else setW s k (w'.onTids e.tids (fun _ t => { t with st := .awaiting, hold := .vunpin }))) s

/-- `vread` (08 R311). -/
def execVread (m : Bool) (d : Spec) (s : State) : Out :=
  runVec (Form.v3 m [d]) d false 2 0 (fun _ w _ _ => ⟨w.sibs.map (fun _ => w.pver), 0⟩) s

/-- `pref.g` (08 R312): no effect on any program-visible state, and no trap. -/
def execPrefG (m : Bool) (_a : Spec) (s : State) : Out :=
  let f := Form.v3 m []
  runWord f (fun s k w e => setW s k (passAll s w e f)) s

end Sys2Proof.Machine
end

