-- ==== Sys2Proof/Machine/Tensor.lean ====
section
/-! DEFINITION. Tensor records: their fields (09 R319), the checks of R322, where the elements and scales of
a view stand (09 R321), and the pieces of a copy in ascending order (09 R329, R338). -/

namespace Sys2Proof.Machine

/-- A tensor record (09 R319). -/
structure TRec where
  base : Nat
  sbase : Nat
  rows : Nat
  cols : Nat
  rpitch : Nat
  ppitch : Nat
  spitch : Nat
  row0 : Nat
  col0 : Nat
  vrows : Nat
  vcols : Nat
  tscale : Nat
  tag : Nat
  fmt : Nat
  depth : Nat
  tile : Nat
  space : Nat
  trans : Bool
  hasts : Bool
  valid : Bool
  err : Nat
  aoff : Nat
  rmode : Nat
  ukey : Nat
  uown : Bool
  rsv : Nat
  deriving DecidableEq, Repr

/-- The fields of a record's 512 bits (09 R319). -/
def tensorRec (v : Nat) : TRec :=
  { base := bitsAt v 448 64, sbase := bitsAt v 384 64, rows := bitsAt v 352 32, cols := bitsAt v 320 32,
    rpitch := bitsAt v 288 32, ppitch := bitsAt v 256 32, spitch := bitsAt v 224 32, row0 := bitsAt v 192 32,
    col0 := bitsAt v 160 32, vrows := bitsAt v 144 16, vcols := bitsAt v 128 16, tscale := bitsAt v 96 32,
    tag := bitsAt v 80 16, fmt := bitsAt v 72 8, depth := bitsAt v 68 4, tile := bitsAt v 66 2, space := bitsAt v 64 2,
    trans := tst v 63, hasts := tst v 62, valid := tst v 59, err := bitsAt v 56 3, aoff := bitsAt v 36 20,
    rmode := bitsAt v 33 3, ukey := bitsAt v 22 10, uown := tst v 21, rsv := bitsAt v 32 1 + bitsAt v 0 21 }

/-- Bytes of an element of a byte format (09 R320); 0 for the others. -/
def fmtSize (fmt : Nat) : Nat :=
  if fmt == 0x00 || fmt == 0x01 || fmt == 0x09 || fmt == 0x0A then 1
  else if fmt == 0x02 || fmt == 0x03 || fmt == 0x07 || fmt == 0x08 then 2
  else if fmt == 0x04 || fmt == 0x05 || fmt == 0x06 then 4
  else if fmt == 0x0E then 8
  else 0

/-- A packed 6-bit format. -/
def isP6 (fmt : Nat) : Bool := fmt == 0x0B || fmt == 0x0C
/-- A PNk format. -/
def isPN (fmt : Nat) : Bool := decide (0x12 ≤ fmt) && decide (fmt ≤ 0x18)
/-- k of a PNk format. -/
def pnK (fmt : Nat) : Nat := fmt - 0x10
/-- Formats that may carry scale tiles (09 R320). -/
def mayTile (fmt : Nat) : Bool := fmt == 0x01 || fmt == 0x09 || fmt == 0x0A || isP6 fmt || isPN fmt
/-- A format of R320. -/
def fmtOk (fmt : Nat) : Bool := fmtSize fmt != 0 || isP6 fmt || isPN fmt || fmt == 0x20
/-- The floating-point formats of R320 as formats of 03. -/
def fmtFloat (fmt : Nat) : Option Fmt :=
  if fmt == 0x06 then some fp32 else if fmt == 0x07 then some fp16 else if fmt == 0x08 then some bf16
  else if fmt == 0x09 then some e4m3 else if fmt == 0x0A then some e5m2 else none

/-- T, the side of a scale tile; 0 for none. -/
def TRec.side (r : TRec) : Nat := if r.tile == 1 then 16 else if r.tile == 2 then 32 else 0

/-- Stored coordinates of view element (a, b) (09 R321). -/
def TRec.at (r : TRec) (a b : Nat) : Nat × Nat := if r.trans then (r.row0 + b, r.col0 + a) else (r.row0 + a, r.col0 + b)

/-- Stored rows and columns that the view spans. -/
def TRec.extent (r : TRec) : Nat × Nat := if r.trans then (r.vcols, r.vrows) else (r.vrows, r.vcols)

/-- Check 2 of R322: fields valid and admitted together. -/
def TRec.fieldsOk (r : TRec) : Bool :=
  fmtOk r.fmt && r.tile != 3 && (r.tile == 0 || mayTile r.fmt) &&
    (if isPN r.fmt then decide (r.depth ≤ pnK r.fmt) else r.depth == 0) && decide (r.rmode ≤ 4) &&
    (r.fmt != 0x20 || (r.space == 0 && r.base == 0)) &&
    (r.space != 3 || (r.rpitch == 0 && r.ppitch == 0 && r.spitch == 0 && !isPN r.fmt && !isP6 r.fmt && r.fmt != 0x0E))

/-- Check 3 of R322. -/
def TRec.shapeOk (r : TRec) : Bool :=
  r.rows != 0 && r.cols != 0 && r.vrows != 0 && r.vcols != 0 &&
    decide (r.row0 + r.extent.1 ≤ r.rows) && decide (r.col0 + r.extent.2 ≤ r.cols)

/-- Check 4 of R322. -/
def TRec.alignOk (r : TRec) : Bool :=
  let z := fmtSize r.fmt
  (z == 0 || (r.base % z == 0 && r.rpitch % z == 0)) && (r.space != 2 || (r.base % 64 == 0 && r.rpitch % 64 == 0))

/-- One byte beyond the last byte of the view, and of its scales, in a space that is addressed in bytes. -/
def TRec.top (r : TRec) : Nat × Nat :=
  let rm := r.row0 + r.extent.1 - 1
  let cm := r.col0 + r.extent.2 - 1
  let z := fmtSize r.fmt
  let t := r.side
  let e :=
    if r.space == 3 then r.base + (rm + 1) * z
    else if z != 0 then r.base + rm * r.rpitch + (cm + 1) * z
    else if isP6 r.fmt then r.base + rm * r.rpitch + 3 * (cm / 4) + 3
    else r.base + (pnK r.fmt - 1) * r.ppitch + rm * r.rpitch + cm / 8 + 1
  let q := if t == 0 then 0 else if r.space == 3 then r.sbase + rm / t + 1 else r.sbase + rm / t * r.spitch + cm / t + 1
  (e, q)

/-- Check 5 of R322: `share` is the size of the share that the record names, none when no unit is there. -/
def TRec.fits (share : Option Nat) (r : TRec) : Bool :=
  let top := r.top
  let within (n : Nat) : Bool := decide (top.1 ≤ n) && decide (top.2 ≤ n)
  match r.space with
  | 0 => true
  | 1 =>
    match share with
    | none => false
    | some n => within n
  | 2 => within 524288
  | _ => within 24576 && decide (r.cols ≤ 256)

/-- The first failing check of R322, 0 for none. -/
def TRec.check (share : Option Nat) (r : TRec) : Nat :=
  if r.rsv != 0 then 1
  else if !r.fieldsOk then 2
  else if !r.shapeOk then 3
  else if !r.alignOk then 4
  else if !r.fits share then 5
  else 0

/-- Bits of storage: `wd` bits from bit `lo` of the `nb` bytes at an address. In the gantry, the address is 24,576 ×
column + offset. -/
structure Bits where
  addr : Nat
  nb : Nat
  lo : Nat
  wd : Nat
  deriving DecidableEq, Repr

/-- The storage of the element at stored coordinates (r, c): one piece, or one for each plane of a PNk element
from plane 0 (09 R321). -/
def TRec.bits (t : TRec) (rc : Nat × Nat) : List Bits :=
  let z := fmtSize t.fmt
  let w (a : Nat) : Nat := if t.space == 0 then a % 2 ^ 64 else a
  if t.space == 3 then [⟨24576 * rc.2 + t.base + rc.1 * z, z, 0, 8 * z⟩]
  else if z != 0 then [⟨w (t.base + rc.1 * t.rpitch + rc.2 * z), z, 0, 8 * z⟩]
  else if isP6 t.fmt then [⟨w (t.base + rc.1 * t.rpitch + 3 * (rc.2 / 4)), 3, 6 * (rc.2 % 4), 6⟩]
  else (span 0 (pnK t.fmt)).map fun j => ⟨w (t.base + j * t.ppitch + rc.1 * t.rpitch + rc.2 / 8), 1, rc.2 % 8, 1⟩

/-- The scale byte of the tile that holds (r, c) (09 R321 step 3). -/
def TRec.scaleBits (t : TRec) (rc : Nat × Nat) : Bits :=
  let s := t.side
  if t.space == 3 then ⟨24576 * (s * (rc.2 / s)) + t.sbase + rc.1 / s, 1, 0, 8⟩
  else
    let a := t.sbase + rc.1 / s * t.spitch + rc.2 / s
    ⟨if t.space == 0 then a % 2 ^ 64 else a, 1, 0, 8⟩

/-- Where the data of a piece come from: storage, zeros, or the value of an element computed before. -/
inductive Feed where
  | from_ (b : Bits)
  | zero
  | val (elem : Nat)
  deriving DecidableEq, Repr

/-- One piece of a command's work. -/
structure Work where
  dst : Bits
  src : Feed
  deriving DecidableEq, Repr

/-- Pairs (a, b) of a view of the given shape, in element-index order. -/
def cells (rows cols : Nat) : List (Nat × Nat) := (span 0 rows).flatMap fun a => (span 0 cols).map fun b => (a, b)

/-- Pieces in ascending destination order; of two for the same bits the later one stays. -/
def ascendingWork (l : List Work) : List Work :=
  (l.foldl (fun m w => mset m (w.dst.addr * 64 + w.dst.lo) w) ([] : FMap Work)).map (·.2)

/-- The piece that an element's bits of one plane come from. -/
def pairUp (d s : List Bits) : List Work := List.zipWith (fun x y => ⟨x, .from_ y⟩) d s

/-- Bits of a PNk plane's partial last byte beyond the last stored column are written as zero with any element of that byte (03
R119). -/
def TRec.pad (t : TRec) (rc : Nat × Nat) : List Work :=
  if isPN t.fmt && rc.2 / 8 == t.cols / 8 && t.cols % 8 != 0 then
    (t.bits rc).map fun b => ⟨{ b with lo := t.cols % 8, wd := 8 - t.cols % 8 }, .zero⟩
  else []

/-- Element (a, b) of one view to element (a', b') of another. -/
def moveElem (d : TRec) (a b : Nat) (s : TRec) (a' b' : Nat) : List Work :=
  pairUp (d.bits (d.at a b)) (s.bits (s.at a' b')) ++ d.pad (d.at a b)

/-- A copy of one view to another, scales included (09 R329, R339). -/
def copyWork (s d : TRec) : List Work :=
  let elems := (cells d.vrows d.vcols).flatMap fun p => moveElem d p.1 p.2 s p.1 p.2
  let t := d.side
  let scales :=
    if t == 0 then []
    else
      (cells (cdiv d.vrows t) (cdiv d.vcols t)).map fun p =>
        ⟨d.scaleBits (d.at (t * p.1) (t * p.2)), .from_ (s.scaleBits (s.at (t * p.1) (t * p.2)))⟩
  ascendingWork (elems ++ scales)

/-- A gather: destination row i from table row idx[i], zeros out of range (09 R341). -/
def gatherWork (table d : TRec) (idx : List Nat) : List Work :=
  ascendingWork ((enumFrom 0 idx).flatMap fun e =>
    (span 0 d.vcols).flatMap fun b =>
      if e.2 < table.vrows then moveElem d e.1 b table e.2 b
      else (d.bits (d.at e.1 b)).map (fun x => ⟨x, .zero⟩) ++ d.pad (d.at e.1 b))

/-- A scatter: table row idx[i] from source row i in ascending i, out-of-range rows skipped (09 R341). -/
def scatterWork (s table : TRec) (idx : List Nat) : List Work :=
  ascendingWork ((enumFrom 0 idx).flatMap fun e =>
    if e.2 < table.vrows then
      (span 0 s.vcols).flatMap fun b => moveElem table e.2 b s e.1 b
    else [])

/-- Element index i of a view receives value i (09 R321, R333, R343). -/
def valueWork (d : TRec) : List Work :=
  ascendingWork ((enumFrom 0 (cells d.vrows d.vcols)).flatMap fun e =>
    (d.bits (d.at e.2.1 e.2.2)).map (fun x => ⟨x, .val e.1⟩))

/-- Both origins of a tiled copy are multiples of T. -/
def originsOk (s d : TRec) : Bool :=
  s.side == 0 || (s.row0 % s.side == 0 && s.col0 % s.side == 0 && d.row0 % s.side == 0 && d.col0 % s.side == 0)

/-- A number with the bits of a piece replaced. -/
def putBits (b : Bits) (old v : Nat) : Nat := old % 2 ^ b.lo + v % 2 ^ b.wd * 2 ^ b.lo + old / 2 ^ (b.lo + b.wd) * 2 ^ (b.lo + b.wd)

/-- The value of a PNk element from its bits, plane 0 first, read at depth j (03 R119, R120). -/
def pnValue (k j : Nat) (bits : List Nat) : Int :=
  let x := sgn k (bits.foldl (fun n b => 2 * n + b % 2) 0)
  if j == k then x else x / (2 ^ (k - j) : Nat) * (2 ^ (k - j) : Nat) + (2 ^ (k - j - 1) : Nat)

/-- The 4,224-byte activation-table image holds zeros in its reserved fields (07 R274, R275). -/
def imageOk (bs : List Byte) : Bool :=
  let v := ofBytes bs
  (span 0 4).all fun f =>
    bitsAt v (8 * (1056 * f) + 130) 126 == 0 &&
      (span 0 64).all (fun g => bitsAt v (8 * (1056 * f + 32 + 16 * g) + 96) 32 == 0)

end Sys2Proof.Machine
end

