-- ==== Sys2Proof/Machine/Storage.lean ====
section
/-! DEFINITION. What accesses do when they are performed (04 R152, R159-R161; 08 R286, R291, R295, R298-R305)
and when their results arrive (02 R83). -/

namespace Sys2Proof.Machine

/-- Bytes of a unit's share. -/
def shareBytes (s : State) (u off n : Nat) : List Byte := ((mget s.units u).map (fun x => getBytes x.share off n)).getD []

/-- Write bytes of a unit's share. -/
def putShare (s : State) (u off : Nat) (bs : List Byte) : State := modU s u (fun x => { x with share := putBytes x.share off bs })

/-- The wave and tid of a thread of a unit, by lidx. -/
def findThread (s : State) (u lidx : Nat) : Option (Nat × Wave × Nat × Thread) :=
  match s.waves.find? (fun e => e.2.unit == u && e.2.threads.any (fun t => t.lidx == lidx)) with
  | none => none
  | some (k, w) => (w.numbered.find? (fun p => p.2.lidx == lidx)).map (fun p => (k, w, p.1, p.2))

/-- The register copy that an aperture position names (02 R91): sibling 0 in a single-mode target. -/
def apKey (w : Wave) (t : Thread) (key : Option Nat) : Option Nat :=
  match key with
  | none => none
  | some x =>
    if !t.live || w.lacksKey x then none
    else if w.triple then some x
    else some (x / 4 * 4)

/-- An aperture read of `n` bytes (02 R91, R92): the bank as it stands (log 22). -/
def apRead (s : State) (u lidx : Nat) (key : Option Nat) (n : Nat) : Nat :=
  match findThread s u lidx with
  | none => 0
  | some (_, w, i, t) =>
    match apKey w t key with
    | none => 0
    | some x =>
      let lo := t.reg true (freeOp s i (x % 4) 11) (x / 4) (x % 4)
      if n == 8 then lo + 2 ^ 32 * t.reg true (freeOp s i (x % 4) 13) (x / 4 + 1) (x % 4) else lo

/-- An aperture write reaches its target core (02 R91, R93): copies 1 and 2 of a single-mode target do not
exist. -/
def apWrite (s : State) (u lidx : Nat) (key : Option Nat) (n v : Nat) : State :=
  match findThread s u lidx, key with
  | some (k, w, _, t), some x =>
    if !t.live || w.lacksKey x || (!w.triple && x % 4 != 0) then s
    else
      let one : ApWrite := ⟨lidx, x / 4 * 4, [x % 4], BitVec.ofNat 32 v⟩
      let two : ApWrite := ⟨lidx, (x / 4 + 1) * 4, [x % 4], BitVec.ofNat 32 (v / 2 ^ 32)⟩
      setW s k { w with apw := w.apw ++ (if n == 8 then [one, two] else [one]) }
  | _, _ => s

/-- Device memory that a place covers. -/
def devPieces (s : State) (pl : Place) (n va : Nat) : List (Nat × Nat) :=
  (footprint s pl n va).filterMap (fun p => if p.1 == 0 then some p.2 else none)

/-- The first poisoned or uncorrectable granule that an access meets, and whether it was held as poisoned. -/
def badGranule (s : State) (pl : Place) (n va : Nat) : Option (Nat × Bool) :=
  match pl with
  | .spoiled _ g held => some (farGranules + g, held)
  | _ =>
  match (devPieces s pl n va).findSome? (meets s.poison) with
  | some g => some (g, true)
  | none => ((devPieces s pl n va).findSome? (meets s.latent)).map (fun g => (g, false))

/-- What stands at a place, plane by plane, as a die reads it. -/
def readPlanes (s : State) (d : Nat) (l : Lane) (n : Nat) : List Nat :=
  match bindPlace s l.place with
  | .single pa => [ofBytes (dieBytes s d pa n)]
  | .triple pa st => [ofBytes (dieBytes s d pa n), ofBytes (dieBytes s d (pa + st) n), ofBytes (dieBytes s d (pa + 2 * st) n)]
  | .md32 pa => [ofBytes (dieBytes s d pa 4)]
  | .host a => [ofBytes (getBytes s.hostMem a n)]
  | .scratch u off => [ofBytes (shareBytes s u off n)]
  | .aperture u l k => [apRead s u l k n]
  | .answered _ => l.data
  | _ => [0]

/-- `Ext` (08 R294). -/
def extTy (ty v : Nat) : Nat :=
  let v := v % 2 ^ (8 * tySize ty)
  if ty == 1 then sext 8 32 v else if ty == 3 then sext 16 32 v else v

/-- What a load delivers to the siblings (08 R295, R296). -/
def loadVals (triple : Bool) (ty cls : Nat) (untyped : Bool) (planes : List Nat) : List Nat :=
  let all (v : Nat) : List Nat := if triple then [v, v, v] else [v]
  match planes with
  | [x, y, z] =>
    if triple then [extTy ty x, extTy ty y, extTy ty z]
    else
      match tyFmt ty with
      | some f => [extTy ty (meanBits f [x, y, z])]
      | none => [extTy ty x]
  | x :: _ =>
    if cls == 2 then (if triple then md32Load x else [md32Mean x])
    else if untyped then all (x % 2 ^ (8 * tySize ty))
    else all (extTy ty x)
  | [] => all 0

/-- Write one lane's data at its place (08 R295). -/
def storeAt (s : State) (d cid core : Nat) (l : Lane) (n : Nat) (data : List Nat) : State :=
  let s := tagWrite s cid core (devPieces s l.place n l.va)
  match l.place with
  | .single pa => writeDie s d pa (soft s pa (bytesOf n (lget 0 data 0)))
  | .triple pa st =>
    writeDieList s d (softList s (place pa (bytesOf n (lget 0 data 0)) ++ place (pa + st) (bytesOf n (lget 0 data 1)) ++
      place (pa + 2 * st) (bytesOf n (lget 0 data 2))))
  | .md32 pa => writeDie s d pa (soft s pa (bytesOf 4 (lget 0 data 0)))
  | .host a => putHost s cid (place a (bytesOf n (lget 0 data 0)))
  | .scratch u off => putShare s u off (bytesOf n (lget 0 data 0))
  | .aperture u l k => apWrite s u l k n (lget 0 data 0)
  | _ => s

/-- The new word of an atomic and its flags (08 R298, R299). -/
def atomNew (f old : Nat) (data : List Nat) : Nat × Nat :=
  let b := lget 0 data 0
  match f with
  | 0 => ((old + b) % 2 ^ 32, 0)
  | 1 => ((old + b) % 2 ^ 64, 0)
  | 2 =>
    let r := addRn32F old b
    (r.bits, r.fl)
  | 3 => (if sgn 32 b < sgn 32 old then b else old, 0)
  | 4 => (min old b, 0)
  | 5 => (if sgn 32 old < sgn 32 b then b else old, 0)
  | 6 => (max old b, 0)
  | 7 => (old &&& b, 0)
  | 8 => (old ||| b, 0)
  | 9 => (old ^^^ b, 0)
  | 10 => (b, 0)
  | 11 => (b, 0)
  | _ => (if old == b then lget 0 data 1 else old, 0)

/-- The word that an atomic or decay operation finds: at the home slice, or in the share. -/
def homeWord (s : State) (pl : Place) (n : Nat) : Nat :=
  match pl with
  | .single pa => ofBytes (homeBytes s pa n)
  | .scratch u off => ofBytes (shareBytes s u off n)
  | _ => 0

/-- The factor of a class (03 R131): γ0 is 1.0. -/
def gammaOf (s : State) (cid cls : Nat) : Nat :=
  if cls == 0 then 0x3F800000 else gammaUsed (((mget s.contexts cid).map (fun c => (lget 0#32 c.gammas cls).toNat)).getD 0)

/-- The decayed value of a word, and STALE (03 R133). -/
def decayed (s : State) (cid v : Nat) : Nat × Nat :=
  let age := ((gstepOf s cid).toNat % 2 ^ 16 + 2 ^ 16 - dwStamp v) % 2 ^ 16
  if age < 2 ^ 15 then (mulRn32 (dwVal v) (decayFactor (gammaOf s cid (dwCls v)) age), 0) else (0, flSTALE)

/-- AGE of a dw64 word at its home slice (03 R133). -/
def sweepAge (s : State) (cid v : Nat) : Nat := ((gstepOf s cid).toNat % 2 ^ 16 + 2 ^ 16 - dwStamp v) % 2 ^ 16

/-- The word that a decay operation leaves, and its flags (03 R136, R138; 08 R303). -/
def decayNew (s : State) (cid : Nat) (op : AOp) (v : Nat) (data : List Nat) : Nat × Nat :=
  let stamp := (gstepOf s cid).toNat
  let x := decayed s cid v
  match op with
  | .stD cls => (dwWord (lget 0 data 0) stamp cls, 0)
  | .dadd => (dwWord (addRn32 x.1 (lget 0 data 0)) stamp (dwCls v), x.2)
  | .dcls cls => (dwWord x.1 stamp cls, x.2)
  | _ => (v, 0)

/-- `Advance` (04 R149): TARGET, COUNT and GEN. -/
def advance (target count gen : Nat) : Nat × Nat :=
  if target == 0 then (count, gen) else (count % target, (gen + count / target) % 2 ^ 32)

/-- Put an arrival word (04 R148): the reserved field is written as zero. -/
def putArrival (s : State) (u off target count gen : Nat) : State :=
  putShare s u off (bytesOf 16 (target + count * 2 ^ 32 + gen * 2 ^ 64))

/-- `Arrive` (04 R149). -/
def arriveWord (s : State) (u off n : Nat) : State :=
  let v := ofBytes (shareBytes s u off 12)
  let a := advance (bitsAt v 0 32) ((bitsAt v 32 32 + n) % 2 ^ 32) (bitsAt v 64 32)
  putArrival s u off (bitsAt v 0 32) a.1 a.2

/-- Arming (04 R150, 08 R305). -/
def armWord (s : State) (u off target : Nat) : State :=
  let v := ofBytes (shareBytes s u off 12)
  let a := advance target (bitsAt v 32 32) (bitsAt v 64 32)
  putArrival s u off target a.1 a.2

/-- An access has been performed. -/
def Wave.countDone (w : Wave) (id : Nat) : Wave :=
  { w with ldq := countOff id w.ldq, stq := countOff id w.stq, enq := countOff id w.enq }

/-- An access of a wave. -/
def Wave.acc (w : Wave) (id : Nat) : Option Access := w.accs.find? (fun a => a.id == id)

/-- Take an access off the wave. -/
def Wave.dropAcc (w : Wave) (id : Nat) : Wave := { w with accs := w.accs.filter (fun a => a.id != id) }

/-- The access may be performed: what local order puts before it is, and its lanes are not with sharded owners (04 R154, R172). -/
def mayPerform (w : Wave) (a : Access) : Bool :=
  !a.performed && !a.lanes.any (fun l => isRemote l.place) && a.after.all (fun i => !w.accs.any (fun x => x.id == i && !x.performed))

/-- A lane that reaches storage whose readers do not follow the vector clocks: host memory, or a register of another thread. -/
def Lane.outside (l : Lane) : Bool := match l.place with
  | .host _ => true
  | .aperture _ _ _ => true
  | _ => false

/-- A write may be performed: earlier writes of its bytes are visible on its die (04 R160, R161), and where its readers do not follow
the vector clocks every write before it is visible on every die (04 R157, R158). -/
def writeReady (s : State) (w : Wave) (a : Access) : Bool :=
  let bytes := a.lanes.flatMap (fun l => (devPieces s l.place (accSize a) l.va).flatMap (fun p => span p.1 p.2))
  !coversUnseen s [dieOf w.core] bytes && (!a.lanes.any (·.outside) || allShown s (dieOf w.core))

/-- Keys of a destination. -/
def destKeys (key : Nat) (wide : Bool) : List Nat := if wide && decide (key < 1024) then [key, key + 4] else [key]

/-- Results reach the registers that they are owed to (02 R82, R83, R85). -/
def deliverTo (s : State) (w : Wave) (a : Access) (vals : List (Nat × List Nat)) : Wave :=
  match a.dest with
  | none => w
  | some (key, wide) =>
    let keep (n : Nat) : Nat := freeOp s n 0 10
    let clear (t : Thread) : Thread :=
      if w.ilk then { t with owed := t.owed.filter (fun k => !(destKeys key wide).contains k) } else t
    if decide (1024 ≤ key) then
      let ended := w.threads.any (fun t => t.clobbered.contains key) && tst (keep 0) 0
      let w := w.mapThreads clear
      match vals with
      | (_, v :: _) :: _ => if ended then w else { w with scal := zset 0#64 w.scal (key - 1024) (BitVec.ofNat 64 v) }
      | _ => w
    else
      w.onTids (a.lanes.map (·.tid)) fun n t =>
        match vals.find? (fun e => e.1 == n) with
        | some e => clear (t.deliver a.issued key wide e.2 (keep n))
        | none => clear t

/-- An uncorrectable error charged to a context, or logged for the device when the context has ended (14 R424): the instruction, the
virtual address of the granule and the granule. -/
def chargeMemory (s : State) (cid : Nat) (at_ : W64) (va g sub ord wlog core slot : Nat) : State :=
  let g := g % farGranules
  if ((mget s.contexts cid).map (·.ended)).getD true then devError s 3 (freeUnit s) cid (partOf s cid) (g * 32)
  else ringEntry s cid at_.toNat va (g * 32) cData sub 0 ord wlog core slot

/-- An uncorrectable error charged to a wave (14 R424). -/
def chargeError (s : State) (w : Wave) (at_ : W64) (va g sub : Nat) : State :=
  chargeMemory s w.cid at_ (va / 32 * 32) g sub (ordOf s w) w.wlog w.core w.slot

/-- Threads that a lane's report names: of an access of the whole wave the active ones packed at it (12 R368; 06 R209). -/
def Access.readers (a : Access) (tids : List Nat) : List Nat := if a.common then a.folds else tids

/-- Lanes that met bad memory: tid, virtual address of the granule, granule, SUB of 14 R424. -/
abbrev Bad := List (Nat × Nat × Nat × Nat)

/-- Report bad memory (08 R291): ring entries, and the data-error trap of the wave, or a handler fault. -/
def reportBad (s : State) (k : Nat) (a : Access) (bad : Bad) : State :=
  match bad with
  | [] => s
  | (_, va, _, _) :: _ =>
    match mget s.waves k with
    | none => s
    | some w =>
      let s := bad.foldl (fun s b => chargeError (poisonGranule s b.2.2.1) w a.addr b.2.1 b.2.2.1 b.2.2.2) s
      let c : Cause := ⟨cData, a.addr, BitVec.ofNat 64 va, 0#32, 0, maskOf (a.readers (bad.map (·.1)))⟩
      if !a.user && w.priv.isSome then handlerFault s k c
      else if w.threads.any (·.live) then addCause s k c
      else s

/-- The virtual address of a granule that a lane of `n` bytes meets (14 R424). -/
def granuleVa (s : State) (l : Lane) (n g : Nat) : Nat :=
  match (devPieces s l.place n l.va).find? (fun p => (meets [g] p).isSome) with
  | some (pa, _) => (l.va + (32 * g - pa)) / 32 * 32
  | none => l.va / 32 * 32

/-- Lanes of a reading access that meet bad memory. -/
def badReads (s : State) (a : Access) : Bad :=
  a.lanes.filterMap fun l =>
    (badGranule s l.place (accSize a) l.va).map (fun g => (l.tid, granuleVa s l (accSize a) g.1, g.1, 1))

/-- Lanes of a writing access that meet it. -/
def badWrites (s : State) (a : Access) : Bad :=
  a.lanes.filterMap fun l =>
    (badGranule s l.place (accSize a) l.va).map (fun g => (l.tid, granuleVa s l (accSize a) g.1, g.1, if g.2 then 5 else 4))

/-- Everything that happens to the waves of a unit when its scratchpad has changed. -/
def afterShare (s : State) (k : Nat) (a : Access) : State :=
  match mget s.waves k with
  | none => s
  | some w => if a.lanes.any (·.inShare) then concludeAll s ((unitWaves s w.unit).filter (· != k)) else s

/-- Sibling values that a load delivers to each thread. -/
def loadResults (s : State) (w : Wave) (a : Access) (ty : Nat) (bad : Bad) : List (Nat × List Nat) :=
  let triple := w.triple && !a.common
  a.lanes.map fun l =>
    if bad.any (fun b => b.1 == l.tid) then (l.tid, if triple then [0, 0, 0] else [0])
    else (l.tid, loadVals triple ty (placeClass s l.place) (isAperture l.place) (readPlanes s (dieOf w.core) l (accSize a)))

/-- What an access delivers when its result arrives, bad lanes, and flags; nothing while it cannot arrive. -/
def arrivalOf (s : State) (w : Wave) (a : Access) : Option (List (Nat × List Nat) × Bad × Nat) :=
  match a.op with
  | .result fl => some (a.lanes.map (fun l => (l.tid, l.data)), [], fl)
  | .load ty =>
    if mayPerform w a then
      let bad := badReads s a
      some (loadResults s w a ty bad, bad, 0)
    else none
  | .ldD =>
    if mayPerform w a && writeReady s w a then
      let bad := badReads s a
      let each := a.lanes.map fun l => (l.tid, match l.place with
        | .answered _ => (lget 0 l.data 0, lget 0 l.data 1)
        | pl => decayed s w.cid (homeWord s pl 8))
      let vals := each.map fun e =>
        let v := if bad.any (fun b => b.1 == e.1) then 0 else e.2.1
        (e.1, w.sibs.map (fun _ => v))
      some (vals, bad, (each.filter (fun e => !bad.any (fun b => b.1 == e.1))).foldl (fun n e => n ||| e.2.2) 0)
    else none
  | .atomic _ true => if a.performed then some (a.lanes.map (fun l => (l.tid, w.sibs.map (fun _ => lget 0 l.data 0))), [], 0) else none
  | _ => none

/-- RESULT_ARRIVAL (02 R83): a load's value is bound and arrives, or a result computed before arrives. -/
def resultArrival (s : State) (k id : Nat) : State :=
  match mget s.waves k with
  | none => s
  | some w =>
    match w.acc id with
    | none => s
    | some a =>
      match arrivalOf s w a with
      | none => s
      | some (vals, bad, fl) =>
        let w := ((deliverTo s w a vals).join fl).dropAcc id
        let w := if a.performed then w else w.countDone id
        conclude (reportBad (setW s k w) k a bad) k

/-- One lane of a load is performed by itself: its value is bound from what its die holds now, while the others are bound later (04
R152, R170); lower threads that read a byte of it are bound first (08 R286). -/
def bindLane (s : State) (k id tid : Nat) : State :=
  match mget s.waves k with
  | none => s
  | some w =>
    match w.acc id with
    | none => s
    | some a =>
      let load : Bool := match a.op with
        | .load _ => true
        | _ => false
      let global (l : Lane) : Bool := match bindPlace s l.place with
        | .single _ => true
        | .triple _ _ => true
        | .md32 _ => true
        | .host _ => true
        | _ => false
      let waits (l : Lane) : Bool := a.lanes.any fun x =>
        decide (x.tid < l.tid) && global x && overlap (footprint s x.place (accSize a) x.va) (footprint s l.place (accSize a) l.va)
      let bind (l : Lane) : Lane :=
        if l.tid == tid && global l && !waits l && (badGranule s l.place (accSize a) l.va).isNone then
          { l with place := .answered (placeClass s l.place), data := readPlanes s (dieOf w.core) l (accSize a) }
        else l
      if !load || !mayPerform w a then s
      else setW s k { w with accs := w.accs.map (fun x => if x.id == id then { x with lanes := x.lanes.map bind } else x) }

/-- One lane of a write that returns nothing: the state after it, and flags. -/
def performLane (d : Nat) (w : Wave) (a : Access) (s : State) (l : Lane) : State × Nat :=
  let n := accSize a
  match a.op with
  | .store _ => (storeAt s d w.cid w.core l n l.data, 0)
  | .atomic f _ =>
    match l.place with
    | .answered _ => (s, lget 0 l.data 1)
    | pl =>
      let r := atomNew f (homeWord s pl n) l.data
      (storeAt s d w.cid w.core l n [r.1], r.2)
  | .arm =>
    match l.place with
    | .scratch u off => (armWord s u off (lget 0 l.data 0 % 2 ^ 32), 0)
    | _ => (s, 0)
  | op =>
    match l.place with
    | .answered _ => (s, lget 0 l.data 1)
    | pl =>
      let r := decayNew s w.cid op (homeWord s pl n) l.data
      (storeAt s d w.cid w.core l n [r.1], r.2)

/-- Every lane in ascending tid (08 R286): state, flags. -/
def performLanes (d : Nat) (w : Wave) (a : Access) (bad : Bad) : State → Nat → List Lane → State × Nat
  | s, fl, [] => (s, fl)
  | s, fl, l :: ls =>
    if bad.any (fun b => b.1 == l.tid) then performLanes d w a bad s fl ls
    else
      let r := performLane d w a s l
      performLanes d w a bad r.1 (fl ||| r.2) ls

/-- Tids whose writes were refused; a common access is one write of every active packed thread (13 R406). -/
def refused (w : Wave) (a : Access) (bad : Bad) : List Nat :=
  if a.common && !bad.isEmpty then span 0 w.threads.length else bad.map (·.1)

/-- A sampler that a start sets going (06 R243): its cycle 0 is this one. -/
def samplerOf (s : State) (w : Wave) (recAddr rec' : Nat) : Sampler :=
  { cid := w.cid, unit := w.unit, wlog := w.wlog, recAddr := BitVec.ofNat 64 recAddr, buf := BitVec.ofNat 64 (bitsAt rec' 192 64),
    cap := bitsAt rec' 160 32, period := bitsAt rec' 144 16, allWaves := bitsAt rec' 136 8 == 1, start := s.cycle, k := 0, nwr := 0,
    ndrop := 0, pending := [] }

/-- A sampling control record has a field out of range or not zero where it is reserved, or BUF misaligned (06 R242, R243; 00 R7). -/
def badSampling (v : Nat) : Bool :=
  bitsAt v 160 32 == 0 || decide (bitsAt v 144 16 < 16) || decide (1 < bitsAt v 136 8) || bitsAt v 192 4 != 0 || bitsAt v 0 64 != 0

/-- A sampler operation is performed (06 R241-R243, R247): a start takes effect; the record of a stop or flush, which took effect
when it was issued, is written. -/
def samplerOp (s : State) (w : Wave) (a : Access) (act : Nat) (bad : Bad) : State :=
  if act == 0 then
    let addr := ((a.lanes.head?).map (·.va)).getD 0
    let rec' := (enumFrom 0 a.lanes).foldl (fun n e =>
      n + (if bad.isEmpty then lget 0 (readPlanes s (dieOf w.core) e.2 8) 0 else 0) * 2 ^ (64 * e.1)) 0
    let stat (v : Nat) : State := (userStore s w.cid w.core (addr + 16) (numBytes 1 v) false).1
    if badSampling rec' || (getC s w.core).sampler.isSome then stat 2
    else stopSampler (modC (stat 1) w.core (fun c => { c with sampler := some (samplerOf s w addr rec') })) w.core w.cid
  else
    match a.lanes with
    | [] => s
    | l :: _ =>
      let at' := lget 0 l.data 0
      let s := tryStore s w.cid w.core (at' + 8) (numBytes 4 (lget 0 l.data 1) ++ numBytes 4 (lget 0 l.data 2))
      tryStore s w.cid w.core (at' + 16) (numBytes 1 (lget 0 l.data 3))

/-- The turn of a sampler operation has come: those that waves of the core issued before it are performed, and of a record write, which
every die sees at once, the writes before it are visible everywhere (06 R247; 04 R154, R158). -/
def samplerTurn (s : State) (w : Wave) (a : Access) : Bool :=
  let op (x : Access) : Option Nat := match x.op with
    | .sampler act => some act
    | _ => none
  !s.waves.any (fun e => e.2.core == w.core && e.2.accs.any (fun x => (op x).isSome && !x.performed && decide (x.id < a.id))) &&
    (op a == some 0 || allShown s (dieOf w.core))

/-- `tdesc` takes effect (09 R323): the record is loaded, completed and stored back. -/
def tdescPerformed (s : State) (w : Wave) (mods : Nat) (l : Lane) : State :=
  let d := dieOf w.core
  let v := match l.place with
    | .answered _ => lget 0 l.data 2
    | _ => lget 0 (readPlanes s d l 64) 0
  let v := if tst mods 0 then v % 2 ^ 448 + lget 0 l.data 0 * 2 ^ 448 else v
  let z := lget 0 l.data 1
  let v := if tst mods 1 then setField (setField v 192 32 z) 160 32 (z / 2 ^ 32) else v
  let r := tensorRec v
  let ord := ordOf s w
  let unit := if r.uown then unitAt s w.launch (ord / 1024 * 1024 + r.ukey) else some w.unit
  let err := r.check (unit.bind (fun u => (mget s.units u).map (·.shSize)))
  let cls :=
    if r.space != 0 || r.fmt == 0x20 then 3
    else
      match if unwalked s w.cid r.base then .fault 1 else translate s w.cid (tlbOf s w) w.priv.isSome .read r.base with
      | .page p => pageClass s p
      | _ => (freeVal s 9400).toNat % 4
  let v := setField (setField (setField v 60 2 cls) 59 1 (bnat (err == 0))) 56 3 err
  let s := tagWrite s w.cid w.core (devPieces s l.place 64 l.va)
  match bindPlace s l.place with
  | .single pa => writeDie s d pa (soft s pa (bytesOf 64 v))
  | .triple pa st =>
    writeDieList s d (softList s (place pa (bytesOf 64 v) ++ place (pa + st) (bytesOf 64 v) ++ place (pa + 2 * st) (bytesOf 64 v)))
  | .host h => putHost s w.cid (place h (bytesOf 64 v))
  | _ => s

/-- STORE_PERFORMED (04 R152): a store, no-return atomic, decay write, arming or sampler record write is
applied and leaves its counter. -/
def storePerformed (s : State) (k id : Nat) : State :=
  match mget s.waves k with
  | none => s
  | some w =>
    match w.acc id with
    | none => s
    | some a =>
      let isWrite : Bool := match a.op with
        | .store _ => true
        | .atomic _ ret => !ret
        | .stD _ => true
        | .dadd => true
        | .dcls _ => true
        | .arm => true
        | .sampler _ => true
        | .tdesc _ => true
        | _ => false
      if !isWrite || !mayPerform w a || !writeReady s w a then s
      else
        let d := dieOf w.core
        match a.op with
        | .sampler act =>
          if !samplerTurn s w a then s
          else
          let bad := if act == 0 then badReads s a else []
          let s := samplerOp s w a act bad
          let s := modW s k (fun w => (w.dropAcc id).countDone id)
          conclude (reportBad s k a bad) k
        | .tdesc mods =>
          let bad := badReads s a
          let s := if bad.isEmpty then a.lanes.foldl (fun s l => tdescPerformed s w mods l) s else s
          let s := modW s k (fun w => ((w.dropAcc id).countDone id).lowerSlot a.slot)
          conclude (reportBad s k a bad) k
        | _ =>
          let bad := badWrites s a
          let r := performLanes d w a bad s 0 a.lanes
          let s := modW r.1 k (fun w => (((((w.join r.2).dropAcc id).countDone id).restamp s a).fate id (refused w a bad)))
          let s := reportBad s k a bad
          conclude (afterShare s k a) k

/-- One lane of an atomic with return: its old value is bound (08 R298). -/
def atomicLane (d : Nat) (w : Wave) (a : Access) (bad : Bad) (s : State) (l : Lane) : State × Lane × Nat :=
  if bad.any (fun b => b.1 == l.tid) then (s, { l with data := [0] }, 0)
  else
    let old := match l.place with
      | .answered _ => lget 0 l.data 0
      | pl => homeWord s pl (accSize a)
    let r := performLane d w a s l
    (r.1, { l with data := [old] }, r.2)

/-- Every lane of an atomic with return. -/
def atomicLanes (d : Nat) (w : Wave) (a : Access) (bad : Bad) : State → List Lane → State × List Lane × Nat
  | s, [] => (s, [], 0)
  | s, l :: ls =>
    let r := atomicLane d w a bad s l
    let q := atomicLanes d w a bad r.1 ls
    (q.1, r.2.1 :: q.2.1, r.2.2 ||| q.2.2)

/-- ATOMIC_PERFORMED (04 R161, 08 R301): applied, its old value bound, its counters left. -/
def atomicPerformed (s : State) (k id : Nat) : State :=
  match mget s.waves k with
  | none => s
  | some w =>
    match w.acc id with
    | none => s
    | some a =>
      let ok : Bool := match a.op with
        | .atomic _ true => true
        | _ => false
      if !ok || !mayPerform w a || !writeReady s w a then s
      else
        let bad := badReads s a
        let r := atomicLanes (dieOf w.core) w a bad s a.lanes
        let s := modW r.1 k (fun w =>
          let accs := w.accs.map (fun (x : Access) => if x.id == id then { x with lanes := r.2.1, performed := true } else x)
          let w : Wave := { w.join r.2.2 with accs := accs }
          (w.countDone id).fate id (bad.map (·.1)))
        let s := reportBad s k a bad
        conclude (afterShare s k a) k

/-- WRITE_MADE_VISIBLE (04 R159): after every write causally before it. -/
def writeMadeVisible (s : State) (d id : Nat) : State :=
  match s.vis.find? (fun v => v.id == id) with
  | none => s
  | some v => if decide (d < 4) && !v.seen.contains d && mayShow s d v then showOn s d v else s

/-- RESULT_ARRIVAL; above 2^64 the number names one lane of the access, which is bound by itself: 2^64 × (tid + 1) is added. -/
def execResultArrival (wave id : Nat) (s : State) : Out :=
  .next (nextFree (if id < 2 ^ 64 then resultArrival s wave id else bindLane s wave (id % 2 ^ 64) (id / 2 ^ 64 - 1)))
/-- STORE_PERFORMED. -/
def execStorePerformed (wave id : Nat) (s : State) : Out := .next (nextFree (storePerformed s wave id))
/-- ATOMIC_PERFORMED. -/
def execAtomicPerformed (wave id : Nat) (s : State) : Out := .next (nextFree (atomicPerformed s wave id))
/-- WRITE_MADE_VISIBLE. -/
def execWriteMadeVisible (die id : Nat) (s : State) : Out := .next (nextFree (writeMadeVisible s die id))

/-- Record writes of a core's sampler are performed as far as they may be. -/
def performReports (s : State) (core : Nat) : State :=
  let ids := (s.waves.filter (fun e => e.2.core == core)).flatMap fun e =>
    e.2.accs.filterMap fun a => match a.op with
      | .sampler (_ + 1) => some (e.1, a.id)
      | _ => none
  ids.foldl (fun s p => storePerformed s p.1 p.2) s

/-- The lanes that read a sampling control record: four 64-bit loads (06 R241). -/
def recordLanes (s : State) (w : Wave) (e : Exec) (addr : Nat) : List Lane :=
  (span 0 4).filterMap fun j =>
    match checkGlobal s w .read .scalar 8 8 (addr + 8 * j) with
    | .ok pl => some ⟨lget 0 e.tids 0, addr + 8 * j, pl, []⟩
    | _ => none

/-- `smpl 0`: the start of the sampler (06 R241-R243; 11 R362). It takes effect as it issues, or where its loads have to wait when
they are performed. -/
def execSmplStart (m : Bool) (a : SReg) (s : State) : Out :=
  let f := (Form.sc0 m).userOnly
  runWord f (fun s k w e =>
    if (w.actives e.tids).isEmpty then setW s k (passAll s w e f)
    else
      let addr := (readScal s w e.tids 1 a.toNat).toNat
      scalarMem s k w e .read addr (checkGlobal s w .read .scalar 8 32 addr) fun pl =>
        let id := s.nextId
        let acc := { waveAccess s w e (.sampler 0) addr pl [] none with lanes := recordLanes s w e addr }
        if isRemote pl then
          setW { s with nextId := id + 1 } k (w.hold (farCode s) (heldWhole s w e [acc] none (kRead + kScalar) false f.last))
        else storePerformed (performReports (setW { s with nextId := id + 1 } k (passAll s (launchAccess s w 4 1 acc) e f)) w.core) k id) s

/-- Where a record write stands for local order: nowhere, when it will be lost or its page is another device's. -/
def reportPlace (s : State) (cid core va : Nat) : Place :=
  match userPlace s cid core va 8 with
  | some (.remote _ _ _ _ _) => .answered 0
  | some pl => pl
  | none => .answered 0

/-- The record write of a stop or flush: address, NDROP, NWR and STAT. -/
def reportAccess (s : State) (w : Wave) (e : Exec) (act : Nat) (m : Sampler) : Access :=
  let at' := m.recAddr.toNat
  let lane (va : Nat) (data : List Nat) : Lane := ⟨lget 0 e.tids 0, va, reportPlace s w.cid w.core va, data⟩
  { waveAccess s w e (.sampler act) 0 (.single 0) [] none with
    lanes := [lane (at' + 8) [at', m.ndrop, m.nwr, if act == 1 then 0 else 1], lane (at' + 16) []] }

/-- A stop or flush of the sampler (06 R247; 11 R362): it takes effect as it issues, after the sample of its cycle; its record write
is counted as a store until it is performed. -/
def runSmpl (m : Bool) (act : Nat) (s : State) : Out :=
  let f := (Form.sc0 m).userOnly
  runWord f (fun s k w e =>
    let pass : State := setW s k (passAll s w e f)
    match (getC s w.core).sampler with
    | none => pass
    | some x =>
      if (w.actives e.tids).isEmpty || x.cid != w.cid then pass
      else
        let t := flushSamples s w.core
        let x := ((getC t w.core).sampler).getD x
        let t := if act == 1 then modC t w.core (fun c => { c with sampler := none }) else t
        setW { t with nextId := t.nextId + 1 } k (passAll t (launchAccess t w 0 1 (reportAccess t w e act x)) e f)) s

/-- `smpl 1` (06 R247). -/
def execSmplStop (m : Bool) (_a : SReg) (s : State) : Out := runSmpl m 1 s
/-- `smpl 2` (06 R247). -/
def execSmplFlush (m : Bool) (_a : SReg) (s : State) : Out := runSmpl m 2 s

end Sys2Proof.Machine
end

