-- ==== Sys2Proof/WellFormed.lean ====
section
/-! DEFINITION. Which fields of an instruction word may stand together (05 R175, R183-R190, 06 R212,
R232, R233, 07 R248, R272, R273, 08 R287, R298, 09 R337). A word that breaks one of these rules
holds no instruction. -/

namespace Sys2Proof

/-- The specifier names a scalar register s0-s15 (05 R175). -/
def isScalar (p : Spec) : Bool := decide (0x70 ≤ p.toNat)

/-- The specifier may be a 32-bit destination: v, o or l0 (05 R175, 02 R59, R62). -/
def dst32 (p : Spec) : Bool := decide (p.toNat ≤ 0x68)

/-- The specifier may be a 64-bit destination: an even v or o register, or l0 (02 R58, 07 R248). -/
def dst64 (p : Spec) : Bool := dst32 p && (p.toNat % 2 == 0)

/-- The specifier may be a 64-bit source: an even v or o register, a window entry or s0-s15
(02 R58, 07 R248). -/
def src64 (p : Spec) : Bool := decide (0x68 ≤ p.toNat) || (p.toNat % 2 == 0)

/-- The specifier names an o or v register whose index is a multiple of 4 (08 R298, `cas.n64`). -/
def quad (p : Spec) : Bool := decide (p.toNat < 0x68) && (p.toNat % 4 == 0)

/-- Special registers 64 bits wide (02 R72). -/
def sr64 (n : BitVec 7) : Bool :=
  n == 0x0A#7 || n == 0x10#7 || n == 0x11#7 || n == 0x12#7 || n == 0x13#7 || n == 0x14#7 ||
    n == 0x16#7 || n == 0x20#7 || n == 0x21#7

/-- Special registers held per thread, which no scalar destination takes (02 R72, 06 R212). -/
def srPerThread (n : BitVec 7) : Bool :=
  n == 0x00#7 || n == 0x03#7 || n == 0x0A#7 || n == 0x13#7 || n == 0x20#7 || n == 0x21#7

/-- The row is a step of the device, not a word of a program. -/
def Instr.isEvent : Instr → Bool
  | .hint _ _ _ _ => false
  | .wimm _ => false
  | .sadd _ _ _ _ _ => false
  | .ssub _ _ _ _ _ => false
  | .smul _ _ _ _ _ => false
  | .smulhI64 _ _ _ _ _ => false
  | .smulhN64 _ _ _ _ _ => false
  | .sand _ _ _ _ _ => false
  | .sor _ _ _ _ _ => false
  | .sxor _ _ _ _ _ => false
  | .sshl _ _ _ _ _ => false
  | .sshr _ _ _ _ _ => false
  | .ssar _ _ _ _ _ => false
  | .sminI64 _ _ _ _ _ => false
  | .sminN64 _ _ _ _ _ => false
  | .smaxI64 _ _ _ _ _ => false
  | .smaxN64 _ _ _ _ _ => false
  | .smov _ _ _ _ => false
  | .sceq _ _ _ _ _ => false
  | .scltI64 _ _ _ _ _ => false
  | .scltN64 _ _ _ _ _ => false
  | .scleI64 _ _ _ _ _ => false
  | .scleN64 _ _ _ _ _ => false
  | .sldN32 _ _ _ _ _ => false
  | .sldN64 _ _ _ _ _ => false
  | .sstN32 _ _ _ _ _ => false
  | .sstN64 _ _ _ _ _ => false
  | .sldSN32 _ _ _ _ _ => false
  | .sstSN32 _ _ _ _ _ => false
  | .rdsrScalar _ _ _ => false
  | .wrsr _ _ _ => false
  | .getw _ _ => false
  | .setw _ _ _ _ => false
  | .xacq _ _ => false
  | .xacqNb _ _ _ => false
  | .xrel _ _ => false
  | .modeTriple _ => false
  | .modeSingle _ => false
  | .fqryDevice _ _ _ => false
  | .fqryNumeric _ _ _ => false
  | .fqryPlacement _ _ _ => false
  | .smplStart _ _ => false
  | .smplStop _ _ => false
  | .smplFlush _ _ => false
  | .emsave _ _ => false
  | .emset _ _ => false
  | .emand _ _ => false
  | .emandn _ _ => false
  | .emor _ _ => false
  | .emif _ _ => false
  | .emelse _ _ => false
  | .sadr _ _ _ => false
  | .br _ _ => false
  | .brc _ _ => false
  | .brnc _ _ => false
  | .brany _ _ => false
  | .brall _ _ => false
  | .call _ _ => false
  | .callr _ _ => false
  | .ret _ => false
  | .jmpr _ _ => false
  | .exit _ => false
  | .rcb _ => false
  | .block _ _ => false
  | .yield _ => false
  | .trap _ _ => false
  | .handlerReturn _ => false
  | .handlerSaved _ => false
  | .handlerEndWave _ => false
  | .handlerRefuseReslice _ => false
  | .handlerEndContext _ => false
  | .nop _ => false
  | .bar _ _ _ => false
  | .barArr _ _ _ => false
  | .tbar _ _ => false
  | .tbarArr _ _ => false
  | .waitgen _ _ _ => false
  | .waitc _ _ _ => false
  | .fenceW _ => false
  | .addN32 _ _ _ _ => false
  | .subN32 _ _ _ _ => false
  | .mulN32 _ _ _ _ => false
  | .mulhI32 _ _ _ _ => false
  | .mulhN32 _ _ _ _ => false
  | .andB32 _ _ _ _ => false
  | .orB32 _ _ _ _ => false
  | .xorB32 _ _ _ _ => false
  | .shlB32 _ _ _ _ => false
  | .shrB32 _ _ _ _ => false
  | .sarB32 _ _ _ _ => false
  | .minI32 _ _ _ _ => false
  | .minN32 _ _ _ _ => false
  | .maxI32 _ _ _ _ => false
  | .maxN32 _ _ _ _ => false
  | .addsI32 _ _ _ _ => false
  | .addN32Imm _ _ _ _ => false
  | .andB32Imm _ _ _ _ => false
  | .orB32Imm _ _ _ _ => false
  | .xorB32Imm _ _ _ _ => false
  | .shlB32Imm _ _ _ _ => false
  | .shrB32Imm _ _ _ _ => false
  | .sarB32Imm _ _ _ _ => false
  | .movB32 _ _ _ => false
  | .rsubN32 _ _ _ _ => false
  | .minI32Imm _ _ _ _ => false
  | .maxI32Imm _ _ _ _ => false
  | .addN64Imm _ _ _ _ => false
  | .movB64 _ _ _ => false
  | .rdsrVector _ _ _ => false
  | .addN64 _ _ _ _ => false
  | .subN64 _ _ _ _ => false
  | .mulN64 _ _ _ _ => false
  | .andB64 _ _ _ _ => false
  | .orB64 _ _ _ _ => false
  | .xorB64 _ _ _ _ => false
  | .shlB64 _ _ _ _ => false
  | .shrB64 _ _ _ _ => false
  | .sarB64 _ _ _ _ => false
  | .popcB32 _ _ _ => false
  | .clzB32 _ _ _ => false
  | .brevB32 _ _ _ => false
  | .bfeN32 _ _ _ _ => false
  | .bfeI32 _ _ _ _ => false
  | .subsI32 _ _ _ _ => false
  | .mulwN32 _ _ _ _ => false
  | .ceqN32 _ _ _ => false
  | .cneN32 _ _ _ => false
  | .cltI32 _ _ _ => false
  | .cleI32 _ _ _ => false
  | .cltN32 _ _ _ => false
  | .cleN32 _ _ _ => false
  | .ceqN64 _ _ _ => false
  | .cltI64 _ _ _ => false
  | .cltN64 _ _ _ => false
  | .selB32 _ _ _ _ => false
  | .selB64 _ _ _ _ => false
  | .fceqF32 _ _ _ => false
  | .fcneF32 _ _ _ => false
  | .fcltF32 _ _ _ => false
  | .fcleF32 _ _ _ => false
  | .fcgtF32 _ _ _ => false
  | .fcgeF32 _ _ _ => false
  | .fcunF32 _ _ _ => false
  | .fcordF32 _ _ _ => false
  | .fminF32 _ _ _ _ => false
  | .fmaxF32 _ _ _ _ => false
  | .fabsF32 _ _ _ => false
  | .fnegF32 _ _ _ => false
  | .fcopysignF32 _ _ _ _ => false
  | .fclassF32 _ _ _ => false
  | .fexfF32 _ _ _ _ => false
  | .flog2F32 _ _ _ _ => false
  | .frcpF32 _ _ _ _ => false
  | .frsqrtF32 _ _ _ _ => false
  | .frintF32 _ _ _ _ => false
  | .cvtF32I32 _ _ _ _ => false
  | .cvtF32N32 _ _ _ _ => false
  | .cvtI32F32 _ _ _ _ => false
  | .cvtN32F32 _ _ _ _ => false
  | .cvtF16F32 _ _ _ _ => false
  | .cvtBf16F32 _ _ _ _ => false
  | .cvtE4m3F32 _ _ _ _ _ => false
  | .cvtE5m2F32 _ _ _ _ _ => false
  | .cvtF32F16 _ _ _ => false
  | .cvtF32Bf16 _ _ _ => false
  | .cvtF32E4m3 _ _ _ => false
  | .cvtF32E5m2 _ _ _ => false
  | .cvtF32I64 _ _ _ _ => false
  | .cvtI64F32 _ _ _ _ => false
  | .pack6 _ _ _ => false
  | .unpack6 _ _ _ _ => false
  | .fdig _ _ _ => false
  | .fmean _ _ _ => false
  | .sibget _ _ _ _ => false
  | .sibset _ _ _ _ => false
  | .krnd _ _ _ _ => false
  | .act _ _ _ _ => false
  | .mseaMax _ _ _ _ => false
  | .mseaAcc _ _ _ _ => false
  | .shfl _ _ _ _ _ => false
  | .voteAny _ _ _ _ => false
  | .voteAll _ _ _ _ => false
  | .voteBallot _ _ _ _ => false
  | .matchN32 _ _ _ _ => false
  | .matchN64 _ _ _ _ => false
  | .redOF32 _ _ _ _ => false
  | .redAddN32 _ _ _ _ => false
  | .redMinI32 _ _ _ _ => false
  | .redMaxI32 _ _ _ _ => false
  | .redMinN32 _ _ _ _ => false
  | .redMaxN32 _ _ _ _ => false
  | .vtos _ _ _ _ => false
  | .ldGN8 _ _ _ _ => false
  | .ldGI8 _ _ _ _ => false
  | .ldGN16 _ _ _ _ => false
  | .ldGI16 _ _ _ _ => false
  | .ldGN32 _ _ _ _ => false
  | .ldGF32 _ _ _ _ => false
  | .ldGF16 _ _ _ _ => false
  | .ldGBf16 _ _ _ _ => false
  | .ldGN64 _ _ _ _ => false
  | .stGN8 _ _ _ _ => false
  | .stGN16 _ _ _ _ => false
  | .stGN32 _ _ _ _ => false
  | .stGF32 _ _ _ _ => false
  | .stGF16 _ _ _ _ => false
  | .stGBf16 _ _ _ _ => false
  | .stGN64 _ _ _ _ => false
  | .ldSN8 _ _ _ _ => false
  | .ldSI8 _ _ _ _ => false
  | .ldSN16 _ _ _ _ => false
  | .ldSI16 _ _ _ _ => false
  | .ldSN32 _ _ _ _ => false
  | .ldSF32 _ _ _ _ => false
  | .ldSF16 _ _ _ _ => false
  | .ldSBf16 _ _ _ _ => false
  | .ldSN64 _ _ _ _ => false
  | .stSN8 _ _ _ _ => false
  | .stSN16 _ _ _ _ => false
  | .stSN32 _ _ _ _ => false
  | .stSF32 _ _ _ _ => false
  | .stSF16 _ _ _ _ => false
  | .stSBf16 _ _ _ _ => false
  | .stSN64 _ _ _ _ => false
  | .atomGAddN32 _ _ _ _ => false
  | .atomGAddN64 _ _ _ _ => false
  | .atomGAddF32 _ _ _ _ => false
  | .atomGMinI32 _ _ _ _ => false
  | .atomGMinN32 _ _ _ _ => false
  | .atomGMaxI32 _ _ _ _ => false
  | .atomGMaxN32 _ _ _ _ => false
  | .atomGAndB32 _ _ _ _ => false
  | .atomGOrB32 _ _ _ _ => false
  | .atomGXorB32 _ _ _ _ => false
  | .atomGExchN32 _ _ _ _ => false
  | .atomGExchN64 _ _ _ _ => false
  | .atomGCasN32 _ _ _ _ => false
  | .atomGCasN64 _ _ _ _ => false
  | .atomnGAddN32 _ _ _ => false
  | .atomnGAddN64 _ _ _ => false
  | .atomnGAddF32 _ _ _ => false
  | .atomnGMinI32 _ _ _ => false
  | .atomnGMinN32 _ _ _ => false
  | .atomnGMaxI32 _ _ _ => false
  | .atomnGMaxN32 _ _ _ => false
  | .atomnGAndB32 _ _ _ => false
  | .atomnGOrB32 _ _ _ => false
  | .atomnGXorB32 _ _ _ => false
  | .atomSAddN32 _ _ _ _ => false
  | .atomSAddN64 _ _ _ _ => false
  | .atomSAddF32 _ _ _ _ => false
  | .atomSMinI32 _ _ _ _ => false
  | .atomSMinN32 _ _ _ _ => false
  | .atomSMaxI32 _ _ _ _ => false
  | .atomSMaxN32 _ _ _ _ => false
  | .atomSAndB32 _ _ _ _ => false
  | .atomSOrB32 _ _ _ _ => false
  | .atomSXorB32 _ _ _ _ => false
  | .atomSExchN32 _ _ _ _ => false
  | .atomSExchN64 _ _ _ _ => false
  | .atomSCasN32 _ _ _ _ => false
  | .atomSCasN64 _ _ _ _ => false
  | .faddF32 _ _ _ _ _ => false
  | .fsubF32 _ _ _ _ _ => false
  | .fmulF32 _ _ _ _ _ => false
  | .fdivF32 _ _ _ _ _ => false
  | .fsqrtF32 _ _ _ _ => false
  | .fexpiF32 _ _ _ _ _ => false
  | .ffmaF32 _ _ _ _ _ _ => false
  | .ffmsF32 _ _ _ _ _ _ => false
  | .fnmaF32 _ _ _ _ _ _ => false
  | .fnmsF32 _ _ _ _ _ _ => false
  | .ldD _ _ _ => false
  | .stD _ _ _ _ => false
  | .dadd _ _ _ => false
  | .dcls _ _ _ => false
  | .armS _ _ _ => false
  | .vpin _ _ => false
  | .vunpin _ => false
  | .vread _ _ => false
  | .prefG _ _ => false
  | .tdesc _ _ _ _ _ _ => false
  | .mload _ _ _ => false
  | .tturn _ _ _ => false
  | .mma _ _ _ _ _ _ => false
  | .mmaSc _ _ _ _ _ _ => false
  | .mmaPn _ _ _ _ _ _ => false
  | .mstore _ _ _ => false
  | .ecopy _ _ _ _ _ => false
  | .egath _ _ _ _ => false
  | .escat _ _ _ _ => false
  | .ecoll _ _ _ _ _ => false
  | .publish _ _ => false
  | .eseqMilepost _ _ _ => false
  | .eseqLast _ _ _ => false
  | .ewait _ _ _ => false
  | .optstep _ _ _ => false
  | .dsweep _ _ _ => false
  | .barrierArrive _ => true
  | .treeBarrierPhaseComplete _ _ _ => true
  | .waveSlotFree _ => true
  | .resultArrival _ _ => true
  | .storePerformed _ _ => true
  | .atomicPerformed _ _ => true
  | .writeMadeVisible _ _ => true
  | .xacqGrant _ _ => true
  | .deadlockTrap _ => true
  | .vpinPin _ => true
  | .vunpinRelease _ => true
  | .engineCommandBegin _ _ => true
  | .arrive _ _ _ => true
  | .pointsThrow _ _ => true
  | .milepostWrite _ _ => true
  | .followOnIssue _ _ => true
  | .matrixQueueStart _ _ => true
  | .matrixInstructionComplete _ _ => true
  | .activationTableSwitch _ _ _ => true
  | .collectiveExecute _ _ _ => true
  | .publishSwitch _ _ => true
  | .trapEntry _ => true
  | .saveLimitExpiry _ => true
  | .preemptionHandlerStart _ => true
  | .waveLeavesCore _ => true
  | .unitResume _ => true
  | .resumeRelease _ => true
  | .codeSwapRetire _ _ => true
  | .sampleTake _ => true
  | .junctionClaim _ _ => true
  | .stealRequest _ _ => true
  | .stealReply _ _ _ => true
  | .unitPlacement _ _ => true
  | .dispatch _ _ => true
  | .priorityAging _ => true
  | .preemptionDecision _ => true
  | .timeLimitExpiry _ => true
  | .launchComplete _ => true
  | .serialisedReexecutionEnd _ => true
  | .tlbFill _ _ _ => true
  | .invalidateDone _ => true
  | .heldFaultOpen _ => true
  | .shardedOwnerAccess _ _ _ _ _ _ => true
  | .shardedOwnerAnswer _ _ _ _ _ => true
  | .lineEvictionError _ => true
  | .scrubPass _ _ _ _ => true
  | .predictiveWindow _ _ => true
  | .doorbellWrite _ _ _ _ => true
  | .registerWrite _ _ _ => true
  | .launch _ _ => true
  | .contextCreate _ _ => true
  | .contextEnd _ _ => true
  | .preempt _ _ => true
  | .invalidate _ _ => true
  | .faultResolve _ _ => true
  | .codeSwap _ _ => true
  | .decayTableReload _ _ => true
  | .rangeCreate _ _ => true
  | .rangeDestroy _ _ => true
  | .shardSet _ _ => true
  | .collectiveGroup _ _ => true
  | .partition _ _ => true
  | .selfTest _ _ => true
  | .selfTestDone _ => true
  | .trunkConfigure _ _ => true
  | .attest _ _ => true
  | .powerLimit _ _ => true
  | .errorRecord _ _ => true
  | .predictiveThresholds _ _ => true
  | .trunkFlitReceive _ _ _ _ _ => true
  | .linkDown _ => true
  | .exchangeTick => true
  | .tickLoss => true
  | .coldReset _ => true
  | .deviceReset => true
  | .partitionReset _ => true
  | .wipeComplete => true
  | .thermalRequest => true
  | .thermalWithdraw => true
  | .lcbufWrite _ => true
  | .lcApply => true
  | .lcDiscard => true
  | .clockLower => true
  | .clockRaise => true
  | .linkRetrain _ _ => true
  | .pcieAtomicop _ _ _ _ _ => true
  | .instructionFetch _ _ => true

/-- The fields of the instruction obey the encoding rules; the numbers of a step row are free. -/
def Instr.wf : Instr → Bool
  | .hint _ _ _ _ => true
  | .wimm _ => true
  | .sadd _ _ _ _ _ => true
  | .ssub _ _ _ _ _ => true
  | .smul _ _ _ _ _ => true
  | .smulhI64 _ _ _ _ _ => true
  | .smulhN64 _ _ _ _ _ => true
  | .sand _ _ _ _ _ => true
  | .sor _ _ _ _ _ => true
  | .sxor _ _ _ _ _ => true
  | .sshl _ _ _ _ _ => true
  | .sshr _ _ _ _ _ => true
  | .ssar _ _ _ _ _ => true
  | .sminI64 _ _ _ _ _ => true
  | .sminN64 _ _ _ _ _ => true
  | .smaxI64 _ _ _ _ _ => true
  | .smaxN64 _ _ _ _ _ => true
  | .smov _ _ _ _ => true
  | .sceq _ _ _ _ _ => true
  | .scltI64 _ _ _ _ _ => true
  | .scltN64 _ _ _ _ _ => true
  | .scleI64 _ _ _ _ _ => true
  | .scleN64 _ _ _ _ _ => true
  | .sldN32 _ _ _ _ _ => true
  | .sldN64 _ _ _ _ _ => true
  | .sstN32 _ _ _ _ _ => true
  | .sstN64 _ _ _ _ _ => true
  | .sldSN32 _ _ _ _ _ => true
  | .sstSN32 _ _ _ _ _ => true
  | .rdsrScalar _ _ n => !srPerThread n
  | .wrsr _ _ _ => true
  | .getw _ _ => true
  | .setw _ a i x => (if i then a == 0#6 else x.toNat % 64 == 0)
  | .xacq _ c => (c == 1#7 || c == 2#7)
  | .xacqNb _ _ c => (c == 1#7 || c == 2#7)
  | .xrel _ c => (c == 0#7 || c == 1#7)
  | .modeTriple _ => true
  | .modeSingle _ => true
  | .fqryDevice _ _ _ => true
  | .fqryNumeric _ _ _ => true
  | .fqryPlacement _ _ _ => true
  | .smplStart _ _ => true
  | .smplStop _ _ => true
  | .smplFlush _ _ => true
  | .emsave _ _ => true
  | .emset _ _ => true
  | .emand _ _ => true
  | .emandn _ _ => true
  | .emor _ _ => true
  | .emif _ _ => true
  | .emelse _ _ => true
  | .sadr _ _ _ => true
  | .br _ _ => true
  | .brc _ _ => true
  | .brnc _ _ => true
  | .brany _ _ => true
  | .brall _ _ => true
  | .call _ _ => true
  | .callr _ t => src64 t
  | .ret _ => true
  | .jmpr _ t => src64 t
  | .exit _ => true
  | .rcb _ => true
  | .block _ _ => true
  | .yield _ => true
  | .trap _ c => decide (4 < c.toNat)
  | .handlerReturn _ => true
  | .handlerSaved _ => true
  | .handlerEndWave _ => true
  | .handlerRefuseReslice _ => true
  | .handlerEndContext _ => true
  | .nop _ => true
  | .bar _ _ c => decide (c.toNat ≤ 2048)
  | .barArr _ _ c => decide (c.toNat ≤ 2048)
  | .tbar _ _ => true
  | .tbarArr _ _ => true
  | .waitgen _ _ _ => true
  | .waitc _ c _ => c != 3#2
  | .fenceW _ => true
  | .addN32 _ d _ _ => dst32 d
  | .subN32 _ d _ _ => dst32 d
  | .mulN32 _ d _ _ => dst32 d
  | .mulhI32 _ d _ _ => dst32 d
  | .mulhN32 _ d _ _ => dst32 d
  | .andB32 _ d _ _ => dst32 d
  | .orB32 _ d _ _ => dst32 d
  | .xorB32 _ d _ _ => dst32 d
  | .shlB32 _ d _ _ => dst32 d
  | .shrB32 _ d _ _ => dst32 d
  | .sarB32 _ d _ _ => dst32 d
  | .minI32 _ d _ _ => dst32 d
  | .minN32 _ d _ _ => dst32 d
  | .maxI32 _ d _ _ => dst32 d
  | .maxN32 _ d _ _ => dst32 d
  | .addsI32 _ d _ _ => dst32 d
  | .addN32Imm _ d _ _ => dst32 d
  | .andB32Imm _ d _ _ => dst32 d
  | .orB32Imm _ d _ _ => dst32 d
  | .xorB32Imm _ d _ _ => dst32 d
  | .shlB32Imm _ d _ _ => dst32 d
  | .shrB32Imm _ d _ _ => dst32 d
  | .sarB32Imm _ d _ _ => dst32 d
  | .movB32 _ d _ => dst32 d
  | .rsubN32 _ d _ _ => dst32 d
  | .minI32Imm _ d _ _ => dst32 d
  | .maxI32Imm _ d _ _ => dst32 d
  | .addN64Imm _ d a _ => dst64 d && src64 a
  | .movB64 _ d _ => dst64 d
  | .rdsrVector _ d n => (if sr64 n then dst64 d else dst32 d)
  | .addN64 _ d a b => dst64 d && src64 a && src64 b
  | .subN64 _ d a b => dst64 d && src64 a && src64 b
  | .mulN64 _ d a b => dst64 d && src64 a && src64 b
  | .andB64 _ d a b => dst64 d && src64 a && src64 b
  | .orB64 _ d a b => dst64 d && src64 a && src64 b
  | .xorB64 _ d a b => dst64 d && src64 a && src64 b
  | .shlB64 _ d a _ => dst64 d && src64 a
  | .shrB64 _ d a _ => dst64 d && src64 a
  | .sarB64 _ d a _ => dst64 d && src64 a
  | .popcB32 _ d _ => dst32 d
  | .clzB32 _ d _ => dst32 d
  | .brevB32 _ d _ => dst32 d
  | .bfeN32 _ d _ _ => dst32 d
  | .bfeI32 _ d _ _ => dst32 d
  | .subsI32 _ d _ _ => dst32 d
  | .mulwN32 _ d _ _ => dst64 d
  | .ceqN32 _ _ _ => true
  | .cneN32 _ _ _ => true
  | .cltI32 _ _ _ => true
  | .cleI32 _ _ _ => true
  | .cltN32 _ _ _ => true
  | .cleN32 _ _ _ => true
  | .ceqN64 _ a b => src64 a && src64 b
  | .cltI64 _ a b => src64 a && src64 b
  | .cltN64 _ a b => src64 a && src64 b
  | .selB32 _ d _ _ => dst32 d
  | .selB64 _ d a b => dst64 d && src64 a && src64 b
  | .fceqF32 _ _ _ => true
  | .fcneF32 _ _ _ => true
  | .fcltF32 _ _ _ => true
  | .fcleF32 _ _ _ => true
  | .fcgtF32 _ _ _ => true
  | .fcgeF32 _ _ _ => true
  | .fcunF32 _ _ _ => true
  | .fcordF32 _ _ _ => true
  | .fminF32 _ d _ _ => dst32 d
  | .fmaxF32 _ d _ _ => dst32 d
  | .fabsF32 _ d _ => dst32 d
  | .fnegF32 _ d _ => dst32 d
  | .fcopysignF32 _ d _ _ => dst32 d
  | .fclassF32 _ d _ => dst32 d
  | .fexfF32 _ d _ _ => dst32 d
  | .flog2F32 _ d _ _ => dst32 d
  | .frcpF32 _ d _ _ => dst32 d
  | .frsqrtF32 _ d _ _ => dst32 d
  | .frintF32 _ d _ _ => dst32 d
  | .cvtF32I32 _ d _ _ => dst32 d
  | .cvtF32N32 _ d _ _ => dst32 d
  | .cvtI32F32 _ d _ rm => dst32 d && rm != .rs
  | .cvtN32F32 _ d _ rm => dst32 d && rm != .rs
  | .cvtF16F32 _ d _ _ => dst32 d
  | .cvtBf16F32 _ d _ _ => dst32 d
  | .cvtE4m3F32 _ d _ _ _ => dst32 d
  | .cvtE5m2F32 _ d _ _ _ => dst32 d
  | .cvtF32F16 _ d _ => dst32 d
  | .cvtF32Bf16 _ d _ => dst32 d
  | .cvtF32E4m3 _ d _ => dst32 d
  | .cvtF32E5m2 _ d _ => dst32 d
  | .cvtF32I64 _ d a _ => dst32 d && src64 a
  | .cvtI64F32 _ d _ rm => dst64 d && rm != .rs
  | .pack6 _ d _ => dst32 d
  | .unpack6 _ d _ _ => dst32 d
  | .fdig _ d _ => dst32 d
  | .fmean _ d _ => dst32 d
  | .sibget _ d _ n => dst32 d && n != 3#2
  | .sibset _ d _ n => dst32 d && d != 0x68#7 && n != 3#2
  | .krnd _ d a _ => dst32 d && src64 a
  | .act _ d _ _ => dst32 d
  | .mseaMax _ d a _ => dst64 d && src64 a
  | .mseaAcc _ d a _ => dst64 d && src64 a
  | .shfl _ d _ _ _ => dst32 d
  | .voteAny _ d _ _ => dst32 d
  | .voteAll _ d _ _ => dst32 d
  | .voteBallot _ d _ _ => (dst64 d || isScalar d)
  | .matchN32 _ d _ _ => dst64 d
  | .matchN64 _ d a _ => dst64 d && src64 a
  | .redOF32 _ d _ _ => dst32 d
  | .redAddN32 _ d _ _ => dst32 d
  | .redMinI32 _ d _ _ => dst32 d
  | .redMaxI32 _ d _ _ => dst32 d
  | .redMinN32 _ d _ _ => dst32 d
  | .redMaxN32 _ d _ _ => dst32 d
  | .vtos _ _ _ _ => true
  | .ldGN8 _ d a _ => dst32 d && src64 a
  | .ldGI8 _ d a _ => dst32 d && src64 a
  | .ldGN16 _ d a _ => dst32 d && src64 a
  | .ldGI16 _ d a _ => dst32 d && src64 a
  | .ldGN32 _ d a _ => dst32 d && src64 a
  | .ldGF32 _ d a _ => dst32 d && src64 a
  | .ldGF16 _ d a _ => dst32 d && src64 a
  | .ldGBf16 _ d a _ => dst32 d && src64 a
  | .ldGN64 _ d a _ => dst64 d && src64 a
  | .stGN8 _ _ a _ => src64 a
  | .stGN16 _ _ a _ => src64 a
  | .stGN32 _ _ a _ => src64 a
  | .stGF32 _ _ a _ => src64 a
  | .stGF16 _ _ a _ => src64 a
  | .stGBf16 _ _ a _ => src64 a
  | .stGN64 _ d a _ => src64 d && src64 a
  | .ldSN8 _ d _ _ => dst32 d
  | .ldSI8 _ d _ _ => dst32 d
  | .ldSN16 _ d _ _ => dst32 d
  | .ldSI16 _ d _ _ => dst32 d
  | .ldSN32 _ d _ _ => dst32 d
  | .ldSF32 _ d _ _ => dst32 d
  | .ldSF16 _ d _ _ => dst32 d
  | .ldSBf16 _ d _ _ => dst32 d
  | .ldSN64 _ d _ _ => dst64 d
  | .stSN8 _ _ _ _ => true
  | .stSN16 _ _ _ _ => true
  | .stSN32 _ _ _ _ => true
  | .stSF32 _ _ _ _ => true
  | .stSF16 _ _ _ _ => true
  | .stSBf16 _ _ _ _ => true
  | .stSN64 _ d _ _ => src64 d
  | .atomGAddN32 _ d a _ => dst32 d && src64 a
  | .atomGAddN64 _ d a b => dst64 d && src64 a && src64 b
  | .atomGAddF32 _ d a _ => dst32 d && src64 a
  | .atomGMinI32 _ d a _ => dst32 d && src64 a
  | .atomGMinN32 _ d a _ => dst32 d && src64 a
  | .atomGMaxI32 _ d a _ => dst32 d && src64 a
  | .atomGMaxN32 _ d a _ => dst32 d && src64 a
  | .atomGAndB32 _ d a _ => dst32 d && src64 a
  | .atomGOrB32 _ d a _ => dst32 d && src64 a
  | .atomGXorB32 _ d a _ => dst32 d && src64 a
  | .atomGExchN32 _ d a _ => dst32 d && src64 a
  | .atomGExchN64 _ d a b => dst64 d && src64 a && src64 b
  | .atomGCasN32 _ d a b => dst32 d && src64 a && src64 b
  | .atomGCasN64 _ d a b => dst64 d && src64 a && quad b
  | .atomnGAddN32 _ a _ => src64 a
  | .atomnGAddN64 _ a b => src64 a && src64 b
  | .atomnGAddF32 _ a _ => src64 a
  | .atomnGMinI32 _ a _ => src64 a
  | .atomnGMinN32 _ a _ => src64 a
  | .atomnGMaxI32 _ a _ => src64 a
  | .atomnGMaxN32 _ a _ => src64 a
  | .atomnGAndB32 _ a _ => src64 a
  | .atomnGOrB32 _ a _ => src64 a
  | .atomnGXorB32 _ a _ => src64 a
  | .atomSAddN32 _ d _ _ => dst32 d
  | .atomSAddN64 _ d _ b => dst64 d && src64 b
  | .atomSAddF32 _ d _ _ => dst32 d
  | .atomSMinI32 _ d _ _ => dst32 d
  | .atomSMinN32 _ d _ _ => dst32 d
  | .atomSMaxI32 _ d _ _ => dst32 d
  | .atomSMaxN32 _ d _ _ => dst32 d
  | .atomSAndB32 _ d _ _ => dst32 d
  | .atomSOrB32 _ d _ _ => dst32 d
  | .atomSXorB32 _ d _ _ => dst32 d
  | .atomSExchN32 _ d _ _ => dst32 d
  | .atomSExchN64 _ d _ b => dst64 d && src64 b
  | .atomSCasN32 _ d _ b => dst32 d && src64 b
  | .atomSCasN64 _ d _ b => dst64 d && quad b
  | .faddF32 _ _ d _ _ => dst32 d
  | .fsubF32 _ _ d _ _ => dst32 d
  | .fmulF32 _ _ d _ _ => dst32 d
  | .fdivF32 _ _ d _ _ => dst32 d
  | .fsqrtF32 _ _ d _ => dst32 d
  | .fexpiF32 _ _ d _ _ => dst32 d
  | .ffmaF32 _ _ d _ _ _ => dst32 d
  | .ffmsF32 _ _ d _ _ _ => dst32 d
  | .fnmaF32 _ _ d _ _ _ => dst32 d
  | .fnmsF32 _ _ d _ _ _ => dst32 d
  | .ldD _ d a => dst32 d && src64 a
  | .stD _ _ a _ => src64 a
  | .dadd _ a _ => src64 a
  | .dcls _ _ a => src64 a
  | .armS _ _ _ => true
  | .vpin _ a => src64 a
  | .vunpin _ => true
  | .vread _ d => dst32 d
  | .prefG _ a => src64 a
  | .tdesc _ _ y z orig base => (base || y == 0#6) && (orig || z == 0#6)
  | .mload _ _ _ => true
  | .tturn _ _ _ => true
  | .mma _ _ _ _ _ _ => true
  | .mmaSc _ _ _ _ _ _ => true
  | .mmaPn _ _ _ _ _ _ => true
  | .mstore _ _ _ => true
  | .ecopy _ _ _ _ _ => true
  | .egath _ _ _ _ => true
  | .escat _ _ _ _ => true
  | .ecoll _ _ _ _ eng => (eng == 5#3 || eng == 6#3)
  | .publish _ _ => true
  | .eseqMilepost _ _ eng => eng != 7#3
  | .eseqLast _ _ eng => eng != 7#3
  | .ewait _ _ eng => eng != 7#3
  | .optstep _ _ _ => true
  | .dsweep _ _ _ => true
  | .barrierArrive _ => true
  | .treeBarrierPhaseComplete _ _ _ => true
  | .waveSlotFree _ => true
  | .resultArrival _ _ => true
  | .storePerformed _ _ => true
  | .atomicPerformed _ _ => true
  | .writeMadeVisible _ _ => true
  | .xacqGrant _ _ => true
  | .deadlockTrap _ => true
  | .vpinPin _ => true
  | .vunpinRelease _ => true
  | .engineCommandBegin _ _ => true
  | .arrive _ _ _ => true
  | .pointsThrow _ _ => true
  | .milepostWrite _ _ => true
  | .followOnIssue _ _ => true
  | .matrixQueueStart _ _ => true
  | .matrixInstructionComplete _ _ => true
  | .activationTableSwitch _ _ _ => true
  | .collectiveExecute _ _ _ => true
  | .publishSwitch _ _ => true
  | .trapEntry _ => true
  | .saveLimitExpiry _ => true
  | .preemptionHandlerStart _ => true
  | .waveLeavesCore _ => true
  | .unitResume _ => true
  | .resumeRelease _ => true
  | .codeSwapRetire _ _ => true
  | .sampleTake _ => true
  | .junctionClaim _ _ => true
  | .stealRequest _ _ => true
  | .stealReply _ _ _ => true
  | .unitPlacement _ _ => true
  | .dispatch _ _ => true
  | .priorityAging _ => true
  | .preemptionDecision _ => true
  | .timeLimitExpiry _ => true
  | .launchComplete _ => true
  | .serialisedReexecutionEnd _ => true
  | .tlbFill _ _ _ => true
  | .invalidateDone _ => true
  | .heldFaultOpen _ => true
  | .shardedOwnerAccess _ _ _ _ _ _ => true
  | .shardedOwnerAnswer _ _ _ _ _ => true
  | .lineEvictionError _ => true
  | .scrubPass _ _ _ _ => true
  | .predictiveWindow _ _ => true
  | .doorbellWrite _ _ _ _ => true
  | .registerWrite _ _ _ => true
  | .launch _ _ => true
  | .contextCreate _ _ => true
  | .contextEnd _ _ => true
  | .preempt _ _ => true
  | .invalidate _ _ => true
  | .faultResolve _ _ => true
  | .codeSwap _ _ => true
  | .decayTableReload _ _ => true
  | .rangeCreate _ _ => true
  | .rangeDestroy _ _ => true
  | .shardSet _ _ => true
  | .collectiveGroup _ _ => true
  | .partition _ _ => true
  | .selfTest _ _ => true
  | .selfTestDone _ => true
  | .trunkConfigure _ _ => true
  | .attest _ _ => true
  | .powerLimit _ _ => true
  | .errorRecord _ _ => true
  | .predictiveThresholds _ _ => true
  | .trunkFlitReceive _ _ _ _ _ => true
  | .linkDown _ => true
  | .exchangeTick => true
  | .tickLoss => true
  | .coldReset _ => true
  | .deviceReset => true
  | .partitionReset _ => true
  | .wipeComplete => true
  | .thermalRequest => true
  | .thermalWithdraw => true
  | .lcbufWrite _ => true
  | .lcApply => true
  | .lcDiscard => true
  | .clockLower => true
  | .clockRaise => true
  | .linkRetrain _ _ => true
  | .pcieAtomicop _ _ _ _ _ => true
  | .instructionFetch _ _ => true

end Sys2Proof
end

