-- ==== Sys2Proof/Machine/Control.lean ====
section
/-! DEFINITION. Special registers, the execution mask, branches, sequencing, barriers, waits, width requests,
register blocks and mode switches (06 R212-R235; 08 R306, R307; 12 R372). -/

namespace Sys2Proof.Machine

/-- u[k] of 01 R17, as `unit2` to `unit7` show it: the digit of the unit's ordinal at level k. -/
def unitDigit (l : Launch) (ord k : Nat) : Nat :=
  if l.lvl ≤ k then 0 else ord / tierUnits l k % lget 1 l.ext (k - 1)

/-- A special register's value for a thread (02 R72); a number not listed reads as zero (02 R73). -/
def srRead (s : State) (w : Wave) (tid : Nat) (t : Thread) (n : Nat) : Nat :=
  match n with
  | 0x00 => tid
  | 0x01 => w.grant
  | 0x02 => w.wlog
  | 0x03 => t.lidx
  | 0x0A => gtidOf s w t % 2 ^ 64
  | 0x10 => w.em.toNat
  | 0x11 => (cmMask s w).toNat
  | 0x12 => (seedOf s w).toNat
  | 0x13 => t.opidx.toNat
  | 0x14 => (gstepOf s w.cid).toNat
  | 0x15 => w.pver
  | 0x16 => ((mget s.contexts w.cid).map (fun c => c.apbase.toNat)).getD 0
  | 0x18 => w.wstat
  | 0x19 => w.aflag.toNat % 2 ^ 15
  | 0x1A => w.nctl.toNat
  | 0x20 => t.sec.entry.toNat
  | 0x21 => t.sec.opidx.toNat
  | 0x22 => w.bmask
  | n =>
    if decide (0x04 ≤ n) && decide (n ≤ 0x09) then
      ((mget s.launches w.launch).map (fun l => unitDigit l (ordOf s w) (n - 2))).getD 0 % 2 ^ 32
    else 0

/-- Registers marked P (02 R72). -/
def srPriv (n : Nat) : Bool := n == 0x20 || n == 0x21 || n == 0x22

/-- The privilege trap: a register marked P from user level, met by an active thread (02 R73). -/
def privTrap (s : State) (k : Nat) (e : Exec) (n : Nat) : State :=
  meetCause s k ⟨cPrivilege, e.addr, BitVec.ofNat 64 n, 0#32, 0, maskOf e.tids⟩

/-- Scalar `rdsr` (06 R212). -/
def execRdsrScalar (m : Bool) (d : SReg) (n : BitVec 7) (s : State) : Out :=
  runWord (Form.sc0 m) (fun s k w e =>
    if srPriv n.toNat && w.priv.isNone && !(w.actives e.tids).isEmpty then privTrap s k e n.toNat
    else
      scalBody (Form.sc0 m) false (fun s w e =>
        match w.thread (lget 0 e.tids 0) with
        | some t => writeScal w e.tids d.toNat 2 (BitVec.ofNat 64 (srRead s w 0 t n.toNat))
        | none => w) s k w e) s

/-- Vector `rdsr` (06 R213). At user level the privilege trap comes before the check of the register block (12 R377). -/
def execRdsrVector (m : Bool) (d : Spec) (n : BitVec 7) (s : State) : Out :=
  let barred := srPriv n.toNat && ((mget s.waves s.cur.wave).map (fun w => w.priv.isNone)).getD false
  let f := Form.v3 m (if barred then [] else [d])
  runWord f (fun s k w e =>
    if srPriv n.toNat && w.priv.isNone && !(w.actives e.tids).isEmpty then privTrap s k e n.toNat
    else
      vecBody f d (sr64 n) 2 0 (fun s w i t => ⟨List.replicate w.nsib (srRead s w i t n.toNat), 0⟩) s k w e) s

/-- Live packed threads, as a mask. -/
def packedMask (w : Wave) (tids : List Nat) : W64 :=
  maskOf (tids.filter (fun n => ((w.thread n).map (·.live)).getD false))

/-- New `em` bits for the packed threads (06 R202, R215). -/
def setEm (w : Wave) (tids : List Nat) (v : W64) : Wave :=
  let p := packedMask w tids
  { w with em := (w.em &&& ~~~p) ||| (v &&& p) }

/-- New `cm` bits for the packed threads, readable at once (06 R202). -/
def setCm (w : Wave) (tids : List Nat) (v : W64) : Wave :=
  let p := packedMask w tids
  let w : Wave := { w with cm := (w.cm &&& ~~~p) ||| (v &&& p) }
  w.onTids tids (fun _ t => { t with dues := mdel t.dues cmKey })

/-- A write of `gstep` at privileged level reaches every slice at once (03 R133, R135). -/
def writeGstep (s : State) (w : Wave) (v : W64) : State :=
  if w.priv.isSome then { s with gsteps := zset 0#64 s.gsteps (partOf s w.cid) v } else s

/-- The wave's part of a special-register write (02 R73-R77, 06 R214). -/
def srWrite (w : Wave) (tids : List Nat) (n : Nat) (v : W64) : Wave :=
  if n == 0x10 then setEm w tids v
  else if n == 0x11 then setCm w tids v
  else if n == 0x18 then { w with runx := w.runx && !v.getLsbD 8 }
  else if n == 0x19 then { w with aflag := w1c w.aflag (v.setWidth 32) }
  else if n == 0x1A then { w with nctl := writeNctl w.nctl (v.setWidth 32) }
  else w

/-- `wrsr` (06 R214). -/
def execWrsr (m : Bool) (a : SReg) (n : BitVec 7) (s : State) : Out :=
  runWord (Form.sc0 m) (fun s k w e =>
    let any := !(w.actives e.tids).isEmpty
    let v := readScal s w e.tids 1 a.toNat
    if srPriv n.toNat && w.priv.isNone && any then privTrap s k e n.toNat
    else
      let s := if n == 0x14#7 && any then writeGstep s w v else s
      scalBody (Form.sc0 m) (n == 0x10#7 || n == 0x11#7) (fun _ w e => srWrite w e.tids n.toNat v) s k w e) s

/-- `emsave` (06 R215). -/
def execEmsave (m : Bool) (d : SReg) (s : State) : Out :=
  runScal (Form.sc0 m) true (fun _ w e => writeScal w e.tids d.toNat 2 w.em) s

/-- `emset` (06 R215). -/
def execEmset (m : Bool) (a : SReg) (s : State) : Out :=
  runScal (Form.sc0 m) true (fun s w e => setEm w e.tids (readScal s w e.tids 1 a.toNat)) s

/-- `emand` (06 R215). -/
def execEmand (m : Bool) (a : SReg) (s : State) : Out :=
  runScal (Form.sc0 m) true (fun s w e => setEm w e.tids (w.em &&& readScal s w e.tids 1 a.toNat)) s

/-- `emandn` (06 R215). -/
def execEmandn (m : Bool) (a : SReg) (s : State) : Out :=
  runScal (Form.sc0 m) true (fun s w e => setEm w e.tids (w.em &&& ~~~(readScal s w e.tids 1 a.toNat))) s

/-- `emor` (06 R215). -/
def execEmor (m : Bool) (a : SReg) (s : State) : Out :=
  runScal (Form.sc0 m) true (fun s w e => setEm w e.tids (w.em ||| readScal s w e.tids 1 a.toNat)) s

/-- `emif` (06 R215). -/
def execEmif (m : Bool) (d : SReg) (s : State) : Out :=
  runScal (Form.sc0 m) true (fun s w e => setEm (writeScal w e.tids d.toNat 2 w.em) e.tids (w.em &&& cmMask s w)) s

/-- `emelse` (06 R215): S(SD) is only read. -/
def execEmelse (m : Bool) (d : SReg) (s : State) : Out :=
  runScal (Form.sc0 m) true (fun s w e => setEm w e.tids (readScal s w e.tids 1 d.toNat &&& ~~~w.em)) s

/-- A taken branch issues its target four cycles on (11 R362). -/
def Thread.tookBranch (cycle : Nat) (t : Thread) : Thread := { t with wake := max t.wake (cycle + 4), wakeCode := 7 }

/-- No word can be fetched at the address (06 R219). -/
def offCourse (pc : W64) : Bool := pc.toNat % 4 != 0 || decide (2 ^ 56 ≤ pc.toNat)

/-- Threads whose branch leads where no word can be fetched (06 R219, 12 R368; log 39): one instruction-fetch trap for all of
them, which reports the first one's target. -/
def astray (s : State) (k : Nat) (next : Nat → W64) (tids : List Nat) : State :=
  match tids.filter (fun n => offCourse (next n)) with
  | [] => s
  | n :: l => meetCause s k ⟨cFetch, next n, 0#64, 0#32, 0, maskOf (n :: l)⟩

/-- A branch (06 R218): `take` and `target` for each packed thread; a call also writes o6:o7. DESIGN CHOICE (log 58): 02 R84 gives that
write no latency; it is that of a move, 2. -/
def branchBody (f : Form) (link : Bool) (take : State → Wave → Nat → Bool) (target : State → Wave → Exec → Nat → Thread → W64)
    (s : State) (k : Nat) (w : Wave) (e : Exec) : State :=
  let taken := e.tids.filter (take s w)
  let next (n : Nat) : W64 :=
    if taken.contains n then (match w.thread n with
      | some t => target s w e n t
      | none => e.addr + 4)
    else e.addr + 4
  let linked : Wave :=
    if link then
      w.onTids taken (fun _ t =>
        ({ t with regs := putCells t.regs 0x66 true 0 (List.replicate w.nsib (e.addr + 4).toNat) }.noteWrite 2
          (4 * 0x66)).noteWrite 2 (4 * 0x67))
    else w
  let w := linked.retire s.cycle (actBank s w.core w.cid) e.tids f.last next
  astray (setW s k (w.onTids taken (fun _ t => t.tookBranch s.cycle))) k next taken

/-- The thread is active (00 R11). -/
def activeNow (w : Wave) (n : Nat) : Bool := w.active n

/-- A relative branch. -/
def runBranch (link : Bool) (take : State → Wave → Nat → Bool) (off : BitVec 21) (s : State) : Out :=
  runWord (Form.ct true) (branchBody (Form.ct true) link take
    (fun _ _ e _ _ => e.addr + BitVec.ofInt 64 (4 * brOff e.wimm off))) s

/-- A branch to a register's value, sibling 0. -/
def runJump (link : Bool) (specs : List Spec) (t : Spec) (s : State) : Out :=
  let f : Form := { Form.ct false with specs := specs }
  runWord f (branchBody f link (fun _ w n => activeNow w n)
    (fun s w _ n th => BitVec.ofNat 64 (readOp s w n th 0 1 t true))) s

/-- `br` (06 R218). -/
def execBr (_m : Bool) (off : BitVec 21) (s : State) : Out := runBranch false (fun _ _ _ => true) off s
/-- `brc` (06 R218). -/
def execBrc (_m : Bool) (off : BitVec 21) (s : State) : Out :=
  runBranch false (fun s w n => activeNow w n && cmBit s w n) off s
/-- `brnc` (06 R218). -/
def execBrnc (_m : Bool) (off : BitVec 21) (s : State) : Out :=
  runBranch false (fun s w n => activeNow w n && !cmBit s w n) off s
/-- `brany` (06 R218). -/
def execBrany (_m : Bool) (off : BitVec 21) (s : State) : Out :=
  runBranch false (fun s w _ => (cmMask s w &&& w.em) != 0#64) off s
/-- `brall` (06 R218). -/
def execBrall (_m : Bool) (off : BitVec 21) (s : State) : Out :=
  runBranch false (fun s w _ => (w.em &&& ~~~(cmMask s w)) == 0#64) off s
/-- `call` (06 R218, R220). -/
def execCall (_m : Bool) (off : BitVec 21) (s : State) : Out := runBranch true (fun _ w n => activeNow w n) off s
/-- `callr` (06 R218). -/
def execCallr (_m : Bool) (t : Spec) (s : State) : Out := runJump true [t] t s
/-- `ret` (06 R218): the pair o6:o7. -/
def execRet (_m : Bool) (s : State) : Out := runJump false [] 0x66#7 s
/-- `jmpr` (06 R218). -/
def execJmpr (_m : Bool) (t : Spec) (s : State) : Out := runJump false [t] t s

/-- `exit` (06 R221). -/
def execExit (_m : Bool) (s : State) : Out :=
  let f := (Form.ct false).userOnly
  runWord f (fun s k w e =>
    let gone := w.actives e.tids
    exitThreads (setW s k (passAll s w e f)) k gone) s

/-- Packed threads stand At RCB at the word, each with the given hold (01 R32, 06 R222). -/
def standAt (h : Hold) (s : State) (k : Nat) (w : Wave) (e : Exec) : State :=
  let w := w.retire s.cycle (actBank s w.core w.cid) e.tids true (fun _ => e.addr)
  setW s k (w.onTids e.tids (fun _ t => { t with st := .atRcb, hold := h }))

/-- `rcb` (06 R222). -/
def execRcb (_m : Bool) (s : State) : Out := runWord (Form.ct false) (standAt (.join none)) s

/-- `mode.triple` (06 R234). -/
def execModeTriple (m : Bool) (s : State) : Out :=
  runWord (Form.sc0 m).ending.userOnly (standAt (.join (some true))) s

/-- `mode.single` (06 R234). -/
def execModeSingle (m : Bool) (s : State) : Out :=
  runWord (Form.sc0 m).ending.userOnly (standAt (.join (some false))) s

/-- `block` (06 R223): the packed threads record their section once the wave's results have come. -/
def execBlock (_m : Bool) (lim : BitVec 20) (s : State) : Out :=
  let f := Form.ct false
  runWord f (fun s k w e =>
    let w := passAll s w e f
    setW s k (w.onTids e.tids (fun _ t => { t with st := .awaiting, hold := .block e.addr lim.toNat }))) s

/-- `yield` (06 R224): a switch point in deterministic mode, unless the wave holds a siding (01 R49; log 53) or may yet
hold one, while it waits for the owner of a sharded page (log 77). -/
def execYield (_m : Bool) (s : State) : Out :=
  let f := (Form.ct false).userOnly
  runWord f (fun s k w e =>
    let s := setW s k { passAll s w e f with yielded := true }
    if w.det && w.sidings.isEmpty && w.held.isEmpty && w.reads.isEmpty then giveUp s w.core w.launch (gtid0 s w) else s) s

/-- `trap code` (06 R225): the software trap at user level, a handler exit at privileged level (12 R372). -/
def trapBody (f : Form) (code : Nat) (s : State) (k : Nat) (w : Wave) (e : Exec) : State :=
  if w.priv.isSome then standAt (.leave code) s k w e
  else
    let who := w.actives e.tids
    let s := setW s k (passAll s w e f)
    if who.isEmpty then s else addCause s k ⟨cSoftware, e.addr + 4, 0#64, 0#32, code, maskOf who⟩

/-- `trap` with a code of 5 or more. -/
def execTrap (m : Bool) (c : BitVec 8) (s : State) : Out :=
  let f : Form := ⟨m, false, [], false, false⟩
  runWord f (trapBody f c.toNat) s
/-- `trap 0`: return at privileged level (12 R372). -/
def execHandlerReturn (m : Bool) (s : State) : Out :=
  let f : Form := ⟨m, false, [], false, false⟩
  runWord f (trapBody f 0) s
/-- `trap 1`: saved (12 R372, R381). -/
def execHandlerSaved (m : Bool) (s : State) : Out :=
  let f : Form := ⟨m, false, [], false, false⟩
  runWord f (trapBody f 1) s
/-- `trap 2`: end the wave (12 R372). -/
def execHandlerEndWave (m : Bool) (s : State) : Out :=
  let f : Form := ⟨m, false, [], false, false⟩
  runWord f (trapBody f 2) s
/-- `trap 3`: refuse a re-slice (12 R372, R382). -/
def execHandlerRefuseReslice (m : Bool) (s : State) : Out :=
  let f : Form := ⟨m, false, [], false, false⟩
  runWord f (trapBody f 3) s
/-- `trap 4`: end the context (12 R372, R375). -/
def execHandlerEndContext (m : Bool) (s : State) : Out :=
  let f : Form := ⟨m, false, [], false, false⟩
  runWord f (trapBody f 4) s

/-- `nop` (06 R226): no effect; with S = 1 it ends the run. -/
def execNop (m : Bool) (s : State) : Out :=
  let f : Form := ⟨m, false, [], false, false⟩
  runWord f (fun s k w e => setW s k (passAll s w e f)) s

/-- Accesses that a barrier arrival waits for (04 R157, 06 R229). -/
def Wave.unperformed (w : Wave) : Bool :=
  w.accs.any fun a => !a.performed && match a.op with
    | .publish => false
    | _ => true

/-- The arrivals that a wave's threads are waiting to make count (06 R229, 01 R37, R38, R40): their section
closes at the word. -/
def countArrivals (s : State) (k : Nat) : State :=
  match mget s.waves k with
  | none => s
  | some w =>
    if w.unperformed then s
    else
      let who := (w.numbered.filter (fun p => match p.2.hold with
        | .arrive _ _ _ _ => true
        | _ => false)).map (·.1)
      match who.head?.bind w.thread with
      | none => s
      | some t =>
        let s := setW s k (w.openSections s.nextId who)
        match t.hold with
        | .arrive true p _ wait => arriveTree s k p wait who
        | .arrive false n c wait =>
          arriveNamed s k n c wait who
        | _ => s

/-- A barrier word (06 R229): in range, its packed threads arrive as soon as the wave's accesses are performed. -/
def barBody (tree : Bool) (n count : Nat) (wait : Bool) (s : State) (k : Nat) (w : Wave) (e : Exec) : State :=
  let inRange : Bool :=
    if tree then ((mget s.launches w.launch).bind (fun l => platTier l n)).isSome
    else decide (n < ((mget s.units w.unit).map (·.nbars)).getD 0)
  if !inRange then meetCause s k ⟨cBarrier, e.addr, BitVec.ofNat 64 n, 0#32, 0, maskOf e.tids⟩
  else
    let w := passAll s w e (Form.ct false)
    countArrivals (setW s k (w.onTids e.tids (fun _ t => { t with st := .awaiting, hold := .arrive tree n count wait }))) k

/-- A barrier word of either kind. -/
def runBar (tree : Bool) (n count : Nat) (wait : Bool) (s : State) : Out :=
  runWord (Form.ct false).userOnly (barBody tree n count wait) s

/-- `bar` (06 R227-R229). -/
def execBar (_m : Bool) (n : BitVec 9) (c : BitVec 12) (s : State) : Out := runBar false n.toNat c.toNat true s
/-- `bar.arr` (06 R227-R229). -/
def execBarArr (_m : Bool) (n : BitVec 9) (c : BitVec 12) (s : State) : Out := runBar false n.toNat c.toNat false s
/-- `tbar` (06 R227-R229). -/
def execTbar (_m : Bool) (p : BitVec 3) (s : State) : Out := runBar true p.toNat 0 true s
/-- `tbar.arr` (06 R227-R229). -/
def execTbarArr (_m : Bool) (p : BitVec 3) (s : State) : Out := runBar true p.toNat 0 false s

/-- `waitgen` (06 R230). -/
def execWaitgen (_m : Bool) (off g : SReg) (s : State) : Out :=
  let f := (Form.ct false).userOnly
  runWord f (fun s k w e =>
    let o : Nat := (readScal s w e.tids 1 off.toNat).toNat % 2 ^ 32
    let gen : Nat := (readScal s w e.tids 2 g.toNat).toNat % 2 ^ 32
    match checkShare s w 16 o with
    | .coded bad => accessTrap s k e bad o e.tids
    | _ =>
      let w := passAll s w e f
      setW s k (w.onTids e.tids (fun _ t => { t with st := .waiting, hold := .gen o gen }))) s

/-- `waitc` (08 R306). -/
def execWaitc (_m : Bool) (c : BitVec 2) (v : BitVec 6) (s : State) : Out :=
  let f := Form.ct false
  runWord f (fun s k w e =>
    let w := passAll s w e f
    setW s k (w.onTids e.tids (fun _ t => { t with st := .awaiting, hold := .waitc c.toNat v.toNat }))) s

/-- Loads and atomics with return of the packed threads whose results have not come (04 R155, 08 R307). -/
def fenceIds (w : Wave) (tids : List Nat) : List Nat :=
  (w.accs.filter (fun a => (a.lanes.any (fun l => tids.contains l.tid) || a.packed.any tids.contains) &&
    match a.op with
    | .load _ => true
    | .atomic _ ret => ret
    | .ldD => true
    | _ => false)).map (·.id)

/-- `fence.w` (08 R307): it does not end the run. -/
def execFenceW (m : Bool) (s : State) : Out :=
  let f : Form := ⟨m, false, [], false, false⟩
  runWord f (fun s k w e =>
    let ids := fenceIds w e.tids
    let w := passAll s w e f
    if ids.isEmpty then setW s k w
    else setW s k (w.onTids e.tids (fun _ t => { t with st := .awaiting, hold := .fence ids }))) s

/-- `getw` (06 R231). -/
def execGetw (m : Bool) (d : SReg) (s : State) : Out :=
  runScal (Form.sc0 m) false (fun _ w e => writeScal w e.tids d.toNat 2 (BitVec.ofNat 64 w.grant)) s

/-- The least grant at which a unit's waves fit a core's slots (06 R232). -/
def leastGrant (e2 : Nat) : Nat := if e2 ≤ 256 then 8 else if e2 ≤ 512 then 16 else if e2 ≤ 1024 then 32 else 64

/-- `setw` (06 R232): of the requests of one cycle the one of the highest wave stands. An immediate out of range is an encoding
error, judged before activity (05 R190, R191). -/
def execSetw (m : Bool) (a : SReg) (i : Bool) (x : BitVec 7) (s : State) : Out :=
  let f := (Form.sc m i).ending.userOnly
  runWord f (fun s k w e =>
    let q : W64 := if i then BitVec.ofNat 64 (scImm e.wimm x) else readScal s w e.tids 1 a.toNat
    let bad := decide (q.toNat < 8) || decide (64 < q.toNat)
    let none' := (w.actives e.tids).isEmpty
    if bad && (i || !none') then illegalAt s k e.addr e.word e.tids
    else if none' then setW s k (passAll s w e f)
    else
      let s := modU s w.unit (fun u =>
        if u.reqBy.1 == s.cycle && decide (w.wlog < u.reqBy.2) then u
        else { u with req := max q.toNat (leastGrant (e2Of s w)), reqBy := (s.cycle, w.wlog) })
      setW s k (passAll s w e f)) s

/-- Registers of the blocks above `n` are lost (02 R68). -/
def dropBlocks (n : Nat) (regs : FMap Cell) : FMap Cell :=
  regs.filter (fun e => decide (e.1 / 4 < 32 * (n + 1)) || decide (0x60 ≤ e.1 / 4))

/-- The wave comes to hold `n` extended blocks; new registers read as zero (02 R67). -/
def holdBlocks (n : Nat) (w : Wave) : Wave :=
  { w.mapThreads (fun t => { t with regs := dropBlocks w.xblk t.regs }) with xblk := n }

/-- The quadrant can supply what the wave lacks of `n` blocks, and nobody waits before it (02 R67, R69). -/
def canAcquire (s : State) (w : Wave) (n : Nat) : Bool :=
  (quadReqs s w.core (w.slot % 4)).isEmpty &&
    decide (laneRegs w.grant w.triple (n - w.xblk) ≤ quadFree s w.core (w.slot % 4))

/-- `xacq` (02 R67, 06 R233). -/
def execXacq (m : Bool) (c : BitVec 7) (s : State) : Out :=
  let f := (Form.sc0 m).ending.userOnly
  runWord f (fun s k w e =>
    let n := c.toNat
    if (w.actives e.tids).isEmpty || decide (n ≤ w.xblk) then setW s k (passAll s w e f)
    else if canAcquire s w n then setW s k (holdBlocks n (passAll s w e f))
    else
      let w := w.retire s.cycle (actBank s w.core w.cid) e.tids true (fun _ => e.addr)
      addRequest (setW s k (w.onTids e.tids (fun _ t => { t with st := .waiting, hold := .xacq n }))) k n) s

/-- `xacq.nb` (02 R67, 06 R233): its status is a long-latency scalar result. -/
def execXacqNb (m : Bool) (d : SReg) (c : BitVec 7) (s : State) : Out :=
  let f := (Form.sc0 m).userOnly
  runWord f (fun s k w e =>
    let n := c.toNat
    if (w.actives e.tids).isEmpty then setW s k (passAll s w e f)
    else
      let got := decide (n ≤ w.xblk) || canAcquire s w n
      let w := if got && decide (w.xblk < n) then holdBlocks n w else w
      let r := resultAccess s w e (some (scalKey d.toNat, true)) 0 [(lget 0 e.tids 0, [bnat got])]
      let w := (addAccess w r).oweScal e.tids d.toNat
      setW { s with nextId := s.nextId + 1 } k (passAll s w e f)) s

/-- `xrel` (02 R68, 06 R233). -/
def execXrel (m : Bool) (c : BitVec 7) (s : State) : Out :=
  runScal (Form.sc0 m).userOnly false (fun _ w _ =>
    if c.toNat < w.xblk then
      { w.mapThreads (fun t => { t with regs := dropBlocks c.toNat t.regs }) with xblk := c.toNat }
    else w) s

end Sys2Proof.Machine
end

