-- ==== Sys2Proof/Decode.lean ====
section
/-! DEFINITION. The decoder of instruction words (05 R173-R191), total on every word, and the encoder written
from the same format and opcode tables. A word is a number below 2^32, bit 0 its least significant
bit (00 R3). -/

namespace Sys2Proof

/-- The `n` bits of `w` from bit `lo` up, as a number (05 R174). -/
def num (w lo n : Nat) : Nat := w / 2 ^ lo % 2 ^ n

/-- The same bits as a bit vector. -/
def fld (w lo n : Nat) : BitVec n := BitVec.ofNat n (w / 2 ^ lo)

/-- Bit `k` of `w`. -/
def bit (w k : Nat) : Bool := w / 2 ^ k % 2 == 1

/-- The rounding-mode code of 05 R181; codes 5 to 7 name no mode. -/
def RM.ofCode : Nat → Option RM
  | 0 => some .rn
  | 1 => some .rz
  | 2 => some .ru
  | 3 => some .rd
  | 4 => some .rs
  | _ => none

/-- The code of a rounding mode (05 R181). -/
def RM.code : RM → Nat
  | .rn => 0
  | .rz => 1
  | .ru => 2
  | .rd => 3
  | .rs => 4

/-- Major opcode 0x03 (05 R181-R189). -/
noncomputable def parse03 (w : Nat) : Option Instr :=
  match num w 8 5 with
  | 0 => some (.sadd (bit w 31) (fld w 19 6) (fld w 13 6) (bit w 7) (fld w 0 7))
  | 1 => some (.ssub (bit w 31) (fld w 19 6) (fld w 13 6) (bit w 7) (fld w 0 7))
  | 2 => some (.smul (bit w 31) (fld w 19 6) (fld w 13 6) (bit w 7) (fld w 0 7))
  | 3 => some (.smulhI64 (bit w 31) (fld w 19 6) (fld w 13 6) (bit w 7) (fld w 0 7))
  | 4 => some (.smulhN64 (bit w 31) (fld w 19 6) (fld w 13 6) (bit w 7) (fld w 0 7))
  | 5 => some (.sand (bit w 31) (fld w 19 6) (fld w 13 6) (bit w 7) (fld w 0 7))
  | 6 => some (.sor (bit w 31) (fld w 19 6) (fld w 13 6) (bit w 7) (fld w 0 7))
  | 7 => some (.sxor (bit w 31) (fld w 19 6) (fld w 13 6) (bit w 7) (fld w 0 7))
  | 8 => some (.sshl (bit w 31) (fld w 19 6) (fld w 13 6) (bit w 7) (fld w 0 7))
  | 9 => some (.sshr (bit w 31) (fld w 19 6) (fld w 13 6) (bit w 7) (fld w 0 7))
  | 10 => some (.ssar (bit w 31) (fld w 19 6) (fld w 13 6) (bit w 7) (fld w 0 7))
  | 11 => some (.sminI64 (bit w 31) (fld w 19 6) (fld w 13 6) (bit w 7) (fld w 0 7))
  | 12 => some (.sminN64 (bit w 31) (fld w 19 6) (fld w 13 6) (bit w 7) (fld w 0 7))
  | 13 => some (.smaxI64 (bit w 31) (fld w 19 6) (fld w 13 6) (bit w 7) (fld w 0 7))
  | 14 => some (.smaxN64 (bit w 31) (fld w 19 6) (fld w 13 6) (bit w 7) (fld w 0 7))
  | 15 => if num w 13 6 == 0 then some (.smov (bit w 31) (fld w 19 6) (bit w 7) (fld w 0 7)) else none
  | 16 => some (.sceq (bit w 31) (fld w 19 6) (fld w 13 6) (bit w 7) (fld w 0 7))
  | 17 => some (.scltI64 (bit w 31) (fld w 19 6) (fld w 13 6) (bit w 7) (fld w 0 7))
  | 18 => some (.scltN64 (bit w 31) (fld w 19 6) (fld w 13 6) (bit w 7) (fld w 0 7))
  | 19 => some (.scleI64 (bit w 31) (fld w 19 6) (fld w 13 6) (bit w 7) (fld w 0 7))
  | 20 => some (.scleN64 (bit w 31) (fld w 19 6) (fld w 13 6) (bit w 7) (fld w 0 7))
  | 21 => some (.sldN32 (bit w 31) (fld w 19 6) (fld w 13 6) (bit w 7) (fld w 0 7))
  | 22 => some (.sldN64 (bit w 31) (fld w 19 6) (fld w 13 6) (bit w 7) (fld w 0 7))
  | 23 => some (.sstN32 (bit w 31) (fld w 19 6) (fld w 13 6) (bit w 7) (fld w 0 7))
  | 24 => some (.sstN64 (bit w 31) (fld w 19 6) (fld w 13 6) (bit w 7) (fld w 0 7))
  | 25 => some (.sldSN32 (bit w 31) (fld w 19 6) (fld w 13 6) (bit w 7) (fld w 0 7))
  | 26 => some (.sstSN32 (bit w 31) (fld w 19 6) (fld w 13 6) (bit w 7) (fld w 0 7))
  | _ => none

/-- Major opcode 0x04 (05 R181-R189). DESIGN CHOICE (log 56): of words with I = 0, only those whose form has an immediate ignore bit 6
(05 R174, R190; 06 R206); in the mask and mode words, whose other fields have to be zero (06 R215, R234), it is refused. -/
noncomputable def parse04 (w : Nat) : Option Instr :=
  match num w 8 5 with
  | 0 => if num w 7 1 == 1 && num w 13 6 == 0 then some (.rdsrScalar (bit w 31) (fld w 19 6) (fld w 0 7)) else none
  | 1 => if num w 7 1 == 1 && num w 19 6 == 0 then some (.wrsr (bit w 31) (fld w 13 6) (fld w 0 7)) else none
  | 2 => if num w 0 8 == 0 && num w 13 6 == 0 then some (.getw (bit w 31) (fld w 19 6)) else none
  | 3 => if num w 19 6 == 0 then some (.setw (bit w 31) (fld w 13 6) (bit w 7) (fld w 0 7)) else none
  | 4 => if num w 7 1 == 1 && num w 13 12 == 0 then some (.xacq (bit w 31) (fld w 0 7)) else none
  | 5 => if num w 7 1 == 1 && num w 13 6 == 0 then some (.xacqNb (bit w 31) (fld w 19 6) (fld w 0 7)) else none
  | 6 => if num w 7 1 == 1 && num w 13 12 == 0 then some (.xrel (bit w 31) (fld w 0 7)) else none
  | 7 => if num w 0 8 == 0 && num w 13 12 == 0 then some (.modeTriple (bit w 31)) else none
  | 8 => if num w 0 8 == 0 && num w 13 12 == 0 then some (.modeSingle (bit w 31)) else none
  | 9 =>
    if num w 0 8 == 128 then some (.fqryDevice (bit w 31) (fld w 19 6) (fld w 13 6))
    else if num w 0 8 == 129 then some (.fqryNumeric (bit w 31) (fld w 19 6) (fld w 13 6))
    else if num w 0 8 == 130 then some (.fqryPlacement (bit w 31) (fld w 19 6) (fld w 13 6))
    else none
  | 10 =>
    if num w 0 8 == 128 && num w 19 6 == 0 then some (.smplStart (bit w 31) (fld w 13 6))
    else if num w 0 8 == 129 && num w 19 6 == 0 then some (.smplStop (bit w 31) (fld w 13 6))
    else if num w 0 8 == 130 && num w 19 6 == 0 then some (.smplFlush (bit w 31) (fld w 13 6))
    else none
  | 11 => if num w 0 8 == 0 && num w 13 6 == 0 then some (.emsave (bit w 31) (fld w 19 6)) else none
  | 12 => if num w 0 8 == 0 && num w 19 6 == 0 then some (.emset (bit w 31) (fld w 13 6)) else none
  | 13 => if num w 0 8 == 0 && num w 19 6 == 0 then some (.emand (bit w 31) (fld w 13 6)) else none
  | 14 => if num w 0 8 == 0 && num w 19 6 == 0 then some (.emandn (bit w 31) (fld w 13 6)) else none
  | 15 => if num w 0 8 == 0 && num w 19 6 == 0 then some (.emor (bit w 31) (fld w 13 6)) else none
  | 16 => if num w 0 8 == 0 && num w 13 6 == 0 then some (.emif (bit w 31) (fld w 19 6)) else none
  | 17 => if num w 0 8 == 0 && num w 13 6 == 0 then some (.emelse (bit w 31) (fld w 19 6)) else none
  | 18 => if num w 7 1 == 1 && num w 13 6 == 0 then some (.sadr (bit w 31) (fld w 19 6) (fld w 0 7)) else none
  | _ => none

/-- Major opcode 0x05 (05 R181-R189). -/
noncomputable def parse05 (w : Nat) : Option Instr :=
  match num w 21 4 with
  | 0 => some (.br (bit w 31) (fld w 0 21))
  | 1 => some (.brc (bit w 31) (fld w 0 21))
  | 2 => some (.brnc (bit w 31) (fld w 0 21))
  | 3 => some (.brany (bit w 31) (fld w 0 21))
  | 4 => some (.brall (bit w 31) (fld w 0 21))
  | 5 => some (.call (bit w 31) (fld w 0 21))
  | 6 => if num w 0 14 == 0 then some (.callr (bit w 31) (fld w 14 7)) else none
  | 7 => if num w 0 21 == 0 then some (.ret (bit w 31)) else none
  | 8 => if num w 0 14 == 0 then some (.jmpr (bit w 31) (fld w 14 7)) else none
  | 9 => if num w 0 21 == 0 then some (.exit (bit w 31)) else none
  | 10 => if num w 0 21 == 0 then some (.rcb (bit w 31)) else none
  | 11 => if num w 20 1 == 0 then some (.block (bit w 31) (fld w 0 20)) else none
  | 12 => if num w 0 21 == 0 then some (.yield (bit w 31)) else none
  | 13 =>
    if num w 0 21 == 0 then some (.handlerReturn (bit w 31))
    else if num w 0 21 == 1 then some (.handlerSaved (bit w 31))
    else if num w 0 21 == 2 then some (.handlerEndWave (bit w 31))
    else if num w 0 21 == 3 then some (.handlerRefuseReslice (bit w 31))
    else if num w 0 21 == 4 then some (.handlerEndContext (bit w 31))
    else if num w 8 13 == 0 then some (.trap (bit w 31) (fld w 0 8))
    else none
  | 14 => if num w 0 21 == 0 then some (.nop (bit w 31)) else none
  | _ => none

/-- Major opcode 0x06 (05 R181-R189). -/
noncomputable def parse06 (w : Nat) : Option Instr :=
  match num w 21 4 with
  | 0 => some (.bar (bit w 31) (fld w 12 9) (fld w 0 12))
  | 1 => some (.barArr (bit w 31) (fld w 12 9) (fld w 0 12))
  | 2 => if num w 0 18 == 0 then some (.tbar (bit w 31) (fld w 18 3)) else none
  | 3 => if num w 0 18 == 0 then some (.tbarArr (bit w 31) (fld w 18 3)) else none
  | 4 => if num w 0 9 == 0 then some (.waitgen (bit w 31) (fld w 15 6) (fld w 9 6)) else none
  | 5 => if num w 6 13 == 0 then some (.waitc (bit w 31) (fld w 19 2) (fld w 0 6)) else none
  | 6 => if num w 0 21 == 0 then some (.fenceW (bit w 31)) else none
  | _ => none

/-- Major opcode 0x07 (05 R181-R189). -/
noncomputable def parse07 (w : Nat) : Option Instr :=
  match num w 0 4 with
  | 0 => some (.addN32 (bit w 31) (fld w 18 7) (fld w 11 7) (fld w 4 7))
  | 1 => some (.subN32 (bit w 31) (fld w 18 7) (fld w 11 7) (fld w 4 7))
  | 2 => some (.mulN32 (bit w 31) (fld w 18 7) (fld w 11 7) (fld w 4 7))
  | 3 => some (.mulhI32 (bit w 31) (fld w 18 7) (fld w 11 7) (fld w 4 7))
  | 4 => some (.mulhN32 (bit w 31) (fld w 18 7) (fld w 11 7) (fld w 4 7))
  | 5 => some (.andB32 (bit w 31) (fld w 18 7) (fld w 11 7) (fld w 4 7))
  | 6 => some (.orB32 (bit w 31) (fld w 18 7) (fld w 11 7) (fld w 4 7))
  | 7 => some (.xorB32 (bit w 31) (fld w 18 7) (fld w 11 7) (fld w 4 7))
  | 8 => some (.shlB32 (bit w 31) (fld w 18 7) (fld w 11 7) (fld w 4 7))
  | 9 => some (.shrB32 (bit w 31) (fld w 18 7) (fld w 11 7) (fld w 4 7))
  | 10 => some (.sarB32 (bit w 31) (fld w 18 7) (fld w 11 7) (fld w 4 7))
  | 11 => some (.minI32 (bit w 31) (fld w 18 7) (fld w 11 7) (fld w 4 7))
  | 12 => some (.minN32 (bit w 31) (fld w 18 7) (fld w 11 7) (fld w 4 7))
  | 13 => some (.maxI32 (bit w 31) (fld w 18 7) (fld w 11 7) (fld w 4 7))
  | 14 => some (.maxN32 (bit w 31) (fld w 18 7) (fld w 11 7) (fld w 4 7))
  | 15 => some (.addsI32 (bit w 31) (fld w 18 7) (fld w 11 7) (fld w 4 7))
  | _ => none

/-- Major opcode 0x08 (05 R181-R189). -/
noncomputable def parse08 (w : Nat) : Option Instr :=
  match num w 7 4 with
  | 0 => some (.addN32Imm (bit w 31) (fld w 18 7) (fld w 11 7) (fld w 0 7))
  | 1 => some (.andB32Imm (bit w 31) (fld w 18 7) (fld w 11 7) (fld w 0 7))
  | 2 => some (.orB32Imm (bit w 31) (fld w 18 7) (fld w 11 7) (fld w 0 7))
  | 3 => some (.xorB32Imm (bit w 31) (fld w 18 7) (fld w 11 7) (fld w 0 7))
  | 4 => some (.shlB32Imm (bit w 31) (fld w 18 7) (fld w 11 7) (fld w 0 7))
  | 5 => some (.shrB32Imm (bit w 31) (fld w 18 7) (fld w 11 7) (fld w 0 7))
  | 6 => some (.sarB32Imm (bit w 31) (fld w 18 7) (fld w 11 7) (fld w 0 7))
  | 7 => if num w 11 7 == 0 then some (.movB32 (bit w 31) (fld w 18 7) (fld w 0 7)) else none
  | 8 => some (.rsubN32 (bit w 31) (fld w 18 7) (fld w 11 7) (fld w 0 7))
  | 9 => some (.minI32Imm (bit w 31) (fld w 18 7) (fld w 11 7) (fld w 0 7))
  | 10 => some (.maxI32Imm (bit w 31) (fld w 18 7) (fld w 11 7) (fld w 0 7))
  | 11 => some (.addN64Imm (bit w 31) (fld w 18 7) (fld w 11 7) (fld w 0 7))
  | 12 => if num w 11 7 == 0 then some (.movB64 (bit w 31) (fld w 18 7) (fld w 0 7)) else none
  | 13 => if num w 11 7 == 0 then some (.rdsrVector (bit w 31) (fld w 18 7) (fld w 0 7)) else none
  | _ => none

/-- Major opcode 0x09 (05 R181-R189). -/
noncomputable def parse09 (w : Nat) : Option Instr :=
  match num w 0 4 with
  | 0 => some (.addN64 (bit w 31) (fld w 18 7) (fld w 11 7) (fld w 4 7))
  | 1 => some (.subN64 (bit w 31) (fld w 18 7) (fld w 11 7) (fld w 4 7))
  | 2 => some (.mulN64 (bit w 31) (fld w 18 7) (fld w 11 7) (fld w 4 7))
  | 3 => some (.andB64 (bit w 31) (fld w 18 7) (fld w 11 7) (fld w 4 7))
  | 4 => some (.orB64 (bit w 31) (fld w 18 7) (fld w 11 7) (fld w 4 7))
  | 5 => some (.xorB64 (bit w 31) (fld w 18 7) (fld w 11 7) (fld w 4 7))
  | 6 => some (.shlB64 (bit w 31) (fld w 18 7) (fld w 11 7) (fld w 4 7))
  | 7 => some (.shrB64 (bit w 31) (fld w 18 7) (fld w 11 7) (fld w 4 7))
  | 8 => some (.sarB64 (bit w 31) (fld w 18 7) (fld w 11 7) (fld w 4 7))
  | 9 => if num w 4 7 == 0 then some (.popcB32 (bit w 31) (fld w 18 7) (fld w 11 7)) else none
  | 10 => if num w 4 7 == 0 then some (.clzB32 (bit w 31) (fld w 18 7) (fld w 11 7)) else none
  | 11 => if num w 4 7 == 0 then some (.brevB32 (bit w 31) (fld w 18 7) (fld w 11 7)) else none
  | 12 => some (.bfeN32 (bit w 31) (fld w 18 7) (fld w 11 7) (fld w 4 7))
  | 13 => some (.bfeI32 (bit w 31) (fld w 18 7) (fld w 11 7) (fld w 4 7))
  | 14 => some (.subsI32 (bit w 31) (fld w 18 7) (fld w 11 7) (fld w 4 7))
  | 15 => some (.mulwN32 (bit w 31) (fld w 18 7) (fld w 11 7) (fld w 4 7))
  | _ => none

/-- Major opcode 0x0A (05 R181-R189). -/
noncomputable def parse0A (w : Nat) : Option Instr :=
  match num w 0 4 with
  | 0 => if num w 18 7 == 0 then some (.ceqN32 (bit w 31) (fld w 11 7) (fld w 4 7)) else none
  | 1 => if num w 18 7 == 0 then some (.cneN32 (bit w 31) (fld w 11 7) (fld w 4 7)) else none
  | 2 => if num w 18 7 == 0 then some (.cltI32 (bit w 31) (fld w 11 7) (fld w 4 7)) else none
  | 3 => if num w 18 7 == 0 then some (.cleI32 (bit w 31) (fld w 11 7) (fld w 4 7)) else none
  | 4 => if num w 18 7 == 0 then some (.cltN32 (bit w 31) (fld w 11 7) (fld w 4 7)) else none
  | 5 => if num w 18 7 == 0 then some (.cleN32 (bit w 31) (fld w 11 7) (fld w 4 7)) else none
  | 6 => if num w 18 7 == 0 then some (.ceqN64 (bit w 31) (fld w 11 7) (fld w 4 7)) else none
  | 7 => if num w 18 7 == 0 then some (.cltI64 (bit w 31) (fld w 11 7) (fld w 4 7)) else none
  | 8 => if num w 18 7 == 0 then some (.cltN64 (bit w 31) (fld w 11 7) (fld w 4 7)) else none
  | 9 => some (.selB32 (bit w 31) (fld w 18 7) (fld w 11 7) (fld w 4 7))
  | 10 => some (.selB64 (bit w 31) (fld w 18 7) (fld w 11 7) (fld w 4 7))
  | _ => none

/-- Major opcode 0x0B (05 R181-R189). -/
noncomputable def parse0B (w : Nat) : Option Instr :=
  match num w 0 4 with
  | 0 => if num w 18 7 == 0 then some (.fceqF32 (bit w 31) (fld w 11 7) (fld w 4 7)) else none
  | 1 => if num w 18 7 == 0 then some (.fcneF32 (bit w 31) (fld w 11 7) (fld w 4 7)) else none
  | 2 => if num w 18 7 == 0 then some (.fcltF32 (bit w 31) (fld w 11 7) (fld w 4 7)) else none
  | 3 => if num w 18 7 == 0 then some (.fcleF32 (bit w 31) (fld w 11 7) (fld w 4 7)) else none
  | 4 => if num w 18 7 == 0 then some (.fcgtF32 (bit w 31) (fld w 11 7) (fld w 4 7)) else none
  | 5 => if num w 18 7 == 0 then some (.fcgeF32 (bit w 31) (fld w 11 7) (fld w 4 7)) else none
  | 6 => if num w 18 7 == 0 then some (.fcunF32 (bit w 31) (fld w 11 7) (fld w 4 7)) else none
  | 7 => if num w 18 7 == 0 then some (.fcordF32 (bit w 31) (fld w 11 7) (fld w 4 7)) else none
  | 8 => some (.fminF32 (bit w 31) (fld w 18 7) (fld w 11 7) (fld w 4 7))
  | 9 => some (.fmaxF32 (bit w 31) (fld w 18 7) (fld w 11 7) (fld w 4 7))
  | 10 => if num w 4 7 == 0 then some (.fabsF32 (bit w 31) (fld w 18 7) (fld w 11 7)) else none
  | 11 => if num w 4 7 == 0 then some (.fnegF32 (bit w 31) (fld w 18 7) (fld w 11 7)) else none
  | 12 => some (.fcopysignF32 (bit w 31) (fld w 18 7) (fld w 11 7) (fld w 4 7))
  | 13 => if num w 4 7 == 0 then some (.fclassF32 (bit w 31) (fld w 18 7) (fld w 11 7)) else none
  | _ => none

/-- Major opcode 0x0C (05 R181-R189). -/
noncomputable def parse0C (w : Nat) : Option Instr :=
  match num w 0 4 with
  | 0 => if num w 7 4 == 0 then (RM.ofCode (num w 4 3)).map (fun r => .fexfF32 (bit w 31) (fld w 18 7) (fld w 11 7) r) else none
  | 1 => if num w 7 4 == 0 then (RM.ofCode (num w 4 3)).map (fun r => .flog2F32 (bit w 31) (fld w 18 7) (fld w 11 7) r) else none
  | 2 => if num w 7 4 == 0 then (RM.ofCode (num w 4 3)).map (fun r => .frcpF32 (bit w 31) (fld w 18 7) (fld w 11 7) r) else none
  | 3 => if num w 7 4 == 0 then (RM.ofCode (num w 4 3)).map (fun r => .frsqrtF32 (bit w 31) (fld w 18 7) (fld w 11 7) r) else none
  | 4 => if num w 7 4 == 0 then (RM.ofCode (num w 4 3)).map (fun r => .frintF32 (bit w 31) (fld w 18 7) (fld w 11 7) r) else none
  | _ => none

/-- Major opcode 0x0D (05 R181-R189). -/
noncomputable def parse0D (w : Nat) : Option Instr :=
  match num w 0 4 with
  | 0 => if num w 7 4 == 0 then (RM.ofCode (num w 4 3)).map (fun r => .cvtF32I32 (bit w 31) (fld w 18 7) (fld w 11 7) r) else none
  | 1 => if num w 7 4 == 0 then (RM.ofCode (num w 4 3)).map (fun r => .cvtF32N32 (bit w 31) (fld w 18 7) (fld w 11 7) r) else none
  | 2 => if num w 7 4 == 0 then (RM.ofCode (num w 4 3)).map (fun r => .cvtI32F32 (bit w 31) (fld w 18 7) (fld w 11 7) r) else none
  | 3 => if num w 7 4 == 0 then (RM.ofCode (num w 4 3)).map (fun r => .cvtN32F32 (bit w 31) (fld w 18 7) (fld w 11 7) r) else none
  | 4 => if num w 7 4 == 0 then (RM.ofCode (num w 4 3)).map (fun r => .cvtF16F32 (bit w 31) (fld w 18 7) (fld w 11 7) r) else none
  | 5 => if num w 7 4 == 0 then (RM.ofCode (num w 4 3)).map (fun r => .cvtBf16F32 (bit w 31) (fld w 18 7) (fld w 11 7) r) else none
  | 6 => if num w 8 3 == 0 then (RM.ofCode (num w 4 3)).map (fun r => .cvtE4m3F32 (bit w 31) (fld w 18 7) (fld w 11 7) (bit w 7) r) else none
  | 7 => if num w 8 3 == 0 then (RM.ofCode (num w 4 3)).map (fun r => .cvtE5m2F32 (bit w 31) (fld w 18 7) (fld w 11 7) (bit w 7) r) else none
  | 8 => if num w 4 7 == 0 then some (.cvtF32F16 (bit w 31) (fld w 18 7) (fld w 11 7)) else none
  | 9 => if num w 4 7 == 0 then some (.cvtF32Bf16 (bit w 31) (fld w 18 7) (fld w 11 7)) else none
  | 10 => if num w 4 7 == 0 then some (.cvtF32E4m3 (bit w 31) (fld w 18 7) (fld w 11 7)) else none
  | 11 => if num w 4 7 == 0 then some (.cvtF32E5m2 (bit w 31) (fld w 18 7) (fld w 11 7)) else none
  | 12 => if num w 7 4 == 0 then (RM.ofCode (num w 4 3)).map (fun r => .cvtF32I64 (bit w 31) (fld w 18 7) (fld w 11 7) r) else none
  | 13 => if num w 7 4 == 0 then (RM.ofCode (num w 4 3)).map (fun r => .cvtI64F32 (bit w 31) (fld w 18 7) (fld w 11 7) r) else none
  | 14 => if num w 4 7 == 0 then some (.pack6 (bit w 31) (fld w 18 7) (fld w 11 7)) else none
  | 15 => if num w 5 6 == 0 then some (.unpack6 (bit w 31) (fld w 18 7) (fld w 11 7) (bit w 4)) else none
  | _ => none

/-- Major opcode 0x0E (05 R181-R189). -/
noncomputable def parse0E (w : Nat) : Option Instr :=
  match num w 0 4 with
  | 0 => if num w 4 7 == 0 then some (.fdig (bit w 31) (fld w 18 7) (fld w 11 7)) else none
  | 1 => if num w 4 7 == 0 then some (.fmean (bit w 31) (fld w 18 7) (fld w 11 7)) else none
  | 2 => if num w 6 5 == 0 then some (.sibget (bit w 31) (fld w 18 7) (fld w 11 7) (fld w 4 2)) else none
  | 3 => if num w 6 5 == 0 then some (.sibset (bit w 31) (fld w 18 7) (fld w 11 7) (fld w 4 2)) else none
  | 4 => if num w 6 5 == 0 then some (.krnd (bit w 31) (fld w 18 7) (fld w 11 7) (fld w 4 2)) else none
  | 5 => some (.act (bit w 31) (fld w 18 7) (fld w 11 7) (fld w 4 7))
  | 6 => some (.mseaMax (bit w 31) (fld w 18 7) (fld w 11 7) (fld w 4 7))
  | 7 => some (.mseaAcc (bit w 31) (fld w 18 7) (fld w 11 7) (fld w 4 7))
  | _ => none

/-- Major opcode 0x10 (05 R181-R189). -/
noncomputable def parse10 (w : Nat) : Option Instr :=
  match num w 0 4 with
  | 0 => if num w 8 3 == 7 then some (.voteAny (bit w 31) (fld w 18 7) (fld w 11 7) (fld w 4 4)) else none
  | 1 => if num w 8 3 == 7 then some (.voteAll (bit w 31) (fld w 18 7) (fld w 11 7) (fld w 4 4)) else none
  | 2 => if num w 8 3 == 7 then some (.voteBallot (bit w 31) (fld w 18 7) (fld w 11 7) (fld w 4 4)) else none
  | 3 => if num w 8 3 == 7 then some (.matchN32 (bit w 31) (fld w 18 7) (fld w 11 7) (fld w 4 4)) else none
  | 4 => if num w 8 3 == 7 then some (.matchN64 (bit w 31) (fld w 18 7) (fld w 11 7) (fld w 4 4)) else none
  | 5 => if num w 8 3 == 7 then some (.redOF32 (bit w 31) (fld w 18 7) (fld w 11 7) (fld w 4 4)) else none
  | 6 => if num w 8 3 == 7 then some (.redAddN32 (bit w 31) (fld w 18 7) (fld w 11 7) (fld w 4 4)) else none
  | 7 => if num w 8 3 == 7 then some (.redMinI32 (bit w 31) (fld w 18 7) (fld w 11 7) (fld w 4 4)) else none
  | 8 => if num w 8 3 == 7 then some (.redMaxI32 (bit w 31) (fld w 18 7) (fld w 11 7) (fld w 4 4)) else none
  | 9 => if num w 8 3 == 7 then some (.redMinN32 (bit w 31) (fld w 18 7) (fld w 11 7) (fld w 4 4)) else none
  | 10 => if num w 8 3 == 7 then some (.redMaxN32 (bit w 31) (fld w 18 7) (fld w 11 7) (fld w 4 4)) else none
  | 11 => if num w 8 3 == 7 && num w 22 3 == 7 then some (.vtos (bit w 31) (fld w 18 4) (fld w 11 7) (fld w 4 4)) else none
  | _ => none

/-- Major opcode 0x11 (05 R181-R189). -/
noncomputable def parse11 (w : Nat) : Option Instr :=
  match num w 7 4 with
  | 0 => some (.ldGN8 (bit w 31) (fld w 18 7) (fld w 11 7) (fld w 0 7))
  | 1 => some (.ldGI8 (bit w 31) (fld w 18 7) (fld w 11 7) (fld w 0 7))
  | 2 => some (.ldGN16 (bit w 31) (fld w 18 7) (fld w 11 7) (fld w 0 7))
  | 3 => some (.ldGI16 (bit w 31) (fld w 18 7) (fld w 11 7) (fld w 0 7))
  | 4 => some (.ldGN32 (bit w 31) (fld w 18 7) (fld w 11 7) (fld w 0 7))
  | 5 => some (.ldGF32 (bit w 31) (fld w 18 7) (fld w 11 7) (fld w 0 7))
  | 6 => some (.ldGF16 (bit w 31) (fld w 18 7) (fld w 11 7) (fld w 0 7))
  | 7 => some (.ldGBf16 (bit w 31) (fld w 18 7) (fld w 11 7) (fld w 0 7))
  | 8 => some (.ldGN64 (bit w 31) (fld w 18 7) (fld w 11 7) (fld w 0 7))
  | _ => none

/-- Major opcode 0x12 (05 R181-R189). -/
noncomputable def parse12 (w : Nat) : Option Instr :=
  match num w 7 4 with
  | 0 => some (.stGN8 (bit w 31) (fld w 18 7) (fld w 11 7) (fld w 0 7))
  | 2 => some (.stGN16 (bit w 31) (fld w 18 7) (fld w 11 7) (fld w 0 7))
  | 4 => some (.stGN32 (bit w 31) (fld w 18 7) (fld w 11 7) (fld w 0 7))
  | 5 => some (.stGF32 (bit w 31) (fld w 18 7) (fld w 11 7) (fld w 0 7))
  | 6 => some (.stGF16 (bit w 31) (fld w 18 7) (fld w 11 7) (fld w 0 7))
  | 7 => some (.stGBf16 (bit w 31) (fld w 18 7) (fld w 11 7) (fld w 0 7))
  | 8 => some (.stGN64 (bit w 31) (fld w 18 7) (fld w 11 7) (fld w 0 7))
  | _ => none

/-- Major opcode 0x13 (05 R181-R189). -/
noncomputable def parse13 (w : Nat) : Option Instr :=
  match num w 7 4 with
  | 0 => some (.ldSN8 (bit w 31) (fld w 18 7) (fld w 11 7) (fld w 0 7))
  | 1 => some (.ldSI8 (bit w 31) (fld w 18 7) (fld w 11 7) (fld w 0 7))
  | 2 => some (.ldSN16 (bit w 31) (fld w 18 7) (fld w 11 7) (fld w 0 7))
  | 3 => some (.ldSI16 (bit w 31) (fld w 18 7) (fld w 11 7) (fld w 0 7))
  | 4 => some (.ldSN32 (bit w 31) (fld w 18 7) (fld w 11 7) (fld w 0 7))
  | 5 => some (.ldSF32 (bit w 31) (fld w 18 7) (fld w 11 7) (fld w 0 7))
  | 6 => some (.ldSF16 (bit w 31) (fld w 18 7) (fld w 11 7) (fld w 0 7))
  | 7 => some (.ldSBf16 (bit w 31) (fld w 18 7) (fld w 11 7) (fld w 0 7))
  | 8 => some (.ldSN64 (bit w 31) (fld w 18 7) (fld w 11 7) (fld w 0 7))
  | _ => none

/-- Major opcode 0x14 (05 R181-R189). -/
noncomputable def parse14 (w : Nat) : Option Instr :=
  match num w 7 4 with
  | 0 => some (.stSN8 (bit w 31) (fld w 18 7) (fld w 11 7) (fld w 0 7))
  | 2 => some (.stSN16 (bit w 31) (fld w 18 7) (fld w 11 7) (fld w 0 7))
  | 4 => some (.stSN32 (bit w 31) (fld w 18 7) (fld w 11 7) (fld w 0 7))
  | 5 => some (.stSF32 (bit w 31) (fld w 18 7) (fld w 11 7) (fld w 0 7))
  | 6 => some (.stSF16 (bit w 31) (fld w 18 7) (fld w 11 7) (fld w 0 7))
  | 7 => some (.stSBf16 (bit w 31) (fld w 18 7) (fld w 11 7) (fld w 0 7))
  | 8 => some (.stSN64 (bit w 31) (fld w 18 7) (fld w 11 7) (fld w 0 7))
  | _ => none

/-- Major opcode 0x15 (05 R181-R189). -/
noncomputable def parse15 (w : Nat) : Option Instr :=
  match num w 0 4 with
  | 0 => some (.atomGAddN32 (bit w 31) (fld w 18 7) (fld w 11 7) (fld w 4 7))
  | 1 => some (.atomGAddN64 (bit w 31) (fld w 18 7) (fld w 11 7) (fld w 4 7))
  | 2 => some (.atomGAddF32 (bit w 31) (fld w 18 7) (fld w 11 7) (fld w 4 7))
  | 3 => some (.atomGMinI32 (bit w 31) (fld w 18 7) (fld w 11 7) (fld w 4 7))
  | 4 => some (.atomGMinN32 (bit w 31) (fld w 18 7) (fld w 11 7) (fld w 4 7))
  | 5 => some (.atomGMaxI32 (bit w 31) (fld w 18 7) (fld w 11 7) (fld w 4 7))
  | 6 => some (.atomGMaxN32 (bit w 31) (fld w 18 7) (fld w 11 7) (fld w 4 7))
  | 7 => some (.atomGAndB32 (bit w 31) (fld w 18 7) (fld w 11 7) (fld w 4 7))
  | 8 => some (.atomGOrB32 (bit w 31) (fld w 18 7) (fld w 11 7) (fld w 4 7))
  | 9 => some (.atomGXorB32 (bit w 31) (fld w 18 7) (fld w 11 7) (fld w 4 7))
  | 10 => some (.atomGExchN32 (bit w 31) (fld w 18 7) (fld w 11 7) (fld w 4 7))
  | 11 => some (.atomGExchN64 (bit w 31) (fld w 18 7) (fld w 11 7) (fld w 4 7))
  | 12 => some (.atomGCasN32 (bit w 31) (fld w 18 7) (fld w 11 7) (fld w 4 7))
  | 13 => some (.atomGCasN64 (bit w 31) (fld w 18 7) (fld w 11 7) (fld w 4 7))
  | _ => none

/-- Major opcode 0x16 (05 R181-R189). -/
noncomputable def parse16 (w : Nat) : Option Instr :=
  match num w 0 4 with
  | 0 => if num w 18 7 == 0 then some (.atomnGAddN32 (bit w 31) (fld w 11 7) (fld w 4 7)) else none
  | 1 => if num w 18 7 == 0 then some (.atomnGAddN64 (bit w 31) (fld w 11 7) (fld w 4 7)) else none
  | 2 => if num w 18 7 == 0 then some (.atomnGAddF32 (bit w 31) (fld w 11 7) (fld w 4 7)) else none
  | 3 => if num w 18 7 == 0 then some (.atomnGMinI32 (bit w 31) (fld w 11 7) (fld w 4 7)) else none
  | 4 => if num w 18 7 == 0 then some (.atomnGMinN32 (bit w 31) (fld w 11 7) (fld w 4 7)) else none
  | 5 => if num w 18 7 == 0 then some (.atomnGMaxI32 (bit w 31) (fld w 11 7) (fld w 4 7)) else none
  | 6 => if num w 18 7 == 0 then some (.atomnGMaxN32 (bit w 31) (fld w 11 7) (fld w 4 7)) else none
  | 7 => if num w 18 7 == 0 then some (.atomnGAndB32 (bit w 31) (fld w 11 7) (fld w 4 7)) else none
  | 8 => if num w 18 7 == 0 then some (.atomnGOrB32 (bit w 31) (fld w 11 7) (fld w 4 7)) else none
  | 9 => if num w 18 7 == 0 then some (.atomnGXorB32 (bit w 31) (fld w 11 7) (fld w 4 7)) else none
  | _ => none

/-- Major opcode 0x17 (05 R181-R189). -/
noncomputable def parse17 (w : Nat) : Option Instr :=
  match num w 0 4 with
  | 0 => some (.atomSAddN32 (bit w 31) (fld w 18 7) (fld w 11 7) (fld w 4 7))
  | 1 => some (.atomSAddN64 (bit w 31) (fld w 18 7) (fld w 11 7) (fld w 4 7))
  | 2 => some (.atomSAddF32 (bit w 31) (fld w 18 7) (fld w 11 7) (fld w 4 7))
  | 3 => some (.atomSMinI32 (bit w 31) (fld w 18 7) (fld w 11 7) (fld w 4 7))
  | 4 => some (.atomSMinN32 (bit w 31) (fld w 18 7) (fld w 11 7) (fld w 4 7))
  | 5 => some (.atomSMaxI32 (bit w 31) (fld w 18 7) (fld w 11 7) (fld w 4 7))
  | 6 => some (.atomSMaxN32 (bit w 31) (fld w 18 7) (fld w 11 7) (fld w 4 7))
  | 7 => some (.atomSAndB32 (bit w 31) (fld w 18 7) (fld w 11 7) (fld w 4 7))
  | 8 => some (.atomSOrB32 (bit w 31) (fld w 18 7) (fld w 11 7) (fld w 4 7))
  | 9 => some (.atomSXorB32 (bit w 31) (fld w 18 7) (fld w 11 7) (fld w 4 7))
  | 10 => some (.atomSExchN32 (bit w 31) (fld w 18 7) (fld w 11 7) (fld w 4 7))
  | 11 => some (.atomSExchN64 (bit w 31) (fld w 18 7) (fld w 11 7) (fld w 4 7))
  | 12 => some (.atomSCasN32 (bit w 31) (fld w 18 7) (fld w 11 7) (fld w 4 7))
  | 13 => some (.atomSCasN64 (bit w 31) (fld w 18 7) (fld w 11 7) (fld w 4 7))
  | _ => none

/-- Major opcode 0x1D (05 R181-R189). -/
noncomputable def parse1D (w : Nat) : Option Instr :=
  match num w 0 4 with
  | 0 => if num w 4 7 == 0 then some (.ldD (bit w 31) (fld w 18 7) (fld w 11 7)) else none
  | 1 => if num w 22 3 == 0 then some (.stD (bit w 31) (fld w 18 4) (fld w 11 7) (fld w 4 7)) else none
  | 2 => if num w 18 7 == 0 then some (.dadd (bit w 31) (fld w 11 7) (fld w 4 7)) else none
  | 3 => if num w 4 7 == 0 && num w 22 3 == 0 then some (.dcls (bit w 31) (fld w 18 4) (fld w 11 7)) else none
  | 4 => if num w 18 7 == 0 then some (.armS (bit w 31) (fld w 11 7) (fld w 4 7)) else none
  | 5 => if num w 4 7 == 0 && num w 18 7 == 0 then some (.vpin (bit w 31) (fld w 11 7)) else none
  | 6 => if num w 4 21 == 0 then some (.vunpin (bit w 31)) else none
  | 7 => if num w 4 14 == 0 then some (.vread (bit w 31) (fld w 18 7)) else none
  | 8 => if num w 4 7 == 0 && num w 18 7 == 0 then some (.prefG (bit w 31) (fld w 11 7)) else none
  | _ => none

/-- Major opcode 0x1E (05 R181-R189). -/
noncomputable def parse1E (w : Nat) : Option Instr :=
  match num w 21 4 with
  | 0 => if num w 2 1 == 0 then some (.tdesc (bit w 31) (fld w 15 6) (fld w 9 6) (fld w 3 6) (bit w 1) (bit w 0)) else none
  | 1 => if num w 0 9 == 0 then some (.mload (bit w 31) (fld w 15 6) (fld w 9 6)) else none
  | 2 => if num w 0 9 == 0 then some (.tturn (bit w 31) (fld w 15 6) (fld w 9 6)) else none
  | 3 => if num w 2 1 == 0 then some (.mma (bit w 31) (fld w 15 6) (fld w 9 6) (fld w 3 6) (bit w 1) (bit w 0)) else none
  | 4 => if num w 2 1 == 0 then some (.mmaSc (bit w 31) (fld w 15 6) (fld w 9 6) (fld w 3 6) (bit w 1) (bit w 0)) else none
  | 5 => if num w 2 1 == 0 then some (.mmaPn (bit w 31) (fld w 15 6) (fld w 9 6) (fld w 3 6) (bit w 1) (bit w 0)) else none
  | 6 => if num w 1 14 == 0 then some (.mstore (bit w 31) (fld w 15 6) (bit w 0)) else none
  | _ => none

/-- Major opcode 0x1F (05 R181-R189). -/
noncomputable def parse1F (w : Nat) : Option Instr :=
  match num w 21 4 with
  | 0 => if num w 2 1 == 0 then some (.ecopy (bit w 31) (fld w 15 6) (fld w 9 6) (fld w 3 6) (fld w 0 2)) else none
  | 1 => if num w 0 3 == 4 then some (.egath (bit w 31) (fld w 15 6) (fld w 9 6) (fld w 3 6)) else none
  | 2 => if num w 0 3 == 4 then some (.escat (bit w 31) (fld w 15 6) (fld w 9 6) (fld w 3 6)) else none
  | 3 => some (.ecoll (bit w 31) (fld w 15 6) (fld w 9 6) (fld w 3 6) (fld w 0 3))
  | 4 => if num w 0 15 == 0 then some (.publish (bit w 31) (fld w 15 6)) else none
  | 5 =>
    if num w 3 12 == 0 then some (.eseqMilepost (bit w 31) (fld w 15 6) (fld w 0 3))
    else if num w 3 12 == 64 then some (.eseqLast (bit w 31) (fld w 15 6) (fld w 0 3))
    else none
  | 6 => if num w 3 12 == 0 then some (.ewait (bit w 31) (fld w 15 6) (fld w 0 3)) else none
  | 7 => if num w 0 9 == 4 then some (.optstep (bit w 31) (fld w 15 6) (fld w 9 6)) else none
  | 8 => if num w 2 13 == 0 then some (.dsweep (bit w 31) (fld w 15 6) (fld w 0 2)) else none
  | _ => none

/-- Major opcodes 0x18 to 0x1C: FP32 arithmetic, the mode in the major (05 R181, R186). -/
noncomputable def parseFp (r : RM) (w : Nat) : Option Instr :=
  match num w 0 4 with
  | 0 => some (.faddF32 (bit w 31) r (fld w 18 7) (fld w 11 7) (fld w 4 7))
  | 1 => some (.fsubF32 (bit w 31) r (fld w 18 7) (fld w 11 7) (fld w 4 7))
  | 2 => some (.fmulF32 (bit w 31) r (fld w 18 7) (fld w 11 7) (fld w 4 7))
  | 3 => some (.fdivF32 (bit w 31) r (fld w 18 7) (fld w 11 7) (fld w 4 7))
  | 4 => if num w 4 7 == 0 then some (.fsqrtF32 (bit w 31) r (fld w 18 7) (fld w 11 7)) else none
  | 5 => some (.fexpiF32 (bit w 31) r (fld w 18 7) (fld w 11 7) (fld w 4 7))
  | _ => none

/-- Major opcodes 0x20 to 0x3F: fused multiply-add, OP = 0x20 + 8 x variant + RM (05 R181). -/
noncomputable def parseFused (w : Nat) : Option Instr :=
  (RM.ofCode (num w 25 3)).bind fun r =>
    match num w 28 2 with
    | 0 => some (.ffmaF32 (bit w 31) r (fld w 18 7) (fld w 11 7) (fld w 4 7) (fld w 0 4))
    | 1 => some (.ffmsF32 (bit w 31) r (fld w 18 7) (fld w 11 7) (fld w 4 7) (fld w 0 4))
    | 2 => some (.fnmaF32 (bit w 31) r (fld w 18 7) (fld w 11 7) (fld w 4 7) (fld w 0 4))
    | _ => some (.fnmsF32 (bit w 31) r (fld w 18 7) (fld w 11 7) (fld w 4 7) (fld w 0 4))

/-- The fields of a word, by its major opcode (05 R181). -/
noncomputable def parse (w : Nat) : Option Instr :=
  match num w 25 6 with
  | 1 => if bit w 31 then none else some (.hint (fld w 21 4) (fld w 5 16) (bit w 4) (fld w 0 4))
  | 2 => if bit w 31 then none else some (.wimm (fld w 0 25))
  | 3 => parse03 w
  | 4 => parse04 w
  | 5 => parse05 w
  | 6 => parse06 w
  | 7 => parse07 w
  | 8 => parse08 w
  | 9 => parse09 w
  | 10 => parse0A w
  | 11 => parse0B w
  | 12 => parse0C w
  | 13 => parse0D w
  | 14 => parse0E w
  | 15 => some (.shfl (bit w 31) (fld w 18 7) (fld w 11 7) (fld w 4 7) (fld w 0 4))
  | 16 => parse10 w
  | 17 => parse11 w
  | 18 => parse12 w
  | 19 => parse13 w
  | 20 => parse14 w
  | 21 => parse15 w
  | 22 => parse16 w
  | 23 => parse17 w
  | 24 => parseFp .rn w
  | 25 => parseFp .rz w
  | 26 => parseFp .ru w
  | 27 => parseFp .rd w
  | 28 => parseFp .rs w
  | 29 => parse1D w
  | 30 => parse1E w
  | 31 => parse1F w
  | op => if 32 ≤ op then parseFused w else none

/-- Why a word holds no instruction (05 R190). Every one raises the illegal-instruction trap (R191). -/
inductive DecodeErr where
  /-- the bytes end before the word does -/
  | short
  /-- an unassigned major or minor code, or a field that must hold another value -/
  | noInstruction
  /-- an operand specifier or control value that the instruction does not take -/
  | illegalOperand
  deriving DecidableEq, Repr

/-- Decode a word (05 R173-R191). -/
noncomputable def decode (w : Nat) : Except DecodeErr Instr :=
  match parse w with
  | none => .error .noInstruction
  | some i => if i.wf then .ok i else .error .illegalOperand

/-- Decode the little-endian bytes at an address: the instruction and the bytes after it (05 R173). -/
noncomputable def decodeBytes : List Byte → Except DecodeErr (Instr × List Byte)
  | b0 :: b1 :: b2 :: b3 :: rest =>
    (decode (b0.toNat + 256 * b1.toNat + 65536 * b2.toNat + 16777216 * b3.toNat)).map (·, rest)
  | _ => .error .short

/-- The decoder's answer for a table row's word (host interface): every Varpol word has 32 bits. -/
noncomputable def decodeTableWord (nbits w : Nat) : Option Instr :=
  if nbits ≤ 32 && decide (w < 2 ^ 32) then
    match decode w with
    | .ok i => some i
    | .error _ => none
  else none

/-- The switch marker in bit 31 (05 R173). -/
def mk (m : Bool) : Nat := if m then 2147483648 else 0

/-- A one-bit field at bit `lo`. -/
def sb (b : Bool) (lo : Nat) : Nat := if b then 2 ^ lo else 0

/-- A field whose lowest bit is `lo`. -/
def sv {n : Nat} (x : BitVec n) (lo : Nat) : Nat := x.toNat * 2 ^ lo

/-- A word: the bits that name the instruction, and its fields. -/
def pk : Nat → List Nat → Nat
  | base, [] => base
  | base, x :: xs => pk base xs + x

/-- The word of an instruction; a step row has none. -/
def encode : Instr → Option Nat
  | .hint stall wmask seten slot => some (pk 0x02000000 [sv stall 21, sv wmask 5, sb seten 4, sv slot 0])
  | .wimm p => some (pk 0x04000000 [sv p 0])
  | .sadd m d a i x => some (pk 0x06000000 [mk m, sv d 19, sv a 13, sb i 7, sv x 0])
  | .ssub m d a i x => some (pk 0x06000100 [mk m, sv d 19, sv a 13, sb i 7, sv x 0])
  | .smul m d a i x => some (pk 0x06000200 [mk m, sv d 19, sv a 13, sb i 7, sv x 0])
  | .smulhI64 m d a i x => some (pk 0x06000300 [mk m, sv d 19, sv a 13, sb i 7, sv x 0])
  | .smulhN64 m d a i x => some (pk 0x06000400 [mk m, sv d 19, sv a 13, sb i 7, sv x 0])
  | .sand m d a i x => some (pk 0x06000500 [mk m, sv d 19, sv a 13, sb i 7, sv x 0])
  | .sor m d a i x => some (pk 0x06000600 [mk m, sv d 19, sv a 13, sb i 7, sv x 0])
  | .sxor m d a i x => some (pk 0x06000700 [mk m, sv d 19, sv a 13, sb i 7, sv x 0])
  | .sshl m d a i x => some (pk 0x06000800 [mk m, sv d 19, sv a 13, sb i 7, sv x 0])
  | .sshr m d a i x => some (pk 0x06000900 [mk m, sv d 19, sv a 13, sb i 7, sv x 0])
  | .ssar m d a i x => some (pk 0x06000A00 [mk m, sv d 19, sv a 13, sb i 7, sv x 0])
  | .sminI64 m d a i x => some (pk 0x06000B00 [mk m, sv d 19, sv a 13, sb i 7, sv x 0])
  | .sminN64 m d a i x => some (pk 0x06000C00 [mk m, sv d 19, sv a 13, sb i 7, sv x 0])
  | .smaxI64 m d a i x => some (pk 0x06000D00 [mk m, sv d 19, sv a 13, sb i 7, sv x 0])
  | .smaxN64 m d a i x => some (pk 0x06000E00 [mk m, sv d 19, sv a 13, sb i 7, sv x 0])
  | .smov m d i x => some (pk 0x06000F00 [mk m, sv d 19, sb i 7, sv x 0])
  | .sceq m d a i x => some (pk 0x06001000 [mk m, sv d 19, sv a 13, sb i 7, sv x 0])
  | .scltI64 m d a i x => some (pk 0x06001100 [mk m, sv d 19, sv a 13, sb i 7, sv x 0])
  | .scltN64 m d a i x => some (pk 0x06001200 [mk m, sv d 19, sv a 13, sb i 7, sv x 0])
  | .scleI64 m d a i x => some (pk 0x06001300 [mk m, sv d 19, sv a 13, sb i 7, sv x 0])
  | .scleN64 m d a i x => some (pk 0x06001400 [mk m, sv d 19, sv a 13, sb i 7, sv x 0])
  | .sldN32 m d a i x => some (pk 0x06001500 [mk m, sv d 19, sv a 13, sb i 7, sv x 0])
  | .sldN64 m d a i x => some (pk 0x06001600 [mk m, sv d 19, sv a 13, sb i 7, sv x 0])
  | .sstN32 m d a i x => some (pk 0x06001700 [mk m, sv d 19, sv a 13, sb i 7, sv x 0])
  | .sstN64 m d a i x => some (pk 0x06001800 [mk m, sv d 19, sv a 13, sb i 7, sv x 0])
  | .sldSN32 m d a i x => some (pk 0x06001900 [mk m, sv d 19, sv a 13, sb i 7, sv x 0])
  | .sstSN32 m d a i x => some (pk 0x06001A00 [mk m, sv d 19, sv a 13, sb i 7, sv x 0])
  | .rdsrScalar m d n => some (pk 0x08000080 [mk m, sv d 19, sv n 0])
  | .wrsr m a n => some (pk 0x08000180 [mk m, sv a 13, sv n 0])
  | .getw m d => some (pk 0x08000200 [mk m, sv d 19])
  | .setw m a i x => some (pk 0x08000300 [mk m, sv a 13, sb i 7, sv x 0])
  | .xacq m c => some (pk 0x08000480 [mk m, sv c 0])
  | .xacqNb m d c => some (pk 0x08000580 [mk m, sv d 19, sv c 0])
  | .xrel m c => some (pk 0x08000680 [mk m, sv c 0])
  | .modeTriple m => some (pk 0x08000700 [mk m])
  | .modeSingle m => some (pk 0x08000800 [mk m])
  | .fqryDevice m d a => some (pk 0x08000980 [mk m, sv d 19, sv a 13])
  | .fqryNumeric m d a => some (pk 0x08000981 [mk m, sv d 19, sv a 13])
  | .fqryPlacement m d a => some (pk 0x08000982 [mk m, sv d 19, sv a 13])
  | .smplStart m a => some (pk 0x08000A80 [mk m, sv a 13])
  | .smplStop m a => some (pk 0x08000A81 [mk m, sv a 13])
  | .smplFlush m a => some (pk 0x08000A82 [mk m, sv a 13])
  | .emsave m d => some (pk 0x08000B00 [mk m, sv d 19])
  | .emset m a => some (pk 0x08000C00 [mk m, sv a 13])
  | .emand m a => some (pk 0x08000D00 [mk m, sv a 13])
  | .emandn m a => some (pk 0x08000E00 [mk m, sv a 13])
  | .emor m a => some (pk 0x08000F00 [mk m, sv a 13])
  | .emif m d => some (pk 0x08001000 [mk m, sv d 19])
  | .emelse m d => some (pk 0x08001100 [mk m, sv d 19])
  | .sadr m d x => some (pk 0x08001280 [mk m, sv d 19, sv x 0])
  | .br m off => some (pk 0x0A000000 [mk m, sv off 0])
  | .brc m off => some (pk 0x0A200000 [mk m, sv off 0])
  | .brnc m off => some (pk 0x0A400000 [mk m, sv off 0])
  | .brany m off => some (pk 0x0A600000 [mk m, sv off 0])
  | .brall m off => some (pk 0x0A800000 [mk m, sv off 0])
  | .call m off => some (pk 0x0AA00000 [mk m, sv off 0])
  | .callr m t => some (pk 0x0AC00000 [mk m, sv t 14])
  | .ret m => some (pk 0x0AE00000 [mk m])
  | .jmpr m t => some (pk 0x0B000000 [mk m, sv t 14])
  | .exit m => some (pk 0x0B200000 [mk m])
  | .rcb m => some (pk 0x0B400000 [mk m])
  | .block m lim => some (pk 0x0B600000 [mk m, sv lim 0])
  | .yield m => some (pk 0x0B800000 [mk m])
  | .trap m c => some (pk 0x0BA00000 [mk m, sv c 0])
  | .handlerReturn m => some (pk 0x0BA00000 [mk m])
  | .handlerSaved m => some (pk 0x0BA00001 [mk m])
  | .handlerEndWave m => some (pk 0x0BA00002 [mk m])
  | .handlerRefuseReslice m => some (pk 0x0BA00003 [mk m])
  | .handlerEndContext m => some (pk 0x0BA00004 [mk m])
  | .nop m => some (pk 0x0BC00000 [mk m])
  | .bar m n c => some (pk 0x0C000000 [mk m, sv n 12, sv c 0])
  | .barArr m n c => some (pk 0x0C200000 [mk m, sv n 12, sv c 0])
  | .tbar m p => some (pk 0x0C400000 [mk m, sv p 18])
  | .tbarArr m p => some (pk 0x0C600000 [mk m, sv p 18])
  | .waitgen m off g => some (pk 0x0C800000 [mk m, sv off 15, sv g 9])
  | .waitc m c v => some (pk 0x0CA00000 [mk m, sv c 19, sv v 0])
  | .fenceW m => some (pk 0x0CC00000 [mk m])
  | .addN32 m d a b => some (pk 0x0E000000 [mk m, sv d 18, sv a 11, sv b 4])
  | .subN32 m d a b => some (pk 0x0E000001 [mk m, sv d 18, sv a 11, sv b 4])
  | .mulN32 m d a b => some (pk 0x0E000002 [mk m, sv d 18, sv a 11, sv b 4])
  | .mulhI32 m d a b => some (pk 0x0E000003 [mk m, sv d 18, sv a 11, sv b 4])
  | .mulhN32 m d a b => some (pk 0x0E000004 [mk m, sv d 18, sv a 11, sv b 4])
  | .andB32 m d a b => some (pk 0x0E000005 [mk m, sv d 18, sv a 11, sv b 4])
  | .orB32 m d a b => some (pk 0x0E000006 [mk m, sv d 18, sv a 11, sv b 4])
  | .xorB32 m d a b => some (pk 0x0E000007 [mk m, sv d 18, sv a 11, sv b 4])
  | .shlB32 m d a b => some (pk 0x0E000008 [mk m, sv d 18, sv a 11, sv b 4])
  | .shrB32 m d a b => some (pk 0x0E000009 [mk m, sv d 18, sv a 11, sv b 4])
  | .sarB32 m d a b => some (pk 0x0E00000A [mk m, sv d 18, sv a 11, sv b 4])
  | .minI32 m d a b => some (pk 0x0E00000B [mk m, sv d 18, sv a 11, sv b 4])
  | .minN32 m d a b => some (pk 0x0E00000C [mk m, sv d 18, sv a 11, sv b 4])
  | .maxI32 m d a b => some (pk 0x0E00000D [mk m, sv d 18, sv a 11, sv b 4])
  | .maxN32 m d a b => some (pk 0x0E00000E [mk m, sv d 18, sv a 11, sv b 4])
  | .addsI32 m d a b => some (pk 0x0E00000F [mk m, sv d 18, sv a 11, sv b 4])
  | .addN32Imm m d a imm => some (pk 0x10000000 [mk m, sv d 18, sv a 11, sv imm 0])
  | .andB32Imm m d a imm => some (pk 0x10000080 [mk m, sv d 18, sv a 11, sv imm 0])
  | .orB32Imm m d a imm => some (pk 0x10000100 [mk m, sv d 18, sv a 11, sv imm 0])
  | .xorB32Imm m d a imm => some (pk 0x10000180 [mk m, sv d 18, sv a 11, sv imm 0])
  | .shlB32Imm m d a imm => some (pk 0x10000200 [mk m, sv d 18, sv a 11, sv imm 0])
  | .shrB32Imm m d a imm => some (pk 0x10000280 [mk m, sv d 18, sv a 11, sv imm 0])
  | .sarB32Imm m d a imm => some (pk 0x10000300 [mk m, sv d 18, sv a 11, sv imm 0])
  | .movB32 m d imm => some (pk 0x10000380 [mk m, sv d 18, sv imm 0])
  | .rsubN32 m d a imm => some (pk 0x10000400 [mk m, sv d 18, sv a 11, sv imm 0])
  | .minI32Imm m d a imm => some (pk 0x10000480 [mk m, sv d 18, sv a 11, sv imm 0])
  | .maxI32Imm m d a imm => some (pk 0x10000500 [mk m, sv d 18, sv a 11, sv imm 0])
  | .addN64Imm m d a imm => some (pk 0x10000580 [mk m, sv d 18, sv a 11, sv imm 0])
  | .movB64 m d imm => some (pk 0x10000600 [mk m, sv d 18, sv imm 0])
  | .rdsrVector m d n => some (pk 0x10000680 [mk m, sv d 18, sv n 0])
  | .addN64 m d a b => some (pk 0x12000000 [mk m, sv d 18, sv a 11, sv b 4])
  | .subN64 m d a b => some (pk 0x12000001 [mk m, sv d 18, sv a 11, sv b 4])
  | .mulN64 m d a b => some (pk 0x12000002 [mk m, sv d 18, sv a 11, sv b 4])
  | .andB64 m d a b => some (pk 0x12000003 [mk m, sv d 18, sv a 11, sv b 4])
  | .orB64 m d a b => some (pk 0x12000004 [mk m, sv d 18, sv a 11, sv b 4])
  | .xorB64 m d a b => some (pk 0x12000005 [mk m, sv d 18, sv a 11, sv b 4])
  | .shlB64 m d a b => some (pk 0x12000006 [mk m, sv d 18, sv a 11, sv b 4])
  | .shrB64 m d a b => some (pk 0x12000007 [mk m, sv d 18, sv a 11, sv b 4])
  | .sarB64 m d a b => some (pk 0x12000008 [mk m, sv d 18, sv a 11, sv b 4])
  | .popcB32 m d a => some (pk 0x12000009 [mk m, sv d 18, sv a 11])
  | .clzB32 m d a => some (pk 0x1200000A [mk m, sv d 18, sv a 11])
  | .brevB32 m d a => some (pk 0x1200000B [mk m, sv d 18, sv a 11])
  | .bfeN32 m d a b => some (pk 0x1200000C [mk m, sv d 18, sv a 11, sv b 4])
  | .bfeI32 m d a b => some (pk 0x1200000D [mk m, sv d 18, sv a 11, sv b 4])
  | .subsI32 m d a b => some (pk 0x1200000E [mk m, sv d 18, sv a 11, sv b 4])
  | .mulwN32 m d a b => some (pk 0x1200000F [mk m, sv d 18, sv a 11, sv b 4])
  | .ceqN32 m a b => some (pk 0x14000000 [mk m, sv a 11, sv b 4])
  | .cneN32 m a b => some (pk 0x14000001 [mk m, sv a 11, sv b 4])
  | .cltI32 m a b => some (pk 0x14000002 [mk m, sv a 11, sv b 4])
  | .cleI32 m a b => some (pk 0x14000003 [mk m, sv a 11, sv b 4])
  | .cltN32 m a b => some (pk 0x14000004 [mk m, sv a 11, sv b 4])
  | .cleN32 m a b => some (pk 0x14000005 [mk m, sv a 11, sv b 4])
  | .ceqN64 m a b => some (pk 0x14000006 [mk m, sv a 11, sv b 4])
  | .cltI64 m a b => some (pk 0x14000007 [mk m, sv a 11, sv b 4])
  | .cltN64 m a b => some (pk 0x14000008 [mk m, sv a 11, sv b 4])
  | .selB32 m d a b => some (pk 0x14000009 [mk m, sv d 18, sv a 11, sv b 4])
  | .selB64 m d a b => some (pk 0x1400000A [mk m, sv d 18, sv a 11, sv b 4])
  | .fceqF32 m a b => some (pk 0x16000000 [mk m, sv a 11, sv b 4])
  | .fcneF32 m a b => some (pk 0x16000001 [mk m, sv a 11, sv b 4])
  | .fcltF32 m a b => some (pk 0x16000002 [mk m, sv a 11, sv b 4])
  | .fcleF32 m a b => some (pk 0x16000003 [mk m, sv a 11, sv b 4])
  | .fcgtF32 m a b => some (pk 0x16000004 [mk m, sv a 11, sv b 4])
  | .fcgeF32 m a b => some (pk 0x16000005 [mk m, sv a 11, sv b 4])
  | .fcunF32 m a b => some (pk 0x16000006 [mk m, sv a 11, sv b 4])
  | .fcordF32 m a b => some (pk 0x16000007 [mk m, sv a 11, sv b 4])
  | .fminF32 m d a b => some (pk 0x16000008 [mk m, sv d 18, sv a 11, sv b 4])
  | .fmaxF32 m d a b => some (pk 0x16000009 [mk m, sv d 18, sv a 11, sv b 4])
  | .fabsF32 m d a => some (pk 0x1600000A [mk m, sv d 18, sv a 11])
  | .fnegF32 m d a => some (pk 0x1600000B [mk m, sv d 18, sv a 11])
  | .fcopysignF32 m d a b => some (pk 0x1600000C [mk m, sv d 18, sv a 11, sv b 4])
  | .fclassF32 m d a => some (pk 0x1600000D [mk m, sv d 18, sv a 11])
  | .fexfF32 m d a rm => some (pk 0x18000000 [mk m, sv d 18, sv a 11, rm.code * 2 ^ 4])
  | .flog2F32 m d a rm => some (pk 0x18000001 [mk m, sv d 18, sv a 11, rm.code * 2 ^ 4])
  | .frcpF32 m d a rm => some (pk 0x18000002 [mk m, sv d 18, sv a 11, rm.code * 2 ^ 4])
  | .frsqrtF32 m d a rm => some (pk 0x18000003 [mk m, sv d 18, sv a 11, rm.code * 2 ^ 4])
  | .frintF32 m d a rm => some (pk 0x18000004 [mk m, sv d 18, sv a 11, rm.code * 2 ^ 4])
  | .cvtF32I32 m d a rm => some (pk 0x1A000000 [mk m, sv d 18, sv a 11, rm.code * 2 ^ 4])
  | .cvtF32N32 m d a rm => some (pk 0x1A000001 [mk m, sv d 18, sv a 11, rm.code * 2 ^ 4])
  | .cvtI32F32 m d a rm => some (pk 0x1A000002 [mk m, sv d 18, sv a 11, rm.code * 2 ^ 4])
  | .cvtN32F32 m d a rm => some (pk 0x1A000003 [mk m, sv d 18, sv a 11, rm.code * 2 ^ 4])
  | .cvtF16F32 m d a rm => some (pk 0x1A000004 [mk m, sv d 18, sv a 11, rm.code * 2 ^ 4])
  | .cvtBf16F32 m d a rm => some (pk 0x1A000005 [mk m, sv d 18, sv a 11, rm.code * 2 ^ 4])
  | .cvtE4m3F32 m d a sat rm => some (pk 0x1A000006 [mk m, sv d 18, sv a 11, sb sat 7, rm.code * 2 ^ 4])
  | .cvtE5m2F32 m d a sat rm => some (pk 0x1A000007 [mk m, sv d 18, sv a 11, sb sat 7, rm.code * 2 ^ 4])
  | .cvtF32F16 m d a => some (pk 0x1A000008 [mk m, sv d 18, sv a 11])
  | .cvtF32Bf16 m d a => some (pk 0x1A000009 [mk m, sv d 18, sv a 11])
  | .cvtF32E4m3 m d a => some (pk 0x1A00000A [mk m, sv d 18, sv a 11])
  | .cvtF32E5m2 m d a => some (pk 0x1A00000B [mk m, sv d 18, sv a 11])
  | .cvtF32I64 m d a rm => some (pk 0x1A00000C [mk m, sv d 18, sv a 11, rm.code * 2 ^ 4])
  | .cvtI64F32 m d a rm => some (pk 0x1A00000D [mk m, sv d 18, sv a 11, rm.code * 2 ^ 4])
  | .pack6 m d a => some (pk 0x1A00000E [mk m, sv d 18, sv a 11])
  | .unpack6 m d a k => some (pk 0x1A00000F [mk m, sv d 18, sv a 11, sb k 4])
  | .fdig m d a => some (pk 0x1C000000 [mk m, sv d 18, sv a 11])
  | .fmean m d a => some (pk 0x1C000001 [mk m, sv d 18, sv a 11])
  | .sibget m d a n => some (pk 0x1C000002 [mk m, sv d 18, sv a 11, sv n 4])
  | .sibset m d a n => some (pk 0x1C000003 [mk m, sv d 18, sv a 11, sv n 4])
  | .krnd m d a w => some (pk 0x1C000004 [mk m, sv d 18, sv a 11, sv w 4])
  | .act m d a b => some (pk 0x1C000005 [mk m, sv d 18, sv a 11, sv b 4])
  | .mseaMax m d a b => some (pk 0x1C000006 [mk m, sv d 18, sv a 11, sv b 4])
  | .mseaAcc m d a b => some (pk 0x1C000007 [mk m, sv d 18, sv a 11, sv b 4])
  | .shfl m d a b mask => some (pk 0x1E000000 [mk m, sv d 18, sv a 11, sv b 4, sv mask 0])
  | .voteAny m d a mask => some (pk 0x20000700 [mk m, sv d 18, sv a 11, sv mask 4])
  | .voteAll m d a mask => some (pk 0x20000701 [mk m, sv d 18, sv a 11, sv mask 4])
  | .voteBallot m d a mask => some (pk 0x20000702 [mk m, sv d 18, sv a 11, sv mask 4])
  | .matchN32 m d a mask => some (pk 0x20000703 [mk m, sv d 18, sv a 11, sv mask 4])
  | .matchN64 m d a mask => some (pk 0x20000704 [mk m, sv d 18, sv a 11, sv mask 4])
  | .redOF32 m d a mask => some (pk 0x20000705 [mk m, sv d 18, sv a 11, sv mask 4])
  | .redAddN32 m d a mask => some (pk 0x20000706 [mk m, sv d 18, sv a 11, sv mask 4])
  | .redMinI32 m d a mask => some (pk 0x20000707 [mk m, sv d 18, sv a 11, sv mask 4])
  | .redMaxI32 m d a mask => some (pk 0x20000708 [mk m, sv d 18, sv a 11, sv mask 4])
  | .redMinN32 m d a mask => some (pk 0x20000709 [mk m, sv d 18, sv a 11, sv mask 4])
  | .redMaxN32 m d a mask => some (pk 0x2000070A [mk m, sv d 18, sv a 11, sv mask 4])
  | .vtos m d a b => some (pk 0x21C0070B [mk m, sv d 18, sv a 11, sv b 4])
  | .ldGN8 m d a imm => some (pk 0x22000000 [mk m, sv d 18, sv a 11, sv imm 0])
  | .ldGI8 m d a imm => some (pk 0x22000080 [mk m, sv d 18, sv a 11, sv imm 0])
  | .ldGN16 m d a imm => some (pk 0x22000100 [mk m, sv d 18, sv a 11, sv imm 0])
  | .ldGI16 m d a imm => some (pk 0x22000180 [mk m, sv d 18, sv a 11, sv imm 0])
  | .ldGN32 m d a imm => some (pk 0x22000200 [mk m, sv d 18, sv a 11, sv imm 0])
  | .ldGF32 m d a imm => some (pk 0x22000280 [mk m, sv d 18, sv a 11, sv imm 0])
  | .ldGF16 m d a imm => some (pk 0x22000300 [mk m, sv d 18, sv a 11, sv imm 0])
  | .ldGBf16 m d a imm => some (pk 0x22000380 [mk m, sv d 18, sv a 11, sv imm 0])
  | .ldGN64 m d a imm => some (pk 0x22000400 [mk m, sv d 18, sv a 11, sv imm 0])
  | .stGN8 m d a imm => some (pk 0x24000000 [mk m, sv d 18, sv a 11, sv imm 0])
  | .stGN16 m d a imm => some (pk 0x24000100 [mk m, sv d 18, sv a 11, sv imm 0])
  | .stGN32 m d a imm => some (pk 0x24000200 [mk m, sv d 18, sv a 11, sv imm 0])
  | .stGF32 m d a imm => some (pk 0x24000280 [mk m, sv d 18, sv a 11, sv imm 0])
  | .stGF16 m d a imm => some (pk 0x24000300 [mk m, sv d 18, sv a 11, sv imm 0])
  | .stGBf16 m d a imm => some (pk 0x24000380 [mk m, sv d 18, sv a 11, sv imm 0])
  | .stGN64 m d a imm => some (pk 0x24000400 [mk m, sv d 18, sv a 11, sv imm 0])
  | .ldSN8 m d a imm => some (pk 0x26000000 [mk m, sv d 18, sv a 11, sv imm 0])
  | .ldSI8 m d a imm => some (pk 0x26000080 [mk m, sv d 18, sv a 11, sv imm 0])
  | .ldSN16 m d a imm => some (pk 0x26000100 [mk m, sv d 18, sv a 11, sv imm 0])
  | .ldSI16 m d a imm => some (pk 0x26000180 [mk m, sv d 18, sv a 11, sv imm 0])
  | .ldSN32 m d a imm => some (pk 0x26000200 [mk m, sv d 18, sv a 11, sv imm 0])
  | .ldSF32 m d a imm => some (pk 0x26000280 [mk m, sv d 18, sv a 11, sv imm 0])
  | .ldSF16 m d a imm => some (pk 0x26000300 [mk m, sv d 18, sv a 11, sv imm 0])
  | .ldSBf16 m d a imm => some (pk 0x26000380 [mk m, sv d 18, sv a 11, sv imm 0])
  | .ldSN64 m d a imm => some (pk 0x26000400 [mk m, sv d 18, sv a 11, sv imm 0])
  | .stSN8 m d a imm => some (pk 0x28000000 [mk m, sv d 18, sv a 11, sv imm 0])
  | .stSN16 m d a imm => some (pk 0x28000100 [mk m, sv d 18, sv a 11, sv imm 0])
  | .stSN32 m d a imm => some (pk 0x28000200 [mk m, sv d 18, sv a 11, sv imm 0])
  | .stSF32 m d a imm => some (pk 0x28000280 [mk m, sv d 18, sv a 11, sv imm 0])
  | .stSF16 m d a imm => some (pk 0x28000300 [mk m, sv d 18, sv a 11, sv imm 0])
  | .stSBf16 m d a imm => some (pk 0x28000380 [mk m, sv d 18, sv a 11, sv imm 0])
  | .stSN64 m d a imm => some (pk 0x28000400 [mk m, sv d 18, sv a 11, sv imm 0])
  | .atomGAddN32 m d a b => some (pk 0x2A000000 [mk m, sv d 18, sv a 11, sv b 4])
  | .atomGAddN64 m d a b => some (pk 0x2A000001 [mk m, sv d 18, sv a 11, sv b 4])
  | .atomGAddF32 m d a b => some (pk 0x2A000002 [mk m, sv d 18, sv a 11, sv b 4])
  | .atomGMinI32 m d a b => some (pk 0x2A000003 [mk m, sv d 18, sv a 11, sv b 4])
  | .atomGMinN32 m d a b => some (pk 0x2A000004 [mk m, sv d 18, sv a 11, sv b 4])
  | .atomGMaxI32 m d a b => some (pk 0x2A000005 [mk m, sv d 18, sv a 11, sv b 4])
  | .atomGMaxN32 m d a b => some (pk 0x2A000006 [mk m, sv d 18, sv a 11, sv b 4])
  | .atomGAndB32 m d a b => some (pk 0x2A000007 [mk m, sv d 18, sv a 11, sv b 4])
  | .atomGOrB32 m d a b => some (pk 0x2A000008 [mk m, sv d 18, sv a 11, sv b 4])
  | .atomGXorB32 m d a b => some (pk 0x2A000009 [mk m, sv d 18, sv a 11, sv b 4])
  | .atomGExchN32 m d a b => some (pk 0x2A00000A [mk m, sv d 18, sv a 11, sv b 4])
  | .atomGExchN64 m d a b => some (pk 0x2A00000B [mk m, sv d 18, sv a 11, sv b 4])
  | .atomGCasN32 m d a b => some (pk 0x2A00000C [mk m, sv d 18, sv a 11, sv b 4])
  | .atomGCasN64 m d a b => some (pk 0x2A00000D [mk m, sv d 18, sv a 11, sv b 4])
  | .atomnGAddN32 m a b => some (pk 0x2C000000 [mk m, sv a 11, sv b 4])
  | .atomnGAddN64 m a b => some (pk 0x2C000001 [mk m, sv a 11, sv b 4])
  | .atomnGAddF32 m a b => some (pk 0x2C000002 [mk m, sv a 11, sv b 4])
  | .atomnGMinI32 m a b => some (pk 0x2C000003 [mk m, sv a 11, sv b 4])
  | .atomnGMinN32 m a b => some (pk 0x2C000004 [mk m, sv a 11, sv b 4])
  | .atomnGMaxI32 m a b => some (pk 0x2C000005 [mk m, sv a 11, sv b 4])
  | .atomnGMaxN32 m a b => some (pk 0x2C000006 [mk m, sv a 11, sv b 4])
  | .atomnGAndB32 m a b => some (pk 0x2C000007 [mk m, sv a 11, sv b 4])
  | .atomnGOrB32 m a b => some (pk 0x2C000008 [mk m, sv a 11, sv b 4])
  | .atomnGXorB32 m a b => some (pk 0x2C000009 [mk m, sv a 11, sv b 4])
  | .atomSAddN32 m d a b => some (pk 0x2E000000 [mk m, sv d 18, sv a 11, sv b 4])
  | .atomSAddN64 m d a b => some (pk 0x2E000001 [mk m, sv d 18, sv a 11, sv b 4])
  | .atomSAddF32 m d a b => some (pk 0x2E000002 [mk m, sv d 18, sv a 11, sv b 4])
  | .atomSMinI32 m d a b => some (pk 0x2E000003 [mk m, sv d 18, sv a 11, sv b 4])
  | .atomSMinN32 m d a b => some (pk 0x2E000004 [mk m, sv d 18, sv a 11, sv b 4])
  | .atomSMaxI32 m d a b => some (pk 0x2E000005 [mk m, sv d 18, sv a 11, sv b 4])
  | .atomSMaxN32 m d a b => some (pk 0x2E000006 [mk m, sv d 18, sv a 11, sv b 4])
  | .atomSAndB32 m d a b => some (pk 0x2E000007 [mk m, sv d 18, sv a 11, sv b 4])
  | .atomSOrB32 m d a b => some (pk 0x2E000008 [mk m, sv d 18, sv a 11, sv b 4])
  | .atomSXorB32 m d a b => some (pk 0x2E000009 [mk m, sv d 18, sv a 11, sv b 4])
  | .atomSExchN32 m d a b => some (pk 0x2E00000A [mk m, sv d 18, sv a 11, sv b 4])
  | .atomSExchN64 m d a b => some (pk 0x2E00000B [mk m, sv d 18, sv a 11, sv b 4])
  | .atomSCasN32 m d a b => some (pk 0x2E00000C [mk m, sv d 18, sv a 11, sv b 4])
  | .atomSCasN64 m d a b => some (pk 0x2E00000D [mk m, sv d 18, sv a 11, sv b 4])
  | .faddF32 m rm d a b => some (pk 0x30000000 [mk m, rm.code * 2 ^ 25, sv d 18, sv a 11, sv b 4])
  | .fsubF32 m rm d a b => some (pk 0x30000001 [mk m, rm.code * 2 ^ 25, sv d 18, sv a 11, sv b 4])
  | .fmulF32 m rm d a b => some (pk 0x30000002 [mk m, rm.code * 2 ^ 25, sv d 18, sv a 11, sv b 4])
  | .fdivF32 m rm d a b => some (pk 0x30000003 [mk m, rm.code * 2 ^ 25, sv d 18, sv a 11, sv b 4])
  | .fsqrtF32 m rm d a => some (pk 0x30000004 [mk m, rm.code * 2 ^ 25, sv d 18, sv a 11])
  | .fexpiF32 m rm d a b => some (pk 0x30000005 [mk m, rm.code * 2 ^ 25, sv d 18, sv a 11, sv b 4])
  | .ffmaF32 m rm d a b c => some (pk 0x40000000 [mk m, rm.code * 2 ^ 25, sv d 18, sv a 11, sv b 4, sv c 0])
  | .ffmsF32 m rm d a b c => some (pk 0x50000000 [mk m, rm.code * 2 ^ 25, sv d 18, sv a 11, sv b 4, sv c 0])
  | .fnmaF32 m rm d a b c => some (pk 0x60000000 [mk m, rm.code * 2 ^ 25, sv d 18, sv a 11, sv b 4, sv c 0])
  | .fnmsF32 m rm d a b c => some (pk 0x70000000 [mk m, rm.code * 2 ^ 25, sv d 18, sv a 11, sv b 4, sv c 0])
  | .ldD m d a => some (pk 0x3A000000 [mk m, sv d 18, sv a 11])
  | .stD m c a b => some (pk 0x3A000001 [mk m, sv c 18, sv a 11, sv b 4])
  | .dadd m a b => some (pk 0x3A000002 [mk m, sv a 11, sv b 4])
  | .dcls m c a => some (pk 0x3A000003 [mk m, sv c 18, sv a 11])
  | .armS m a b => some (pk 0x3A000004 [mk m, sv a 11, sv b 4])
  | .vpin m a => some (pk 0x3A000005 [mk m, sv a 11])
  | .vunpin m => some (pk 0x3A000006 [mk m])
  | .vread m d => some (pk 0x3A000007 [mk m, sv d 18])
  | .prefG m a => some (pk 0x3A000008 [mk m, sv a 11])
  | .tdesc m x y z orig base => some (pk 0x3C000000 [mk m, sv x 15, sv y 9, sv z 3, sb orig 1, sb base 0])
  | .mload m x y => some (pk 0x3C200000 [mk m, sv x 15, sv y 9])
  | .tturn m x y => some (pk 0x3C400000 [mk m, sv x 15, sv y 9])
  | .mma m x y z narrow clear => some (pk 0x3C600000 [mk m, sv x 15, sv y 9, sv z 3, sb narrow 1, sb clear 0])
  | .mmaSc m x y z narrow clear => some (pk 0x3C800000 [mk m, sv x 15, sv y 9, sv z 3, sb narrow 1, sb clear 0])
  | .mmaPn m x y z narrow clear => some (pk 0x3CA00000 [mk m, sv x 15, sv y 9, sv z 3, sb narrow 1, sb clear 0])
  | .mstore m x sat => some (pk 0x3CC00000 [mk m, sv x 15, sb sat 0])
  | .ecopy m x y z eng => some (pk 0x3E000000 [mk m, sv x 15, sv y 9, sv z 3, sv eng 0])
  | .egath m x y z => some (pk 0x3E200004 [mk m, sv x 15, sv y 9, sv z 3])
  | .escat m x y z => some (pk 0x3E400004 [mk m, sv x 15, sv y 9, sv z 3])
  | .ecoll m x y z eng => some (pk 0x3E600000 [mk m, sv x 15, sv y 9, sv z 3, sv eng 0])
  | .publish m x => some (pk 0x3E800000 [mk m, sv x 15])
  | .eseqMilepost m x eng => some (pk 0x3EA00000 [mk m, sv x 15, sv eng 0])
  | .eseqLast m x eng => some (pk 0x3EA00200 [mk m, sv x 15, sv eng 0])
  | .ewait m x eng => some (pk 0x3EC00000 [mk m, sv x 15, sv eng 0])
  | .optstep m x y => some (pk 0x3EE00004 [mk m, sv x 15, sv y 9])
  | .dsweep m x eng => some (pk 0x3F000000 [mk m, sv x 15, sv eng 0])
  | .barrierArrive _ => none
  | .treeBarrierPhaseComplete _ _ _ => none
  | .waveSlotFree _ => none
  | .resultArrival _ _ => none
  | .storePerformed _ _ => none
  | .atomicPerformed _ _ => none
  | .writeMadeVisible _ _ => none
  | .xacqGrant _ _ => none
  | .deadlockTrap _ => none
  | .vpinPin _ => none
  | .vunpinRelease _ => none
  | .engineCommandBegin _ _ => none
  | .arrive _ _ _ => none
  | .pointsThrow _ _ => none
  | .milepostWrite _ _ => none
  | .followOnIssue _ _ => none
  | .matrixQueueStart _ _ => none
  | .matrixInstructionComplete _ _ => none
  | .activationTableSwitch _ _ _ => none
  | .collectiveExecute _ _ _ => none
  | .publishSwitch _ _ => none
  | .trapEntry _ => none
  | .saveLimitExpiry _ => none
  | .preemptionHandlerStart _ => none
  | .waveLeavesCore _ => none
  | .unitResume _ => none
  | .resumeRelease _ => none
  | .codeSwapRetire _ _ => none
  | .sampleTake _ => none
  | .junctionClaim _ _ => none
  | .stealRequest _ _ => none
  | .stealReply _ _ _ => none
  | .unitPlacement _ _ => none
  | .dispatch _ _ => none
  | .priorityAging _ => none
  | .preemptionDecision _ => none
  | .timeLimitExpiry _ => none
  | .launchComplete _ => none
  | .serialisedReexecutionEnd _ => none
  | .tlbFill _ _ _ => none
  | .invalidateDone _ => none
  | .heldFaultOpen _ => none
  | .shardedOwnerAccess _ _ _ _ _ _ => none
  | .shardedOwnerAnswer _ _ _ _ _ => none
  | .lineEvictionError _ => none
  | .scrubPass _ _ _ _ => none
  | .predictiveWindow _ _ => none
  | .doorbellWrite _ _ _ _ => none
  | .registerWrite _ _ _ => none
  | .launch _ _ => none
  | .contextCreate _ _ => none
  | .contextEnd _ _ => none
  | .preempt _ _ => none
  | .invalidate _ _ => none
  | .faultResolve _ _ => none
  | .codeSwap _ _ => none
  | .decayTableReload _ _ => none
  | .rangeCreate _ _ => none
  | .rangeDestroy _ _ => none
  | .shardSet _ _ => none
  | .collectiveGroup _ _ => none
  | .partition _ _ => none
  | .selfTest _ _ => none
  | .selfTestDone _ => none
  | .trunkConfigure _ _ => none
  | .attest _ _ => none
  | .powerLimit _ _ => none
  | .errorRecord _ _ => none
  | .predictiveThresholds _ _ => none
  | .trunkFlitReceive _ _ _ _ _ => none
  | .linkDown _ => none
  | .exchangeTick => none
  | .tickLoss => none
  | .coldReset _ => none
  | .deviceReset => none
  | .partitionReset _ => none
  | .wipeComplete => none
  | .thermalRequest => none
  | .thermalWithdraw => none
  | .lcbufWrite _ => none
  | .lcApply => none
  | .lcDiscard => none
  | .clockLower => none
  | .clockRaise => none
  | .linkRetrain _ _ => none
  | .pcieAtomicop _ _ _ _ _ => none
  | .instructionFetch _ _ => none

end Sys2Proof
end

