-- ==== Sys2Proof/Machine/Slots.lean ====
section
/-! DEFINITION. What an MM or EN word waits for at issue: dependency slots (05 R177, 09 R324), the order of
interlocked mode (09 R326), a full consist (09 R335), and, for the words that read memory at issue, the wave's
own stores. -/

namespace Sys2Proof.Machine

/-- The consist of a context that an engine number names on a die: engines 0 to 4 of the die, then the two collective
engines (12 R367, 09 R337). -/
def conOf (die eng : Nat) : Nat := if eng < 5 then 5 * die + eng else 15 + eng

/-- The consist, when the context may use the engine (12 R367, 14 R426). -/
def consistOf (s : State) (cid die eng : Nat) : Option Consist :=
  match mget s.contexts cid with
  | none => none
  | some x =>
    match mget x.consists (conOf die eng), mget s.parts x.part with
    | some q, some p => if q.log2n != 0 && tst p.engs eng then some q else none
    | _, _ => none

/-- The consist's ring is full (09 R335). -/
def ringFull (q : Consist) : Bool := decide (2 ^ q.log2n ≤ q.cmds.length)

/-- The word uses dependency slots (05 R177). -/
def usesSlots (n : Nat) : Bool :=
  bitsAt n 25 6 == 0x1E || (bitsAt n 25 6 == 0x1F && (decide (bitsAt n 21 4 ≤ 3) || bitsAt n 21 4 == 7 || bitsAt n 21 4 == 8))

/-- Slots named by WMASK of a `hint` are clear (05 R177). -/
def slotsClear (w : Wave) (hint : Option Nat) : Bool :=
  match hint with
  | none => true
  | some h => (span 0 16).all (fun n => !tst h (5 + n) || lget 0 w.slots n == 0)

/-- The slot that a `hint` sets is not at 15 (09 R324). -/
def slotRoom (w : Wave) (hint : Nat) : Bool := !tst hint 4 || decide (lget 0 w.slots (hint % 16) < 15)

/-- What an MM or EN word reads and writes, as bits: 1 turntable, 2 gantry, 4 accumulator, 8 memory (09 R326). Every
one reads its records from memory, or, as PUBLISH does, switches what memory reads (04 R170). -/
def resources (n : Nat) : Nat × Nat :=
  if bitsAt n 25 6 == 0x1E then
    match bitsAt n 21 4 with
    | 0 => (8, 8)
    | 1 => (8, 2)
    | 2 => (8, 1)
    | 6 => (12, 8)
    | _ => (15, 4)
  else (8, 8)

/-- One of two words writes what the other reads or writes. -/
def dependsOn (a b : Nat) : Bool :=
  let x := resources a
  let y := resources b
  (x.2 &&& (y.1 ||| y.2)) != 0 || (y.2 &&& (x.1 ||| x.2)) != 0

/-- The command was issued by a wave that held a thread that this wave holds. -/
def Cmd.ofWave (c : Cmd) (w : Wave) : Bool :=
  c.unit == w.unit && w.threads.any (fun t => decide (c.lidx ≤ t.lidx) && decide (t.lidx < c.lidx + c.grant))

/-- Words of the wave's slot-using instructions that are not complete, follow-ons included. -/
def inFlight (s : State) (w : Wave) : List Nat :=
  let core := getC s w.core
  let words (c : Cmd) : List Nat := if c.ofWave w then c.word :: (match c.follow with
    | some v => if c.sent then [] else [v % 2 ^ 32]
    | none => []) else []
  let cons := ((mget s.contexts w.cid).map (fun x => x.consists.flatMap (fun q => q.2.cmds))).getD []
  ((w.accs ++ w.held.flatMap (·.accs)).filterMap (fun a => match a.op with
    | .tdesc _ => if a.performed then none else some a.word
    | _ => none)) ++
    (core.loadQ ++ core.compQ ++ core.storeQ ++ cons).flatMap words

/-- Interlocked mode orders the word after what it depends on (09 R326). -/
def interlockedMM (s : State) (w : Wave) (n : Nat) : Bool :=
  w.ilk && (bitsAt n 25 6 == 0x1E || usesSlots n || (bitsAt n 25 6 == 0x1F && bitsAt n 21 4 == 4)) && (inFlight s w).any (dependsOn n)

/-- What the owner of a sharded page has answered to a read before issue, if it has (14 R435). -/
def farData (w : Wave) (va kind : Nat) : Option Nat := (w.reads.find? (fun r => r.va == va && r.kind == kind)).bind (·.data)

/-- The answer is used. -/
def Wave.dropRead (w : Wave) (va kind : Nat) : Wave := { w with reads := w.reads.filter (fun r => !(r.va == va && r.kind == kind)) }

/-- Threads of a wave ask the owner of a sharded page and wait, standing where they are (14 R435; 06 R219; 09 R323, R339). -/
def askFar (s : State) (k va kind : Nat) (tids : List Nat) : State :=
  let code := if kind == 0 then 7 else farCode s
  modW s k fun w =>
    let same (r : FarRead) : Bool := r.va == va && r.kind == kind
    let w := w.onTids tids (fun _ t => { t with wake := farWake, wakeCode := code })
    if w.reads.any same then { w with reads := w.reads.map (fun r => if same r then { r with tids := r.tids ++ tids } else r) }
    else { w with reads := w.reads ++ [⟨va, kind, tids, none⟩] }

/-- S(SZ) of an MM or EN word. -/
def wordSZ (w : Wave) (n : Nat) : Nat := (zget 0#64 w.scal (bitsAt n 3 6)).toNat

/-- The follow-on record of an `ecopy` as its issue would read it (09 R339). -/
def peekFollow (s : State) (w : Wave) (n : Nat) : Option Nat :=
  let va := wordSZ w n
  if bitsAt n 25 6 != 0x1F || bitsAt n 21 4 != 0 || va == 0 then none
  else
    match checkGlobal s w .read .scalar 32 32 va with
    | .ok pl => if isRemote pl then farData w va 1 else some (lget 0 (readPlanes s (dieOf w.core) ⟨0, va, pl, []⟩ 32) 0)
    | _ => none

/-- The slots that a word raises have room for it: the one of its `hint`, and the one of its follow-on, which may be the same
(09 R324, R339). -/
def followRoom (s : State) (w : Wave) (hint : Option Nat) (n : Nat) : Bool :=
  let h := hint.getD 0
  slotRoom w h && match peekFollow s w n with
    | none => true
    | some v =>
      let f := bitsAt v 32 32
      slotRoom w f && !(tst h 4 && tst f 4 && h % 16 == f % 16 && decide (14 ≤ lget 0 w.slots (h % 16)))

/-- The word reads memory at issue, so that the wave's earlier writes are to be performed first (04 R154). -/
def readsAtIssue (w : Wave) (n : Nat) : Bool :=
  (bitsAt n 25 6 == 0x1E && bitsAt n 21 4 == 0) || (bitsAt n 25 6 == 0x1F && bitsAt n 21 4 == 0 && wordSZ w n != 0)

/-- Some write of the wave is not performed yet. -/
def Wave.writing (w : Wave) : Bool :=
  w.accs.any fun a => !a.performed && match a.op with
    | .load _ => false
    | .ldD => false
    | .result _ => false
    | .publish => false
    | _ => true

/-- An MM or EN word waits at issue. -/
def engineWaits (s : State) (w : Wave) (hint : Option Nat) (n : Nat) : Bool :=
  if bitsAt n 25 6 != 0x1E && bitsAt n 25 6 != 0x1F then false
  else
    let full := bitsAt n 25 6 == 0x1F && usesSlots n && ((consistOf s w.cid (dieOf w.core) (n % 8)).map ringFull).getD false
    let slots := usesSlots n && !w.ilk &&
      (!slotsClear w hint || !followRoom s w hint n)
    full || slots || interlockedMM s w n || (readsAtIssue w n && w.writing)

end Sys2Proof.Machine
end

