-- ==== Sys2Proof/Machine/Issue.lean ====
section
/-! DEFINITION. Fetching a word (05 R173; 06 R219; 14 R420), forming an issue group (01 R28, R30, R48),
what holds a group back and which wave of a quadrant issues (13 R404). -/

namespace Sys2Proof.Machine

/-- Major opcode of a word (05 R173). -/
def wOp (w : Nat) : Nat := bitsAt w 25 6
/-- Minor opcodes by format (05 R174). -/
def wFv (w : Nat) : Nat := w % 16
def wFs (w : Nat) : Nat := bitsAt w 8 5
def wFc (w : Nat) : Nat := bitsAt w 21 4

/-- What a fetch gives. -/
inductive Fetched where
  | word (w : Nat)
  | trap
  /-- the word is with the owner of its sharded page (14 R435) -/
  | away
  | fault (reason : Nat)
  | viol (pa : Nat)
  deriving DecidableEq, Repr

/-- Four bytes of code: what a context writes as data is fetched only after its next code swap (04 R144). -/
def oldCode (s : State) (cid key : Nat) (now : List Byte) : Nat :=
  let old := ((mget s.contexts cid).map (·.stale)).getD []
  ofBytes ((enumFrom key now).map (fun e => (mget old e.1).getD e.2))

/-- Code in device memory, as a die reads it. -/
def codeWord (s : State) (cid d pa : Nat) : Nat := oldCode s cid pa (dieBytes s d pa 4)

/-- The word of code at a place. -/
def readWord (s : State) (cid d : Nat) (pl : Place) : Option Nat :=
  match bindPlace s pl with
  | .single pa => some (codeWord s cid d pa)
  | .md32 pa => some (codeWord s cid d pa)
  | .triple pa _ => some (codeWord s cid d pa)
  | .host a => some (oldCode s cid (hostKey a) (getBytes s.hostMem a 4))
  | _ => none

/-- Fetch the word at an address for a wave (05 R173, 06 R219, 12 R364, R386). An address in the register aperture is never walked (14 R408)
and 08 R288 gives its error for accesses of an execution alone: the fetch is a fault of reason 1, which forms a siding (DESIGN CHOICE: log
86). -/
def fetch (s : State) (w : Wave) (pc : W64) : Fetched :=
  let va := pc.toNat
  if va % 4 != 0 || decide (2 ^ 56 ≤ va) then .trap
  else if unwalked s w.cid va then .fault 1
  else
    match translate s w.cid (tlbOf s w) w.priv.isSome .exec va with
    | .viol pa => .viol pa
    | .fault r =>
      let gone := ((mget s.contexts w.cid).map (fun c => c.retired.contains (va / 32768))).getD false
      if r == 3 || (r == 1 && gone) then .trap else .fault r
    | .page p =>
      let part := partOf s w.cid
      let pl := placeOn s w.cid part none va p
      if !placeOk s part false 4 pl then .viol (p.base + p.off)
      else
        match readWord s w.cid (dieOf w.core) pl with
        | some n => .word n
        | none =>
          if !isRemote pl then .fault 5
          else
            match farData w va 0 with
            | some v => .word (v % 2 ^ 32)
            | none => .away

/-- The fetch at an address fails for threads standing there: a trap, a siding, or a frozen wave; in a
handler a handler fault (06 R219, 12 R375, 14 R420, R427). -/
def fetchFails (s : State) (k : Nat) (pc : W64) (tids : List Nat) (f : Fetched) : State :=
  match mget s.waves k with
  | none => s
  | some w =>
    match f with
    | .word _ => s
    | .away => askFar s k pc.toNat 0 tids
    | .trap => meetCause s k ⟨cFetch, pc, 0#64, 0#32, 0, maskOf tids⟩
    | .viol pa => freezeWave s k pc pc.toNat pa
    | .fault r =>
      if w.priv.isSome then handlerFault s k (noCause s)
      else formSiding s k (kExec + kLane) (tids.map (fun n => (n, pc.toNat, r))) tids

/-- The word is wave-wide (01 R30; 06 R203; 09 R316). -/
def waveWide (n : Nat) : Bool :=
  let op := wOp n
  op == 0x03 || op == 0x04 || op == 0x0F || op == 0x10 || (op == 0x05 && wFc n == 12) || (op == 0x06 && wFc n == 6) ||
    (decide (0x1E ≤ op) && decide (op ≤ 0x1F))

/-- Load, store and engine counts that the word adds (04 R153). -/
def countNeeds (n : Nat) : Nat × Nat × Nat :=
  let op := wOp n
  if op == 0x11 || op == 0x13 then (1, 0, 0)
  else if op == 0x12 || op == 0x14 || op == 0x16 then (0, 1, 0)
  else if op == 0x15 || op == 0x17 then (1, 1, 0)
  else if op == 0x1D then
    if wFv n == 0 then (1, 0, 0) else if decide (wFv n ≤ 4) then (0, 1, 0) else (0, 0, 0)
  else if op == 0x03 then
    let f := wFs n
    if f == 21 || f == 22 || f == 25 then (1, 0, 0) else if f == 23 || f == 24 || f == 26 then (0, 1, 0) else (0, 0, 0)
  else if op == 0x04 then
    if wFs n == 9 then (0, if n % 128 == 2 then 2 else 4, 0)
    else if wFs n == 10 then (if n % 128 == 0 then 4 else 0, 1, 0)
    else (0, 0, 0)
  else if op == 0x1E then
    let f := wFc n
    if f == 0 then (1, 1, 0) else if f == 1 || f == 2 || f == 6 then (0, 0, 1) else (0, 0, 0)
  else if op == 0x1F then (if wFc n == 5 || wFc n == 6 then (0, 0, 0) else (0, 0, 1))
  else (0, 0, 0)

/-- The counters can take what the word adds (04 R153). -/
def countersFree (w : Wave) (n : Nat) : Bool :=
  let c := countNeeds n
  decide (w.ldq.length + c.1 ≤ 63) && decide (w.stq.length + c.2.1 ≤ 63) && decide (w.enq.length + c.2.2 ≤ 63)

/-- Registers that a word may read or write, as keys of owed registers (02 R85): with the mask of a `shfl` and the second pair
of a `cas.n64`. -/
def wordKeys (n : Nat) : List Nat :=
  let op := wOp n
  let spec (p : Nat) : List Nat := if 0x70 ≤ p then [1024 + (p - 0x70)] else [4 * p, 4 * (p + 1)]
  let scal (lo : Nat) : List Nat := [1024 + bitsAt n lo 6]
  if op == 0x03 || op == 0x04 then scal 19 ++ scal 13 ++ scal 0
  else if op == 0x1E || op == 0x1F then scal 15 ++ scal 9 ++ scal 3
  else if op == 0x05 then
    spec (bitsAt n 14 7) ++ [4 * 0x66, 4 * 0x67]
  else if op == 0x06 then scal 15 ++ scal 9
  else if decide (0x07 ≤ op) then
    spec (bitsAt n 18 7) ++ spec (bitsAt n 11 7) ++ spec (bitsAt n 4 7) ++ spec (0x60 + n % 16) ++
      (if op == 0x0F then [1024 + n % 16]
       else if decide (0x15 ≤ op) && decide (op ≤ 0x17) && n % 16 == 13 then spec (bitsAt n 4 7 + 2)
       else [])
  else []

/-- A group (01 R28): its threads in scan order, their address and pending HN words. -/
structure Group where
  tids : List Nat
  addr : W64
  first : W64
  hint : Option Nat
  wimm : Option Nat
  word : Fetched
  deriving DecidableEq, Repr

/-- Threads in scan order from the wave's pointer (01 R28). -/
def Wave.scan (w : Wave) : List (Nat × Thread) :=
  let l := w.numbered
  l.drop w.ptr ++ l.take w.ptr

/-- The scan of deterministic mode passes over these threads (01 R48). -/
def Thread.passed (t : Thread) : Bool := t.st == .atRcb || t.st == .atBarrier || t.st == .exited

/-- The threads that deterministic order makes a group wait for, or normal order takes (01 R28, R48). DESIGN CHOICE (log 52): R48
says nothing of handlers; at privileged level the rule of normal mode forms the groups. -/
def Wave.counted (w : Wave) (t : Thread) : Bool := if w.det && w.priv.isNone then !t.passed else t.st == .ready

/-- The same address and the same pending HN words (log 8). -/
def Thread.like (a b : Thread) : Bool := a.pc == b.pc && a.hint == b.hint && a.wimm == b.wimm

/-- The group of a thread found first (01 R28, R30, R48). -/
def groupAt (s : State) (w : Wave) (t : Thread) : Option Group :=
  if t.st != .ready then none
  else
    let word := fetch s w t.pc
    let wide := match word with
      | .word n => waveWide n
      | _ => false
    let same := w.scan.filter (fun p => w.counted p.2 && t.like p.2)
    let same := if wide && w.priv.isNone then same.filter (fun p => p.2.cohort == t.cohort) else same
    let taken := if wide then same else same.take w.limit
    if taken.any (fun p => p.2.st != .ready) then none
    else some ⟨taken.map (·.1), t.pc, t.stand, t.hint, t.wimm, word⟩

/-- Once these threads are packed every other Ready thread can still be packed within 64 selections, those that wait longest first (01
R46). -/
def Wave.inBound (w : Wave) (tids : List Nat) : Bool :=
  let rest := (w.numbered.filter (fun p => p.2.st == .ready && !tids.contains p.1)).map (fun p => p.2.missed)
  rest.all (fun a => decide ((rest.filter (fun b => decide (a ≤ b))).length + a < 64))

/-- The Ready thread that has waited longest, the first in scan order of several. -/
def Wave.longest (w : Wave) : Option Thread :=
  (w.scan.filter (fun p => p.2.st == .ready)).foldl (fun b p => match b with
    | none => some p.2
    | some t => if t.missed < p.2.missed then some p.2 else b) none

/-- The group that a wave would issue, if it can form one (01 R28, R30, R48): that of the thread found first or, where a Ready thread
would then wait for more than 64 selections in normal mode, that of the one that has waited longest (01 R46). DEDUCED (log 48). -/
def formGroup (s : State) (w : Wave) : Option Group :=
  (w.scan.find? (fun p => w.counted p.2)).bind fun p =>
    (groupAt s w p.2).bind fun g =>
      if (w.det && w.priv.isNone) || w.inBound g.tids then some g else w.longest.bind (groupAt s w)

/-- What an interlock delays (02 R85): a thread of the group is owed a register that the word names, or any thread of the wave a
scalar register. -/
def interlocked (w : Wave) (g : Group) (n : Nat) : Bool :=
  let ks := wordKeys n
  let scal := ks.filter (fun k => decide (1024 ≤ k))
  w.ilk && (g.tids.any (fun i => ((w.thread i).map (fun t => t.owed.any ks.contains)).getD false) ||
    w.threads.any (fun t => t.owed.any scal.contains))

/-- A rule holds the group back (13 R404). -/
def heldBack (s : State) (w : Wave) (g : Group) : Bool :=
  g.tids.any (fun i => ((w.thread i).map (fun t => decide (s.cycle < t.wake))).getD false) ||
    match g.word with
    | .word n => !countersFree w n || engineWaits s w g.hint n || interlocked w g n
    | _ => false

/-- A pending fifth siding keeps the wave from issuing until one of the first four is replayed or cancelled; a handler issues
again when one of those is served, which the return will apply (01 R35; 12 R371). DESIGN CHOICE (log 61). -/
def Wave.crowded (w : Wave) : Bool :=
  w.sidings.any (fun f => f.num == 4) && !(w.priv.isSome && w.sidings.any (fun f => f.num != 4 && f.over))

/-- The wave waits as a whole for accesses of its own: at a barrier arrival, VPIN or VUNPIN (06 R229; 08 R308, R310). -/
def Wave.pausing (w : Wave) : Bool :=
  w.threads.any fun t => match t.hold with
    | .arrive _ _ _ _ => true
    | .vpin _ => true
    | .vunpin => true
    | _ => false

/-- The wave as a whole issues nothing: parked, frozen, a fifth siding, a trap to take, a pre-emption that has
stopped it (01 R35; 02 R83; 12 R371, R380; 14 R427). -/
def Wave.stopped (w : Wave) : Bool :=
  w.parked || w.frozen || w.crowded || (w.priv.isNone && !w.causes.isEmpty) || w.pausing ||
    (match w.pre with
      | .none => false
      | .requested => w.priv.isNone
      | _ => w.priv.isNone)

/-- A pre-empted wave goes on only to finish an atomic or arming that part of its threads have issued (02
R86): the threads of the group stand at a word whose section others have passed. -/
def partIssued (w : Wave) (g : Group) : Bool :=
  let own : Bool := match g.word with
    | .word n => wOp n == 0x15 || wOp n == 0x16 || wOp n == 0x17 || (wOp n == 0x1D && wFv n == 4)
    | _ => false
  own && w.threads.any (fun t => t.live && t.sec.implicit && t.sec.entry == g.addr + 4)

/-- The first group in scan order that an atomic or arming has been issued for in part (02 R86). -/
def leftGroup (s : State) (w : Wave) : Option Group :=
  (w.scan.filter (fun p => w.counted p.2)).findSome? fun p => (groupAt s w p.2).bind (fun g => if partIssued w g then some g else none)

/-- The wave is eligible in this cycle (13 R404): its group, if so. A wave whose pre-emption is requested issues what it has begun, and
nothing else (02 R86; 12 R380). -/
def eligible (s : State) (_k : Nat) (w : Wave) : Option Group :=
  let g :=
    if !runsNow s w then none
    else if !w.stopped then formGroup s w
    else if w.pre == .requested && !{ w with pre := .none }.stopped then leftGroup s w
    else none
  g.bind (fun g => if heldBack s w g then none else some g)

/-- Waves of a quadrant that are eligible. -/
def ableOn (s : State) (core quad : Nat) : List (Nat × Wave × Group) :=
  (s.waves.filter (fun e => e.2.core == core && e.2.slot % 4 == quad)).filterMap fun e =>
    (eligible s e.1 e.2).map (fun g => (e.1, e.2, g))

/-- A wave that executed `yield` is passed over in its quadrant's next selection, where another wave of its priority there has a Ready
thread (06 R224, which 00 R13 puts before 13 R404). DEDUCED (log 70). -/
def givesWay (s : State) (w : Wave) : Bool :=
  w.yielded && s.waves.any (fun e => e.2.core == w.core && e.2.slot % 4 == w.slot % 4 && e.2.slot != w.slot && e.2.prio == w.prio &&
    e.2.threads.any (·.st == .ready))

/-- Waves of a quadrant among which it chooses. -/
def candidates (s : State) (core quad : Nat) : List (Nat × Wave × Group) := (ableOn s core quad).filter (fun c => !givesWay s c.2.1)

/-- Cycles for which a wave has been eligible. -/
def waited (s : State) (w : Wave) : Nat := s.cycle - w.eligSince.getD s.cycle

/-- `a` goes before `b` by the rules of R404; equal candidates keep the order of their slots. -/
def goesFirst (s : State) (a b : Wave) : Bool :=
  let la := decide (1024 ≤ waited s a)
  let lb := decide (1024 ≤ waited s b)
  if (la || lb) && !(la && lb && waited s a == waited s b) then (if la && lb then decide (waited s b < waited s a) else la)
  else if a.prio != b.prio then decide (b.prio < a.prio)
  else decide (waited s b ≤ waited s a)

/-- The best of the candidates, in ascending slot. -/
def bestOf (s : State) : List (Nat × Wave × Group) → Option (Nat × Wave × Group)
  | [] => none
  | c :: l =>
    match bestOf s l with
    | none => some c
    | some d => if goesFirst s c.2.1 d.2.1 then some c else some d

/-- The wave that the quadrant issues now, if any (13 R404); none after a fatal entry (15 R451). -/
def selected (s : State) (core quad : Nat) : Option (Nat × Wave × Group) :=
  if s.mgmt.fatal || decide (s.cycle < zget 0 (getC s core).busy quad) then none else bestOf s (candidates s core quad)

/-- The word of the group that a quadrant would issue is not fetched yet: its threads try again in the next cycle (13 R404; 11
R362). -/
def missFetch (s : State) (core quad : Nat) : State :=
  match selected s core quad with
  | none => s
  | some (k, _, g) => modW s k fun w => w.onTids g.tids (fun _ t => { t with wake := max t.wake (s.cycle + 1), wakeCode := 7 })

/-- The quadrant once every group has given way whose word is with another device, as often as `n` waves may do so (14 R435). -/
def yieldAway (core quad : Nat) : Nat → State → State
  | 0, s => s
  | n + 1, s =>
    match selected s core quad with
    | some (k, _, g) => if g.word = .away then yieldAway core quad n (askFar s k g.addr.toNat 0 g.tids) else s
    | none => s

/-- The rest of the cycle as a quadrant's selection finds it: after the words that its agenda says are not fetched in this cycle. -/
def thisCycle (s : State) (core quad : Nat) : State :=
  let s := ((s.agenda.takeWhile (· != .tick)).filter (· == .miss core quad)).foldl (fun s _ => missFetch s core quad) s
  yieldAway core quad 8 s

/-- What a step does. -/
inductive Pick where
  | run (i : Instr) (s : State)
  | idle (s : State)

/-- What a selection of its wave does to a thread's count (01 R46). -/
def Thread.pick (t : Thread) (packed : Bool) : Thread := { t with missed := if packed || t.st != .ready then 0 else t.missed + 1 }

/-- The pointer, eligibility and occupancy after a selection (01 R28, R30, R46; 13 R404; 06 R224). The first wave of a deterministic
launch that issues on a core becomes its running coroutine (01 R47). -/
def afterSelect (s : State) (k : Nat) (w : Wave) (g : Group) (wide : Bool) : State :=
  let last := lget 0 g.tids (g.tids.length - 1)
  let threads := w.threads.mapIdx (fun n t => t.pick (g.tids.contains n))
  let s := setW s k { w with threads := threads, ptr := (last + 1) % w.grant, eligSince := some (s.cycle + 1), yielded := false }
  let s : State :=
    { s with waves := s.waves.map (fun e =>
        if e.2.core == w.core && e.2.slot % 4 == w.slot % 4 then (e.1, { e.2 with yielded := false }) else e) }
  let cycles := if wide then cdiv g.tids.length w.limit else 1
  modC s w.core (fun c =>
    { c with
      busy := mset c.busy (w.slot % 4) (s.cycle + cycles), last := mset c.last (w.slot % 4) (k, g.tids),
      running := if w.det && w.priv.isNone && (mget c.running w.launch).isNone then mset c.running w.launch (gtid0 s w, false)
        else c.running })

/-- Ascending order of a list of tids. -/
def ascending (n : Nat) (l : List Nat) : List Nat := (span 0 n).filter l.contains

/-- The quadrant issues: the decoded word is to run, or its fetch or decoding fails. -/
noncomputable def issuePick (s : State) (core quad : Nat) : Pick :=
  match selected s core quad with
  | none => .idle s
  | some (k, w, g) =>
    let tids := ascending w.threads.length g.tids
    match g.word with
    | .word n =>
      let s := afterSelect s k (w.dropRead g.addr.toNat 0) g (waveWide n)
      let s : State := { s with cur := ⟨k, g.addr, g.first, tids, n, g.hint, g.wimm⟩ }
      match decode n with
      | .ok i => .run i s
      | .error _ => .idle (settled (illegalAt s k g.addr n tids) k)
    | .away => .idle (askFar s k g.addr.toNat 0 tids)
    | f => .idle (settled (fetchFails (afterSelect s k w g false) k g.addr tids f) k)

end Sys2Proof.Machine
end

