-- ==== Sys2Proof/Machine/WaveEvents.lean ====
section
/-! DEFINITION. Steps that the device takes for waves by itself: barrier arrivals and phases, slots freed,
register requests granted, the deadlock trap, pins, samples, traps and fetches (01 R37, R38; 02 R69, R71;
06 R221, R244; 08 R308, R310; 12 R371, R375). -/

namespace Sys2Proof.Machine

/-- BARRIER_ARRIVE (06 R229): the arrivals count once every earlier access is performed; waiters of phases completed in an
earlier cycle are released together (11 R362). -/
def execBarrierArrive (wave : Nat) (s : State) : Out :=
  let t := countArrivals s wave
  let u := ((mget t.waves wave).map (·.unit)).getD 0
  .next (nextFree (concludeAll t (wave :: (unitWaves t u).filter (· != wave))))

/-- Threads of a unit that have exited, by lidx. -/
def exitedLidx (s : State) (u : Nat) (unit : LUnit) : List Nat :=
  unit.gone.map (·.1) ++
    s.waves.flatMap (fun e => if e.2.unit == u then (e.2.threads.filter (fun t => !t.live)).map (·.lidx) else [])

/-- Participants of a tree barrier that have exited, by gtid: those of units whose ordinals lie in the tier
unit. -/
def exitedGtids (s : State) (l : Nat) (lo n e2 : Nat) : List Nat :=
  s.units.flatMap fun e =>
    if e.2.launch == l && decide (lo ≤ e.2.ord * e2) && decide (e.2.ord * e2 < lo + n) then
      (if e.2.st == .done then span (e.2.ord * e2) e2 else (exitedLidx s e.1 e.2).map (fun i => e.2.ord * e2 + i))
    else []

/-- Every non-exited participant has arrived in the current phase (01 R38); of participants on other devices it is known from
what their devices sent over Trunk (log 13). -/
def treeFull (s : State) (n : Nat) (l : Launch) (tier unit : Nat) (b : TreeBar) : Bool :=
  let total := tierThreads l tier
  let lo := unit * total
  let e2 := lget 64 l.ext 0
  let out := (exitedGtids s n lo total e2 ++ l.farGone.filter (fun g => decide (lo ≤ g) && decide (g < lo + total))).eraseDups
  let here := b.arrived.filter (fun e => decide (lo ≤ e.1) && decide (e.1 < lo + total) && e.2 != 0 && !out.contains e.1)
  decide (total ≤ here.length + out.length) && decide (out.length < total)

/-- Writes that a phase orders are visible at its scope: those of every die on which a wave has arrived, though it may have ended or left
its core since, and those of the dies of the launch's waves (01 R39; 04 R157). -/
def scopeShown (s : State) (n : Nat) (l : Launch) (tier : Nat) (b : TreeBar) : Bool :=
  lget 0 l.tiers (tier - 2) / 4 % 4 < 2 ||
    (b.dies.all (allShown s) && s.waves.all (fun e => e.2.launch != n || allShown s (dieOf e.2.core)))

/-- TREE_BARRIER_PHASE_COMPLETE (01 R38): the tier unit's phase completes in a cycle after the last arrival, and its waiters are
released (11 R362). -/
def treePhase (s : State) (n plat unit : Nat) : State :=
  match mget s.launches n with
  | none => s
  | some l =>
    match platTier l plat with
    | none => s
    | some tier =>
      let key := plat + 8 * unit
      match mget l.trees key with
      | none => s
      | some b =>
        if !treeFull s n l tier unit b || !scopeShown s n l tier b || s.cycle == b.since then s
        else
          let left := b.arrived.filterMap (fun e => if e.2 ≤ 1 then none else some (e.1, e.2 - 1))
          let b : TreeBar := ⟨b.phase + 1, left, b.since, if left.isEmpty then [] else b.dies⟩
          let s := modL s n (fun l => { l with trees := mset l.trees key b })
          concludeAll s (launchWaves s n)

/-- TREE_BARRIER_PHASE_COMPLETE. -/
def execTreeBarrierPhaseComplete (launch plat unit : Nat) (s : State) : Out := .next (nextFree (treePhase s launch plat unit))

/-- An ended wave leaves its slot: its threads' digests stay with the unit. -/
def removeWave (s : State) (k : Nat) : State :=
  match mget s.waves k with
  | none => s
  | some w =>
    let s : State := { s with waves := mdel s.waves k, binds := mmod s.binds k (fun b => { b with state := 0 }) }
    let s := modU s w.unit (fun u => { u with gone := w.threads.foldl (fun m t => mset m t.lidx t.digest) u.gone })
    let s := finishUnit s w.unit
    if w.det then settleDet s w.core w.launch else s

/-- WAVE_SLOT_FREE (06 R221): once the wave's counters are 0. -/
def waveSlotFree (s : State) (k : Nat) : State :=
  match mget s.waves k with
  | none => s
  | some w =>
    if w.threads.any (·.live) || !w.ldq.isEmpty || !w.stq.isEmpty || !w.enq.isEmpty then s
    else removeWave s k

/-- WAVE_SLOT_FREE. -/
def execWaveSlotFree (wave : Nat) (s : State) : Out := .next (nextFree (waveSlotFree s wave))

/-- The request of a quadrant that is met first (02 R69): in deterministic mode the order is that of the
coroutines. -/
def firstRequest (s : State) (core quad : Nat) : Option (Nat × Nat) :=
  match quadReqs s core quad with
  | [] => none
  | r :: l =>
    match mget s.waves r.1 with
    | none => some r
    | some w =>
      if !w.det then some r
      else
        some (l.foldl (fun b x =>
          match mget s.waves b.1, mget s.waves x.1 with
          | some u, some v => if v.det && v.launch == u.launch && decide (gtid0 s v < gtid0 s u) then x else b
          | _, _ => b) r)

/-- A blocked thread whose request is met stands at the following word, to issue two cycles on, which 11 R362 leaves open (log 50). -/
def Thread.passXacq (cycle held : Nat) (t : Thread) : Thread :=
  match t.hold with
  | .xacq n => if n ≤ held then { t with st := .ready, hold := .none, pc := t.pc + 4, wake := max t.wake (cycle + 2), wakeCode := 3 } else t
  | _ => t

/-- The same for a thread that a handler keeps: it executes the word again, which then does nothing (02 R67). -/
def Thread.meetXacq (held : Nat) (t : Thread) : Thread :=
  match t.hold with
  | .xacq n => if n ≤ held then { t with st := .ready, hold := .none } else t
  | _ => t

/-- The requests of a wave for the blocks that it now holds are met (02 R69). -/
def meetRequests (s : State) (k : Nat) (w : Wave) : State :=
  let w : Wave :=
    { w.mapThreads (Thread.passXacq s.cycle w.xblk) with
      priv := w.priv.map (fun p => { p with kept := p.kept.map (Thread.meetXacq w.xblk) }) }
  conclude (modC (setW s k w) w.core (fun c =>
    { c with reqs := c.reqs.filter (fun r => !(r.1 == k && r.2 != 4 && decide (r.2 ≤ w.xblk))) })) k

/-- XACQ_GRANT (02 R69, 06 R234): the first request of a quadrant receives its lane-registers. A mode switch whose wave runs a
handler keeps its place. DESIGN CHOICE (log 62). -/
def xacqGrant (s : State) (core quad : Nat) : State :=
  match firstRequest s core quad with
  | none => s
  | some (k, n) =>
    match mget s.waves k with
    | none => modC s core (fun c => { c with reqs := c.reqs.filter (fun r => r.1 != k) })
    | some w =>
      if n == 4 then
        if w.priv.isNone && decide (64 * w.grant * (w.xblk + 1) ≤ quadFree s core quad) then
          conclude (dropRequest (setW s k (switchMode s.nextId s.cycle true w)) k) k
        else s
      else if n ≤ w.xblk then meetRequests s k w
      else if laneRegs w.grant w.triple (n - w.xblk) ≤ quadFree s core quad then meetRequests s k (holdBlocks n w)
      else s

/-- XACQ_GRANT. -/
def execXacqGrant (core quad : Nat) (s : State) : Out := .next (nextFree (xacqGrant s core quad))

/-- A thread waits in a blocking XACQ, in the re-charge of a mode switch, or at a named barrier (02 R71, 06 R234). -/
def Thread.stuck (t : Thread) : Bool :=
  match t.st, t.hold with
  | .waiting, .xacq _ => true
  | .waiting, .recharge _ => true
  | .atBarrier, .named _ _ => true
  | _, _ => false

/-- A thread that rules the deadlock condition out. -/
def Thread.moving (t : Thread) : Bool :=
  match t.st, t.hold with
  | .ready, _ => true
  | .awaiting, _ => true
  | .inSiding, _ => true
  | _, .tree _ _ => true
  | _, .gen _ _ => true
  | _, .milepost _ _ => true
  | _, _ => false

/-- The deadlock condition of a core (02 R71). -/
def deadlocked (s : State) (core : Nat) : Bool :=
  let ws := (s.waves.filter (fun e => e.2.core == core)).map (·.2)
  ws.all (fun w => !w.frozen && !w.parked && w.threads.all (fun t => !t.moving)) &&
    !s.binds.any (fun e => e.2.core == core && (e.2.state == 1 || e.2.state == 2)) &&
    ws.any (fun w => w.threads.any (·.stuck))

/-- The deadlock trap of one wave: its blocked requests are withdrawn. -/
def deadTrap (s : State) (k : Nat) : State :=
  match mget s.waves k with
  | none => s
  | some w =>
    let who := (w.numbered.filter (fun p => p.2.stuck)).map (·.1)
    if who.isEmpty then s
    else
      let w := w.mapThreads (fun t => match t.hold with
        | .xacq _ => { t with st := .ready, hold := .none }
        | .recharge _ => { t with st := .ready, hold := .none }
        | _ => t)
      let s := dropRequest (setW s k w) k
      conclude (addCause s k ⟨cDeadlock, 0#64, 0#64, 0#32, 0, maskOf who⟩) k

/-- DEADLOCK_TRAP (02 R71): after 1,024 cycles of the condition. -/
def deadlockTrap (s : State) (core : Nat) : State :=
  if !deadlocked s core || decide ((getC s core).deadCycles < 1024) then s
  else
    let s := modC s core (fun c => { c with deadCycles := 0 })
    ((s.waves.filter (fun e => e.2.core == core)).map (·.1)).foldl deadTrap s

/-- DEADLOCK_TRAP. -/
def execDeadlockTrap (core : Nat) (s : State) : Out := .next (nextFree (deadlockTrap s core))

/-- A pin is taken or released once the load counter is 0 (08 R308, R310). -/
def pinNow (s : State) (k : Nat) (vpin : Bool) : State :=
  match mget s.waves k with
  | none => s
  | some w =>
    let is (t : Thread) : Bool := match t.hold with
      | .vpin _ => vpin
      | .vunpin => !vpin
      | _ => false
    let who := (w.numbered.filter (fun p => is p.2)).map (·.1)
    match who.head?.bind w.thread with
    | none => s
    | some t =>
      if !w.ldq.isEmpty then s
      else
        let pin : Option Pin := match t.hold with
          | .vpin o => some ⟨o, groupVersion s o⟩
          | _ => none
        let w : Wave := { w.onTids who (fun _ t => { t with st := .ready, hold := .none, wake := max t.wake (s.cycle + 1) }) with pin := pin }
        let w := if vpin then w.openSections s.nextId who else w
        conclude (sweepRanges (setW s k w)) k

/-- VPIN_PIN (08 R308). -/
def execVpinPin (wave : Nat) (s : State) : Out := .next (nextFree (pinNow s wave true))
/-- VUNPIN_RELEASE (08 R310). -/
def execVunpinRelease (wave : Nat) (s : State) : Out := .next (nextFree (pinNow s wave false))

/-- TRAP_ENTRY (12 R371): a wave with a pending cause at a trap point takes it. -/
def execTrapEntry (wave : Nat) (s : State) : Out := .next (settled s wave)

/-- SAVE_LIMIT_EXPIRY (12 R375): a save handler beyond SAVELIM units of 1,024 cycles. -/
def saveLimit (s : State) (k : Nat) : State :=
  match mget s.waves k with
  | none => s
  | some w =>
    match w.priv, mget s.contexts w.cid with
    | some p, some c =>
      if p.cause.code == cPreempt && w.pre != .saved && c.savelim != 0 && decide (1024 * c.savelim < s.cycle - p.since) then
        handlerFault s k ⟨cPreempt, 0#64, 0#64, 0#32, 0, 0#64⟩
      else s
    | _, _ => s

/-- SAVE_LIMIT_EXPIRY. -/
def execSaveLimitExpiry (wave : Nat) (s : State) : Out := .next (nextFree (saveLimit s wave))

/-- INSTRUCTION_FETCH (14 R420): the fetch for a thread; one that fails forms a siding or raises the trap for
the threads that stand with it. -/
def instructionFetch (s : State) (k tid : Nat) : State :=
  match mget s.waves k with
  | none => s
  | some w =>
    match w.thread tid with
    | none => s
    | some t =>
      if t.st != .ready || w.stopped then s
      else
        match fetch s w t.pc with
        | .word _ => s
        | f =>
          let tids := (w.numbered.filter (fun p => p.2.st == .ready && t.like p.2)).map (·.1)
          conclude (fetchFails s k t.pc tids f) k

/-- INSTRUCTION_FETCH. -/
def execInstructionFetch (wave tid : Nat) (s : State) : Out := .next (nextFree (instructionFetch s wave tid))

/-- The waves that a sampler samples: live waves of its context on the core, all of them or the one that started it (06 R242). -/
def sampledWaves (s : State) (core : Nat) (m : Sampler) : List (Nat × Wave) :=
  s.waves.filter fun e =>
    e.2.core == core && e.2.cid == m.cid && e.2.threads.any (·.live) && (m.allWaves || (e.2.unit == m.unit && e.2.wlog == m.wlog))

/-- The group that issues on a quadrant in this cycle: one that occupies it, else the one selected (01 R30; 13 R404); and whether its
word is fetched. -/
def issuing (s : State) (core quad : Nat) : Option (Nat × List Nat × Bool) :=
  if s.cycle < zget 0 (getC s core).busy quad then (mget (getC s core).last quad).map (fun g => (g.1, g.2, true))
  else (selected s core quad).map (fun g => (g.1, g.2.2.tids, match g.2.2.word with
    | .word _ => true
    | _ => false))

/-- A slot that a MM or EN word waits for: those of its `hint`, and the one that its follow-on sets (09 R324, R339). -/
def slotWaiting (s : State) (w : Wave) (t : Thread) (n : Nat) : Bool :=
  usesSlots n && !w.ilk && (!slotsClear w t.hint || !followRoom s w t.hint n)

/-- What holds a Ready thread back, as a code of 06 R246. -/
def heldReason (s : State) (w : Wave) (t : Thread) (tid : Nat) : Nat :=
  if decide (s.cycle < t.wake) then t.wakeCode
  else
    match fetch s w t.pc with
    | .word n =>
      if slotWaiting s w t n then 4
      else if interlockedMM s w n || interlocked w ⟨[tid], t.pc, t.stand, t.hint, t.wimm, .word n⟩ n then 5
      else if !countersFree w n then 6
      else if w.det && !runsNow s w then 8
      else if w.priv.isSome then 15
      else (freeVal s 9200).toNat % 256
    | _ => 7

/-- REASON of a Ready thread (06 R246): whether it issues in this cycle, else what holds it back. -/
def readyReason (s : State) (tid k core quad : Nat) : Nat :=
  let s := thisCycle s core quad
  let held : Nat := match (mget s.waves k).bind (fun w => (w.thread tid).map (fun t => heldReason s w t tid)) with
    | some n => n
    | none => 15
  match issuing s core quad with
  | some (j, tids, true) => if j == k then (if tids.contains tid then 0 else 1) else 2
  | some (j, tids, false) => if j != k then 2 else if tids.contains tid then 7 else held
  | none => held

/-- REASON of a sampled thread (06 R246): the first row that fits. A Ready thread of a parked wave awaits results (01 R31, 02 R83; 06
R229; 08 R308, R310);
of one of a frozen wave, which 14 R427 counts as Awaiting results for 02 R71 alone, no row is stated: a free value. DESIGN CHOICE
(log 4). -/
def sampleReason (s : State) (k : Nat) (w : Wave) (tid : Nat) (t : Thread) : Nat :=
  if w.parked && (t.st == .ready || t.marking) then 9
  else
    match t.st with
    | .ready => if w.frozen then (freeVal s 9200).toNat % 256 else if w.pausing then 10 else readyReason s tid k w.core (w.slot % 4)
    | .awaiting => if t.marking || t.hold == .none then 9 else 10
    | .atRcb => 11
    | .atBarrier => 12
    | .waiting => 13
    | .inSiding => 14
    | .exited => 15

/-- One sample of a wave (06 R244, R245), if it has a live thread. -/
def sampleOf (s : State) (cyc : Nat) (e : Nat × Wave) : Option Nat :=
  let w := e.2
  (w.scan.find? (fun p => p.2.live)).map fun (tid, t) =>
    let nrdy := if w.parked || w.pausing then 0 else (w.threads.filter (fun t => t.st == .ready)).length
    t.pc.toNat * 2 ^ 64 + cyc % 2 ^ 32 * 2 ^ 32 + sampleReason s e.1 w tid t * 2 ^ 24 + w.slot * 2 ^ 16 + nrdy * 2 ^ 8

/-- The sampler of a core has a sample to take (06 R244). -/
def sampleDue (s : State) (core : Nat) : Bool :=
  match (getC s core).sampler with
  | none => false
  | some m => decide (m.start + (m.k + 1) * m.period ≤ s.cycle)

/-- SAMPLE_TAKE (06 R244): each sampled wave in ascending slot, as the cycle finds it; the samples are written as the cycle ends. -/
def sampleTake (s : State) (core : Nat) : State :=
  match (getC s core).sampler with
  | none => s
  | some m =>
    if !sampleDue s core then s
    else
      modC s core (fun c =>
        { c with sampler := some { m with
            k := m.k + 1, pending := m.pending ++ (sampledWaves s core m).filterMap (sampleOf s ((m.k + 1) * m.period)) } })

/-- SAMPLE_TAKE. -/
def execSampleTake (core : Nat) (s : State) : Out := .next (nextFree (sampleTake s core))

end Sys2Proof.Machine
end

