-- ==== Sys2Proof/Machine/Engine.lean ====
section
/-! DEFINITION. What matrix instructions and consist commands share: the wave that issued them, failures (09
R328), translation and the reading and writing of views (09 R338; 04 R163-R170; 14 R422, R427). A command's
work is done piece by piece in ascending order of its destination (log 14). -/

namespace Sys2Proof.Machine

/-- The command is a matrix instruction. -/
def Cmd.matrix (c : Cmd) : Bool := wOp c.word == 0x1E

/-- Minor opcode of the command's word (05 R174). -/
def Cmd.minor (c : Cmd) : Nat := wFc c.word

/-- The resident wave that holds the first thread of the wave that issued a command. -/
def issuer (s : State) (c : Cmd) : Option (Nat × Wave) :=
  s.waves.find? (fun e => e.2.unit == c.unit && e.2.threads.any (fun t => t.lidx == c.lidx))

/-- The same among the waves saved with the unit. -/
def savedIssuer (s : State) (c : Cmd) : Bool :=
  ((mget s.units c.unit).map (fun u => u.saved.any (fun v => v.threads.any (fun t => t.lidx == c.lidx && t.live)))).getD false

/-- Change the saved wave that issued a command. -/
def modSaved (s : State) (c : Cmd) (f : SavedWave → SavedWave) : State :=
  modU s c.unit fun u =>
    { u with saved := u.saved.map (fun v => if v.threads.any (fun t => t.lidx == c.lidx) then f v else v) }

/-- The compute die of a consist; the I/O dies for collective engines. -/
def conDie (con : Nat) : Nat := if con < 20 then con / 5 else con - 16

/-- The consist whose error a command's failure is. -/
def Cmd.errCon (c : Cmd) (ring : Nat) : Option Nat × Nat :=
  match c.carried with
  | some (k, q) => (some k, q)
  | none => if c.matrix then (none, 0) else (some ring, c.seq.toNat % 2 ^ 62)

/-- Ordinal of the unit that issued a command. -/
def Cmd.ord (s : State) (c : Cmd) : Nat := ((mget s.units c.unit).map (·.ord)).getD 0

/-- A cause that a command raises in its wave (09 R328): pending until its next completed marker; to the error ring when the
wave has ended (12 R385). While a unit resumes, what the Signalbox keeps of it takes up the same (12 R382). -/
def raiseIn (s : State) (c : Cmd) (cause : Cause) (eng : Nat) : State :=
  let ended := ringEntry s c.cid cause.taddr.toNat cause.info0.toNat 0 cause.code cause.sub eng (c.ord s) c.wlog c.core c.slot
  let kept := if savedIssuer s c then modSaved s c (fun v => { v with cmdErrs := v.cmdErrs ++ [cause] }) else s
  match issuer s c with
  | some (k, w) =>
    if w.threads.any (·.live) then setW kept k { w with cmdErrs := w.cmdErrs ++ [cause] } else ended
  | none => if savedIssuer s c then kept else ended

/-- A command error (09 R328). -/
def cmdError (s : State) (ring : Nat) (c : Cmd) (code : Nat) : State :=
  let e := c.errCon ring
  raiseIn s c ⟨cCommand, c.addr, errInfo e.1 e.2, 0#32, code, 0#64⟩ ((e.1.map conEngine).getD 0)

/-- Flags of a command join its wave's `aflag` (09 R332, R334, R348); those of an ended wave are dropped. -/
def cmdFlags (s : State) (c : Cmd) (f : Nat) : State :=
  let s := if savedIssuer s c then modU s c.unit (fun u => { u with lateFlags := u.lateFlags ||| BitVec.ofNat 32 f }) else s
  match issuer s c with
  | some (k, w) => if w.threads.any (·.live) then setW s k (w.join f) else s
  | none => s

/-- Dependency slots as sixteen counts (09 R324). -/
def slotList (l : List Nat) : List Nat := (span 0 16).map (lget 0 l)

/-- Lower a slot. -/
def slotDown (l : List Nat) (n : Nat) : List Nat := lmod (slotList l) n (· - 1)

/-- Raise a slot; it holds at most 15 (09 R324). -/
def slotUp (l : List Nat) (n : Nat) : List Nat := lmod (slotList l) n (fun x => min 15 (x + 1))

/-- Lower the slots that wait for a command of a consist (09 R325, R327): those of the follow-on only when
`follow`. -/
def clearWaits (s : State) (cid con count : Nat) (follow : Bool) : State :=
  let hit (x : Nat × Nat × Nat × Bool) : Bool := x.2.1 == con && x.2.2.1 == count && x.2.2.2 == follow
  let lower (slots : List Nat) (ws : List (Nat × Nat × Nat × Bool)) : List Nat :=
    (ws.filter hit).foldl (fun l x => slotDown l x.1) slots
  { s with
    waves := s.waves.map (fun e =>
      if e.2.cid == cid then
        (e.1, { e.2 with slots := lower e.2.slots e.2.slotWaits, slotWaits := e.2.slotWaits.filter (fun x => !hit x) })
      else e),
    units := s.units.map (fun e =>
      if e.2.cid == cid then
        (e.1, { e.2 with saved := e.2.saved.map (fun v =>
          { v with slots := lower v.slots v.slotWaits, slotWaits := v.slotWaits.filter (fun x => !hit x) }) })
      else e) }

/-- The command at the head of a consist of a context, or, for numbers from 64, of the store queue of core
`ring` − 64. -/
def headOf (s : State) (cid ring : Nat) : Option Cmd :=
  if 64 ≤ ring then (getC s (ring - 64)).storeQ.head?
  else (mget s.contexts cid).bind (fun x => (mget x.consists ring).bind (fun q => q.cmds.head?))

/-- Replace the first element of a list. -/
def setHead {α : Type} (x : α) : List α → List α
  | [] => []
  | _ :: l => x :: l

/-- Replace the head command. -/
def putHead (s : State) (cid ring : Nat) (c : Cmd) : State :=
  if 64 ≤ ring then modC s (ring - 64) (fun x => { x with storeQ := setHead c x.storeQ })
  else modX s cid (fun x => { x with consists := mmod x.consists ring (fun q => { q with cmds := setHead c q.cmds }) })

/-- The die whose tensor walker and reads serve a command (14 R413). -/
def Cmd.die (c : Cmd) (ring : Nat) : Nat := if 64 ≤ ring then dieOf c.core else conDie ring

/-- The unit whose share a record names (09 R319, R338): resident, and on the issuing die. -/
def shareUnit (s : State) (c : Cmd) (r : TRec) : Option Nat :=
  match mget s.units c.unit with
  | none => none
  | some u =>
    let ord := if r.uown then u.ord / 1024 * 1024 + r.ukey else u.ord
    match unitAt s u.launch ord with
    | none => none
    | some k => if ((mget s.units k).map (fun x => dieOf x.core == dieOf c.core)).getD false then some k else none

/-- Bytes of a unit's share. -/
def shareSize (s : State) (u : Option Nat) : Option Nat := u.bind (fun k => (mget s.units k).map (·.shSize))

/-- Why a command stops. -/
inductive Stop where
  /-- a page without translation, and the kind of the access (14 R422) -/
  | page (va reason kind : Nat)
  | viol (va pa : Nat)
  | code (n : Nat)
  /-- a poisoned source granule (14 R424) -/
  | poison (va g : Nat)
  /-- the owner of a sharded page has not answered -/
  | far
  /-- an address that no access of an engine may have: not canonical, or in the register aperture (04 R142, 02 R91); its code (08 R288) -/
  | denied (code va : Nat)
  /-- a versioned range that has no staging backing yet (04 R169) -/
  | choose (vrn : Nat)
  deriving DecidableEq, Repr

/-- Where an engine access lands: bound storage; storage of a staging backing, with its range and page. -/
structure ESpot where
  place : Place
  stage : Option (Nat × Nat)
  deriving DecidableEq, Repr

/-- The storage of backing `b` of a range at an offset of a page. -/
def backPlace (r : VRange) (b pidx off : Nat) : Place :=
  let base := backingPage r b pidx + off
  if r.cls == 1 then .triple base 32768 else if r.cls == 2 then .md32 base else .single base

/-- Where an engine reads a versioned page (04 R169, R170): the owner its staging backing first. -/
def readBacking (s : State) (c : Cmd) (vrn pidx off : Nat) : Place :=
  match mget s.ranges vrn with
  | none => .versioned vrn pidx off c.pin
  | some r =>
    match (if r.owner == c.cid then r.stg else none) with
    | some b => backPlace r (if r.copied.contains pidx then b else r.cur) pidx off
    | none => backPlace r (backingFor r r.owner c.pin) pidx off

/-- Where an engine writes a versioned page (04 R169, R170). -/
def writeBacking (s : State) (c : Cmd) (vrn pidx off : Nat) : Except Stop ESpot :=
  match mget s.ranges vrn with
  | none => .error (.code 7)
  | some r =>
    if r.owner != c.cid || r.dead then .error (.code 7)
    else
      match r.stg with
      | none => .error (.choose vrn)
      | some b => .ok ⟨backPlace r b pidx off, some (vrn, pidx)⟩

/-- Bytes of a page of a range, all planes. -/
def VRange.pageSpan (r : VRange) : Nat := 32768 * (if r.cls == 1 then 3 else 1)

/-- A write to a page of a staging backing lies in the partition, with the copy that comes before the first one (04 R169; 14 R426). -/
def stageOk (s : State) (part n : Nat) (q : ESpot) : Bool :=
  placeOk s part true n q.place && match q.stage with
    | none => true
    | some (vrn, pidx) =>
      match mget s.ranges vrn with
      | none => true
      | some r =>
        r.copied.contains pidx ||
          (physOk s part false (backingPage r r.cur pidx) r.pageSpan && physOk s part true (backingPage r (r.stg.getD 0) pidx) r.pageSpan)

/-- The translations that serve a command: those of the tensor walker, none for a page that it walks afresh (14 R413, R416). -/
def Cmd.tlb (s : State) (ring : Nat) (c : Cmd) (va : Nat) : List TlbEnt :=
  if c.walked.contains (va / 32768 * 32768) then [] else (mget s.walkers (c.die ring)).getD []

/-- The code of 08 R288 of an address that is never walked: not canonical 1, in the register aperture 4 (04 R142, 02 R91). -/
def deniedCode (s : State) (cid va : Nat) : Option Nat :=
  if 2 ^ 56 ≤ va then some 1 else if unwalked s cid va then some 4 else none

/-- The page of one address of a command's footprint (14 R408, R412, R417). -/
def engineWalk (s : State) (ring : Nat) (c : Cmd) (write : Bool) (va : Nat) : Except Stop Page :=
  let kind := kEngine + (if write then kWrite else kRead)
  match deniedCode s c.cid va with
  | some code => .error (.denied code va)
  | none =>
    match translate s c.cid (c.tlb s ring va) false (if write then .write else .read) va with
    | .viol pa => .error (.viol va pa)
    | .fault r => .error (.page va r kind)
    | .page p => .ok p

/-- Where one address of a command's footprint lies, and the checks of the partition (14 R426). -/
def engineSpot (s : State) (ring : Nat) (c : Cmd) (write : Bool) (va n : Nat) : Except Stop ESpot :=
  match engineWalk s ring c write va with
  | .error e => .error e
  | .ok p =>
    let part := partOf s c.cid
    let ok (q : ESpot) : Except Stop ESpot :=
      if (if write then stageOk s part n q else placeOk s part false n q.place) then .ok q else .error (.viol va q.place.phys)
    match placeOn s c.cid part c.pin va p with
    | .versioned vrn pidx off _ =>
      if write then
        match writeBacking s c vrn pidx off with
        | .error e => .error e
        | .ok q => ok q
      else ok ⟨readBacking s c vrn pidx off, none⟩
    | pl => ok ⟨pl, none⟩

/-- The number under which a command keeps what a sharded owner answered: address, bytes and kind of an access. -/
def farKey (va n : Nat) (write : Bool) : Nat := va % 2 ^ 64 + 2 ^ 64 * (2 * n + bnat write)

/-- The planes of a read that an owner has answered: 512 bits each (log 13). -/
def farPlanes (cls v : Nat) : List Nat := if cls == 1 then [bitsAt v 0 512, bitsAt v 512 512, bitsAt v 1024 512] else [v % 2 ^ 512]

/-- A command's elements of `n` bytes may be read from a page of a class: the source of an `mload` or `tturn` is not md32 (09
R329). -/
def Cmd.readsClass (c : Cmd) (n cls : Nat) : Bool := cls != 2 || 64 ≤ n || !c.matrix || !(c.minor == 1 || c.minor == 2)

/-- A granule that a read meets and that cannot be read (14 R423). -/
def badRead (s : State) (pl : Place) (n va : Nat) : Option Nat := (badGranule s pl n va).map (·.1)

/-- A place as the planes stand at the home slices, before what the command has still in its shadow. -/
def homePlanes (s : State) (pl : Place) (n : Nat) : List Nat :=
  match pl with
  | .single pa => [ofBytes (homeBytes s pa n)]
  | .triple pa st => [ofBytes (homeBytes s pa n), ofBytes (homeBytes s (pa + st) n), ofBytes (homeBytes s (pa + 2 * st) n)]
  | .md32 pa => [ofBytes (homeBytes s pa n)]
  | .host a => [ofBytes (getBytes s.hostMem a n)]
  | _ => [0]

/-- Engine reads of `n` bytes of global memory that lie on one page: the planes. -/
def readGlobal (s : State) (ring : Nat) (c : Cmd) (va n : Nat) : Except Stop (List Nat) :=
  match engineSpot s ring c false va n with
  | .error e => .error e
  | .ok q =>
    if !c.readsClass n (placeClass s q.place) then .error (.code 4)
    else
      match q.place with
      | .remote _ _ _ _ cls => match mget c.far (farKey va n false) with
        | some v => .ok (farPlanes cls v)
        | none => .error .far
      | pl =>
        match badRead s pl n va with
        | some g => .error (.poison va g)
        | none => .ok (homePlanes s pl n)

/-- `n` bytes of a space of R319: global memory, a share, the turntable or the gantry of the issuing core. -/
def readSpace (s : State) (ring : Nat) (c : Cmd) (space : Nat) (unit : Option Nat) (a n : Nat) : Except Stop (List Nat) :=
  match space with
  | 0 => readGlobal s ring c a n
  | 1 =>
    match unit with
    | none => .error (.code 8)
    | some u => .ok [ofBytes (shareBytes s u a n)]
  | 2 => .ok [ofBytes (getBytes (getC s c.core).mat.turn a n)]
  | _ => .ok [ofBytes (getBytes (getC s c.core).mat.gantry a n)]

/-- Plane lists of consecutive bytes, one byte each, put together. -/
def joinPlanes (l : List (List Nat)) : List Nat :=
  let n := if l.any (fun p => p.length == 3) then 3 else 1
  (span 0 n).map fun k => (l.map (fun p => lget (lget 0 p 0) p k)).foldr (fun b x => b + 256 * x) 0

/-- Each result of a list, or the first stop. -/
def allOk {α : Type} : List (Except Stop α) → Except Stop (List α)
  | [] => .ok []
  | .error e :: _ => .error e
  | .ok x :: l =>
    match allOk l with
    | .error e => .error e
    | .ok r => .ok (x :: r)

/-- The planes of the bytes that a piece stands in; three-byte groups are read byte by byte. -/
def readBits (s : State) (ring : Nat) (c : Cmd) (space : Nat) (unit : Option Nat) (b : Bits) : Except Stop (List Nat) :=
  if b.nb == 3 then
    match allOk ((span 0 3).map (fun i => readSpace s ring c space unit (b.addr + i) 1)) with
    | .error e => .error e
    | .ok l => .ok (joinPlanes l)
  else readSpace s ring c space unit b.addr b.nb

/-- The value of a piece in each plane. -/
def bitsOf (b : Bits) (planes : List Nat) : List Nat := planes.map (fun v => bitsAt v b.lo b.wd)

/-- What a destination with `three` planes or one receives from source planes (09 R338). -/
def moved (fmt : Nat) (src : List Nat) (three : Bool) : List Nat :=
  match src with
  | [x, y, z] =>
    if three then [x, y, z]
    else
      match (if fmt == 0x06 || fmt == 0x07 || fmt == 0x08 then fmtFloat fmt else none) with
      | some f => [meanBits f [x, y, z]]
      | none => [x]
  | x :: _ => if three then [x, x, x] else [x]
  | [] => if three then [0, 0, 0] else [0]

/-- Spaces, units and format of a command's work. `store`: the values are those of an `mstore`, each element as
the word for a single page, its flags, the words for the three planes, their flags, and the md32 word and its flags. -/
structure Plan where
  fmt : Nat
  srcSpace : Nat
  srcUnit : Option Nat
  dstSpace : Nat
  dstUnit : Option Nat
  aoff : Nat
  store : Bool
  works : List Work
  deriving DecidableEq, Repr

/-- What a destination of a class receives, plane by plane, and the flags that the conversion sets (09 R334,
R338). -/
def Plan.fit (p : Plan) (cls : Nat) (src : List Nat) : List Nat × Nat :=
  if p.store then
    if cls == 1 then ([lget 0 src 2, lget 0 src 3, lget 0 src 4], lget 0 src 5)
    else if cls == 2 then ([lget 0 src 6], lget 0 src 7)
    else ([lget 0 src 0], lget 0 src 1)
  else (moved p.fmt src (cls == 1), 0)

/-- Writes gathered for one event: bytes of device memory, of staging, of the host, and of a share. -/
structure Batch where
  dev : FMap Byte
  stage : FMap Byte
  host : FMap Byte
  share : FMap Byte
  pages : List (Nat × Nat)
  /-- pieces done -/
  count : Nat
  flags : Nat
  /-- virtual addresses of the granules written -/
  vas : FMap Nat
  deriving DecidableEq, Repr

/-- Nothing gathered. -/
def Batch.init : Batch := ⟨[], [], [], [], [], 0, 0, []⟩

/-- The virtual addresses of the granules that `n` bytes at `pa` touch, which stand at `va`. -/
def noteVas (va pa n : Nat) (m : FMap Nat) : FMap Nat :=
  (span (pa / 32) ((pa + n - 1) / 32 - pa / 32 + 1)).foldl (fun m g => mset m g (va / 32 * 32 + 32 * (g - pa / 32))) m

/-- A destination byte as the command finds it: gathered already, in its shadow, or in storage. -/
def oldByte (s : State) (c : Cmd) (b : Batch) (stage : Option (Nat × Nat)) (pa : Nat) : Byte :=
  match stage with
  | none => (mget b.dev pa).getD (homeByte s pa)
  | some (vrn, pidx) =>
    match mget b.stage pa with
    | some x => x
    | none =>
      match c.shadow.reverse.find? (fun e => e.1 == pa) with
      | some e => e.2
      | none =>
        match mget s.ranges vrn with
        | none => homeByte s pa
        | some r =>
          if r.copied.contains pidx then homeByte s pa
          else
            match r.stg with
            | none => homeByte s pa
            | some g => homeByte s (pa - backingPage r g pidx + backingPage r r.cur pidx)

/-- Put `n` bytes of value `v` over the bits of a piece at a physical address. -/
def gatherBytes (s : State) (c : Cmd) (stage : Option (Nat × Nat)) (p : Bits) (pa v : Nat) (b : Batch) : Batch :=
  let old := ofBytes ((span pa p.nb).map (oldByte s c b stage))
  let new := place pa (bytesOf p.nb (putBits p old v))
  let b : Batch := { b with vas := noteVas p.addr pa p.nb b.vas }
  match stage with
  | none => { b with dev := new.foldl (fun m e => mset m e.1 e.2) b.dev }
  | some vp => { b with
      stage := new.foldl (fun m e => mset m e.1 e.2) b.stage,
      pages := if b.pages.contains vp then b.pages else vp :: b.pages }

/-- One piece at a bound place of global memory. -/
def gatherAt (s : State) (c : Cmd) (pl : Plan) (q : ESpot) (p : Bits) (src : List Nat) (b : Batch) : Batch :=
  match q.place with
  | .single pa =>
    let v := pl.fit 0 src
    gatherBytes s c q.stage p pa (lget 0 v.1 0) { b with flags := b.flags ||| v.2 }
  | .md32 pa =>
    let v := pl.fit 2 src
    gatherBytes s c q.stage p pa (lget 0 v.1 0) { b with flags := b.flags ||| v.2 }
  | .triple pa st =>
    let v := pl.fit 1 src
    gatherBytes s c q.stage p (pa + 2 * st) (lget 0 v.1 2)
      (gatherBytes s c q.stage p (pa + st) (lget 0 v.1 1)
        (gatherBytes s c q.stage p pa (lget 0 v.1 0) { b with flags := b.flags ||| v.2 }))
  | .host a =>
    let v := pl.fit 0 src
    let old := ofBytes ((span a p.nb).map (fun i => (mget b.host i).getD (zget 0#8 s.hostMem i)))
    { b with
      host := (place a (bytesOf p.nb (putBits p old (lget 0 v.1 0)))).foldl (fun m e => mset m e.1 e.2) b.host,
      flags := b.flags ||| v.2 }
  | _ => b

/-- One piece at a place of global memory, on this device or with its sharded owner; an `mstore` of another format than FP32 does not
write md32 pages (09 R334; 14 R435). -/
def gatherSpot (s : State) (c : Cmd) (pl : Plan) (q : ESpot) (p : Bits) (src : List Nat) (b : Batch) : Except Stop Batch :=
  if pl.store && placeClass s q.place == 2 && pl.fmt != 0x06 then .error (.code 4)
  else
    match q.place with
    | .remote _ _ _ _ cls =>
      if (mget c.far (farKey p.addr p.nb true)).isSome then .ok { b with flags := b.flags ||| (pl.fit cls src).2 } else .error .far
    | _ => .ok (gatherAt s c pl q p src b)

/-- One piece of a three-byte group, byte by byte. -/
def gatherGroup (s : State) (ring : Nat) (c : Cmd) (pl : Plan) (p : Bits) (src : List Nat) (b : Batch) : Except Stop Batch :=
  let g (i : Nat) (r : Except Stop Batch) : Except Stop Batch :=
    match r with
    | .error e => .error e
    | .ok b =>
      let lo := max p.lo (8 * i)
      let hi := min (p.lo + p.wd) (8 * i + 8)
      if hi ≤ lo then .ok b
      else
        match engineSpot s ring c true (p.addr + i) 1 with
        | .error e => .error e
        | .ok q => gatherSpot s c pl q ⟨p.addr + i, 1, lo - 8 * i, hi - lo⟩ (src.map (· / 2 ^ (lo - p.lo))) b
  g 2 (g 1 (g 0 (.ok b)))

/-- The data of a piece. -/
def feed (s : State) (ring : Nat) (c : Cmd) (space : Nat) (unit : Option Nat) (w : Work) : Except Stop (List Nat) :=
  match w.src with
  | .zero => .ok [0]
  | .val e => .ok (lget [0] c.vals e)
  | .from_ b =>
    match readBits s ring c space unit b with
    | .error e => .error e
    | .ok l => .ok (bitsOf b l)

/-- One piece: its data read, its bytes gathered. -/
def gatherPiece (s : State) (ring : Nat) (c : Cmd) (p : Plan) (w : Work) (b : Batch) : Except Stop Batch :=
  match feed s ring c p.srcSpace p.srcUnit w with
  | .error e => .error e
  | .ok src =>
    let done (r : Except Stop Batch) : Except Stop Batch :=
      match r with
      | .error e => .error e
      | .ok b => .ok { b with count := b.count + 1 }
    if p.dstSpace == 0 then
      if w.dst.nb == 3 then done (gatherGroup s ring c p w.dst src b)
      else
        match engineSpot s ring c true w.dst.addr w.dst.nb with
        | .error e => .error e
        | .ok q => done (gatherSpot s c p q w.dst src b)
    else
      match p.dstSpace, p.dstUnit with
      | 1, none => .error (.code 8)
      | sp, u =>
        let cur (a : Nat) : Byte :=
          match mget b.share a with
          | some x => x
          | none =>
            if sp == 1 then lget 0#8 (shareBytes s (u.getD 0) a 1) 0
            else if sp == 2 then zget 0#8 (getC s c.core).mat.turn a
            else zget 0#8 (getC s c.core).mat.gantry a
        let old := ofBytes ((span w.dst.addr w.dst.nb).map cur)
        let v := p.fit 0 src
        let new := place w.dst.addr (bytesOf w.dst.nb (putBits w.dst old (lget 0 v.1 0)))
        done (.ok { b with share := new.foldl (fun m e => mset m e.1 e.2) b.share, flags := b.flags ||| v.2 })

/-- Pieces in turn, up to the first stop. -/
def gatherAll (s : State) (ring : Nat) (c : Cmd) (p : Plan) : List Work → Batch → Batch × Option Stop
  | [], b => (b, none)
  | w :: l, b =>
    match gatherPiece s ring c p w b with
    | .error e => (b, some e)
    | .ok b => gatherAll s ring c p l b

/-- The granules of 32 bytes that a list of bytes touches. -/
def granulesOf (bs : FMap Byte) : List Nat := (bs.map (fun e => e.1 / 32)).eraseDups

/-- An engine write meets a granule of which it leaves a part, and that part cannot be read (14 R424). -/
def badEngineWrites (s : State) (bs : FMap Byte) : List Nat :=
  (granulesOf bs).filter fun g =>
    (s.poison.contains g || s.latent.contains g) && (bs.filter (fun e => e.1 / 32 == g)).length != 32

/-- Bytes thrown at their home slices (04 R165): whole granules lose their poison; a granule that cannot be
completed is refused, poisoned, and charged to the issuing wave (14 R423, R424), with its virtual address. -/
def throwBytes (s : State) (c : Cmd) (vas : FMap Nat) (bs : FMap Byte) : State :=
  let bad := badEngineWrites s bs
  let good := bs.filter (fun e => !bad.contains (e.1 / 32))
  let s := writeHomeList (tagWrite s c.cid c.core (good.map (fun e => (e.1, 1)))) (softList s good)
  let whole := (granulesOf good).filter (fun g => (good.filter (fun e => e.1 / 32 == g)).length == 32)
  let s : State :=
    { s with poison := s.poison.filter (fun g => !whole.contains g), latent := s.latent.filter (fun g => !whole.contains g) }
  let s := bad.foldl (fun s g => chargeMemory (poisonGranule s g) c.cid c.iaddr (zget 0 vas g) g 4 (c.ord s) c.wlog c.core c.slot) s
  match bad.head?, issuer s c with
  | some g, some (k, _) => addCause s k ⟨cData, c.iaddr, BitVec.ofNat 64 (zget 0 vas g), 0#32, 0, 0#64⟩
  | _, _ => s

/-- Gathered writes take effect in one event: device and host memory, the share; staging waits in the shadow
for the milepost (04 R164, R165, R169). -/
def applyBatch (s : State) (c : Cmd) (p : Plan) (b : Batch) : State :=
  let s := throwBytes s c b.vas b.dev
  let s := putHost s c.cid b.host
  if b.share.isEmpty then s
  else if p.dstSpace == 1 then modU s (p.dstUnit.getD 0) (fun u => { u with share := putList u.share b.share })
  else if p.dstSpace == 2 then modC s c.core (fun x => { x with mat := { x.mat with turn := putList x.mat.turn b.share } })
  else modC s c.core (fun x => { x with mat := { x.mat with gantry := putList x.mat.gantry b.share } })

/-- What the command itself keeps of a batch. -/
def keepBatch (c : Cmd) (b : Batch) : Cmd :=
  { c with
    doneW := c.doneW + b.count, flags := c.flags ||| BitVec.ofNat 32 b.flags, shadow := c.shadow ++ b.stage, pages := c.pages ++ b.pages,
    vas := b.vas.foldl (fun m e => mset m e.1 e.2) c.vas }

/-- A command refused (09 R328): the rest of the work is dropped. -/
def Cmd.refused (c : Cmd) (code : Nat) : Cmd :=
  { c with err := code, begun := true, shadow := [], pages := [], waitPage := none, ahead := [] }

/-- The same, with its error. -/
def refuse (s : State) (ring : Nat) (c : Cmd) (code : Nat) : State × Cmd := (cmdError s ring c code, c.refused code)

/-- A command that meets an address of no page (04 R142, 02 R91): the fault or error of 08 R288 is raised in its wave as a command's
error is; ECODE in its entry is not stated (log 25). -/
def deniedError (s : State) (c : Cmd) (code va : Nat) : State × Cmd :=
  (raiseIn s c ⟨cMemory, c.addr, BitVec.ofNat 64 va, 0#32, code, 0#64⟩ 0, c.refused (1 + (freeVal s 9320).toNat % 255))

/-- The source of an engine's faults (14 R419): cores have their own numbers. -/
def faultSource (ring : Nat) : Nat := 256 + ring

/-- The free backing with the lowest index: not current, not staging, holding no pinned version (04 R168). -/
def freeBacking (s : State) (r : VRange) : Option Nat :=
  let pins := pinnedBy s r.owner
  (span 0 r.nb).find? fun b => b != r.cur && r.stg != some b && !(lget [] r.held b).any pins.contains

/-- The staging choice of R169 for the ranges whose pages a command writes; the code of 09 R328 that a busy range or another
owner's refuses it with. -/
def chooseStaging (s : State) (c : Cmd) : List Nat → State × Option Nat
  | [] => (s, none)
  | v :: l =>
    match mget s.ranges v with
    | none => (s, some 7)
    | some r =>
      if r.owner != c.cid || r.dead then (s, some 7)
      else if r.stg.isSome then chooseStaging s c l
      else
        match freeBacking s r with
        | none => (s, some 6)
        | some b =>
          let q := chooseStaging { s with ranges := mset s.ranges v { r with stg := some b, copied := [], held := lset r.held b [] } } c l
          if q.2.isSome then (s, q.2) else q

/-- Records to which a command is attached (14 R419). -/
def Cmd.attached (c : Cmd) : List Nat := (c.waitPage.toList ++ c.ahead).map (·.seq)

/-- What a stop does to a command (14 R420, R422, R424, R427). -/
def stopCmd (s : State) (ring : Nat) (c : Cmd) : Stop → State × Cmd
  | .page va reason kind =>
    if c.ahead.any (fun f => f.va == va / 32768 * 32768) then
      (s, { c with waitPage := c.ahead.find? (fun f => f.va == va / 32768 * 32768), ahead := c.ahead.filter (fun f => f.va != va / 32768 * 32768) })
    else
      let r := regFault s c.cid va reason kind (faultSource ring) c.attached
      (r.1, { c with waitPage := some ⟨r.2, va / 32768 * 32768, false⟩ })
  | .viol va pa =>
    match (if c.matrix then issuer s c else none) with
    | some (k, _) => (freezeWave s k c.addr va pa, { c with frozen := true })
    | none =>
      let s := violEntry s c.cid c.addr va pa (c.ord s) c.wlog c.core c.slot
      (modX s c.cid (fun x => { x with consists := mmod x.consists ring (fun q => { q with frozen := true }) }), { c with frozen := true })
  | .code n => refuse s ring c n
  | .poison va g =>
    let s := chargeMemory (poisonGranule s g) c.cid c.iaddr (va / 32 * 32) g 2 (c.ord s) c.wlog c.core c.slot
    refuse s ring c 9
  | .far => (s, c)
  | .denied code va => deniedError s c code va
  | .choose v =>
    let q := chooseStaging s c [v]
    match q.2 with
    | some n => refuse s ring c n
    | none => (q.1, c)

/-- One of the codes that apply; which is open when there are several (log 26). -/
def pickCode (s : State) (l : List Nat) : Nat := lget 0 l ((freeVal s 9300).toNat % max 1 l.length)

/-- Pages of a list of destination pieces, ascending. -/
def pagesOf (l : List Nat) : List Nat := ((l.foldl (fun m a => mset m (a / 32768) ()) ([] : FMap Unit))).map (·.1)

/-- The leaf that serves an address of a command, as far as it translates. -/
def leafOf (s : State) (ring : Nat) (c : Cmd) (write : Bool) (va : Nat) : Option Page :=
  match engineWalk s ring c write va with
  | .ok p => some p
  | _ => none

/-- Versioned ranges that the destination pages of a plan lie in. -/
def rangesOf (s : State) (ring : Nat) (c : Cmd) (pages : List Nat) : List Nat :=
  (pages.filterMap (fun g => (leafOf s ring c true (g * 32768)).bind (fun p => if p.map == 2 then some p.vrn else none))).eraseDups

/-- One page that the tensor walker looks at ahead of a command: `e` is twice its number, and one more for a write. -/
def walkPage (ring : Nat) (r : State × Cmd) (e : Nat) : State × Cmd :=
  let va := e / 2 * 32768
  if r.2.frozen || (r.2.waitPage.toList ++ r.2.ahead).any (fun f => f.va == va) then r
  else
    match engineWalk r.1 ring r.2 (e % 2 == 1) va with
    | .error (.page va reason kind) =>
      let q := regFault r.1 r.2.cid va reason kind (faultSource ring) r.2.attached
      (q.1, { r.2 with ahead := r.2.ahead ++ [⟨q.2, va, false⟩] })
    | .error (.viol va pa) => stopCmd r.1 ring r.2 (.viol va pa)
    | _ => r

/-- The tensor walker walks ahead of a command through the pages of the work that is left, in ascending order: the lowest and 256
more (14 R414). -/
def walkAhead (s : State) (ring : Nat) (c : Cmd) (dst src : List Nat) : State × Cmd :=
  let all := dst.map (fun a => 2 * (a / 32768) + 1) ++ src.map (fun a => 2 * (a / 32768))
  let keys := (all.foldl (fun m k => mset m k ()) ([] : FMap Unit)).map (·.1)
  let pages := (keys.map (· / 2)).eraseDups.take 257
  (keys.filter (fun k => pages.contains (k / 2))).foldl (walkPage ring) (s, c)

/-- Addresses of global memory that a list of pieces writes and reads. -/
def Plan.dsts (p : Plan) (ws : List Work) : List Nat := if p.dstSpace == 0 then ws.flatMap (fun w => [w.dst.addr, w.dst.addr + w.dst.nb - 1]) else []
def Plan.srcs (p : Plan) (ws : List Work) : List Nat :=
  if p.srcSpace != 0 then []
  else ws.flatMap fun w => match w.src with
    | .from_ b => [b.addr, b.addr + b.nb - 1]
    | _ => []

/-- The first address of a list that is of no page, with its code (04 R142, 02 R91). -/
def firstDenied (s : State) (c : Cmd) (l : List Nat) : Option (Nat × Nat) :=
  l.findSome? (fun a => (deniedCode s c.cid a).map (fun code => (code, a)))

/-- A command that passed its own checks: its addresses are of pages (04 R142, 02 R91), it takes its staging backings (04 R169),
and its pages are walked ahead (14 R414). -/
def startWork (s : State) (ring : Nat) (c : Cmd) (p : Plan) : State × Cmd :=
  let dst := p.dsts p.works
  let src := p.srcs p.works
  match firstDenied s c (dst ++ src) with
  | some (code, va) => deniedError s c code va
  | none =>
    let q := chooseStaging s c (rangesOf s ring c (pagesOf dst))
    match q.2 with
    | some n => refuse s ring c n
    | none => walkAhead q.1 ring { c with begun := true } dst src

/-- A record of `n` bytes at an address, as an engine reads it (09 R319). -/
def readRecord (s : State) (ring : Nat) (c : Cmd) (va n : Nat) : Except Stop Nat :=
  if va % n != 0 then .error (.code 1)
  else
    match readGlobal s ring c va n with
    | .error e => .error e
    | .ok l => .ok (lget 0 l 0)

/-- A tensor record that a command may use: completed, and passing R322 again; the unit that it names. A footprint beyond the share is a failed
check of R322, code 0x01, though 09 R328 lists it under 0x08 too (log 88). -/
def goodRecord (s : State) (c : Cmd) (r : TRec) : Nat :=
  let u := shareUnit s c r
  if !r.valid || r.err != 0 || r.check (some (2 ^ 64)) != 0 then 1
  else if r.space == 1 && u.isNone then 8
  else if r.check (shareSize s u) != 0 then 1
  else 0

/-- The arrival word that a share destination names lies in the share (09 R319, R328). -/
def arrivalOk (s : State) (c : Cmd) (r : TRec) : Bool :=
  r.space != 1 || ((shareSize s (shareUnit s c r)).map (fun n => decide (16 * r.aoff + 16 ≤ n))).getD false

/-- Storage classes of the pages that translate. -/
def classesOf (s : State) (ring : Nat) (c : Cmd) (write : Bool) (pages : List Nat) : List Nat :=
  pages.filterMap (fun g => (leafOf s ring c write (g * 32768)).map (pageClass s))

/-- Global source addresses of pieces. -/
def sourceAddrs (l : List Work) : List Nat := l.filterMap fun w => match w.src with
  | .from_ b => some b.addr
  | _ => none

end Sys2Proof.Machine
end

