-- ==== Sys2Proof/Machine/Matrix.lean ====
section
/-! DEFINITION. The matrix unit: staging, multiplies and write-out (09 R314-R334; 03 R125-R129, R464; R107). -/

namespace Sys2Proof.Machine

/-- The bits of an element in the turntable or gantry, plane by plane. -/
def storedBits (m : FMap Byte) (t : TRec) (rc : Nat × Nat) : List Nat :=
  (t.bits rc).map fun b => bitsAt (ofBytes (getBytes m b.addr b.nb)) b.lo b.wd

/-- An integer as an exact value. -/
def intFV (i : Int) : FV := .fin (decide (i < 0)) i.natAbs 1

/-- The decoded value of an element (03 R96, R119, R120; 09 R332). -/
def decodeElem (t : TRec) (bits : List Nat) : FV :=
  match fmtFloat t.fmt with
  | some f => fdec f (lget 0 bits 0)
  | none =>
    if isPN t.fmt then intFV (pnValue (pnK t.fmt) (if t.depth == 0 then pnK t.fmt else t.depth) bits)
    else if isP6 t.fmt then intFV (sgn 6 (lget 0 bits 0))
    else intFV (sgn 8 (lget 0 bits 0))

/-- The exact sum of a part's products (03 R126 step 1, R464): a NaN or infinities seen, and the finite sum. -/
structure PSum where
  nan : Bool
  pinf : Bool
  ninf : Bool
  n : Int
  d : Nat
  fl : Nat
  deriving DecidableEq, Repr

/-- Add one product; denominators are powers of two. -/
def PSum.add (p : PSum) (x : Exact) : PSum :=
  let p := { p with fl := p.fl ||| x.fl }
  match x.v with
  | .nan => { p with nan := true }
  | .inf g => if g then { p with ninf := true } else { p with pinf := true }
  | .zero _ => p
  | .cancel => p
  | .fin g n d =>
    let m := max p.d d
    { p with n := p.n * (m / p.d : Nat) + snum g n * (m / d : Nat), d := m }

/-- A part's sum, shifted by the exponents of its block scales (03 R126 step 2): `scale` is none when one of them
is 0xFF. DESIGN CHOICE (log 55): the manual gives a sum of exactly zero no sign; it is +0. -/
def PSum.value (p : PSum) (scale : Option Int) : Exact :=
  match scale with
  | none => ⟨.nan, p.fl ||| fNV⟩
  | some e =>
    if p.pinf && p.ninf then ⟨.nan, p.fl ||| fNV⟩
    else if p.nan then ⟨.nan, p.fl⟩
    else if p.pinf then ⟨.inf false, p.fl⟩
    else if p.ninf then ⟨.inf true, p.fl⟩
    else if p.n == 0 then ⟨.zero false, p.fl⟩
    else
      let q := dyadic p.n.natAbs e
      ⟨.fin (decide (p.n < 0)) q.1 (q.2 * p.d), p.fl⟩

/-- Add a part's sum to a plane with one rounding (03 R126 step 3, R129, R464): the plane and flags. -/
def planeAdd (rule : Rnd) (acc : Nat) (x : Exact) : Nat × Nat :=
  let e := fadd (fdec fp32 acc) x.v.value
  let r := fround fp32 rule false e
  match e.v with
  | .fin g _ _ =>
    if r.fl &&& fOF != 0 then (fp32.infBits + fp32.signBit g, x.fl ||| fOF ||| flAINF) else (r.bits, x.fl)
  | _ => (r.bits, x.fl ||| (e.fl &&& fNV))

/-- n/d rounded to the nearest integer, ties to even. -/
def nearestInt (neg : Bool) (n d : Nat) : Int :=
  let q := n / d
  let r := n % d
  let q := if d < 2 * r || (2 * r == d && q % 2 == 1) then q + 1 else q
  snum neg q

/-- Saturate to i32. -/
def satI32 (i : Int) : Int := max (-(2 ^ 31)) (min (2 ^ 31 - 1) i)

/-- Add a part's sum to an i32 element (03 R129). -/
def narrowAdd (acc : Nat) (x : Exact) : Nat × Nat :=
  match x.v with
  | .fin g n d =>
    let v := sgn 32 acc + nearestInt g n d
    (wrap 32 (satI32 v), x.fl ||| (if satI32 v == v then 0 else flASAT))
  | _ => (acc, x.fl)

/-- Parts of the K dimension (03 R125, R128): segment, part number, and the indices from `lo` to `hi`. -/
structure Part where
  seg : Nat
  num : Nat
  lo : Nat
  hi : Nat
  deriving DecidableEq, Repr

/-- Cut an interval at the boundaries given, in ascending order. -/
def cutAt (seg hi : Nat) : Nat → Nat → List Nat → List Part
  | num, lo, [] => [⟨seg, num, lo, hi⟩]
  | num, lo, b :: l => ⟨seg, num, lo, b⟩ :: cutAt seg hi (num + 1) b l

/-- Parts of every segment: tile boundaries of either operand strictly inside one split it. -/
def partsOf (k t : Nat) (ta offA tb offB : Nat) : List Part :=
  (span 0 (cdiv k t)).flatMap fun s =>
    let lo := s * t
    let hi := min k (lo + t)
    let inside := (span (lo + 1) (hi - lo - 1)).filter (fun i => (ta != 0 && (offA + i) % ta == 0) || (tb != 0 && (offB + i) % tb == 0))
    cutAt s hi 0 lo inside

/-- Offset of the K dimension in stored coordinates: columns of A, rows of B. -/
def kOffA (a : TRec) : Nat := if a.trans then a.row0 else a.col0
def kOffB (b : TRec) : Nat := if b.trans then b.col0 else b.row0

/-- Segment length (03 R125). -/
def segLen (a b : TRec) : Nat := if a.side != 0 then a.side else if b.side != 0 then b.side else 32

/-- The exponent of a block scale: 0 without tiles, none for 0xFF (03 R122, R126). -/
def scaleExp (m : FMap Byte) (t : TRec) (rc : Nat × Nat) : Option Int :=
  if t.side == 0 then some 0
  else
    let e := (zget 0#8 m (t.scaleBits rc).addr).toNat
    if e == 255 then none else some ((e : Int) - 127)

/-- The shifted sum of one part of one element (09 R332). -/
def partSum (ms : MatState) (a b : TRec) (m n : Nat) (p : Part) : Exact :=
  let zero : PSum := ⟨false, false, false, 0, 1, 0⟩
  let sum := (span p.lo (p.hi - p.lo)).foldl (fun (q : PSum) k =>
    q.add (fmul (decodeElem a (storedBits ms.turn a (a.at m k))) (decodeElem b (storedBits ms.gantry b (b.at k n))))) zero
  let scale := match scaleExp ms.turn a (a.at m p.lo), scaleExp ms.gantry b (b.at p.lo n) with
    | some x, some y => some (x + y)
    | _, _ => none
  sum.value scale

/-- Key of an accumulator word (12 R379). -/
def accKey (m n p : Nat) : Nat := 3 * (256 * m + n) + p

/-- A plane of the accumulator. -/
def accWord (ms : MatState) (m n p : Nat) : Nat := (zget 0#32 ms.acc (accKey m n p)).toNat

/-- Write a plane of the accumulator. -/
def setAcc (ms : MatState) (m n p v : Nat) : MatState := { ms with acc := zset 0#32 ms.acc (accKey m n p) (BitVec.ofNat 32 v) }

/-- How plane `p` rounds the addition of one part (03 R107, R127; 09 R332). -/
def planeRule (c : Cmd) (d : TRec) (m n p : Nat) (q : Part) : Rnd :=
  let ij := d.at m n
  let words := rsg c.seed.toNat (2 ^ 63 + d.tag * 2 ^ 32 + ij.1) (ij.2 * 2 ^ 32 + 4 * q.seg + q.num)
  if c.triple then streamRule (ncRstream c.nctl) (lget 0 words p)
  else
    match d.rmode with
    | 0 => .rn
    | 1 => .rz
    | 2 => .ru
    | 3 => .rd
    | _ => streamRule (ncRstream c.nctl) (lget 0 words 0)

/-- One part added to one element: the unit and flags. -/
def addPart (c : Cmd) (a b d : TRec) (m n : Nat) (r : MatState × Nat) (q : Part) : MatState × Nat :=
  let ms := r.1
  let x := partSum ms a b m n q
  if ms.i32 then
    let v := narrowAdd (accWord ms m n 0) x
    (setAcc (setAcc (setAcc ms m n 0 v.1) m n 1 v.1) m n 2 v.1, r.2 ||| v.2)
  else if c.triple then
    let v (p : Nat) := planeAdd (planeRule c d m n p q) (accWord ms m n p) x
    (setAcc (setAcc (setAcc ms m n 0 (v 0).1) m n 1 (v 1).1) m n 2 (v 2).1, r.2 ||| (v 0).2 ||| (v 1).2 ||| (v 2).2)
  else
    let v := planeAdd (planeRule c d m n 0 q) (accWord ms m n 0) x
    (setAcc (setAcc (setAcc ms m n 0 v.1) m n 1 v.1) m n 2 v.1, r.2 ||| v.2)

/-- FP32 1.0. -/
def one32 : Nat := 0x3F800000

/-- The tensor scale of a record (03 R124). -/
def TRec.scale (r : TRec) : Nat := if r.hasts then r.tscale else one32

/-- Two products of FP32 values are equal as exact reals (09 R332). -/
def sameProduct (a b c d : Nat) : Bool :=
  match (fmul (fdec fp32 a) (fdec fp32 b)).v, (fmul (fdec fp32 c) (fdec fp32 d)).v with
  | .inf x, .inf y => x == y
  | .zero _, .zero _ => true
  | .fin x n e, .fin y m f => x == y && n * f == m * e
  | _, _ => false

/-- Modifiers of a multiply's word. -/
def Cmd.clear (c : Cmd) : Bool := tst c.word 0
def Cmd.narrow (c : Cmd) : Bool := tst c.word 1

/-- The unit after `.z` (09 R332). -/
def clearTile (c : Cmd) (a b : TRec) (ms : MatState) : MatState :=
  if !c.clear then ms
  else
    let ms := (cells a.vrows b.vcols).foldl (fun ms p => setAcc (setAcc (setAcc ms p.1 p.2 0 0) p.1 p.2 1 0) p.1 p.2 2 0) ms
    { ms with i32 := c.narrow, tsA := BitVec.ofNat 32 a.scale, tsB := BitVec.ofNat 32 b.scale }

/-- A matrix multiply on the unit as it stands (09 R332): the unit after it, and flags. -/
def multiply (c : Cmd) (a b d : TRec) (ms : MatState) : MatState × Nat :=
  let parts := partsOf a.vcols (segLen a b) a.side (kOffA a) b.side (kOffB b)
  (cells a.vrows b.vcols).foldl (fun r p => parts.foldl (addPart c a b d p.1 p.2) r) (clearTile c a b ms, 0)

/-- An integer operand format. -/
def isIntFmt (f : Nat) : Bool := f == 0x01 || f == 0x0B || isPN f
/-- An FP8 format. -/
def isFp8 (f : Nat) : Bool := f == 0x09 || f == 0x0A

/-- Formats, tiles and form agree (09 R331). -/
def pairOk (form : Nat) (a b : TRec) : Bool :=
  let tiled := a.tile != 0 || b.tile != 0
  let same := a.tile == 0 || b.tile == 0 || a.tile == b.tile
  let plain := form == 3
  let sc := form == 4
  let pn := form == 5
  if (a.fmt == 0x01 || a.fmt == 0x0B) && b.fmt == 0x01 then (plain && !tiled) || (sc && tiled && same)
  else if isPN a.fmt && b.fmt == 0x01 then (pn && !tiled) || (sc && tiled && same)
  else if isFp8 a.fmt && isFp8 b.fmt then (plain && !tiled) || (sc && tiled && same)
  else if a.fmt == 0x08 && b.fmt == 0x08 then plain && !tiled
  else false

/-- Codes that refuse a multiply (09 R330-R332). -/
def multiplyCodes (c : Cmd) (a b d : TRec) (ms : MatState) : List Nat :=
  let spaces := a.space == 2 && b.space == 3
  let pair := pairOk c.minor a b && (!c.narrow || (isIntFmt a.fmt && isIntFmt b.fmt))
  let kind := c.clear || ms.i32 == c.narrow
  let shape := b.vrows == a.vcols && d.vrows == a.vrows && d.vcols == b.vcols && decide (a.vrows ≤ 256) && decide (b.vcols ≤ 256)
  let ts := c.clear || sameProduct ms.tsA.toNat ms.tsB.toNat a.scale b.scale
  (if shape then [] else [2]) ++ (if spaces && pair && kind then [] else [3]) ++ (if ts then [] else [0x0A])

/-- A plane's value at write-out (03 R126 step 4): FP32 bits, and OF. -/
def scaledPlane (ms : MatState) (m n p : Nat) : FRes :=
  let ts := fmul (fdec fp32 ms.tsA.toNat) (fdec fp32 ms.tsB.toNat)
  let r := fround fp32 .rn false (fmul (fdec fp32 (accWord ms m n p)) ts.v.value)
  ⟨r.bits, r.fl &&& fOF⟩

/-- Convert a write-out value (09 R333): bits and OF. -/
def writeConv (f : Fmt) (sat : Bool) (w : Nat) : FRes :=
  let r := fround f .rn (sat && decide (f.mag < 8)) (fexact (fdec fp32 w))
  ⟨r.bits, r.fl &&& fOF⟩

/-- What an `mstore` writes for one element, in every form a destination can take (09 R334). -/
def storeForms (c : Cmd) (f : Fmt) (sat : Bool) (ms : MatState) (m n : Nat) : List Nat :=
  let w (p : Nat) := scaledPlane ms m n p
  if c.triple then
    let wf := (w 0).fl ||| (w 1).fl ||| (w 2).fl
    let s := writeConv f sat (meanBits fp32 [(w 0).bits, (w 1).bits, (w 2).bits])
    let v (p : Nat) := writeConv f sat (w p).bits
    [s.bits, wf ||| s.fl, (v 0).bits, (v 1).bits, (v 2).bits, wf ||| (v 0).fl ||| (v 1).fl ||| (v 2).fl,
      md32Word (w 0).bits (w 1).bits (w 2).bits, wf]
  else
    let v := writeConv f sat (w 0).bits
    let fl := (w 0).fl ||| v.fl
    [v.bits, fl, v.bits, v.bits, v.bits, fl, md32Single (w 0).bits, (w 0).fl]

/-- The same of an i32 tile (09 R333). -/
def storeNarrow (ms : MatState) (m n : Nat) : List Nat :=
  let x := sgn 32 (accWord ms m n 0)
  let e := fmul (intFV x) (fmul (fdec fp32 ms.tsA.toNat) (fdec fp32 ms.tsB.toNat)).v.value
  let v : Int × Nat := match e.v with
    | .nan => (0, fNV)
    | .inf g => (if g then -(2 ^ 31) else 2 ^ 31 - 1, fOF)
    | .fin g a b =>
      let i := nearestInt g a b
      (satI32 i, if satI32 i == i then 0 else fOF)
    | _ => (0, 0)
  let b := wrap 32 v.1
  [b, v.2, b, b, b, v.2, b, v.2]

/-- The formats that an accumulator kind admits at write-out (09 R333). -/
def storeFmtOk (i32 : Bool) (f : Nat) : Bool :=
  if i32 then f == 0x05 else f == 0x06 || f == 0x07 || f == 0x08 || f == 0x09 || f == 0x0A

/-- Values of an `mstore`, by element index. -/
def storeValues (c : Cmd) (d : TRec) (ms : MatState) : List (List Nat) :=
  (cells d.vrows d.vcols).map fun p =>
    if ms.i32 then storeNarrow ms p.1 p.2
    else storeForms c ((fmtFloat d.fmt).getD fp32) (tst c.word 0) ms p.1 p.2

/-- The work that a matrix instruction has once it has begun. -/
def matrixPlan (s : State) (c : Cmd) : Plan :=
  let r (i : Nat) : TRec := tensorRec (lget 0 c.recs i)
  if c.minor == 1 || c.minor == 2 then
    ⟨(r 0).fmt, (r 0).space, shareUnit s c (r 0), (r 1).space, none, 0, false, copyWork (r 0) (r 1)⟩
  else if c.minor == 6 then
    ⟨(r 0).fmt, 0, none, (r 0).space, shareUnit s c (r 0), (r 0).aoff, true, valueWork (r 0)⟩
  else ⟨0, 0, none, 0, none, 0, false, []⟩

/-- Codes that refuse an `mload` or `tturn` (09 R329). -/
def stageCodes (s : State) (ring : Nat) (c : Cmd) (a b : TRec) : List Nat :=
  let dst := if c.minor == 1 then 3 else 2
  let gantryFmt := b.fmt == 0x01 || b.fmt == 0x09 || b.fmt == 0x0A || b.fmt == 0x08
  let shape := a.vrows == b.vrows && a.vcols == b.vcols && originsOk a b
  let fmt := decide (a.space < 2) && b.space == dst && a.fmt == b.fmt && a.tile == b.tile && a.fmt != 0x20 && (c.minor == 2 || gantryFmt)
  let md32 := shape && fmt && a.space == 0 && (classesOf s ring c false (pagesOf (sourceAddrs (copyWork a b)))).any (· == 2)
  (if shape then [] else [2]) ++ (if fmt then [] else [3]) ++ (if md32 then [4] else [])

/-- Codes that refuse an `mstore` (09 R333, R334, R328). -/
def storeCodes (s : State) (ring : Nat) (c : Cmd) (d : TRec) (ms : MatState) : List Nat :=
  let shape := decide (d.vrows ≤ 256) && decide (d.vcols ≤ 256)
  let fmt := decide (d.space < 2) && storeFmtOk ms.i32 d.fmt
  let md32 := shape && fmt && d.space == 0 && d.fmt != 0x06 &&
    (classesOf s ring c true (pagesOf ((valueWork d).map (fun w => w.dst.addr)))).any (· == 2)
  (if shape then [] else [2]) ++ (if fmt then [] else [3]) ++ (if md32 then [4] else []) ++ (if arrivalOk s c d then [] else [8])

/-- Addresses of the records that a matrix instruction reads (09 R329, R330, R333). -/
def Cmd.recordAddrs (c : Cmd) : List Nat :=
  if c.minor == 6 then [c.x.toNat] else if decide (3 ≤ c.minor) then [c.x.toNat, c.y.toNat, c.z.toNat] else [c.x.toNat, c.y.toNat]

/-- A matrix instruction reads and checks its records and does what it does at once (09 R317, R332, R333). -/
def beginMatrix (s : State) (ring : Nat) (c : Cmd) : State × Cmd :=
  match allOk (c.recordAddrs.map (fun a => readRecord s ring c a 64)) with
  | .error e => stopCmd s ring c e
  | .ok recs =>
    let ts := recs.map tensorRec
    let bad := (ts.map (goodRecord s c)).filter (· != 0)
    let r (i : Nat) : TRec := tensorRec (lget 0 recs i)
    let c := { c with recs := recs }
    let ms := (getC s c.core).mat
    let codes :=
      if !bad.isEmpty then bad
      else if c.minor == 6 then storeCodes s ring c (r 0) ms
      else if decide (3 ≤ c.minor) then multiplyCodes c (r 0) (r 1) (r 2) ms
      else stageCodes s ring c (r 0) (r 1)
    if !codes.isEmpty then refuse s ring c (pickCode s codes)
    else if decide (3 ≤ c.minor) && decide (c.minor ≤ 5) then
      let q := multiply c (r 0) (r 1) (r 2) ms
      (modC s c.core (fun x => { x with mat := q.1 }), { c with begun := true, flags := BitVec.ofNat 32 q.2 })
    else if c.minor == 6 then
      startWork s ring { c with vals := storeValues c (r 0) ms } (matrixPlan s c)
    else startWork s ring c (matrixPlan s c)

end Sys2Proof.Machine
end

