-- ==== Sys2Proof/Machine/Commands.lean ====
section
/-! DEFINITION. Commands of the consists: what each checks when it begins and what work it then has (09 R335-R350;
04 R163-R170; 07 R275). -/

namespace Sys2Proof.Machine

/-- Elements of a view, in element-index order (09 R321). -/
def viewCells (r : TRec) : List (Nat × Nat) := cells r.vrows r.vcols

/-- Addresses of a record's view in global memory. -/
def recordAddrs (r : TRec) : List Nat := if r.space != 0 then [] else (viewCells r).flatMap (fun p => (r.bits (r.at p.1 p.2)).map (·.addr))

/-- Its pages. -/
def recordPages (r : TRec) : List Nat := pagesOf (recordAddrs r)

/-- The pages of the records that a command begins with are walked ahead before it reads a list or a source that it needs to begin (14
R414). -/
def walkRecords (s : State) (ring : Nat) (c : Cmd) (dst src : List TRec) : State × Cmd :=
  walkAhead s ring c (dst.flatMap recordAddrs) (src.flatMap recordAddrs)

/-- The value of each element of a view, as a number of its format: planes. -/
def readView (s : State) (ring : Nat) (c : Cmd) (r : TRec) : Except Stop (List (List Nat)) :=
  allOk ((viewCells r).map fun p =>
    match r.bits (r.at p.1 p.2) with
    | b :: _ =>
      match readBits s ring c r.space (shareUnit s c r) b with
      | .error e => .error e
      | .ok l => .ok (bitsOf b l)
    | [] => .ok [0])

/-- A view's values as one number each: the mean of three planes for a floating format, else plane 0 (09 R338). -/
def readValues (s : State) (ring : Nat) (c : Cmd) (r : TRec) : Except Stop (List Nat) :=
  match readView s ring c r with
  | .error e => .error e
  | .ok l => .ok (l.map (fun p => lget 0 (moved r.fmt p false) 0))

/-- Rows of the index list (09 R341, R347). -/
def listLength (r : TRec) : Nat := r.vrows * r.vcols

/-- The collective descriptor (09 R342). -/
structure CDesc where
  cseq : Nat
  count : Nat
  group : Nat
  op : Nat
  dtype : Nat
  npart : Nat
  rank : Nat
  root : Nat
  det : Bool
  rsv : Nat
  deriving DecidableEq, Repr

/-- Its fields. -/
def collDesc (v : Nat) : CDesc :=
  { cseq := bitsAt v 192 64, count := bitsAt v 160 32, group := bitsAt v 144 16, op := bitsAt v 136 8, dtype := bitsAt v 128 8,
    npart := bitsAt v 120 8, rank := bitsAt v 112 8, root := bitsAt v 104 8, det := tst v 103, rsv := bitsAt v 0 103 }

/-- The descriptor's fields are valid (09 R342). -/
def CDesc.ok (d : CDesc) : Bool :=
  d.rsv == 0 && d.count != 0 && decide (d.op ≤ 4) && (d.dtype == 4 || d.dtype == 5 || d.dtype == 6 || d.dtype == 8) &&
    decide (2 ≤ d.npart) && decide (d.npart ≤ 64)

/-- Elements of the source and of the destination of a participant (09 R343). -/
def CDesc.sizes (d : CDesc) : Nat × Nat :=
  (if d.op == 2 then d.npart * d.count else d.count, if d.op == 1 then d.npart * d.count else d.count)

/-- The parameter block of an optimizer step (09 R347). -/
structure OptBlock where
  lr : Nat
  eps : Nat
  b1c : Nat
  b2c : Nat
  mcorr : Nat
  vcorr : Nat
  wd : Nat
  nancnt : Nat
  deriving DecidableEq, Repr

/-- Its fields besides the records. -/
def optBlock (v : Nat) : OptBlock :=
  { lr := bitsAt v 224 32, eps := bitsAt v 192 32, b1c := bitsAt v 160 32, b2c := bitsAt v 128 32, mcorr := bitsAt v 96 32,
    vcorr := bitsAt v 64 32, wd := bitsAt v 32 32, nancnt := bitsAt v 0 32 }

/-- A follow-on record (09 R339): its values, its `hint` word and its word. -/
def foX (v : Nat) : W64 := BitVec.ofNat 64 (bitsAt v 192 64)
def foY (v : Nat) : W64 := BitVec.ofNat 64 (bitsAt v 128 64)
def foZ (v : Nat) : W64 := BitVec.ofNat 64 (bitsAt v 64 64)
def foHint (v : Nat) : Nat := bitsAt v 32 32
def foWord (v : Nat) : Nat := bitsAt v 0 32

/-- The word without its SX, SY and SZ fields, which a follow-on ignores. -/
def foBare (w : Nat) : Nat := w % 8 + w / 2 ^ 21 * 2 ^ 21

/-- A valid follow-on record (09 R339): an MM word with S = 0 and F from 1 to 6, and a `hint` word or 0. -/
def followOk (v : Nat) : Bool :=
  let w := foWord v
  let h := foHint v
  !tst w 31 && wOp w == 0x1E && decide (1 ≤ wFc w) && decide (wFc w ≤ 6) &&
    (if wFc w ≤ 2 then w % 8 == 0 else if wFc w ≤ 5 then !tst w 2 else decide (w % 8 ≤ 1)) &&
    (h == 0 || h / 2 ^ 25 == 1)

/-- The slot that a `hint` word sets (05 R177). -/
def hintSets (h : Nat) : Option Nat := if tst h 4 then some (h % 16) else none

/-- The work of a consist command that has begun. -/
def enginePlan (s : State) (c : Cmd) : Plan :=
  let r (i : Nat) : TRec := tensorRec (lget 0 c.recs i)
  match c.minor with
  | 0 =>
    if (r 1).fmt == 0x20 then ⟨0, 0, none, 0, none, 0, false, []⟩
    else ⟨(r 0).fmt, (r 0).space, shareUnit s c (r 0), (r 1).space, shareUnit s c (r 1), (r 1).aoff, false, copyWork (r 0) (r 1)⟩
  | 1 =>
    ⟨(r 0).fmt, (r 0).space, shareUnit s c (r 0), (r 1).space, shareUnit s c (r 1), (r 1).aoff, false, gatherWork (r 0) (r 1) c.idx⟩
  | 2 =>
    ⟨(r 0).fmt, (r 0).space, shareUnit s c (r 0), (r 1).space, shareUnit s c (r 1), (r 1).aoff, false, scatterWork (r 0) (r 1) c.idx⟩
  | 3 =>
    ⟨(r 0).fmt, 0, none, (r 1).space, shareUnit s c (r 1), (r 1).aoff, false, if c.vals.isEmpty then [] else valueWork (r 1)⟩
  | _ => ⟨0, 0, none, 0, none, 0, false, []⟩

/-- The work of any command. -/
def planOf (s : State) (c : Cmd) : Plan := if c.matrix then matrixPlan s c else enginePlan s c

/-- Elements that an optimizer step or a sweep treats. -/
def stepsOf (c : Cmd) : Nat :=
  let r (i : Nat) : TRec := tensorRec (lget 0 c.recs i)
  if c.minor == 7 then c.idx.length * (r 0).vcols else (viewCells (r 0)).length

/-- Every core that holds the context's activation table has switched to the command's image (07 R275). -/
def allSwitched (s : State) (c : Cmd) : Bool :=
  s.cores.all fun e => match mget e.2.acts c.cid with
    | none => true
    | some a => a.switched == c.acc.getD 0

/-- The command has nothing more to do before its milepost or completion. -/
def workDone (s : State) (c : Cmd) : Bool :=
  c.begun && !c.frozen &&
    (c.err != 0 ||
      (c.waitPage.isNone &&
        (if c.matrix then c.doneW == (matrixPlan s c).works.length
         else if c.actImage.isSome then allSwitched s c
         else if c.minor == 7 then c.doneW == stepsOf c + 1
         else if c.minor == 8 then c.doneW == stepsOf c
         else (c.minor != 3 || !c.vals.isEmpty) && c.doneW == (enginePlan s c).works.length)))

/-- Destination addresses in global memory. -/
def destPages (p : Plan) : List Nat := if p.dstSpace == 0 then pagesOf (p.works.map (fun w => w.dst.addr)) else []

/-- A command of moves that passed its own checks has its work before it. -/
def settleBegin (s : State) (ring : Nat) (c : Cmd) : State × Cmd := startWork s ring c (planOf s c)

/-- Formats, spaces and tiles of a move agree (09 R338, R339, R341). -/
def moveFmtOk (a b : TRec) : Bool := decide (a.space < 2) && decide (b.space < 2) && a.fmt == b.fmt && a.tile == b.tile && a.fmt != 0x20

/-- Codes that refuse an `ecopy` (09 R339, R340). A source with FMT 0x20 is 0x03 by R338; where the destination has it too, R340 gives 0x02 for
a source that is not n8, and the model 0x02 (log 89). -/
def copyCodes (s : State) (c : Cmd) (a b : TRec) : List Nat :=
  if b.fmt == 0x20 then
    (if a.fmt == 0x00 && a.vrows * a.vcols == 4224 then [] else [2]) ++ (if decide (a.space < 2) then [] else [3])
  else
    (if a.vrows == b.vrows && a.vcols == b.vcols && (a.tile != b.tile || originsOk a b) then [] else [2]) ++
      (if moveFmtOk a b then [] else [3]) ++ (if arrivalOk s c b then [] else [8])

/-- Another load of the context's activation table is under way (07 R275). -/
def tableBusy (s : State) (c : Cmd) : Bool :=
  ((mget s.contexts c.cid).map (fun x => x.consists.any (fun q => match q.2.cmds with
    | h :: _ => h.actImage.isSome && h.acc != c.acc
    | [] => false))).getD false

/-- The records of a command as tensor records, and the codes that refuse them (09 R322). -/
def recordCodes (s : State) (c : Cmd) (recs : List Nat) : List Nat :=
  (recs.map (fun v => goodRecord s c (tensorRec v))).filter (· != 0)

/-- `ecopy` begins (09 R339, R340). -/
def beginCopy (s : State) (ring : Nat) (c : Cmd) : State × Cmd :=
  match allOk ([c.x.toNat, c.y.toNat].map (fun a => readRecord s ring c a 64)) with
  | .error e => stopCmd s ring c e
  | .ok recs =>
    let a := tensorRec (lget 0 recs 0)
    let b := tensorRec (lget 0 recs 1)
    let bad := recordCodes s c recs ++ (match c.follow with
      | some v => if followOk v then [] else [1]
      | none => [])
    let codes := if bad.isEmpty then copyCodes s c a b else bad
    let c := { c with recs := recs }
    if !codes.isEmpty then refuse s ring c (pickCode s codes)
    else if b.fmt == 0x20 then
      if tableBusy s c then (s, { c with recs := [] })
      else
        let (s, c) := walkRecords s ring c [] [a]
        if c.frozen then (s, c)
        else
          match readValues s ring c a with
          | .error e => stopCmd s ring c e
          | .ok vals =>
            let img := vals.map (BitVec.ofNat 8)
            if imageOk img then (s, { c with begun := true, actImage := some img }) else refuse s ring c 1
    else settleBegin s ring c

/-- The index list of a gather, scatter or optimizer step (09 R341). -/
def readIndex (s : State) (ring : Nat) (c : Cmd) (r : TRec) : Except Stop (List Nat) :=
  if r.fmt != 0x04 || decide (2 ≤ r.space) then .error (.code 3) else readValues s ring c r

/-- `egath` and `escat` begin (09 R341): the table is the first record of one, the second of the other. -/
def beginGather (s : State) (ring : Nat) (c : Cmd) : State × Cmd :=
  match allOk ([c.x.toNat, c.y.toNat, c.z.toNat].map (fun a => readRecord s ring c a 64)) with
  | .error e => stopCmd s ring c e
  | .ok recs =>
    let a := tensorRec (lget 0 recs 0)
    let b := tensorRec (lget 0 recs 1)
    let i := tensorRec (lget 0 recs 2)
    let table := if c.minor == 1 then a else b
    let packed := if c.minor == 1 then b else a
    let bad := recordCodes s c recs
    let shape := packed.vrows == listLength i && packed.vcols == table.vcols
    let fmt := moveFmtOk a b && a.tile == 0 && b.tile == 0 && i.fmt == 0x04 && decide (i.space < 2)
    let codes :=
      if !bad.isEmpty then bad
      else (if shape then [] else [2]) ++ (if fmt then [] else [3]) ++ (if arrivalOk s c b then [] else [8])
    let c := { c with recs := recs }
    if !codes.isEmpty then refuse s ring c (pickCode s codes)
    else
      let (s, c) := if c.minor == 1 then walkRecords s ring c [b] [i] else walkRecords s ring c [] [a, i]
      if c.frozen then (s, c)
      else
        match readIndex s ring c i with
        | .error e => stopCmd s ring c e
        | .ok idx =>
          let c := { c with idx := idx, note := if idx.any (fun n => decide (table.vrows ≤ n)) then 0x0D else 0 }
          settleBegin s ring c

/-- The rank of a context on this device in a collective group (15 R445). -/
def groupRank (s : State) (part group cid : Nat) : Option Nat × Nat :=
  match (mget s.parts part).bind (fun p => mget p.colls group) with
  | none => (none, 0)
  | some l => (((enumFrom 0 l).find? (fun e => e.2 == (cid, s.trunk.devn))).map (·.1), l.length)

/-- Deterministic traffic to a device can leave: the fixed link of its entry is up (15 R443, R446). -/
def fixedRoute (s : State) (dev : Nat) : Bool :=
  dev == s.trunk.devn || ((routeTo s dev).map (fun r => linkUp s (bitsAt r 24 5))).getD false

/-- Members of a collective group. -/
def groupMembers (s : State) (part group : Nat) : List (Nat × Nat) :=
  ((mget s.parts part).bind (fun p => mget p.colls group)).getD []

/-- Every member of a collective group is this device or has an entry in the route table (15 R446). -/
def groupReached (s : State) (part group : Nat) : Bool :=
  (groupMembers s part group).all (fun m => m.2 == s.trunk.devn || (routeTo s m.2).isSome)

/-- `ecoll` begins: it is checked on its own and joins (09 R342, R343). The code for an NPART that is not the group's size is not stated; it
is 0x0C, participants disagree (log 91). -/
def beginColl (s : State) (ring : Nat) (c : Cmd) : State × Cmd :=
  match allOk [readRecord s ring c c.x.toNat 64, readRecord s ring c c.y.toNat 64, readRecord s ring c c.z.toNat 32] with
  | .error e => stopCmd s ring c e
  | .ok recs =>
    let a := tensorRec (lget 0 recs 0)
    let b := tensorRec (lget 0 recs 1)
    let d := collDesc (lget 0 recs 2)
    let part := partOf s c.cid
    let g := groupRank s part d.group c.cid
    let bad := recordCodes s c (recs.take 2) ++ (if d.ok then [] else [1])
    let shape := a.vrows * a.vcols == d.sizes.1 && b.vrows * b.vcols == d.sizes.2
    let fmt := moveFmtOk a b && a.fmt == d.dtype && a.tile == 0
    let agree := decide (d.rank < d.npart) && g.1 == some d.rank && g.2 == d.npart &&
      !s.colls.any (fun x => x.part == part && x.group == d.group && x.cseq == d.cseq && x.rank == d.rank) &&
      (d.op != 3 || decide (d.root < d.npart)) && groupReached s part d.group
    let codes :=
      if !bad.isEmpty then bad
      else (if shape then [] else [2]) ++ (if fmt then [] else [3]) ++ (if arrivalOk s c b then [] else [8]) ++ (if agree then [] else [0x0C])
    let c := { c with recs := recs }
    if !codes.isEmpty then refuse s ring c (pickCode s codes)
    else
      let (s, c) := walkRecords s ring c [b] [a]
      if c.frozen then (s, c)
      else
        match readValues s ring c a with
        | .error e => stopCmd s ring c e
        | .ok vals =>
          let r := settleBegin s ring c
          if !r.2.begun || r.2.err != 0 then r
          else
            ({ r.1 with colls := r.1.colls ++ [⟨part, d.group, d.cseq, d.rank, lget 0 recs 2, c.cid, ring, vals, s.tickCount⟩] },
              { r.2 with joined := true })

/-- The first piece of an element of a view. -/
def cellAt (r : TRec) (p : Nat × Nat) : Bits := lget ⟨0, 0, 0, 0⟩ (r.bits (r.at p.1 p.2)) 0

/-- Elements of an optimizer step in turn: their place in θ's view, and the gradient's (09 R348). -/
def optCells (c : Cmd) : List ((Nat × Nat) × (Nat × Nat)) :=
  (enumFrom 0 c.idx).flatMap fun e => (span 0 (tensorRec (lget 0 c.recs 0)).vcols).map fun b => ((e.2, b), (e.1, b))

/-- Words of a sweep in ascending order of their addresses (09 R350). -/
def sweepWords (c : Cmd) : List Nat :=
  let r := tensorRec (lget 0 c.recs 0)
  (ascendingWork ((viewCells r).flatMap fun p => (r.bits (r.at p.1 p.2)).map (fun b => ⟨b, .zero⟩))).map (·.dst.addr)

/-- Addresses that an optimizer step or sweep writes and reads in the work that is left. -/
def inPlaceAddrs (c : Cmd) : List Nat × List Nat :=
  let r (i : Nat) : TRec := tensorRec (lget 0 c.recs i)
  if c.minor == 7 then
    let l := (optCells c).drop c.doneW
    let w := (l.filter (fun p => decide (p.1.1 < (r 0).vrows))).flatMap (fun p => [(cellAt (r 0) p.1).addr, (cellAt (r 1) p.1).addr, (cellAt (r 2) p.1).addr])
    (w, w ++ (if (r 3).space == 0 then l.map (fun p => (cellAt (r 3) p.2).addr) else []))
  else
    let w := (sweepWords c).drop c.doneW
    (w, w)

/-- The tensor walker goes on ahead of a command as its work gets on (14 R414). -/
def walkMore (s : State) (ring : Nat) (c : Cmd) : State × Cmd :=
  if !c.begun || c.err != 0 || c.frozen then (s, c)
  else if !c.matrix && (c.minor == 7 || c.minor == 8) then walkAhead s ring c (inPlaceAddrs c).1 (inPlaceAddrs c).2
  else
    let p := planOf s c
    let all := if !c.matrix && c.minor == 3 then valueWork (tensorRec (lget 0 c.recs 1)) else p.works
    let ws := all.drop c.doneW
    walkAhead s ring c (p.dsts ws) (p.srcs ws)

/-- The same at the end of an event of a command. -/
def andWalk (ring : Nat) (r : State × Cmd) : State × Cmd := walkMore r.1 ring r.2

/-- The pages of a record that translate are single, and outside versioned ranges unless `ver` allows them. -/
def singlePages (s : State) (ring : Nat) (c : Cmd) (write ver : Bool) (r : TRec) : Bool :=
  (recordPages r).all fun g => match leafOf s ring c write (g * 32768) with
    | none => true
    | some p => pageClass s p == 0 && (ver || p.map != 2)

/-- `optstep` begins (09 R347-R349): records θ, M, V, G and the index list. -/
def beginOpt (s : State) (ring : Nat) (c : Cmd) : State × Cmd :=
  match readRecord s ring c c.x.toNat 64 with
  | .error e => stopCmd s ring c e
  | .ok blk =>
    let addrs := [bitsAt blk 448 64, bitsAt blk 384 64, bitsAt blk 320 64, bitsAt blk 256 64] ++ (if c.y == 0#64 then [] else [c.y.toNat])
    match allOk (addrs.map (fun a => readRecord s ring c a 64)) with
    | .error e => stopCmd s ring c e
    | .ok recs =>
      let r (i : Nat) : TRec := tensorRec (lget 0 recs i)
      let bad := recordCodes s c recs
      let len := if c.y == 0#64 then (r 3).vrows else listLength (r 4)
      let same (x : TRec) : Bool := x.vrows == (r 0).vrows && x.vcols == (r 0).vcols
      let shape := same (r 1) && same (r 2) && (r 3).vrows == len && (r 3).vcols == (r 0).vcols
      let fmt := (r 0).fmt == 0x06 && (r 1).fmt == 0x0E && (r 2).fmt == 0x0E && (r 3).fmt == 0x06 &&
        (c.y == 0#64 || ((r 4).fmt == 0x04 && decide ((r 4).space < 2)))
      let cls := (r 0).space == 0 && (r 1).space == 0 && (r 2).space == 0 && decide ((r 3).space < 2) &&
        singlePages s ring c true true (r 0) && singlePages s ring c true false (r 1) && singlePages s ring c true false (r 2) &&
        singlePages s ring c false true (r 3)
      let codes :=
        if !bad.isEmpty then bad else (if shape then [] else [2]) ++ (if fmt then [] else [3]) ++ (if cls then [] else [4])
      let c := { c with recs := recs ++ (if c.y == 0#64 then [0] else []) ++ [blk] }
      if !codes.isEmpty then refuse s ring c (pickCode s codes)
      else
        let (s, c) := if c.y == 0#64 then (s, c) else walkRecords s ring c [] [r 3, r 4]
        if c.frozen then (s, c)
        else
        match (if c.y == 0#64 then .ok (span 0 len) else readIndex s ring c (r 4)) with
        | .error e => stopCmd s ring c e
        | .ok idx =>
          match firstDenied s c ((List.range 4).flatMap (fun i => recordAddrs (r i))) with
          | some (code, va) => deniedError s c code va
          | none =>
            let q := chooseStaging s c (rangesOf s ring c (recordPages (r 0)))
            match q.2 with
            | some n => refuse s ring c n
            | none => (q.1, { c with begun := true, idx := idx, note := if idx.any (fun n => decide ((r 0).vrows ≤ n)) then 0x0D else 0 })

/-- `dsweep` begins (09 R350). -/
def beginSweep (s : State) (ring : Nat) (c : Cmd) : State × Cmd :=
  match readRecord s ring c c.x.toNat 64 with
  | .error e => stopCmd s ring c e
  | .ok v =>
    let r := tensorRec v
    let bad := recordCodes s c [v]
    let ok := r.fmt == 0x0E && r.space == 0 && singlePages s ring c true false r
    let c := { c with recs := [v] }
    if !bad.isEmpty then refuse s ring c (pickCode s bad)
    else if !ok then refuse s ring c 4
    else
      match firstDenied s c (recordAddrs r) with
      | some (code, va) => deniedError s c code va
      | none => (s, { c with begun := true })

/-- A page of a staging backing is copied from the current one before its first write (04 R169); poison travels with it (14 R423). -/
def inherit (s : State) (vrn pidx : Nat) : State :=
  match mget s.ranges vrn with
  | none => s
  | some r =>
    match r.stg with
    | none => s
    | some b =>
      if r.copied.contains pidx then s
      else
        let n := r.pageSpan
        let src := backingPage r r.cur pidx
        let dst := backingPage r b pidx
        let old := s.mem.filter (fun e => decide (src ≤ e.1) && decide (e.1 < src + n))
        let mem := s.mem.filter (fun e => decide (e.1 < dst) || decide (dst + n ≤ e.1))
        let move (l : List Nat) : List Nat :=
          l.filter (fun g => decide (32 * g < dst) || decide (dst + n ≤ 32 * g)) ++
            (l.filter (fun g => decide (src ≤ 32 * g) && decide (32 * g < src + n))).map (fun g => g - src / 32 + dst / 32)
        { s with
          mem := old.foldl (fun m e => zset 0#8 m (e.1 - src + dst) e.2) mem, poison := move s.poison, latent := move s.latent,
          vis := s.vis.map (fun v => { v with bytes := v.bytes.filter (fun e => decide (e.1 < dst) || decide (dst + n ≤ e.1)) }),
          ranges := mset s.ranges vrn { r with copied := pidx :: r.copied } }

/-- A word that an optimizer step or sweep treats in place: at its home address, with the page of staging that it stands in, or with
its sharded owner, which did the access and answered. -/
inductive WordSpot where
  | home (pa : Nat) (stage : Option (Nat × Nat))
  | away (v : Nat)
  deriving DecidableEq, Repr

/-- A word of `n` bytes for an optimizer step or sweep, which reads and writes it in one access (09 R349, R350; 14 R412): on a single
page, in a versioned range only where `ver` allows it; a granule that cannot be read stops it. -/
def wordSpot (s : State) (ring : Nat) (c : Cmd) (ver : Bool) (a n : Nat) : Except Stop WordSpot :=
  match engineSpot s ring c false a n with
  | .error e => .error e
  | .ok _ =>
    if !ver && ((leafOf s ring c true a).map (·.map == 2)).getD false then .error (.code 4)
    else
      match engineSpot s ring c true a n with
      | .error e => .error e
      | .ok q =>
        match q.place with
        | .single pa =>
          match badRead s q.place n a with
          | some g => .error (.poison a g)
          | none => .ok (.home pa q.stage)
        | .remote _ _ _ _ 0 => match mget c.far (farKey a n true) with
          | some v => .ok (.away v)
          | none => .error .far
        | _ => .error (.code 4)

/-- What a word holds for the command: what it has put there itself, in staging, before what stands there (04 R169). -/
def WordSpot.word (s : State) (c : Cmd) (n : Nat) : WordSpot → Nat
  | .home pa stage => ofBytes ((span pa n).map (oldByte s c Batch.init stage))
  | .away v => v

/-- The decayed value of a dw64 word, and STALE; an owner answers with both (03 R133; log 13). -/
def WordSpot.decayed (s : State) (c : Cmd) (p : WordSpot) : Nat × Nat :=
  match p with
  | .home _ _ => Machine.decayed s c.cid (p.word s c 8)
  | .away v => (v % 2 ^ 32, bitsAt v 192 15)

/-- A word is written: in place, or, in staging, into the command's shadow (04 R169). An owner has written its own. -/
def WordSpot.put (p : WordSpot) (va n v : Nat) (r : State × Cmd) : State × Cmd :=
  match p with
  | .home pa none => (writeHome (tagWrite r.1 r.2.cid r.2.core [(pa, n)]) pa (soft r.1 pa (bytesOf n v)), r.2)
  | .home pa (some vp) =>
    (r.1, { r.2 with
      shadow := r.2.shadow ++ place pa (bytesOf n v), pages := if r.2.pages.contains vp then r.2.pages else r.2.pages ++ [vp],
      vas := noteVas va pa n r.2.vas })
  | .away _ => r

/-- One element of an optimizer step (09 R348): what θ, M and V become, the flags, and whether it was left
alone. -/
def optElem (p : OptBlock) (th g md vd : Nat) : Option (Nat × Nat × Nat) :=
  if anyNan [fdec fp32 g, fdec fp32 vd] then none
  else
    let divRn (a b : Nat) : Nat := (fround fp32 .rn false (fdiv (fdec fp32 a) (fdec fp32 b))).bits
    let sqrtRn (a : Nat) : Nat := (fround fp32 .rn false (fsqrt (fdec fp32 a))).bits
    let subRn (a b : Nat) : Nat := (fround fp32 .rn false (fadd (fdec fp32 a) (fdec fp32 b).negate)).bits
    let mn := addRn32 md (mulRn32 p.b1c g)
    let vn := addRn32 vd (mulRn32 p.b2c (mulRn32 g g))
    let vh := mulRn32 vn p.vcorr
    let pos := match fdec fp32 vh with
      | .inf false => true
      | .fin false n _ => n != 0
      | _ => false
    let vh := if pos then vh else 0
    let den := addRn32 (sqrtRn vh) p.eps
    let u := addRn32 (divRn (mulRn32 mn p.mcorr) den) (mulRn32 p.wd th)
    some (subRn th (mulRn32 p.lr u), mn, vn)

/-- The gradient may lie on a single page, or in a share (09 R349). -/
def gradOk (s : State) (ring : Nat) (c : Cmd) (r : TRec) (a : Nat) : Bool :=
  r.space != 0 || match engineSpot s ring c false a 4 with
    | .ok q => placeClass s q.place == 0
    | .error _ => true

/-- The element of an optimizer step that stands at (idx[i], column): one step of the command (09 R348, R349). -/
def optStep (s : State) (ring : Nat) (c : Cmd) (row g : Nat × Nat) : Except Stop (State × Cmd) :=
  let r (i : Nat) : TRec := tensorRec (lget 0 c.recs i)
  let a (i : Nat) : Nat := (cellAt (r i) row).addr
  match allOk [wordSpot s ring c true (a 0) 4, wordSpot s ring c false (a 1) 8, wordSpot s ring c false (a 2) 8],
      readBits s ring c (r 3).space (shareUnit s c (r 3)) (cellAt (r 3) g) with
  | .error e, _ => .error e
  | _, .error e => .error e
  | .ok spots, .ok gv =>
    if !gradOk s ring c (r 3) (cellAt (r 3) g).addr then .error (.code 4)
    else
      let spot (i : Nat) : WordSpot := lget (.away 0) spots i
      let md := (spot 1).decayed s c
      let vd := (spot 2).decayed s c
      let c := { c with flags := c.flags ||| BitVec.ofNat 32 (md.2 ||| vd.2) }
      match optElem (optBlock (lget 0 c.recs 5)) ((spot 0).word s c 4 % 2 ^ 32) (lget 0 gv 0) md.1 vd.1 with
      | none => .ok (s, { c with nans := c.nans + 1, flags := c.flags ||| BitVec.ofNat 32 flOPTNAN, doneW := c.doneW + 1 })
      | some v =>
        let word (i val : Nat) : Nat := dwWord val (gstepOf s c.cid).toNat (dwCls ((spot i).word s c 8))
        .ok ((spot 2).put (a 2) 8 (word 2 v.2.2) ((spot 1).put (a 1) 8 (word 1 v.2.1) ((spot 0).put (a 0) 4 v.1 (s, { c with doneW := c.doneW + 1 }))))

/-- The block's NANCNT is written at the end (09 R347, R349). -/
def optEnd (s : State) (ring : Nat) (c : Cmd) : Except Stop (State × Cmd) :=
  let p : Plan := ⟨4, 0, none, 0, none, 0, false, []⟩
  match engineSpot s ring c true c.x.toNat 4 with
  | .error e => .error e
  | .ok q =>
    let n := min (2 ^ 32 - 1) ((optBlock (lget 0 c.recs 5)).nancnt + c.nans)
    match gatherSpot s c p q ⟨c.x.toNat, 4, 0, 32⟩ [n] Batch.init with
    | .error e => .error e
    | .ok b => .ok (applyBatch s c p b, { keepBatch c b with doneW := c.doneW + 1 })

/-- One word of a sweep (09 R350). -/
def sweepStep (s : State) (ring : Nat) (c : Cmd) (a : Nat) : Except Stop (State × Cmd) :=
  match wordSpot s ring c false a 8 with
  | .error e => .error e
  | .ok p =>
    let c := { c with doneW := c.doneW + 1 }
    match p with
    | .away v => .ok (s, { c with flags := c.flags ||| BitVec.ofNat 32 (bitsAt v 192 15) })
    | .home _ _ =>
      let v := p.word s c 8
      if sweepAge s c.cid v < 2 ^ 14 then .ok (s, c)
      else
        let d := p.decayed s c
        .ok (p.put a 8 (dwWord d.1 (gstepOf s c.cid).toNat (dwCls v)) (s, { c with flags := c.flags ||| BitVec.ofNat 32 d.2 }))

/-- Elements of a command in turn, up to the first stop. -/
def runSteps {α : Type} (f : State → Cmd → α → Except Stop (State × Cmd)) (ring : Nat) : State → Cmd → List α → State × Cmd
  | s, c, [] => (s, c)
  | s, c, x :: l =>
    match f s c x with
    | .error e => stopCmd s ring c e
    | .ok r => runSteps f ring r.1 r.2 l

/-- An optimizer step or sweep goes on from where it stands, once every write before it is visible (04 R158, R163): through all words that are
left, up to the first that stops it, in one step, so that no write of the step counter and no decay operation falls between two of them,
which 03 R136 and 09 R350 allow (log 14). -/
def goOn (s : State) (ring : Nat) (c : Cmd) : State × Cmd :=
  if !s.vis.isEmpty then (s, c)
  else if c.minor == 7 then
    let step (s : State) (c : Cmd) (p : (Nat × Nat) × (Nat × Nat)) : Except Stop (State × Cmd) :=
      if (tensorRec (lget 0 c.recs 0)).vrows ≤ p.1.1 then .ok (s, { c with doneW := c.doneW + 1 }) else optStep s ring c p.1 p.2
    let q := runSteps step ring s c ((optCells c).drop c.doneW)
    if q.2.err == 0 && q.2.waitPage.isNone && !q.2.frozen && q.2.doneW == stepsOf q.2 then runSteps (fun s c _ => optEnd s ring c) ring q.1 q.2 [()] else q
  else runSteps (fun s c a => sweepStep s ring c a) ring s c ((sweepWords c).drop c.doneW)

/-- A command reads and checks its records (04 R163). -/
def beginEngine (s : State) (ring : Nat) (c : Cmd) : State × Cmd :=
  match c.minor with
  | 0 => beginCopy s ring c
  | 1 => beginGather s ring c
  | 2 => beginGather s ring c
  | 3 => beginColl s ring c
  | 7 =>
    let r := beginOpt s ring c
    if r.2.begun && r.2.err == 0 then andWalk ring (goOn r.1 ring r.2) else r
  | _ =>
    let r := beginSweep s ring c
    if r.2.begun && r.2.err == 0 then andWalk ring (goOn r.1 ring r.2) else r

/-- ENGINE_COMMAND_BEGIN (04 R163): the head of a consist begins, or goes on with words it treats in place. -/
def engineBegin (s : State) (cid ring : Nat) : State :=
  match headOf s cid ring with
  | none => s
  | some c =>
    let frozen := ((mget s.contexts cid).bind (fun x => (mget x.consists ring).map (·.frozen))).getD true
    if decide (64 ≤ ring) || frozen || c.frozen || c.waitPage.isSome || c.err != 0 || s.mgmt.fatal then s
    else if !c.begun then
      let r := beginEngine s ring c
      concludeAll (putHead r.1 cid ring r.2) (contextWaves s cid)
    else if (c.minor == 7 || c.minor == 8) && !workDone s c then
      let r := andWalk ring (goOn s ring c)
      concludeAll (putHead r.1 cid ring r.2) (contextWaves s cid)
    else s

/-- ENGINE_COMMAND_BEGIN. -/
def execEngineCommandBegin (cid ring : Nat) (s : State) : Out := .next (nextFree (engineBegin s cid ring))

/-- Throw granule of an address (04 R164). -/
def granule2m (a : Nat) : Nat := a / 2 ^ 21

/-- A command whose next pieces may be thrown or landed. -/
def working (s : State) (cid ring : Nat) : Option (Cmd × Plan) :=
  match headOf s cid ring with
  | none => none
  | some c => if c.begun && c.err == 0 && !c.frozen && c.waitPage.isNone && !s.mgmt.fatal then some (c, planOf s c) else none

/-- POINTS_THROW (04 R164, R165): the next granule of a global destination, once every write before it is visible
(04 R158). -/
def pointsThrow (s : State) (cid ring : Nat) : State :=
  match working s cid ring with
  | none => s
  | some (c, p) =>
    match p.works.drop c.doneW with
    | [] => s
    | w :: l =>
      if p.dstSpace != 0 || !s.vis.isEmpty then s
      else
        let ws := (w :: l).takeWhile (fun x => granule2m x.dst.addr == granule2m w.dst.addr)
        let g := gatherAll s ring c p ws Batch.init
        match g.2 with
        | some e =>
          let r := stopCmd s ring c e
          concludeAll (putHead r.1 cid ring r.2) (contextWaves s cid)
        | none =>
          let r := andWalk ring (applyBatch s c p g.1, keepBatch c g.1)
          concludeAll (putHead r.1 cid ring r.2) (contextWaves r.1 cid)

/-- POINTS_THROW. -/
def execPointsThrow (cid ring : Nat) (s : State) : Out := .next (nextFree (pointsThrow s cid ring))

/-- The pieces of whole storage units that come to at most `n` bytes, at least one unit; and their bytes. -/
def landing (n : Nat) : Option Nat → Nat → List Work → List Work × Nat
  | _, got, [] => ([], got)
  | last, got, w :: l =>
    if last == some w.dst.addr then
      let r := landing n last got l
      (w :: r.1, r.2)
    else if got == 0 || decide (got + w.dst.nb ≤ n) then
      let r := landing n (some w.dst.addr) (got + w.dst.nb) l
      (w :: r.1, r.2)
    else ([], got)

/-- Pieces of a landing before the one that stops it, in whole units. -/
def beforeStop (ws : List Work) (m : Nat) : List Work :=
  match ws.drop m with
  | [] => ws
  | w :: _ => (ws.take m).filter (fun x => x.dst.addr != w.dst.addr)

/-- Land pieces in a share: bytes written, then counted at the arrival word (04 R149). -/
def landWorks (s : State) (cid ring : Nat) (c : Cmd) (p : Plan) (ws : List Work) : State :=
  let g := gatherAll s ring c p ws Batch.init
  let u := p.dstUnit.getD 0
  let r := andWalk ring (applyBatch s c p g.1, keepBatch c g.1)
  let s := arriveWord (putHead r.1 cid ring r.2) u (16 * p.aoff) g.1.share.length
  concludeAll (concludeAll s (unitWaves s u)) (contextWaves s cid)

/-- ARRIVE (04 R149): a landing of about `n` bytes of a share destination. -/
def arriveLanding (s : State) (cid ring n : Nat) : State :=
  match working s cid ring with
  | none => s
  | some (c, p) =>
    if p.dstSpace != 1 || !s.vis.isEmpty then s
    else
      let ws := (landing n none 0 (p.works.drop c.doneW)).1
      if ws.isEmpty then s
      else
        let g := gatherAll s ring c p ws Batch.init
        match g.2 with
        | none => landWorks s cid ring c p ws
        | some e =>
          let ok := beforeStop ws g.1.count
          if ok.isEmpty then
            let r := stopCmd s ring c e
            concludeAll (putHead r.1 cid ring r.2) (contextWaves s cid)
          else landWorks s cid ring c p ok

/-- ARRIVE. -/
def execArrive (cid ring n : Nat) (s : State) : Out := .next (nextFree (arriveLanding s cid ring n))

end Sys2Proof.Machine
end

