-- ==== Sys2Proof/Machine/EngineIssue.lean ====
section
/-! DEFINITION. Issuing MM and EN words (09 R316-R317, R323-R346): one effect for the packed threads, scalar
operands, a block section of its own. -/

namespace Sys2Proof.Machine

/-- The form of an MM or EN word: forbidden to a handler (12 R374). -/
def engineForm (m : Bool) : Form := ⟨m, false, [], false, true⟩

/-- Pass the packed threads and close their block sections (02 R86). -/
def passEngine (s : State) (w : Wave) (e : Exec) (f : Form) (born : Nat) : Wave := (passAll s w e f).openSections born e.tids

/-- The slot that the word's `hint` raises, outside interlocked mode (05 R177, 09 R324, R326). -/
def raisedSlot (w : Wave) (hint : Option Nat) : Option Nat :=
  if w.ilk then none else match hint with
    | some h => hintSets h
    | none => none

/-- Raise a slot. -/
def Wave.raiseSlot (w : Wave) (n : Option Nat) : Wave :=
  match n with
  | none => w
  | some i => { w with slots := slotUp w.slots i }

/-- A command that a wave issues. -/
def newCmd (s : State) (w : Wave) (e : Exec) (seq x y z : W64) (acc : Option Nat) : Cmd :=
  { seq := seq, word := e.word, hintw := (e.hint.map (· + 2 ^ 25)).getD 0, x := x, y := y, z := z, core := w.core, slot := w.slot,
    unit := w.unit, lidx := w.wlog * w.grant, grant := w.grant, wlog := w.wlog, cid := w.cid, addr := e.first, pin := w.pin,
    triple := w.triple, nctl := w.nctl, seed := seedOf s w, acc := acc, follow := none, slotSet := none, carried := none,
    begun := false, err := 0, note := 0, flags := 0#32, recs := [], idx := [], vals := [], doneW := 0, shadow := [], pages := [],
    nans := 0, frozen := false, joined := false, sent := false, actImage := none, waitPage := none, ahead := [], far := [], iaddr := e.addr }

/-- Put a matrix instruction into its queue (09 R317). -/
def accept (s : State) (core : Nat) (c : Cmd) : State :=
  modC s core fun x =>
    let c := { c with seq := BitVec.ofNat 64 x.accepted }
    let x := { x with accepted := x.accepted + 1 }
    if c.minor == 6 then { x with storeQ := x.storeQ ++ [c] }
    else if decide (3 ≤ c.minor) then { x with compQ := x.compQ ++ [c] }
    else { x with loadQ := x.loadQ ++ [c] }

/-- The matrix-unavailable trap (09 R315, 12 R368). -/
def matrixTrap (s : State) (k : Nat) (e : Exec) : State := meetCause s k ⟨cMatrix, e.addr, 0#64, 0#32, 0, maskOf e.tids⟩

/-- The wave's unit holds its core's matrix unit (09 R315). -/
def holdsMatrix (s : State) (w : Wave) : Bool := ((mget s.units w.unit).map (·.mown)).getD false

/-- A matrix instruction other than `tdesc` (09 R315-R317). -/
def matrixBody (f : Form) (x y z : SReg) (counted : Bool) (s : State) (k : Nat) (w : Wave) (e : Exec) : State :=
  if (w.actives e.tids).isEmpty then setW s k (passEngine s w e f s.nextId)
  else if !holdsMatrix s w then matrixTrap s k e
  else
    let id := s.nextId
    let v (p : Nat) (r : SReg) : W64 := readScal s w e.tids p r.toNat
    let slot := raisedSlot w e.hint
    let c := { newCmd s w e 0#64 (v 1 x) (v 2 y) (v 3 z) (if counted then some id else none) with slotSet := slot }
    let w := w.raiseSlot slot
    let w := if counted then { w with enq := w.enq ++ [(id, false)] } else w
    accept (setW { s with nextId := id + 1 } k (passEngine s w e f (id + 1))) w.core c

/-- `mload` (09 R329). -/
def execMload (m : Bool) (x y : SReg) (s : State) : Out := runWord (engineForm m) (matrixBody (engineForm m) x y 0#6 true) s
/-- `tturn` (09 R329). -/
def execTturn (m : Bool) (x y : SReg) (s : State) : Out := runWord (engineForm m) (matrixBody (engineForm m) x y 0#6 true) s
/-- `mma` (09 R330, R332). -/
def execMma (m : Bool) (x y z : SReg) (_narrow _clear : Bool) (s : State) : Out :=
  runWord (engineForm m) (matrixBody (engineForm m) x y z false) s
/-- `mma.sc` (09 R330, R332). -/
def execMmaSc (m : Bool) (x y z : SReg) (_narrow _clear : Bool) (s : State) : Out :=
  runWord (engineForm m) (matrixBody (engineForm m) x y z false) s
/-- `mma.pn` (09 R330, R332). -/
def execMmaPn (m : Bool) (x y z : SReg) (_narrow _clear : Bool) (s : State) : Out :=
  runWord (engineForm m) (matrixBody (engineForm m) x y z false) s
/-- `mstore` (09 R333, R334). -/
def execMstore (m : Bool) (x : SReg) (_sat : Bool) (s : State) : Out :=
  runWord (engineForm m) (matrixBody (engineForm m) x 0#6 0#6 true) s

/-- A record of `n` bytes that a word reads at issue: as the wave's die sees it, or what the owner of its page has answered to a read
of this kind (14 R435). -/
def recordAt (s : State) (w : Wave) (va n kind : Nat) (pl : Place) : Option Nat :=
  if isRemote pl then farData w va kind else some (lget 0 (readPlanes s (dieOf w.core) ⟨0, va, pl, []⟩ n) 0)

/-- `tdesc` (09 R323): a load and a store of the wave; BASE is translated with the record. -/
def tdescBody (f : Form) (x y z : SReg) (mods : Nat) (s : State) (k : Nat) (w : Wave) (e : Exec) : State :=
  if (w.actives e.tids).isEmpty then setW s k (passEngine s w e f s.nextId)
  else
    let va := (readScal s w e.tids 1 x.toNat).toNat
    let yv := (readScal s w e.tids 2 y.toNat).toNat
    let zv := (readScal s w e.tids 3 z.toNat).toNat
    let go (pl : Place) : State :=
      let id := s.nextId
      let slot := raisedSlot w e.hint
      let a : Access := { waveAccess s w e (.tdesc mods) va pl [yv, zv] none with slot := slot }
      let w := w.dropRead va 2
      let s' : State := { s with nextId := id + 1 }
      if isRemote pl then setW s' k ((w.raiseSlot slot).hold (farCode s) (heldWhole s w e [a] none (kRead + kWrite + kScalar) true f.last))
      else setW s' k (passEngine s ((launchAccess s w 1 1 a).raiseSlot slot) e f (id + 1))
    scalarMem s k w e .both va (checkGlobal s w .both .scalar 64 64 va) fun pl =>
      match recordAt s w va 64 2 pl with
      | none => askFar s k va 2 e.tids
      | some v =>
        let r := tensorRec v
        let base := if tst mods 0 then yv else r.base
        if r.space != 0 || r.fmt == 0x20 then go pl
        else if 2 ^ 56 ≤ base then accessTrap s k e 1 base e.tids
        else if unwalked s w.cid base then accessTrap s k e 4 base e.tids
        else
          match translate s w.cid (tlbOf s w) w.priv.isSome .read base with
          | .page _ => go pl
          | .fault reason => toSiding s k (kRead + kScalar) true [(lget 0 e.tids 0, base, reason)] e.tids
          | .viol pa => freezeWave s k e.first base pa

/-- `tdesc` (09 R323). -/
def execTdesc (m : Bool) (x y z : SReg) (orig base : Bool) (s : State) : Out :=
  runWord (engineForm m) (tdescBody (engineForm m) x y z (bnat base + 2 * bnat orig)) s

/-- A command error of the wave that issues: no command carries it. -/
def issueError (w : Wave) (e : Exec) (con : Option Nat) (code : Nat) : Wave :=
  { w with cmdErrs := w.cmdErrs ++ [⟨cCommand, e.first, errInfo con 0, 0#32, code, 0#64⟩] }

/-- A consist entry (09 R336). -/
def consistEntry (c : Cmd) : Nat :=
  c.x.toNat * 2 ^ 448 + c.y.toNat * 2 ^ 384 + c.z.toNat * 2 ^ 320 + c.seq.toNat * 2 ^ 256 + c.word * 2 ^ 224 + c.hintw * 2 ^ 192 +
    c.core % 48 * 2 ^ 184 + c.slot * 2 ^ 176

/-- What the digest of each active packed thread takes up of a consist command (13 R406): performed as it is
issued. -/
def foldCommand (s : State) (w : Wave) (e : Exec) (id : Nat) (x y z : W64) : Wave :=
  if !keepsDigest s w then w
  else
    let items := [[x.toNat, y.toNat, z.toNat, e.word % 2 ^ 31]]
    w.onTids (w.actives e.tids) fun _ t =>
      let r := settleFolds t.digest (t.folds ++ [⟨id, 1, items⟩])
      { t with digest := r.1, folds := r.2 }

/-- Append a command to a consist (09 R335, R336, R339): its entry, counter, slots and digest. -/
def appendCmd (f : Form) (eng : Nat) (q : Consist) (x y z : W64) (follow : Option Nat) (s : State) (k : Nat) (w : Wave) (e : Exec) : State :=
  let id := s.nextId
  let con := conOf (dieOf w.core) eng
  let count := q.tail + 1
  let seq : W64 := BitVec.ofNat 64 (conTag con * 2 ^ 62 + count % 2 ^ 62)
  let c := { newCmd s w e seq x y z (some id) with follow := follow }
  let slot := raisedSlot w e.hint
  let fslot := follow.bind (fun v => raisedSlot w (some (foHint v)))
  let wait (n : Option Nat) (fo : Bool) : List (Nat × Nat × Nat × Bool) := match n with
    | some i => [(i, con, count, fo)]
    | none => []
  let w := (w.raiseSlot slot).raiseSlot fslot
  let w : Wave :=
    { w with
      enq := w.enq ++ [(id, false)], slotWaits := w.slotWaits ++ wait slot false ++ wait fslot true,
      lastSeq := mset w.lastSeq con seq }
  let w := foldCommand s w e id x y z
  let s := setW { s with nextId := id + 1 } k (passEngine s w e f (id + 1))
  let s := modX s w.cid (fun x => { x with consists := mset x.consists con { q with tail := count, cmds := q.cmds ++ [c] } })
  engineWrite s con (q.ring + 64 * (q.tail % 2 ^ q.log2n)) (numBytes 64 (consistEntry c)) (uEngine con) c

/-- An engine word that appends a command (09 R335, R337, R367). `more` reads what the word reads at issue. -/
def engineBody (f : Form) (eng : Nat) (x y z : SReg) (more : Consist → W64 → W64 → W64 → State → Nat → Wave → Exec → State)
    (s : State) (k : Nat) (w : Wave) (e : Exec) : State :=
  if (w.actives e.tids).isEmpty then setW s k (passEngine s w e f s.nextId)
  else
    let v (p : Nat) (r : SReg) : W64 := readScal s w e.tids p r.toNat
    match consistOf s w.cid (dieOf w.core) eng with
    | none => setW s k (passEngine s (issueError w e (some (conOf (dieOf w.core) eng)) 1) e f s.nextId)
    | some q => more q (v 1 x) (v 2 y) (v 3 z) s k w e

/-- A word without a follow-on. A register field that the word does not use is zero, and names s0 in the entry (05 R174; 09
R336). -/
def runEngine (m : Bool) (eng : Nat) (x y z : Option SReg) (s : State) : Out :=
  let f := engineForm m
  let r (o : Option SReg) : SReg := o.getD 0#6
  runWord f (engineBody f eng (r x) (r y) (r z) (fun q a b c => appendCmd f eng q a b c none)) s

/-- `ecopy` reads its follow-on record at issue (09 R339). -/
def copyIssue (f : Form) (eng : Nat) (q : Consist) (x y z : W64) (s : State) (k : Nat) (w : Wave) (e : Exec) : State :=
  if z == 0#64 then appendCmd f eng q x y z none s k w e
  else
    scalarMem s k w e .read z.toNat (checkGlobal s w .read .scalar 32 32 z.toNat) fun pl =>
      match badGranule s pl 32 z.toNat with
      | some (g, _) =>
        let s := chargeError (poisonGranule s g) w e.addr z.toNat g 1
        let s := addCause s k ⟨cData, e.addr, BitVec.ofNat 64 (z.toNat / 32 * 32), 0#32, 0, maskOf (w.actives e.tids)⟩
        appendCmd f eng q x y z (some 0) s k ((mget s.waves k).getD w) e
      | none =>
        match recordAt s w z.toNat 32 1 pl with
        | none => askFar s k z.toNat 1 e.tids
        | some v => appendCmd f eng q x y z (some (v % 2 ^ 256)) s k (w.dropRead z.toNat 1) e

/-- `ecopy` (09 R339). -/
def execEcopy (m : Bool) (x y z : SReg) (eng : BitVec 2) (s : State) : Out :=
  let f := engineForm m
  runWord f (engineBody f eng.toNat x y z (copyIssue f eng.toNat)) s
/-- `egath` (09 R341). -/
def execEgath (m : Bool) (x y z : SReg) (s : State) : Out := runEngine m 4 (some x) (some y) (some z) s
/-- `escat` (09 R341). -/
def execEscat (m : Bool) (x y z : SReg) (s : State) : Out := runEngine m 4 (some x) (some y) (some z) s
/-- `ecoll` (09 R342, R343). -/
def execEcoll (m : Bool) (x y z : SReg) (eng : BitVec 3) (s : State) : Out := runEngine m eng.toNat (some x) (some y) (some z) s
/-- `optstep` (09 R347). -/
def execOptstep (m : Bool) (x y : SReg) (s : State) : Out := runEngine m 4 (some x) (some y) none s
/-- `dsweep` (09 R350). -/
def execDsweep (m : Bool) (x : SReg) (eng : BitVec 2) (s : State) : Out := runEngine m eng.toNat (some x) none none s

/-- The context owns a version group (04 R167, 09 R344). -/
def ownsGroup (s : State) (cid : Nat) : Bool := s.ranges.any (fun e => e.2.owner == cid && !e.2.dead)

/-- A scalar result that arrives later (02 R81, 09 R316). -/
def lateScalar (s : State) (w : Wave) (e : Exec) (d : SReg) (v : W64) : Wave :=
  (addAccess w { resultAccess s w e (some (scalKey d.toNat, true)) 0 [(lget 0 e.tids 0, [v.toNat])] with
    folds := w.actives e.tids }).oweScal e.tids d.toNat

/-- `publish` (09 R344): counted on the engine counter until the switch or the busy answer. -/
def publishBody (f : Form) (x : SReg) (s : State) (k : Nat) (w : Wave) (e : Exec) : State :=
  if (w.actives e.tids).isEmpty then setW s k (passEngine s w e f s.nextId)
  else
    let id := s.nextId
    let s' : State := { s with nextId := id + 1 }
    if !ownsGroup s w.cid then setW s' k (passEngine s (issueError (lateScalar s w e x 0#64) e none 7) e f (id + 1))
    else
      let a : Access :=
        { id := id, op := .publish, lanes := [⟨lget 0 e.tids 0, 0, .single 0, []⟩], dest := some (scalKey x.toNat, true), addr := e.addr,
          word := e.word, after := [], performed := false, user := true, folds := w.actives e.tids, slot := none }
      let w := (addAccess { w with enq := w.enq ++ [(id, false)] } a).oweScal e.tids x.toNat
      setW s' k (passEngine s w e f (id + 1))

/-- `publish` (09 R344). -/
def execPublish (m : Bool) (x : SReg) (s : State) : Out := runWord (engineForm m) (publishBody (engineForm m) x) s

/-- `eseq` (09 R345). -/
def eseqBody (f : Form) (x : SReg) (eng : Nat) (last : Bool) (s : State) (k : Nat) (w : Wave) (e : Exec) : State :=
  if (w.actives e.tids).isEmpty then setW s k (passEngine s w e f s.nextId)
  else
    let con := conOf (dieOf w.core) eng
    match consistOf s w.cid (dieOf w.core) eng with
    | none => setW s k (passEngine s (issueError w e (some con) 1) e f s.nextId)
    | some q =>
      let v : W64 := if last then (mget w.lastSeq con).getD 0#64 else BitVec.ofNat 64 (conTag con * 2 ^ 62 + q.milepost % 2 ^ 62)
      setW { s with nextId := s.nextId + 1 } k (passEngine s (lateScalar s w e x v) e f (s.nextId + 1))

/-- `eseq` with selector 0 (09 R345). -/
def execEseqMilepost (m : Bool) (x : SReg) (eng : BitVec 3) (s : State) : Out :=
  runWord (engineForm m) (eseqBody (engineForm m) x eng.toNat false) s
/-- `eseq` with selector 1 (09 R345). -/
def execEseqLast (m : Bool) (x : SReg) (eng : BitVec 3) (s : State) : Out :=
  runWord (engineForm m) (eseqBody (engineForm m) x eng.toNat true) s

/-- `ewait` (09 R346): it ends the run; the threads wait unless the milepost is there. While they wait, the section that the
word forms (09 R316) is not over, and a rollback begins the wait again (log 40). -/
def ewaitBody (f : Form) (x : SReg) (eng : Nat) (s : State) (k : Nat) (w : Wave) (e : Exec) : State :=
  if (w.actives e.tids).isEmpty then setW s k (passEngine s w e f s.nextId)
  else
    let v := (readScal s w e.tids 1 x.toNat).toNat
    let die := if eng < 5 then v / 2 ^ 62 else 0
    let con := conOf die eng
    match consistOf s w.cid die eng with
    | none => setW s k (passEngine s (issueError w e (some con) 1) e f s.nextId)
    | some q =>
      let w := passEngine s w e f s.nextId
      if v % 2 ^ 62 ≤ q.milepost then setW s k w
      else setW s k (w.onTids e.tids (fun _ t => { t with
        st := .waiting, hold := .milepost con (v % 2 ^ 62), sec := { t.sec with entry := e.first } }))

/-- `ewait` (09 R346). -/
def execEwait (m : Bool) (x : SReg) (eng : BitVec 3) (s : State) : Out :=
  runWord (engineForm m).ending (ewaitBody (engineForm m).ending x eng.toNat) s

end Sys2Proof.Machine
end

