-- ==== Sys2Proof/Machine/Sched.lean ====
section
/-! DEFINITION. Where a unit fits and what the Signalbox chooses (13 R391-R397): grants, resources of a core, gangs
and domain instances; dealing a launch to the Junctions (R393). -/

namespace Sys2Proof.Machine

/-- The declaration byte of tier `k` (13 R389). -/
def tierByte (l : Launch) (k : Nat) : Nat := lget 0 l.tiers (k - 2)
/-- Its domain. -/
def tierDom (l : Launch) (k : Nat) : Nat := tierByte l k % 4
/-- Its units are co-resident: it is bound to a core, or it holds a platform (01 R42). -/
def tierHolds (l : Launch) (k : Nat) : Bool := tierDom l k == 0 || tst (tierByte l k) 4
/-- The tiers of a launch. -/
def tiersOf (l : Launch) : List Nat := span 2 (l.lvl - 1)
/-- The highest tier with a property, from 2. -/
def highTier (l : Launch) (p : Nat → Bool) : Nat := ((tiersOf l).filter p).foldl max 2
/-- The distribution tier (13 R393). -/
def distTier (l : Launch) : Nat := highTier l (fun k => decide (tierDom l k ≤ 1))
/-- The highest tier that is placed in one step (13 R397). -/
def gangTier (l : Launch) : Nat := highTier l (tierHolds l)
/-- The highest core-bound tier. -/
def coreTier (l : Launch) : Nat := highTier l (fun k => tierDom l k == 0)
/-- What a Junction claims whole (13 R393, R394). -/
def claimTier (l : Launch) : Nat := max (distTier l) (gangTier l)

/-- The level-2 unit belongs to this device (13 R393). -/
def onDevice (l : Launch) (ord : Nat) : Bool :=
  let k := highTier l (fun k => tierDom l k == 2)
  if tierDom l k == 2 then ord / tierUnits l k % l.ndev == l.didx else l.didx == 0

/-- Level-2 units of this device. -/
def deviceUnits (l : Launch) : List Nat := (span 0 (tierUnits l l.lvl)).filter (onDevice l)

/-- Level-2 units of one claim. -/
def claimUnits (l : Launch) (n : Nat) : List Nat :=
  let u := tierUnits l (claimTier l)
  (span (n * u) u).filter (onDevice l)

/-- The distribution units of this device, ascending. -/
def distUnits (l : Launch) : List Nat :=
  let u := tierUnits l (distTier l)
  (span 0 (tierUnits l l.lvl / u)).filter (fun n => onDevice l (n * u))

/-- Claims with the number of their lowest distribution unit. -/
def dealt (l : Launch) : FMap Nat :=
  (enumFrom 0 (distUnits l)).foldl (fun m e =>
    let n := e.2 * tierUnits l (distTier l) / tierUnits l (claimTier l)
    if (mget m n).isSome then m else mset m n e.1) []

/-- The queues of the four Junctions (13 R393). -/
def dealQueues (l : Launch) : List (List Nat) :=
  (span 0 4).map fun j => ((dealt l).filter (fun e => e.2 % 4 == j)).map (·.1)

/-- Resources of a core in use (13 R392). -/
structure Room where
  slots : List Nat
  quads : List Nat
  shares : List (Nat × Nat)
  bars : List (Nat × Nat)
  mat : Bool
  deriving DecidableEq, Repr

/-- An empty core. -/
def Room.empty : Room := ⟨[], [0, 0, 0, 0], [], [], false⟩

/-- The unit holds its core's resources. -/
def LUnit.placed (u : LUnit) : Bool := u.st == .reserved || u.st == .resident || u.st == .saving || u.st == .resuming

/-- The unit is a core, a quadrant of it or a part of its matrix unit (15 R450). -/
def isPartOf (core u : Nat) : Bool :=
  (u / 2 ^ 28 == 1 || u / 2 ^ 28 == 2) && bitsAt u 24 4 == core / 48 && bitsAt u 16 8 == core % 48

/-- Resources of a core in use by the units that `keep` admits: a slot whose bind record is not empty is in use (13 R399); fenced
quadrants and matrix units count as in use (15 R449). -/
def roomOf (s : State) (keep : Nat → Bool) (core : Nat) : Room :=
  let ws := s.waves.filter (fun e => e.2.core == core && keep e.2.unit)
  let bs := s.binds.filter (fun e => e.1 / 32 == core && e.2.state != 0 && keep e.2.unit)
  let us := s.units.filter (fun e => e.2.core == core && e.2.placed && keep e.1)
  let c := getC s core
  let used (q : Nat) : Nat :=
    ws.foldl (fun n e => if e.2.slot % 4 == q then n + e.2.charge else n) 0 +
      bs.foldl (fun n e => if e.1 % 4 == q then n + e.2.charge else n) 0
  let quad (q : Nat) : Nat := if s.mgmt.fenced.contains (uCore core / 65536 * 65536 + q) then 12289 else used q
  let matOut := s.mgmt.fenced.any (fun u => u / 2 ^ 28 == 2 && isPartOf core u)
  let slots : List Nat := ws.map (fun e => e.2.slot) ++ bs.map (fun e => e.1 % 32)
  { slots := slots.eraseDups, quads := (span 0 4).map quad,
    shares := us.map (fun e => (e.2.shBase, e.2.shSize)), bars := us.map (fun e => (e.2.nbBase, e.2.nbars)),
    mat := matOut || us.any (fun e => e.2.mown) || !c.loadQ.isEmpty || !c.compQ.isEmpty || !c.storeQ.isEmpty }

/-- Two ranges meet. -/
def rangesMeet (a b : Nat × Nat) : Bool := decide (a.1 < b.1 + b.2) && decide (b.1 < a.1 + a.2)

/-- The lowest base at which `n` units are free below a limit (log 28). -/
def gapFor (n limit : Nat) (used : List (Nat × Nat)) : Option Nat :=
  if n == 0 then some 0
  else
    let ok (b : Nat) : Bool := decide (b + n ≤ limit) && !used.any (rangesMeet (b, n))
    let bases := (used.map (fun r => r.1 + r.2)).filter ok
    if ok 0 then some 0
    else
      match bases with
      | [] => none
      | b :: l => some (l.foldl min b)

/-- Whether the range is free. -/
def rangeFree (b n limit : Nat) (used : List (Nat × Nat)) : Bool :=
  n == 0 || (decide (b + n ≤ limit) && !used.any (rangesMeet (b, n)))

/-- What a unit needs at a grant: lane-registers of each wave by `wlog`, share, barriers, matrix unit. -/
structure Needs where
  waves : List (Nat × Nat)
  share : Nat
  nbar : Nat
  mat : Bool
  deriving DecidableEq, Repr

/-- Where a unit stands on a core: slot of each wave, share and barriers. -/
structure Spot where
  slots : List (Nat × Nat)
  shBase : Nat
  nbBase : Nat
  deriving DecidableEq, Repr

/-- The quadrant with the most free lane-registers, the lowest of several (13 R397). -/
def Room.bestQuad (r : Room) : Nat :=
  (span 0 4).foldl (fun b q => if lget 0 r.quads q < lget 0 r.quads b then q else b) 0

/-- The lowest free slot of a quadrant. -/
def Room.freeSlot (r : Room) (q : Nat) : Option Nat := ((span 0 8).map (fun i => 4 * i + q)).find? (fun n => !r.slots.contains n)

/-- Waves in rotation over the quadrants from `q0` (13 R392, R397). -/
def takeSlots (q0 : Nat) : Room → List (Nat × Nat) → Option (List (Nat × Nat) × Room)
  | r, [] => some ([], r)
  | r, (w, need) :: l =>
    let q := (q0 + w) % 4
    match r.freeSlot q with
    | none => none
    | some n =>
      if 12288 < lget 0 r.quads q + need then none
      else
        match takeSlots q0 { r with slots := n :: r.slots, quads := lmod r.quads q (· + need) } l with
        | none => none
        | some (ss, r) => some ((w, n) :: ss, r)

/-- A unit on a core, if it fits (13 R392), with what it leaves. -/
def fitUnit (r : Room) (n : Needs) : Option (Spot × Room) :=
  match takeSlots r.bestQuad r n.waves, gapFor n.share 393216 r.shares, gapFor n.nbar 512 r.bars with
  | some (ss, r), some b, some nb =>
    if n.mat && r.mat then none
    else some (⟨ss, b, nb⟩, { r with shares := (b, n.share) :: r.shares, bars := (nb, n.nbar) :: r.bars, mat := r.mat || n.mat })
  | _, _, _ => none

/-- A unit to be placed: its ordinal, the grants permitted to it from the largest down, and its needs. -/
structure Want where
  ord : Nat
  grants : List Nat
  needs : Nat → Needs

/-- Grants permitted for a request (13 R391). -/
def permitted (e2 req : Nat) : List Nat := [64, 32, 16, 8].filter (fun g => decide (g ≤ req) && decide (e2 / g ≤ 32))

/-- Threads of a level-2 unit. -/
def Launch.e2 (l : Launch) : Nat := lget 64 l.ext 0

/-- Needs of a unit that starts (13 R392). -/
def startNeeds (l : Launch) (g : Nat) : Needs :=
  ⟨(span 0 (l.e2 / g)).map (fun w => (w, laneRegs g l.triple (l.xblk + 1))), l.share, l.nbar, l.matrix⟩

/-- A unit that is to start. In a serialised re-execution it takes the grant of its first placement (13 R407). -/
def startWant (l : Launch) (ord : Nat) : Want :=
  ⟨ord,
    (match l.serial, mget l.grants ord with
      | some _, some g => [g]
      | _, _ => permitted l.e2 l.wreq),
    startNeeds l⟩

/-- The old wave that held the thread which comes first in new wave `w` (12 R382); if it has ended, the first saved
one that holds a thread of it (log 29). -/
def sourceWave (u : LUnit) (g w : Nat) : Option SavedWave :=
  match u.saved.find? (fun v => v.wlog == w * g / v.grant) with
  | some v => some v
  | none => u.saved.find? (fun v => v.threads.any (fun t => t.live && t.lidx / g == w))

/-- The new wave has a thread that is not exited. -/
def hasLive (u : LUnit) (g w : Nat) : Bool := u.saved.any (fun v => v.threads.any (fun t => t.live && t.lidx / g == w))

/-- Needs of a unit that resumes (12 R382). -/
def resumeNeeds (l : Launch) (u : LUnit) (g : Nat) : Needs :=
  let ws := (span 0 (l.e2 / g)).filterMap fun w =>
    if hasLive u g w then (sourceWave u g w).map (fun v => (w, laneRegs g v.triple (v.xblk + 1))) else none
  ⟨ws, u.shSize, u.nbars, u.mown⟩

/-- A unit that is to resume: at its old grant after a refusal (12 R382). -/
def resumeWant (l : Launch) (u : LUnit) : Want :=
  ⟨u.ord,
    (match u.oldGrant with
      | some g => [g]
      | none => permitted l.e2 u.req),
    resumeNeeds l u⟩

/-- A unit with its place. -/
structure Placed where
  ord : Nat
  core : Nat
  grant : Nat
  spot : Spot
  deriving DecidableEq, Repr

/-- Placement in progress: resources left, instances fixed, units placed. -/
structure Work2 where
  rooms : FMap Room
  doms : FMap Nat
  out : List Placed
  deriving DecidableEq, Repr

/-- Key of a tier unit's instance. -/
def domKey (l : Launch) (k ord : Nat) : Nat := 8 * (ord / tierUnits l k) + k

/-- Tiers above 2 that confine placement to a core or die (01 R42). -/
def boundTiers (l : Launch) : List Nat := (tiersOf l).filter (fun k => decide (2 < k) && decide (tierDom l k ≤ 1))

/-- Instance of a domain that a core belongs to. -/
def instanceOf (dom core : Nat) : Nat := if dom == 0 then core else dieOf core

/-- The core lies in every instance already fixed for the unit (13 R397). -/
def mayUse (l : Launch) (doms : FMap Nat) (ord core : Nat) : Bool :=
  (boundTiers l).all fun k => match mget doms (domKey l k ord) with
    | none => true
    | some i => instanceOf (tierDom l k) core == i

/-- Fix the instances that enclose a placed unit. -/
def fixDoms (l : Launch) (doms : FMap Nat) (ord core : Nat) : FMap Nat :=
  (boundTiers l).foldl (fun m k => mset m (domKey l k ord) (instanceOf (tierDom l k) core)) doms

/-- How many units like this one a core takes, up to a number. -/
def unitsOn (needs : Needs) : Nat → Room → Nat
  | 0, _ => 0
  | n + 1, r =>
    match fitUnit r needs with
    | none => 0
    | some (_, r) => unitsOn needs n r + 1

/-- Of a unit and those still to be placed with it, how many belong to its unit of tier `k`. -/
def kinOf (l : Launch) (k : Nat) (u : Want) (us : List Want) : Nat :=
  (us.filter (fun v => v.ord / tierUnits l k == u.ord / tierUnits l k)).length + 1

/-- Units that must share the core on which this one, the first of its core-bound gang, is placed. -/
def together (l : Launch) (doms : FMap Nat) (u : Want) (us : List Want) : Nat :=
  let k := min (gangTier l) (coreTier l)
  if decide (2 < k) && (mget doms (domKey l (coreTier l) u.ord)).isNone then kinOf l k u us else 1

/-- The die has room for every unit of this one's die-bound tier that is placed in the same step, those of a core-bound gang
whole on a core: the tier is confined to the die its first unit takes (01 R42, R43; 13 R392, R397). -/
def dieHolds (l : Launch) (cores : List Nat) (w : Work2) (u : Want) (us : List Want) (g die : Nat) : Bool :=
  ((boundTiers l).filter (fun k => tierDom l k == 1 && decide (k ≤ gangTier l))).all fun k =>
    (mget w.doms (domKey l k u.ord)).isSome ||
      (let n := together l w.doms u us
       let here := w.rooms.filter (fun e => cores.contains e.1 && dieOf e.1 == die && mayUse l w.doms u.ord e.1)
       decide (kinOf l k u us ≤ (here.map (fun e => unitsOn (u.needs g) 32 e.2 / n * n)).sum))

/-- Free wave slots. -/
def Room.free (r : Room) : Nat := 32 - r.slots.length

/-- The core with the fewest free wave slots, the lowest of several (13 R397). -/
def fewest : List (Nat × Room) → Option (Nat × Room)
  | [] => none
  | e :: l =>
    match fewest l with
    | none => some e
    | some f => if e.2.free ≤ f.2.free then some e else some f

/-- Place one unit, before others, at a grant on one of the cores (13 R397 steps 2 and 3). -/
def placeAt (l : Launch) (cores : List Nat) (w : Work2) (u : Want) (us : List Want) (g : Nat) : Option Work2 :=
  let n := together l w.doms u us
  let dies := (span 0 4).filter (dieHolds l cores w u us g)
  let fits := w.rooms.filter (fun e => cores.contains e.1 && dies.contains (dieOf e.1) && mayUse l w.doms u.ord e.1 &&
    decide (n ≤ unitsOn (u.needs g) n e.2))
  match fewest fits with
  | none => none
  | some (c, r) =>
    match fitUnit r (u.needs g) with
    | none => none
    | some (sp, r) => some ⟨mset w.rooms c r, fixDoms l w.doms u.ord c, w.out ++ [⟨u.ord, c, g, sp⟩]⟩

/-- Every unit at one grant. -/
def placeAllAt (l : Launch) (cores : List Nat) (g : Want → Nat) : Work2 → List Want → Option Work2
  | w, [] => some w
  | w, u :: us =>
    match placeAt l cores w u us (g u) with
    | none => none
    | some w => placeAllAt l cores g w us

/-- The smallest grant of a unit. -/
def Want.least (u : Want) : Nat := u.grants.foldl min 64

/-- Each unit at the largest grant that leaves room for the later ones at their smallest (13 R397). -/
def placeMixed (l : Launch) (cores : List Nat) : Work2 → List Want → Option Work2
  | w, [] => some w
  | w, u :: us =>
    let tries := u.grants.filterMap fun g =>
      match placeAt l cores w u us g with
      | none => none
      | some x => if (placeAllAt l cores Want.least x us).isSome then some x else none
    match tries with
    | [] => none
    | x :: _ => placeMixed l cores x us

/-- A gang on a set of cores: one grant for all, else grants of their own (13 R397). -/
def placeGang (l : Launch) (cores : List Nat) (w : Work2) (us : List Want) : Option Work2 :=
  let common := ((us.head?.map (·.grants)).getD []).filter (fun g => us.all (fun u => u.grants.contains g))
  match common.filterMap (fun g => placeAllAt l cores (fun _ => g) w us) with
  | x :: _ => some x
  | [] => placeMixed l cores w us

/-- A core-bound gang: among the cores on which it fits whole, the one with the fewest free slots (13 R397). -/
def placeOnCore (l : Launch) (cores : List Nat) (w : Work2) (us : List Want) : Option Work2 :=
  let fits := w.rooms.filter (fun e => cores.contains e.1 && (placeGang l [e.1] w us).isSome)
  match fewest fits with
  | none => none
  | some (c, _) => placeGang l [c] w us

/-- The first result of a list. -/
def firstSome {α β : Type} (f : α → Option β) : List α → Option β
  | [] => none
  | x :: l =>
    match f x with
    | some y => some y
    | none => firstSome f l

/-- A unit or gang on the first die of a list that takes it; a wider gang on all the cores (13 R397). -/
def placeUnits (l : Launch) (dies cores : List Nat) (w : Work2) (us : List Want) : Option Work2 :=
  match us with
  | [] => none
  | u :: [] =>
    if 2 ≤ tierDom l (gangTier l) then firstSome (fun g => placeAt l cores w u [] g) u.grants
    else firstSome (fun d => firstSome (fun g => placeAt l (cores.filter (fun c => dieOf c == d)) w u [] g) u.grants) dies
  | us =>
    let dom := tierDom l (gangTier l)
    if dom == 0 then firstSome (fun d => placeOnCore l (cores.filter (fun c => dieOf c == d)) w us) dies
    else if dom == 1 then firstSome (fun d => placeGang l (cores.filter (fun c => dieOf c == d)) w us) dies
    else placeGang l cores w us

/-- The core may take waves: not fenced, and not waiting for a self-test (15 R449); none after a fatal entry (R451). -/
def coreUsable (s : State) (core : Nat) : Bool :=
  !s.mgmt.fatal && !s.booting && !s.mgmt.fenced.contains (uCore core) &&
    !((s.selfTest.map (fun t => t.units.any (fun u => u == uCore core || isPartOf core u))).getD false)

/-- Cores of a partition that may take waves (14 R426). -/
def coresOf (s : State) (part : Nat) : List Nat :=
  match mget s.parts part with
  | none => []
  | some p => (span 0 192).filter (fun c => tst p.cores c && coreUsable s c)

/-- The level-2 units that a claim places in one step each time: its gangs. -/
def gangsOf (l : Launch) (us : List Nat) : List (List Nat) :=
  let g := tierUnits l (gangTier l)
  (us.map (· / g)).eraseDups.map (fun n => us.filter (fun o => o / g == n))

/-- The gangs of every claim of this device. -/
def deviceGangs (l : Launch) : List (List Nat) := (dealt l).flatMap (fun e => gangsOf l (claimUnits l e.1))

/-- Every co-resident unit, as far as this device holds it, can be placed on an empty instance of its domain (01 R43; check 0x07 of 13
R390); of gangs that are alike one is tried. -/
def placeable (s : State) (l : Launch) : Bool :=
  let cores := (span 0 192).filter (fun c => ((mget s.parts l.part).map (fun p => tst p.cores c)).getD false)
  let gs := deviceGangs l
  let sizes := (gs.map (·.length)).eraseDups
  (sizes.filterMap (fun n => gs.find? (fun g => g.length == n))).all fun gang =>
    (placeUnits l [0, 1, 2, 3] cores ⟨cores.map (fun c => (c, Room.empty)), [], []⟩ (gang.map (startWant l))).isSome

/-- A launch that still places units. -/
def Launch.live (l : Launch) : Bool := l.st == .active

/-- The dies on which a unit that a Junction claims may stand: the one already fixed, else the Junction's; any in a
serialised re-execution. -/
def diesFor (l : Launch) (j ord : Nat) : List Nat :=
  let fixed := (boundTiers l).filterMap (fun k => (mget l.domains (domKey l k ord)).map (fun i => if tierDom l k == 0 then dieOf i else i))
  match fixed with
  | d :: _ => [d]
  | [] => if l.serial.isSome then [0, 1, 2, 3] else [j]

/-- Two units belong to one gang of their launch (13 R397). -/
def sameGang (l : Launch) (a b : Nat) : Bool := a / tierUnits l (gangTier l) == b / tierUnits l (gangTier l)

/-- A gang none of which stands on a core is bound to no core any more: a fixed instance is that of a die-bound or device-bound tier
(12 R382; 13 R397). -/
def loosened (s : State) (n : Nat) (l : Launch) (ord : Nat) : Launch :=
  if s.units.any (fun e => e.2.launch == n && sameGang l e.2.ord ord && e.2.placed) then l
  else { l with domains := l.domains.filter (fun d => tierDom l (d.1 % 8) != 0 || !sameGang l (d.1 / 8 * tierUnits l (d.1 % 8)) ord) }

/-- Units on `m` cores of a list, in its order; cores alike to one that was passed over are passed over with it. -/
def onCores (l : Launch) (dies : List Nat) (w : Work2) (us : List Want) : Nat → Nat → List (Nat × Room) → List Nat → Option Work2
  | 0, _, _, _ => none
  | _ + 1, 0, _, got => placeUnits l dies got w us
  | _ + 1, _ + 1, [], _ => none
  | f + 1, m + 1, c :: cs, got =>
    match onCores l dies w us f m cs (got ++ [c.1]) with
    | some x => some x
    | none => onCores l dies w us f (m + 1) (cs.dropWhile (fun d => d.2 == c.2 && dieOf d.1 == dieOf c.1)) got

/-- Units on the fewest cores that hold them, those with the fewest free slots first (13 R397, R407). -/
def placeFewest (l : Launch) (dies cores : List Nat) (w : Work2) (us : List Want) : Option Work2 :=
  match placeUnits l dies cores w us with
  | none => none
  | some x =>
    let here := w.rooms.filter (fun e => cores.contains e.1)
    let order := (span 0 33).flatMap (fun n => here.filter (fun e => e.2.free == n))
    let used := (x.out.map (·.core)).eraseDups.length
    some ((firstSome (fun m => onCores l dies w us (order.length + 2) m order []) (span 1 (used - 1))).getD x)

/-- Cores for a serialised re-execution: those on which its distribution unit stands already, else any (13 R407). -/
def serialCores (s : State) (n : Nat) (cores : List Nat) : List Nat :=
  let here := cores.filter (fun c => s.units.any (fun e => e.2.launch == n && e.2.placed && e.2.core == c))
  if here.isEmpty then cores else here

/-- Place units of a launch on what the cores have free; `keep` tells whose resources stay in use. -/
def tryPlace (s : State) (keep : Nat → Bool) (n : Nat) (l : Launch) (j : Nat) (us : List Want) : Option Work2 :=
  let ord := (us.head?.map (·.ord)).getD 0
  let l := loosened s n l ord
  let cores := coresOf s l.part
  let w : Work2 := ⟨cores.map (fun c => (c, roomOf s keep c)), l.domains, []⟩
  match l.serial with
  | none => placeUnits l (diesFor l j ord) cores w us
  | some _ => placeFewest l (diesFor l j ord) (serialCores s n cores) w us

/-- Units of a launch that a Junction has claimed and that do not stand anywhere yet. -/
def claimedUnits (s : State) (n j : Nat) : FMap LUnit :=
  s.units.filter (fun e => e.2.launch == n && e.2.junction == j && e.2.st == .claimed)

/-- The gang of the lowest ordinal among claimed units that are to start, by unit number. -/
def nextGang (s : State) (n j : Nat) (l : Launch) : List (Nat × Nat) :=
  let cs := (claimedUnits s n j).filter (fun e => e.2.saved.isEmpty)
  match cs with
  | [] => []
  | e :: _ =>
    let lo := cs.foldl (fun m x => min m x.2.ord) e.2.ord
    let g := tierUnits l (gangTier l)
    ((span (lo / g * g) g).filterMap (fun o => (cs.find? (fun x => x.2.ord == o)).map (fun x => (x.1, o))))

/-- Saved units of a gang, by ordinal, each with its number: they are placed again in one step (13 R397). -/
def savedGang (s : State) (n : Nat) (l : Launch) (ord : Nat) : FMap (Nat × LUnit) :=
  s.units.foldl (fun m e =>
    if e.2.launch == n && sameGang l e.2.ord ord && !e.2.saved.isEmpty && (e.2.st == .saved || e.2.st == .claimed) then mset m e.2.ord e
    else m) []

/-- A unit of the gang is being saved or restored. -/
def gangMoving (s : State) (n : Nat) (l : Launch) (ord : Nat) : Bool :=
  s.units.any (fun e => e.2.launch == n && sameGang l e.2.ord ord && (e.2.st == .saving || e.2.st == .resuming))

/-- What a saved unit needs with its gang: nothing can be placed while the gang moves. -/
def resumeWants (s : State) (n : Nat) (l : Launch) (ord : Nat) : List Want :=
  if gangMoving s n l ord then [] else (savedGang s n l ord).map (fun e => resumeWant l e.2.2)

/-- What a Junction's queue offers first: the gang of a new claim, or of a saved unit. -/
def headWants (s : State) (n : Nat) (l : Launch) (j : Nat) : List Want :=
  match (lget [] l.queues j).head? with
  | none => []
  | some q =>
    if 2 ^ 40 ≤ q then ((mget s.units (q - 2 ^ 40)).map (fun u => resumeWants s n l u.ord)).getD []
    else
      let us := claimUnits l q
      let g := tierUnits l (gangTier l)
      ((us.filter (fun o => o / g == us.head?.getD 0 / g))).map (startWant l)

/-- All resources in use stay so. -/
def keepAll : Nat → Bool := fun _ => true

/-- A serialised re-execution has one claim under way at a time (13 R407). -/
def serialFree (s : State) (n : Nat) (l : Launch) : Bool :=
  l.serial.isNone || !s.units.any (fun e => e.2.launch == n && e.2.st != .done)

/-- A Junction can claim the head of its queue: nothing that it has claimed waits, and the die can hold it (13 R394). -/
def headReady (s : State) (n j : Nat) (l : Launch) : Bool :=
  let ws := headWants s n l j
  (claimedUnits s n j).isEmpty && !ws.isEmpty && serialFree s n l && (tryPlace s keepAll n l j ws).isSome

/-- The launch has a claim, or can make one, that could be placed now. -/
def couldPlace (s : State) (n : Nat) (l : Launch) : Bool :=
  (span 0 4).any fun j =>
    headReady s n j l || (!(nextGang s n j l).isEmpty && (tryPlace s keepAll n l j ((nextGang s n j l).map (fun p => startWant l p.2))).isSome) ||
      (claimedUnits s n j).any (fun e => !e.2.saved.isEmpty && (tryPlace s keepAll n l j (resumeWants s n l e.2.ord)).isSome)

/-- No launch of the partition that goes before this one has a claim that could be placed (13 R401). -/
def inOrder (s : State) (n : Nat) (l : Launch) : Bool :=
  s.launches.all fun e =>
    e.1 == n || e.2.part != l.part || !e.2.live ||
      !(decide (l.waitPrio < e.2.waitPrio) || (e.2.waitPrio == l.waitPrio && decide (e.2.submitted < l.submitted))) ||
      !couldPlace s e.1 e.2

end Sys2Proof.Machine
end

