-- ==== Sys2Proof/Machine/Tables.lean ====
section
/-! DEFINITION. What the Signalbox reads and writes of a context's memory in one piece: the context descriptor (12
R365), the tables of R366 and R367, and the matrix image of a save block (12 R379). -/

namespace Sys2Proof.Machine

/-- Cut `n` bytes at a virtual address where 32 KiB pages end; `fuel` bounds the pieces. -/
def chunks : Nat → Nat → Nat → List (Nat × Nat)
  | 0, _, _ => []
  | _ + 1, _, 0 => []
  | f + 1, va, n + 1 =>
    let k := min (n + 1) (32768 - va % 32768)
    (va, k) :: chunks f (va + k) (n + 1 - k)

/-- The pieces of a structure. -/
def piecesOf (va n : Nat) : List (Nat × Nat) := chunks (n / 32768 + 2) va n

/-- Read a structure that may cross pages. -/
def sbReadLong (s : State) (cid va n : Nat) : Option (List Byte) :=
  (piecesOf va n).foldl (fun o c => match o, sbRead s cid c.1 c.2 with
    | some l, some m => some (l ++ m)
    | _, _ => none) (some [])

/-- Write one that may, as an engine does for a command of a consist (12 R465). -/
def engineWriteLong (s : State) (con va : Nat) (bs : List Byte) (unit : Nat) (c : Cmd) : State :=
  ((piecesOf va bs.length).foldl (fun (r : State × List Byte) p =>
    (engineWrite r.1 con p.1 (r.2.take p.2) unit c, r.2.drop p.2)) (s, bs)).1

/-- Put a sparse image of `n` bytes, absent bytes zero, at a physical address. -/
def putImage (s : State) (pa n off : Nat) (img : FMap Byte) : State :=
  { s with
    mem := (img.filter (fun e => decide (off ≤ e.1) && decide (e.1 < off + n))).foldl
      (fun m e => zset 0#8 m (pa + (e.1 - off)) e.2) (clearRange pa n s.mem),
    vis := s.vis.map (fun v => { v with bytes := clearRange pa n v.bytes }) }

/-- Write a sparse image of `n` bytes to a context's memory. -/
def writeImage (s : State) (cid va n : Nat) (img : FMap Byte) : State :=
  (piecesOf va n).foldl (fun s c =>
    match sbPlace s cid c.1 c.2 .write with
    | .dev pas => pas.foldl (fun s pa => putImage s pa c.2 (c.1 - va) img) s
    | .lost pa => devError s 6 uSignalbox cid (partOf s cid) pa
    | .viol pa => violEntry s cid 0#64 c.1 pa 0 0 0 0
    | pl => sbPut s pl (getBytes img (c.1 - va) c.2)) s

/-- Read a sparse image; none when a part of it cannot be read. -/
def readImage (s : State) (cid va n : Nat) : Option (FMap Byte) :=
  (piecesOf va n).foldl (fun o c =>
    match o, sbPlace s cid c.1 c.2 .read with
    | some img, .dev (pa :: _) =>
      if poisonedAt s pa c.2 then none
      else
        some (img ++ (s.mem.filter (fun e => decide (pa ≤ e.1) && decide (e.1 < pa + c.2))).map (fun e => (e.1 - pa + (c.1 - va), e.2)))
    | _, _ => none) (some [])

/-- The bytes of a number as sparse image entries. -/
def imageOf (off n v : Nat) : FMap Byte := (place off (bytesOf n v)).filter (fun e => e.2 != 0#8)

/-- The matrix image of 12 R379. -/
def matImage (m : MatState) : FMap Byte :=
  m.acc.flatMap (fun e => imageOf (4 * e.1) 4 e.2.toNat) ++
    m.turn.map (fun e => (0xC0000 + e.1, e.2)) ++ m.gantry.map (fun e => (0x140000 + e.1, e.2)) ++
    imageOf 0x740000 1 (bnat m.i32) ++ imageOf 0x740008 4 m.tsA.toNat ++ imageOf 0x74000C 4 m.tsB.toNat

/-- Bytes of the matrix image. -/
def matImageSize : Nat := 7606272

/-- A number of an image. -/
def imageNat (img : FMap Byte) (off n : Nat) : Nat := ofBytes (getBytes img off n)

/-- The matrix unit that an image describes. -/
def matOf (img : FMap Byte) : MatState :=
  let part (lo n : Nat) : FMap Byte := (img.filter (fun e => decide (lo ≤ e.1) && decide (e.1 < lo + n))).map (fun e => (e.1 - lo, e.2))
  let acc := (part 0 786432).foldl (fun m e =>
    mset m (e.1 / 4) (zget 0#32 m (e.1 / 4) ||| BitVec.ofNat 32 (e.2.toNat * 2 ^ (8 * (e.1 % 4))))) []
  { acc := acc, i32 := imageNat img 0x740000 1 == 1, tsA := BitVec.ofNat 32 (imageNat img 0x740008 4),
    tsB := BitVec.ofNat 32 (imageNat img 0x74000C 4), turn := part 0xC0000 524288, gantry := part 0x140000 6291456 }

/-- The matrix unit as it is when a unit becomes resident (09 R315). -/
def matInit : MatState := Core.init.mat

/-- The save block of a unit (12 R379). -/
def saveBlock (s : State) (u : LUnit) : Nat :=
  ((mget s.launches u.launch).map (fun l => (l.savebase + u.ord * l.ustride) % 2 ^ 64)).getD 0

/-- A context descriptor read as a number is valid (12 R365): 0; malformed fields give 5. -/
def descrOk (v : Nat) : Bool :=
  bitsAt v 0 488 == 0 && bitsAt v 960 64 % 65536 == 0 && decide (bitsAt v 960 64 < 2 ^ 52) && bitsAt v 896 64 % 4096 == 0 &&
    bitsAt v 832 64 % 8192 == 0 && bitsAt v 768 64 % 64 == 0 && bitsAt v 704 64 % 64 == 0 && bitsAt v 640 64 % 64 == 0 &&
    bitsAt v 576 64 % 32 == 0 && decide (4 ≤ bitsAt v 492 4) && decide (bitsAt v 492 4 ≤ 12)

/-- CID and PART of a descriptor. -/
def descrCid (v : Nat) : Nat := bitsAt v 496 16
def descrPart (v : Nat) : Nat := bitsAt v 489 3

/-- The fields of a descriptor that a context takes up, at creation and at every resume (12 R365). -/
def takeDescr (v : Nat) (x : Context) : Context :=
  { x with
    root := bitsAt v 960 64, vbase := BitVec.ofNat 64 (bitsAt v 896 64), fbase := BitVec.ofNat 64 (bitsAt v 832 64),
    errrec := BitVec.ofNat 64 (bitsAt v 768 64), dftab := BitVec.ofNat 64 (bitsAt v 704 64), atab := BitVec.ofNat 64 (bitsAt v 640 64),
    ctab := BitVec.ofNat 64 (bitsAt v 576 64), savelim := bitsAt v 544 32, errlog := bitsAt v 492 4, ilkf := tst v 488 }

/-- The sixteen entries of the decay factor table (12 R366): γ0 is always 1.0. -/
def readGammas (s : State) (cid : Nat) (dftab : W64) : Option (List W32) :=
  (sbReadLong s cid dftab.toNat 64).map fun bs =>
    0x3F800000#32 :: (span 1 15).map (fun i => BitVec.ofNat 32 (ofBytes ((bs.drop (4 * i)).take 4)))

/-- A consist-table entry (12 R367): ring, milepost address and LOG2N; one that is not valid leaves the engine
unavailable. -/
def consistEntryOf (v : Nat) : Nat × Nat × Nat :=
  let n := bitsAt v 120 8
  let ok := bitsAt v 0 120 == 0 && bitsAt v 192 64 % 64 == 0 && decide (4 ≤ n) && decide (n ≤ 16)
  (bitsAt v 192 64, bitsAt v 128 64, if ok then n else 0)

/-- Read the consist table again (12 R366): commands, tails and mileposts stay. -/
def readConsists (s : State) (cid : Nat) : State :=
  match mget s.contexts cid with
  | none => s
  | some x =>
    match sbReadLong s cid x.ctab.toNat 704 with
    | none => s
    | some bs =>
      let cs := (span 0 22).foldl (fun m i =>
        let e := consistEntryOf (ofBytes ((bs.drop (32 * i)).take 32))
        let old := (mget m i).getD ⟨0, 0, 0, 0, 0, [], false⟩
        mset m i { old with ring := e.1, mpaddr := e.2.1, log2n := e.2.2 }) x.consists
      modX s cid (fun x => { x with consists := cs })

/-- The descriptor and consist table are read again at a resume (12 R365, R366). -/
def refreshContext (s : State) (cid : Nat) : State :=
  match mget s.contexts cid with
  | none => s
  | some x =>
    match sysRead s x.descr 128 with
    | none => s
    | some bs =>
      let v := ofBytes bs
      let s := if descrOk v && descrCid v == cid && descrPart v == x.part then modX s cid (takeDescr v) else s
      readConsists s cid

/-- The image with which a core fills a bank: ATAB, or the context's table when it cannot be read (12 R366; log 31). -/
def tableImage (s : State) (cid : Nat) : List Byte :=
  match mget s.contexts cid with
  | none => []
  | some x => (sbReadLong s cid x.atab.toNat 4224).getD x.actImage

/-- A core that receives waves of a context fills its current bank (12 R366); one that holds waves of it has done so. -/
def fillTable (s : State) (core cid : Nat) : State :=
  if s.waves.any (fun e => e.2.core == core && e.2.cid == cid) then s
  else
    let img := tableImage s cid
    let a := (mget (getC s core).acts cid).getD ⟨[], [], 0, 0⟩
    let a : ActCopy := if a.cur == 0 then { a with bankA := img, switched := 0 } else { a with bankB := img, switched := 0 }
    modC s core (fun c => { c with acts := mset c.acts cid a })

end Sys2Proof.Machine
end

