-- ==== Sys2Proof/Machine/CommandEvents.lean ====
section
/-! DEFINITION. How commands go on and end: mileposts (09 R335, R336), follow-ons (09 R339), the queues of the
matrix unit (09 R317, R325), loads of the activation table (07 R275), collectives (09 R343) and publishing (04
R170). -/

namespace Sys2Proof.Machine

/-- Take off the first element. -/
def popHead {α : Type} : List α → List α
  | [] => []
  | _ :: l => l

/-- The follow-on of a command needs nothing more (09 R339). -/
def followDone (c : Cmd) : Bool := c.follow.isNone || c.sent || c.err != 0

/-- Bytes that a command has in its shadow for staging are shown: pages first, then the bytes (04 R169). -/
def showShadow (s : State) (c : Cmd) : State :=
  throwBytes (c.pages.foldl (fun s p => inherit s p.1 p.2) s) c c.vas (c.shadow.foldl (fun m e => mset m e.1 e.2) [])

/-- STAT and ECODE of a consist entry (09 R336). -/
def statBytes (c : Cmd) : List Byte := if c.err != 0 then [BitVec.ofNat 8 c.err, 2#8] else [BitVec.ofNat 8 c.note, 1#8]

/-- An activation-table load is complete: the context's table is the new image (07 R275, 12 R366). -/
def finishTable (s : State) (con : Nat) (c : Cmd) : State :=
  match c.actImage with
  | none => s
  | some img =>
    let s := modX s c.cid (fun x => { x with actImage := img })
    match mget s.contexts c.cid with
    | none => s
    | some x => engineWriteLong s con x.atab.toNat img (uEngine (5 * (c.core / 48))) c

/-- The head of a consist completes (09 R325, R335, R336, R339): memory shown, entry and milepost written, error
and flags reported, counter and slots lowered. -/
def milepost (s : State) (cid con : Nat) : State :=
  match headOf s cid con, (mget s.contexts cid).bind (fun x => mget x.consists con) with
  | some c, some q =>
    if decide (64 ≤ con) || q.frozen || !workDone s c || !followDone c || !s.vis.isEmpty then s
    else
      let count := q.milepost + 1
      let s := showShadow s c
      let s := if c.err == 0 then finishTable s con c else s
      let s := modX s cid (fun x => { x with consists := mset x.consists con { q with milepost := count, cmds := popHead q.cmds } })
      let s := engineWrite s con (q.ring + 64 * (q.milepost % 2 ^ q.log2n) + 20) (statBytes c) (uEngine con) c
      let s := engineWrite s con q.mpaddr (numBytes 8 (conTag con * 2 ^ 62 + count % 2 ^ 62)) (uEngine con) c
      let s := if c.err == 0 && c.note != 0 then cmdError s con c c.note else s
      let s := cmdFlags s c c.flags.toNat
      let s := match c.acc with
        | some id => countEverywhere s id
        | none => s
      let s := clearWaits s cid con count false
      let s := if c.sent then s else clearWaits s cid con count true
      concludeAll s (contextWaves s cid)
  | _, _ => s

/-- MILEPOST_WRITE. -/
def execMilepostWrite (cid ring : Nat) (s : State) : Out := .next (nextFree (milepost s cid ring))

/-- WMASK slots of the issuing wave are clear, in whatever state the wave is (09 R324, R326, R339). -/
def followMayIssue (s : State) (c : Cmd) (h : Nat) : Bool :=
  let clear (l : List Nat) : Bool := (span 0 16).all (fun n => !tst h (5 + n) || lget 0 l n == 0)
  match issuer s c with
  | some (_, w) => w.ilk || !w.threads.any (·.live) || clear w.slots
  | none =>
    match (mget s.units c.unit).bind (fun u => u.saved.find? (fun v => v.threads.any (fun t => t.lidx == c.lidx && t.live))) with
    | some v => clear v.slots
    | none => true

/-- The issuing wave's engine counter takes up a follow-on (09 R339); it does not wait for room, so that the counter may pass the 63 of 04 R153
(log 90). -/
def countFollow (s : State) (c : Cmd) (id : Nat) : State :=
  match issuer s c with
  | some (k, w) => setW s k { w with enq := w.enq ++ [(id, false)] }
  | none => modSaved s c (fun v => { v with enq := v.enq ++ [(id, false)] })

/-- FOLLOW_ON_ISSUE (09 R339): the copy is done, and its word goes to the matrix unit of the issuing core. -/
def followOn (s : State) (cid con : Nat) : State :=
  match headOf s cid con with
  | none => s
  | some c =>
    match c.follow with
    | none => s
    | some v =>
      let q := ((mget s.contexts cid).bind (fun x => (mget x.consists con).map (·.frozen))).getD true
      if decide (64 ≤ con) || q || c.sent || c.err != 0 || !workDone s c || !s.vis.isEmpty then s
      else if (getC s c.core).owner != some c.unit then
        let s := cmdError s con c 0x0B
        concludeAll (putHead s cid con { c with err := 0x0B }) (contextWaves s cid)
      else if !followMayIssue s c (foHint v) then s
      else
        let id := s.nextId
        let f : Cmd :=
          { c with
            word := foWord v, hintw := foHint v, x := foX v, y := foY v, z := foZ v, acc := none, follow := none, slotSet := none,
            carried := some (con, c.seq.toNat % 2 ^ 62), begun := false, err := 0, note := 0, flags := 0#32, recs := [], idx := [],
            vals := [], doneW := 0, shadow := [], pages := [], nans := 0, sent := false, ahead := [], far := [] }
        let counted := f.minor == 1 || f.minor == 2 || f.minor == 6
        let s : State := { s with nextId := id + 1 }
        let s := if counted then countFollow s c id else s
        let s := putHead s cid con { c with sent := true }
        accept s c.core { f with acc := if counted then some id else none }

/-- FOLLOW_ON_ISSUE. -/
def execFollowOnIssue (cid ring : Nat) (s : State) : Out := .next (nextFree (followOn s cid ring))

/-- A queue of a core's matrix unit: 0 load, 1 compute, 2 store (09 R317). -/
def matQueue (x : Core) (queue : Nat) : List Cmd := if queue == 0 then x.loadQ else if queue == 1 then x.compQ else x.storeQ

/-- Replace a queue. -/
def putQueue (s : State) (core queue : Nat) (l : List Cmd) : State :=
  modC s core fun x =>
    if queue == 0 then { x with loadQ := l } else if queue == 1 then { x with compQ := l } else { x with storeQ := l }

/-- The accumulator's interlock (09 R317): a multiply waits for earlier stores to have read it, a store for earlier
multiplies. -/
def accFree (x : Core) (queue : Nat) (c : Cmd) : Bool :=
  if queue == 1 then x.storeQ.all (fun d => d.begun || decide (c.seq.toNat < d.seq.toNat))
  else if queue == 2 then x.compQ.all (fun d => d.begun || decide (c.seq.toNat < d.seq.toNat))
  else true

/-- An `mload` or `tturn` goes through its pieces, up to the first that stops it, in one step, as a multiply does: a multiply meets none of
its bytes half-way, which 09 R317 allows it to (log 14). -/
def stage (s : State) (ring : Nat) (c : Cmd) : State × Cmd :=
  let p := matrixPlan s c
  let g := gatherAll s ring c p (p.works.drop c.doneW) Batch.init
  let s := applyBatch s c p g.1
  let c := keepBatch c g.1
  andWalk ring (match g.2 with
    | some e => stopCmd s ring c e
    | none => (s, c))

/-- MATRIX_QUEUE_START (09 R317): the head of a queue starts, or a load goes on. -/
def queueStart (s : State) (core queue : Nat) : State :=
  let x := getC s core
  match matQueue x queue with
  | [] => s
  | c :: l =>
    let ring := 64 + core
    if c.frozen || c.waitPage.isSome || c.err != 0 || s.mgmt.fatal || !accFree x queue c || workDone s c then s
    else
      let r := if c.begun then (s, c) else beginMatrix s ring c
      let r := if queue == 0 && r.2.begun && r.2.err == 0 && r.2.waitPage.isNone then stage r.1 ring r.2 else r
      concludeAll (putQueue r.1 core queue (r.2 :: l)) (contextWaves s c.cid)

/-- MATRIX_QUEUE_START. -/
def execMatrixQueueStart (core queue : Nat) (s : State) : Out := .next (nextFree (queueStart s core queue))

/-- Lower the slot that a wave's own matrix instruction set (09 R324, R325). -/
def lowerOwn (s : State) (c : Cmd) : State :=
  match issuer s c with
  | some (k, w) => setW s k (w.lowerSlot c.slotSet)
  | none => s

/-- MATRIX_INSTRUCTION_COMPLETE (09 R325): counter, slot and flags; the queue passes on. A store's shadow for
staging is shown. A follow-on that the matrix unit accepted and then refused lowers its slot here, and not at the milepost of its `ecopy`
(09 R339), which may be written already (log 90). -/
def matrixComplete (s : State) (core queue : Nat) : State :=
  match matQueue (getC s core) queue with
  | [] => s
  | c :: l =>
    if !workDone s c || (queue == 2 && !s.vis.isEmpty) then s
    else
      let s := putQueue (showShadow s c) core queue l
      let s := cmdFlags s c c.flags.toNat
      let s := match c.acc with
        | some id => countEverywhere s id
        | none => s
      let s := match c.carried with
        | some (con, count) => clearWaits s c.cid con count true
        | none => lowerOwn s c
      concludeAll s (contextWaves s c.cid)

/-- MATRIX_INSTRUCTION_COMPLETE. -/
def execMatrixInstructionComplete (core queue : Nat) (s : State) : Out := .next (nextFree (matrixComplete s core queue))

/-- A thread of the context on the core is in a run that uses the bank about to be written (07 R275). -/
def oldRun (s : State) (core cid : Nat) (a : ActCopy) : Bool :=
  s.waves.any fun e => e.2.core == core && e.2.cid == cid && e.2.threads.any (fun t => t.live && t.inRun && t.runBank != a.cur)

/-- ACTIVATION_TABLE_SWITCH (07 R275): one core writes the image into its other bank and switches. -/
def tableSwitch (s : State) (cid ring core : Nat) : State :=
  match headOf s cid ring, mget (getC s core).acts cid with
  | some c, some a =>
    match c.actImage with
    | none => s
    | some img =>
      let id := c.acc.getD 0
      if !c.begun || c.frozen || a.switched == id || oldRun s core cid a then s
      else
        let a : ActCopy :=
          if a.cur == 0 then { a with bankB := img, cur := 1, switched := id } else { a with bankA := img, cur := 0, switched := id }
        modC s core (fun x => { x with acts := mset x.acts cid a })
  | _, _ => s

/-- ACTIVATION_TABLE_SWITCH. -/
def execActivationTableSwitch (cid ring core : Nat) (s : State) : Out := .next (nextFree (tableSwitch s cid ring core))

/-- One level of the tree of 03 R139: neighbours added. -/
def addPairs (add : Nat → Nat → Nat) : List Nat → List Nat
  | x :: y :: l => add x y :: addPairs add l
  | l => l

/-- The tree of 64 leaves (03 R139). -/
def tree64 (add : Nat → Nat → Nat) (leaves : List Nat) : Nat :=
  let l := addPairs add (addPairs add (addPairs add (addPairs add (addPairs add (addPairs add leaves)))))
  lget 0 l 0

/-- The sum of one element over the ranks (09 R343). -/
def collSum (dtype : Nat) (xs : List Nat) : Nat :=
  let leaf (f : Nat → Nat) : List Nat := (span 0 64).map (fun i => (xs[i]?.map f).getD 0x80000000)
  if dtype == 0x06 then tree64 addRn32 (leaf id)
  else if dtype == 0x08 then (fround bf16 .rn false (fexact (fdec fp32 (tree64 addRn32 (leaf (· * 65536)))))).bits
  else xs.foldl (fun n x => (n + x) % 2 ^ 32) 0

/-- The order of finite numbers and infinities, −0 below +0, as an integer key on their bits. -/
def orderKey (width x : Nat) : Int := if tst x (width - 1) then -1 - (x % 2 ^ (width - 1) : Nat) else x

/-- The larger of two elements under a key. -/
def larger (key : Nat → Int) (a b : Nat) : Nat := if key a < key b then b else a

/-- The maximum of one element over the ranks (09 R343). -/
def collMax (dtype : Nat) (xs : List Nat) : Nat :=
  let best (key : Nat → Int) : Nat := match xs with
    | [] => 0
    | x :: l => l.foldl (larger key) x
  let float (f : Fmt) (w : Nat) : Nat :=
    if anyNan (xs.map (fdec f)) then (fround f .rn false ⟨.nan, 0⟩).bits else best (orderKey w)
  if dtype == 0x06 then float fp32 32
  else if dtype == 0x08 then float bf16 16
  else if dtype == 0x05 then best (sgn 32)
  else best (fun x => (x : Int))

/-- The vector that a rank receives (09 R343). -/
def collResult (d : CDesc) (rank : Nat) (datas : List (List Nat)) : List Nat :=
  let at_ (e : Nat) : List Nat := datas.map (fun l => lget 0 l e)
  match d.op with
  | 0 => (span 0 d.count).map (fun e => collSum d.dtype (at_ e))
  | 1 => datas.flatMap (fun l => l.take d.count)
  | 2 => (span (rank * d.count) d.count).map (fun e => collSum d.dtype (at_ e))
  | 3 => lget [] datas d.root
  | _ => (span 0 d.count).map (fun e => collMax d.dtype (at_ e))

/-- What a command that has joined does with the outcome of its collective. -/
def collGive (part group cseq : Nat) (agree : Bool) (datas : List (List Nat)) (s : State) (x : Coll) : State :=
  match headOf s x.cid x.consist with
  | none => s
  | some c =>
    let d := collDesc x.head
    if !c.joined || c.minor != 3 || partOf s c.cid != part || d.group != group || d.cseq != cseq then s
    else if agree then putHead s x.cid x.consist { c with vals := (collResult d x.rank datas).map (fun v => [v]) }
    else
      let r := refuse s x.consist c 0x0C
      putHead r.1 x.cid x.consist r.2

/-- OP, COUNT, DTYPE, NPART and ROOT of a descriptor. -/
def CDesc.terms (d : CDesc) : Nat × Nat × Nat × Nat × Nat := (d.op, d.count, d.dtype, d.npart, d.root)

/-- A deterministic collective moves at exchange ticks (15 R444): each of its steps takes an interval of its own after the one in which
every rank had begun, OP and NPART fix their number, and the tick is not lost. -/
def tickReached (s : State) (xs : List Coll) : Bool :=
  !xs.any (fun x => (collDesc x.head).det) ||
    (decide (s.tickGap ≤ 2 ^ 30) &&
      xs.all (fun x => decide (x.tick.toNat + Config.collSteps (collDesc x.head).op (collDesc x.head).npart < s.tickCount.toNat)))

/-- What a participant sends reaches every member of its group: over the fixed route for a deterministic collective, over any link
nearer to the member for another (15 R443). -/
def collReached (s : State) (part group : Nat) (xs : List Coll) : Bool :=
  (groupMembers s part group).all (fun m => if xs.any (fun x => (collDesc x.head).det) then fixedRoute s m.2 else hasRoute s m.2)

/-- COLLECTIVE_EXECUTE (09 R343): every rank of the group has begun. -/
def collectiveRun (s : State) (part group cseq : Nat) : State :=
  let mine (x : Coll) : Bool := x.part == part && x.group == group && x.cseq == cseq
  let xs := s.colls.filter mine
  match xs.head?, (mget s.parts part).bind (fun p => mget p.colls group) with
  | some x0, some members =>
    let ranks := (span 0 members.length).map (fun r => xs.find? (fun x => x.rank == r))
    if ranks.any (·.isNone) || !tickReached s xs || !collReached s part group xs then s
    else
      let all := ranks.filterMap id
      let agree := all.all (fun x => decide ((collDesc x.head).terms = (collDesc x0.head).terms))
      let s := all.foldl (collGive part group cseq agree (all.map (·.data))) s
      let s : State := { s with colls := s.colls.filter (fun x => !mine x) }
      concludeAll s (s.waves.map (·.1))
  | _, _ => s

/-- COLLECTIVE_EXECUTE. -/
def execCollectiveExecute (part group cseq : Nat) (s : State) : Out := .next (nextFree (collectiveRun s part group cseq))

/-- Global addresses that a command writes. -/
def writesTo (s : State) (c : Cmd) : List Nat :=
  if !c.matrix && c.minor == 7 then recordPages (tensorRec (lget 0 c.recs 0)) else destPages (planOf s c)

/-- A command that may write a range of the context's group, or of which that is not known yet (04 R170). -/
def writesGroup (s : State) (ring : Nat) (c : Cmd) : Bool :=
  !c.begun || c.waitPage.isSome ||
    (c.err == 0 && (!c.shadow.isEmpty || (writesTo s c).any (fun g => match leafOf s ring c true (g * 32768) with
      | none => true
      | some p => p.map == 2 && ((mget s.ranges p.vrn).map (fun r => r.owner == c.cid)).getD false)))

/-- No engine command of the context issued before number `id` stands in the way of a switch (04 R170). -/
def publishReady (s : State) (cid id : Nat) : Bool :=
  let before (c : Cmd) : Bool := c.cid == cid && (match c.acc with
    | some a => decide (a < id)
    | none => false)
  let cons := ((mget s.contexts cid).map (fun x => x.consists.flatMap (fun q => q.2.cmds.map (fun c => (q.1, c))))).getD []
  let stores := s.cores.flatMap (fun e => e.2.storeQ.map (fun c => (64 + e.1, c)))
  !(cons ++ stores).any (fun e => before e.2 && writesGroup s e.1 e.2)

/-- The version that follows (04 R167). -/
def nextVersion (v : Nat) : Nat := if v + 1 < 2 ^ 32 then v + 1 else 1

/-- Every backing of the range is pinned (04 R170). -/
def allPinned (s : State) (r : VRange) : Bool :=
  let pins := pinnedBy s r.owner
  (span 0 r.nb).all (fun b => (lget [] r.held b).any pins.contains)

/-- A range after the switch to version `v` (04 R168, R170). -/
def switchRange (s : State) (v : Nat) (r : VRange) : VRange :=
  let pins := pinnedBy s r.owner
  let cur := r.stg.getD r.cur
  let held := r.held.mapIdx (fun b l => if b == cur then (if r.stg.isSome then [v] else v :: l) else l.filter pins.contains)
  { r with cur := cur, stg := none, copied := [], held := held }

/-- The switch for every range of a group in one event (04 R170). -/
def switchGroup (s : State) (owner : Nat) : State × Nat :=
  let v := nextVersion (groupVersion s owner)
  let mine := s.ranges.filter (fun e => e.2.owner == owner && !e.2.dead)
  let s := mine.foldl (fun s e => if e.2.stg.isSome then (span 0 (e.2.npages + 1)).foldl (fun s p => inherit s e.1 p) s else s) s
  let ranges := s.ranges.map (fun e => if e.2.owner == owner && !e.2.dead then (e.1, switchRange s v e.2) else e)
  ({ s with ranges := ranges, groups := mset s.groups owner v }, v)

/-- The answer of a `publish` becomes a result on its way (09 R344). -/
def publishAnswer (s : State) (k id v : Nat) : State :=
  let s := modW s k fun w =>
    { w with accs := w.accs.map (fun a =>
        if a.id == id then { a with op := .result 0, performed := true, lanes := a.lanes.map (fun l => { l with data := [v] }) } else a) }
  conclude (countEverywhere s id) k

/-- PUBLISH_SWITCH (04 R170). -/
def publishSwitch (s : State) (k id : Nat) : State :=
  match (mget s.waves k).bind (fun w => (w.acc id).map (fun a => (w, a))) with
  | some (w, a) =>
    let waiting := match a.op with
      | .publish => !a.performed
      | _ => false
    if !waiting || !publishReady s w.cid id || !s.vis.isEmpty then s
    else if s.ranges.any (fun e => e.2.owner == w.cid && !e.2.dead && allPinned s e.2) then publishAnswer s k id 0
    else
      let r := switchGroup s w.cid
      publishAnswer r.1 k id r.2
  | none => s

/-- PUBLISH_SWITCH. -/
def execPublishSwitch (wave id : Nat) (s : State) : Out := .next (nextFree (publishSwitch s wave id))

end Sys2Proof.Machine
end

