-- ==== Sys2Proof/Machine/Program.lean ====
section
/-! DEFINITION. How a program comes to run: a context, launch, unit and wave as the Signalbox leaves them
once dispatched (13 R397-R400), and a word put where the next issue fetches it (log 2). -/

namespace Sys2Proof.Machine

/-- The context that holds a loaded program: 1 GiB of device memory mapped one to one, its register aperture at a 4 GiB boundary
outside it (02 R90). -/
def loadedContext : Context :=
  { root := 0x10000, vbase := 0x1000000#64, fbase := 0x4000000#64, errrec := 0x200000#64, dftab := 0x210000#64,
    atab := 0x220000#64, ctab := 0x230000#64, savelim := 0, cepoch := 0, errlog := 4, part := 0, ilkf := false,
    descr := 0x240000, apbase := 0x00F00000000000#64, gammas := [], actImage := [],
    consists := [(0, ⟨0x300000, 0x380000, 4, 0, 0, [], false⟩), (1, ⟨0x310000, 0x380008, 4, 0, 0, [], false⟩),
      (2, ⟨0x320000, 0x380010, 4, 0, 0, [], false⟩), (3, ⟨0x330000, 0x380018, 4, 0, 0, [], false⟩),
      (4, ⟨0x340000, 0x380020, 4, 0, 0, [], false⟩), (20, ⟨0x350000, 0x380028, 4, 0, 0, [], false⟩),
      (21, ⟨0x360000, 0x380030, 4, 0, 0, [], false⟩)],
    errCount := 0, retiring := [], retired := [], ended := false }

/-- Its launch: one unit of 64 threads at a grant of 8, single mode. -/
def loadedLaunch : Launch :=
  { cid := 1, part := 0, record := 0x250000, addr := 0x250000, step := Config.stepping, didx := 0, ndev := 1,
    tiers := [0, 0], ext := [64, 1], compl := 0x260000, digest := 0#64, tlimit := 1, ustride := 0xA62000,
    savebase := 0x10000000, share := 4096, nctl := 0#32, seed := 0#64, entry := 0x1000000#64, digm := 0, nbar := 4,
    wreq := 8, lvl := 3, xblk := 2, matrix := true, triple := false, det := false, prio := 0, st := .active,
    queues := [[], [], [], []], searching := [], unitsLeft := 1, digests := [], placedFirst := some 0, resident := 0,
    waiting := 0, waitPrio := 0, submitted := 0, domains := [], trees := [], farGone := [], serial := none, grants := [], fn := 1 }

/-- Its unit: of its eight waves all but the first have ended. -/
def loadedUnit : LUnit :=
  { launch := 0, ord := 0, cid := 1, st := .resident, core := 0, grant := 8, req := 8, reqBy := (0, 0), rslc := 0, share := [],
    shSize := 4096, shBase := 0, nbBase := 0, nbars := 4, mown := true, bars := [],
    gone := (span 8 56).map (fun i => (i, 0#64)), saved := [], mat := none, junction := 0, die := some 0, placedAt := 0, oldGrant := none, lateFlags := 0#32 }

/-- A thread at its start (02 R65, R74, R78, R86). -/
def startThread (digest : Nat → W64) (xblk cohort lidx : Nat) (entry : W64) : Thread :=
  { lidx := lidx, cohort := cohort, pc := entry, st := .ready, hold := .none, regs := [], win := [], opidx := 0#64,
    hint := none, wimm := none, hnAddr := none,
    sec := ⟨entry, 0#64, 0xFFFFF, true, [], true, false, digest lidx, 0, [], xblk⟩, inRun := false, runCount := 0, runBank := 0,
    owed := [], clobbered := [], clock := 0, dues := [], marking := false, opened := false, wake := 0, wakeCode := 3, siding := 0,
    digest := digest lidx, folds := [] }

/-- A wave at its start (02 R65, R74, R76, R77). -/
def startWave (launch unit cid core slot wlog grant prio xblk epoch : Nat) (nctl : W32) (triple det ilk : Bool)
    (digest : Nat → W64) (entry : W64) : Wave :=
  { launch := launch, unit := unit, cid := cid, core := core, slot := slot, wlog := wlog, grant := grant, prio := prio,
    threads := (span (wlog * grant) grant).map (fun l => startThread digest xblk (wlog * grant) l entry),
    em := BitVec.ofNat 64 (2 ^ grant - 1), cm := 0#64, scal := [], aflag := 0#32, nctl := nctl, triple := triple,
    det := det, ilk := ilk, xblk := xblk, runx := false, pin := none, priv := none, causes := [], epoch := epoch,
    ptr := 0, parked := false, eligSince := none, yielded := false, accs := [], ldq := [], stq := [], enq := [],
    slots := [], slotWaits := [], sidings := [], lastSeq := [], cmdErrs := [], pre := .none, frozen := false, apw := [] }

/-- A device with a partition, a context and one resident wave of eight threads at `entry` (log 2). -/
def loaded (s : State) : State :=
  { s with
    mem := putBytes (putBytes s.mem 0x10000 [0x01#8, 0x00#8, 0x02#8]) 0x20000 [0xE3#8],
    waves := mset s.waves 0 (startWave 0 0 1 0 0 0 8 0 2 0 0#32 false false false (fun _ => 0#64) 0x1000000#64),
    units := mset s.units 0 loadedUnit,
    cores := mset s.cores 0 { Core.init with owner := some 0 },
    contexts := mset s.contexts 1 loadedContext, launches := mset s.launches 0 loadedLaunch,
    parts := mset s.parts 0
      { descr := 0x270000, cores := 2 ^ 192 - 1, regions := [(0, 512)], hostwin := [], fring := 0x280000, flog := 4,
        prioceil := 31, engs := 127, seqNext := 0, recs := [], heldFaults := [], shards := [], colls := [] },
    nextId := s.nextId + 1 }

/-- Every quadrant of a device. -/
def quadrants (s : State) : List (Nat × Nat) :=
  ((s.waves.map (fun e => (e.2.core, e.2.slot % 4))).eraseDups)

/-- The quadrant that issues next under the default order (log 15). -/
def nextQuad (s : State) : Option (Nat × Nat) := (quadrants s).find? (fun q => (selected s q.1 q.2).isSome)

/-- Put a word where a wave fetches an address. -/
def putWord (s : State) (w : Wave) (pc : W64) (n : Nat) : State :=
  match translate s w.cid (tlbOf s w) w.priv.isSome .exec pc.toNat with
  | .page p =>
    match bindPlace s (placeOn s w.cid (partOf s w.cid) none pc.toNat p) with
    | .single pa => writeHome (freshCode s pa 4) pa (bytesOf 4 n)
    | .md32 pa => writeHome (freshCode s pa 4) pa (bytesOf 4 n)
    | .triple pa _ => writeHome (freshCode s pa 4) pa (bytesOf 4 n)
    | .host a => { freshCode s (hostKey a) 4 with hostMem := putBytes s.hostMem a (bytesOf 4 n) }
    | _ => s
  | _ => s

/-- A word where the next step fetches: at the wave that issues next, or in a freshly loaded program; that wave's quadrant
is the one to issue. -/
def placeWord (s : State) (nbits n : Nat) : State :=
  let idle (c : Core) : Core := { c with sampler := c.sampler.filter (fun m => s.cycle < m.start + (m.k + 1) * m.period) }
  let s : State := { s with agenda := [], cores := s.cores.map (fun e => (e.1, idle e.2)) }
  let s : State := match nextQuad s with
    | some _ => s
    | none => loaded s
  match nextQuad s with
  | none => s
  | some q =>
    match selected s q.1 q.2 with
    | none => s
    | some (_, w, g) => putWord { s with agenda := [.issue q.1 q.2] } w g.addr (n % 2 ^ nbits)

end Sys2Proof.Machine
end

