-- ==== Sys2Proof/Machine/SchedEvents.lean ====
section
/-! DEFINITION. What the Junctions and the Signalbox do with launches (13 R393-R407): claims, steals, placement,
dispatch, aging, pre-emption decisions, time limits, completion and serialised re-execution. -/

namespace Sys2Proof.Machine

/-- A level-2 unit that has been claimed. -/
def newUnit (n : Nat) (l : Launch) (j ord : Nat) : LUnit :=
  { launch := n, ord := ord, cid := l.cid, st := .claimed, core := 0, grant := 8, req := l.wreq, reqBy := (0, 0), rslc := 0, share := [],
    shSize := l.share, shBase := 0, nbBase := 0, nbars := l.nbar, mown := l.matrix, bars := [], gone := [], saved := [],
    mat := none, junction := j, die := none, placedAt := 0, oldGrant := none, lateFlags := 0#32 }

/-- Take off the head of a Junction's queue. -/
def popQueue (s : State) (n j : Nat) : State := modL s n (fun l => { l with queues := lmod l.queues j (·.drop 1) })

/-- The head of a queue becomes claimed, a saved unit with its gang (13 R394, R397). -/
def claimHead (s : State) (n j : Nat) (l : Launch) : State :=
  match (lget [] l.queues j).head? with
  | none => s
  | some q =>
    if 2 ^ 40 ≤ q then
      let us := (savedGang s n l (((mget s.units (q - 2 ^ 40)).map (·.ord)).getD 0)).map (·.2.1)
      us.foldl (fun s u => modU s u (fun x => { x with st := .claimed, junction := j }))
        (modL s n (fun l => { l with queues := l.queues.map (fun l => l.filter (fun x => !us.any (fun u => x == 2 ^ 40 + u))) }))
    else
      let s := popQueue s n j
      (claimUnits l q).foldl (fun (s : State) o =>
        { s with units := mset s.units s.nextId (newUnit n l j o), nextId := s.nextId + 1 }) s

/-- JUNCTION_CLAIM (13 R394): the head unit, when the die can hold it. -/
def junctionClaim (s : State) (j n : Nat) : State :=
  match mget s.launches n with
  | none => s
  | some l =>
    if !l.live || !headReady s n j l then s else claimHead s n j l

/-- JUNCTION_CLAIM. -/
def execJunctionClaim (junction launch : Nat) (s : State) : Out := .next (nextFree (junctionClaim s junction launch))

/-- The die of a Junction could hold a unit of the launch (13 R395). -/
def dieCould (s : State) (j n : Nat) (l : Launch) : Bool :=
  let some_ := (l.queues.flatMap id).filter (fun q => decide (q < 2 ^ 40))
  match some_ with
  | q :: _ =>
    let us := claimUnits l q
    let g := tierUnits l (gangTier l)
    (tryPlace s keepAll n { l with domains := [] } j ((us.filter (fun o => o / g == us.head?.getD 0 / g)).map (startWant l))).isSome
  | [] =>
    match (l.queues.flatMap id).head? with
    | some q => ((mget s.units (q - 2 ^ 40)).map (fun u => (tryPlace s keepAll n { l with domains := [] } j (resumeWants s n l u.ord)).isSome)).getD false
    | none => (tryPlace s keepAll n { l with domains := [] } j [startWant l 0]).isSome

/-- STEAL_REQUEST (13 R395): an empty Junction starts to ask. -/
def stealRequest (s : State) (j n : Nat) : State :=
  match mget s.launches n with
  | none => s
  | some l =>
    if !l.live || l.serial.isSome || decide (4 ≤ j) || !(lget [] l.queues j).isEmpty || (mget l.searching j).isSome || !(claimedUnits s n j).isEmpty ||
        !dieCould s j n l then s
    else modL s n (fun l => { l with searching := mset l.searching j 1, asked := mset l.asked j s.cycle })

/-- STEAL_REQUEST. -/
def execStealRequest (thief launch : Nat) (s : State) : Out := .next (nextFree (stealRequest s thief launch))

/-- A victim serves its own head claim first, then the thieves whose requests reached it in one cycle in ascending number (13 R395). -/
def servesFirst (s : State) (n victim j : Nat) (l : Launch) : Bool :=
  let at_ (i : Nat) : Nat := zget 0 l.asked i
  headReady s n victim l ||
    l.searching.any (fun e => decide (e.2 < 4) && (e.1 + e.2) % 4 == victim && (decide (at_ e.1 < at_ j) || (at_ e.1 == at_ j && decide (e.1 < j))))

/-- STEAL_REPLY (13 R395): the victim's tail, or none, once its turn has come. -/
def stealReply (s : State) (victim j n : Nat) : State :=
  match mget s.launches n with
  | none => s
  | some l =>
    match mget l.searching j with
    | none => s
    | some k =>
      if !l.live || decide (4 ≤ k) || victim != (j + k) % 4 || servesFirst s n victim j l then s
      else
        let q := lget [] l.queues victim
        match q.getLast? with
        | none => modL s n (fun l => { l with searching := mset l.searching j (k + 1), asked := mset l.asked j s.cycle })
        | some t =>
          modL s n fun l =>
            { l with
              queues := lmod (lset l.queues victim (q.take (q.length - 1))) j (fun x => x ++ [t]),
              searching := mdel l.searching j }

/-- STEAL_REPLY. -/
def execStealReply (victim thief launch : Nat) (s : State) : Out := .next (nextFree (stealReply s victim thief launch))

/-- The bind record of a wave (13 R398). -/
def bindOf (n : Nat) (l : Launch) (u : Nat) (x : LUnit) (wlog slot state xblk : Nat) (triple : Bool) : Bind :=
  { lrec := l.addr, launch := n, uord := x.ord, unit := u, shbase := x.shBase, wlog := wlog, cid := l.cid, nbbase := x.nbBase,
    grant := x.grant, prio := l.prio, det := l.det, triple := triple, mown := x.mown, xblk := xblk, state := state, slot := slot,
    core := x.core }

/-- A placed unit takes its place, and its bind records are written (13 R397, R398). -/
def settlePlaced (n : Nat) (s : State) (u : Nat) (p : Placed) (st : UState) (bind : LUnit → Nat × Nat → Bind) : State :=
  let s := modU s u fun x =>
    { x with
      st := st, core := p.core, grant := p.grant, shBase := p.spot.shBase, nbBase := p.spot.nbBase, placedAt := s.cycle,
      die := some (dieOf p.core), begun := false }
  match mget s.units u with
  | none => s
  | some x =>
    let s : State := { s with binds := p.spot.slots.foldl (fun m e => mset m (32 * p.core + e.2) (bind x e)) s.binds }
    modL s n fun l =>
      { l with
        waiting := 0, waitPrio := l.prio, placedFirst := some (l.placedFirst.getD s.cycle),
        grants := if (mget l.grants p.ord).isSome then l.grants else mset l.grants p.ord p.grant }

/-- A unit with records that dispatch refused and none that is pending (13 R399, R400). -/
def hasRefused (s : State) (u : Nat) : Bool :=
  s.binds.any (fun e => e.2.unit == u && e.2.state == 6) && !s.binds.any (fun e => e.2.unit == u && e.2.pending)

/-- The Signalbox retires the refused records of a unit (13 R396, R399): they are empty. A unit that has started elsewhere on its core
has them written again; one of which nothing started gives its place up, and is placed again. -/
def retireRefused (s : State) (u : Nat) : State :=
  match mget s.units u with
  | none => s
  | some x =>
    let mine (b : Bind) : Bool := b.unit == u && b.state == 6
    if s.waves.any (fun e => e.2.unit == u) then
      { s with binds := s.binds.map (fun e =>
          if mine e.2 then (e.1, { e.2 with state := if x.saved.isEmpty then 1 else 2, slot := e.1 % 32, core := e.1 / 32, rsv := 0 }) else e) }
    else
      let old := ((x.saved.head?).map (·.grant)).getD x.grant
      modU { s with binds := s.binds.filter (fun e => !mine e.2) } u
        (fun x => { x with st := .claimed, rslc := if old == x.grant then x.rslc else x.rslc - 1 })

/-- Refused records of a unit whose launch is over are empty (13 R399). -/
def clearRefused (s : State) (u : Nat) : State :=
  finishUnit { s with binds := s.binds.filter (fun e => !(e.2.unit == u && e.2.state == 6)) } u

/-- UNIT_PLACEMENT (13 R397): refused records of the Junction's units are retired first; else the next claimed unit or gang is placed,
when it fits and its turn has come. -/
def unitPlacement (s : State) (j n : Nat) : State :=
  match mget s.launches n with
  | none => s
  | some l =>
    let gang := nextGang s n j l
    let bad := (s.units.filter (fun e => e.2.launch == n && e.2.junction == j && e.2.saved.isEmpty && hasRefused s e.1)).map (·.1)
    if !bad.isEmpty then bad.foldl (if l.live then retireRefused else clearRefused) s
    else if !l.live || gang.isEmpty || !inOrder s n l then s
    else
      match tryPlace s keepAll n l j (gang.map (fun p => startWant l p.2)) with
      | none => s
      | some w =>
        let s := (gang.zip w.out).foldl (fun s e =>
          settlePlaced n s e.1.1 e.2 .reserved (fun x q => bindOf n l e.1.1 x q.1 q.2 1 l.xblk l.triple)) s
        modL s n (fun l => { l with domains := w.doms })

/-- UNIT_PLACEMENT. -/
def execUnitPlacement (junction launch : Nat) (s : State) : Out := .next (nextFree (unitPlacement s junction launch))

/-- A saved unit receives a place (12 R382): its bind records are written; a re-slice is counted (12 R384; 06 R240). -/
def settleResumed (n : Nat) (l : Launch) (s : State) (u : Nat) (p : Placed) : State :=
  match mget s.units u with
  | none => s
  | some x =>
    let bind (y : LUnit) (q : Nat × Nat) : Bind :=
      let v := sourceWave x y.grant q.1
      bindOf n l u y q.1 q.2 2 ((v.map (·.xblk)).getD 0) ((v.map (·.triple)).getD false)
    let old := ((x.saved.head?).map (·.grant)).getD p.grant
    modU (settlePlaced n s u p .resuming bind) u (fun y => { y with rslc := if old == p.grant then y.rslc else y.rslc + 1 })

/-- UNIT_RESUME (12 R382, 13 R397): refused records of the unit are retired; else a claimed saved unit receives a place, in one step
with the other saved units of its gang, on a die that has seen every write that its old die had (04 R158); the context's descriptor
and consist table are read again. -/
def unitResume (s : State) (u : Nat) : State :=
  match mget s.units u with
  | none => s
  | some x =>
    match mget s.launches x.launch with
    | none => s
    | some l =>
      let n := x.launch
      let gang := (savedGang s n l x.ord).map (·.2)
      if l.live && !x.saved.isEmpty && hasRefused s u then retireRefused s u
      else if !l.live || x.saved.isEmpty || !gang.all (fun e => e.2.st == .claimed) || x.st != .claimed || !inOrder s n l then s
      else
        match tryPlace s keepAll n l x.junction (resumeWants s n l x.ord) with
        | none => s
        | some w =>
          if !(gang.zip w.out).all (fun e => seenOn s (e.1.2.die.getD (dieOf e.2.core)) (dieOf e.2.core)) then s
          else
            let s := (gang.zip w.out).foldl (fun s e => settleResumed n l s e.1.1 e.2) (refreshContext s x.cid)
            modL s n (fun l => { l with domains := w.doms })

/-- UNIT_RESUME. -/
def execUnitResume (unit : Nat) (s : State) : Out := .next (nextFree (unitResume s unit))

/-- The digest with which a thread starts (13 R406). -/
def startDigest (gtid : Nat) : W64 := BitVec.ofNat 64 (mix 0x6A09E667F3BCC908 gtid)

/-- Interlocked mode (02 R85, 05 R201): the stamp differs from the device's stepping, or the context forces it. -/
def runsInterlocked (x : Option Context) (l : Launch) : Bool := l.step != Config.stepping || (x.map (·.ilkf)).getD false

/-- A wave that starts from a bind record in state 1 (13 R400). -/
def firstWave (s : State) (b : Bind) (l : Launch) : Wave :=
  let x := mget s.contexts b.cid
  let w := startWave b.launch b.unit b.cid b.core b.slot b.wlog b.grant b.prio b.xblk ((x.map (·.cepoch)).getD 0) l.nctl b.triple
    b.det (runsInterlocked x l) (fun i => startDigest (b.uord * l.e2 + i)) l.entry
  w.mapThreads (fun t => { t with wake := s.cycle, runBank := actBank s b.core b.cid })

/-- Undefined copies of every register that a wave holds (12 R382, 00 R8). -/
def undefRegs (triple : Bool) (xblk : Nat) : FMap Cell :=
  ((span 0 (32 * (xblk + 1)) ++ span 0x60 8).flatMap (fun p => (if triple then [0, 1, 2] else [0]).map (fun k => (4 * p + k, Cell.undef))))

/-- A thread of a resumed unit as its wave starts: its saved record, its registers still to be restored. -/
def resumedThread (u : LUnit) (b : Bind) (cycle lidx : Nat) : Thread :=
  match u.saved.findSome? (fun v => v.threads.find? (fun t => t.lidx == lidx)) with
  | some t => { t with regs := if t.live then undefRegs b.triple b.xblk else [], wake := cycle, sec := { t.sec with xblk := b.xblk } }
  | none =>
    let t := startThread (fun i => zget 0#64 u.gone i) b.xblk (b.wlog * b.grant) lidx 0#64
    { t with st := .exited }

/-- Old waves that held a thread of a new wave. -/
def joinedWaves (u : LUnit) (b : Bind) : List SavedWave :=
  u.saved.filter (fun v => decide (v.wlog * v.grant < (b.wlog + 1) * b.grant) && decide (b.wlog * b.grant < (v.wlog + 1) * v.grant))

/-- Old waves whose thread 0 the new wave holds: it takes up the causes owed to them. -/
def inherited (u : LUnit) (b : Bind) : List SavedWave :=
  u.saved.filter (fun v => v.wlog * v.grant / b.grant == b.wlog)

/-- Dependency slots of a resumed wave (09 R327). -/
def resumedSlots (u : LUnit) (b : Bind) (v : SavedWave) : List Nat × List (Nat × Nat × Nat × Bool) :=
  if v.grant == b.grant then (v.slots, v.slotWaits)
  else
    ((span 0 16).map (fun i => min 15 (u.saved.foldl (fun n x => n + lget 0 x.slots i) 0)), u.saved.flatMap (·.slotWaits))

/-- Entries of an engine counter in issue order. -/
def mergeCounts (l : List (Nat × Bool)) : List (Nat × Bool) := l.foldl (fun (m : FMap Bool) e => mset m e.1 e.2) []

/-- A wave that starts from a bind record in state 2 (12 R382), before its handler's trap entry. DESIGN CHOICE (log 54): neither 01 R51,
R53 nor 12 R382 lists the sticky wstat.RUNX (02 R75); a resumed wave starts with it clear. -/
def againWave (s : State) (b : Bind) (l : Launch) (u : LUnit) (v : SavedWave) : Wave :=
  let x := mget s.contexts b.cid
  let w := startWave b.launch b.unit b.cid b.core b.slot b.wlog b.grant b.prio b.xblk v.epoch v.nctl b.triple b.det
    (runsInterlocked x l) (fun _ => 0#64) l.entry
  let threads := (span (b.wlog * b.grant) b.grant).map (resumedThread u b s.cycle)
  let slots := resumedSlots u b v
  { w with
    threads := threads,
    em := maskOf ((enumFrom 0 threads).filter (fun p => p.2.live && p.2.sec.em) |>.map (·.1)),
    cm := maskOf ((enumFrom 0 threads).filter (fun p => p.2.live && p.2.sec.cm) |>.map (·.1)),
    scal := (span 0 64).map (fun i => (i, freeVal s (9600 + i))), aflag := v.aflag ||| u.lateFlags, pin := v.pin, slots := slots.1,
    slotWaits := slots.2, enq := mergeCounts ((joinedWaves u b).flatMap (·.enq)), lastSeq := v.lastSeq,
    causes := (inherited u b).flatMap (·.causes), cmdErrs := (inherited u b).flatMap (·.cmdErrs) }

/-- Dispatch charges the first record of a unit where it has been placed (13 R400): share zeroed, barriers zeroed unless they are
restored, the matrix unit started or restored. -/
def chargeUnit (s : State) (b : Bind) (again : Bool) : State :=
  match mget s.units b.unit with
  | none => s
  | some u =>
    if u.begun then s
    else
      let s := modU s b.unit fun u =>
        { u with st := if again then .resuming else .resident, share := [], bars := if again then u.bars else [], begun := true }
      if !b.mown then s
      else
        let m :=
          if !again then matInit
          else
            match readImage s b.cid (saveBlock s u + 0x321000) matImageSize with
            | some img => matOf img
            | none => u.mat.getD matInit
        modC s b.core (fun c => { c with owner := some b.unit, mat := m })

/-- A record's charges, which count in its quadrant while it is pending (02 R66), fit its core, and its reserved fields are zero (13
R400). -/
def chargesFit (s : State) (b : Bind) : Bool :=
  let waves := s.waves.filter (fun e => e.2.core == b.core)
  let others := s.units.filter (fun e => e.1 != b.unit && e.2.core == b.core && e.2.placed)
  let u := mget s.units b.unit
  b.rsv == 0 && !waves.any (fun e => e.2.slot == b.slot) &&
    decide (quadUsed s b.core (b.slot % 4) ≤ 12288) &&
    rangeFree b.shbase ((u.map (·.shSize)).getD 0) 393216 (others.map (fun e => (e.2.shBase, e.2.shSize))) &&
    rangeFree b.nbbase ((u.map (·.nbars)).getD 0) 512 (others.map (fun e => (e.2.nbBase, e.2.nbars))) &&
    (!b.mown || (getC s b.core).owner.isNone || (getC s b.core).owner == some b.unit)

/-- DISPATCH (13 R400): one pending record of a die starts its wave, or is refused. Of a unit whose pre-emption has been asked for the
Signalbox asks for that of each wave as it starts (13 R399, R401); a wave of a launch that is over is cancelled as it starts (01 R36). -/
def dispatch (s : State) (key : Nat) : State :=
  match mget s.binds key with
  | none => s
  | some b =>
    let earlier := s.binds.any (fun e => e.1 / 32 == key / 32 && decide (e.1 < key) && e.2.pending)
    match mget s.launches b.launch, mget s.units b.unit with
    | some l, some u =>
      if !b.pending || earlier then s
      else if key != 32 * b.core + b.slot || !chargesFit s b then { s with binds := mset s.binds key { b with state := 6 } }
      else
        let again := b.state == 2 && l.live
        let s := fillTable (chargeUnit s b again) b.core b.cid
        let leaves := u.st == .saving
        let s : State := { s with binds := mset s.binds key { b with state := if leaves then 4 else 3 } }
        let w := firstWave s b l
        if !l.live then cancelWave (setW s key w) key
        else if !again then afterDet (setW s key { w with pre := if leaves then .requested else w.pre }) key
        else
          match sourceWave u b.grant b.wlog with
          | none => s
          | some v => afterDet (enterTrap (setW s key (againWave s b l u v)) key ⟨cResume, 0#64, 0#64, 0#32, 0, 0#64⟩ v.wlog) key
    | _, _ => s

/-- DISPATCH. -/
def execDispatch (die index : Nat) (s : State) : Out := .next (nextFree (dispatch s (1536 * die + index)))

/-- PRIORITY_AGING (13 R401): the effective priority follows the cycles waited. -/
def priorityAging (s : State) (n : Nat) : State :=
  modL s n (fun l => if l.live then { l with waitPrio := min 31 (l.prio + l.waiting / 2 ^ 26) } else l)

/-- PRIORITY_AGING. -/
def execPriorityAging (launch : Nat) (s : State) : Out := .next (nextFree (priorityAging s launch))

/-- A pre-emption of a unit is asked for (12 R380, 13 R399). -/
def requestUnit (s : State) (u : Nat) : State :=
  match mget s.units u with
  | none => s
  | some x =>
    if x.st != .resident then s
    else
      let s := modU s u (fun x => { x with st := .saving })
      { s with
        waves := s.waves.map (fun e => if e.2.unit == u then (e.1, { e.2 with pre := .requested }) else e),
        binds := s.binds.map (fun e => if e.2.unit == u && e.2.state == 3 then (e.1, { e.2 with state := 4 }) else e) }

/-- Units that may make room for a launch: the lowest PRIO first, then the most recently placed (13 R401). -/
def victims (s : State) (l : Launch) : List Nat :=
  let all := s.units.filterMap fun e =>
    match mget s.launches e.2.launch with
    | none => none
    | some m =>
      if e.2.st == .resident && m.part == l.part && decide (m.prio + 2 ≤ l.waitPrio) then some (e.1, m.prio, e.2.placedAt) else none
  let later (a b : Nat × Nat × Nat) : Bool := decide (a.2.1 < b.2.1) || (a.2.1 == b.2.1 && decide (b.2.2 ≤ a.2.2))
  (all.foldr (fun x out =>
    out.takeWhile (fun y => later y x && !later x y) ++ [x] ++ out.dropWhile (fun y => later y x && !later x y)) []).map (·.1)

/-- Resident units that a pre-emption of some units takes with them: a request names a context and cores (12 R380), and the units of a
gang stay together (01 R42). -/
def alongside (s : State) (us : List Nat) : List Nat :=
  (s.units.filter (fun e => us.contains e.1 || (e.2.st == .resident && us.any (fun u => match mget s.units u with
    | none => false
    | some x => (e.2.cid == x.cid && e.2.core == x.core) ||
        (e.2.launch == x.launch && ((mget s.launches x.launch).map (fun l => sameGang l e.2.ord x.ord)).getD false))))).map (·.1)

/-- All of them: as long as the list grows. -/
def allAlongside (s : State) : Nat → List Nat → List Nat
  | 0, us => us
  | n + 1, us => let next := alongside s us; if next.length == us.length then us else allAlongside s n next

/-- A unit with those that go with it. -/
def party (s : State) (u : Nat) : List Nat := allAlongside s s.units.length [u]

/-- The units to pre-empt, one after another with those that go with them, until the waiting units fit. -/
def chooseVictims (s : State) (n : Nat) (l : Launch) (j : Nat) (ws : List Want) : List Nat → List Nat → List Nat
  | gone, [] => gone
  | gone, u :: us =>
    if (tryPlace s (fun k => !gone.contains k) n l j ws).isSome then gone
    else chooseVictims s n l j ws (gone ++ (party s u).filter (fun x => !gone.contains x)) us

/-- What a launch waits to place first, with its Junction. -/
def waitingWants (s : State) (n : Nat) (l : Launch) : List (Nat × List Want) :=
  (span 0 4).filterMap fun j =>
    let gang := nextGang s n j l
    let saved := (claimedUnits s n j).filter (fun e => !e.2.saved.isEmpty)
    if !gang.isEmpty then some (j, gang.map (fun p => startWant l p.2))
    else
      match saved with
      | e :: _ => some (j, resumeWants s n l e.2.ord)
      | [] => if (headWants s n l j).isEmpty then none else some (j, headWants s n l j)

/-- PREEMPTION_DECISION (13 R401): after 2^22 cycles, units of lower priority make room, with all that goes with them. -/
def preemptionDecision (s : State) (n : Nat) : State :=
  match mget s.launches n with
  | none => s
  | some l =>
    let ws := waitingWants s n l
    let leaving := (s.units.filter (fun e => e.2.st == .saving)).map (·.1)
    let fits := ws.any (fun p => (tryPlace s (fun k => !leaving.contains k) n l p.1 p.2).isSome)
    if !l.live || decide (l.waiting < 2 ^ 22) || fits then s
    else
      match ws with
      | [] => s
      | (j, w) :: _ =>
        let dies := diesFor l j ((w.head?.map (·.ord)).getD 0)
        let wide := decide (2 ≤ tierDom l (gangTier l))
        let all := victims s l
        let vs := all.filter (fun u => (party s u).all all.contains &&
          ((mget s.units u).map (fun x => tst (((mget s.parts l.part).map (·.cores)).getD 0) x.core && (wide || dies.contains (dieOf x.core)))).getD false)
        ((chooseVictims s n l j w leaving vs).filter (fun u => !leaving.contains u)).foldl requestUnit s

/-- PREEMPTION_DECISION. -/
def execPreemptionDecision (launch : Nat) (s : State) : Out := .next (nextFree (preemptionDecision s launch))

/-- The outcome of a serialised re-execution in the context's error ring (12 R385, R387). -/
def digestEntry (s : State) (l : Launch) (free serial : W64) (sub : Nat) : State :=
  ringEntry s l.cid 0 free.toNat serial.toNat 0x11 sub 0 0 0 0 0

/-- TIME_LIMIT_EXPIRY (13 R402, R407): the launch has been resident for TLIMIT × 2^20 cycles in all. -/
def timeLimit (s : State) (n : Nat) : State :=
  match mget s.launches n with
  | none => s
  | some l =>
    if !l.live || decide (l.resident < l.tlimit * 2 ^ 20) then s
    else
      let dig := brokenDigest s l
      match l.serial with
      | none => endLaunch (cancelLaunch s n) n 3 0 dig
      | some free => endLaunch (digestEntry (cancelLaunch s n) l free dig 3) n 4 3 dig

/-- TIME_LIMIT_EXPIRY. -/
def execTimeLimitExpiry (launch : Nat) (s : State) : Out := .next (nextFree (timeLimit s launch))

/-- The task digest (13 R406): of a device set the Signalbox of DIDX 0 forms it, also from what the others sent over Trunk; what the
others write is not stated (log 4). -/
def taskDigest (s : State) (l : Launch) : W64 :=
  if l.didx != 0 then freeVal s 9501
  else l.digests.foldl (fun (t : W64) e => BitVec.ofNat 64 (mix t.toNat e.2.toNat)) (BitVec.ofNat 64 (mix 0 l.seed.toNat))

/-- The unit digests that the task digest needs have come, those of other devices too (13 R406). -/
def digestsIn (l : Launch) : Bool := l.digm == 0 || l.didx != 0 || l.digests.length == tierUnits l l.lvl

/-- Every unit of the launch on this device is done. -/
def allDone (s : State) (n : Nat) (l : Launch) : Bool := l.unitsLeft == 0 && digestsIn l && !launchBusy s n

/-- The launch runs again from ENTRY, serialised (13 R407). -/
def serialise (s : State) (n : Nat) (free : W64) : State :=
  let s : State := { s with units := s.units.filter (fun e => e.2.launch != n), binds := s.binds.filter (fun e => e.2.launch != n) }
  modL s n fun l =>
    { l with
      det := true, serial := some free, queues := [(dealt l).map (·.1), [], [], []], searching := [],
      unitsLeft := (deviceUnits l).length, digests := [], resident := 0, waiting := 0, waitPrio := l.prio, domains := [], trees := [], farGone := [] }

/-- LAUNCH_COMPLETE (13 R403, R407): the record of a launch that is over, or a re-execution of one whose digest
differs. -/
def launchComplete (s : State) (n : Nat) : State :=
  match mget s.launches n with
  | none => s
  | some l =>
    match l.st with
    | .ending status dsub dig => if launchBusy s n then s else closeLaunch s n status dsub dig
    | .active =>
      if !allDone s n l || l.serial.isSome then s
      else
        let t := taskDigest s l
        if l.digm == 0 then closeLaunch s n 1 0 0#64
        else if l.digm == 1 || t == l.digest then closeLaunch s n 1 0 t
        else serialise s n t
    | _ => s

/-- LAUNCH_COMPLETE. -/
def execLaunchComplete (launch : Nat) (s : State) : Out := .next (nextFree (launchComplete s launch))

/-- SERIALISED_REEXECUTION_END (12 R387, 13 R407). -/
def serialEnd (s : State) (n : Nat) : State :=
  match mget s.launches n with
  | none => s
  | some l =>
    match l.serial with
    | none => s
    | some free =>
      if !l.live || !allDone s n l then s
      else
        let t := taskDigest s l
        let sub := if t == l.digest then 1 else if t == free then 2 else 3
        closeLaunch (digestEntry s l free t sub) n (if sub == 1 then 1 else 4) sub t

/-- SERIALISED_REEXECUTION_END. -/
def execSerialisedReexecutionEnd (launch : Nat) (s : State) : Out := .next (nextFree (serialEnd s launch))

end Sys2Proof.Machine
end

