-- ==== Sys2Proof/Machine/Preempt.lean ====
section
/-! DEFINITION. Pre-emption and resume (12 R378-R383, 02 R88) and the retiring of code pages (12 R386). -/

namespace Sys2Proof.Machine

/-- The register is a live-in of a section (02 R87): a block held at entry, and named by the mask. -/
def Section.liveIn (x : Section) (p : Nat) : Bool :=
  if 0x60 ≤ p then x.implicit || tst x.mask (p - 0x60)
  else decide (p < 32 * (x.xblk + 1)) && (x.implicit || tst x.mask (8 + p / 8))

/-- Copies of the registers after a rollback (02 R88): live-ins as at entry; held extended blocks as they stand; the
rest undefined. -/
def rollRegs (triple : Bool) (xblk : Nat) (t : Thread) : FMap Cell :=
  ((span 0 (32 * (xblk + 1)) ++ span 0x60 8).flatMap fun p =>
    (if triple then [0, 1, 2] else [0]).map fun k =>
      let key := 4 * p + k
      (key,
        if t.sec.liveIn p then zget (Cell.val 0#32) t.sec.regs key
        else if decide (32 ≤ p) && decide (p < 0x60) then zget (Cell.val 0#32) t.regs key
        else Cell.undef)).filter (fun e => e.2 != Cell.val 0#32)

/-- A thread rolled back to its section's entry (02 R88; 01 R40, R51). -/
def rollBack (triple : Bool) (xblk : Nat) (t : Thread) : Thread :=
  if !t.live then t
  else
    { t with
      pc := t.sec.entry, opidx := t.sec.opidx, regs := rollRegs triple xblk t, win := [], hint := none, wimm := none, hnAddr := none,
      inRun := false, runCount := 0, owed := [], clobbered := [], dues := [], marking := false,
      st := if t.st == .atBarrier then .atBarrier else .ready, hold := if t.st == .atBarrier then t.hold else .none,
      digest := t.sec.digest, folds := t.sec.folds }

/-- The wave has work that must finish first (12 R380). -/
def Wave.unfinished (w : Wave) : Bool :=
  w.owes || !w.held.isEmpty || !w.ldq.isEmpty || !w.stq.isEmpty || !w.causes.isEmpty || w.pausing

/-- An atomic or arming has issued for part of the threads at it (02 R86). -/
def midAtomic (s : State) (w : Wave) : Bool :=
  w.threads.any fun t =>
    t.st == .ready && partIssued w ⟨[], t.pc, t.stand, t.hint, t.wimm, fetch s w t.pc⟩

/-- A command, its milepost not yet written, whose scratchpad destination lies in a unit's share, or may: its record waits for
its page or its owner (12 R380). DESIGN CHOICE (log 63). -/
def landsIn (s : State) (ring u : Nat) (c : Cmd) : Bool :=
  let lands (v : Nat) : Bool := (tensorRec v).space == 1 && shareUnit s c (tensorRec v) == some u
  if c.matrix || c.minor == 7 || c.minor == 8 then false
  else if !c.recs.isEmpty then lands (lget 0 c.recs 1)
  else
    match readRecord s ring c c.y.toNat 64 with
    | .ok v => lands v
    | .error (.page _ _ _) => true
    | .error .far => true
    | .error _ => false

/-- The unit's matrix instructions and the commands that write its share are complete (12 R380). -/
def unitQuiet (s : State) (u : Nat) (x : LUnit) : Bool :=
  let c := getC s x.core
  !(c.loadQ ++ c.compQ ++ c.storeQ).any (fun m => m.unit == u) &&
    !((mget s.contexts x.cid).map (fun y => y.consists.any (fun q => q.2.cmds.any (landsIn s q.1 u)))).getD false

/-- The wave has reached its pre-emption point as far as it alone decides. -/
def atPoint (s : State) (w : Wave) : Bool :=
  if w.threads.any (·.live) then w.pre == .requested && w.priv.isNone && !w.frozen && !w.unfinished && !midAtomic s w
  else w.ldq.isEmpty && w.stq.isEmpty

/-- A wave stopped at its point: threads rolled back, then aperture writes applied, sidings dropped (02 R88, R93; 12 R378, R380). -/
def stoppedWave (w : Wave) : Wave :=
  let threads := w.threads.map (fun t => if t.live then applyAp w (rollBack w.triple w.xblk t) else t)
  { w with
    threads := threads, apw := [], sidings := [], parked := false, pre := .handler,
    em := maskOf ((enumFrom 0 threads).filter (fun p => p.2.live && p.2.sec.em) |>.map (·.1)),
    cm := maskOf ((enumFrom 0 threads).filter (fun p => p.2.live && p.2.sec.cm) |>.map (·.1)),
    causes := w.causes.filter (fun c => c.code == cData || c.code == cCommand) }

/-- A wave at its point leaves its sidings and requests and enters the save handler (12 R380; 14 R421). -/
def startSave (s : State) (k : Nat) : State :=
  match mget s.waves k with
  | none => s
  | some w =>
    let s := modC (setW s k (stoppedWave w)) w.core (fun c => { c with reqs := c.reqs.filter (fun r => r.1 != k) })
    enterTrap s k ⟨cPreempt, 0#64, 0#64, 0#32, 0, maskOf w.liveTids⟩ 0

/-- The stall sampler of a pre-empted context stops with STAT 3 (06 R247). -/
def preemptSampler (s : State) (core cid : Nat) : State :=
  match (getC s core).sampler with
  | none => s
  | some m =>
    if m.cid != cid then s
    else
      let s := flushSamples s core
      modC (samplerReport s core (((getC s core).sampler).getD m) 3) core (fun c => { c with sampler := none })

/-- PREEMPTION_HANDLER_START (12 R380): every wave of the unit is at its point. -/
def handlersStart (s : State) (u : Nat) : State :=
  match mget s.units u with
  | none => s
  | some x =>
    let ks := unitWaves s u
    if x.st != .saving || !(s.waves.filter (fun e => e.2.unit == u)).all (fun e => atPoint s e.2) || !unitQuiet s u x || ks.isEmpty ||
        (s.waves.filter (fun e => e.2.unit == u)).any (fun e => e.2.pre == .handler || e.2.pre == .saved) ||
        s.binds.any (fun e => e.2.unit == u && (e.2.pending || e.2.state == 6)) then s
    else
      let s := preemptSampler s x.core x.cid
      let m := (getC s x.core).mat
      let s :=
        if x.mown then writeImage (modU s u (fun y => { y with mat := some m })) x.cid (saveBlock s x + 0x321000) matImageSize (matImage m)
        else s
      let live := ks.filter (fun k => ((mget s.waves k).map (fun w => w.threads.any (·.live))).getD false)
      live.foldl startSave s

/-- PREEMPTION_HANDLER_START. -/
def execPreemptionHandlerStart (unit : Nat) (s : State) : Out := .next (nextFree (handlersStart s unit))

/-- What the Signalbox keeps of a wave (12 R378, R382). -/
def keepWave (w : Wave) : Option SavedWave :=
  match w.priv with
  | none => none
  | some p =>
    some
      { wlog := w.wlog, grant := w.grant, core := w.core, slot := w.slot, triple := w.triple, xblk := w.xblk, pin := w.pin, aflag := p.keptAflag ||| p.late,
        nctl := p.keptNctl, epoch := w.epoch, slots := w.slots, slotWaits := w.slotWaits, enq := w.enq, causes := w.causes,
        cmdErrs := w.cmdErrs, lastSeq := w.lastSeq, threads := p.kept, em := p.keptEm, cm := p.keptCm, scal := w.scal }

/-- A unit whose waves are all saved leaves its core (12 R381, 13 R401). Its threads that have exited stay exited, whatever waves it
resumes as (01 R37, R38, R55). -/
def unitLeaves (s : State) (u : Nat) : State :=
  match mget s.units u with
  | none => s
  | some x =>
    let ws := s.waves.filter (fun e => e.2.unit == u)
    let live := ws.filter (fun e => e.2.threads.any (·.live))
    if live.isEmpty || live.any (fun e => e.2.pre != .saved) then s
    else
      let gone := ws.foldl (fun m e => (e.2.threads.filter (fun t => !t.live)).foldl (fun m t => mset m t.lidx t.digest) m) x.gone
      let s : State :=
        { s with waves := s.waves.filter (fun e => e.2.unit != u), binds := s.binds.filter (fun e => e.2.unit != u) }
      let s := modU s u fun x =>
        { x with
          st := .saved, share := [], gone := gone, saved := live.filterMap (fun e => keepWave e.2), lateFlags := 0#32, oldGrant := none }
      let s := modC s x.core (fun c => { c with owner := if c.owner == some u then none else c.owner })
      let s := requeue s u
      if ws.any (fun e => e.2.det) then settleDet s x.core x.launch else s

/-- The wave's threads all stand at a handler exit with a code (12 R372). -/
def atExit (w : Wave) (code : Nat) : Bool :=
  let live := w.numbered.filter (·.2.live)
  w.priv.isSome && allAtRcb live && live.all (fun p => p.2.hold == .leave code) && (rcbPcs live).length == 1

/-- WAVE_LEAVES_CORE (12 R372, R380): once its load and store counters are 0. Its bind record is empty (13 R399). -/
def waveLeaves (s : State) (k : Nat) : State :=
  match mget s.waves k with
  | none => s
  | some w =>
    let c := (w.priv.map (fun p => p.cause.code)).getD 0
    if c != cPreempt || w.pre != .handler || !atExit w 1 || !w.ldq.isEmpty || !w.stq.isEmpty || w.owes then s
    else
      unitLeaves { setW s k { w with pre := .saved } with binds := mmod s.binds k (fun b => { b with state := 0 }) } w.unit

/-- WAVE_LEAVES_CORE. -/
def execWaveLeavesCore (wave : Nat) (s : State) : Out := .next (nextFree (waveLeaves s wave))

/-- The old waves joined in a new one agree (12 R382). -/
def agreeing (l : List SavedWave) : Bool :=
  match l with
  | [] => true
  | v :: r => r.all (fun x => x.triple == v.triple && x.xblk == v.xblk && x.pin == v.pin)

/-- Registers that a resume does not restore are undefined (01 R51). -/
def loseRest (w : Wave) : Wave :=
  w.mapThreads fun t =>
    if !t.live then t
    else
      { t with regs := (span 0 32 ++ span 0x60 8).foldl (fun m p =>
          if t.sec.liveIn p then m else w.sibs.foldl (fun m k => mset m (4 * p + k) Cell.undef) m) t.regs }

/-- RESUME_RELEASE (12 R383): every wave has returned and its stores are performed. -/
def resumeRelease (s : State) (u : Nat) : State :=
  match mget s.units u with
  | none => s
  | some x =>
    let ws := s.waves.filter (fun e => e.2.unit == u)
    let pending := s.binds.any (fun e => e.2.unit == u && e.2.pending)
    let ready (w : Wave) : Bool :=
      !w.threads.any (·.live) || (atExit w 0 && ((w.priv.map (fun p => p.cause.code)).getD 0) == cResume && w.stq.isEmpty && !w.owes)
    if x.st != .resuming || pending || ws.isEmpty || !ws.all (fun e => ready e.2) then s
    else if !ws.all (fun e => agreeing (x.saved.filter (fun v =>
        decide (v.wlog * v.grant < (e.2.wlog + 1) * e.2.grant) && decide (e.2.wlog * e.2.grant < (v.wlog + 1) * v.grant)))) then
      refuseReslice s u
    else
      let s := modU s u (fun x => { x with st := .resident, saved := [], lateFlags := 0#32, oldGrant := none, mat := none })
      let ks := ws.map (·.1)
      let s := ks.foldl returnTrap s
      let s := ks.foldl (fun s k => modW s k loseRest) s
      concludeAll s ks

/-- RESUME_RELEASE. -/
def execResumeRelease (unit : Nat) (s : State) : Out := .next (nextFree (resumeRelease s unit))

/-- The address of the entry that maps a virtual address, with the entry (14 R408). -/
def leafPlace (rd : Nat → Nat) (va : Nat) : List Level → Nat → Option (Nat × Nat)
  | [], _ => none
  | l :: ls, base =>
    let pa := base + 8 * bitsAt va l.lo l.width
    let e := rd pa
    if !tst e 0 then none else if tst e 1 then some (pa, e) else leafPlace rd va ls (entryAddr e)

/-- Unmap a page of a context (12 R386): its leaf loses V, and no TLB keeps it. -/
def unmapPage (s : State) (cid : Nat) (c : Context) (page : Nat) : State :=
  let drop (l : List TlbEnt) : List TlbEnt := l.filter (fun e => !(e.cid == cid && decide (e.vpn ≤ page) && decide (page < e.vpn + e.pages)))
  let s : State :=
    match leafPlace (fun pa => ofBytes (homeBytes s pa 8)) (page * 32768) levels c.root with
    | none => s
    | some (pa, e) => if physOk s c.part true pa 8 then writeHome s pa (bytesOf 8 (e - 1)) else s
  { s with
    cores := s.cores.map (fun e : Nat × Core => (e.1, { e.2 with tlb := drop e.2.tlb })),
    walkers := s.walkers.map (fun e : Nat × List TlbEnt => (e.1, drop e.2)) }

/-- Some wave of the context, resident or saved, holds an epoch of `e` or less (12 R386). -/
def holdsEpoch (s : State) (cid e : Nat) : Bool :=
  s.waves.any (fun w => w.2.cid == cid && decide (w.2.epoch ≤ e)) ||
    s.units.any (fun u => u.2.cid == cid && u.2.saved.any (fun v => decide (v.epoch ≤ e)))

/-- CODE_SWAP_RETIRE (12 R386): the pages of an epoch that no wave holds are unmapped, and the swap is reported. -/
def codeRetire (s : State) (cid epoch : Nat) : State :=
  match mget s.contexts cid with
  | none => s
  | some c =>
    match c.retiring.find? (fun r => r.1 == epoch) with
    | none => s
    | some r =>
      if holdsEpoch s cid epoch then s
      else
        let s := r.2.1.foldl (fun s p => unmapPage s cid c p) s
        let s := modX s cid (fun c =>
          { c with retiring := c.retiring.filter (fun x => x.1 != epoch), retired := c.retired ++ r.2.1 })
        finishRequest s r.2.2.1 r.2.2.2 1

/-- CODE_SWAP_RETIRE. -/
def execCodeSwapRetire (cid epoch : Nat) (s : State) : Out := .next (nextFree (codeRetire s cid epoch))

end Sys2Proof.Machine
end

