-- ==== Sys2Proof/Machine/FaultEvents.lean ====
section
/-! DEFINITION. Steps of translation and memory errors: TLB fills and invalidations (14 R413-R416), held faults (R419),
sharded accesses (R433-R435), uncorrectable granules (R423, R424), and the predictive counters (15 R447, R448,
R453). -/

namespace Sys2Proof.Machine

/-- Put an entry into a TLB of `n` entries; a full one displaces its oldest (14 R413). -/
def tlbPut (n : Nat) (e : TlbEnt) (l : List TlbEnt) : List TlbEnt := e :: l.take (n - 1)

/-- TLB_FILL (14 R413): a core's TLB (below 192) or a die's tensor walker (from 192) takes up a leaf that is valid and free
of walk errors. -/
def tlbFill (s : State) (tlb cid va : Nat) : State :=
  match mget s.contexts cid with
  | none => s
  | some c =>
    if c.ended || decide (2 ^ 56 ≤ va) || inAperture c va || decide (196 ≤ tlb) then s
    else
      let die := if tlb < 192 then dieOf tlb else tlb - 192
      match walk s c va with
      | .leaf e size =>
        let t : TlbEnt := ⟨cid, va / size * size / 32768, size / 32768, e⟩
        let add (n : Nat) (l : List TlbEnt) : List TlbEnt := if (tlbHit cid va l).isSome then l else tlbPut n t l
        if tlb < 192 then modC s tlb (fun x => { x with tlb := add 2048 x.tlb })
        else { s with walkers := mset s.walkers die (add 8192 ((mget s.walkers die).getD [])) }
      | _ => s

/-- TLB_FILL. -/
def execTlbFill (tlb cid va : Nat) (s : State) : Out := .next (nextFree (tlbFill s tlb cid va))

/-- The access or read of a wave is performed, or gone with its wave. -/
def accessOver (s : State) (p : Nat × Nat) : Bool :=
  match mget s.waves p.1 with
  | none => true
  | some w =>
    !(w.accs ++ w.held.flatMap (·.accs)).any (fun a => a.id == p.2 && !a.performed) &&
      !w.reads.any (fun r => r.number == p.2 && r.data.isNone)

/-- INVALIDATE_DONE (14 R415): the accesses that used removed entries are performed; TOKEN is written. -/
def invalidateDone (s : State) (id : Nat) : State :=
  match s.invals.find? (fun v => v.id == id) with
  | none => s
  | some v =>
    if !v.waitFor.all (accessOver s) then s
    else
      let s := sysWrite s v.done (numBytes 8 v.token)
      finishRequest { s with invals := s.invals.filter (fun x => x.id != id) } v.fn v.queue 1

/-- INVALIDATE_DONE. -/
def execInvalidateDone (id : Nat) (s : State) : Out := .next (nextFree (invalidateDone s id))

/-- A held fault receives its record: what waits for it names that record from now on. -/
def rename (old new : Nat) (l : List FPage) : List FPage := l.map (fun f => if f.seq == old then { f with seq := new } else f)

/-- The same for a command. -/
def renameCmd (old new : Nat) (c : Cmd) : Cmd :=
  { c with waitPage := c.waitPage.map (fun f => if f.seq == old then { f with seq := new } else f), ahead := rename old new c.ahead }

/-- The same everywhere. -/
def renameAll (s : State) (old new : Nat) : State :=
  let w (w : Wave) : Wave :=
    { w with
      sidings := w.sidings.map (fun f => { f with pages := rename old new f.pages }) }
  let q (l : List Cmd) : List Cmd := l.map (renameCmd old new)
  { s with
    waves := s.waves.map (fun e => (e.1, w e.2)),
    contexts := s.contexts.map (fun e : Nat × Context =>
      (e.1, { e.2 with consists := e.2.consists.map (fun x => (x.1, { x.2 with cmds := q x.2.cmds })) })),
    cores := s.cores.map (fun e : Nat × Core =>
      (e.1, { e.2 with loadQ := q e.2.loadQ, compQ := q e.2.compQ, storeQ := q e.2.storeQ })) }

/-- Records named by the party that waits for a held fault: lists of pages of sidings and commands. -/
def partyOf (s : State) (n : Nat) : List Nat :=
  let has (l : List FPage) : List Nat := if l.any (fun f => f.seq == n) then l.map (·.seq) else []
  let cmd (c : Cmd) : List Nat := has (c.waitPage.toList ++ c.ahead)
  (s.waves.flatMap fun e => e.2.sidings.flatMap (fun f => has f.pages)) ++
    (s.contexts.flatMap fun e => e.2.consists.flatMap (fun x => x.2.cmds.flatMap cmd)) ++
    (s.cores.flatMap fun e => (e.2.loadQ ++ e.2.compQ ++ e.2.storeQ).flatMap cmd)

/-- HELD_FAULT_OPEN (14 R419): the fault that has been held longest merges, or opens its record once the slot is
free. -/
def heldOpen (s : State) (part : Nat) : State :=
  match mget s.parts part with
  | none => s
  | some p =>
    match p.heldFaults with
    | [] => s
    | (n, cid, va, reason, kind, _) :: l =>
      let p' : Partition := { p with heldFaults := l }
      match openRec s p cid (va / 2 ^ 21 * 2 ^ 21) p.recs with
      | some seq =>
        let first := !(partyOf s (2 ^ 64 + n)).contains seq
        let s := mergeFault { s with parts := mset s.parts part p' } p' seq va reason kind first
        renameAll s (2 ^ 64 + n) seq
      | none =>
        if slotFree s p then
          renameAll (openRecord { s with parts := mset s.parts part p' } part p' cid va reason kind) (2 ^ 64 + n) p.seqNext
        else s

/-- HELD_FAULT_OPEN. -/
def execHeldFaultOpen (part : Nat) (s : State) : Out := .next (nextFree (heldOpen s part))

/-- What a sharded access asks of its owner (14 R435): 0 read, 1 write, 2 atomic, 3 decay operation; its operation (of a decay
operation: 0 `ld.d`, 1 `st.d`, 2 `dadd` or a moment of an `optstep`, 3 `dcls`, 4 a word of a `dsweep`); bytes; class; and whether
a handler makes it. -/
structure Shared where
  what : Nat
  op : Nat
  size : Nat
  cls : Nat
  privileged : Bool
  core : Nat
  deriving DecidableEq, Repr

/-- Its number: bits [1:0], [7:2], [11:8], [13:12], [14] and from 16 up the core that a dirty line is tagged with. -/
def sharedOf (k : Nat) : Shared := ⟨bitsAt k 0 2, bitsAt k 2 6, bitsAt k 8 4, bitsAt k 12 2, tst k 14, k / 2 ^ 16⟩

/-- The permissions that it needs (14 R412). -/
def Shared.need (k : Shared) : Need :=
  if k.what == 0 || (k.what == 3 && k.op == 0) then .read
  else if k.what == 1 || (k.what == 3 && k.op == 1) then .write
  else .both

/-- The owner's place for a sharded page, if its leaf is as R435 asks. -/
def ownerPlace (s : State) (mcid va ssn : Nat) (k : Shared) : Option Place :=
  match mget s.contexts mcid with
  | none => none
  | some c =>
    if c.ended || decide (2 ^ 56 ≤ va) || va % max 1 k.size != 0 then none
    else
      match walk s c va, (mget s.parts c.part).bind (fun p => mget p.shards ssn) with
      | .leaf e size, some ms =>
        let p := pageOf va e size
        let own := lget (0, 0) ms (shardOwner va ms.length) == (mcid, s.trunk.devn)
        let stride := p.stride
        let pl : Place :=
          if p.cls == 1 then .triple (p.base + p.off) stride else if p.cls == 2 then .md32 (p.base + p.off) else .single (p.base + p.off)
        if p.map != 3 || p.ssn != ssn || p.cls != k.cls || !own || (p.priv && !k.privileged) || !permits k.need p ||
            !placeOk s c.part true k.size pl then none
        else some pl
      | _, _ => none

/-- The lane that the access is at its owner: each 64 bits of `data` a plane or operand. -/
def sharedLane (pl : Place) (va data : Nat) : Lane := ⟨0, va, pl, [bitsAt data 0 64, bitsAt data 64 64, bitsAt data 128 64]⟩

/-- What the owner does (14 R435, 04 R172): home slices read and written; every die sees a write at once (log 7). -/
def sharedWrite (s : State) (mcid : Nat) (k : Shared) (l : Lane) : State :=
  let put (s : State) (data : List Nat) : State :=
    let s := tagWrite s mcid k.core (devPieces s l.place k.size l.va)
    match l.place with
    | .single pa => writeHome s pa (soft s pa (bytesOf k.size (lget 0 data 0)))
    | .triple pa st => [0, 1, 2].foldl (fun s i => writeHome s (pa + i * st) (soft s (pa + i * st) (bytesOf k.size (lget 0 data i)))) s
    | .md32 pa => writeHome s pa (soft s pa (bytesOf 4 (lget 0 data 0)))
    | _ => s
  if k.what == 1 then put s l.data
  else if k.what == 2 then put s [(atomNew k.op (homeWord s l.place k.size) l.data).1]
  else if k.what == 3 then
    let op : AOp := if k.op == 1 then .stD (bitsAt (lget 0 l.data 1) 0 4) else if k.op == 2 then .dadd else .dcls (bitsAt (lget 0 l.data 1) 0 4)
    let v := homeWord s l.place 8
    if k.op == 0 || (k.op == 4 && decide (sweepAge s mcid v < 2 ^ 14)) then s
    else if k.op == 4 then put s [(decayNew s mcid (.dcls (dwCls v)) v l.data).1]
    else put s [(decayNew s mcid op v l.data).1]
  else s

/-- The access writes at its owner. -/
def Shared.writes (k : Shared) : Bool := k.what != 0 && !(k.what == 3 && k.op == 0)

/-- A sharded access may be performed at its owner: a write follows in causal order whatever its device may have read here, and every
die sees it at once; what a read returns has been seen by every die (04 R158-R160, R172). -/
def sharedReady (s : State) (k : Shared) (pl : Place) (va : Nat) : Bool :=
  if k.writes then s.vis.isEmpty
  else !coversUnseen s [0, 1, 2, 3] ((devPieces s pl k.size va).flatMap (fun p => span p.1 p.2))

/-- The state once a message that is the first of its flow has been taken out of the inbox (15 R443); none where no flow has it
first. -/
def takeInbox (s : State) (msg : List Nat) : Option State :=
  let box := s.trunk.inbox
  (box.find? (fun e => e.2 == msg && box.find? (fun x => x.1 == e.1) == some e)).map fun e =>
    { s with trunk := { s.trunk with inbox := box.erase e } }

/-- What the owner does with a sharded access (14 R435): it is performed at its home slice, or answered with a failure and logged as a
breach; it waits until it may be performed. -/
def ownerAccess (s : State) (mcid va ssn kind data : Nat) : Option State :=
  let k := sharedOf kind
  match ownerPlace s mcid va ssn k with
  | none => some (devError s 4 (freeUnit s) mcid (partOf s mcid) 0)
  | some pl =>
    if !sharedReady s k pl va then none
    else
      match badGranule s pl k.size va with
      | some (g, _) => some (poisonGranule s g)
      | none => some (sharedWrite s mcid k (sharedLane pl va data))

/-- SHARDED_OWNER_ACCESS (14 R435): an access that Trunk has delivered, in the order of its flow (15 R443). What the owner answers
travels back over Trunk (log 13). -/
def ownerTurn (s : State) (dev mcid va ssn kind data : Nat) : State :=
  ((takeInbox s [4, dev, mcid, va, ssn, kind, data]).bind (fun s => ownerAccess s mcid va ssn kind data)).getD s

/-- SHARDED_OWNER_ACCESS. -/
def execShardedOwnerAccess (dev mcid va ssn kind data : Nat) (s : State) : Out :=
  .next (nextFree (ownerTurn s dev mcid va ssn kind data))

/-- What an answer puts into a lane: planes of a load, an old value and flags, or a record to complete. -/
def answerData (a : Access) (cls data : Nat) (old : List Nat) : List Nat :=
  match a.op with
  | .load _ => if cls == 1 then [bitsAt data 0 64, bitsAt data 64 64, bitsAt data 128 64] else [bitsAt data 0 64]
  | .tdesc _ => old ++ [bitsAt data 0 512]
  | _ => [bitsAt data 0 64, bitsAt data 192 15]

/-- An access may be performed at its sharded owner: what local order puts before it is performed (04 R154, R172). -/
def mayTravel (w : Wave) (a : Access) : Bool := a.after.all (fun i => !w.accs.any (fun x => x.id == i && !x.performed))

/-- For a write, every write before it is visible on every die (04 R158, R172). -/
def mayWriteFar (s : State) (w : Wave) (a : Access) : Bool := a.counts.2 == 0 || allShown s (dieOf w.core)

/-- The outcome of a sharded access: what its owner answered, if that has come; a failure at once where no traffic to the owner can
leave (15 R446); else none yet. -/
def farOutcome (s : State) (came : Bool) (dev ok : Nat) : Option Nat := if came then some ok else if hasRoute s dev then none else some 0

/-- The word whose access has this number, if its threads wait for owners. -/
def Wave.heldFor (w : Wave) (id : Nat) : Option Held := w.held.find? (fun h => h.accs.any (fun a => a.id == id))

/-- A lane that is with its owner. -/
def Held.pending (h : Held) (id tid : Nat) : Option (Access × Lane) :=
  (h.accs.find? (fun a => a.id == id)).bind fun a =>
    (a.lanes.find? (fun l => l.tid == tid && isRemote l.place && (h.answer id l).isNone)).map (fun l => (a, l))

/-- A lane as its owner answers it: done, bad memory there (2: held as poisoned, 3: found now; the data are the granule), or a failure
(0, or a set that the partition no longer has). -/
def Lane.answeredBy (known : Bool) (a : Access) (cls ok data : Nat) (l : Lane) : Lane :=
  if ok == 0 || !known then { l with place := .failed }
  else if 2 ≤ ok then { l with place := .spoiled cls (data % farGranules) (ok == 2) }
  else { l with place := .answered cls, data := answerData a cls data l.data }

/-- The answer for a lane of an access (14 R435). Once every owner of the word's lanes has answered, the word completes (`landHeld`).
None while the answer must wait. -/
def laneAnswer (s : State) (came : Bool) (k id tid ok data : Nat) : Option State :=
  match mget s.waves k with
  | none => some s
  | some w =>
    match (w.heldFor id).bind (fun h => (h.pending id tid).map (fun p => (h, p))) with
    | none => some s
    | some (h, a, l) =>
      match l.place with
      | .remote dev _ _ ssn cls =>
        match (if mayTravel w a then farOutcome s came dev ok else none) with
        | none => some s
        | some ok =>
          if !mayWriteFar s w a then none
          else
            let known := ((mget s.parts (partOf s w.cid)).bind (fun p => mget p.shards ssn)).isSome
            let h' := { h with got := h.got ++ [(id, l.answeredBy known a cls ok data)] }
            let w := { w with held := w.held.map (fun x => if x = h then h' else x) }
            some (if h'.over then conclude (landHeld (setW s k w) k w h') k else setW s k w)
      | _ => some s

/-- The device to which a sharded place is sent. -/
def placeDevice (pl : Place) : Option Nat := match pl with
  | .remote dev _ _ _ _ => some dev
  | _ => none

/-- A partial write of a command met bad memory at its owner (14 R424): charged to the issuing wave, which traps. -/
def farWriteBad (s : State) (c : Cmd) (va g : Nat) : State :=
  let s := chargeMemory s c.cid c.iaddr (va / 32 * 32) (farGranules + g % farGranules) 4 (c.ord s) c.wlog c.core c.slot
  match issuer s c with
  | some (k, _) => addCause s k ⟨cData, c.iaddr, BitVec.ofNat 64 (va / 32 * 32), 0#32, 0, 0#64⟩
  | none => s

/-- The answer for an engine command's access of some bytes at an address, as `farKey` names it: done, bad memory at the owner (2), or
a failure, which is a fault with reason 6. A write goes out once every write before it is visible (04 R158). None while the answer must
wait. -/
def commandAnswer (s : State) (came : Bool) (ring : Nat) (c : Cmd) (key ok data : Nat) : Option (State × Cmd) :=
  let va := key % 2 ^ 64
  let write := key / 2 ^ 64 % 2 == 1
  let inPlace := !c.matrix && decide (7 ≤ c.minor)
  if c.waitPage.isSome || c.frozen || c.err != 0 then some (s, c)
  else
    match engineSpot s ring c write va (max 1 (key / 2 ^ 65)) with
    | .error _ => some (s, c)
    | .ok q =>
      match (placeDevice q.place).bind (fun dev => farOutcome s came dev ok) with
      | none => some (s, c)
      | some ok =>
        if write && !s.vis.isEmpty then none
        else some <|
        if ok == 1 then (s, { c with far := mset c.far key data })
        else if 2 ≤ ok then
          if write && !inPlace then (farWriteBad s c va data, { c with far := mset c.far key 0 })
          else stopCmd s ring c (.poison va (farGranules + data % farGranules))
        else
          let r := regFault s c.cid va 6 (kEngine + (if write then kWrite else kRead)) (faultSource ring) c.attached
          (r.1, { c with waitPage := some ⟨r.2, va / 32768 * 32768, false⟩ })

/-- The device that owns the page of an address, if another one does. -/
def farDevice (s : State) (cid va : Nat) : Option Nat :=
  (mget s.contexts cid).bind fun c =>
    match walk s c va with
    | .leaf e size => placeDevice (placeOn s cid c.part none va (pageOf va e size))
    | _ => none

/-- The answer for a read that a wave needs before it issues (14 R435; 06 R219; 09 R323, R339): its threads go on, or, where the owner
failed, go into a siding with reason 6. A follow-on record that met bad memory is delivered as 0, with the error of 08 R291. -/
def readAnswer (s : State) (came : Bool) (k va kind ok data : Nat) : State :=
  match mget s.waves k with
  | none => s
  | some w =>
    let asked := w.reads.find? (fun r => r.va == va && r.kind == kind && r.data.isNone)
    let outcome := if came then some ok else (farDevice s w.cid va).bind (fun dev => farOutcome s came dev ok)
    match asked, outcome with
    | some r, some ok =>
      let others := w.reads.filter (fun x => decide (x ≠ r))
      let up (w : Wave) : Wave := w.onTids r.tids (fun _ t => if t.wake == farWake then { t with wake := s.cycle + 1 } else t)
      if ok != 0 then
        let s := setW s k (up { w with reads := others ++ [{ r with data := some (if ok == 1 then data else 0) }] })
        if ok == 1 || kind != 1 then s
        else
          let addr : W64 := ((r.tids.head?.bind w.thread).map (·.pc)).getD 0#64
          let s := chargeError s w addr va (farGranules + data % farGranules) 1
          addCause s k ⟨cData, addr, BitVec.ofNat 64 (va / 32 * 32), 0#32, 0, maskOf (w.actives r.tids)⟩
      else
        let s := setW s k (up { w with reads := others })
        if w.priv.isSome then handlerFault s k (noCause s)
        else toSiding s k (if kind == 0 then kExec + kLane else kRead + kScalar) (kind != 0) (r.tids.map (fun n => (n, va, 6))) r.tids
    | _, _ => s

/-- SHARDED_OWNER_ANSWER (14 R435): for a lane of an access, or, from `tid` 2^16, for a read of kind `tid` − 2^16 at address `id`.
From 2^20 the number names a command: 2^20 + 256 CID + its ring, and for a ring of a matrix unit the queue stands in `tid`. None while
the answer must wait. -/
def ownerAnswer (s : State) (came : Bool) (wave id tid ok data : Nat) : Option State :=
  if wave < 2 ^ 20 then
    if tid < 2 ^ 16 then laneAnswer s came wave id tid ok data else some (conclude (readAnswer s came wave id (tid - 2 ^ 16) ok data) wave)
  else
    let cid := (wave - 2 ^ 20) / 256
    let ring := wave % 256
    if ring < 64 then
      match headOf s cid ring with
      | none => some s
      | some c =>
        (commandAnswer s came ring c id ok data).map (fun r => concludeAll (putHead r.1 cid ring r.2) (contextWaves s cid))
    else
      match matQueue (getC s (ring - 64)) tid with
      | [] => some s
      | c :: l => (commandAnswer s came ring c id ok data).map (fun r => putQueue r.1 (ring - 64) tid (r.2 :: l))

/-- The answer that Trunk has delivered, in the order of its flow (15 R443); without one, the failure of an access whose owner cannot be
reached (14 R435; 15 R446). -/
def answerTurn (s : State) (wave id tid ok data : Nat) : State :=
  match takeInbox s [5, wave, id, tid, ok, data] with
  | some s' => (ownerAnswer s' true wave id tid ok data).getD s
  | none => if ok == 0 then (ownerAnswer s false wave id tid 0 data).getD s else s

/-- SHARDED_OWNER_ANSWER. -/
def execShardedOwnerAnswer (wave id tid ok data : Nat) (s : State) : Out :=
  .next (nextFree (answerTurn s wave id tid ok data))

/-- An uncorrectable granule of an evicted line is poisoned and charged to the line's last writer; where that context has ended, to
the device (14 R424). Whether such an entry is fatal, and what its ADDR, unit and wave are, is not stated (log 4). -/
def evictedGranule (cid core : Nat) (s : State) (g : Nat) : State :=
  let s := poisonGranule s g
  if ((mget s.contexts cid).map (·.ended)).getD true then
    devError s (if tst (freeVal s 9710).toNat 0 then 7 else 3) (freeUnit s) (cid % 2 ^ 16)
      (if cid < 2 ^ 16 then partOf s cid else cid / 2 ^ 16 - 1) (g * 32)
  else ringEntry s cid (freeVal s 9713).toNat 0 (g * 32) cData 3 0 (freeVal s 9711).toNat ((freeVal s 9712).toNat % 2 ^ 32) core 0xFF

/-- A dirty line is evicted (14 R423, R424): granules of it that cannot be corrected are poisoned, the others written back, and the
line is dirty no more. -/
def evictLine (s : State) (bad : List Nat) (line : Nat) : State :=
  match mget s.tags line with
  | none => s
  | some (cid, core) =>
    (bad ++ s.latent.filter (fun x => !bad.contains x && lineOf x == line)).foldl (evictedGranule cid core) { s with tags := mdel s.tags line }

/-- LINE_EVICTION_ERROR (14 R424): a granule cannot be corrected. Where it stands in a dirty line, that line is evicted: the granule
and every other of the line that cannot be corrected are poisoned, and the line is dirty no more. Elsewhere the error stays until a
read, a partial write or scrubbing finds it. With 2^40 added to the granule its line is evicted and nothing new is found. DESIGN CHOICE
(log 64). -/
def lineEviction (s : State) (g : Nat) : State :=
  if 2 ^ 40 ≤ g then evictLine s [] (lineOf (g - 2 ^ 40))
  else if (mget s.tags (lineOf g)).isSome then evictLine s [g] (lineOf g)
  else { s with latent := if decide (memSize / 32 ≤ g) || s.poison.contains g || s.latent.contains g then s.latent else g :: s.latent }

/-- LINE_EVICTION_ERROR. -/
def execLineEvictionError (granule : Nat) (s : State) : Out := .next (nextFree (lineEviction s granule))

/-- The counter's window: a pile's scrub pass for its banks and rows, else the counter's own (15 R448). -/
def windowOf (unit : Nat) : Nat := if unit / 2 ^ 28 == 5 then unit / 2 ^ 24 * 2 ^ 24 else unit

/-- Thresholds in force in a counter's window (15 R453). -/
def thresholdsFor (win : Nat) : List (List Nat × List Nat) → List Nat
  | [] => defaultThresholds
  | [t] => t.1
  | t :: l => if t.2.contains win then t.1 else thresholdsFor win l

/-- The threshold of a counter: CRC retries of a link, lane margins (key from 2^32), a bank, a row, or an SRAM array. -/
def thresholdOf (m : Mgmt) (key : Nat) : Nat :=
  let unit := key % 2 ^ 32
  let t := thresholdsFor (windowOf unit) m.thresholds
  if 2 ^ 32 ≤ key then lget 1 t 1
  else if unit / 2 ^ 28 == 6 then lget 1 t 0
  else if unit / 2 ^ 28 == 5 then (if unit % 2 ^ 16 == 0xFFFF then lget 1 t 2 else lget 1 t 3)
  else lget 1 t 4

/-- Events are counted; a counter that reaches its threshold in its window raises one event and one entry (15 R448). -/
def countEvents (s : State) (key n : Nat) : State :=
  let old := zget 0 s.mgmt.counters key
  let m : Mgmt := { s.mgmt with counters := zset 0 s.mgmt.counters key (old + n) }
  let s : State := { s with mgmt := m }
  let t := thresholdOf m key
  if decide (old < t) && decide (t ≤ old + n) then
    let s : State := { s with mgmt := { m with crossings := zset 0 m.crossings key (zget 0 m.crossings key + 1) } }
    let s := event s 0 5 (key % 2 ^ 32) (key % 2 ^ 32)
    devError s 2 (key % 2 ^ 32) 0xFFFF 0xFF 0
  else s

/-- A window ends: its counters start again, under the thresholds last set (15 R448, R453). -/
def endWindow (s : State) (win : Nat) : State :=
  let m := s.mgmt
  let ts := m.thresholds.map (fun t => (t.1, t.2.filter (· != win)))
  let ts := match ts with
    | [] => []
    | [t] => [t]
    | t :: l => (t.1, win :: t.2) :: l
  { s with
    mgmt := { m with thresholds := ts, counters := m.counters.filter (fun e => windowOf (e.1 % 2 ^ 32) != win || decide (2 ^ 32 ≤ e.1)) } }

/-- A granule found by scrubbing is poisoned and logged (14 R424). -/
def scrubFound (s : State) (g : Nat) : State :=
  if g < memSize / 32 then devError (poisonGranule s g) 3 (freeUnit s) 0xFFFF 0xFF (g * 32) else s

/-- SCRUB_PASS (15 R447, R448): a pile's pass finds the granule, if one is named, and corrects so many errors in the bank or row of a
unit. A pass is one or more of these steps: from `pile` 8 the pass ends with this one, and with it the windows of the pile's counters
(log 67). -/
def scrubPass (s : State) (pile g unit n : Nat) : State :=
  let s := scrubFound s g
  let win := unitId 5 (8 + pile % 8) 0 0
  let s := if windowOf unit == win && decide (unit < 2 ^ 32) && n != 0 then
      let bank := unit / 2 ^ 16 * 2 ^ 16 + 0xFFFF
      let s := countEvents s bank n
      if unit == bank then s else countEvents s unit n
    else s
  if pile / 8 % 2 == 1 then endWindow s win else s

/-- SCRUB_PASS. -/
def execScrubPass (pile granule unit corrected : Nat) (s : State) : Out := .next (nextFree (scrubPass s pile granule unit corrected))

/-- PREDICTIVE_WINDOW (15 R448): an SRAM array has corrected so many errors, the low 32 bits of `n`; and the counter's window of 2^32
cycles ends, but where `n` is 2^32 or more, which only counts (log 67). -/
def predictiveWindow (s : State) (unit n : Nat) : State :=
  let s := if unit / 2 ^ 28 == 6 || n % 2 ^ 32 == 0 then s else countEvents s unit (n % 2 ^ 32)
  if 2 ^ 32 ≤ n then s else endWindow s unit

/-- PREDICTIVE_WINDOW: counters whose window is a scrub pass end it there. -/
def execPredictiveWindow (unit corrected : Nat) (s : State) : Out :=
  .next (nextFree (if unit / 2 ^ 28 == 5 || decide (2 ^ 32 ≤ unit) then s else predictiveWindow s unit corrected))

end Sys2Proof.Machine
end

