-- ==== Sys2Proof/Machine/HostQueues.lean ====
section
/-! DEFINITION. The host interface: doorbells and registers (15 R437, R440, R461) and how a request is read, answered
and completed (R438-R440, R466). -/

namespace Sys2Proof.Machine

/-- A function that answers: not frozen, and no wipe of it under way (15 R441, R454). -/
def fnAnswers (s : State) (f : Func) : Bool := !f.frozen && !f.wiping && !s.booting

/-- Put a queue of a function. -/
def putHostQueue (s : State) (fn queue : Nat) (q : Queue) : State :=
  { s with funcs := mmod s.funcs fn (fun f => { f with queues := lset f.queues queue q }) }

/-- Entries from `a` forward to `b` in a ring. -/
def ringDist (n a b : Nat) : Nat := (b + n - a % n) % n

/-- A tail is a queue error (15 R440): at or beyond the ring's size, or one that would pass HEAD. -/
def badTail (q : Queue) (v : Nat) : Bool :=
  let n := 2 ^ q.qlog
  decide (n ≤ v) || (q.head != q.tail && decide (ringDist n q.tail q.head < ringDist n q.tail v))

/-- DOORBELL_WRITE (15 R440): bits [31:0] are the tail. -/
def doorbell (s : State) (fn queue value : Nat) (relaxed : Bool) : State :=
  match mget s.funcs fn with
  | none => s
  | some f =>
    match f.queues[queue]? with
    | none => s
    | some q =>
      let v := value % 2 ^ 32
      if !fnAnswers s f then s
      else if relaxed then devError s 6 (uHost fn) 0xFFFF (if fn == 0 then 0xFF else fn - 1) 0
      else if badTail q v then putHostQueue s fn queue { q with qerr := true }
      else
        putHostQueue { s with nextId := s.nextId + 1 } fn queue
          { q with tail := v, came := q.came ++ List.replicate (ringDist (2 ^ q.qlog) q.tail v) s.nextId }

/-- DOORBELL_WRITE. -/
def execDoorbellWrite (fn queue value : Nat) (relaxed : Bool) (s : State) : Out := .next (nextFree (doorbell s fn queue value relaxed))

/-- The queue is enabled and has entries that are not read. -/
def queueBusy (q : Queue) : Bool := q.qlog != 0 && q.head != q.tail

/-- An event ring is set: one at another base or of another size holds no event yet (15 R441; log 69). -/
def setRing (f : Func) (base log2n : Nat) : Func :=
  { f with evbase := base, evlog := log2n, evCount := if base == f.evbase && log2n == f.evlog then f.evCount else 0 }

/-- A write of 8 bytes to BAR0 (15 R437): QBASE, EVBASE, or QLOG, EVLOG and QERR. -/
def barWrite (s : State) (fn reg value : Nat) : State :=
  match mget s.funcs fn with
  | none => s
  | some f =>
    match f.queues[reg / 32]? with
    | none => s
    | some q =>
      let v := value % 2 ^ 64
      if !fnAnswers s f then s
      else if reg % 32 == 24 then (if queueBusy q then s else putHostQueue s fn (reg / 32) { q with qbase := v })
      else if reg % 32 == 16 then
        (if reg / 32 == 0 then { s with funcs := mset s.funcs fn (setRing f v f.evlog) } else s)
      else if reg % 32 == 0 then
        let q := if queueBusy q then q else { q with qlog := bitsAt v 56 8 }
        let s := putHostQueue s fn (reg / 32) { q with qerr := q.qerr && !tst v 0 }
        if reg == 0 then { s with funcs := mmod s.funcs fn (fun f => setRing f f.evbase (bitsAt v 48 8)) } else s
      else s

/-- A private write selects a register of the management port (15 R461). -/
def Mgmt.select (m : Mgmt) (reg : Nat) : Mgmt := { m with sel := reg % 2 ^ 8 }

/-- A write through the management port (15 R461): it selects the register; its data go to one without a row of its own, PCSEL or ERRN.
From 2^64 the value stands for a write of the index alone. -/
def portWrite (s : State) (reg value : Nat) : State :=
  let m := s.mgmt.select reg
  { s with mgmt :=
      if 2 ^ 64 ≤ value then m
      else if reg == 0x10 then { m with pcsel := BitVec.ofNat 32 value }
      else if reg == 0x20 then { m with errn := value % 2 ^ 8 }
      else m }

/-- REGISTER_WRITE: ports 0 to 8 are the functions, 9 is the management port. -/
def execRegisterWrite (port reg value : Nat) (s : State) : Out :=
  .next (nextFree (if port == 9 then portWrite s reg value else barWrite s port reg value))

/-- A request (15 R438). -/
structure Req where
  fn : Nat
  queue : Nat
  pay : Nat
  arg : Nat
  tag : Nat
  cid : Nat
  opc : Nat
  rsv : Nat
  deriving DecidableEq, Repr

/-- The fields of an entry. -/
def reqOf (fn queue v : Nat) : Req :=
  { fn := fn, queue := queue, pay := bitsAt v 448 64, arg := bitsAt v 384 64, tag := bitsAt v 288 32, cid := bitsAt v 272 16,
    opc := bitsAt v 264 8, rsv := bitsAt v 0 264 }

/-- Request codes (15 R439). -/
def requestCodes : List Nat := span 0x01 11 ++ span 0x10 7

/-- A payload: its bytes as a number, none to be had, or memory that the function may not reach. -/
inductive Pay where
  | ok (v : Nat)
  | bad
  | viol (pa : Nat)
  deriving DecidableEq, Repr

/-- Read `n` bytes of a payload that is aligned to `align`. -/
def readPay (s : State) (r : Req) (a n align : Nat) : Pay :=
  if a % align != 0 then .bad
  else if n == 0 then .ok 0
  else if !fnReach s r.fn a n then .viol a
  else
    match sysRead s a n with
    | some bs => .ok (ofBytes bs)
    | none => .bad

/-- No payload. -/
def noPay : State → Req → Pay := fun _ _ => .ok 0

/-- A field is as the request's rule asks; otherwise the request is malformed. -/
def Pay.check (p : Pay) (f : Nat → Bool) : Pay :=
  match p with
  | .ok v => if f v then .ok v else .bad
  | p => p

/-- The answer to a request that is well formed and permitted (15 R466): a status with the state that it leaves, more
steps to come, none yet, or a violation. -/
inductive Answer where
  | complete (status : Nat) (s : State)
  | status (n : Nat)
  | later (s : State)
  | wait
  | viol (pa : Nat)

/-- The context belongs to a partition that the function serves, or does not exist (15 R439). -/
def mayName (s : State) (r : Req) (cid : Nat) : Bool :=
  r.fn == 0 || match mget s.contexts cid with
    | none => true
    | some c => c.part == r.fn - 1

/-- How one kind of request is treated: whether the entry is of this kind, who may submit it, what contexts it names, its
payload with the checks of R466(1), and its effect. -/
structure Kind where
  mine : Req → Bool
  pf0 : Bool
  names : Req → Nat → List Nat
  load : State → Req → Pay
  act : State → Req → Nat → Answer

/-- The request at the head of a queue, when the Signalbox may take it up (15 R440). -/
def headReq (s : State) (fn queue : Nat) : Option (Queue × Func) :=
  match mget s.funcs fn with
  | none => none
  | some f =>
    match f.queues[queue]? with
    | none => none
    | some q =>
      if fnAnswers s f && decide (4 ≤ q.qlog) && decide (q.qlog ≤ 12) && !q.qerr && q.head != q.tail then some (q, f) else none

/-- The entry is read and kept until the request is complete. -/
def takeReq (s : State) (fn queue v : Nat) : State :=
  match mget s.funcs fn with
  | none => s
  | some f => putHostQueue s fn queue { lget Queue.init f.queues queue with cur := some v }

/-- The answer of a request takes effect (15 R438, R440, R466). -/
def settle (s : State) (fn queue v : Nat) (a : Answer) : State :=
  match a with
  | .complete n t => finishRequest (takeReq t fn queue v) fn queue n
  | .status n => finishRequest (takeReq s fn queue v) fn queue n
  | .later t => takeReq t fn queue v
  | .wait => s
  | .viol pa => freezeFn s fn pa

/-- What a request is answered (15 R466): malformed, then not permitted, then its own rule. -/
def answerTo (k : Kind) (s : State) (r : Req) : Answer :=
  if r.rsv != 0 || !requestCodes.contains r.opc then .status 5
  else
    match k.load s r with
    | .bad => .status 5
    | .viol pa => .viol pa
    | .ok v => if r.fn != 0 && (k.pf0 || (k.names r v).any (fun c => !mayName s r c)) then .status 4 else k.act s r v

/-- The Signalbox takes up the request at the head of a queue, when it is of this kind, or of no kind (15 R440). -/
def takeUp (k : Kind) (s : State) (fn queue : Nat) : State :=
  match headReq s fn queue with
  | none => s
  | some (q, _) =>
    if q.cur.isSome then s
    else
      let a := q.qbase + 64 * q.head
      if !fnReach s fn a 64 then freezeFn s fn a
      else
        match sysRead s a 64 with
        | none => s
        | some bs =>
          let v := ofBytes bs
          let r := reqOf fn queue v
          if k.mine r || !requestCodes.contains r.opc then settle s fn queue v (answerTo k s r) else s

/-- A request under way completes once it is over (15 R440). -/
def goOnReq (k : Kind) (done : State → Req → Bool) (s : State) (fn queue : Nat) : State :=
  match headReq s fn queue with
  | none => s
  | some (q, _) =>
    match q.cur with
    | none => takeUp k s fn queue
    | some v => if k.mine (reqOf fn queue v) && done s (reqOf fn queue v) then finishRequest s fn queue 1 else s

/-- The partition that a request speaks of: the function's own, or for PF0 that of its context. -/
def reqPart (s : State) (r : Req) : Nat := if r.fn == 0 then partOf s r.cid else r.fn - 1

/-- A context that exists and has not ended. -/
def liveContext (s : State) (cid : Nat) : Option Context :=
  match mget s.contexts cid with
  | none => none
  | some c => if c.ended then none else some c

end Sys2Proof.Machine
end

