-- ==== Sys2Proof/Machine/Requests.lean ====
section
/-! DEFINITION. Requests about launches, contexts, faults, code, versioned ranges, shard sets and collective groups (15
R439; 12 R365, R376, R380, R386; 13 R388-R390; 14 R415, R420, R430-R433; 15 R445). -/

namespace Sys2Proof.Machine

/-- The launch that a record describes (13 R388). -/
def launchOf (s : State) (r : Req) (part v : Nat) : Launch :=
  { cid := r.cid, part := part, record := v, addr := r.pay, step := bitsAt v 768 16, didx := bitsAt v 760 8, ndev := bitsAt v 752 8,
    tiers := (span 0 6).map (fun i => bitsAt v (704 + 8 * i) 8), ext := (span 0 6).map (fun i => bitsAt v (512 + 32 * i) 32),
    compl := bitsAt v 448 64, digest := BitVec.ofNat 64 (bitsAt v 384 64), tlimit := bitsAt v 352 32, ustride := bitsAt v 320 32,
    savebase := bitsAt v 256 64, share := bitsAt v 224 32, nctl := BitVec.ofNat 32 (bitsAt v 192 32),
    seed := BitVec.ofNat 64 (bitsAt v 128 64), entry := BitVec.ofNat 64 (bitsAt v 64 64), digm := bitsAt v 50 2, nbar := bitsAt v 40 10,
    wreq := bitsAt v 32 7, lvl := bitsAt v 26 3, xblk := bitsAt v 24 2, matrix := tst v 23, triple := tst v 22, det := tst v 21,
    prio := bitsAt v 16 5, st := .waitPlatform, queues := [[], [], [], []], searching := [], unitsLeft := 0, digests := [],
    placedFirst := none, resident := 0, waiting := 0, waitPrio := bitsAt v 16 5, submitted := s.nextId, domains := [], trees := [],
    farGone := [], serial := none, grants := [], fn := r.fn }

/-- Check 0x01: version and reserved fields. -/
def versionOk (v : Nat) : Bool :=
  bitsAt v 0 16 == 1 && bitsAt v 784 240 == 0 && bitsAt v 52 12 == 0 && bitsAt v 39 1 == 0 && bitsAt v 29 3 == 0

/-- Tiers from `k` up to the sixth with their places. -/
def tierIndex : List Nat := [2, 3, 4, 5, 6, 7]

/-- Check 0x02: level and extents (01 R16). -/
def extentsOk (l : Launch) : Bool :=
  let e (k : Nat) : Nat := lget 0 l.ext (k - 2)
  decide (3 ≤ l.lvl) && e 2 % 64 == 0 && decide (64 ≤ e 2) && decide (e 2 ≤ 2048) &&
    tierIndex.all (fun k => if k ≤ l.lvl then decide (1 ≤ e k) else e k == 0) &&
    decide (tierIndex.foldl (fun n k => if k ≤ l.lvl then n * e k else n) 1 < 2 ^ 63)

/-- Check 0x03: tiers (01 R41, 13 R389). -/
def tiersOk (l : Launch) : Bool :=
  let t (k : Nat) : Nat := lget 0 l.tiers (k - 2)
  t 2 % 4 == 0 && !tst (t 2) 4 &&
    tierIndex.all (fun k =>
      if k ≤ l.lvl then
        decide (t k % 4 ≤ t k / 4 % 4) && (k == 2 || decide (t (k - 1) % 4 ≤ t k % 4)) && (tst (t k) 4 || t k / 32 == 0)
      else t k == 0) &&
    decide ((platsOf l).eraseDups.length = (platsOf l).length)

/-- Check 0x04: request, blocks, barriers, share, digest mode, limit and controls. -/
def rangesOk (l : Launch) : Bool :=
  decide (8 ≤ l.wreq) && decide (l.wreq ≤ 64) && decide (l.xblk ≤ 2) && decide (l.nbar ≤ 512) && decide (l.share ≤ 393216) &&
    l.share % 256 == 0 && l.digm != 3 && l.tlimit != 0 && decide (l.nctl.toNat < 2 ^ 10) && decide (l.nctl.toNat / 2 ^ 8 ≤ 1)

/-- Check 0x05: addresses and the stride. -/
def addressesOk (l : Launch) : Bool :=
  l.entry.toNat % 4 == 0 && l.savebase % 4096 == 0 && l.ustride % 4096 == 0 &&
    decide ((if l.matrix then 0xA62000 else 0x321000) ≤ l.ustride)

/-- Check 0x06: the device set. -/
def devicesOk (l : Launch) : Bool :=
  (decide (2 ≤ l.ndev) == l.tiers.any (fun t => t % 4 == 3)) && decide (l.didx < l.ndev) && decide (l.ndev ≤ 64)

/-- Check 0x08: the context's partition admits the priority. -/
def prioOk (s : State) (l : Launch) : Bool := ((mget s.parts l.part).map (fun p => decide (l.prio ≤ p.prioceil))).getD false

/-- The code of the first check of 13 R390 that fails, or 0. -/
def launchError (s : State) (l : Launch) : Nat :=
  if !versionOk l.record then 1
  else if !extentsOk l then 2
  else if !tiersOk l then 3
  else if !rangesOk l then 4
  else if !addressesOk l then 5
  else if !devicesOk l then 6
  else if !placeable s l then 7
  else if !prioOk s l then 8
  else 0

/-- A launch is accepted (13 R393): its units are dealt to the Junctions; it waits for its platforms (01 R43). -/
def acceptLaunch (s : State) (l : Launch) : State :=
  let l : Launch := { l with queues := dealQueues l, unitsLeft := (deviceUnits l).length }
  grantPlatforms { s with launches := mset s.launches s.nextId l, nextId := s.nextId + 1 }

/-- The launch record, as the Signalbox reads it in its context's memory (13 R388). A launch for a context that does not exist
has no record to read, and is left to check 0x08. -/
def launchPay (s : State) (r : Req) : Pay :=
  if r.pay % 128 != 0 || r.arg != 0 then .bad
  else if (liveContext s r.cid).isNone then .ok 0
  else
    match sbRead s r.cid r.pay 128 with
    | some bs => (Pay.ok (ofBytes bs)).check (fun v => bitsAt v 448 64 % 32 == 0)
    | none => .bad

/-- Launch (13 R388-R390). -/
def launchAct (s : State) (r : Req) (v : Nat) : Answer :=
  match liveContext s r.cid with
  | none => .status 2
  | some c =>
    let l := launchOf s r c.part v
    let e := launchError s l
    if e == 0 then .complete 1 (acceptLaunch s l) else .complete 2 (writeCompletion s l 2 e 0 0#64)

/-- LAUNCH. -/
def launchKind : Kind := ⟨fun r => r.opc == 0x01, false, fun r _ => [r.cid], launchPay, launchAct⟩

/-- LAUNCH. -/
def execLaunch (fn queue : Nat) (s : State) : Out := .next (nextFree (takeUp launchKind s fn queue))

/-- Nothing of a context remains in the device: launches recorded, waves gone, commands complete (12 R376). -/
def contextClear (s : State) (cid : Nat) : Bool :=
  s.launches.all (fun e => e.2.cid != cid || e.2.st == .done) && !s.waves.any (fun e => e.2.cid == cid) &&
    ((mget s.contexts cid).map (fun c => c.consists.all (fun q => q.2.cmds.isEmpty))).getD true &&
    s.cores.all (fun e => !(e.2.loadQ ++ e.2.compQ ++ e.2.storeQ).any (fun c => c.cid == cid))

/-- The CID may be given to a new context (12 R376). -/
def cidFree (s : State) (cid : Nat) : Bool :=
  match mget s.contexts cid with
  | none => true
  | some c => c.ended && contextClear s cid && !s.ranges.any (fun e => e.2.owner == cid)

/-- A context as it is created, but for its tables (12 R365, R366; 02 R90; log 18). -/
def freshContext (r : Req) (v : Nat) : Context :=
  takeDescr v
    { root := 0, vbase := 0#64, fbase := 0#64, errrec := 0#64, dftab := 0#64, atab := 0#64, ctab := 0#64, savelim := 0, cepoch := 0,
      errlog := 4, part := descrPart v, ilkf := false, descr := r.pay,
      apbase := BitVec.ofNat 64 ((Config.apSlot (descrCid v)).toNat * 2 ^ 32), gammas := [], actImage := List.replicate 4224 0#8,
      consists := [], errCount := 0, retiring := [], retired := [], ended := false }

/-- CEPOCH in the descriptor, which the Signalbox alone writes (12 R365). -/
def writeEpoch (s : State) (c : Context) : State := sysWrite s (c.descr + 64) (numBytes 4 c.cepoch)

/-- The decay factors of a context are read (12 R366); those that cannot be read have no value stated (log 4). Every slice takes them up in
this one step; 03 R138 leaves to each some moment of the operation (DESIGN CHOICE: log 87). -/
def loadGammas (s : State) (cid : Nat) : State :=
  match mget s.contexts cid with
  | none => s
  | some c =>
    let g := (readGammas s cid c.dftab).getD (0x3F800000#32 :: (span 1 15).map (fun i => BitVec.ofNat 32 (freeVal s (9720 + i)).toNat))
    modX s cid (fun c => { c with gammas := g })

/-- Context create (12 R365-R367): no core keeps a copy of an activation table of an earlier context of this number (07 R274). -/
def createAct (s : State) (r : Req) (v : Nat) : Answer :=
  let cid := descrCid v
  if bitsAt v 0 488 != 0 || !cidFree s cid || (mget s.parts (descrPart v)).isNone then .status 2
  else
    let c := freshContext r v
    let s : State :=
      { s with
        contexts := mset s.contexts cid c,
        cores := s.cores.map (fun e : Nat × Core => (e.1, { e.2 with acts := mdel e.2.acts cid })) }
    .complete 1 (readConsists (loadGammas (writeEpoch s c) cid) cid)

/-- CONTEXT_CREATE: reserved fields are refused by the rule itself, other fields must be in range. -/
def createKind : Kind :=
  { mine := fun r => r.opc == 0x02, pf0 := false, names := fun r v => [r.cid, descrCid v],
    load := fun s r => (readPay s r r.pay 128 128).check (fun v => descrOk (v / 2 ^ 488 * 2 ^ 488)),
    act := fun s r v => if r.fn != 0 && descrPart v != r.fn - 1 then .status 4 else createAct s r v }

/-- CONTEXT_CREATE. -/
def execContextCreate (fn queue : Nat) (s : State) : Out := .next (nextFree (takeUp createKind s fn queue))

/-- The steps of a context end that its completion waits for are done (12 R376). -/
def endOver (s : State) (r : Req) : Bool := contextClear s r.cid

/-- Context end (12 R376). -/
def endKind : Kind :=
  { mine := fun r => r.opc == 0x03, pf0 := false, names := fun r _ => [r.cid], load := noPay,
    act := fun s r _ => if (mget s.contexts r.cid).isNone then .status 2 else .later (endContext s r.cid none) }

/-- CONTEXT_END: the request begins, or completes once the steps of R376 are done. -/
def execContextEnd (fn queue : Nat) (s : State) : Out := .next (nextFree (goOnReq endKind endOver s fn queue))

/-- Cores that a pre-emption request names: bits [47:0] of one die, which stands in [63:60]. -/
def preemptCores (r : Req) : List Nat := ((span 0 48).filter (fun c => tst r.arg c)).map (fun c => 48 * (r.arg / 2 ^ 60) + c)

/-- Resident units of the context on those cores (12 R380). -/
def preemptUnits (s : State) (r : Req) (st : UState → Bool) : List Nat :=
  (s.units.filter (fun e => e.2.cid == r.cid && st e.2.st && (preemptCores r).contains e.2.core)).map (·.1)

/-- Pre-empt (12 R380). A unit that is being resumed has its next trap point at the return, which the request awaits
(log 32). -/
def preemptKind : Kind :=
  { mine := fun r => r.opc == 0x04, pf0 := false, names := fun r _ => [r.cid],
    load := fun _ r => if bitsAt r.arg 48 12 == 0 && decide (r.arg / 2 ^ 60 < 4) then .ok 0 else .bad,
    act := fun s r _ =>
      if (liveContext s r.cid).isNone then .status 2
      else if !(preemptUnits s r (· == .resuming)).isEmpty then .wait
      else .later ((preemptUnits s r (· == .resident)).foldl requestUnit s) }

/-- The units have left their cores (log 32). -/
def preemptOver (s : State) (r : Req) : Bool := (preemptUnits s r (· == .saving)).isEmpty

/-- PREEMPT: the request begins, or completes once the units are saved. -/
def execPreempt (fn queue : Nat) (s : State) : Out := .next (nextFree (goOnReq preemptKind preemptOver s fn queue))

/-- The payload of an invalidation (14 R415): VBASE, DONE, NPAGES, CID and TOKEN. -/
def invalOk (v : Nat) : Bool :=
  bitsAt v 192 64 % 32768 == 0 && bitsAt v 64 16 == 0 && bitsAt v 128 64 % 8 == 0 && decide (bitsAt v 128 64 + 8 ≤ memSize)

/-- A page number lies in an invalidation's range; NPAGES 0 covers the context. -/
def inInval (v page n : Nat) : Bool :=
  let first := bitsAt v 192 64 / 32768
  let count := bitsAt v 96 32
  count == 0 || (decide (page < first + count) && decide (first < page + n))

/-- Accesses and reads on their way, of waves of the context, that touch the range (14 R415). -/
def invalWaits (s : State) (v : Nat) : List (Nat × Nat) :=
  s.waves.flatMap fun e =>
    if e.2.cid == bitsAt v 80 16 then
      ((e.2.accs ++ e.2.held.flatMap (·.accs)).filter (fun a => !a.performed && a.lanes.any (fun l => inInval v (l.va / 32768) 1))).map
          (fun a => (e.1, a.id)) ++
        (e.2.reads.filter (fun r => r.data.isNone && inInval v (r.va / 32768) 1)).map (fun r => (e.1, r.number))
    else []

/-- Entries of the range leave every TLB. -/
def dropTlb (s : State) (out : TlbEnt → Bool) : State :=
  { s with
    cores := s.cores.map (fun e : Nat × Core => (e.1, { e.2 with tlb := e.2.tlb.filter (fun x => !out x) })),
    walkers := s.walkers.map (fun e : Nat × List TlbEnt => (e.1, e.2.filter (fun x => !out x))) }

/-- Invalidate (14 R415). -/
def invalAct (s : State) (r : Req) (v : Nat) : Answer :=
  if !fnReach s r.fn (bitsAt v 128 64) 8 then .viol (bitsAt v 128 64)
  else
    let cid := bitsAt v 80 16
    let i : Inval :=
      { id := s.nextId, cid := cid, vpn := bitsAt v 192 64 / 32768, pages := bitsAt v 96 32, done := bitsAt v 128 64,
        token := bitsAt v 0 64, fn := r.fn, queue := r.queue, waitFor := invalWaits s v }
    let s := dropTlb s (fun x => x.cid == cid && inInval v x.vpn x.pages)
    .later { s with invals := s.invals ++ [i], nextId := s.nextId + 1 }

/-- INVALIDATE. -/
def invalKind : Kind :=
  { mine := fun r => r.opc == 0x05, pf0 := false, names := fun _ v => [bitsAt v 80 16],
    load := fun s r => (readPay s r r.pay 32 1).check invalOk, act := invalAct }

/-- INVALIDATE. -/
def execInvalidate (fn queue : Nat) (s : State) : Out := .next (nextFree (takeUp invalKind s fn queue))

/-- What a resolve does to pages: those cancelled and those to replay, by address (14 R420). -/
structure Resolve where
  seq : Nat
  cancel : List Nat
  replay : List Nat
  deriving DecidableEq, Repr

/-- Pages of a block named by a mask. -/
def pagesIn (block mask : Nat) : List Nat := ((span 0 64).filter (tst mask)).map (fun i => block + 32768 * i)

/-- The resolve of a record (14 R420). -/
def resolveOf (seq r : Nat) : Resolve :=
  let open_ := bitsAt r 448 64 &&& ((2 ^ 64 - 1) ^^^ bitsAt r 256 64)
  let c := open_ &&& bitsAt r 128 64
  let block := bitsAt r 384 64
  ⟨seq, pagesIn block c, pagesIn block (open_ &&& bitsAt r 192 64 &&& ((2 ^ 64 - 1) ^^^ c))⟩

/-- A page of a waiting party is cancelled, or served. -/
def FPage.cancelled (v : Resolve) (f : FPage) : Bool := f.seq == v.seq && v.cancel.contains f.va
/-- It is served. -/
def FPage.serve (v : Resolve) (f : FPage) : FPage := if f.seq == v.seq && v.replay.contains f.va then { f with served := true } else f

/-- A party of the wave is cancelled, so that the wave is terminated (01 R36). -/
def Wave.cancelledBy (v : Resolve) (w : Wave) : Bool := w.sidings.any (fun f => f.pages.any (·.cancelled v))

/-- Served pages are marked; sidings all of whose pages are served return to Ready, once no handler runs (14 R420; 01 R34;
12 R371). -/
def Wave.replayed (v : Resolve) (cycle : Nat) (w : Wave) : Wave :=
  ({ w with sidings := w.sidings.map (fun f => { f with pages := f.pages.map (FPage.serve v) }) } : Wave).freeSidings cycle

/-- A command whose page is resolved: refused with code 0x05, or free to walk the page again (14 R420). Pages reported ahead
are no longer waited for; a page that was served is walked afresh (14 R416). -/
def resolveCmd (v : Resolve) (s : State) (ring : Nat) (c : Cmd) : State × Cmd :=
  let gone (f : FPage) : Bool := f.cancelled v || (f.serve v).served
  let served := ((c.waitPage.toList ++ c.ahead).filter (fun f => (f.serve v).served)).map (·.va)
  let c : Cmd := { c with ahead := c.ahead.filter (fun f => !gone f), walked := c.walked ++ served }
  match c.waitPage with
  | none => (s, c)
  | some f =>
    if f.cancelled v then refuse s ring c 5
    else if (f.serve v).served then (s, { c with waitPage := none })
    else (s, c)

/-- Every command of the context in a list. -/
def resolveCmds (v : Resolve) (cid ring : Nat) : State → List Cmd → State × List Cmd
  | s, [] => (s, [])
  | s, c :: l =>
    let r := if c.cid == cid then resolveCmd v s ring c else (s, c)
    let q := resolveCmds v cid ring r.1 l
    (q.1, r.2 :: q.2)

/-- Commands of the consists of a context. -/
def resolveConsists (v : Resolve) (s : State) (cid : Nat) : State :=
  match mget s.contexts cid with
  | none => s
  | some x =>
    x.consists.foldl (fun s q =>
      let r := resolveCmds v cid q.1 s q.2.cmds
      modX r.1 cid (fun x => { x with consists := mmod x.consists q.1 (fun y => { y with cmds := r.2 }) })) s

/-- Commands in the queues of the matrix units. -/
def resolveMatrix (v : Resolve) (cid : Nat) (s : State) : State :=
  s.cores.foldl (fun s e =>
    [0, 1, 2].foldl (fun s i =>
      let r := resolveCmds v cid (64 + e.1) s (matQueue (getC s e.1) i)
      putQueue r.1 e.1 i r.2) s) s

/-- A cancelled party ends its wave: at once, or at the return of its handler (01 R36; 12 R371 step 4). -/
def cancelParty (s : State) (k : Nat) : State :=
  match mget s.waves k with
  | none => s
  | some w =>
    match w.priv with
    | none => cancelWave s k
    | some p => setW s k { w with priv := some { p with ended := true } }

/-- The pages of a resolve are answered, for the parties of its context (14 R419, R420). -/
def applyResolve (s : State) (cid : Nat) (v : Resolve) : State :=
  let ks := (s.waves.filter (fun e => e.2.cid == cid && e.2.cancelledBy v)).map (·.1)
  let s := ks.foldl cancelParty s
  let s : State := { s with waves := s.waves.map (fun e => if e.2.cid == cid then (e.1, e.2.replayed v s.cycle) else e) }
  let s := resolveMatrix v cid (resolveConsists v s cid)
  concludeAll s (contextWaves s cid)

/-- Fault resolve (14 R420): a record that is not claimed is refused. -/
def resolveAct (s : State) (r : Req) (_ : Nat) : Answer :=
  let part := reqPart s r
  match mget s.parts part with
  | none => .status 2
  | some p =>
    let w := readRec s p r.arg
    if decide (p.seqNext ≤ r.arg) || recState w != 2 || bitsAt w 320 64 != r.arg then .status 2
    else
      let v := resolveOf r.arg w
      let s := applyResolve s (bitsAt w 112 16) v
      let mask (l : List Nat) : Nat := l.foldl (fun n a => n ||| 2 ^ (a / 32768 % 64)) 0
      let w := orField (orField w 256 64 (mask v.cancel)) 256 64 (mask v.replay)
      let ended := bitsAt w 256 64 == bitsAt w 448 64
      let s := writeRec s p r.arg (if ended then setField w 0 8 3 else w)
      .complete 1 (if ended then { s with parts := mmod s.parts part (fun p => { p with recs := p.recs.filter (fun x => x.1 != r.arg) }) } else s)

/-- FAULT_RESOLVE. -/
def resolveKind : Kind := ⟨fun r => r.opc == 0x06, false, fun r _ => [r.cid], noPay, resolveAct⟩

/-- FAULT_RESOLVE. -/
def execFaultResolve (fn queue : Nat) (s : State) : Out := .next (nextFree (takeUp resolveKind s fn queue))

/-- The elements of a payload of 8-byte addresses. -/
def words64 (n v : Nat) : List Nat := (span 0 n).map (fun i => bitsAt v (64 * i) 64)

/-- Code swap (12 R386): once every write is visible on every die, so that later fetches see the new code (04 R144; log 7), pages
retire at epoch E, CEPOCH becomes E + 1, and the instruction caches forget what they hold. Where a loader keeps its launch-record
templates the manual does not say (log 65). -/
def swapAct (s : State) (r : Req) (v : Nat) : Answer :=
  match liveContext s r.cid with
  | none => .status 2
  | some c =>
    if !s.vis.isEmpty then .wait
    else
    let pages := (words64 r.arg v).map (· / 32768)
    let c : Context :=
      { c with cepoch := (c.cepoch + 1) % 2 ^ 32, retiring := c.retiring ++ [(c.cepoch, pages, r.fn, r.queue)], stale := [] }
    .later (writeEpoch { s with contexts := mset s.contexts r.cid c } c)

/-- CODE_SWAP: a list of page addresses of 8 bytes, as many as ARG says. -/
def swapKind : Kind :=
  { mine := fun r => r.opc == 0x07, pf0 := false, names := fun r _ => [r.cid],
    load := fun s r => (readPay s r r.pay (8 * r.arg) 1).check (fun v => (words64 r.arg v).all (fun a => a % 32768 == 0 && decide (a < 2 ^ 56))),
    act := swapAct }

/-- CODE_SWAP. -/
def execCodeSwap (fn queue : Nat) (s : State) : Out := .next (nextFree (takeUp swapKind s fn queue))

/-- Decay table reload (12 R366, 03 R138). -/
def reloadKind : Kind :=
  { mine := fun r => r.opc == 0x08, pf0 := false, names := fun r _ => [r.cid], load := noPay,
    act := fun s r _ => if (liveContext s r.cid).isNone then .status 2 else .complete 1 (loadGammas s r.cid) }

/-- DECAY_TABLE_RELOAD. -/
def execDecayTableReload (fn queue : Nat) (s : State) : Out := .next (nextFree (takeUp reloadKind s fn queue))

/-- The range that a descriptor describes (14 R429). -/
def rangeOf (v : Nat) (version : Nat) : VRange :=
  let nb := bitsAt v 231 3
  { back := (span 0 4).map (fun b => bitsAt v (256 + 64 * b) 64), npages := bitsAt v 236 20, cls := bitsAt v 234 2, nb := nb,
    owner := bitsAt v 208 16, readers := bitsAt v 200 8, cur := 0, stg := none,
    held := [version] :: List.replicate (nb - 1) [], copied := [], dead := false }

/-- Two stretches of memory share a byte. -/
def stretchesMeet (a b : Nat × Nat) : Bool := decide (a.1 < b.1 + b.2) && decide (b.1 < a.1 + a.2)

/-- The backings of a range as stretches. -/
def VRange.stretches (r : VRange) : List (Nat × Nat) := (r.back.take r.nb).map (fun b => (b, r.span))

/-- No element of a list meets a later one. -/
def apart : List (Nat × Nat) → Bool
  | [] => true
  | x :: l => !l.any (stretchesMeet x) && apart l

/-- The conditions of 14 R430. -/
def rangeOk (s : State) (vrn v : Nat) (r : VRange) : Bool :=
  let part := partOf s r.owner
  bitsAt v 224 7 == 0 && bitsAt v 192 8 == 0 && bitsAt v 128 16 == 0 && decide (vrn < 1024) && (mget s.ranges vrn).isNone &&
    decide (2 ≤ r.nb) && decide (r.nb ≤ 4) && decide (r.cls ≤ 2) && (r.back.take r.nb).all (fun b => b % 32768 == 0) &&
    (r.back.drop r.nb).all (· == 0) && (liveContext s r.owner).isSome &&
    decide ((s.ranges.filter (fun e => e.2.owner == r.owner && !e.2.leaving)).length < 64) &&
    r.stretches.all (fun x => ((mget s.parts part).map (fun p => inRegions p.regions x.1 x.2)).getD false) &&
    apart r.stretches && s.ranges.all (fun e => !e.2.stretches.any (fun x => r.stretches.any (stretchesMeet x)))

/-- Range create (14 R430, 04 R167). -/
def rangeCreateAct (s : State) (r : Req) (v : Nat) : Answer :=
  let owner := bitsAt v 208 16
  let version := (mget s.groups owner).getD 1
  let x := rangeOf v version
  if !rangeOk s r.arg v x then .status 2
  else .complete 1 { s with ranges := mset s.ranges r.arg x, groups := mset s.groups owner version }

/-- RANGE_CREATE. -/
def rangeCreateKind : Kind :=
  { mine := fun r => r.opc == 0x09 && !tst r.arg 63, pf0 := false, names := fun _ v => [bitsAt v 208 16],
    load := fun s r => readPay s r r.pay 64 1, act := rangeCreateAct }

/-- RANGE_CREATE. -/
def execRangeCreate (fn queue : Nat) (s : State) : Out := .next (nextFree (takeUp rangeCreateKind s fn queue))

/-- A record of a command as it stands now, if it can be read and used. -/
def recordNow (s : State) (ring : Nat) (c : Cmd) (a : Nat) : Option TRec :=
  match readRecord s ring c a 64 with
  | .ok v => let r := tensorRec v; if goodRecord s c r == 0 then some r else none
  | .error _ => none

/-- Addresses of global memory that a command which has not begun will write, by its records as they stand now; none where they
cannot be read or used. -/
def plannedDst (s : State) (ring : Nat) (c : Cmd) : Option (List Nat) :=
  let view (a : Nat) : Option (List Nat) := (recordNow s ring c a).map recordAddrs
  if c.matrix then (if c.minor == 6 then view c.x.toNat else some [])
  else if c.minor == 2 then
    match recordNow s ring c c.y.toNat, recordNow s ring c c.z.toNat with
    | some t, some i =>
      match readIndex s ring c i with
      | .error _ => none
      | .ok idx => if t.space != 0 then some [] else some ((scatterWork t t (idx.filter (fun n => decide (n < t.vrows)))).map (·.dst.addr))
    | _, _ => none
  else if c.minor ≤ 3 then view c.y.toNat
  else if c.minor == 7 then
    match readRecord s ring c c.x.toNat 64 with
    | .ok blk => view (bitsAt blk 448 64)
    | .error _ => none
  else view c.x.toNat

/-- An incomplete command writes the range: by its work, or, before it begins, by its records as they stand; one whose records cannot
be read yet counts (14 R431; log 33). -/
def writesRange (s : State) (vrn ring : Nat) (c : Cmd) : Bool :=
  let maps (g : Nat) : Bool := match leafOf s ring c true (g * 32768) with
    | none => false
    | some p => p.map == 2 && p.vrn == vrn
  if c.begun then c.err == 0 && (c.pages.any (fun p => p.1 == vrn) || (writesTo s c).any maps)
  else match plannedDst s ring c with
    | none => true
    | some l => (pagesOf l).any maps

/-- Commands of a context that are not complete, each with its ring. -/
def commandsOf (s : State) (cid : Nat) : List (Nat × Cmd) :=
  ((mget s.contexts cid).map (fun x => x.consists.flatMap (fun q => q.2.cmds.map (fun c => (q.1, c))))).getD [] ++
    s.cores.flatMap (fun e => (e.2.storeQ.filter (fun c => c.cid == cid)).map (fun c => (64 + e.1, c)))

/-- Some wave pins a version that a backing of the range holds. -/
def rangePinned (s : State) (r : VRange) : Bool :=
  let pins := pinnedBy s r.owner
  r.held.any (fun l => l.any pins.contains)

/-- A TLB entry that maps a page of the range. -/
def TlbEnt.inRange (vrn : Nat) (x : TlbEnt) : Bool := bitsAt x.leaf 60 2 == 2 && bitsAt x.leaf 9 10 == vrn

/-- Accesses translated through leaves of a range are on their way (14 R415, R431). -/
def rangeInUse (s : State) (vrn : Nat) : Bool :=
  s.waves.any fun e => e.2.accs.any fun a => !a.performed && a.lanes.any (fun l => match l.place with
    | .versioned v _ _ _ => v == vrn
    | _ => false)

/-- Range destroy (14 R431): the range leaves its group at once, and no leaf reaches it any more; the request is complete when the
accesses that went through one are performed. -/
def rangeDestroyAct (s : State) (r : Req) (_ : Nat) : Answer :=
  let vrn := r.arg % 2 ^ 10
  match mget s.ranges vrn with
  | none => .status 2
  | some x =>
    if x.leaving then .status 2
    else if r.fn != 0 && !mayName s r x.owner then .status 4
    else if rangePinned s x || (commandsOf s x.owner).any (fun e => writesRange s vrn e.1 e.2) then .status 3
    else
      let inUse := rangeInUse s vrn
      let s := dropTlb s (TlbEnt.inRange vrn)
      let others := mdel s.ranges vrn
      let s : State :=
        { s with groups := if others.any (fun e => e.2.owner == x.owner && !e.2.leaving) then s.groups else mdel s.groups x.owner }
      if inUse then .later { s with ranges := mset s.ranges vrn { x with dead := true, leaving := true } }
      else .complete 1 { s with ranges := others }

/-- The accesses are performed. -/
def destroyOver (s : State) (r : Req) : Bool := !rangeInUse s (r.arg % 2 ^ 10)

/-- RANGE_DESTROY begins, or completes: then the range is gone. -/
def goOnDestroy (k : Kind) (s : State) (fn queue : Nat) : State :=
  match (headReq s fn queue).bind (fun p => p.1.cur) with
  | none => takeUp k s fn queue
  | some v =>
    let r := reqOf fn queue v
    if k.mine r && destroyOver s r then finishRequest { s with ranges := mdel s.ranges (r.arg % 2 ^ 10) } fn queue 1 else s

/-- RANGE_DESTROY: ARG names a range and has no other bit than bit 63. -/
def rangeDestroyKind : Kind :=
  { mine := fun r => r.opc == 0x09 && tst r.arg 63, pf0 := false, names := fun _ _ => [],
    load := fun _ r => if bitsAt r.arg 10 53 == 0 then .ok 0 else .bad, act := rangeDestroyAct }

/-- RANGE_DESTROY. -/
def execRangeDestroy (fn queue : Nat) (s : State) : Out := .next (nextFree (goOnDestroy rangeDestroyKind s fn queue))

/-- A list of members (14 R433, 15 R445): a 32-bit count, then MCID and DEVN of each. -/
def membersOf (v : Nat) : List (Nat × Nat) :=
  (span 0 (bitsAt v 0 32)).map (fun i => (bitsAt v (32 + 32 * i + 16) 16, bitsAt v (32 + 32 * i) 16))

/-- Read such a list of 2 to 64 members. -/
def readMembers (s : State) (r : Req) : Pay :=
  match (readPay s r r.pay 4 1).check (fun v => decide (2 ≤ v) && decide (v ≤ 64)) with
  | .ok n => readPay s r r.pay (4 + 4 * n) 1
  | p => p

/-- Shard set (14 R433): the device itself is a member. -/
def shardAct (s : State) (r : Req) (v : Nat) : Answer :=
  let part := reqPart s r
  let ms := membersOf v
  if (mget s.parts part).isNone || !ms.any (fun m => m.2 == s.trunk.devn) then .status 2
  else .complete 1 { s with parts := mmod s.parts part (fun p => { p with shards := mset p.shards r.arg ms }) }

/-- SHARD_SET. -/
def shardKind : Kind :=
  { mine := fun r => r.opc == 0x0A, pf0 := false, names := fun r _ => [r.cid],
    load := fun s r => if decide (64 ≤ r.arg) then .bad else readMembers s r, act := shardAct }

/-- SHARD_SET. -/
def execShardSet (fn queue : Nat) (s : State) : Out := .next (nextFree (takeUp shardKind s fn queue))

/-- Collective group (15 R445): no pair stands twice. -/
def groupAct (s : State) (r : Req) (v : Nat) : Answer :=
  let part := reqPart s r
  let ms := membersOf v
  if (mget s.parts part).isNone || decide (ms.eraseDups.length ≠ ms.length) then .status 2
  else .complete 1 { s with parts := mmod s.parts part (fun p => { p with colls := mset p.colls r.arg ms }) }

/-- COLLECTIVE_GROUP. -/
def groupKind : Kind :=
  { mine := fun r => r.opc == 0x0B, pf0 := false, names := fun r _ => [r.cid],
    load := fun s r => if decide (2 ^ 16 ≤ r.arg) then .bad else readMembers s r, act := groupAct }

/-- COLLECTIVE_GROUP. -/
def execCollectiveGroup (fn queue : Nat) (s : State) : Out := .next (nextFree (takeUp groupKind s fn queue))

end Sys2Proof.Machine
end

