-- ==== Sys2Proof/Machine/DeviceRequests.lean ====
section
/-! DEFINITION. Requests about the device: partitions (14 R425, R428), self-test (15 R449), Trunk (R446), attestation
(R457-R459), power (R463), the error record (R452) and predictive thresholds (R453). -/

namespace Sys2Proof.Machine

/-- The partition that a descriptor describes (14 R425); what the device keeps for it stays. -/
def partitionOf (v : Nat) (old : Option Partition) : Partition :=
  { descr := v, cores := bitsAt v 1856 192,
    regions := ((span 0 8).map (fun i => (bitsAt v (1344 + 64 * i) 32, bitsAt v (1376 + 64 * i) 32))).filter (fun r => r.2 != 0),
    hostwin := (span 0 4).map (fun i => (bitsAt v (896 + 128 * i) 64, bitsAt v (832 + 128 * i) 64)),
    fring := bitsAt v 768 64, flog := bitsAt v 760 8, prioceil := bitsAt v 755 5, engs := bitsAt v 748 7,
    seqNext := (old.map (·.seqNext)).getD 0, recs := (old.map (·.recs)).getD [], heldFaults := (old.map (·.heldFaults)).getD [],
    shards := (old.map (·.shards)).getD [], colls := (old.map (·.colls)).getD [] }

/-- A region as a stretch of bytes. -/
def regionBytes (r : Nat × Nat) : Nat × Nat := (r.1 * 2 ^ 30, r.2 * 2 ^ 30)

/-- Fields of a partition descriptor in range (14 R425). -/
def partFields (v : Nat) : Bool :=
  let p := partitionOf v none
  bitsAt v 0 748 == 0 && decide (4 ≤ p.flog) && decide (p.flog ≤ 16) && p.fring % 64 == 0 &&
    inRegions p.regions p.fring (64 * 2 ^ p.flog) && p.hostwin.all (fun w => w.1 % 32768 == 0 && w.2 % 32768 == 0)

/-- A core belongs to one partition, and regions of different partitions do not overlap (14 R425). -/
def partApart (s : State) (n : Nat) (p : Partition) : Bool :=
  s.parts.all fun e => e.1 == n ||
    (e.2.cores &&& p.cores == 0 &&
      !e.2.regions.any (fun a => p.regions.any (fun b => stretchesMeet (regionBytes a) (regionBytes b))))

/-- Cores that leave a partition or come to it. -/
def movedCores (p : Partition) (old : Option Partition) : List Nat :=
  (span 0 192).filter (fun c => tst p.cores c != ((old.map (fun o => tst o.cores c)).getD false))

/-- A core is wiped (14 R428, 15 R449). -/
def wipeCore (s : State) (c : Nat) : State := { s with cores := mdel s.cores c }

/-- A stretch of device memory is written back, dropped and wiped: its poison goes with it (14 R423, R428). -/
def wipeStretch (s : State) (r : Nat × Nat) : State :=
  let inside (g : Nat) : Bool := decide (r.1 ≤ g * 32) && decide (g * 32 < r.1 + r.2)
  { s with
    mem := clearRange r.1 r.2 s.mem, poison := s.poison.filter (fun g => !inside g), latent := s.latent.filter (fun g => !inside g),
    tags := s.tags.filter (fun e => !inside (e.1 * (Config.lineGranules + 1))),
    vis := s.vis.map (fun v => { v with bytes := clearRange r.1 r.2 v.bytes }) }

/-- What of a partition's old regions is no longer in one of its new regions is wiped, GiB by GiB. -/
def leftGiBs (p : Partition) (old : Option Partition) : List Nat :=
  let have_ (q : Partition) : List Nat := q.regions.flatMap (fun r => span r.1 (min r.2 512))
  (((old.map have_).getD []).filter (fun g => !(have_ p).contains g)).eraseDups

/-- Partition (14 R425, R428): a core moves only when it holds no wave. -/
def partitionAct (s : State) (r : Req) (v : Nat) : Answer :=
  let old := mget s.parts r.arg
  let p := partitionOf v old
  let moved := movedCores p old
  if !partApart s r.arg p || moved.any (fun c => s.waves.any (fun e => e.2.core == c) || s.units.any (fun e => e.2.placed && e.2.core == c)) then .status 2
  else
    let s := moved.foldl wipeCore s
    let s := (leftGiBs p old).foldl (fun s g => wipeStretch s (g * 2 ^ 30, 2 ^ 30)) s
    .complete 1 { s with parts := mset s.parts r.arg p }

/-- PARTITION. -/
def partitionKind : Kind :=
  { mine := fun r => r.opc == 0x10, pf0 := true, names := fun _ _ => [],
    load := fun s r => if decide (8 ≤ r.arg) then .bad else (readPay s r r.pay 256 1).check partFields, act := partitionAct }

/-- PARTITION. -/
def execPartition (fn queue : Nat) (s : State) : Out := .next (nextFree (takeUp partitionKind s fn queue))

/-- A unit that self-test takes: a core, a part of a matrix unit, or a last-level cache slice (15 R449, R450). -/
def testable (u : Nat) : Bool :=
  let kind := u / 2 ^ 28
  decide (bitsAt u 24 4 < 4) &&
    (if kind == 1 then decide (bitsAt u 16 8 < 48) && (decide (bitsAt u 0 16 < 4) || bitsAt u 0 16 == 0xFFFF)
     else if kind == 2 then decide (bitsAt u 16 8 < 48) && decide (bitsAt u 0 16 < 3)
     else kind == 3 && bitsAt u 0 16 == 0)

/-- The identifiers of a unit list (log 34): a 32-bit count, then as many identifiers. -/
def unitList (v : Nat) : List Nat := (span 0 (bitsAt v 0 32)).map (fun i => bitsAt v (32 + 32 * i) 32)

/-- Self-test (15 R449): one at a time; it waits until the cores hold no wave. -/
def selfTestKind : Kind :=
  { mine := fun r => r.opc == 0x11, pf0 := true, names := fun _ _ => [],
    load := fun s r =>
      match (readPay s r r.arg 4 1).check (fun n => decide (1 ≤ n) && decide (n ≤ 64)) with
      | .ok n => (readPay s r r.arg (4 + 4 * n) 1).check (fun v => (unitList v).all testable)
      | p => p,
    act := fun s r v => .later { s with selfTest := some ⟨unitList v, r.fn, r.queue⟩ } }

/-- SELF_TEST: a second request waits for the first. -/
def execSelfTest (fn queue : Nat) (s : State) : Out :=
  .next (nextFree (if s.selfTest.isSome then s else takeUp selfTestKind s fn queue))

/-- The core of a unit of kind 1 or 2. -/
def coreOfUnit (u : Nat) : Option Nat := if u / 2 ^ 28 == 1 || u / 2 ^ 28 == 2 then some (48 * bitsAt u 24 4 + bitsAt u 16 8) else none

/-- A line is served by a slice of the last-level cache; by none that is fenced (15 R449). -/
def servedBy (s : State) (u line : Nat) : Bool := !s.mgmt.fenced.contains u && Config.sliceOf s.mgmt.fenced line == u

/-- The dirty lines of a slice are written back, and the slice is dropped (15 R449): what cannot be corrected there is found (14 R424). -/
def dropSlice (s : State) (u : Nat) : State := ((s.tags.map (·.1)).filter (servedBy s u)).foldl (fun s l => evictLine s [] l) s

/-- A tested unit is wiped, a slice written back first; a failing one is fenced and logged (15 R449). -/
def testUnit (s : State) (u : Nat) (ok : Bool) : State :=
  let s := match coreOfUnit u with
    | none => if u / 2 ^ 28 == 3 then dropSlice s u else s
    | some c =>
      if u / 2 ^ 28 == 1 then wipeCore s c
      else
        let part := bitsAt u 0 16
        modC s c (fun x => { x with mat :=
          if part == 0 then { x.mat with acc := [], i32 := false, tsA := 0x3F800000#32, tsB := 0x3F800000#32 }
          else if part == 1 then { x.mat with turn := [] }
          else { x.mat with gantry := [] } })
  if ok then s
  else devError { s with mgmt := { s.mgmt with fenced := if s.mgmt.fenced.contains u then s.mgmt.fenced else u :: s.mgmt.fenced } } 5 u 0xFFFF 0xFF 0

/-- SELF_TEST_DONE (15 R449): bit i of `pass` says that unit i of the list passed. INFO of an event for several units is not
stated (log 4). -/
def selfTestDone (s : State) (pass : Nat) : State :=
  match s.selfTest with
  | none => s
  | some t =>
    let held (u : Nat) : Bool := match coreOfUnit u with
      | none => false
      | some c => s.waves.any (fun e => e.2.core == c) || s.units.any (fun e => e.2.placed && e.2.core == c)
    if t.units.any held then s
    else
      let s := (enumFrom 0 t.units).foldl (fun s e => testUnit s e.2 (tst pass e.1)) { s with selfTest := none }
      let s := finishRequest s t.fn t.queue 1
      event s t.fn 6 uSignalbox (match t.units with
        | [u] => u
        | _ => (freeVal s 9750).toNat)

/-- SELF_TEST_DONE. -/
def execSelfTestDone (pass : Nat) (s : State) : Out := .next (nextFree (selfTestDone s pass))

/-- Route entries of a Trunk-configure payload (15 R446). -/
def routesOf (v : Nat) : List Nat := (span 0 (bitsAt v 16 12)).map (fun i => bitsAt v (128 + 64 * i) 64)

/-- The reasons for which R446 refuses. -/
def routesOk (v : Nat) : Bool :=
  let rs := routesOf v
  let links := bitsAt v 28 18
  bitsAt v 46 82 == 0 && rs.all (fun e => bitsAt e 50 14 == 0 && bitsAt e 29 3 == 0) &&
    rs.all (fun e => bitsAt e 32 18 &&& links == bitsAt e 32 18 && tst (bitsAt e 32 18) (bitsAt e 24 5) && bitsAt e 0 16 != bitsAt v 0 16) &&
    (rs.map (fun e => bitsAt e 0 16)).eraseDups.length == rs.length

/-- Trunk configure (15 R442, R446). -/
def trunkAct (s : State) (_ : Req) (v : Nat) : Answer :=
  let busy := s.units.any (fun e => e.2.placed && ((mget s.launches e.2.launch).map (fun l => decide (2 ≤ l.ndev))).getD false)
  if busy || !routesOk v then .status 2
  else .complete 1 { s with trunk := { s.trunk with devn := bitsAt v 0 16, links := bitsAt v 28 18, routes := routesOf v, down := [] } }

/-- TRUNK_CONFIGURE. -/
def trunkKind : Kind :=
  { mine := fun r => r.opc == 0x12, pf0 := true, names := fun _ _ => [],
    load := fun s r =>
      match (readPay s r r.pay 16 1).check (fun v => bitsAt v 16 12 != 0) with
      | .ok h => (readPay s r r.pay (16 + 8 * bitsAt h 16 12) 1).check (fun v => (routesOf v).all (fun e => bitsAt e 16 8 != 0))
      | p => p,
    act := trunkAct }

/-- TRUNK_CONFIGURE. -/
def execTrunkConfigure (fn queue : Nat) (s : State) : Out := .next (nextFree (takeUp trunkKind s fn queue))

/-- Firmware images in the order of R456: Signalbox, pile logic dies, link controllers. -/
def imageDigests : List Byte := (span 0 3).flatMap (fun i => bytesOf 64 (Config.firmwareDigest i).toNat)

/-- The digest of the requesting partition's descriptor; a function without one has no digest stated (log 4). -/
def descrDigest (s : State) (fn : Nat) : List Byte :=
  match (if fn == 0 then none else mget s.parts (fn - 1)) with
  | some p => bytesOf 64 (Config.shake256 (bytesOf 256 p.descr)).toNat
  | none => (span 0 8).flatMap (fun i => bytesOf 8 (freeVal s (9740 + i)).toNat)

/-- An attestation report before its signature (15 R458). -/
def reportBody (s : State) (fn nonce : Nat) : List Byte :=
  bytesOf 64 nonce ++ imageDigests ++ bytesOf 1 s.mgmt.lcs ++ Config.secVersions ++ descrDigest s fn

/-- The signature index that the next report uses: blocks are fused from the first on (15 R457). -/
def nextIndex (m : Mgmt) : Nat := (16384 - m.blocksLeft) * 64 - m.indices

/-- Attest (15 R457-R459). -/
def attestAct (s : State) (r : Req) (v : Nat) : Answer :=
  if s.mgmt.indices == 0 then .status 2
  else
    let body := reportBody s r.fn v
    let report := body ++ (Config.xmssSign (nextIndex s.mgmt) body).toList
    if !fnReach s r.fn r.arg report.length then .viol r.arg
    else
      .complete 1 (sysWrite { s with mgmt := { s.mgmt with indices := s.mgmt.indices - 1 } } r.arg report)

/-- An entry of a queue, so many after its head, is an attest request. -/
def attestAt (s : State) (fn : Nat) (q : Queue) (i : Nat) : Bool :=
  let a := q.qbase + 64 * ((q.head + i) % 2 ^ q.qlog)
  fnReach s fn a 64 && ((sysRead s a 64).map (fun bs => bitsAt (ofBytes bs) 264 8 == 0x13)).getD false

/-- An attest request that came before this one waits in a queue that is served (15 R459). -/
def attestBefore (s : State) (r : Req) : Bool :=
  let mine := ((headReq s r.fn r.queue).bind (fun h => h.1.came.head?)).getD 0
  s.funcs.any fun f => (enumFrom 0 f.2.queues).any fun q =>
    (headReq s f.1 q.1).isSome && (enumFrom 0 q.2.came).any (fun e => decide (e.2 < mine) && attestAt s f.1 q.2 e.1)

/-- ATTEST: one after another in the order in which the requests came, across all queues (15 R459). -/
def attestKind : Kind :=
  { mine := fun r => r.opc == 0x13, pf0 := false, names := fun _ _ => [], load := fun s r => readPay s r r.pay 64 1,
    act := fun s r v => if attestBefore s r then .wait else attestAct s r v }

/-- ATTEST. -/
def execAttest (fn queue : Nat) (s : State) : Out := .next (nextFree (takeUp attestKind s fn queue))

/-- Power limit (15 R463): 600 to 2,400 W in steps of 25 W. -/
def powerKind : Kind :=
  { mine := fun r => r.opc == 0x14, pf0 := true, names := fun _ _ => [],
    load := fun _ r => if decide (600 ≤ r.arg) && decide (r.arg ≤ 2400) && r.arg % 25 == 0 then .ok 0 else .bad,
    act := fun s r _ => .complete 1 { s with mgmt := { s.mgmt with plim := r.arg } } }

/-- POWER_LIMIT. -/
def execPowerLimit (fn queue : Nat) (s : State) : Out := .next (nextFree (takeUp powerKind s fn queue))

/-- The record set by the error-record request is admitted (15 R452). -/
def errorRecordOk (s : State) (v : Nat) : Bool :=
  let base := bitsAt v 64 64
  let elog := bitsAt v 0 8
  let size := 64 + 64 * 2 ^ elog
  bitsAt v 8 56 == 0 && base % 64 == 0 &&
    (elog == 0 || (decide (6 ≤ elog) && decide (elog ≤ 16) && decide (base + size ≤ memSize) &&
      s.parts.all (fun p => !p.2.regions.any (fun r => stretchesMeet (base, size) (regionBytes r)))))

/-- The error record is set: it holds no entry yet (15 R452; log 69). -/
def setErrorRecord (s : State) (v : Nat) : State :=
  let s : State := { s with mgmt := { s.mgmt with ebase := bitsAt v 64 64, elog := bitsAt v 0 8, ewritten := 0 } }
  if bitsAt v 0 8 == 0 then s else writeHome s (bitsAt v 64 64) (numBytes 8 0)

/-- ERROR_RECORD (15 R452). -/
def errorRecordKind : Kind :=
  { mine := fun r => r.opc == 0x15, pf0 := true, names := fun _ _ => [], load := fun s r => readPay s r r.pay 16 1,
    act := fun s _ v =>
      if errorRecordOk s v then .complete 1 (setErrorRecord s v) else .status 2 }

/-- ERROR_RECORD. -/
def execErrorRecord (fn queue : Nat) (s : State) : Out := .next (nextFree (takeUp errorRecordKind s fn queue))

/-- A threshold for which 0 stands for 65,536. -/
def wideThreshold (n : Nat) : Nat := if n == 0 then 65536 else n

/-- The thresholds of a payload (15 R453), in the order of `defaultThresholds`. -/
def thresholdsOf (v : Nat) : List Nat :=
  [wideThreshold (bitsAt v 16 16), bitsAt v 0 8, wideThreshold (bitsAt v 32 16), bitsAt v 8 8, wideThreshold (bitsAt v 48 16)]

/-- PREDICTIVE_THRESHOLDS (15 R453): in force from the next window of each counter. -/
def thresholdsKind : Kind :=
  { mine := fun r => r.opc == 0x16, pf0 := true, names := fun _ _ => [], load := fun s r => readPay s r r.pay 16 1,
    act := fun s _ v =>
      if bitsAt v 64 64 == 0 && decide (1 ≤ bitsAt v 8 8) && decide (1 ≤ bitsAt v 0 8) && decide (bitsAt v 0 8 ≤ 16) then
        .complete 1 { s with mgmt := { s.mgmt with thresholds := (thresholdsOf v, []) :: s.mgmt.thresholds } }
      else .status 2 }

/-- PREDICTIVE_THRESHOLDS. -/
def execPredictiveThresholds (fn queue : Nat) (s : State) : Out := .next (nextFree (takeUp thresholdsKind s fn queue))

end Sys2Proof.Machine
end

