-- ==== Sys2Proof/Machine/DeviceEvents.lean ====
section
/-! DEFINITION. Steps of Trunk, the exchange tick, resets, the management port, power, and the host's atomics (15 R436,
R442-R444, R448, R454-R463). -/

namespace Sys2Proof.Machine

/-- CLASS of an error entry for which the manual names none; it is not the fatal one (log 4). -/
def freeClass (s : State) : Nat := 1 + (freeVal s 9760).toNat % 6

/-- A participant of a collective on another device: partition, group, CSEQ, rank and descriptor, then its elements. -/
def farJoin (s : State) (part group cseq rank head : Nat) (data : List Nat) : State :=
  match (groupMembers s part group)[rank]? with
  | none => s
  | some m =>
    if m.2 == s.trunk.devn || s.colls.any (fun x => x.part == part && x.group == group && x.cseq == cseq && x.rank == rank) then s
    else { s with colls := s.colls ++ [⟨part, group, cseq, rank, head, 0, 63, data, s.tickCount⟩] }

/-- The unit of a launch stands on another device of its set. -/
def farUnit (l : Launch) (ord : Nat) : Bool := decide (ord < tierUnits l l.lvl) && !onDevice l ord

/-- The digest of a unit on another device (13 R406). -/
def farDigest (s : State) (launch ord digest : Nat) : State :=
  modL s launch (fun l => if farUnit l ord && l.digm != 0 then { l with digests := mset l.digests ord (BitVec.ofNat 64 digest) } else l)

/-- A participant on another device arrives at a tree barrier (01 R38). -/
def farArrive (s : State) (launch plat unit gtid : Nat) : State :=
  modL s launch fun l =>
    match platTier l plat with
    | none => l
    | some tier =>
      if !farUnit l (gtid / lget 64 l.ext 0) || gtid / tierThreads l tier != unit then l
      else
        let b := (mget l.trees (plat + 8 * unit)).getD ⟨0, [], 0, []⟩
        { l with trees := mset l.trees (plat + 8 * unit) { b with arrived := mset b.arrived gtid (zget 0 b.arrived gtid + 1), since := s.cycle } }

/-- A participant on another device exits (01 R38). -/
def farExit (s : State) (launch gtid : Nat) : State :=
  modL s launch fun l =>
    if !farUnit l (gtid / lget 64 l.ext 0) || l.farGone.contains gtid then l
    else { l with farGone := gtid :: l.farGone, trees := l.trees.map (fun e => (e.1, { e.2 with since := s.cycle })) }

/-- A message that a flow delivers; its first word says what it is (log 13): 0 a participant of a collective, 1 a unit digest, 2 an
arrival at a tree barrier, 3 an exit, 4 a sharded access and 5 the answer to one, which wait their turn in the inbox. -/
def deliver (s : State) (flow : Nat) (body : List Nat) : State :=
  match body with
  | 0 :: part :: group :: cseq :: rank :: head :: data => farJoin s part group cseq rank head data
  | [1, launch, ord, digest] => farDigest s launch ord digest
  | [2, launch, plat, unit, gtid] => farArrive s launch plat unit gtid
  | [3, launch, gtid] => farExit s launch gtid
  | [4, _, _, _, _, _, _] => { s with trunk := { s.trunk with inbox := s.trunk.inbox ++ [(flow, body)] } }
  | [5, _, _, _, _, _] => { s with trunk := { s.trunk with inbox := s.trunk.inbox ++ [(flow, body)] } }
  | _ => s

/-- Messages that waited for an earlier one of their flow are delivered in order (15 R443). -/
def drainFlow (flow : Nat) : Nat → State → State
  | 0, s => s
  | n + 1, s =>
    let next := zget 0 s.trunk.flows flow
    match s.trunk.held.find? (fun h => h.1 == flow && h.2.1 == next) with
    | none => s
    | some h =>
      drainFlow flow n (deliver
        { s with trunk := { s.trunk with
          held := s.trunk.held.filter (fun x => !(x.1 == flow && x.2.1 == next)), flows := zset 0 s.trunk.flows flow (next + 1) } } flow h.2.2)

/-- A flit that passes its CRC: what comes before its turn in its flow is held (15 R443). -/
def takeFlit (s : State) (flow seq : Nat) (body : List Nat) : State :=
  if seq < zget 0 s.trunk.flows flow || s.trunk.held.any (fun h => h.1 == flow && h.2.1 == seq) then s
  else
    let held := s.trunk.held ++ [(flow, seq, body)]
    drainFlow flow held.length { s with trunk := { s.trunk with held := held } }

/-- TRUNK_FLIT_RECEIVE (15 R442, R448): a flit that fails its CRC is retried and counted. -/
def flitReceive (s : State) (link flow seq : Nat) (ok : Bool) (body : List Nat) : State :=
  if !linkUp s link || decide (65 ≤ zget 0 s.trunk.retries link) then s
  else if ok then takeFlit { s with trunk := { s.trunk with retries := zset 0 s.trunk.retries link 0 } } flow seq body
  else
    countEvents { s with trunk := { s.trunk with retries := zset 0 s.trunk.retries link (zget 0 s.trunk.retries link + 1) } } (uLink link) 1

/-- TRUNK_FLIT_RECEIVE. -/
def execTrunkFlitReceive (link flow seq : Nat) (crcOk : Bool) (body : List Nat) (s : State) : Out :=
  .next (nextFree (flitReceive s link flow seq crcOk body))

/-- LINK_DOWN (15 R442): a flit has failed, and 64 retries of it. -/
def linkFail (s : State) (link : Nat) : State :=
  if !linkUp s link || decide (zget 0 s.trunk.retries link < 65) then s
  else
    devError { s with trunk := { s.trunk with down := link :: s.trunk.down, retries := zset 0 s.trunk.retries link 0 } } (freeClass s) (uLink link)
      0xFFFF 0xFF 0

/-- LINK_DOWN. -/
def execLinkDown (link : Nat) (s : State) : Out := .next (nextFree (linkFail s link))

/-- LINK_RETRAIN (15 R448): each retrain is a window of the lane-margin counter of a Trunk link or the host link. -/
def retrain (s : State) (unit n : Nat) : State :=
  if (unit / 2 ^ 28 == 6 || unit / 2 ^ 28 == 7) && decide (unit < 2 ^ 32) then
    let key := 2 ^ 32 + unit
    let t := lget 1 ((s.mgmt.thresholds.head?.map (·.1)).getD defaultThresholds) 1
    let s : State := { s with mgmt := { s.mgmt with counters := zset 0 s.mgmt.counters key n } }
    if decide (t ≤ n) then
      let s : State := { s with mgmt := { s.mgmt with crossings := zset 0 s.mgmt.crossings key (zget 0 s.mgmt.crossings key + 1) } }
      devError (event s 0 5 unit unit) 2 unit 0xFFFF 0xFF 0
    else s
  else s

/-- LINK_RETRAIN: `below` lanes have a margin below the limit. -/
def execLinkRetrain (unit below : Nat) (s : State) : Out := .next (nextFree (retrain s unit below))

/-- EXCHANGE_TICK (15 R444). -/
def execExchangeTick (s : State) : Out := .next (nextFree { s with tickCount := s.tickCount + 1, tickGap := 0, tickLost := false })

/-- The exchange-tick input as a unit (15 R450). -/
def uTick : Nat := unitId 9 4 0 0

/-- TICK_LOSS (15 R444): no pulse for more than 2^30 cycles is logged once. -/
def tickLoss (s : State) : State :=
  if s.tickLost || decide (s.tickGap ≤ 2 ^ 30) then s
  else devError { s with tickLost := true } (freeClass s) uTick 0xFFFF 0xFF 0

/-- TICK_LOSS. -/
def execTickLoss (s : State) : Out := .next (nextFree (tickLoss s))

/-- Management registers after a reset: the port's own registers, fuses, fences and, but for a cold reset, indices and nonce
stay (15 R449, R452-R463; log 35). -/
def resetMgmt (m : Mgmt) (cold : Bool) (tries : Nat) : Mgmt :=
  let fuse := cold && m.blocksLeft != 0
  { m with
    ebase := 0, elog := 0, ecount := 0, ewritten := 0, newest := [], thresholds := [(defaultThresholds, [])], counters := [], crossings := [],
    fenced := if cold then [] else m.fenced, fatal := false, plim := 2400, clock := if m.therm then 1000 else 3000,
    pcsel := if cold then 0#32 else m.pcsel, errn := if cold then 0 else m.errn,
    blocksLeft := if fuse then m.blocksLeft - 1 else m.blocksLeft, indices := if cold then (if fuse then 64 else 0) else m.indices,
    hot := 0, cool := 0, sel := if cold then 0 else m.sel, lcnonce := if cold then Config.nonce tries else m.lcnonce, lcbuf := if cold then [] else m.lcbuf,
    lccmd := if m.lccmd == 1 then 1 else if cold then 0 else m.lccmd }

/-- Everything of the device is wiped (15 R454): what stays is outside it, or the model's own. -/
def wipeDevice (s : State) (m : Mgmt) : State :=
  { State.reset with
    hostMem := s.hostMem, mgmt := m, booting := true, cycle := s.cycle, nextId := s.nextId, freeCount := s.freeCount, agenda := s.agenda,
    funcs := State.reset.funcs.map (fun e => (e.1, { e.2 with wiping := true })) }

/-- The boot ROM takes a firmware image (15 R455, R456): its signature verifies, in DEPLOYED under the production key, and its security
version is not below the fused minimum. -/
def imageTaken (lcs attempt i : Nat) : Bool :=
  Config.imageSigned attempt i && (lcs != 2 || Config.imageProduction attempt i) &&
    decide (Config.fusedVersion i ≤ Config.imageVersion attempt i)

/-- The first of the three images that fails. -/
def bootFailure (lcs attempt : Nat) : Option Nat := (span 0 3).find? (fun i => !imageTaken lcs attempt i)

/-- Firmware is verified in a reset: BOOT reads verifying until the wipe is complete, or a failure, which holds the device in reset (15
R456, R461; log 68). -/
def verified (m : Mgmt) (failure : Option Nat) : Mgmt := { m with bootStat := if failure.isSome then 2 else 1, bootImage := failure.getD 0 }

/-- COLD_RESET (15 R454, R456, R457). Where the images that stand outside the device were damaged (`ok` false), which of them fails is
not stated (log 4). -/
def coldReset (s : State) (ok : Bool) : State :=
  let m := resetMgmt s.mgmt true s.freeCount
  wipeDevice s (verified m (if ok then bootFailure m.lcs s.freeCount else some ((freeVal s 9770).toNat % 3)))

/-- COLD_RESET. -/
def execColdReset (ok : Bool) (s : State) : Out := .next (nextFree (coldReset s ok))

/-- DEVICE_RESET (15 R454): a Function Level Reset of PF0; a device held in reset stays there. -/
def execDeviceReset (s : State) : Out :=
  .next (nextFree (if s.mgmt.bootStat == 2 then s else wipeDevice s (resetMgmt s.mgmt false s.freeCount)))

/-- Contexts of a partition. -/
def partContexts (s : State) (part : Nat) : List Nat := (s.contexts.filter (fun e => e.2.part == part)).map (·.1)

/-- The record of a launch that has ended is written before its partition is wiped (log 38). -/
def closeEnding (s : State) (n : Nat) : State :=
  match mget s.launches n with
  | none => s
  | some l =>
    match l.st with
    | .ending status dsub dig => closeLaunch s n status dsub dig
    | _ => s

/-- PARTITION_RESET (15 R454): the partition's contexts end, its cores and regions are wiped, its step is 0, its function
starts again. -/
def partitionReset (s : State) (part : Nat) : State :=
  match mget s.parts part with
  | none => { s with funcs := mmod s.funcs (part + 1) (fun _ => { Func.init with wiping := true }), gsteps := zset 0#64 s.gsteps part 0#64 }
  | some p =>
    let cs := partContexts s part
    let s := cs.foldl (fun s c => modX (endContext s c none) c (fun x =>
      { x with consists := x.consists.map (fun q => (q.1, { q.2 with cmds := [] })) })) s
    let s := ((s.launches.filter (fun e => e.2.part == part)).map (·.1)).foldl closeEnding s
    let gone (w : Wave) : Bool := tst p.cores w.core
    let s : State :=
      { s with
        waves := s.waves.filter (fun e => !gone e.2), binds := s.binds.filter (fun e => !tst p.cores e.2.core),
        units := s.units.map (fun e => if tst p.cores e.2.core && e.2.placed then (e.1, { e.2 with st := .done, share := [], bars := [] }) else e),
        gsteps := zset 0#64 s.gsteps part 0#64, parts := mset s.parts part { p with recs := [], heldFaults := [] },
        invals := s.invals.filter (fun v => v.fn != part + 1), colls := s.colls.filter (fun x => x.part != part),
        funcs := mmod s.funcs (part + 1) (fun _ => { Func.init with wiping := true }) }
    let s := ((span 0 192).filter (tst p.cores)).foldl wipeCore s
    p.regions.foldl (fun s r => wipeStretch s (regionBytes r)) s

/-- PARTITION_RESET. -/
def execPartitionReset (part : Nat) (s : State) : Out :=
  .next (nextFree (if decide (part < 8) && !s.booting then partitionReset s part else s))

/-- WIPE_COMPLETE (15 R454, R456, R462): the functions answer again; a device whose firmware failed stays in reset. -/
def wipeComplete (s : State) : State :=
  if s.mgmt.bootStat == 2 then s
  else
    { s with
      booting := false, funcs := s.funcs.map (fun e => (e.1, { e.2 with wiping := false })),
      mgmt := { s.mgmt with bootStat := 0, lccmd := if s.booting && s.mgmt.lccmd == 1 then 2 else s.mgmt.lccmd } }

/-- WIPE_COMPLETE. -/
def execWipeComplete (s : State) : Out := .next (nextFree (wipeComplete s))

/-- THERMAL_REQUEST (15 R463): the clock goes to 1.0 GHz at once. -/
def execThermalRequest (s : State) : Out := .next (nextFree { s with mgmt := { s.mgmt.select 0x07 with therm := true, clock := 1000 } })

/-- THERMAL_WITHDRAW (15 R461). -/
def execThermalWithdraw (s : State) : Out := .next (nextFree { s with mgmt := { s.mgmt.select 0x07 with therm := false } })

/-- The measured power of the cycle that passes, what it means for the limit, and the temperature (15 R461, R463; log 36). -/
def measured (s : State) : Mgmt :=
  let m := s.mgmt
  let p := min 2400 (Config.power s.cycle)
  { m with
    power := BitVec.ofNat 32 p, temp := (Config.temperature s.cycle).zeroExtend 32, hot := if m.plim < p then m.hot + 1 else 0,
    cool := if 100 * p < 95 * m.plim then m.cool + 1 else 0 }

/-- CLOCK_LOWER (15 R463): 100 MHz less, down to 1.0 GHz, once the power has stayed above the limit for 2^22 cycles. -/
def clockLower (s : State) : State :=
  let m := s.mgmt
  if decide (m.hot < 2 ^ 22) || decide (m.clock ≤ 1000) then s
  else { s with mgmt := { m with clock := max 1000 (m.clock - 100), hot := 0 } }

/-- CLOCK_LOWER. -/
def execClockLower (s : State) : Out := .next (nextFree (clockLower s))

/-- CLOCK_RAISE (15 R463; log 36): 100 MHz more, up to 3.0 GHz, after 2^26 cycles below 95 % of the limit, unless a thermal request is in
force. -/
def clockRaise (s : State) : State :=
  let m := s.mgmt
  if decide (m.cool < 2 ^ 26) || m.therm || decide (3000 ≤ m.clock) then s
  else { s with mgmt := { m with clock := min 3000 (m.clock + 100), cool := 0 } }

/-- CLOCK_RAISE. -/
def execClockRaise (s : State) : Out := .next (nextFree (clockRaise s))

/-- LCBUF_WRITE (15 R461, R462). -/
def execLcbufWrite (byte : Nat) (s : State) : Out :=
  .next (nextFree { s with mgmt := { s.mgmt.select 0x31 with lcbuf := s.mgmt.lcbuf ++ [BitVec.ofNat 8 byte] } })

/-- The checks of a life-cycle token (15 R462). -/
def tokenOk (m : Mgmt) : Bool :=
  let b := m.lcbuf
  b.length == 9764 && (lget 0#8 b 0).toNat == m.lcs + 1 && decide (m.lcs < 3) &&
    ofBytes ((b.drop 8).take 8) == m.lcnonce.toNat && ofBytes ((b.drop 16).take 16) == Config.serial.toNat &&
    Config.xmssVerify (b.take 32) (b.drop 32)

/-- LC_APPLY (15 R455, R462): the new state is fused, the device wipes as a cold reset does, and the firmware must suit the new state
(DEDUCED: log 68); LCCMD reads 1 until then. In RETURNED the attestation key is gone, and no report can be signed (log 37). -/
def lcApply (s : State) : State :=
  let m : Mgmt := { s.mgmt.select 0x32 with lcnonce := Config.nonce s.freeCount, lcbuf := [] }
  if tokenOk s.mgmt then
    let m : Mgmt := { m with lcs := s.mgmt.lcs + 1, lccmd := 1 }
    let r := verified (resetMgmt m false s.freeCount) (bootFailure m.lcs s.freeCount)
    wipeDevice s (if m.lcs == 3 then { r with indices := 0, blocksLeft := 0 } else r)
  else { s with mgmt := { m with lccmd := 3 } }

/-- LC_APPLY: one token at a time. -/
def execLcApply (s : State) : Out := .next (nextFree (if s.mgmt.lccmd == 1 then s else lcApply s))

/-- LC_DISCARD (15 R461). -/
def execLcDiscard (s : State) : Out := .next (nextFree { s with mgmt := { s.mgmt.select 0x32 with lcbuf := [] } })

/-- What a host atomic leaves (15 R436): op 0 FetchAdd, 1 CAS with the compare value in the low half of the operand and the
new value above it. -/
def hostAtomic (op size operand old : Nat) : Nat :=
  let w := 8 * size
  if op == 0 then (old + operand) % 2 ^ w else if old == operand % 2 ^ w then bitsAt operand w w else old

/-- PCIE_ATOMICOP (14 R419, R427; 15 R436): in device memory at its home slice; a partition's function reaches its own regions
alone, and is frozen for anything else. Misaligned and odd-sized operations are no AtomicOps of R436. What it writes every die sees at once, so that it waits for every write before it (04 R158-R160). -/
def pcieAtomic (s : State) (fn addr op size operand : Nat) : State :=
  match mget s.funcs fn with
  | none => s
  | some f =>
    if !fnAnswers s f || (size != 4 && size != 8) || addr % size != 0 || decide (memSize < addr + size) || decide (2 ≤ op) then s
    else if fn != 0 && !physOk s (fn - 1) true addr size then freezeFn s fn addr
    else if !s.vis.isEmpty then s
    else
      match badGranule s (.single addr) size addr with
      | some (g, _) => poisonGranule s g
      | none => writeHome s addr (soft s addr (bytesOf size (hostAtomic op size operand (ofBytes (homeBytes s addr size)))))

/-- PCIE_ATOMICOP. -/
def execPcieAtomicop (fn addr op size operand : Nat) (s : State) : Out := .next (nextFree (pcieAtomic s fn addr op size operand))

end Sys2Proof.Machine
end

