-- ==== Sys2Proof/Machine/Events.lean ====
section
/-! DEFINITION. Steps that the device takes by itself, in the default order of log 15: the first one that changes
anything. Inputs from outside (log 13) are not among them. -/

namespace Sys2Proof.Machine

/-- A step of the table, and the state that it would leave. -/
abbrev Offer := Instr × State

/-- Writes made visible, accesses performed and results arriving (04 R152, R159; 02 R83). -/
noncomputable def memoryOffers (s : State) : List Offer :=
  (s.vis.flatMap fun v => (span 0 4).map (fun d => (.writeMadeVisible d v.id, writeMadeVisible s d v.id))) ++
    s.waves.flatMap fun e => e.2.accs.flatMap fun a =>
      [(.resultArrival e.1 a.id, resultArrival s e.1 a.id), (.storePerformed e.1 a.id, storePerformed s e.1 a.id),
        (.atomicPerformed e.1 a.id, atomicPerformed s e.1 a.id), (.publishSwitch e.1 a.id, publishSwitch s e.1 a.id)]

/-- What waves wait for (01 R37, R38; 02 R69, R71; 08 R308, R310; 12 R371-R383). -/
noncomputable def waveOffers (s : State) : List Offer :=
  (s.waves.flatMap fun e =>
    [(.trapEntry e.1, conclude s e.1), (.barrierArrive e.1, conclude (countArrivals s e.1) e.1), (.vpinPin e.1, pinNow s e.1 true),
      (.vunpinRelease e.1, pinNow s e.1 false), (.waveSlotFree e.1, waveSlotFree s e.1), (.waveLeavesCore e.1, waveLeaves s e.1),
      (.saveLimitExpiry e.1, saveLimit s e.1)]) ++
    (s.launches.flatMap fun e => e.2.trees.map (fun t =>
      (.treeBarrierPhaseComplete e.1 (t.1 % 8) (t.1 / 8), treePhase s e.1 (t.1 % 8) (t.1 / 8)))) ++
    (s.cores.flatMap fun e => (.deadlockTrap e.1, deadlockTrap s e.1) ::
      (span 0 4).map (fun q => (.xacqGrant e.1 q, xacqGrant s e.1 q)))

/-- Engines and matrix units (09 R317, R325, R335, R339, R343; 04 R149, R163, R164). -/
noncomputable def engineOffers (s : State) : List Offer :=
  (s.contexts.flatMap fun e => e.2.consists.flatMap fun q =>
    if q.2.cmds.isEmpty then []
    else
      [(.engineCommandBegin e.1 q.1, engineBegin s e.1 q.1), (.pointsThrow e.1 q.1, pointsThrow s e.1 q.1),
        (.arrive e.1 q.1 32768, arriveLanding s e.1 q.1 32768), (.followOnIssue e.1 q.1, followOn s e.1 q.1)] ++
        s.cores.map (fun c => (.activationTableSwitch e.1 q.1 c.1, tableSwitch s e.1 q.1 c.1)) ++
        [(.milepostWrite e.1 q.1, milepost s e.1 q.1)]) ++
    (s.cores.flatMap fun e => e.2.storeQ.head?.toList.flatMap fun c =>
      [(.pointsThrow c.cid (64 + e.1), pointsThrow s c.cid (64 + e.1)), (.arrive c.cid (64 + e.1) 32768, arriveLanding s c.cid (64 + e.1) 32768)]) ++
    (s.cores.flatMap fun e => (span 0 3).flatMap fun q =>
      [(.matrixQueueStart e.1 q, queueStart s e.1 q), (.matrixInstructionComplete e.1 q, matrixComplete s e.1 q)]) ++
    s.colls.map (fun x => (.collectiveExecute x.part x.group x.cseq, collectiveRun s x.part x.group x.cseq))

/-- Launches, units and bind records (12 R380-R387; 13 R393-R407). -/
noncomputable def schedOffers (s : State) : List Offer :=
  (s.units.flatMap fun e =>
    [(.preemptionHandlerStart e.1, handlersStart s e.1), (.resumeRelease e.1, resumeRelease s e.1), (.unitResume e.1, unitResume s e.1)]) ++
    (s.launches.flatMap fun e =>
      [(.timeLimitExpiry e.1, timeLimit s e.1), (.launchComplete e.1, launchComplete s e.1),
        (.serialisedReexecutionEnd e.1, serialEnd s e.1), (.priorityAging e.1, priorityAging s e.1),
        (.preemptionDecision e.1, preemptionDecision s e.1)]) ++
    (s.binds.map fun e => (.dispatch (e.1 / 1536) (e.1 % 1536), dispatch s e.1)) ++
    (s.launches.flatMap fun e => (span 0 4).flatMap fun j =>
      [(.unitPlacement j e.1, unitPlacement s j e.1), (.junctionClaim j e.1, junctionClaim s j e.1)]) ++
    (s.launches.flatMap fun e => (span 0 4).flatMap fun j =>
      (.stealRequest j e.1, stealRequest s j e.1) :: (span 0 4).map (fun v => (.stealReply v j e.1, stealReply s v j e.1))) ++
    (s.contexts.flatMap fun e => e.2.retiring.map (fun r => (.codeSwapRetire e.1 r.1, codeRetire s e.1 r.1)))

/-- Requests at the heads of the host's queues (15 R440), one kind after another. -/
noncomputable def requestOffers (s : State) : List Offer :=
  s.funcs.flatMap fun f => (enumFrom 0 f.2.queues).flatMap fun q =>
    if q.2.head == q.2.tail then []
    else
      [(.launch f.1 q.1, takeUp launchKind s f.1 q.1), (.contextCreate f.1 q.1, takeUp createKind s f.1 q.1),
        (.contextEnd f.1 q.1, goOnReq endKind endOver s f.1 q.1), (.preempt f.1 q.1, goOnReq preemptKind preemptOver s f.1 q.1),
        (.invalidate f.1 q.1, takeUp invalKind s f.1 q.1), (.faultResolve f.1 q.1, takeUp resolveKind s f.1 q.1),
        (.codeSwap f.1 q.1, takeUp swapKind s f.1 q.1), (.decayTableReload f.1 q.1, takeUp reloadKind s f.1 q.1),
        (.rangeCreate f.1 q.1, takeUp rangeCreateKind s f.1 q.1), (.rangeDestroy f.1 q.1, goOnDestroy rangeDestroyKind s f.1 q.1),
        (.shardSet f.1 q.1, takeUp shardKind s f.1 q.1), (.collectiveGroup f.1 q.1, takeUp groupKind s f.1 q.1),
        (.partition f.1 q.1, takeUp partitionKind s f.1 q.1),
        (.selfTest f.1 q.1, if s.selfTest.isSome then s else takeUp selfTestKind s f.1 q.1),
        (.trunkConfigure f.1 q.1, takeUp trunkKind s f.1 q.1), (.attest f.1 q.1, takeUp attestKind s f.1 q.1),
        (.powerLimit f.1 q.1, takeUp powerKind s f.1 q.1), (.errorRecord f.1 q.1, takeUp errorRecordKind s f.1 q.1),
        (.predictiveThresholds f.1 q.1, takeUp thresholdsKind s f.1 q.1)]

/-- Faults and invalidations that wait (14 R415, R419) and a tick that is lost (15 R444). -/
noncomputable def otherOffers (s : State) : List Offer :=
  (s.invals.map fun v => (.invalidateDone v.id, invalidateDone s v.id)) ++ (s.parts.map fun e => (.heldFaultOpen e.1, heldOpen s e.1)) ++
    [(.tickLoss, tickLoss s), (.clockLower, clockLower s), (.clockRaise, clockRaise s)]

/-- Sharded accesses and answers that flows have delivered, and lanes whose owner cannot be reached (14 R435; 15 R443, R446). -/
noncomputable def trunkOffers (s : State) : List Offer :=
  (s.trunk.inbox.flatMap fun e => match e.2 with
    | [4, dev, mcid, va, ssn, kind, data] => [(.shardedOwnerAccess dev mcid va ssn kind data, ownerTurn s dev mcid va ssn kind data)]
    | [5, wave, id, tid, ok, data] => [(.shardedOwnerAnswer wave id tid ok data, answerTurn s wave id tid ok data)]
    | _ => []) ++
    s.waves.flatMap fun e => (e.2.held.flatMap (·.accs)).flatMap fun a => (a.lanes.filter (fun l => isRemote l.place)).map fun l =>
      (.shardedOwnerAnswer e.1 a.id l.tid 0 0, answerTurn s e.1 a.id l.tid 0 0)

/-- The first step on offer that changes anything. -/
noncomputable def nextEvent (s : State) : Option Instr :=
  ((memoryOffers s ++ waveOffers s ++ engineOffers s ++ schedOffers s ++ requestOffers s ++ trunkOffers s ++ otherOffers s).find?
    (fun o => decide (o.2 ≠ s))).map (·.1)

end Sys2Proof.Machine
end

