-- ==== Sys2Proof/Machine/Choose.lean ====
section
/-! DEFINITION. What moves next: the head of the agenda, else the default order (log 1, log 15), and what a passing
cycle counts. -/

namespace Sys2Proof.Machine

/-- Cycles for which a core has been deadlocked (02 R71). -/
def countDead (s : State) : State :=
  ((s.waves.map (fun e => e.2.core)).eraseDups ++ s.cores.map (·.1)).eraseDups.foldl
    (fun (t : State) c =>
      let n := if deadlocked s c then (getC s c).deadCycles + 1 else 0
      if n == (getC s c).deadCycles then t else modC t c (fun x => { x with deadCycles := n })) s

/-- Cycles of a launch: resident while it has a wave (13 R402), waiting while a claim is unplaced (13 R401). -/
def countLaunch (s : State) (e : Nat × Launch) : Nat × Launch :=
  let here := s.waves.any (fun w => w.2.launch == e.1)
  let waits := e.2.live && (e.2.queues.any (fun q => !q.isEmpty) || s.units.any (fun u => u.2.launch == e.1 && u.2.st == .claimed))
  (e.1, { e.2 with resident := if here then e.2.resident + 1 else e.2.resident, waiting := if waits then e.2.waiting + 1 else e.2.waiting })

/-- A wave that could issue and gave way in a selection of its quadrant in which no other could go has been passed over (06 R224). -/
def passedOver (s : State) (w : Wave) : Bool :=
  givesWay s w && decide (zget 0 (getC s w.core).busy (w.slot % 4) ≤ s.cycle)

/-- A cycle passes (13 R404: eligibility is counted in cycles); the samples of the cycle are written (06 R244). -/
def passCycle (s : State) : State :=
  let t := countDead ((s.cores.map (·.1)).foldl flushSamples s)
  { t with
    waves := t.waves.map (fun e =>
      match eligible s e.1 e.2 with
      | some _ => (e.1, { e.2 with eligSince := some (e.2.eligSince.getD s.cycle), yielded := e.2.yielded && !passedOver s e.2 })
      | none => (e.1, { e.2 with eligSince := none })),
    launches := t.launches.map (countLaunch s), mgmt := measured t, cycle := s.cycle + 1, tickGap := s.tickGap + 1 }

/-- The core whose sampler has a sample to take: before the words of its cycle, which the sample names (06 R246). -/
def sampleTurn (s : State) : Option Nat := (s.cores.find? (fun e => sampleDue s e.1)).map (·.1)

/-- What a step does by the default order, once no sample is due. -/
noncomputable def defaultPick (s : State) : Pick :=
  match nextQuad s with
  | some q => issuePick s q.1 q.2
  | none =>
    match nextEvent s with
    | some i => .run i s
    | none => .idle (passCycle s)

/-- A cycle ends once no quadrant may issue in it any more: every quadrant that has an eligible wave issues (13 R404). -/
noncomputable def tickPick (s : State) (l : List Choice) : Pick :=
  match nextQuad s with
  | some q => issuePick s q.1 q.2
  | none => .idle (passCycle { s with agenda := l })

/-- What a step does: a sample that is due is taken first, as the cycle finds the waves (06 R246). -/
noncomputable def pick (s : State) : Pick :=
  match sampleTurn s with
  | some core => .run (.sampleTake core) s
  | none =>
    match s.agenda with
    | [] => defaultPick s
    | .issue core quad :: l => issuePick { s with agenda := l } core quad
    | .event i :: l => if (encode i).isNone then .run i { s with agenda := l } else .idle { s with agenda := l }
    | .miss core quad :: l => .idle (missFetch { s with agenda := l } core quad)
    | .tick :: l => tickPick s l

end Sys2Proof.Machine
end

