-- ==== Sys2Proof/Machine/Scalar.lean ====
section
/-! DEFINITION. HN words (05 R176-R179) and scalar arithmetic (06 R206, R207, R211). -/

namespace Sys2Proof.Machine

/-- `hint` (05 R177): stays pending for the instruction it modifies; its stall count delays that one. -/
def execHint (stall : BitVec 4) (wmask : BitVec 16) (seten : Bool) (slot : BitVec 4) (s : State) : Out :=
  runHn true (stall.toNat * 2 ^ 21 + wmask.toNat * 2 ^ 5 + bnat seten * 2 ^ 4 + slot.toNat) stall.toNat s

/-- `wimm` (05 R178): the upper 25 bits of a wide immediate. -/
def execWimm (p : BitVec 25) (s : State) : Out := runHn false p.toNat 0 s

/-- A truth value as a 64-bit result. -/
def bit64 (b : Bool) : W64 := if b then 1#64 else 0#64

/-- `sadd` (06 R207). -/
def execSadd (m : Bool) (d a : SReg) (i : Bool) (x : BitVec 7) (s : State) : Out := scalArith m d a i x (fun a b => a + b) s
/-- `ssub` (06 R207). -/
def execSsub (m : Bool) (d a : SReg) (i : Bool) (x : BitVec 7) (s : State) : Out := scalArith m d a i x (fun a b => a - b) s
/-- `smul` (06 R207): low 64 bits of the product. -/
def execSmul (m : Bool) (d a : SReg) (i : Bool) (x : BitVec 7) (s : State) : Out := scalArith m d a i x (fun a b => a * b) s
/-- `smulh.i64` (06 R207): bits [127:64] of the exact signed product. -/
def execSmulhI64 (m : Bool) (d a : SReg) (i : Bool) (x : BitVec 7) (s : State) : Out :=
  scalArith m d a i x (fun a b => BitVec.ofInt 64 (a.toInt * b.toInt / 2 ^ 64)) s
/-- `smulh.n64` (06 R207): bits [127:64] of the exact unsigned product. -/
def execSmulhN64 (m : Bool) (d a : SReg) (i : Bool) (x : BitVec 7) (s : State) : Out :=
  scalArith m d a i x (fun a b => BitVec.ofNat 64 (a.toNat * b.toNat / 2 ^ 64)) s
/-- `sand` (06 R207). -/
def execSand (m : Bool) (d a : SReg) (i : Bool) (x : BitVec 7) (s : State) : Out := scalArith m d a i x (fun a b => a &&& b) s
/-- `sor` (06 R207). -/
def execSor (m : Bool) (d a : SReg) (i : Bool) (x : BitVec 7) (s : State) : Out := scalArith m d a i x (fun a b => a ||| b) s
/-- `sxor` (06 R207). -/
def execSxor (m : Bool) (d a : SReg) (i : Bool) (x : BitVec 7) (s : State) : Out := scalArith m d a i x (fun a b => a ^^^ b) s
/-- `sshl` (06 R207): shifted by x[5:0]. -/
def execSshl (m : Bool) (d a : SReg) (i : Bool) (x : BitVec 7) (s : State) : Out :=
  scalArith m d a i x (fun a b => a <<< (b.toNat % 64)) s
/-- `sshr` (06 R207). -/
def execSshr (m : Bool) (d a : SReg) (i : Bool) (x : BitVec 7) (s : State) : Out :=
  scalArith m d a i x (fun a b => a >>> (b.toNat % 64)) s
/-- `ssar` (06 R207). -/
def execSsar (m : Bool) (d a : SReg) (i : Bool) (x : BitVec 7) (s : State) : Out :=
  scalArith m d a i x (fun a b => a.sshiftRight (b.toNat % 64)) s
/-- `smin.i64` (06 R207). -/
def execSminI64 (m : Bool) (d a : SReg) (i : Bool) (x : BitVec 7) (s : State) : Out :=
  scalArith m d a i x (fun a b => if b.slt a then b else a) s
/-- `smin.n64` (06 R207). -/
def execSminN64 (m : Bool) (d a : SReg) (i : Bool) (x : BitVec 7) (s : State) : Out :=
  scalArith m d a i x (fun a b => if b.ult a then b else a) s
/-- `smax.i64` (06 R207). -/
def execSmaxI64 (m : Bool) (d a : SReg) (i : Bool) (x : BitVec 7) (s : State) : Out :=
  scalArith m d a i x (fun a b => if a.slt b then b else a) s
/-- `smax.n64` (06 R207). -/
def execSmaxN64 (m : Bool) (d a : SReg) (i : Bool) (x : BitVec 7) (s : State) : Out :=
  scalArith m d a i x (fun a b => if a.ult b then b else a) s
/-- `sceq` (06 R207). -/
def execSceq (m : Bool) (d a : SReg) (i : Bool) (x : BitVec 7) (s : State) : Out :=
  scalArith m d a i x (fun a b => bit64 (a == b)) s
/-- `sclt.i64` (06 R207). -/
def execScltI64 (m : Bool) (d a : SReg) (i : Bool) (x : BitVec 7) (s : State) : Out :=
  scalArith m d a i x (fun a b => bit64 (a.slt b)) s
/-- `sclt.n64` (06 R207). -/
def execScltN64 (m : Bool) (d a : SReg) (i : Bool) (x : BitVec 7) (s : State) : Out :=
  scalArith m d a i x (fun a b => bit64 (a.ult b)) s
/-- `scle.i64` (06 R207). -/
def execScleI64 (m : Bool) (d a : SReg) (i : Bool) (x : BitVec 7) (s : State) : Out :=
  scalArith m d a i x (fun a b => bit64 (a.sle b)) s
/-- `scle.n64` (06 R207). -/
def execScleN64 (m : Bool) (d a : SReg) (i : Bool) (x : BitVec 7) (s : State) : Out :=
  scalArith m d a i x (fun a b => bit64 (a.ule b)) s

/-- `smov` (06 R207, R205): S(SD) := x, with the latency of moves. -/
def execSmov (m : Bool) (d : SReg) (i : Bool) (x : BitVec 7) (s : State) : Out :=
  runScal (Form.sc m i) false (fun s w e => writeScal w e.tids d.toNat 2 (scX s w e 2 i x)) s

/-- `sadr` (06 R211): the address of the word plus the byte offset of R178. -/
def execSadr (m : Bool) (d : SReg) (x : BitVec 7) (s : State) : Out :=
  runScal (Form.sc m true) false
    (fun _ w e => writeScal w e.tids d.toNat 2 (e.addr + BitVec.ofNat 64 (scImm e.wimm x))) s

end Sys2Proof.Machine
end

