-- ==== Sys2Proof/Machine/VecInt.lean ====
section
/-! DEFINITION. Integer and bit instructions, integer compares and selects (07 R254-R257). -/

namespace Sys2Proof.Machine

/-- One value for each sibling from two operands (07 R250, R254). -/
def perSibling (a b : Spec) (wa wb : Bool) (op : Nat → Nat → Nat) (s : State) (w : Wave) (n : Nat) (t : Thread) : VRes :=
  ⟨w.sibs.map (fun k => op (readOp s w n t k 1 a wa) (readOp s w n t k 2 b wb)), 0⟩

/-- One value for each sibling from an operand and the immediate (05 R178). -/
def perSiblingImm (a : Spec) (wide : Bool) (imm : BitVec 7) (op : Nat → Nat → Nat) (s : State) (w : Wave) (n : Nat)
    (t : Thread) : VRes :=
  ⟨w.sibs.map (fun k => op (readOp s w n t k 1 a wide) (viImm s.cur.wimm imm (if wide then 64 else 32))), 0⟩

/-- A V3 instruction of 32 bits (07 R254). -/
def run32 (m : Bool) (d a b : Spec) (op : Nat → Nat → Nat) (s : State) : Out :=
  runVec (Form.v3 m [d, a, b]) d false 2 0 (perSibling a b false false op) s

/-- A V3 instruction of 64 bits; the shifts take a 32-bit count. -/
def run64 (m : Bool) (d a b : Spec) (wb : Bool) (op : Nat → Nat → Nat) (s : State) : Out :=
  runVec (Form.v3 m [d, a, b]) d true 6 0 (perSibling a b true wb op) s

/-- A VI instruction of 32 bits. -/
def run32Imm (m : Bool) (d a : Spec) (imm : BitVec 7) (op : Nat → Nat → Nat) (s : State) : Out :=
  runVec (Form.vi m [d, a]) d false 2 0 (perSiblingImm a false imm op) s

/-- An integer compare (07 R256): sibling 0 of both operands. -/
def runCmp (m : Bool) (a b : Spec) (wide : Bool) (rel : Nat → Nat → Bool) (s : State) : Out :=
  runCm (Form.v3 m [a, b]) 2
    (fun s w n t => ⟨[bnat (rel (readOp s w n t 0 1 a wide) (readOp s w n t 0 2 b wide))], 0⟩) s

/-- A select (07 R257). -/
def runSel (m : Bool) (d a b : Spec) (wide : Bool) (s : State) : Out :=
  runVec (Form.v3 m [d, a, b]) d wide 2 0
    (fun s w n t => perSibling a b wide wide (fun x y => if cmBit s w n then x else y) s w n t) s

/-- Addition modulo 2^n (03 R95). -/
def addW (n a b : Nat) : Nat := (a + b) % 2 ^ n
/-- Subtraction modulo 2^n. -/
def subW (n a b : Nat) : Nat := (a + 2 ^ n - b) % 2 ^ n
/-- A signed value clamped to 32 bits (07 R254). -/
def clamp32 (i : Int) : Nat := wrap 32 (max (-(2 ^ 31)) (min (2 ^ 31 - 1) i))
/-- Logical shift left of an n-bit value. -/
def shlW (n a c : Nat) : Nat := a * 2 ^ c % 2 ^ n
/-- Arithmetic shift right. -/
def sarW (n a c : Nat) : Nat := wrap n (sgn n a / 2 ^ c)
/-- Set bits of a 32-bit value. -/
def popCount (a : Nat) : Nat := ((span 0 32).filter (tst a)).length
/-- Leading zeros, 32 for 0. -/
def leadZeros (a : Nat) : Nat := if a == 0 then 32 else 31 - a.log2
/-- Bit order reversed. -/
def bitRev (a : Nat) : Nat := (BitVec.ofNat 32 a).reverse.toNat

/-- `bfe` (07 R255). -/
def bitField (signed : Bool) (a b : Nat) : Nat :=
  let p := b % 32
  let n := min (bitsAt b 8 6) 32
  let ext := if signed then sext 32 64 a else a
  let v := bitsAt ext p n
  if n == 0 then 0 else if signed then sext n 32 v else v

/-- `add.n32` (07 R254). -/
def execAddN32 (m : Bool) (d a b : Spec) (s : State) : Out := run32 m d a b (addW 32) s
/-- `sub.n32` (07 R254). -/
def execSubN32 (m : Bool) (d a b : Spec) (s : State) : Out := run32 m d a b (subW 32) s
/-- `mul.n32` (07 R254). -/
def execMulN32 (m : Bool) (d a b : Spec) (s : State) : Out := run32 m d a b (fun a b => a * b % 2 ^ 32) s
/-- `mulh.i32` (07 R254). -/
def execMulhI32 (m : Bool) (d a b : Spec) (s : State) : Out := run32 m d a b (fun a b => wrap 32 (sgn 32 a * sgn 32 b / 2 ^ 32)) s
/-- `mulh.n32` (07 R254). -/
def execMulhN32 (m : Bool) (d a b : Spec) (s : State) : Out := run32 m d a b (fun a b => a * b / 2 ^ 32) s
/-- `and.b32` (07 R254). -/
def execAndB32 (m : Bool) (d a b : Spec) (s : State) : Out := run32 m d a b (fun a b => a &&& b) s
/-- `or.b32` (07 R254). -/
def execOrB32 (m : Bool) (d a b : Spec) (s : State) : Out := run32 m d a b (fun a b => a ||| b) s
/-- `xor.b32` (07 R254). -/
def execXorB32 (m : Bool) (d a b : Spec) (s : State) : Out := run32 m d a b (fun a b => a ^^^ b) s
/-- `shl.b32` (07 R254). -/
def execShlB32 (m : Bool) (d a b : Spec) (s : State) : Out := run32 m d a b (fun a b => shlW 32 a (b % 32)) s
/-- `shr.b32` (07 R254). -/
def execShrB32 (m : Bool) (d a b : Spec) (s : State) : Out := run32 m d a b (fun a b => a / 2 ^ (b % 32)) s
/-- `sar.b32` (07 R254). -/
def execSarB32 (m : Bool) (d a b : Spec) (s : State) : Out := run32 m d a b (fun a b => sarW 32 a (b % 32)) s
/-- `min.i32` (07 R254). -/
def execMinI32 (m : Bool) (d a b : Spec) (s : State) : Out := run32 m d a b (fun a b => if sgn 32 b < sgn 32 a then b else a) s
/-- `min.n32` (07 R254). -/
def execMinN32 (m : Bool) (d a b : Spec) (s : State) : Out := run32 m d a b (min) s
/-- `max.i32` (07 R254). -/
def execMaxI32 (m : Bool) (d a b : Spec) (s : State) : Out := run32 m d a b (fun a b => if sgn 32 a < sgn 32 b then b else a) s
/-- `max.n32` (07 R254). -/
def execMaxN32 (m : Bool) (d a b : Spec) (s : State) : Out := run32 m d a b (max) s
/-- `adds.i32` (07 R254). -/
def execAddsI32 (m : Bool) (d a b : Spec) (s : State) : Out := run32 m d a b (fun a b => clamp32 (sgn 32 a + sgn 32 b)) s
/-- `subs.i32` (07 R254). -/
def execSubsI32 (m : Bool) (d a b : Spec) (s : State) : Out := run32 m d a b (fun a b => clamp32 (sgn 32 a - sgn 32 b)) s
/-- `add.n32` with an immediate (07 R254). -/
def execAddN32Imm (m : Bool) (d a : Spec) (imm : BitVec 7) (s : State) : Out := run32Imm m d a imm (addW 32) s
/-- `and.b32` with an immediate (07 R254). -/
def execAndB32Imm (m : Bool) (d a : Spec) (imm : BitVec 7) (s : State) : Out := run32Imm m d a imm (fun a b => a &&& b) s
/-- `or.b32` with an immediate (07 R254). -/
def execOrB32Imm (m : Bool) (d a : Spec) (imm : BitVec 7) (s : State) : Out := run32Imm m d a imm (fun a b => a ||| b) s
/-- `xor.b32` with an immediate (07 R254). -/
def execXorB32Imm (m : Bool) (d a : Spec) (imm : BitVec 7) (s : State) : Out := run32Imm m d a imm (fun a b => a ^^^ b) s
/-- `shl.b32` with an immediate (07 R254). -/
def execShlB32Imm (m : Bool) (d a : Spec) (imm : BitVec 7) (s : State) : Out := run32Imm m d a imm (fun a b => shlW 32 a (b % 32)) s
/-- `shr.b32` with an immediate (07 R254). -/
def execShrB32Imm (m : Bool) (d a : Spec) (imm : BitVec 7) (s : State) : Out := run32Imm m d a imm (fun a b => a / 2 ^ (b % 32)) s
/-- `sar.b32` with an immediate (07 R254). -/
def execSarB32Imm (m : Bool) (d a : Spec) (imm : BitVec 7) (s : State) : Out := run32Imm m d a imm (fun a b => sarW 32 a (b % 32)) s
/-- `rsub.n32` with an immediate (07 R254). -/
def execRsubN32 (m : Bool) (d a : Spec) (imm : BitVec 7) (s : State) : Out := run32Imm m d a imm (fun a b => subW 32 b a) s
/-- `min.i32` with an immediate (07 R254). -/
def execMinI32Imm (m : Bool) (d a : Spec) (imm : BitVec 7) (s : State) : Out := run32Imm m d a imm (fun a b => if sgn 32 b < sgn 32 a then b else a) s
/-- `max.i32` with an immediate (07 R254). -/
def execMaxI32Imm (m : Bool) (d a : Spec) (imm : BitVec 7) (s : State) : Out := run32Imm m d a imm (fun a b => if sgn 32 a < sgn 32 b then b else a) s
/-- `mov.b32` (07 R254). -/
def execMovB32 (m : Bool) (d : Spec) (imm : BitVec 7) (s : State) : Out := run32Imm m d 0x00#7 imm (fun _ b => b) s
/-- `mov.b64` (07 R254, R252): latency 2. -/
def execMovB64 (m : Bool) (d : Spec) (imm : BitVec 7) (s : State) : Out :=
  runVec (Form.vi m [d]) d true 2 0 (perSiblingImm 0x00#7 true imm (fun _ b => b)) s
/-- `add.n64` with an immediate (07 R254). -/
def execAddN64Imm (m : Bool) (d a : Spec) (imm : BitVec 7) (s : State) : Out :=
  runVec (Form.vi m [d, a]) d true 6 0 (perSiblingImm a true imm (addW 64)) s
/-- `add.n64` (07 R254). -/
def execAddN64 (m : Bool) (d a b : Spec) (s : State) : Out := run64 m d a b true (addW 64) s
/-- `sub.n64` (07 R254). -/
def execSubN64 (m : Bool) (d a b : Spec) (s : State) : Out := run64 m d a b true (subW 64) s
/-- `mul.n64` (07 R254). -/
def execMulN64 (m : Bool) (d a b : Spec) (s : State) : Out := run64 m d a b true (fun a b => a * b % 2 ^ 64) s
/-- `and.b64` (07 R254). -/
def execAndB64 (m : Bool) (d a b : Spec) (s : State) : Out := run64 m d a b true (fun a b => a &&& b) s
/-- `or.b64` (07 R254). -/
def execOrB64 (m : Bool) (d a b : Spec) (s : State) : Out := run64 m d a b true (fun a b => a ||| b) s
/-- `xor.b64` (07 R254). -/
def execXorB64 (m : Bool) (d a b : Spec) (s : State) : Out := run64 m d a b true (fun a b => a ^^^ b) s
/-- `shl.b64` (07 R254). -/
def execShlB64 (m : Bool) (d a b : Spec) (s : State) : Out := run64 m d a b false (fun a b => shlW 64 a (b % 64)) s
/-- `shr.b64` (07 R254). -/
def execShrB64 (m : Bool) (d a b : Spec) (s : State) : Out := run64 m d a b false (fun a b => a / 2 ^ (b % 64)) s
/-- `sar.b64` (07 R254). -/
def execSarB64 (m : Bool) (d a b : Spec) (s : State) : Out := run64 m d a b false (fun a b => sarW 64 a (b % 64)) s
/-- `popc.b32` (07 R254). -/
def execPopcB32 (m : Bool) (d a : Spec) (s : State) : Out := run32 m d a 0x00#7 (fun a _ => popCount a) s
/-- `clz.b32` (07 R254). -/
def execClzB32 (m : Bool) (d a : Spec) (s : State) : Out := run32 m d a 0x00#7 (fun a _ => leadZeros a) s
/-- `brev.b32` (07 R254). -/
def execBrevB32 (m : Bool) (d a : Spec) (s : State) : Out := run32 m d a 0x00#7 (fun a _ => bitRev a) s
/-- `bfe.n32` (07 R255). -/
def execBfeN32 (m : Bool) (d a b : Spec) (s : State) : Out := run32 m d a b (bitField false) s
/-- `bfe.i32` (07 R255). -/
def execBfeI32 (m : Bool) (d a b : Spec) (s : State) : Out := run32 m d a b (bitField true) s
/-- `mulw.n32` (07 R254): the exact 64-bit product. -/
def execMulwN32 (m : Bool) (d a b : Spec) (s : State) : Out :=
  runVec (Form.v3 m [d, a, b]) d true 6 0 (perSibling a b false false (fun a b => a * b)) s
/-- `ceq.n32` (07 R256). -/
def execCeqN32 (m : Bool) (a b : Spec) (s : State) : Out := runCmp m a b false (fun a b => a == b) s
/-- `cne.n32` (07 R256). -/
def execCneN32 (m : Bool) (a b : Spec) (s : State) : Out := runCmp m a b false (fun a b => a != b) s
/-- `clt.i32` (07 R256). -/
def execCltI32 (m : Bool) (a b : Spec) (s : State) : Out := runCmp m a b false (fun a b => decide (sgn 32 a < sgn 32 b)) s
/-- `cle.i32` (07 R256). -/
def execCleI32 (m : Bool) (a b : Spec) (s : State) : Out := runCmp m a b false (fun a b => decide (sgn 32 a ≤ sgn 32 b)) s
/-- `clt.n32` (07 R256). -/
def execCltN32 (m : Bool) (a b : Spec) (s : State) : Out := runCmp m a b false (fun a b => decide (a < b)) s
/-- `cle.n32` (07 R256). -/
def execCleN32 (m : Bool) (a b : Spec) (s : State) : Out := runCmp m a b false (fun a b => decide (a ≤ b)) s
/-- `ceq.n64` (07 R256). -/
def execCeqN64 (m : Bool) (a b : Spec) (s : State) : Out := runCmp m a b true (fun a b => a == b) s
/-- `clt.i64` (07 R256). -/
def execCltI64 (m : Bool) (a b : Spec) (s : State) : Out := runCmp m a b true (fun a b => decide (sgn 64 a < sgn 64 b)) s
/-- `clt.n64` (07 R256). -/
def execCltN64 (m : Bool) (a b : Spec) (s : State) : Out := runCmp m a b true (fun a b => decide (a < b)) s
/-- `sel.b32` (07 R257). -/
def execSelB32 (m : Bool) (d a b : Spec) (s : State) : Out := runSel m d a b false s
/-- `sel.b64` (07 R257). -/
def execSelB64 (m : Bool) (d a b : Spec) (s : State) : Out := runSel m d a b true s

end Sys2Proof.Machine
end

