-- ==== Sys2Proof/Machine/Dispatch.lean ====
section
/-! DEFINITION. One arm for each instruction and step of the table. -/

namespace Sys2Proof.Machine

/-- What an instruction or step does. -/
def exec (i : Instr) (s : State) : Host.Outcome State Fault Refusal :=
  match i with
  | .hint stall wmask seten slot => Sys2Proof.Machine.execHint stall wmask seten slot s
  | .wimm p => Sys2Proof.Machine.execWimm p s
  | .sadd m d a ii x => Sys2Proof.Machine.execSadd m d a ii x s
  | .ssub m d a ii x => Sys2Proof.Machine.execSsub m d a ii x s
  | .smul m d a ii x => Sys2Proof.Machine.execSmul m d a ii x s
  | .smulhI64 m d a ii x => Sys2Proof.Machine.execSmulhI64 m d a ii x s
  | .smulhN64 m d a ii x => Sys2Proof.Machine.execSmulhN64 m d a ii x s
  | .sand m d a ii x => Sys2Proof.Machine.execSand m d a ii x s
  | .sor m d a ii x => Sys2Proof.Machine.execSor m d a ii x s
  | .sxor m d a ii x => Sys2Proof.Machine.execSxor m d a ii x s
  | .sshl m d a ii x => Sys2Proof.Machine.execSshl m d a ii x s
  | .sshr m d a ii x => Sys2Proof.Machine.execSshr m d a ii x s
  | .ssar m d a ii x => Sys2Proof.Machine.execSsar m d a ii x s
  | .sminI64 m d a ii x => Sys2Proof.Machine.execSminI64 m d a ii x s
  | .sminN64 m d a ii x => Sys2Proof.Machine.execSminN64 m d a ii x s
  | .smaxI64 m d a ii x => Sys2Proof.Machine.execSmaxI64 m d a ii x s
  | .smaxN64 m d a ii x => Sys2Proof.Machine.execSmaxN64 m d a ii x s
  | .smov m d ii x => Sys2Proof.Machine.execSmov m d ii x s
  | .sceq m d a ii x => Sys2Proof.Machine.execSceq m d a ii x s
  | .scltI64 m d a ii x => Sys2Proof.Machine.execScltI64 m d a ii x s
  | .scltN64 m d a ii x => Sys2Proof.Machine.execScltN64 m d a ii x s
  | .scleI64 m d a ii x => Sys2Proof.Machine.execScleI64 m d a ii x s
  | .scleN64 m d a ii x => Sys2Proof.Machine.execScleN64 m d a ii x s
  | .sldN32 m d a ii x => Sys2Proof.Machine.execSldN32 m d a ii x s
  | .sldN64 m d a ii x => Sys2Proof.Machine.execSldN64 m d a ii x s
  | .sstN32 m d a ii x => Sys2Proof.Machine.execSstN32 m d a ii x s
  | .sstN64 m d a ii x => Sys2Proof.Machine.execSstN64 m d a ii x s
  | .sldSN32 m d a ii x => Sys2Proof.Machine.execSldSN32 m d a ii x s
  | .sstSN32 m d a ii x => Sys2Proof.Machine.execSstSN32 m d a ii x s
  | .rdsrScalar m d n => Sys2Proof.Machine.execRdsrScalar m d n s
  | .wrsr m a n => Sys2Proof.Machine.execWrsr m a n s
  | .getw m d => Sys2Proof.Machine.execGetw m d s
  | .setw m a ii x => Sys2Proof.Machine.execSetw m a ii x s
  | .xacq m c => Sys2Proof.Machine.execXacq m c s
  | .xacqNb m d c => Sys2Proof.Machine.execXacqNb m d c s
  | .xrel m c => Sys2Proof.Machine.execXrel m c s
  | .modeTriple m => Sys2Proof.Machine.execModeTriple m s
  | .modeSingle m => Sys2Proof.Machine.execModeSingle m s
  | .fqryDevice m d a => Sys2Proof.Machine.execFqryDevice m d a s
  | .fqryNumeric m d a => Sys2Proof.Machine.execFqryNumeric m d a s
  | .fqryPlacement m d a => Sys2Proof.Machine.execFqryPlacement m d a s
  | .smplStart m a => Sys2Proof.Machine.execSmplStart m a s
  | .smplStop m a => Sys2Proof.Machine.execSmplStop m a s
  | .smplFlush m a => Sys2Proof.Machine.execSmplFlush m a s
  | .emsave m d => Sys2Proof.Machine.execEmsave m d s
  | .emset m a => Sys2Proof.Machine.execEmset m a s
  | .emand m a => Sys2Proof.Machine.execEmand m a s
  | .emandn m a => Sys2Proof.Machine.execEmandn m a s
  | .emor m a => Sys2Proof.Machine.execEmor m a s
  | .emif m d => Sys2Proof.Machine.execEmif m d s
  | .emelse m d => Sys2Proof.Machine.execEmelse m d s
  | .sadr m d x => Sys2Proof.Machine.execSadr m d x s
  | .br m off => Sys2Proof.Machine.execBr m off s
  | .brc m off => Sys2Proof.Machine.execBrc m off s
  | .brnc m off => Sys2Proof.Machine.execBrnc m off s
  | .brany m off => Sys2Proof.Machine.execBrany m off s
  | .brall m off => Sys2Proof.Machine.execBrall m off s
  | .call m off => Sys2Proof.Machine.execCall m off s
  | .callr m t => Sys2Proof.Machine.execCallr m t s
  | .ret m => Sys2Proof.Machine.execRet m s
  | .jmpr m t => Sys2Proof.Machine.execJmpr m t s
  | .exit m => Sys2Proof.Machine.execExit m s
  | .rcb m => Sys2Proof.Machine.execRcb m s
  | .block m lim => Sys2Proof.Machine.execBlock m lim s
  | .yield m => Sys2Proof.Machine.execYield m s
  | .trap m c => Sys2Proof.Machine.execTrap m c s
  | .handlerReturn m => Sys2Proof.Machine.execHandlerReturn m s
  | .handlerSaved m => Sys2Proof.Machine.execHandlerSaved m s
  | .handlerEndWave m => Sys2Proof.Machine.execHandlerEndWave m s
  | .handlerRefuseReslice m => Sys2Proof.Machine.execHandlerRefuseReslice m s
  | .handlerEndContext m => Sys2Proof.Machine.execHandlerEndContext m s
  | .nop m => Sys2Proof.Machine.execNop m s
  | .bar m n c => Sys2Proof.Machine.execBar m n c s
  | .barArr m n c => Sys2Proof.Machine.execBarArr m n c s
  | .tbar m p => Sys2Proof.Machine.execTbar m p s
  | .tbarArr m p => Sys2Proof.Machine.execTbarArr m p s
  | .waitgen m off g => Sys2Proof.Machine.execWaitgen m off g s
  | .waitc m c v => Sys2Proof.Machine.execWaitc m c v s
  | .fenceW m => Sys2Proof.Machine.execFenceW m s
  | .addN32 m d a b => Sys2Proof.Machine.execAddN32 m d a b s
  | .subN32 m d a b => Sys2Proof.Machine.execSubN32 m d a b s
  | .mulN32 m d a b => Sys2Proof.Machine.execMulN32 m d a b s
  | .mulhI32 m d a b => Sys2Proof.Machine.execMulhI32 m d a b s
  | .mulhN32 m d a b => Sys2Proof.Machine.execMulhN32 m d a b s
  | .andB32 m d a b => Sys2Proof.Machine.execAndB32 m d a b s
  | .orB32 m d a b => Sys2Proof.Machine.execOrB32 m d a b s
  | .xorB32 m d a b => Sys2Proof.Machine.execXorB32 m d a b s
  | .shlB32 m d a b => Sys2Proof.Machine.execShlB32 m d a b s
  | .shrB32 m d a b => Sys2Proof.Machine.execShrB32 m d a b s
  | .sarB32 m d a b => Sys2Proof.Machine.execSarB32 m d a b s
  | .minI32 m d a b => Sys2Proof.Machine.execMinI32 m d a b s
  | .minN32 m d a b => Sys2Proof.Machine.execMinN32 m d a b s
  | .maxI32 m d a b => Sys2Proof.Machine.execMaxI32 m d a b s
  | .maxN32 m d a b => Sys2Proof.Machine.execMaxN32 m d a b s
  | .addsI32 m d a b => Sys2Proof.Machine.execAddsI32 m d a b s
  | .addN32Imm m d a imm => Sys2Proof.Machine.execAddN32Imm m d a imm s
  | .andB32Imm m d a imm => Sys2Proof.Machine.execAndB32Imm m d a imm s
  | .orB32Imm m d a imm => Sys2Proof.Machine.execOrB32Imm m d a imm s
  | .xorB32Imm m d a imm => Sys2Proof.Machine.execXorB32Imm m d a imm s
  | .shlB32Imm m d a imm => Sys2Proof.Machine.execShlB32Imm m d a imm s
  | .shrB32Imm m d a imm => Sys2Proof.Machine.execShrB32Imm m d a imm s
  | .sarB32Imm m d a imm => Sys2Proof.Machine.execSarB32Imm m d a imm s
  | .movB32 m d imm => Sys2Proof.Machine.execMovB32 m d imm s
  | .rsubN32 m d a imm => Sys2Proof.Machine.execRsubN32 m d a imm s
  | .minI32Imm m d a imm => Sys2Proof.Machine.execMinI32Imm m d a imm s
  | .maxI32Imm m d a imm => Sys2Proof.Machine.execMaxI32Imm m d a imm s
  | .addN64Imm m d a imm => Sys2Proof.Machine.execAddN64Imm m d a imm s
  | .movB64 m d imm => Sys2Proof.Machine.execMovB64 m d imm s
  | .rdsrVector m d n => Sys2Proof.Machine.execRdsrVector m d n s
  | .addN64 m d a b => Sys2Proof.Machine.execAddN64 m d a b s
  | .subN64 m d a b => Sys2Proof.Machine.execSubN64 m d a b s
  | .mulN64 m d a b => Sys2Proof.Machine.execMulN64 m d a b s
  | .andB64 m d a b => Sys2Proof.Machine.execAndB64 m d a b s
  | .orB64 m d a b => Sys2Proof.Machine.execOrB64 m d a b s
  | .xorB64 m d a b => Sys2Proof.Machine.execXorB64 m d a b s
  | .shlB64 m d a b => Sys2Proof.Machine.execShlB64 m d a b s
  | .shrB64 m d a b => Sys2Proof.Machine.execShrB64 m d a b s
  | .sarB64 m d a b => Sys2Proof.Machine.execSarB64 m d a b s
  | .popcB32 m d a => Sys2Proof.Machine.execPopcB32 m d a s
  | .clzB32 m d a => Sys2Proof.Machine.execClzB32 m d a s
  | .brevB32 m d a => Sys2Proof.Machine.execBrevB32 m d a s
  | .bfeN32 m d a b => Sys2Proof.Machine.execBfeN32 m d a b s
  | .bfeI32 m d a b => Sys2Proof.Machine.execBfeI32 m d a b s
  | .subsI32 m d a b => Sys2Proof.Machine.execSubsI32 m d a b s
  | .mulwN32 m d a b => Sys2Proof.Machine.execMulwN32 m d a b s
  | .ceqN32 m a b => Sys2Proof.Machine.execCeqN32 m a b s
  | .cneN32 m a b => Sys2Proof.Machine.execCneN32 m a b s
  | .cltI32 m a b => Sys2Proof.Machine.execCltI32 m a b s
  | .cleI32 m a b => Sys2Proof.Machine.execCleI32 m a b s
  | .cltN32 m a b => Sys2Proof.Machine.execCltN32 m a b s
  | .cleN32 m a b => Sys2Proof.Machine.execCleN32 m a b s
  | .ceqN64 m a b => Sys2Proof.Machine.execCeqN64 m a b s
  | .cltI64 m a b => Sys2Proof.Machine.execCltI64 m a b s
  | .cltN64 m a b => Sys2Proof.Machine.execCltN64 m a b s
  | .selB32 m d a b => Sys2Proof.Machine.execSelB32 m d a b s
  | .selB64 m d a b => Sys2Proof.Machine.execSelB64 m d a b s
  | .fceqF32 m a b => Sys2Proof.Machine.execFceqF32 m a b s
  | .fcneF32 m a b => Sys2Proof.Machine.execFcneF32 m a b s
  | .fcltF32 m a b => Sys2Proof.Machine.execFcltF32 m a b s
  | .fcleF32 m a b => Sys2Proof.Machine.execFcleF32 m a b s
  | .fcgtF32 m a b => Sys2Proof.Machine.execFcgtF32 m a b s
  | .fcgeF32 m a b => Sys2Proof.Machine.execFcgeF32 m a b s
  | .fcunF32 m a b => Sys2Proof.Machine.execFcunF32 m a b s
  | .fcordF32 m a b => Sys2Proof.Machine.execFcordF32 m a b s
  | .fminF32 m d a b => Sys2Proof.Machine.execFminF32 m d a b s
  | .fmaxF32 m d a b => Sys2Proof.Machine.execFmaxF32 m d a b s
  | .fabsF32 m d a => Sys2Proof.Machine.execFabsF32 m d a s
  | .fnegF32 m d a => Sys2Proof.Machine.execFnegF32 m d a s
  | .fcopysignF32 m d a b => Sys2Proof.Machine.execFcopysignF32 m d a b s
  | .fclassF32 m d a => Sys2Proof.Machine.execFclassF32 m d a s
  | .fexfF32 m d a rm => Sys2Proof.Machine.execFexfF32 m d a rm s
  | .flog2F32 m d a rm => Sys2Proof.Machine.execFlog2F32 m d a rm s
  | .frcpF32 m d a rm => Sys2Proof.Machine.execFrcpF32 m d a rm s
  | .frsqrtF32 m d a rm => Sys2Proof.Machine.execFrsqrtF32 m d a rm s
  | .frintF32 m d a rm => Sys2Proof.Machine.execFrintF32 m d a rm s
  | .cvtF32I32 m d a rm => Sys2Proof.Machine.execCvtF32I32 m d a rm s
  | .cvtF32N32 m d a rm => Sys2Proof.Machine.execCvtF32N32 m d a rm s
  | .cvtI32F32 m d a rm => Sys2Proof.Machine.execCvtI32F32 m d a rm s
  | .cvtN32F32 m d a rm => Sys2Proof.Machine.execCvtN32F32 m d a rm s
  | .cvtF16F32 m d a rm => Sys2Proof.Machine.execCvtF16F32 m d a rm s
  | .cvtBf16F32 m d a rm => Sys2Proof.Machine.execCvtBf16F32 m d a rm s
  | .cvtE4m3F32 m d a sat rm => Sys2Proof.Machine.execCvtE4m3F32 m d a sat rm s
  | .cvtE5m2F32 m d a sat rm => Sys2Proof.Machine.execCvtE5m2F32 m d a sat rm s
  | .cvtF32F16 m d a => Sys2Proof.Machine.execCvtF32F16 m d a s
  | .cvtF32Bf16 m d a => Sys2Proof.Machine.execCvtF32Bf16 m d a s
  | .cvtF32E4m3 m d a => Sys2Proof.Machine.execCvtF32E4m3 m d a s
  | .cvtF32E5m2 m d a => Sys2Proof.Machine.execCvtF32E5m2 m d a s
  | .cvtF32I64 m d a rm => Sys2Proof.Machine.execCvtF32I64 m d a rm s
  | .cvtI64F32 m d a rm => Sys2Proof.Machine.execCvtI64F32 m d a rm s
  | .pack6 m d a => Sys2Proof.Machine.execPack6 m d a s
  | .unpack6 m d a k => Sys2Proof.Machine.execUnpack6 m d a k s
  | .fdig m d a => Sys2Proof.Machine.execFdig m d a s
  | .fmean m d a => Sys2Proof.Machine.execFmean m d a s
  | .sibget m d a n => Sys2Proof.Machine.execSibget m d a n s
  | .sibset m d a n => Sys2Proof.Machine.execSibset m d a n s
  | .krnd m d a w => Sys2Proof.Machine.execKrnd m d a w s
  | .act m d a b => Sys2Proof.Machine.execAct m d a b s
  | .mseaMax m d a b => Sys2Proof.Machine.execMseaMax m d a b s
  | .mseaAcc m d a b => Sys2Proof.Machine.execMseaAcc m d a b s
  | .shfl m d a b mask => Sys2Proof.Machine.execShfl m d a b mask s
  | .voteAny m d a mask => Sys2Proof.Machine.execVoteAny m d a mask s
  | .voteAll m d a mask => Sys2Proof.Machine.execVoteAll m d a mask s
  | .voteBallot m d a mask => Sys2Proof.Machine.execVoteBallot m d a mask s
  | .matchN32 m d a mask => Sys2Proof.Machine.execMatchN32 m d a mask s
  | .matchN64 m d a mask => Sys2Proof.Machine.execMatchN64 m d a mask s
  | .redOF32 m d a mask => Sys2Proof.Machine.execRedOF32 m d a mask s
  | .redAddN32 m d a mask => Sys2Proof.Machine.execRedAddN32 m d a mask s
  | .redMinI32 m d a mask => Sys2Proof.Machine.execRedMinI32 m d a mask s
  | .redMaxI32 m d a mask => Sys2Proof.Machine.execRedMaxI32 m d a mask s
  | .redMinN32 m d a mask => Sys2Proof.Machine.execRedMinN32 m d a mask s
  | .redMaxN32 m d a mask => Sys2Proof.Machine.execRedMaxN32 m d a mask s
  | .vtos m d a b => Sys2Proof.Machine.execVtos m d a b s
  | .ldGN8 m d a imm => Sys2Proof.Machine.execLdGN8 m d a imm s
  | .ldGI8 m d a imm => Sys2Proof.Machine.execLdGI8 m d a imm s
  | .ldGN16 m d a imm => Sys2Proof.Machine.execLdGN16 m d a imm s
  | .ldGI16 m d a imm => Sys2Proof.Machine.execLdGI16 m d a imm s
  | .ldGN32 m d a imm => Sys2Proof.Machine.execLdGN32 m d a imm s
  | .ldGF32 m d a imm => Sys2Proof.Machine.execLdGF32 m d a imm s
  | .ldGF16 m d a imm => Sys2Proof.Machine.execLdGF16 m d a imm s
  | .ldGBf16 m d a imm => Sys2Proof.Machine.execLdGBf16 m d a imm s
  | .ldGN64 m d a imm => Sys2Proof.Machine.execLdGN64 m d a imm s
  | .stGN8 m d a imm => Sys2Proof.Machine.execStGN8 m d a imm s
  | .stGN16 m d a imm => Sys2Proof.Machine.execStGN16 m d a imm s
  | .stGN32 m d a imm => Sys2Proof.Machine.execStGN32 m d a imm s
  | .stGF32 m d a imm => Sys2Proof.Machine.execStGF32 m d a imm s
  | .stGF16 m d a imm => Sys2Proof.Machine.execStGF16 m d a imm s
  | .stGBf16 m d a imm => Sys2Proof.Machine.execStGBf16 m d a imm s
  | .stGN64 m d a imm => Sys2Proof.Machine.execStGN64 m d a imm s
  | .ldSN8 m d a imm => Sys2Proof.Machine.execLdSN8 m d a imm s
  | .ldSI8 m d a imm => Sys2Proof.Machine.execLdSI8 m d a imm s
  | .ldSN16 m d a imm => Sys2Proof.Machine.execLdSN16 m d a imm s
  | .ldSI16 m d a imm => Sys2Proof.Machine.execLdSI16 m d a imm s
  | .ldSN32 m d a imm => Sys2Proof.Machine.execLdSN32 m d a imm s
  | .ldSF32 m d a imm => Sys2Proof.Machine.execLdSF32 m d a imm s
  | .ldSF16 m d a imm => Sys2Proof.Machine.execLdSF16 m d a imm s
  | .ldSBf16 m d a imm => Sys2Proof.Machine.execLdSBf16 m d a imm s
  | .ldSN64 m d a imm => Sys2Proof.Machine.execLdSN64 m d a imm s
  | .stSN8 m d a imm => Sys2Proof.Machine.execStSN8 m d a imm s
  | .stSN16 m d a imm => Sys2Proof.Machine.execStSN16 m d a imm s
  | .stSN32 m d a imm => Sys2Proof.Machine.execStSN32 m d a imm s
  | .stSF32 m d a imm => Sys2Proof.Machine.execStSF32 m d a imm s
  | .stSF16 m d a imm => Sys2Proof.Machine.execStSF16 m d a imm s
  | .stSBf16 m d a imm => Sys2Proof.Machine.execStSBf16 m d a imm s
  | .stSN64 m d a imm => Sys2Proof.Machine.execStSN64 m d a imm s
  | .atomGAddN32 m d a b => Sys2Proof.Machine.execAtomGAddN32 m d a b s
  | .atomGAddN64 m d a b => Sys2Proof.Machine.execAtomGAddN64 m d a b s
  | .atomGAddF32 m d a b => Sys2Proof.Machine.execAtomGAddF32 m d a b s
  | .atomGMinI32 m d a b => Sys2Proof.Machine.execAtomGMinI32 m d a b s
  | .atomGMinN32 m d a b => Sys2Proof.Machine.execAtomGMinN32 m d a b s
  | .atomGMaxI32 m d a b => Sys2Proof.Machine.execAtomGMaxI32 m d a b s
  | .atomGMaxN32 m d a b => Sys2Proof.Machine.execAtomGMaxN32 m d a b s
  | .atomGAndB32 m d a b => Sys2Proof.Machine.execAtomGAndB32 m d a b s
  | .atomGOrB32 m d a b => Sys2Proof.Machine.execAtomGOrB32 m d a b s
  | .atomGXorB32 m d a b => Sys2Proof.Machine.execAtomGXorB32 m d a b s
  | .atomGExchN32 m d a b => Sys2Proof.Machine.execAtomGExchN32 m d a b s
  | .atomGExchN64 m d a b => Sys2Proof.Machine.execAtomGExchN64 m d a b s
  | .atomGCasN32 m d a b => Sys2Proof.Machine.execAtomGCasN32 m d a b s
  | .atomGCasN64 m d a b => Sys2Proof.Machine.execAtomGCasN64 m d a b s
  | .atomnGAddN32 m a b => Sys2Proof.Machine.execAtomnGAddN32 m a b s
  | .atomnGAddN64 m a b => Sys2Proof.Machine.execAtomnGAddN64 m a b s
  | .atomnGAddF32 m a b => Sys2Proof.Machine.execAtomnGAddF32 m a b s
  | .atomnGMinI32 m a b => Sys2Proof.Machine.execAtomnGMinI32 m a b s
  | .atomnGMinN32 m a b => Sys2Proof.Machine.execAtomnGMinN32 m a b s
  | .atomnGMaxI32 m a b => Sys2Proof.Machine.execAtomnGMaxI32 m a b s
  | .atomnGMaxN32 m a b => Sys2Proof.Machine.execAtomnGMaxN32 m a b s
  | .atomnGAndB32 m a b => Sys2Proof.Machine.execAtomnGAndB32 m a b s
  | .atomnGOrB32 m a b => Sys2Proof.Machine.execAtomnGOrB32 m a b s
  | .atomnGXorB32 m a b => Sys2Proof.Machine.execAtomnGXorB32 m a b s
  | .atomSAddN32 m d a b => Sys2Proof.Machine.execAtomSAddN32 m d a b s
  | .atomSAddN64 m d a b => Sys2Proof.Machine.execAtomSAddN64 m d a b s
  | .atomSAddF32 m d a b => Sys2Proof.Machine.execAtomSAddF32 m d a b s
  | .atomSMinI32 m d a b => Sys2Proof.Machine.execAtomSMinI32 m d a b s
  | .atomSMinN32 m d a b => Sys2Proof.Machine.execAtomSMinN32 m d a b s
  | .atomSMaxI32 m d a b => Sys2Proof.Machine.execAtomSMaxI32 m d a b s
  | .atomSMaxN32 m d a b => Sys2Proof.Machine.execAtomSMaxN32 m d a b s
  | .atomSAndB32 m d a b => Sys2Proof.Machine.execAtomSAndB32 m d a b s
  | .atomSOrB32 m d a b => Sys2Proof.Machine.execAtomSOrB32 m d a b s
  | .atomSXorB32 m d a b => Sys2Proof.Machine.execAtomSXorB32 m d a b s
  | .atomSExchN32 m d a b => Sys2Proof.Machine.execAtomSExchN32 m d a b s
  | .atomSExchN64 m d a b => Sys2Proof.Machine.execAtomSExchN64 m d a b s
  | .atomSCasN32 m d a b => Sys2Proof.Machine.execAtomSCasN32 m d a b s
  | .atomSCasN64 m d a b => Sys2Proof.Machine.execAtomSCasN64 m d a b s
  | .faddF32 m rm d a b => Sys2Proof.Machine.execFaddF32 m rm d a b s
  | .fsubF32 m rm d a b => Sys2Proof.Machine.execFsubF32 m rm d a b s
  | .fmulF32 m rm d a b => Sys2Proof.Machine.execFmulF32 m rm d a b s
  | .fdivF32 m rm d a b => Sys2Proof.Machine.execFdivF32 m rm d a b s
  | .fsqrtF32 m rm d a => Sys2Proof.Machine.execFsqrtF32 m rm d a s
  | .fexpiF32 m rm d a b => Sys2Proof.Machine.execFexpiF32 m rm d a b s
  | .ffmaF32 m rm d a b c => Sys2Proof.Machine.execFfmaF32 m rm d a b c s
  | .ffmsF32 m rm d a b c => Sys2Proof.Machine.execFfmsF32 m rm d a b c s
  | .fnmaF32 m rm d a b c => Sys2Proof.Machine.execFnmaF32 m rm d a b c s
  | .fnmsF32 m rm d a b c => Sys2Proof.Machine.execFnmsF32 m rm d a b c s
  | .ldD m d a => Sys2Proof.Machine.execLdD m d a s
  | .stD m c a b => Sys2Proof.Machine.execStD m c a b s
  | .dadd m a b => Sys2Proof.Machine.execDadd m a b s
  | .dcls m c a => Sys2Proof.Machine.execDcls m c a s
  | .armS m a b => Sys2Proof.Machine.execArmS m a b s
  | .vpin m a => Sys2Proof.Machine.execVpin m a s
  | .vunpin m => Sys2Proof.Machine.execVunpin m s
  | .vread m d => Sys2Proof.Machine.execVread m d s
  | .prefG m a => Sys2Proof.Machine.execPrefG m a s
  | .tdesc m x y z orig base => Sys2Proof.Machine.execTdesc m x y z orig base s
  | .mload m x y => Sys2Proof.Machine.execMload m x y s
  | .tturn m x y => Sys2Proof.Machine.execTturn m x y s
  | .mma m x y z narrow clear => Sys2Proof.Machine.execMma m x y z narrow clear s
  | .mmaSc m x y z narrow clear => Sys2Proof.Machine.execMmaSc m x y z narrow clear s
  | .mmaPn m x y z narrow clear => Sys2Proof.Machine.execMmaPn m x y z narrow clear s
  | .mstore m x sat => Sys2Proof.Machine.execMstore m x sat s
  | .ecopy m x y z eng => Sys2Proof.Machine.execEcopy m x y z eng s
  | .egath m x y z => Sys2Proof.Machine.execEgath m x y z s
  | .escat m x y z => Sys2Proof.Machine.execEscat m x y z s
  | .ecoll m x y z eng => Sys2Proof.Machine.execEcoll m x y z eng s
  | .publish m x => Sys2Proof.Machine.execPublish m x s
  | .eseqMilepost m x eng => Sys2Proof.Machine.execEseqMilepost m x eng s
  | .eseqLast m x eng => Sys2Proof.Machine.execEseqLast m x eng s
  | .ewait m x eng => Sys2Proof.Machine.execEwait m x eng s
  | .optstep m x y => Sys2Proof.Machine.execOptstep m x y s
  | .dsweep m x eng => Sys2Proof.Machine.execDsweep m x eng s
  | .barrierArrive wave => Sys2Proof.Machine.execBarrierArrive wave s
  | .treeBarrierPhaseComplete launch plat unit => Sys2Proof.Machine.execTreeBarrierPhaseComplete launch plat unit s
  | .waveSlotFree wave => Sys2Proof.Machine.execWaveSlotFree wave s
  | .resultArrival wave id => Sys2Proof.Machine.execResultArrival wave id s
  | .storePerformed wave id => Sys2Proof.Machine.execStorePerformed wave id s
  | .atomicPerformed wave id => Sys2Proof.Machine.execAtomicPerformed wave id s
  | .writeMadeVisible die id => Sys2Proof.Machine.execWriteMadeVisible die id s
  | .xacqGrant core quad => Sys2Proof.Machine.execXacqGrant core quad s
  | .deadlockTrap core => Sys2Proof.Machine.execDeadlockTrap core s
  | .vpinPin wave => Sys2Proof.Machine.execVpinPin wave s
  | .vunpinRelease wave => Sys2Proof.Machine.execVunpinRelease wave s
  | .engineCommandBegin cid ring => Sys2Proof.Machine.execEngineCommandBegin cid ring s
  | .arrive cid ring n => Sys2Proof.Machine.execArrive cid ring n s
  | .pointsThrow cid ring => Sys2Proof.Machine.execPointsThrow cid ring s
  | .milepostWrite cid ring => Sys2Proof.Machine.execMilepostWrite cid ring s
  | .followOnIssue cid ring => Sys2Proof.Machine.execFollowOnIssue cid ring s
  | .matrixQueueStart core queue => Sys2Proof.Machine.execMatrixQueueStart core queue s
  | .matrixInstructionComplete core queue => Sys2Proof.Machine.execMatrixInstructionComplete core queue s
  | .activationTableSwitch cid ring core => Sys2Proof.Machine.execActivationTableSwitch cid ring core s
  | .collectiveExecute part group cseq => Sys2Proof.Machine.execCollectiveExecute part group cseq s
  | .publishSwitch wave id => Sys2Proof.Machine.execPublishSwitch wave id s
  | .trapEntry wave => Sys2Proof.Machine.execTrapEntry wave s
  | .saveLimitExpiry wave => Sys2Proof.Machine.execSaveLimitExpiry wave s
  | .preemptionHandlerStart unit => Sys2Proof.Machine.execPreemptionHandlerStart unit s
  | .waveLeavesCore wave => Sys2Proof.Machine.execWaveLeavesCore wave s
  | .unitResume unit => Sys2Proof.Machine.execUnitResume unit s
  | .resumeRelease unit => Sys2Proof.Machine.execResumeRelease unit s
  | .codeSwapRetire cid epoch => Sys2Proof.Machine.execCodeSwapRetire cid epoch s
  | .sampleTake core => Sys2Proof.Machine.execSampleTake core s
  | .junctionClaim junction launch => Sys2Proof.Machine.execJunctionClaim junction launch s
  | .stealRequest thief launch => Sys2Proof.Machine.execStealRequest thief launch s
  | .stealReply victim thief launch => Sys2Proof.Machine.execStealReply victim thief launch s
  | .unitPlacement junction launch => Sys2Proof.Machine.execUnitPlacement junction launch s
  | .dispatch die index => Sys2Proof.Machine.execDispatch die index s
  | .priorityAging launch => Sys2Proof.Machine.execPriorityAging launch s
  | .preemptionDecision launch => Sys2Proof.Machine.execPreemptionDecision launch s
  | .timeLimitExpiry launch => Sys2Proof.Machine.execTimeLimitExpiry launch s
  | .launchComplete launch => Sys2Proof.Machine.execLaunchComplete launch s
  | .serialisedReexecutionEnd launch => Sys2Proof.Machine.execSerialisedReexecutionEnd launch s
  | .tlbFill tlb cid va => Sys2Proof.Machine.execTlbFill tlb cid va s
  | .invalidateDone id => Sys2Proof.Machine.execInvalidateDone id s
  | .heldFaultOpen part => Sys2Proof.Machine.execHeldFaultOpen part s
  | .shardedOwnerAccess dev mcid va ssn kind data => Sys2Proof.Machine.execShardedOwnerAccess dev mcid va ssn kind data s
  | .shardedOwnerAnswer wave id tid ok data => Sys2Proof.Machine.execShardedOwnerAnswer wave id tid ok data s
  | .lineEvictionError granule => Sys2Proof.Machine.execLineEvictionError granule s
  | .scrubPass pile granule unit corrected => Sys2Proof.Machine.execScrubPass pile granule unit corrected s
  | .predictiveWindow unit corrected => Sys2Proof.Machine.execPredictiveWindow unit corrected s
  | .doorbellWrite fn queue value relaxed => Sys2Proof.Machine.execDoorbellWrite fn queue value relaxed s
  | .registerWrite port reg value => Sys2Proof.Machine.execRegisterWrite port reg value s
  | .launch fn queue => Sys2Proof.Machine.execLaunch fn queue s
  | .contextCreate fn queue => Sys2Proof.Machine.execContextCreate fn queue s
  | .contextEnd fn queue => Sys2Proof.Machine.execContextEnd fn queue s
  | .preempt fn queue => Sys2Proof.Machine.execPreempt fn queue s
  | .invalidate fn queue => Sys2Proof.Machine.execInvalidate fn queue s
  | .faultResolve fn queue => Sys2Proof.Machine.execFaultResolve fn queue s
  | .codeSwap fn queue => Sys2Proof.Machine.execCodeSwap fn queue s
  | .decayTableReload fn queue => Sys2Proof.Machine.execDecayTableReload fn queue s
  | .rangeCreate fn queue => Sys2Proof.Machine.execRangeCreate fn queue s
  | .rangeDestroy fn queue => Sys2Proof.Machine.execRangeDestroy fn queue s
  | .shardSet fn queue => Sys2Proof.Machine.execShardSet fn queue s
  | .collectiveGroup fn queue => Sys2Proof.Machine.execCollectiveGroup fn queue s
  | .partition fn queue => Sys2Proof.Machine.execPartition fn queue s
  | .selfTest fn queue => Sys2Proof.Machine.execSelfTest fn queue s
  | .selfTestDone pass => Sys2Proof.Machine.execSelfTestDone pass s
  | .trunkConfigure fn queue => Sys2Proof.Machine.execTrunkConfigure fn queue s
  | .attest fn queue => Sys2Proof.Machine.execAttest fn queue s
  | .powerLimit fn queue => Sys2Proof.Machine.execPowerLimit fn queue s
  | .errorRecord fn queue => Sys2Proof.Machine.execErrorRecord fn queue s
  | .predictiveThresholds fn queue => Sys2Proof.Machine.execPredictiveThresholds fn queue s
  | .trunkFlitReceive link flow seq crcOk body => Sys2Proof.Machine.execTrunkFlitReceive link flow seq crcOk body s
  | .linkDown link => Sys2Proof.Machine.execLinkDown link s
  | .exchangeTick => Sys2Proof.Machine.execExchangeTick s
  | .tickLoss => Sys2Proof.Machine.execTickLoss s
  | .coldReset verified => Sys2Proof.Machine.execColdReset verified s
  | .deviceReset => Sys2Proof.Machine.execDeviceReset s
  | .partitionReset part => Sys2Proof.Machine.execPartitionReset part s
  | .wipeComplete => Sys2Proof.Machine.execWipeComplete s
  | .thermalRequest => Sys2Proof.Machine.execThermalRequest s
  | .thermalWithdraw => Sys2Proof.Machine.execThermalWithdraw s
  | .lcbufWrite byte => Sys2Proof.Machine.execLcbufWrite byte s
  | .lcApply => Sys2Proof.Machine.execLcApply s
  | .lcDiscard => Sys2Proof.Machine.execLcDiscard s
  | .clockLower => Sys2Proof.Machine.execClockLower s
  | .clockRaise => Sys2Proof.Machine.execClockRaise s
  | .linkRetrain unit below => Sys2Proof.Machine.execLinkRetrain unit below s
  | .pcieAtomicop fn addr op size operand => Sys2Proof.Machine.execPcieAtomicop fn addr op size operand s
  | .instructionFetch wave tid => Sys2Proof.Machine.execInstructionFetch wave tid s

end Sys2Proof.Machine
end

