-- ==== Sys2Proof/Certificates/Slice0/Asked.lean ====
section
/-! DEFINITION. A request at the head of a host queue, and how its answer leaves the device, as the statements put it (15
R438, R440, R466). -/

namespace Sys2Proof.Terms

open Sys2Proof.Machine

/-- Entry `v` stands at the head of a queue, may be read, and no request of the queue is under way (15 R440). -/
structure Arrived (s : State) (fn queue v : Nat) (f : Func) (q : Queue) : Prop where
  func : mget s.funcs fn = some f
  queue : f.queues[queue]? = some q
  answers : fnAnswers s f = true
  size : 4 ≤ q.qlog ∧ q.qlog ≤ 12
  open_ : q.qerr = false
  some_ : q.head ≠ q.tail
  idle : q.cur = none
  reach : fnReach s fn (q.qbase + 64 * q.head) 64 = true
  entry : ∃ bs, sysRead s (q.qbase + 64 * q.head) 64 = some bs ∧ v = ofBytes bs

/-- A well-formed entry with request code `opc` has arrived (15 R438, R439). -/
structure Asks (s : State) (fn queue v opc : Nat) : Prop where
  arrived : ∃ f q, Arrived s fn queue v f q
  code : (reqOf fn queue v).opc = opc
  plain : (reqOf fn queue v).rsv = 0

/-- Request `v` with code `opc` is under way in its queue. -/
structure UnderWay (s : State) (fn queue v opc : Nat) : Prop where
  head : ∃ f q, mget s.funcs fn = some f ∧ f.queues[queue]? = some q ∧ fnAnswers s f = true ∧ 4 ≤ q.qlog ∧ q.qlog ≤ 12 ∧
    q.qerr = false ∧ q.head ≠ q.tail ∧ q.cur = some v
  code : (reqOf fn queue v).opc = opc

/-- The request is complete with a status, in the state that its effect leaves (15 R438, R440). -/
def answered (t : State) (fn queue v status : Nat) : State := finishRequest (takeReq t fn queue v) fn queue status

/-- The steps that take up a request: queue, code (0x09 with its bit 63), and whether PF0 alone submits it (15 R439). -/
def requestForm : Instr → Option (Nat × Nat × Kind)
  | .launch fn queue => some (fn, queue, launchKind)
  | .contextCreate fn queue => some (fn, queue, createKind)
  | .contextEnd fn queue => some (fn, queue, endKind)
  | .preempt fn queue => some (fn, queue, preemptKind)
  | .invalidate fn queue => some (fn, queue, invalKind)
  | .faultResolve fn queue => some (fn, queue, resolveKind)
  | .codeSwap fn queue => some (fn, queue, swapKind)
  | .decayTableReload fn queue => some (fn, queue, reloadKind)
  | .rangeCreate fn queue => some (fn, queue, rangeCreateKind)
  | .rangeDestroy fn queue => some (fn, queue, rangeDestroyKind)
  | .shardSet fn queue => some (fn, queue, shardKind)
  | .collectiveGroup fn queue => some (fn, queue, groupKind)
  | .partition fn queue => some (fn, queue, partitionKind)
  | .selfTest fn queue => some (fn, queue, selfTestKind)
  | .trunkConfigure fn queue => some (fn, queue, trunkKind)
  | .attest fn queue => some (fn, queue, attestKind)
  | .powerLimit fn queue => some (fn, queue, powerKind)
  | .errorRecord fn queue => some (fn, queue, errorRecordKind)
  | .predictiveThresholds fn queue => some (fn, queue, thresholdsKind)
  | _ => none

/-- The one step whose request waits for another (15 R449). -/
def waitsForTest (s : State) : Instr → Prop
  | .selfTest _ _ => s.selfTest.isSome = true
  | _ => False

end Sys2Proof.Terms
end

