-- ==== Sys2Proof/Certificates/Slice0/Terms.lean ====
section
/-! DEFINITION. The words in which the statements of this slice are put: when a word executes, what becomes of the
threads it is executed for, and the tables of results that the instruction chapters of spec/ give. -/

namespace Sys2Proof.Terms

open Sys2Proof.Machine

/-- The word at hand is executed for wave `w` and passes the checks that come before any effect (12 R377): no pending
`wimm` unless the word takes one, not forbidden to a handler (12 R374), every register block it names held (02 R70). -/
def Runs (s : State) (w : Wave) (names : List Spec) (wimm user : Bool) : Prop :=
  mget s.waves s.cur.wave = some w ∧ (s.cur.wimm.isSome = true → wimm = true) ∧
    (w.priv.isSome = true → user = false) ∧
    (w.actives s.cur.tids = [] ∨ ∀ p ∈ names, w.lacks p = false)

/-- No thread of a unit waits at a named barrier whose phase is over: concluding one wave releases no other (11 R362). -/
def NoPhaseOver (s : State) (unit : Nat) : Prop :=
  ∀ u, mget s.units unit = some u → ∀ e ∈ s.waves, e.2.unit = unit → e.2.priv = none → ∀ t ∈ e.2.threads, t.barDone s.cycle u = false

/-- Accounting of one word for a thread (02 R79, R80, R84): where it stands, its place count, its run, the cycle from which
it may issue again. `ends` says that the word acts as marked by itself; a 24th word does so anyway. -/
def Retired (wake : Nat) (ends : Bool) (next : W64) (t t' : Thread) : Prop :=
  t'.pc = next ∧ t'.hint = none ∧ t'.wimm = none ∧ t'.hnAddr = none ∧ t'.clock = t.clock + 2 ∧
    t'.marking = (ends || t.runCount + 1 == 24) ∧ t'.inRun = !(ends || t.runCount + 1 == 24) ∧
    t'.runCount = (if (ends || t.runCount + 1 == 24) = true then 0 else t.runCount + 1) ∧ t'.wake = wake

/-- A thread's identity, section, siding and digest stay. -/
def SameBody (t t' : Thread) : Prop :=
  t'.lidx = t.lidx ∧ t'.cohort = t.cohort ∧ t'.sec = t.sec ∧ t'.siding = t.siding ∧ t'.digest = t.digest ∧
    t'.folds = t.folds

/-- What no ordinary word changes of a thread. -/
def SameThread (t t' : Thread) : Prop := SameBody t t' ∧ t'.st = t.st ∧ t'.hold = t.hold

/-- Registers, index and results owed stay, and the window but for a run's end (02 R60, R61). -/
def SameValues (t t' : Thread) : Prop :=
  t'.regs = t.regs ∧ t'.opidx = t.opidx ∧ t'.owed = t.owed ∧ t'.win = if t'.marking then [] else t.win

/-- Register copy `key` (4 × specifier + sibling) after a result of `vals`, one value for each sibling, in register `d`
or the pair that begins there (02 R57, R58, R62): specifiers from 0x68 on name no register. -/
def cellAfter (d : Spec) (wide : Bool) (vals : List Nat) (key : Nat) (old : Cell) : Cell :=
  if 0x68 ≤ d.toNat then old
  else if wide = true ∧ key / 4 = d.toNat + 1 then
    (vals[key % 4]?.map (fun v => Cell.val (BitVec.ofNat 32 (v / 2 ^ 32)))).getD old
  else if key / 4 = d.toNat then
    (vals[key % 4]?.map (fun v => Cell.val (BitVec.ofNat 32 v))).getD old
  else old

/-- A thread's register copy. -/
def cell (t : Thread) (key : Nat) : Cell := zget (Cell.val 0#32) t.regs key

/-- A vector instruction: its mark, destination, the specifiers it names, whether the result is 64 bits, whether it takes
a wide immediate, its latency and rounding count (07 R252), and its results: a value for each sibling and flags. -/
structure VecForm where
  marked : Bool
  dest : Spec
  names : List Spec
  wide : Bool
  wimm : Bool
  lat : Nat
  count : Nat
  result : State → Wave → Nat → Thread → List Nat × Nat

/-- The flags that the results of the active packed threads raise together. -/
def VecForm.flags (r : VecForm) (s : State) (w : Wave) : Nat :=
  (w.actives s.cur.tids).foldl
    (fun a n => a ||| ((w.thread n).map (fun t => (r.result s w n t).2)).getD 0) 0

/-- What a packed thread becomes: an active one receives the result, in the register and in l0, and its index advances
(07 R249, R250; 02 R60, R78); an inactive one shifts its window only (02 R63). -/
def VecThread (s : State) (w : Wave) (r : VecForm) (n : Nat) (t t' : Thread) : Prop :=
  Retired (s.cycle + 2) r.marked (s.cur.addr + 4) t t' ∧ SameThread t t' ∧ t'.owed = t.owed ∧
    (if n ∈ w.actives s.cur.tids then
      let v := (r.result s w n t).1
      t'.opidx = t.opidx + BitVec.ofNat 64 r.count ∧
        (∀ key, cell t' key = cellAfter r.dest r.wide v key (cell t key)) ∧
        t'.win = (if t'.marking then [] else (⟨v.map (BitVec.ofNat 64), r.wide, t.clock + r.lat⟩ :: t.win).take 8)
    else
      t'.opidx = t.opidx ∧ t'.regs = t.regs ∧ t'.win = if t'.marking then [] else (undefWin :: t.win).take 8)

/-- The threads of `w'` are those of `w`, each packed one changed as `P` says, the others as they were. -/
def Threads (s : State) (w w' : Wave) (P : Nat → Thread → Thread → Prop) : Prop :=
  w'.threads.length = w.threads.length ∧
    ∀ n t, w.thread n = some t → ∃ t', w'.thread n = some t' ∧ (if n ∈ s.cur.tids then P n t t' else t' = t)

/-- A packed thread makes its run exceed 24 instructions with a word that does not act as marked by itself (02 R80). -/
def spills (s : State) (w : Wave) (ends : Bool) : Bool :=
  w.numbered.any (fun p => s.cur.tids.contains p.1 && (!ends && p.2.runCount + 1 == 24))

/-- The instability trap that the results raise, if a condition met is enabled (03 R112). -/
def VecForm.trap (r : VecForm) (s : State) (w : Wave) : List Cause :=
  let of (n : Nat) : Nat := ((w.thread n).map (fun t => (r.result s w n t).2)).getD 0
  let met := (w.actives s.cur.tids).filter (fun n => of n / 32 % 8 != 0)
  let all := met.foldl (fun a n => a ||| of n) 0 / 32 % 8
  if all * 32 &&& enabledConds w.nctl == 0 then []
  else [⟨cInstability, s.cur.addr + 4, 0#64, 0#32, all, maskOf met⟩]

/-- What a fixed-latency vector instruction does to the wave: its threads, the flags of R76, RUNX, and at user level the
instability trap becomes pending. Nothing else of the wave changes. -/
def VecEffect (s : State) (w w' : Wave) (r : VecForm) : Prop :=
  Threads s w w' (VecThread s w r) ∧
    w' = { w with
      threads := w'.threads, runx := w.runx || spills s w r.marked, aflag := w.aflag ||| BitVec.ofNat 32 (r.flags s w),
      causes := w.causes ++ r.trap s w }

/-- The register keys that a result in `d` is owed to; from 0x68 on there is none (02 R82). -/
def owedKeys (d : Spec) (wide : Bool) : List Nat :=
  if 0x68 ≤ d.toNat then [] else if wide then [4 * d.toNat, 4 * (d.toNat + 1)] else [4 * d.toNat]

/-- What a packed thread becomes at an instruction whose result arrives later (02 R60, R81, R82): its window shifts with
an undefined entry, an active thread's destination is owed, and no register changes yet. -/
def LongThread (s : State) (w : Wave) (r : VecForm) (n : Nat) (t t' : Thread) : Prop :=
  Retired (s.cycle + 2) r.marked (s.cur.addr + 4) t t' ∧ SameThread t t' ∧ t'.regs = t.regs ∧
    (t'.win = if t'.marking then [] else (undefWin :: t.win).take 8) ∧
    (if n ∈ w.actives s.cur.tids then
      t'.opidx = t.opidx + BitVec.ofNat 64 r.count ∧ t'.owed = owedKeys r.dest r.wide ++ t.owed
    else t'.opidx = t.opidx ∧ t'.owed = t.owed)

/-- The result on its way to the active packed threads: its number, values and flags, and the register it is for. -/
def VecForm.access (r : VecForm) (s : State) (w : Wave) : List Access :=
  if w.actives s.cur.tids = [] then []
  else
    [{ id := s.nextId, op := .result (r.flags s w),
       lanes := (w.actives s.cur.tids).map fun n =>
         ⟨n, 0, .single 0, ((w.thread n).map (fun t => (r.result s w n t).1)).getD []⟩,
       dest := if 0x68 ≤ r.dest.toNat then none else some (4 * r.dest.toNat, r.wide),
       addr := s.cur.addr, word := s.cur.word, after := [], performed := true, user := w.priv.isNone, folds := [],
       slot := none }]

/-- What a long-latency vector instruction does to the wave. -/
def LongEffect (s : State) (w w' : Wave) (r : VecForm) : Prop :=
  Threads s w w' (LongThread s w r) ∧
    w' = { w with
      threads := w'.threads, runx := w.runx || spills s w r.marked, accs := w.accs ++ r.access s w,
      causes := w.causes ++ r.trap s w }

end Sys2Proof.Terms
end

