-- ==== Sys2Proof/Certificates/Slice0/Tables.lean ====
section
/-! DEFINITION. The result tables of the instruction chapters (07 R254-R278), as the statements use them. -/

namespace Sys2Proof.Terms

open Sys2Proof.Machine

/-- A 32-bit operand of sibling `k`, and a 64-bit one (07 R249). -/
def rd32 (s : State) (w : Wave) (n : Nat) (t : Thread) (k port : Nat) (p : Spec) : W32 :=
  BitVec.ofNat 32 (readOp s w n t k port p false)
def rd64 (s : State) (w : Wave) (n : Nat) (t : Thread) (k port : Nat) (p : Spec) : W64 :=
  BitVec.ofNat 64 (readOp s w n t k port p true)

/-- The same in every sibling of the mode (07 R250). -/
def each (w : Wave) (f : Nat → Nat) : List Nat × Nat := (w.sibs.map f, 0)

/-- A V3 instruction of 32-bit operands and result. -/
def v32 (m : Bool) (d a b : Spec) (f : W32 → W32 → W32) : Option VecForm :=
  some ⟨m, d, [d, a, b], false, false, 2, 0,
    fun s w n t => each w fun k => (f (rd32 s w n t k 1 a) (rd32 s w n t k 2 b)).toNat⟩

/-- A V3 instruction of one 32-bit operand. -/
def v32u (m : Bool) (d a : Spec) (f : W32 → W32) : Option VecForm :=
  some ⟨m, d, [d, a], false, false, 2, 0, fun s w n t => each w fun k => (f (rd32 s w n t k 1 a)).toNat⟩

/-- The 32-bit immediate of a VI word (05 R178). -/
def imm32 : Option Nat → BitVec 7 → W32
  | some p, imm => BitVec.ofNat 32 (p * 128 + imm.toNat)
  | none, imm => imm.signExtend 32

/-- A VI instruction: the second operand is the immediate, wide or sign-extended from bit 6 (05 R178). -/
def v32i (m : Bool) (d a : Spec) (imm : BitVec 7) (f : W32 → W32 → W32) : Option VecForm :=
  some ⟨m, d, [d, a], false, true, 2, 0,
    fun s w n t => each w fun k => (f (rd32 s w n t k 1 a) (imm32 s.cur.wimm imm)).toNat⟩

/-- The 64-bit immediate of a VI word (07 R254). -/
def imm64 : Option Nat → BitVec 7 → W64
  | some p, imm => (BitVec.ofNat 32 (p * 128 + imm.toNat)).signExtend 64
  | none, imm => imm.signExtend 64

/-- A V3 instruction of 64-bit operands and result. -/
def v64 (m : Bool) (d a b : Spec) (f : W64 → W64 → W64) : Option VecForm :=
  some ⟨m, d, [d, a, b], true, false, 6, 0,
    fun s w n t => each w fun k => (f (rd64 s w n t k 1 a) (rd64 s w n t k 2 b)).toNat⟩

/-- A 64-bit shift, by a 32-bit count. -/
def v64s (m : Bool) (d a b : Spec) (f : W64 → Nat → W64) : Option VecForm :=
  some ⟨m, d, [d, a, b], true, false, 6, 0,
    fun s w n t => each w fun k => (f (rd64 s w n t k 1 a) ((rd32 s w n t k 2 b).toNat % 64)).toNat⟩

/-- A signed value clamped to 32 bits. -/
def clampS (i : Int) : W32 := BitVec.ofInt 32 (max (-(2 ^ 31)) (min (2 ^ 31 - 1) i))

/-- The field of R255, from a value already extended to 64 bits. -/
def field (x : W64) (b : W32) : (n : Nat) × BitVec n :=
  ⟨min (b.extractLsb' 8 6).toNat 32, x.extractLsb' (b.toNat % 32) (min (b.extractLsb' 8 6).toNat 32)⟩

/-- A select (07 R257): the wave's condition bit of the thread as it stands when the group issues. -/
def choose (m : Bool) (d a b : Spec) (wide : Bool) : Option VecForm :=
  some ⟨m, d, [d, a, b], wide, false, 2, 0,
    fun s w n t => each w fun k =>
      if cmBit s w n then readOp s w n t k 1 a wide else readOp s w n t k 2 b wide⟩

/-- Integer, bit and select instructions (07 R252, R254, R255, R257). -/
def intForm : Instr → Option VecForm
  | .addN32 m d a b => v32 m d a b (· + ·)
  | .subN32 m d a b => v32 m d a b (· - ·)
  | .mulN32 m d a b => v32 m d a b (· * ·)
  | .mulhI32 m d a b => v32 m d a b fun x y => BitVec.ofInt 32 (x.toInt * y.toInt / 2 ^ 32)
  | .mulhN32 m d a b => v32 m d a b fun x y => BitVec.ofNat 32 (x.toNat * y.toNat / 2 ^ 32)
  | .andB32 m d a b => v32 m d a b (· &&& ·)
  | .orB32 m d a b => v32 m d a b (· ||| ·)
  | .xorB32 m d a b => v32 m d a b (· ^^^ ·)
  | .shlB32 m d a b => v32 m d a b fun x y => x <<< (y.toNat % 32)
  | .shrB32 m d a b => v32 m d a b fun x y => x >>> (y.toNat % 32)
  | .sarB32 m d a b => v32 m d a b fun x y => x.sshiftRight (y.toNat % 32)
  | .minI32 m d a b => v32 m d a b fun x y => if y.slt x then y else x
  | .minN32 m d a b => v32 m d a b fun x y => if y.ult x then y else x
  | .maxI32 m d a b => v32 m d a b fun x y => if x.slt y then y else x
  | .maxN32 m d a b => v32 m d a b fun x y => if x.ult y then y else x
  | .addsI32 m d a b => v32 m d a b fun x y => clampS (x.toInt + y.toInt)
  | .subsI32 m d a b => v32 m d a b fun x y => clampS (x.toInt - y.toInt)
  | .addN32Imm m d a i => v32i m d a i (· + ·)
  | .andB32Imm m d a i => v32i m d a i (· &&& ·)
  | .orB32Imm m d a i => v32i m d a i (· ||| ·)
  | .xorB32Imm m d a i => v32i m d a i (· ^^^ ·)
  | .shlB32Imm m d a i => v32i m d a i fun x y => x <<< (y.toNat % 32)
  | .shrB32Imm m d a i => v32i m d a i fun x y => x >>> (y.toNat % 32)
  | .sarB32Imm m d a i => v32i m d a i fun x y => x.sshiftRight (y.toNat % 32)
  | .rsubN32 m d a i => v32i m d a i fun x y => y - x
  | .minI32Imm m d a i => v32i m d a i fun x y => if y.slt x then y else x
  | .maxI32Imm m d a i => v32i m d a i fun x y => if x.slt y then y else x
  | .movB32 m d i => v32i m d 0x00#7 i fun _ y => y
  | .movB64 m d i =>
    some ⟨m, d, [d], true, true, 2, 0, fun s w _ _ => each w fun _ => (imm64 s.cur.wimm i).toNat⟩
  | .addN64Imm m d a i =>
    some ⟨m, d, [d, a], true, true, 6, 0,
      fun s w n t => each w fun k => (rd64 s w n t k 1 a + imm64 s.cur.wimm i).toNat⟩
  | .addN64 m d a b => v64 m d a b (· + ·)
  | .subN64 m d a b => v64 m d a b (· - ·)
  | .mulN64 m d a b => v64 m d a b (· * ·)
  | .andB64 m d a b => v64 m d a b (· &&& ·)
  | .orB64 m d a b => v64 m d a b (· ||| ·)
  | .xorB64 m d a b => v64 m d a b (· ^^^ ·)
  | .shlB64 m d a b => v64s m d a b fun x c => x <<< c
  | .shrB64 m d a b => v64s m d a b fun x c => x >>> c
  | .sarB64 m d a b => v64s m d a b fun x c => x.sshiftRight c
  | .popcB32 m d a => v32u m d a fun x => BitVec.ofNat 32 ((List.range 32).filter x.getLsbD).length
  | .clzB32 m d a => v32u m d a fun x => if x = 0#32 then 32#32 else BitVec.ofNat 32 (31 - x.toNat.log2)
  | .brevB32 m d a => v32u m d a BitVec.reverse
  | .bfeN32 m d a b => v32 m d a b fun x y => (field (x.setWidth 64) y).2.setWidth 32
  | .bfeI32 m d a b => v32 m d a b fun x y => (field (x.signExtend 64) y).2.signExtend 32
  | .mulwN32 m d a b =>
    some ⟨m, d, [d, a, b], true, false, 6, 0,
      fun s w n t => each w fun k => (rd32 s w n t k 1 a).toNat * (rd32 s w n t k 2 b).toNat⟩
  | .selB32 m d a b => choose m d a b false
  | .selB64 m d a b => choose m d a b true
  | _ => none

/-- The bits of one operand in sibling `k`, and the FP32 value that they hold. -/
def fbits (s : State) (w : Wave) (n : Nat) (t : Thread) (port : Nat) (p : Spec) (k : Nat) : Nat :=
  readOp s w n t k port p false
def fval (s : State) (w : Wave) (n : Nat) (t : Thread) (port : Nat) (p : Spec) (k : Nat) : FV :=
  fdec fp32 (fbits s w n t port p k)

/-- An operand in every sibling of the mode. -/
def all (s : State) (w : Wave) (n : Nat) (t : Thread) (port : Nat) (p : Spec) : List Nat :=
  w.sibs.map (fbits s w n t port p)

/-- Results of every sibling; the flags are those of all siblings together, and `extra` in triple mode (03 R109-R111). -/
def outs (w : Wave) (f : Nat → FRes) (extra : Nat) : List Nat × Nat :=
  (w.sibs.map fun k => (f k).bits, ((w.sibs.map f).foldl (fun n r => n ||| r.fl) 0) ||| (if w.triple then extra else 0))

/-- `RoundPoint` of an exact result into FP32, in each sibling (07 R251). -/
def rounds (s : State) (w : Wave) (t : Thread) (rm : Option RM) (f : Fmt) (sat : Bool) (ex : Nat → Exact) (k : Nat) : FRes :=
  fround f (ruleAt s w t rm k) sat (ex k)

/-- An addition of FP32: one rounding, and the cancellation check against its sources (07 R258, R260; 03 R109). -/
def sumForm (m : Bool) (rm : RM) (d : Spec) (names : List Spec)
    (srcs : State → Wave → Nat → Thread → List (List Nat)) (ex : State → Wave → Nat → Thread → Nat → Exact) :
    Option VecForm :=
  some ⟨m, d, d :: names, false, false, 6, 1, fun s w n t =>
    let f := rounds s w t (some rm) fp32 false (ex s w n t)
    outs w f (cancCond w.nctl (srcs s w n t) (w.sibs.map fun k => (f k).bits))⟩

/-- A fused multiply-add, with the signs of the product and of the addend (07 R258). -/
def fmaForm (m : Bool) (rm : RM) (d a b : Spec) (c : BitVec 4) (np nc : Bool) : Option VecForm :=
  let cs : Spec := BitVec.ofNat 7 (0x60 + c.toNat)
  sumForm m rm d [a, b, cs] (fun s w n t => [all s w n t 1 a, all s w n t 2 b, all s w n t 3 cs])
    (fun s w n t k =>
      ffma (if np then (fval s w n t 1 a k).negate else fval s w n t 1 a k) (fval s w n t 2 b k)
        (if nc then (fval s w n t 3 cs k).negate else fval s w n t 3 cs k))

/-- A function of the bits of one operand, or of two. -/
def bits1 (m : Bool) (d a : Spec) (lat : Nat) (f : Nat → FRes) : Option VecForm :=
  some ⟨m, d, [d, a], false, false, lat, 0, fun s w n t => outs w (fun k => f (fbits s w n t 1 a k)) 0⟩
def bits2 (m : Bool) (d a b : Spec) (f : Nat → Nat → FRes) : Option VecForm :=
  some ⟨m, d, [d, a, b], false, false, 2, 0,
    fun s w n t => outs w (fun k => f (fbits s w n t 1 a k) (fbits s w n t 2 b k)) 0⟩

/-- A conversion that rounds (07 R269). -/
def cvtForm (m : Bool) (d a : Spec) (wide : Bool) (f : Fmt) (sat : Bool) (rm : RM) (src : Nat → Exact) : Option VecForm :=
  some ⟨m, d, [d, a], false, false, 6, 1, fun s w n t =>
    outs w (rounds s w t (some rm) f sat fun k => src (readOp s w n t k 1 a wide)) 0⟩

/-- A float-to-integer conversion (07 R270; 03 R113): the median of the siblings in triple mode, and CDIS when they do
not all convert alike. -/
def intCvt (m : Bool) (d a : Spec) (wide : Bool) (rm : RM) (lo hi : Int) : Option VecForm :=
  some ⟨m, d, [d, a], wide, false, 6, 0, fun s w n t =>
    let v := fval s w n t 1 a
    let r := toInt (staticRule rm) lo hi (if w.triple then fmedian (v 0) (v 1) (v 2) else v 0)
    let alike := (toInt (staticRule rm) lo hi (v 0)).1 == (toInt (staticRule rm) lo hi (v 1)).1 &&
      (toInt (staticRule rm) lo hi (v 0)).1 == (toInt (staticRule rm) lo hi (v 2)).1
    (w.sibs.map fun _ => (BitVec.ofInt (if wide then 64 else 32) r.1).toNat,
      r.2 ||| (if w.triple && !alike then flCDIS else 0))⟩

/-- One value for every sibling (07 R272). -/
def uniform (m : Bool) (d a : Spec) (f : State → Wave → Nat → Thread → Nat) : Option VecForm :=
  some ⟨m, d, [d, a], false, false, 6, 0, fun s w n t => (w.sibs.map fun _ => f s w n t, 0)⟩

/-- Floating-point instructions of fixed latency, conversions, and the sibling, digit and draw instructions (07 R252,
R258-R264, R267-R273). -/
def floatForm : Instr → Option VecForm
  | .faddF32 m rm d a b =>
    sumForm m rm d [a, b] (fun s w n t => [all s w n t 1 a, all s w n t 2 b])
      (fun s w n t k => fadd (fval s w n t 1 a k) (fval s w n t 2 b k))
  | .fsubF32 m rm d a b =>
    sumForm m rm d [a, b] (fun s w n t => [all s w n t 1 a, all s w n t 2 b])
      (fun s w n t k => fadd (fval s w n t 1 a k) (fval s w n t 2 b k).negate)
  | .fmulF32 m rm d a b =>
    some ⟨m, d, [d, a, b], false, false, 6, 1, fun s w n t =>
      outs w (rounds s w t (some rm) fp32 false fun k => fmul (fval s w n t 1 a k) (fval s w n t 2 b k)) 0⟩
  | .fexpiF32 m rm d a b =>
    some ⟨m, d, [d, a, b], false, false, 6, 1, fun s w n t =>
      outs w (rounds s w t (some rm) fp32 false fun k =>
        fexpi (fval s w n t 1 a k) (BitVec.ofNat 32 (fbits s w n t 2 b k)).toInt) 0⟩
  | .ffmaF32 m rm d a b c => fmaForm m rm d a b c false false
  | .ffmsF32 m rm d a b c => fmaForm m rm d a b c false true
  | .fnmaF32 m rm d a b c => fmaForm m rm d a b c true false
  | .fnmsF32 m rm d a b c => fmaForm m rm d a b c true true
  | .fminF32 m d a b => bits2 m d a b (extreme false)
  | .fmaxF32 m d a b => bits2 m d a b (extreme true)
  | .fabsF32 m d a => bits1 m d a 2 fun x => ⟨(BitVec.ofNat 31 x).toNat, 0⟩
  | .fnegF32 m d a => bits1 m d a 2 fun x => ⟨(BitVec.ofNat 32 x ^^^ 0x80000000#32).toNat, 0⟩
  | .fcopysignF32 m d a b => bits2 m d a b fun x y =>
    ⟨((BitVec.ofNat 32 x &&& 0x7FFFFFFF#32) ||| (BitVec.ofNat 32 y &&& 0x80000000#32)).toNat, 0⟩
  | .fclassF32 m d a => bits1 m d a 2 fun x => ⟨fclass x, 0⟩
  | .frintF32 m d a rm =>
    some ⟨m, d, [d, a], false, false, 6, 1, fun s w n t =>
      outs w (fun k => frint (ruleAt s w t (some rm) k) (fbits s w n t 1 a k)) 0⟩
  | .cvtF32I32 m d a rm => cvtForm m d a false fp32 false rm fun x => exOfZ (BitVec.ofNat 32 x).toInt
  | .cvtF32N32 m d a rm => cvtForm m d a false fp32 false rm fun x => exOfZ x
  | .cvtF32I64 m d a rm => cvtForm m d a true fp32 false rm fun x => exOfZ (BitVec.ofNat 64 x).toInt
  | .cvtF16F32 m d a rm => cvtForm m d a false fp16 false rm fun x => fexact (fdec fp32 x)
  | .cvtBf16F32 m d a rm => cvtForm m d a false bf16 false rm fun x => fexact (fdec fp32 x)
  | .cvtE4m3F32 m d a sat rm => cvtForm m d a false e4m3 sat rm fun x => fexact (fdec fp32 x)
  | .cvtE5m2F32 m d a sat rm => cvtForm m d a false e5m2 sat rm fun x => fexact (fdec fp32 x)
  | .cvtF32F16 m d a => bits1 m d a 6 fun x => fround fp32 .rn false (fexact (fdec fp16 x))
  | .cvtF32Bf16 m d a => bits1 m d a 6 fun x => fround fp32 .rn false (fexact (fdec bf16 x))
  | .cvtF32E4m3 m d a => bits1 m d a 6 fun x => fround fp32 .rn false (fexact (fdec e4m3 x))
  | .cvtF32E5m2 m d a => bits1 m d a 6 fun x => fround fp32 .rn false (fexact (fdec e5m2 x))
  | .cvtI32F32 m d a rm => intCvt m d a false rm (-(2 ^ 31)) (2 ^ 31 - 1)
  | .cvtN32F32 m d a rm => intCvt m d a false rm 0 (2 ^ 32 - 1)
  | .cvtI64F32 m d a rm => intCvt m d a true rm (-(2 ^ 63)) (2 ^ 63 - 1)
  | .pack6 m d a => bits1 m d a 6 fun x =>
    ⟨((BitVec.ofNat 6 (x / 2 ^ 24)) ++ (BitVec.ofNat 6 (x / 2 ^ 16)) ++ (BitVec.ofNat 6 (x / 2 ^ 8)) ++
      (BitVec.ofNat 6 x)).toNat, 0⟩
  | .unpack6 m d a signed => bits1 m d a 6 fun x =>
    let e (i : Nat) : Byte :=
      if signed then (BitVec.ofNat 6 (x / 2 ^ (6 * i))).signExtend 8 else (BitVec.ofNat 6 (x / 2 ^ (6 * i))).setWidth 8
    ⟨(e 3 ++ e 2 ++ e 1 ++ e 0).toNat, 0⟩
  | .fdig m d a => uniform m d a fun s w n t => if w.triple then digits (all s w n t 1 a) else 24
  | .fmean m d a => uniform m d a fun s w n t =>
    if w.triple then fmean fp32 (fval s w n t 1 a 0) (fval s w n t 1 a 1) (fval s w n t 1 a 2) else fbits s w n t 1 a 0
  | .sibget m d a k => uniform m d a fun s w n t =>
    if w.triple then (if k.toNat < 3 then fbits s w n t 1 a k.toNat else 0) else fbits s w n t 1 a 0
  | .sibset m d a k =>
    some ⟨m, d, [d, a], false, false, 6, 0, fun s w n t =>
      (w.sibs.map fun j =>
        if j = k.toNat then readOp s w n t 0 1 a false else t.reg true (freeOp s n j 8) d.toNat j, 0)⟩
  | .krnd m d a word => uniform m d a fun s w n t =>
    lget 0 (rsg (seedOf s w).toNat 0xC000000000000000 (readOp s w n t 0 1 a true)) word.toNat
  | _ => none

/-- Vector instructions whose results are long-latency (07 R252, R258, R265, R266, R277, R278): the latency stands for
nothing here. -/
def longFloat : Instr → Option VecForm
  | .fdivF32 m rm d a b =>
    some ⟨m, d, [d, a, b], false, false, 0, 1, fun s w n t =>
      outs w (rounds s w t (some rm) fp32 false fun k => fdiv (fval s w n t 1 a k) (fval s w n t 2 b k))
        (idivCond (all s w n t 2 b))⟩
  | .fsqrtF32 m rm d a => root m rm d a fsqrt
  | .frcpF32 m d a rm => root m rm d a frcp
  | .frsqrtF32 m d a rm => root m rm d a frsqrt
  | .fexfF32 m d a rm => plain m rm d a fexf
  | .flog2F32 m d a rm => plain m rm d a flog2
  | .act m d a b =>
    some ⟨m, d, [d, a, b], false, false, 0, 1, fun s w n t =>
      outs w (fun k =>
        actEval (ruleAt s w t none k)
          (actRecord (actBytes s w.core w.cid (t.bank s w)) (readOp s w n t 0 2 b false % 4)) (fbits s w n t 1 a k)) 0⟩
  | .mseaMax m d a b => pair m d a b true
  | .mseaAcc m d a b => pair m d a b false
  | _ => none
where
  /-- A function of one operand that is checked as a divisor or root. -/
  root (m : Bool) (rm : RM) (d a : Spec) (op : FV → Exact) : Option VecForm :=
    some ⟨m, d, [d, a], false, false, 0, 1, fun s w n t =>
      outs w (rounds s w t (some rm) fp32 false fun k => op (fval s w n t 1 a k)) (idivCond (all s w n t 1 a))⟩
  /-- One that is not. -/
  plain (m : Bool) (rm : RM) (d a : Spec) (op : FV → Exact) : Option VecForm :=
    some ⟨m, d, [d, a], false, false, 0, 1, fun s w n t =>
      outs w (rounds s w t (some rm) fp32 false fun k => op (fval s w n t 1 a k)) 0⟩
  /-- The max-subtract-exponential-add pair on 64-bit states. -/
  pair (m : Bool) (d a b : Spec) (isMax : Bool) : Option VecForm :=
    some ⟨m, d, [d, a, b], true, false, 0, 1, fun s w n t =>
      outs w (fun k =>
        mseaSib isMax (ruleAt s w t none k) (readOp s w n t k 1 a true) (readOp s w n t k 2 b false)) 0⟩

/-- Whether thread `i` is present at this execution and named by the mask in scalar `mask` (07 R279). -/
def member (s : State) (w : Wave) (mask : BitVec 4) (i : Nat) : Bool :=
  (w.actives s.cur.tids).contains i && (readScal s w s.cur.tids 3 mask.toNat).getLsbD i

/-- The present threads that the mask names, ascending. -/
def membersOf (s : State) (w : Wave) (mask : BitVec 4) : List Nat :=
  (w.actives s.cur.tids).filter fun i => (readScal s w s.cur.tids 3 mask.toNat).getLsbD i

/-- ABSM: the mask names, below the grant, a thread that is absent (07 R279; 02 R76). -/
def absm (s : State) (w : Wave) (mask : BitVec 4) : Nat :=
  if (span 0 w.grant).any (fun i =>
    (readScal s w s.cur.tids 3 mask.toNat).getLsbD i && !(w.actives s.cur.tids).contains i) then flABSM else 0

/-- Operand `a` of thread `i`, sibling `k`. -/
def opOf (s : State) (w : Wave) (i k : Nat) (a : Spec) (wide : Bool) : Nat :=
  ((w.thread i).map (fun t => readOp s w i t k 1 a wide)).getD 0

/-- A cross-thread instruction with a per-thread result. -/
def cross (m : Bool) (d : Spec) (names : List Spec) (wide : Bool) (mask : BitVec 4)
    (f : State → Wave → Nat → Thread → Nat → Nat) : Option VecForm :=
  some ⟨m, d, d :: names, wide, false, 0, 0, fun s w n t => (w.sibs.map (f s w n t), absm s w mask)⟩

/-- The mask of the members that satisfy `p`. -/
def ballot (s : State) (w : Wave) (mask : BitVec 4) (p : Nat → Bool) : Nat :=
  (maskOf ((membersOf s w mask).filter p)).toNat

/-- Cross-thread instructions with a per-thread result (07 R279-R281). -/
def crossForm : Instr → Option VecForm
  | .shfl m d a b mask => cross m d [a, b] false mask fun s w n t k =>
    let src := readOp s w n t 0 2 b false % w.grant
    opOf s w (if member s w mask src then src else n) k a false
  | .voteAny m d a mask => cross m d [a] false mask fun s w _ _ _ =>
    if ∃ i ∈ membersOf s w mask, opOf s w i 0 a false ≠ 0 then 1 else 0
  | .voteAll m d a mask => cross m d [a] false mask fun s w _ _ _ =>
    if ∀ i ∈ membersOf s w mask, opOf s w i 0 a false ≠ 0 then 1 else 0
  | .voteBallot m d a mask =>
    if d.toNat < 0x70 then
      cross m d [a] true mask fun s w _ _ _ => ballot s w mask fun i => opOf s w i 0 a false != 0
    else none
  | .matchN32 m d a mask => cross m d [a] true mask fun s w n _ _ =>
    ballot s w mask fun i => opOf s w i 0 a false == opOf s w n 0 a false
  | .matchN64 m d a mask => cross m d [a] true mask fun s w n _ _ =>
    ballot s w mask fun i => opOf s w i 0 a true == opOf s w n 0 a true
  | .redOF32 m d a mask =>
    some ⟨m, d, [d, a], false, false, 0, 0, fun s w _ _ =>
      let r := outs w (fun k => orderedSum ((span 0 64).map fun i =>
        if member s w mask i then opOf s w i k a false else 0x80000000)) 0
      (r.1, r.2 ||| absm s w mask)⟩
  | .redAddN32 m d a mask => red m d a mask 0#32 (· + ·)
  | .redMinI32 m d a mask => red m d a mask 0x7FFFFFFF#32 fun x y => if y.slt x then y else x
  | .redMaxI32 m d a mask => red m d a mask 0x80000000#32 fun x y => if x.slt y then y else x
  | .redMinN32 m d a mask => red m d a mask 0xFFFFFFFF#32 fun x y => if y.ult x then y else x
  | .redMaxN32 m d a mask => red m d a mask 0#32 fun x y => if x.ult y then y else x
  | _ => none
where
  /-- An integer reduction over the members, per sibling, from the value that none gives. -/
  red (m : Bool) (d a : Spec) (mask : BitVec 4) (z : W32) (f : W32 → W32 → W32) : Option VecForm :=
    cross m d [a] false mask fun s w _ _ k =>
      ((membersOf s w mask).foldl (fun x i => f x (BitVec.ofNat 32 (opOf s w i k a false))) z).toNat

/-- A compare: its mark, the specifiers it names, and for a thread whether the relation holds and the flags (07 R256,
R261). -/
structure CmForm where
  marked : Bool
  names : List Spec
  holds : State → Wave → Nat → Thread → Bool × Nat

/-- An integer compare, on sibling 0 of both operands. -/
def cmp32 (m : Bool) (a b : Spec) (rel : W32 → W32 → Bool) : Option CmForm :=
  some ⟨m, [a, b], fun s w n t => (rel (rd32 s w n t 0 1 a) (rd32 s w n t 0 2 b), 0)⟩
def cmp64 (m : Bool) (a b : Spec) (rel : W64 → W64 → Bool) : Option CmForm :=
  some ⟨m, [a, b], fun s w n t => (rel (rd64 s w n t 0 1 a) (rd64 s w n t 0 2 b), 0)⟩

/-- A floating compare: the predicate in each sibling, the majority, NV for a signalling operand, and SDIS in triple mode
when the siblings differ (07 R261; 03 R110). -/
def fcmp (m : Bool) (a b : Spec) (rel : FV → FV → Bool) : Option CmForm :=
  some ⟨m, [a, b], fun s w n t =>
    let p := w.sibs.map fun k => rel (fval s w n t 1 a k) (fval s w n t 2 b k)
    (decide (p.length < 2 * p.count true),
      ((w.sibs.map fun k => nanFlag [fval s w n t 1 a k, fval s w n t 2 b k]).foldl (· ||| ·) 0) |||
        (if w.triple && p.contains true && p.contains false then flSDIS else 0))⟩

/-- Neither is NaN, and the relation holds. -/
def ord (rel : FV → FV → Bool) (x y : FV) : Bool := !anyNan [x, y] && rel x y

/-- Compares (07 R256, R261). -/
def cmForm : Instr → Option CmForm
  | .ceqN32 m a b => cmp32 m a b (· == ·)
  | .cneN32 m a b => cmp32 m a b (· != ·)
  | .cltI32 m a b => cmp32 m a b BitVec.slt
  | .cleI32 m a b => cmp32 m a b BitVec.sle
  | .cltN32 m a b => cmp32 m a b BitVec.ult
  | .cleN32 m a b => cmp32 m a b BitVec.ule
  | .ceqN64 m a b => cmp64 m a b (· == ·)
  | .cltI64 m a b => cmp64 m a b BitVec.slt
  | .cltN64 m a b => cmp64 m a b BitVec.ult
  | .fceqF32 m a b => fcmp m a b (ord feq)
  | .fcneF32 m a b => fcmp m a b fun x y => !ord feq x y
  | .fcltF32 m a b => fcmp m a b (ord flt)
  | .fcleF32 m a b => fcmp m a b (ord fun x y => !flt y x)
  | .fcgtF32 m a b => fcmp m a b (ord fun x y => flt y x)
  | .fcgeF32 m a b => fcmp m a b (ord fun x y => !flt x y)
  | .fcunF32 m a b => fcmp m a b fun x y => anyNan [x, y]
  | .fcordF32 m a b => fcmp m a b fun x y => !anyNan [x, y]
  | _ => none

end Sys2Proof.Terms
end

