-- ==== Sys2Proof/Certificates/Slice0/Words.lean ====
section
/-! DEFINITION. What scalar, control and memory words do to the wave that executes them, as the statements put it: a
shape for each kind of word and a table of the words that have it (06, 07 R281, R282, 08, 09). -/

namespace Sys2Proof.Terms

open Sys2Proof.Machine

/-- A packed thread passes the word with its values as they were. -/
def PassedThread (s : State) (ends : Bool) (_ : Nat) (t t' : Thread) : Prop :=
  Retired (s.cycle + 2) ends (s.cur.addr + 4) t t' ∧ SameThread t t' ∧ SameValues t t'

/-- A packed thread that is not exited. -/
def packed (s : State) (w : Wave) (n : Nat) : Bool := s.cur.tids.contains n && ((w.thread n).map (·.live)).getD false

/-- A scalar register of the wave. -/
def scal (w : Wave) (j : Nat) : W64 := zget 0#64 w.scal j

/-- The second operand of an SC word (06 R206): a scalar register, or the immediate, wide or sign-extended. -/
def scalX (s : State) (w : Wave) (i : Bool) (x : BitVec 7) : W64 :=
  if i then imm64 s.cur.wimm x else readScal s w s.cur.tids 2 (x.toNat % 64)

/-- A word with a result in a scalar register: its mark, whether it takes a wide immediate, whether it takes effect with
no thread active (06 R202), its destination and its result. -/
structure ScalForm where
  marked : Bool
  wimm : Bool
  always : Bool
  dest : SReg
  value : State → Wave → W64

/-- The wave after such a word: the register, unless no thread is active; nothing else of the wave changes. -/
def ScalEffect (s : State) (w w' : Wave) (r : ScalForm) : Prop :=
  Threads s w w' (PassedThread s r.marked) ∧
    (∀ j, scal w' j =
      if (r.always = true ∨ w.actives s.cur.tids ≠ []) ∧ j = r.dest.toNat then r.value s w else scal w j) ∧
    w' = { w with threads := w'.threads, runx := w.runx || spills s w r.marked, scal := w'.scal }

/-- S(SD) := op(S(SA), x). -/
def sc (m : Bool) (d a : SReg) (i : Bool) (x : BitVec 7) (op : W64 → W64 → W64) : Option ScalForm :=
  some ⟨m, i, false, d, fun s w => op (readScal s w s.cur.tids 1 a.toNat) (scalX s w i x)⟩

/-- A truth value in a scalar register. -/
def truth (b : Bool) : W64 := if b then 1#64 else 0#64

/-- Words with a scalar result at once (06 R207, R211, R212, R215, R231). A register marked P is not read at user level by
an active thread (02 R73). -/
def scalForm (s : State) (w : Wave) : Instr → Option ScalForm
  | .sadd m d a i x => sc m d a i x (· + ·)
  | .ssub m d a i x => sc m d a i x (· - ·)
  | .smul m d a i x => sc m d a i x (· * ·)
  | .smulhI64 m d a i x => sc m d a i x fun x y => BitVec.ofInt 64 (x.toInt * y.toInt / 2 ^ 64)
  | .smulhN64 m d a i x => sc m d a i x fun x y => BitVec.ofNat 64 (x.toNat * y.toNat / 2 ^ 64)
  | .sand m d a i x => sc m d a i x (· &&& ·)
  | .sor m d a i x => sc m d a i x (· ||| ·)
  | .sxor m d a i x => sc m d a i x (· ^^^ ·)
  | .sshl m d a i x => sc m d a i x fun x y => x <<< (y.toNat % 64)
  | .sshr m d a i x => sc m d a i x fun x y => x >>> (y.toNat % 64)
  | .ssar m d a i x => sc m d a i x fun x y => x.sshiftRight (y.toNat % 64)
  | .sminI64 m d a i x => sc m d a i x fun x y => if y.slt x then y else x
  | .sminN64 m d a i x => sc m d a i x fun x y => if y.ult x then y else x
  | .smaxI64 m d a i x => sc m d a i x fun x y => if x.slt y then y else x
  | .smaxN64 m d a i x => sc m d a i x fun x y => if x.ult y then y else x
  | .sceq m d a i x => sc m d a i x fun x y => truth (x == y)
  | .scltI64 m d a i x => sc m d a i x fun x y => truth (x.slt y)
  | .scltN64 m d a i x => sc m d a i x fun x y => truth (x.ult y)
  | .scleI64 m d a i x => sc m d a i x fun x y => truth (x.sle y)
  | .scleN64 m d a i x => sc m d a i x fun x y => truth (x.ule y)
  | .smov m d i x => some ⟨m, i, false, d, fun s w => scalX s w i x⟩
  | .sadr m d x => some ⟨m, true, false, d, fun s _ => s.cur.addr + imm64 s.cur.wimm x⟩
  | .getw m d => some ⟨m, false, false, d, fun _ w => BitVec.ofNat 64 w.grant⟩
  | .emsave m d => some ⟨m, false, true, d, fun _ w => w.em⟩
  | .rdsrScalar m d n =>
    if srPriv n.toNat && w.priv.isNone && w.actives s.cur.tids != [] then none
    else some ⟨m, false, false, d, fun s w =>
      ((w.thread (lget 0 s.cur.tids 0)).map (fun t => BitVec.ofNat 64 (srRead s w 0 t n.toNat))).getD (scal w d.toNat)⟩
  | _ => none

/-- A word that writes the execution mask (06 R215): its mark, a scalar register that receives the mask as it was, and
the new bits of the packed threads. -/
structure MaskForm where
  marked : Bool
  save : Option SReg
  mask : State → Wave → W64

/-- The wave after it: bits of the packed threads that are not exited, whether or not a thread is active. -/
def MaskEffect (s : State) (w w' : Wave) (r : MaskForm) : Prop :=
  Threads s w w' (PassedThread s r.marked) ∧
    (∀ n < 64, w'.em.getLsbD n = if packed s w n then (r.mask s w).getLsbD n else w.em.getLsbD n) ∧
    (∀ j, scal w' j = if r.save.map (·.toNat) = some j then w.em else scal w j) ∧
    w' = { w with threads := w'.threads, runx := w.runx || spills s w r.marked, scal := w'.scal, em := w'.em }

/-- Words that write the execution mask (06 R215). -/
def maskForm : Instr → Option MaskForm
  | .emset m a => some ⟨m, none, fun s w => readScal s w s.cur.tids 1 a.toNat⟩
  | .emand m a => some ⟨m, none, fun s w => w.em &&& readScal s w s.cur.tids 1 a.toNat⟩
  | .emandn m a => some ⟨m, none, fun s w => w.em &&& ~~~(readScal s w s.cur.tids 1 a.toNat)⟩
  | .emor m a => some ⟨m, none, fun s w => w.em ||| readScal s w s.cur.tids 1 a.toNat⟩
  | .emif m d => some ⟨m, some d, fun s w => w.em &&& cmMask s w⟩
  | .emelse m d => some ⟨m, none, fun s w => readScal s w s.cur.tids 1 d.toNat &&& ~~~w.em⟩
  | _ => none

/-- The wave after `wrsr` of value `v` to special register `n` (02 R73-R77; 06 R202, R214): `em` and `cm` for the packed
threads that are not exited, RUNX of `wstat` cleared by a 1, `aflag` bits cleared by 1s, `nctl`; other registers keep. -/
def WrsrEffect (s : State) (w w' : Wave) (marked : Bool) (n : Nat) (v : W64) : Prop :=
  let on := w.actives s.cur.tids ≠ []
  Threads s w w' (PassedThread s marked) ∧
    (∀ i < 64, w'.em.getLsbD i = if n = 0x10 ∧ packed s w i = true then v.getLsbD i else w.em.getLsbD i) ∧
    (∀ i < 64, w'.cm.getLsbD i = if n = 0x11 ∧ packed s w i = true then v.getLsbD i else w.cm.getLsbD i) ∧
    w'.runx = ((if on ∧ n = 0x18 ∧ v.getLsbD 8 = true then false else w.runx) || spills s w marked) ∧
    w'.aflag = (if on ∧ n = 0x19 then w.aflag &&& ~~~(v.setWidth 32) else w.aflag) ∧
    (if on ∧ n = 0x1A then
      (∀ i < 8, w'.nctl.getLsbD i = v.getLsbD i) ∧ (∀ i, 10 ≤ i → w'.nctl.getLsbD i = false) ∧
        w'.nctl.extractLsb' 8 2 = if v.getLsbD 9 then w.nctl.extractLsb' 8 2 else v.extractLsb' 8 2
    else w'.nctl = w.nctl) ∧
    w' = { w with
      threads := w'.threads, em := w'.em, cm := w'.cm, runx := w'.runx, aflag := w'.aflag, nctl := w'.nctl }

/-- A branch: the specifiers it names, whether it takes a wide immediate, whether it writes the link pair, which packed
threads take it and where they go (06 R218). -/
structure BranchForm where
  names : List Spec
  wimm : Bool
  link : Bool
  take : State → Wave → Nat → Bool
  target : State → Wave → Nat → Thread → W64

/-- What becomes of a packed thread: a taken one stands at its target, from which it issues after four cycles; a call
writes the following address into o6:o7 of every sibling. -/
def BranchThread (s : State) (w : Wave) (r : BranchForm) (n : Nat) (t t' : Thread) : Prop :=
  SameThread t t' ∧ t'.opidx = t.opidx ∧ t'.owed = t.owed ∧ t'.win = [] ∧
    (if r.take s w n then
      Retired (s.cycle + 4) true (r.target s w n t) t t' ∧
        ∀ key, cell t' key =
          if r.link then cellAfter 0x66#7 true (w.sibs.map fun _ => (s.cur.addr + 4).toNat) key (cell t key) else cell t key
    else Retired (s.cycle + 2) true (s.cur.addr + 4) t t' ∧ t'.regs = t.regs)

/-- The wave after a branch: nothing but its threads changes. -/
def BranchEffect (s : State) (w w' : Wave) (r : BranchForm) : Prop :=
  Threads s w w' (BranchThread s w r) ∧ w' = { w with threads := w'.threads }

/-- Where a thread that takes the branch goes. -/
def destination (s : State) (w : Wave) (r : BranchForm) (n : Nat) : W64 :=
  ((w.thread n).map (r.target s w n)).getD (s.cur.addr + 4)

/-- Threads that take the branch to an address at which no word can be fetched: its bits [1:0] or [63:56] are not zero (06
R219). -/
def straying (s : State) (w : Wave) (r : BranchForm) : List Nat :=
  s.cur.tids.filter fun n =>
    r.take s w n && decide ((destination s w r n).extractLsb' 0 2 ≠ 0#2 ∨ (destination s w r n).extractLsb' 56 8 ≠ 0#8)

/-- The target of a relative branch: 4 × the word offset, wide or not, from the word itself (05 R178, 06 R218). -/
def relative (off : BitVec 21) (s : State) (_ : Wave) (_ : Nat) (_ : Thread) : W64 :=
  s.cur.addr + 4#64 * match s.cur.wimm with
    | some p => (BitVec.ofNat 46 (p * 2 ^ 21 + off.toNat)).signExtend 64
    | none => off.signExtend 64

/-- The target that sibling 0 of a 64-bit operand holds. -/
def fromReg (p : Spec) (s : State) (w : Wave) (n : Nat) (t : Thread) : W64 := rd64 s w n t 0 1 p

/-- Branches (06 R218). -/
def branchForm : Instr → Option BranchForm
  | .br _ off => some ⟨[], true, false, fun _ _ _ => true, relative off⟩
  | .brc _ off => some ⟨[], true, false, fun s w n => w.em.getLsbD n && cmBit s w n, relative off⟩
  | .brnc _ off => some ⟨[], true, false, fun s w n => w.em.getLsbD n && !cmBit s w n, relative off⟩
  | .brany _ off =>
    some ⟨[], true, false, fun s w _ => decide (cmMask s w &&& w.em ≠ 0#64), relative off⟩
  | .brall _ off =>
    some ⟨[], true, false, fun s w _ => decide (w.em &&& ~~~(cmMask s w) = 0#64), relative off⟩
  | .call _ off => some ⟨[], true, true, fun _ w n => w.em.getLsbD n, relative off⟩
  | .callr _ p => some ⟨[p], false, true, fun _ w n => w.em.getLsbD n, fromReg p⟩
  | .ret _ => some ⟨[], false, false, fun _ w n => w.em.getLsbD n, fromReg 0x66#7⟩
  | .jmpr _ p => some ⟨[p], false, false, fun _ w n => w.em.getLsbD n, fromReg p⟩
  | _ => none

/-- A word at which the packed threads come to stand: whether it ends the run, whether a handler may not execute it,
whether the threads stand at the word itself or at the following one, and on what they wait. -/
structure StandForm where
  ends : Bool
  user : Bool
  names : List Spec
  here : Bool
  st : TState
  hold : Hold

/-- What becomes of a packed thread. -/
def StandThread (s : State) (r : StandForm) (_ : Nat) (t t' : Thread) : Prop :=
  Retired (s.cycle + 2) r.ends (if r.here then s.cur.addr else s.cur.addr + 4) t t' ∧ SameBody t t' ∧ SameValues t t' ∧
    t'.st = r.st ∧ t'.hold = r.hold

/-- The wave after such a word: nothing but its threads changes. -/
def StandEffect (s : State) (w w' : Wave) (r : StandForm) : Prop :=
  Threads s w w' (StandThread s r) ∧ w' = { w with threads := w'.threads, runx := w.runx || spills s w r.ends }

/-- An offset lies in the unit's share with `n` bytes, aligned to them (08 R288). -/
def inShare (s : State) (w : Wave) (n off : Nat) : Bool :=
  decide (off + n ≤ ((mget s.units w.unit).map (·.shSize)).getD 0) && off % n == 0

/-- The 32-bit value of a scalar register, as a number. -/
def scal32 (s : State) (w : Wave) (port : Nat) (r : SReg) : Nat :=
  ((readScal s w s.cur.tids port r.toNat).setWidth 32).toNat

/-- Handler exits and the reconvergence, mode-switch, section and wait words (06 R222, R223, R230, R234; 08 R306, R307,
R310; 12 R372). Nothing where the word does something else: a trap code at user level, an offset outside the share, a
fence with no result to wait for, `vunpin` with no thread active. -/
def standForm (s : State) (w : Wave) : Instr → Option StandForm
  | .rcb _ => some ⟨true, false, [], true, .atRcb, .join none⟩
  | .modeTriple _ => some ⟨true, true, [], true, .atRcb, .join (some true)⟩
  | .modeSingle _ => some ⟨true, true, [], true, .atRcb, .join (some false)⟩
  | .handlerReturn _ => leave 0
  | .handlerSaved _ => leave 1
  | .handlerEndWave _ => leave 2
  | .handlerRefuseReslice _ => leave 3
  | .handlerEndContext _ => leave 4
  | .trap _ c => leave c.toNat
  | .block _ lim => some ⟨true, false, [], false, .awaiting, .block s.cur.addr lim.toNat⟩
  | .waitc _ c v => some ⟨true, false, [], false, .awaiting, .waitc c.toNat v.toNat⟩
  | .waitgen _ off g =>
    if inShare s w 16 (scal32 s w 1 off) then
      some ⟨true, true, [], false, .waiting, .gen (scal32 s w 1 off) (scal32 s w 2 g)⟩
    else none
  | .fenceW m =>
    if fenceIds w s.cur.tids = [] then none else some ⟨m, false, [], false, .awaiting, .fence (fenceIds w s.cur.tids)⟩
  | .vunpin m =>
    if w.actives s.cur.tids = [] then none else some ⟨m, true, [], false, .awaiting, .vunpin⟩
  | _ => none
where
  /-- A trap code at privileged level. -/
  leave (c : Nat) : Option StandForm :=
    if w.priv.isSome then some ⟨true, false, [], true, .atRcb, .leave c⟩ else none

/-- Words that their threads only pass: no effect (06 R226; 08 R312), a fence with nothing to wait for (08 R307), waits
that no thread is active at. -/
def passForm (s : State) (w : Wave) : Instr → Option (Bool × Bool)
  | .nop m => some (m, false)
  | .prefG m _ => some (m, false)
  | .fenceW m => if fenceIds w s.cur.tids = [] then some (m, false) else none
  | .vunpin m => if w.actives s.cur.tids = [] then some (m, true) else none
  | .vpin m _ => if w.actives s.cur.tids = [] then some (m, true) else none
  | _ => none

/-- The wave after them. -/
def PassEffect (s : State) (w w' : Wave) (ends : Bool) : Prop :=
  Threads s w w' (PassedThread s ends) ∧ w' = { w with threads := w'.threads, runx := w.runx || spills s w ends }

/-- A per-lane memory word: its mark, the specifiers it names, whether it takes a wide immediate, whether it is forbidden
to a handler, its kind, and the address and data of a thread (08 R284-R287). -/
structure MemForm where
  marked : Bool
  names : List Spec
  wimm : Bool
  user : Bool
  op : MemOp
  addr : State → Wave → Nat → Thread → Int
  data : State → Wave → Nat → Thread → Place → List Nat

/-- The address of a VI word: operand A of sibling 0, 64 or 32 bits, plus the wide immediate, or the short one times the
size (05 R178, 08 R287). -/
def viAddr (a : Spec) (share : Bool) (imm : BitVec 7) (size : Nat) (s : State) (w : Wave) (n : Nat) (t : Thread) : Int :=
  readOp s w n t 0 1 a (!share) + match s.cur.wimm with
    | some p => (BitVec.ofNat 32 (p * 128 + imm.toNat)).toInt
    | none => imm.toInt * size

/-- Bytes of a type code: n8, i8, n16, i16, n32, f32, f16, bf16, n64 (08 R289, R293). -/
def bytesOfType (ty : Nat) : Nat := lget 0 [1, 1, 2, 2, 4, 4, 2, 2, 8] ty

/-- A load. -/
def ldForm (share : Bool) (ty : Nat) (m : Bool) (d a : Spec) (imm : BitVec 7) : Option MemForm :=
  some ⟨m, [d, a], true, false,
    ⟨share, .read, .plain ty, bytesOfType ty, 1, 0, .load ty, some (d, ty == 8), false⟩,
    viAddr a share imm (bytesOfType ty), fun _ _ _ _ _ => []⟩

/-- A store: every sibling of the source as the class of the page takes it; sibling 0 alone into a register aperture (08
R295, R296). -/
def stForm (share : Bool) (ty : Nat) (m : Bool) (d a : Spec) (imm : BitVec 7) : Option MemForm :=
  some ⟨m, [d, a], true, false,
    ⟨share, .write, .plain ty, bytesOfType ty, 0, 1, .store ty, none, false⟩,
    viAddr a share imm (bytesOfType ty), fun s w n t pl =>
      if isAperture pl then [readOp s w n t 0 2 d (ty == 8)]
      else passStore ty (placeClass s pl) (w.sibs.map fun k => readOp s w n t k 2 d (ty == 8))⟩

/-- The one operand of a decaying word or of an addition of FP32: sibling 0, or the mean of the siblings (08 R300, R304;
03 R114). -/
def meanOf (s : State) (w : Wave) (n : Nat) (t : Thread) (b : Spec) : Nat :=
  if w.triple then fmean fp32 (fval s w n t 2 b 0) (fval s w n t 2 b 1) (fval s w n t 2 b 2) else fbits s w n t 2 b 0

/-- What an atomic brings (08 R298, R300): a compare-and-swap the expected and the new value, in the halves of a pair or
in two pairs. -/
def atomOperand (f : Nat) (b : Spec) (s : State) (w : Wave) (n : Nat) (t : Thread) (_ : Place) : List Nat :=
  match f with
  | 2 => [meanOf s w n t b]
  | 12 => [readOp s w n t 0 2 b true % 2 ^ 32, readOp s w n t 0 2 b true / 2 ^ 32]
  | 13 => [readOp s w n t 0 2 b true, readOp s w n t 0 4 (b + 2#7) true]
  | 1 => [readOp s w n t 0 2 b true]
  | 11 => [readOp s w n t 0 2 b true]
  | _ => [readOp s w n t 0 2 b false]

/-- The 64-bit atomics. -/
def wideAtom (f : Nat) : Bool := f == 1 || f == 11 || f == 13

/-- An atomic; it forms a block section of its own (02 R86). -/
def atomForm (share : Bool) (f : Nat) (m : Bool) (d : Option Spec) (a b : Spec) : Option MemForm :=
  some ⟨m, d.toList ++ [a, b], false, false,
    ⟨share, .both, .atomic, if wideAtom f then 8 else 4, if d.isSome then 1 else 0, 1, .atomic f d.isSome,
      d.map (fun d => (d, wideAtom f)), true⟩,
    fun s w n t => readOp s w n t 0 1 a (!share), atomOperand f b⟩

/-- A decaying-word instruction (08 R303, R304). -/
def decayForm (m : Bool) (names : List Spec) (a : Spec) (op : MemOp) (b : Option Spec) : Option MemForm :=
  some ⟨m, names, false, false, op, fun s w n t => readOp s w n t 0 1 a true,
    fun s w n t _ => (b.map (meanOf s w n t)).toList⟩

/-- Per-lane memory words (08 R293, R298, R303, R305). -/
def memForm : Instr → Option MemForm
  | .ldGN8 m d a i => ldForm false 0 m d a i
  | .ldGI8 m d a i => ldForm false 1 m d a i
  | .ldGN16 m d a i => ldForm false 2 m d a i
  | .ldGI16 m d a i => ldForm false 3 m d a i
  | .ldGN32 m d a i => ldForm false 4 m d a i
  | .ldGF32 m d a i => ldForm false 5 m d a i
  | .ldGF16 m d a i => ldForm false 6 m d a i
  | .ldGBf16 m d a i => ldForm false 7 m d a i
  | .ldGN64 m d a i => ldForm false 8 m d a i
  | .ldSN8 m d a i => ldForm true 0 m d a i
  | .ldSI8 m d a i => ldForm true 1 m d a i
  | .ldSN16 m d a i => ldForm true 2 m d a i
  | .ldSI16 m d a i => ldForm true 3 m d a i
  | .ldSN32 m d a i => ldForm true 4 m d a i
  | .ldSF32 m d a i => ldForm true 5 m d a i
  | .ldSF16 m d a i => ldForm true 6 m d a i
  | .ldSBf16 m d a i => ldForm true 7 m d a i
  | .ldSN64 m d a i => ldForm true 8 m d a i
  | .stGN8 m d a i => stForm false 0 m d a i
  | .stGN16 m d a i => stForm false 2 m d a i
  | .stGN32 m d a i => stForm false 4 m d a i
  | .stGF32 m d a i => stForm false 5 m d a i
  | .stGF16 m d a i => stForm false 6 m d a i
  | .stGBf16 m d a i => stForm false 7 m d a i
  | .stGN64 m d a i => stForm false 8 m d a i
  | .stSN8 m d a i => stForm true 0 m d a i
  | .stSN16 m d a i => stForm true 2 m d a i
  | .stSN32 m d a i => stForm true 4 m d a i
  | .stSF32 m d a i => stForm true 5 m d a i
  | .stSF16 m d a i => stForm true 6 m d a i
  | .stSBf16 m d a i => stForm true 7 m d a i
  | .stSN64 m d a i => stForm true 8 m d a i
  | .atomGAddN32 m d a b => atomForm false 0 m (some d) a b
  | .atomGAddN64 m d a b => atomForm false 1 m (some d) a b
  | .atomGAddF32 m d a b => atomForm false 2 m (some d) a b
  | .atomGMinI32 m d a b => atomForm false 3 m (some d) a b
  | .atomGMinN32 m d a b => atomForm false 4 m (some d) a b
  | .atomGMaxI32 m d a b => atomForm false 5 m (some d) a b
  | .atomGMaxN32 m d a b => atomForm false 6 m (some d) a b
  | .atomGAndB32 m d a b => atomForm false 7 m (some d) a b
  | .atomGOrB32 m d a b => atomForm false 8 m (some d) a b
  | .atomGXorB32 m d a b => atomForm false 9 m (some d) a b
  | .atomGExchN32 m d a b => atomForm false 10 m (some d) a b
  | .atomGExchN64 m d a b => atomForm false 11 m (some d) a b
  | .atomGCasN32 m d a b => atomForm false 12 m (some d) a b
  | .atomGCasN64 m d a b => atomForm false 13 m (some d) a b
  | .atomnGAddN32 m a b => atomForm false 0 m none a b
  | .atomnGAddN64 m a b => atomForm false 1 m none a b
  | .atomnGAddF32 m a b => atomForm false 2 m none a b
  | .atomnGMinI32 m a b => atomForm false 3 m none a b
  | .atomnGMinN32 m a b => atomForm false 4 m none a b
  | .atomnGMaxI32 m a b => atomForm false 5 m none a b
  | .atomnGMaxN32 m a b => atomForm false 6 m none a b
  | .atomnGAndB32 m a b => atomForm false 7 m none a b
  | .atomnGOrB32 m a b => atomForm false 8 m none a b
  | .atomnGXorB32 m a b => atomForm false 9 m none a b
  | .atomSAddN32 m d a b => atomForm true 0 m (some d) a b
  | .atomSAddN64 m d a b => atomForm true 1 m (some d) a b
  | .atomSAddF32 m d a b => atomForm true 2 m (some d) a b
  | .atomSMinI32 m d a b => atomForm true 3 m (some d) a b
  | .atomSMinN32 m d a b => atomForm true 4 m (some d) a b
  | .atomSMaxI32 m d a b => atomForm true 5 m (some d) a b
  | .atomSMaxN32 m d a b => atomForm true 6 m (some d) a b
  | .atomSAndB32 m d a b => atomForm true 7 m (some d) a b
  | .atomSOrB32 m d a b => atomForm true 8 m (some d) a b
  | .atomSXorB32 m d a b => atomForm true 9 m (some d) a b
  | .atomSExchN32 m d a b => atomForm true 10 m (some d) a b
  | .atomSExchN64 m d a b => atomForm true 11 m (some d) a b
  | .atomSCasN32 m d a b => atomForm true 12 m (some d) a b
  | .atomSCasN64 m d a b => atomForm true 13 m (some d) a b
  | .ldD m d a => decayForm m [d, a] a ⟨false, .read, .decay, 8, 1, 0, .ldD, some (d, false), false⟩ none
  | .stD m c a b => decayForm m [a, b] a ⟨false, .write, .decay, 8, 0, 1, .stD c.toNat, none, false⟩ (some b)
  | .dadd m a b => decayForm m [a, b] a ⟨false, .both, .decay, 8, 0, 1, .dadd, none, false⟩ (some b)
  | .dcls m c a => decayForm m [a] a ⟨false, .both, .decay, 8, 0, 1, .dcls c.toNat, none, false⟩ none
  | .armS m a b =>
    some ⟨m, [a, b], false, true, ⟨true, .write, .plain 4, 16, 0, 1, .arm, none, true⟩,
      fun s w n t => readOp s w n t 0 1 a false, fun s w n t _ => [fbits s w n t 2 b 0]⟩
  | _ => none

/-- What the checks of 08 R288 say of one thread's access. -/
def MemForm.check (r : MemForm) (s : State) (w : Wave) (n : Nat) (t : Thread) : Verdict :=
  if r.op.scratch then checkShare s w r.op.size (r.addr s w n t)
  else checkGlobal s w r.op.need r.op.kind r.op.size r.op.size (BitVec.ofInt 64 (r.addr s w n t)).toNat

/-- The active packed threads with what stands in them. -/
def activeThreads (s : State) (w : Wave) : List (Nat × Thread) :=
  (w.actives s.cur.tids).filterMap fun n => (w.thread n).map fun t => (n, t)

/-- Every active packed thread passes the checks, at the place that `at_` gives, which no other device owns. -/
def MemForm.Passes (r : MemForm) (s : State) (w : Wave) (at_ : Nat → Place) : Prop :=
  ∀ p ∈ activeThreads s w, r.check s w p.1 p.2 = .ok (at_ p.1) ∧ isRemote (at_ p.1) = false

/-- The access of a per-lane memory word: one part for each active packed thread, in ascending tid (08 R286). What local
order puts before it stands in `after` (04 R154). -/
def MemForm.access (r : MemForm) (s : State) (w : Wave) (at_ : Nat → Place) : Access :=
  let a : Access :=
    { id := s.nextId, op := r.op.op,
      lanes := (activeThreads s w).map fun p =>
        ⟨p.1, (BitVec.ofInt 64 (r.addr s w p.1 p.2)).toNat, at_ p.1, r.data s w p.1 p.2 (at_ p.1)⟩,
      dest := r.op.dest.bind fun d => if 0x68 ≤ d.1.toNat then none else some (4 * d.1.toNat, d.2),
      addr := s.cur.addr, word := s.cur.word, after := [], performed := false, user := w.priv.isNone, folds := [],
      slot := none }
  { a with after := earlier s w a }

/-- What becomes of a packed thread: a register result is owed and shifts the window (02 R60, R82); a word that forms a
section of its own closes it at the following word (02 R86, R87). Of the digest only what is still to be taken up (13
R406) may grow. -/
def MemThread (s : State) (w : Wave) (r : MemForm) (n : Nat) (t t' : Thread) : Prop :=
  Retired (s.cycle + 2) r.marked (s.cur.addr + 4) t t' ∧ t'.st = t.st ∧ t'.hold = t.hold ∧ t'.lidx = t.lidx ∧
    t'.cohort = t.cohort ∧ t'.siding = t.siding ∧ t'.digest = t.digest ∧ (∃ l, t'.folds = t.folds ++ l) ∧
    t'.regs = t.regs ∧ t'.opidx = t.opidx ∧
    (match r.op.dest with
      | none => t'.owed = t.owed ∧ t'.win = if t'.marking then [] else t.win
      | some d =>
        t'.owed = (if n ∈ w.actives s.cur.tids then owedKeys d.1 d.2 else []) ++ t.owed ∧
          t'.win = if t'.marking then [] else (undefWin :: t.win).take 8) ∧
    t'.sec = if r.op.own then
        ⟨s.cur.addr + 4, t.opidx, 0xFFFFF, true, t.regs, w.em.getLsbD n, w.cm.getLsbD n, t.digest, s.nextId + 1,
          t'.folds, w.xblk⟩
      else t.sec

/-- The wave after a per-lane memory word whose checks pass: its threads, the access on its way, and the counters (04
R153). No byte of memory changes yet. -/
def MemEffect (s : State) (w w' : Wave) (r : MemForm) (at_ : Nat → Place) : Prop :=
  let on := decide (w.actives s.cur.tids ≠ [])
  Threads s w w' (MemThread s w r) ∧
    w' = { w with
      threads := w'.threads, runx := w.runx || spills s w r.marked,
      accs := w.accs ++ if on then [r.access s w at_] else [],
      ldq := w.ldq ++ if on then List.replicate r.op.loads (s.nextId, false) else [],
      stq := w.stq ++ if on then List.replicate r.op.stores (s.nextId, false) else [] }

/-- No active packed thread fails a coded check, and none violates its partition: each has a place, or a fault in translation. -/
def MemForm.Goes (r : MemForm) (s : State) (w : Wave) : Prop :=
  ∀ p ∈ activeThreads s w, (∃ pl, r.check s w p.1 p.2 = .ok pl) ∨ ∃ c, r.check s w p.1 p.2 = .trans c

/-- The active packed threads that have a place, on pages of another device or not. -/
def MemForm.placed (r : MemForm) (s : State) (w : Wave) (away : Bool) : List (Nat × Thread × Place) :=
  (activeThreads s w).filterMap fun p => match r.check s w p.1 p.2 with
    | .ok pl => if isRemote pl = away then some (p.1, p.2, pl) else none
    | _ => none

/-- Those that meet a fault in translation: tid, address, reason. -/
def MemForm.faults (r : MemForm) (s : State) (w : Wave) : List (Nat × Nat × Nat) :=
  (activeThreads s w).filterMap fun p => match r.check s w p.1 p.2 with
    | .trans c => some (p.1, (BitVec.ofInt 64 (r.addr s w p.1 p.2)).toNat, c)
    | _ => none

/-- The access of some of the threads. -/
def MemForm.accessOf (r : MemForm) (s : State) (w : Wave) (id : Nat) (l : List (Nat × Thread × Place)) : Access :=
  let a : Access :=
    { id := id, op := r.op.op,
      lanes := l.map fun p => ⟨p.1, (BitVec.ofInt 64 (r.addr s w p.1 p.2.1)).toNat, p.2.2, r.data s w p.1 p.2.1 p.2.2⟩,
      dest := r.op.dest.bind fun d => if 0x68 ≤ d.1.toNat then none else some (4 * d.1.toNat, d.2),
      addr := s.cur.addr, word := s.cur.word, after := [], performed := false, user := w.priv.isNone, folds := [],
      slot := none }
  { a with after := earlier s w a }

/-- The wave after a per-lane memory word that goes: a thread with a fault in translation has not executed it, one whose page another
device owns waits at it for the answer, and the word is complete for the others. -/
def PartEffect (s : State) (w w' : Wave) (r : MemForm) : Prop :=
  let near := r.placed s w false
  let far := r.placed s w true
  let faults := (r.faults s w).map (·.1)
  let passes (n : Nat) : Bool := s.cur.tids.contains n && !faults.contains n && !far.any (fun p => p.1 == n)
  Threads s w w' (fun n t t' =>
    if n ∈ faults then t' = t
    else if ∃ p ∈ far, p.1 = n then t' = { t with wake := farWake, wakeCode := farCode s }
    else MemThread s w r n t t') ∧
    w' = { w with
      threads := w'.threads,
      runx := w.runx || w.numbered.any (fun p => passes p.1 && (!r.marked && p.2.runCount + 1 == 24)),
      accs := w.accs ++ if near = [] then [] else [r.accessOf s w s.nextId near],
      ldq := w.ldq ++ if near = [] then [] else List.replicate r.op.loads (s.nextId, false),
      stq := w.stq ++ if near = [] then [] else List.replicate r.op.stores (s.nextId, false),
      held := w.held ++ if far = [] then []
        else
          [{ addr := s.cur.addr, accs := [r.accessOf s w (s.nextId + 1) far], got := [], tids := far.map (·.1), dest := r.op.dest,
             scal := none, kinds := needKinds r.op.need + kLane, own := r.op.own, last := r.marked }] }

/-- A compare's effect on the wave: the condition bits of the active packed threads, `aflag`, and the instability trap
(07 R256, R261; 03 R112). -/
def CmForm.flags (r : CmForm) (s : State) (w : Wave) : Nat :=
  (w.actives s.cur.tids).foldl (fun a n => a ||| ((w.thread n).map (fun t => (r.holds s w n t).2)).getD 0) 0

def CmForm.trap (r : CmForm) (s : State) (w : Wave) : List Cause :=
  (⟨r.marked, 0x00#7, [], false, false, 0, 0, fun s w n t => ([], (r.holds s w n t).2)⟩ : VecForm).trap s w

def CmEffect (s : State) (w w' : Wave) (r : CmForm) : Prop :=
  Threads s w w' (PassedThread s r.marked) ∧
    (∀ n < 64, w'.cm.getLsbD n =
      if n ∈ w.actives s.cur.tids then ((w.thread n).map (fun t => (r.holds s w n t).1)).getD false else w.cm.getLsbD n) ∧
    w' = { w with
      threads := w'.threads, runx := w.runx || spills s w r.marked, cm := w'.cm,
      aflag := w.aflag ||| BitVec.ofNat 32 (r.flags s w), causes := w.causes ++ r.trap s w }

end Sys2Proof.Terms
end

