-- ==== Sys2Proof/Certificates/Slice0/Late.lean ====
section
/-! DEFINITION. What words do whose scalar result arrives later, whose access is one of the whole wave, or that hand work to
the matrix unit or an engine, as the statements put it (02 R67; 06 R208-R210, R236-R247; 07 R281, R282; 09 R315-R317,
R335-R347). -/

namespace Sys2Proof.Terms

open Sys2Proof.Machine

/-- A packed thread passes a word with the owed registers `keys` beside those it is owed already. -/
def OwingThread (s : State) (ends : Bool) (keys : List Nat) (t t' : Thread) : Prop :=
  Retired (s.cycle + 2) ends (s.cur.addr + 4) t t' ∧ t'.regs = t.regs ∧ t'.opidx = t.opidx ∧ t'.owed = keys ++ t.owed ∧
    t'.win = if t'.marking then [] else t.win

/-- A word whose scalar result arrives later: mark, forbidden to a handler, specifiers named, destination, flags, result
(none leaves the register), extended blocks that the wave holds afterwards. -/
structure LateForm where
  marked : Bool
  user : Bool
  names : List Spec
  dest : Nat
  flags : State → Wave → Nat
  value : State → Wave → Option W64
  blocks : State → Wave → Nat

/-- Registers of a block not held before read as zero when the block is first held (02 R67). -/
def keptRegs (w : Wave) (n : Nat) (regs regs' : FMap Cell) : Prop :=
  ∀ key, zget (Cell.val 0#32) regs' key =
    if w.xblk < n ∧ key / 4 < 0x60 ∧ 32 * (w.xblk + 1) ≤ key / 4 then Cell.val 0#32 else zget (Cell.val 0#32) regs key

/-- The wave after it, when a packed thread is active: the scalar register is owed, and the result is on its way. -/
def LateEffect (s : State) (w w' : Wave) (r : LateForm) : Prop :=
  w'.threads.length = w.threads.length ∧
    (∀ n t, w.thread n = some t → ∃ t', w'.thread n = some t' ∧
      (∃ regs, keptRegs w (r.blocks s w) t.regs regs ∧
        if n ∈ s.cur.tids then
          OwingThread s r.marked [1024 + r.dest] { t with regs := regs } t' ∧ SameThread t t'
        else t' = { t with regs := regs })) ∧
    w' = { w with
      threads := w'.threads, runx := w.runx || spills s w r.marked, xblk := r.blocks s w,
      accs := w.accs ++
        [{ id := s.nextId, op := .result (r.flags s w),
           lanes := ((r.value s w).map fun v => (⟨lget 0 s.cur.tids 0, 0, .single 0, [v.toNat]⟩ : Lane)).toList,
           dest := some (1024 + r.dest, true), addr := s.cur.addr, word := s.cur.word, after := [], performed := true,
           user := w.priv.isNone, folds := [], slot := none }] }

/-- The quadrant can supply what the wave lacks of `n` extended blocks, and no request waits there (02 R66, R67, R69). -/
def supplies (s : State) (w : Wave) (n : Nat) : Bool :=
  decide (quadReqs s w.core (w.slot % 4) = []) &&
    decide (32 * w.grant * (if w.triple then 3 else 1) * (n - w.xblk) ≤ 12288 - quadUsed s w.core (w.slot % 4))

/-- Late scalar results: a ballot into a scalar register (07 R281), `vtos` (R282), a non-blocking XACQ (02 R67). -/
def lateForm : Instr → Option LateForm
  | .voteBallot m d a mask =>
    if 0x70 ≤ d.toNat then
      some ⟨m, false, [a], d.toNat - 0x70, fun s w => absm s w mask,
        fun s w => some (BitVec.ofNat 64 (ballot s w mask fun i => opOf s w i 0 a false != 0)), fun _ w => w.xblk⟩
    else none
  | .vtos m d a b =>
    let src (s : State) (w : Wave) : Nat := ((readScal s w s.cur.tids 2 b.toNat).setWidth 32).toNat % w.grant
    some ⟨m, false, [a], d.toNat,
      fun s w => if src s w ∈ w.actives s.cur.tids then 0 else flABSM,
      fun s w => if src s w ∈ w.actives s.cur.tids then some (BitVec.ofNat 64 (opOf s w (src s w) 0 a false)) else none,
      fun _ w => w.xblk⟩
  | .xacqNb m d c =>
    let got (s : State) (w : Wave) : Bool := decide (c.toNat ≤ w.xblk) || supplies s w c.toNat
    some ⟨m, true, [], d.toNat, fun _ _ => 0, fun s w => some (truth (got s w)),
      fun s w => if got s w then max w.xblk c.toNat else w.xblk⟩
  | _ => none

/-- An access of the whole wave: its first packed thread stands for all, its active threads share its digest (06 R209). -/
def waveAcc (s : State) (w : Wave) (op : AOp) (va : Nat) (pl : Place) (data : List Nat) (dest : Option SReg) : Access :=
  let a : Access :=
    { id := s.nextId, op := op, lanes := [⟨lget 0 s.cur.tids 0, va, pl, data⟩],
      dest := dest.map fun d => (1024 + d.toNat, true), addr := s.cur.addr, word := s.cur.word, after := [],
      performed := false, user := w.priv.isNone, folds := w.actives s.cur.tids, slot := none, packed := s.cur.tids }
  { a with after := earlier s w a }

/-- The wave after such an access: what it owes, the access on its way, the counters. Of the digest only what is still to
be taken up may grow. -/
def WaveAccEffect (s : State) (w w' : Wave) (marked : Bool) (a : Access) (loads stores : Nat) : Prop :=
  Threads s w w' (fun _ t t' =>
    OwingThread s marked ((a.dest.map (·.1)).toList) t t' ∧
      SameThread { t with folds := t'.folds } t' ∧ ∃ l, t'.folds = t.folds ++ l) ∧
    w' = { w with
      threads := w'.threads, runx := w.runx || spills s w marked, accs := w.accs ++ [a],
      ldq := w.ldq ++ List.replicate loads (a.id, false), stq := w.stq ++ List.replicate stores (a.id, false) }

/-- The wave after a word of the whole wave whose page another device owns: its packed threads wait at it, and its accesses are with the
owner (14 R435; log 77). -/
def HeldEffect (s : State) (w w' : Wave) (marked : Bool) (accs : List Access) (scal : Option Nat) (kinds : Nat) : Prop :=
  Threads s w w' (fun _ t t' => t' = { t with wake := farWake, wakeCode := farCode s }) ∧
    w' = { w with
      threads := w'.threads,
      held := w.held ++
        [{ addr := s.cur.addr, accs := accs, got := [], tids := s.cur.tids, dest := none, scal := scal, kinds := kinds, own := false,
           last := marked }] }

/-- A scalar access (06 R208): mark, I bit, in the share, a load, type, register, base, offset field. -/
structure ScalMem where
  marked : Bool
  imm : Bool
  share : Bool
  load : Bool
  ty : Nat
  data : SReg
  base : SReg
  off : BitVec 7

/-- Its address: S(SA) plus S(SB) or the immediate, the short one times the size (06 R208). -/
def ScalMem.addr (r : ScalMem) (s : State) (w : Wave) : Nat :=
  (readScal s w s.cur.tids 1 r.base.toNat +
    if r.imm then
      (match s.cur.wimm with
        | some p => (BitVec.ofNat 32 (p * 128 + r.off.toNat)).signExtend 64
        | none => r.off.signExtend 64 * BitVec.ofNat 64 (bytesOfType r.ty))
    else readScal s w s.cur.tids 2 (r.off.toNat % 64)).toNat

/-- What the checks of 08 R288 say of it. -/
def ScalMem.check (r : ScalMem) (s : State) (w : Wave) : Verdict :=
  if r.share then checkShare s w (bytesOfType r.ty) (r.addr s w)
  else checkGlobal s w (if r.load then .read else .write) .scalar (bytesOfType r.ty) (bytesOfType r.ty) (r.addr s w)

/-- Its access at a place. -/
def ScalMem.access (r : ScalMem) (s : State) (w : Wave) (pl : Place) : Access :=
  let v := (readScal s w s.cur.tids 3 r.data.toNat).toNat
  if r.load then waveAcc s w (.load r.ty) (r.addr s w) pl [] (some r.data)
  else
    waveAcc s w (.store r.ty) (r.addr s w) pl
      (if isAperture pl then [v % 2 ^ (8 * bytesOfType r.ty)] else passStore r.ty (placeClass s pl) [v]) none

/-- Scalar loads and stores (06 R208). -/
def scalMem : Instr → Option ScalMem
  | .sldN32 m d a i x => some ⟨m, i, false, true, 4, d, a, x⟩
  | .sldN64 m d a i x => some ⟨m, i, false, true, 8, d, a, x⟩
  | .sstN32 m d a i x => some ⟨m, i, false, false, 4, d, a, x⟩
  | .sstN64 m d a i x => some ⟨m, i, false, false, 8, d, a, x⟩
  | .sldSN32 m d a i x => some ⟨m, i, true, true, 4, d, a, x⟩
  | .sstSN32 m d a i x => some ⟨m, i, true, false, 4, d, a, x⟩
  | _ => none

/-- A packed thread passes an MM or EN word, which is a block section of its own: the next one begins at the following
word, with the number that the next access receives (02 R86, R87). -/
def SectionThread (s : State) (w : Wave) (ends : Bool) (keys : List Nat) (born n : Nat) (t t' : Thread) : Prop :=
  OwingThread s ends keys t t' ∧ t'.st = t.st ∧ t'.hold = t.hold ∧ t'.lidx = t.lidx ∧ t'.cohort = t.cohort ∧
    t'.siding = t.siding ∧
    t'.sec = ⟨s.cur.addr + 4, t.opidx, 0xFFFFF, true, t.regs, w.em.getLsbD n, w.cm.getLsbD n, t'.digest, born, t'.folds,
      w.xblk⟩

/-- The digest of a thread stays. -/
def SameDigest (t t' : Thread) : Prop := t'.digest = t.digest ∧ t'.folds = t.folds

/-- A matrix instruction (09 R317): mark, its three operand registers, whether the engine counter counts it (04 R153), and
its queue: 0 load, 1 compute, 2 store. -/
structure MatForm where
  marked : Bool
  x : SReg
  y : SReg
  z : SReg
  counted : Bool
  queue : Nat

/-- Matrix instructions (09 R316, R317). -/
def matForm : Instr → Option MatForm
  | .mload m x y => some ⟨m, x, y, 0#6, true, 0⟩
  | .tturn m x y => some ⟨m, x, y, 0#6, true, 0⟩
  | .mma m x y z _ _ => some ⟨m, x, y, z, false, 1⟩
  | .mmaSc m x y z _ _ => some ⟨m, x, y, z, false, 1⟩
  | .mmaPn m x y z _ _ => some ⟨m, x, y, z, false, 1⟩
  | .mstore m x _ => some ⟨m, x, 0#6, 0#6, true, 2⟩
  | _ => none

/-- The instruction's own word stands in the execution at hand (09 R317: the queue carries the word). -/
def wordIs (s : State) (i : Instr) : Prop := encode i = some s.cur.word

/-- A wave after a matrix or engine word: a counter entry, a raised slot. -/
def IssueEffect (s : State) (w w' : Wave) (ends : Bool) (keys : List Nat) (born : Nat) (counted : Bool)
    (slots : List Nat) : Prop :=
  Threads s w w' (SectionThread s w ends keys born) ∧ w'.slots = slots ∧
    w' = { w with
      threads := w'.threads, runx := w.runx || spills s w ends, slots := slots,
      enq := w.enq ++ if counted then [(s.nextId, false)] else [] }

/-- A core with one more command at the end of a queue, numbered in the order of acceptance (09 R317). -/
def Enqueued (x x' : Core) (queue : Nat) (c : Cmd) : Prop :=
  x' = { x with
    accepted := x.accepted + 1,
    loadQ := x.loadQ ++ if queue = 0 then [c] else [],
    compQ := x.compQ ++ if queue = 1 then [c] else [],
    storeQ := x.storeQ ++ if queue = 2 then [c] else [] }

/-- The command of a matrix instruction: its word, operands, issuing wave and slot, and the wave's mode, controls, seed and
pin at issue (02 R77; 09 R317, R324, R332). -/
def matCmd (s : State) (w : Wave) (r : MatForm) : Cmd :=
  { newCmd s w s.cur (BitVec.ofNat 64 (getC s w.core).accepted) (readScal s w s.cur.tids 1 r.x.toNat)
      (readScal s w s.cur.tids 2 r.y.toNat) (readScal s w s.cur.tids 3 r.z.toNat)
      (if r.counted then some s.nextId else none) with
    slotSet := raisedSlot w s.cur.hint }

/-- The slots of a wave after the `hint` has raised one (05 R177, 09 R324). -/
def raised (w : Wave) (hint : Option Nat) : List Nat := (w.raiseSlot (raisedSlot w hint)).slots

/-- A word for a consist (09 R335, R337): mark, engine, operand registers; a field that the word does not use is zero, and names s0
(05 R174). -/
structure EngForm where
  marked : Bool
  eng : Nat
  x : SReg
  y : SReg
  z : SReg

/-- Engine words that append a command (09 R337); an `ecopy` may carry a follow-on. -/
def engForm : Instr → Option EngForm
  | .ecopy m x y z eng => some ⟨m, eng.toNat, x, y, z⟩
  | .egath m x y z => some ⟨m, 4, x, y, z⟩
  | .escat m x y z => some ⟨m, 4, x, y, z⟩
  | .ecoll m x y z eng => some ⟨m, eng.toNat, x, y, z⟩
  | .optstep m x y => some ⟨m, 4, x, y, 0#6⟩
  | .dsweep m x eng => some ⟨m, eng.toNat, x, 0#6, 0#6⟩
  | _ => none

/-- An operand of an engine word. -/
def engOp (s : State) (w : Wave) (port : Nat) (r : SReg) : W64 := readScal s w s.cur.tids port r.toNat

/-- The command that the word appends to consist `con`, whose last one was number `q.tail` (09 R335). -/
def engCmd (s : State) (w : Wave) (r : EngForm) (con : Nat) (q : Consist) : Cmd :=
  newCmd s w s.cur (BitVec.ofNat 64 (conTag con * 2 ^ 62 + (q.tail + 1) % 2 ^ 62)) (engOp s w 1 r.x) (engOp s w 2 r.y)
    (engOp s w 3 r.z) (some s.nextId)

end Sys2Proof.Terms
end

