-- ==== Sys2Proof/Certificates/Slice0/Rest.lean ====
section
/-! DEFINITION. What the remaining words do — special registers read by a thread, register blocks, pins, records and samples,
traps, engine words and barriers — as the statements put it, and how a statement says that a word completes. -/

namespace Sys2Proof.Terms

open Sys2Proof.Machine

/-- Word `i` completes: it leaves wave `w'` in place of the wave at hand, the rest of the state as in `s'`, and the wave
then does what it was waiting to do (`settled`). -/
def Leaves (i : Instr) (s s' : State) (w' : Wave) : Prop :=
  exec i s = .next (settled (setW s' s.cur.wave w') s.cur.wave)

/-- The state after a word that takes a number for an access or result. -/
def numbered (s : State) (n : Nat) : State := { s with nextId := s.nextId + n }

/-- A register that a user-level thread may not name: marked P (02 R73). -/
def denied (s : State) (w : Wave) (n : BitVec 7) : Prop :=
  srPriv n.toNat = true ∧ w.priv = none ∧ w.actives s.cur.tids ≠ []

/-- Vector reads of special registers and of the pinned version: the same for every sibling of a thread (06 R213, 08
R311). -/
def readForm : Instr → Option VecForm
  | .rdsrVector m d n =>
    some ⟨m, d, [d], sr64 n, false, 2, 0, fun s w i t => (w.sibs.map fun _ => srRead s w i t n.toNat, 0)⟩
  | .vread m d => some ⟨m, d, [d], false, false, 2, 0, fun _ w _ _ => (w.sibs.map fun _ => w.pver, 0)⟩
  | _ => none

/-- A packed thread passes, and a wave that comes to hold `n` extended blocks reads zero in the new ones (02 R67). -/
def GainEffect (s : State) (w w' : Wave) (ends : Bool) (n : Nat) : Prop :=
  w'.threads.length = w.threads.length ∧
    (∀ i t, w.thread i = some t → ∃ t' regs, w'.thread i = some t' ∧ keptRegs w n t.regs regs ∧
      if i ∈ s.cur.tids then PassedThread s ends i { t with regs := regs } t' else t' = { t with regs := regs }) ∧
    w' = { w with threads := w'.threads, runx := w.runx || spills s w ends, xblk := n }

/-- The wave gives extended blocks above `n` up: no other register changes (02 R68). -/
def DropEffect (s : State) (w w' : Wave) (ends : Bool) (n : Nat) : Prop :=
  w'.threads.length = w.threads.length ∧
    (∀ i t, w.thread i = some t → ∃ t' regs, w'.thread i = some t' ∧
      (∀ key, 0x60 ≤ key / 4 ∨ key / 4 < 32 * (n + 1) → zget (Cell.val 0#32) regs key = cell t key) ∧
      if i ∈ s.cur.tids then PassedThread s ends i { t with regs := regs } t' else t' = { t with regs := regs }) ∧
    w' = { w with threads := w'.threads, runx := w.runx || spills s w ends, xblk := n }

/-- The shape of the words that request blocks, where they have to wait: the threads stand at the word (02 R67). -/
def waitXacq (n : Nat) : StandForm := ⟨true, true, [], true, .waiting, .xacq n⟩

/-- An access with what local order puts before it (04 R154). -/
def ordered (s : State) (w : Wave) (a : Access) : Access := { a with after := earlier s w a }

/-- The access of a sampler start (06 R241): the four 64-bit loads of its record. -/
def sampleAcc (s : State) (w : Wave) (va : Nat) (places : List Place) : Access :=
  ordered s w
    { waveAcc s w (.sampler 0) 0 (.single 0) [] none with
      lanes := (enumFrom 0 places).map (fun p => ⟨lget 0 s.cur.tids 0, va + 8 * p.1, p.2, []⟩), after := [] }

/-- The record write of a sampler stop (1) or flush (2) of wave `w`: the record's address, NDROP, NWR and STAT (06 R242, R247), at the
places of its bytes where this device owns them. -/
def reportAcc (s : State) (w : Wave) (act : Nat) (x : Sampler) : Access :=
  { waveAcc s w (.sampler act) 0 (.single 0) [] none with
    lanes :=
      [⟨lget 0 s.cur.tids 0, x.recAddr.toNat + 8, reportPlace s w.cid w.core (x.recAddr.toNat + 8),
          [x.recAddr.toNat, x.ndrop, x.nwr, if act = 1 then 0 else 1]⟩,
        ⟨lget 0 s.cur.tids 0, x.recAddr.toNat + 16, reportPlace s w.cid w.core (x.recAddr.toNat + 16), []⟩], after := [] }

/-- A `fqry` word (06 R236): mark, destination, address register, 64-bit words of the record, and the record. -/
structure QueryForm where
  marked : Bool
  dest : SReg
  base : SReg
  words : Nat
  record : State → Wave → Nat

/-- Queries (06 R237-R239). -/
def queryForm : Instr → Option QueryForm
  | .fqryDevice m d a => some ⟨m, d, a, 4, fun _ _ => deviceRecord⟩
  | .fqryNumeric m d a => some ⟨m, d, a, 4, fun _ _ => numericRecord⟩
  | .fqryPlacement m d a => some ⟨m, d, a, 2, placementRecord⟩
  | _ => none

/-- The address of the record. -/
def QueryForm.addr (r : QueryForm) (s : State) (w : Wave) : Nat := (readScal s w s.cur.tids 1 r.base.toNat).toNat

/-- One 64-bit store of the record, but for what local order puts before it. -/
def QueryForm.store (r : QueryForm) (s : State) (w : Wave) (j : Nat) (pl : Place) : Access :=
  let x := bitsAt (r.record s w) (64 * j) 64
  { waveAcc s w (.store 8) (r.addr s w + 8 * j) pl
      (if isAperture pl then [x] else passStore 8 (placeClass s pl) [x]) none with
    id := s.nextId + j, issued := s.nextId + j, after := [] }

/-- The wave after a query whose record can be stored: its stores on their way, then the length, owed to the scalar
register. -/
def QueryEffect (s : State) (w w' : Wave) (r : QueryForm) (at_ : Nat → Place) : Prop :=
  Threads s w w' (fun _ t t' =>
    OwingThread s r.marked [1024 + r.dest.toNat] t t' ∧
      SameThread { t with folds := t'.folds } t' ∧ ∃ l, t'.folds = t.folds ++ l) ∧
    (∃ stores : List Access,
      stores.map (fun a => { a with after := [] }) = (span 0 r.words).map (fun j => r.store s w j (at_ j)) ∧
      w'.accs = w.accs ++ stores ++
        [{ id := s.nextId + r.words, op := .result 0, lanes := [⟨lget 0 s.cur.tids 0, 0, .single 0, [8 * r.words]⟩],
           dest := some (1024 + r.dest.toNat, true), addr := s.cur.addr, word := s.cur.word, after := [],
           performed := true, user := w.priv.isNone, folds := [], slot := none }]) ∧
    w' = { w with
      threads := w'.threads, runx := w.runx || spills s w r.marked, accs := w'.accs,
      stq := w.stq ++ (span s.nextId r.words).map (fun i => (i, false)) }

/-- An MM or EN word passed with no thread active, or with nothing but its section closing (02 R86). -/
def ClosedEffect (s : State) (w w' : Wave) (ends : Bool) (keys : List Nat) (born : Nat) : Prop :=
  Threads s w w' (fun n t t' => SectionThread s w ends keys born n t t' ∧ SameDigest t t')

/-- A result on its way to a scalar register, which every active thread is owed (06 R204, 09 R316). -/
def scalarLater (s : State) (w : Wave) (d : SReg) (v : W64) : Access :=
  { id := s.nextId, op := .result 0, lanes := [⟨lget 0 s.cur.tids 0, 0, .single 0, [v.toNat]⟩],
    dest := some (1024 + d.toNat, true), addr := s.cur.addr, word := s.cur.word, after := [], performed := true,
    user := w.priv.isNone, folds := w.actives s.cur.tids, slot := none }

/-- A command error noted at issue (09 R328): it becomes pending at the wave's next switch point. -/
def noteError (s : State) (con : Option Nat) (code : Nat) : Cause :=
  ⟨cCommand, s.cur.first, errInfo con 0, 0#32, code, 0#64⟩

/-- The state after an engine word has appended command `c` to consist `con` of the wave's context, the wave being `w'`:
the consist's count and commands, and its entry in memory (09 R335, R336). -/
def appended (s : State) (w' : Wave) (con : Nat) (q : Consist) (c : Cmd) : State :=
  let s := setW (numbered s 1) s.cur.wave w'
  let s := modX s w'.cid fun x => { x with consists := mset x.consists con { q with tail := q.tail + 1, cmds := q.cmds ++ [c] } }
  engineWrite s con (q.ring + 64 * (q.tail % 2 ^ q.log2n)) (numBytes 64 (consistEntry c)) (uEngine con) c

/-- The wave after an engine word: counter, slots raised and the waits that lower them, the last sequence number; of the
digests only the command may be taken up (09 R324, R335, R345; 13 R406). -/
def AppendEffect (s : State) (w w' : Wave) (marked : Bool) (con : Nat) (q : Consist) (follow : Option Nat) : Prop :=
  let slot := raisedSlot w s.cur.hint
  let fslot := follow.bind (fun v => raisedSlot w (some (foHint v)))
  let count := q.tail + 1
  Threads s w w' (SectionThread s w marked [] (s.nextId + 1)) ∧
    (keepsDigest s w = false → Threads s w w' fun _ t t' => SameDigest t t') ∧
    w' = { w with
      threads := w'.threads, runx := w.runx || spills s w marked, slots := ((w.raiseSlot slot).raiseSlot fslot).slots,
      enq := w.enq ++ [(s.nextId, false)],
      slotWaits := w.slotWaits ++ (slot.map fun i => (i, con, count, false)).toList ++
        (fslot.map fun i => (i, con, count, true)).toList,
      lastSeq := mset w.lastSeq con (BitVec.ofNat 64 (conTag con * 2 ^ 62 + count % 2 ^ 62)) }

/-- A barrier word: whether of the tree kind, its barrier or platform, count, and whether it waits (06 R227-R229). -/
structure BarForm where
  tree : Bool
  num : Nat
  count : Nat
  wait : Bool

/-- Barrier words. -/
def barForm : Instr → Option BarForm
  | .bar _ n c => some ⟨false, n.toNat, c.toNat, true⟩
  | .barArr _ n c => some ⟨false, n.toNat, c.toNat, false⟩
  | .tbar _ p => some ⟨true, p.toNat, 0, true⟩
  | .tbarArr _ p => some ⟨true, p.toNat, 0, false⟩
  | _ => none

/-- The barrier exists: below the unit's count, or the platform is one that the launch names (06 R228). -/
def BarForm.exists_ (r : BarForm) (s : State) (w : Wave) : Prop :=
  if r.tree then ∃ l tier, mget s.launches w.launch = some l ∧ platTier l r.num = some tier
  else ∃ u, mget s.units w.unit = some u ∧ r.num < u.nbars

/-- How the packed threads stand until their wave's accesses are performed (06 R229). -/
def BarForm.stand (r : BarForm) : StandForm :=
  ⟨true, true, [], false, .awaiting, .arrive r.tree r.num r.count r.wait⟩

/-- Specifiers that a word names, and whether it takes a wide immediate (02 R70; 05 R178). -/
def namesOf (s : State) (w : Wave) (i : Instr) : Option (List Spec × Bool) :=
  let vec : Option VecForm := ((((intForm i).or (floatForm i)).or (longFloat i)).or (crossForm i)).or (readForm i)
  ((((vec.map (fun r => (r.names, r.wimm))).or ((memForm i).map (fun r => (r.names, r.wimm)))).or
    ((cmForm i).map (fun r => (r.names, false)))).or ((lateForm i).map (fun r => (r.names, false)))).or
      (((branchForm i).map (fun r => (r.names, r.wimm))).or ((standForm s w i).map (fun r => (r.names, false))))

/-- Words that are a handler fault at privileged level (12 R374). -/
def forbidden : Instr → Bool
  | .exit _ => true
  | .setw _ _ _ _ => true
  | .yield _ => true
  | .xacq _ _ => true
  | .xacqNb _ _ _ => true
  | .xrel _ _ => true
  | .modeTriple _ => true
  | .modeSingle _ => true
  | .bar _ _ _ => true
  | .barArr _ _ _ => true
  | .tbar _ _ => true
  | .tbarArr _ _ => true
  | .waitgen _ _ _ => true
  | .smplStart _ _ => true
  | .smplStop _ _ => true
  | .smplFlush _ _ => true
  | .armS _ _ _ => true
  | .vpin _ _ => true
  | .vunpin _ => true
  | .tdesc _ _ _ _ _ _ => true
  | .mload _ _ _ => true
  | .tturn _ _ _ => true
  | .mma _ _ _ _ _ _ => true
  | .mmaSc _ _ _ _ _ _ => true
  | .mmaPn _ _ _ _ _ _ => true
  | .mstore _ _ _ => true
  | .ecopy _ _ _ _ _ => true
  | .egath _ _ _ _ => true
  | .escat _ _ _ _ => true
  | .ecoll _ _ _ _ _ => true
  | .publish _ _ => true
  | .eseqMilepost _ _ _ => true
  | .eseqLast _ _ _ => true
  | .ewait _ _ _ => true
  | .optstep _ _ _ => true
  | .dsweep _ _ _ => true
  | _ => false

/-- Codes that `trap` carries (06 R225; 12 R372). -/
def trapCode : Instr → Option (Bool × Nat)
  | .handlerReturn m => some (m, 0)
  | .handlerSaved m => some (m, 1)
  | .handlerEndWave m => some (m, 2)
  | .handlerRefuseReslice m => some (m, 3)
  | .handlerEndContext m => some (m, 4)
  | .trap m c => some (m, c.toNat)
  | _ => none

/-- A wave after an HN word that stays pending: `note` puts it into each packed thread (05 R176-R179). -/
def HnEffect (s : State) (w w' : Wave) (stall : Nat) (note : Thread → Thread) : Prop :=
  Threads s w w' (fun _ t t' =>
    t'.hint = (note t).hint ∧ t'.wimm = (note t).wimm ∧ t'.hnAddr = some (t.hnAddr.getD s.cur.addr) ∧
      t'.pc = s.cur.addr + 4 ∧ t'.clock = t.clock + 2 + stall ∧ t'.wake = s.cycle + 2 + stall ∧
      t'.marking = (t.runCount + 1 == 24) ∧ t'.inRun = !(t.runCount + 1 == 24) ∧
      t'.runCount = (if t.runCount + 1 = 24 then 0 else t.runCount + 1) ∧ SameThread t t' ∧ SameValues t t') ∧
    w' = { w with threads := w'.threads, runx := w.runx || spills s w false }

end Sys2Proof.Terms
end

