-- ==== Sys2Proof/Safety.lean ====
section
/-! DEFINITION. What counts as a safe run: a step goes on, and device and host memory keep their form. -/

namespace Sys2Proof

/-- Both memories are in canonical form (log 3). -/
def MemoryOk (s : Machine.State) : Prop := Machine.Memory.wf s.mem = true ∧ Machine.Memory.wf s.hostMem = true

/-- A step neither faults nor is refused. -/
def GoesOn (s : Machine.State) : Prop := ∃ t, Machine.step s = .next t

end Sys2Proof
end

