-- ==== Sys2Proof/Certificates/Slice0/Obligations.lean ====
section
/-! DEFINITION. The statements for the provers. Each names what it states; the rules of spec/ that it rests on stand in its
docstring. Words complete as `Leaves` says, events as an equation for `exec`. -/

open Sys2Proof Sys2Proof.Machine Sys2Proof.Terms

/-- The active packed threads that violate the partition of their wave (14 R426, R427): address and physical address. -/
def Sys2Proof.Terms.MemForm.violations (r : MemForm) (s : State) (w : Wave) : List (Nat × Nat) :=
  (activeThreads s w).filterMap fun p => match r.check s w p.1 p.2 with
    | .viol pa => some ((BitVec.ofInt 64 (r.addr s w p.1 p.2)).toNat, pa)
    | _ => none

/-- The active packed threads that fail a coded check of 08 R288, with the code. -/
def Sys2Proof.Terms.MemForm.coded (r : MemForm) (s : State) (w : Wave) : List (Nat × Thread × Nat) :=
  (activeThreads s w).filterMap fun p => match r.check s w p.1 p.2 with
    | .coded c => some (p.1, p.2, c)
    | _ => none

/-- 06 R205-R207, R211, R212, R215, R231: words with a scalar result at once. -/
def Obligations.ScalarWordsWriteTheirResult : Prop :=
  ∀ (i : Instr) (s : State) (w : Wave) (r : ScalForm), scalForm s w i = some r → Runs s w [] r.wimm false →
    ∃ w', ScalEffect s w w' r ∧ Leaves i s s w'

/-- 06 R231 with 05 R181: `getw` and its encoding, with a thread active. -/
def Obligations.GetwReadsTheGrant : Prop :=
  ∀ (m : Bool) (d : SReg),
    encode (.getw m d) = some ((if m then 2 ^ 31 else 0) + 0x04 * 2 ^ 25 + d.toNat * 2 ^ 19 + 2 * 2 ^ 8) ∧
    ∀ (s : State) (w : Wave), Runs s w [] false false → w.actives s.cur.tids ≠ [] →
      ∃ w', scal w' d.toNat = BitVec.ofNat 64 w.grant ∧ (∀ j, j ≠ d.toNat → scal w' j = scal w j) ∧
        Threads s w w' (PassedThread s m) ∧
        w' = { w with threads := w'.threads, runx := w.runx || spills s w m, scal := w'.scal } ∧ Leaves (.getw m d) s s w'

/-- 07 R249, R254, R255, R257: integer, bit and select instructions. -/
def Obligations.IntegerWordsWriteTheirResult : Prop :=
  ∀ (i : Instr) (s : State) (w : Wave) (r : VecForm), intForm i = some r → Runs s w r.names r.wimm false →
    ∃ w', VecEffect s w w' r ∧ Leaves i s s w'

/-- 07 R250, R251, R258-R264, R267-R273: floating-point instructions of fixed latency.
03 R112, 12 R375: an enabled instability condition that a handler meets is a handler fault, after the result. -/
def Obligations.FloatWordsWriteTheirResult : Prop :=
  (∀ (i : Instr) (s : State) (w : Wave) (r : VecForm), floatForm i = some r → Runs s w r.names r.wimm false →
    w.priv = none ∨ r.trap s w = [] → ∃ w', VecEffect s w w' r ∧ Leaves i s s w') ∧
  (∀ (i : Instr) (s : State) (w : Wave) (r : VecForm), floatForm i = some r → Runs s w r.names r.wimm false →
    w.priv.isSome = true → r.trap s w ≠ [] →
      ∃ w', VecEffect s w { w' with causes := w.causes ++ r.trap s w } r ∧ w'.causes = w.causes ∧
        (∀ c ∈ r.trap s w, exec i s = .next (settled (handlerFault (setW s s.cur.wave w') s.cur.wave c) s.cur.wave)))

/-- 07 R252, R258, R265, R266, R277-R281; 02 R60, R81, R82: instructions whose results arrive later.
03 R112, 12 R375: an enabled instability condition that a handler meets is a handler fault, the result being on its way.
02 R67; 07 R281, R282: a ballot into a scalar register, `vtos`, and the non-blocking XACQ. -/
def Obligations.LateResultsAreOnTheirWay : Prop :=
  (∀ (i : Instr) (s : State) (w : Wave) (r : VecForm), longFloat i = some r → Runs s w r.names r.wimm false →
    w.priv.isSome = true → r.trap s w ≠ [] →
      ∃ w', LongEffect s w { w' with causes := w.causes ++ r.trap s w } r ∧ w'.causes = w.causes ∧
        (∀ c ∈ r.trap s w,
          exec i s = .next (settled (handlerFault (setW (numbered s 1) s.cur.wave w') s.cur.wave c) s.cur.wave))) ∧
  (∀ (i : Instr) (s : State) (w : Wave) (r : VecForm), longFloat i = some r ∨ crossForm i = some r →
    Runs s w r.names r.wimm false → w.priv = none ∨ r.trap s w = [] →
      ∃ w', LongEffect s w w' r ∧ Leaves i s (numbered s 1) w') ∧
  (∀ (i : Instr) (s : State) (w : Wave) (r : LateForm), lateForm i = some r → Runs s w r.names false r.user →
    w.actives s.cur.tids ≠ [] → ∃ w', LateEffect s w w' r ∧ Leaves i s (numbered s 1) w')

/-- 07 R256, R261: compares.
03 R112, 12 R375: an enabled instability condition that a handler meets is a handler fault, after the condition bits are written. -/
def Obligations.ComparesWriteTheConditionBits : Prop :=
  (∀ (i : Instr) (s : State) (w : Wave) (r : CmForm), cmForm i = some r → Runs s w r.names false false →
    w.priv = none ∨ r.trap s w = [] → ∃ w', CmEffect s w w' r ∧ Leaves i s s w') ∧
  (∀ (i : Instr) (s : State) (w : Wave) (r : CmForm), cmForm i = some r → Runs s w r.names false false →
    w.priv.isSome = true → r.trap s w ≠ [] →
      ∃ w', CmEffect s w { w' with causes := w.causes ++ r.trap s w } r ∧ w'.causes = w.causes ∧
        (∀ c ∈ r.trap s w, exec i s = .next (settled (handlerFault (setW s s.cur.wave w') s.cur.wave c) s.cur.wave)))

/-- 06 R213, 08 R311: reads of special registers into a vector register.
02 R73, R75-R77; 06 R202, R214; 03 R135: writes of special registers, `gstep` among them.
02 R73, 12 R377: a register marked P, named from user level, raises the privilege trap, whether or not the wave holds the
destination's block; nothing else happens. -/
def Obligations.SpecialRegistersAreReadAndWritten : Prop :=
  (∀ (i : Instr) (s : State) (w : Wave) (r : VecForm), readForm i = some r → Runs s w r.names false false →
    (∀ m d n, i = .rdsrVector m d n → ¬denied s w n) → ∃ w', VecEffect s w w' r ∧ Leaves i s s w') ∧
  (∀ (m : Bool) (a : SReg) (n : BitVec 7) (s : State) (w : Wave), Runs s w [] false false → ¬denied s w n →
    let v := readScal s w s.cur.tids 1 a.toNat
    let s' : State :=
      if n = 0x14 ∧ w.actives s.cur.tids ≠ [] ∧ w.priv.isSome = true then
        { s with gsteps := zset 0#64 s.gsteps (partOf s w.cid) v }
      else s
    ∃ w', WrsrEffect s w w' m n.toNat v ∧ Leaves (.wrsr m a n) s s' w') ∧
  (∀ (i : Instr) (n : BitVec 7) (s : State) (w : Wave),
    (∃ m d a, i = .rdsrScalar m a n ∨ i = .rdsrVector m d n ∨ i = .wrsr m a n) →
    Runs s w [] false false → denied s w n →
      Leaves i s s { w with causes := w.causes ++ [⟨cPrivilege, s.cur.addr, BitVec.ofNat 64 n.toNat, 0#32, 0, maskOf s.cur.tids⟩] })

/-- 06 R215: words that write the execution mask. -/
def Obligations.MaskWordsWriteTheExecutionMask : Prop :=
  ∀ (i : Instr) (s : State) (w : Wave) (r : MaskForm), maskForm i = some r → Runs s w [] false false →
    ∃ w', MaskEffect s w w' r ∧ Leaves i s s w'

/-- 06 R217-R220, 05 R178: branches.
06 R219, 12 R368, R375: a branch takes place although no word can be fetched at its target; the instruction-fetch trap is then
raised at user level (one for all its threads, at the branch: log 39), and a handler fault at privileged level. -/
def Obligations.BranchesMoveThreads : Prop :=
  ∀ (i : Instr) (s : State) (w : Wave) (r : BranchForm), branchForm i = some r → Runs s w r.names r.wimm false →
    ∃ w', BranchEffect s w w' r ∧ (straying s w r = [] → Leaves i s s w') ∧
      ∀ n l, straying s w r = n :: l →
        (w.priv = none → (∃ j t, w.thread j = some t ∧ t.live = true) →
          Leaves i s s
            { w' with causes := w.causes ++ [⟨cFetch, destination s w r n, 0#64, 0#32, 0, maskOf (n :: l)⟩] }) ∧
        (w.priv ≠ none →
          exec i s = .next (settled (handlerFault (setW s s.cur.wave w') s.cur.wave
            ⟨cFetch, destination s w r n, 0#64, 0#32, 0, maskOf (n :: l)⟩) s.cur.wave))

/-- 06 R222, R223, R230, R234; 08 R306, R307, R310; 12 R372: words at which the packed threads come to stand. -/
def Obligations.ThreadsStandAtWaitingWords : Prop :=
  ∀ (i : Instr) (s : State) (w : Wave) (r : StandForm), standForm s w i = some r → Runs s w r.names false r.user →
    ∃ w', StandEffect s w w' r ∧ Leaves i s s w'

/-- 06 R226; 08 R307, R312: words that are only passed.
06 R224, 01 R47, R49: `yield` ends the run; in deterministic mode it is a switch point, unless the wave holds a siding (that it does not
give up the core then is log 53, and that a word with the owners of sharded pages counts as one log 77; both DEDUCED). -/
def Obligations.PassedWordsAndYield : Prop :=
  (∀ (i : Instr) (s : State) (w : Wave) (ends user : Bool), passForm s w i = some (ends, user) →
    Runs s w [] false user →
    ∃ w', PassEffect s w w' ends ∧ Leaves i s s w') ∧
  (∀ (m : Bool) (s : State) (w : Wave), Runs s w [] false true →
    ∃ w', PassEffect s w { w' with yielded := w.yielded } true ∧ w'.yielded = true ∧
      exec (.yield m) s =
        .next (settled
          (if w.det && w.sidings.isEmpty && w.held.isEmpty && w.reads.isEmpty then
              giveUp (setW s s.cur.wave w') w.core w.launch (gtid0 s w)
            else setW s s.cur.wave w') s.cur.wave))

/-- 06 R225, 12 R368: `trap` at user level raises the software trap, with its code and the active threads.
02 R70, 12 R368, R375, R377: a word that names a register of a block that its wave does not hold has no effect and raises the trap 0x04,
which reports the first such specifier; in a handler it is a handler fault.
12 R374, R375: a word forbidden at privileged level is a handler fault there and has no other effect, active threads or not. -/
def Obligations.TrapRaisesTheSoftwareTrap : Prop :=
  (∀ (i : Instr) (s : State) (w : Wave) (names : List Spec) (wimm : Bool) (p : Spec), namesOf s w i = some (names, wimm) →
    mget s.waves s.cur.wave = some w → (s.cur.wimm.isSome = true → wimm = true) → (w.priv.isSome = true → forbidden i = false) →
    (∀ m d n, i = .rdsrVector m d n → ¬denied s w n) → w.actives s.cur.tids ≠ [] → names.find? (fun p => w.lacks p) = some p →
      let c : Cause := ⟨cBlock, s.cur.addr, BitVec.ofNat 64 p.toNat, 0#32, 0, maskOf s.cur.tids⟩
      (w.priv = none → Leaves i s s { w with causes := w.causes ++ [c] }) ∧
      (w.priv.isSome = true → exec i s = .next (settled (handlerFault s s.cur.wave c) s.cur.wave))) ∧
  (∀ (i : Instr) (s : State) (w : Wave), forbidden i = true → mget s.waves s.cur.wave = some w → s.cur.wimm = none →
    w.priv.isSome = true → exec i s = .next (settled (handlerFault s s.cur.wave (noCause s)) s.cur.wave)) ∧
  ∀ (i : Instr) (m : Bool) (c : Nat) (s : State) (w : Wave), trapCode i = some (m, c) → Runs s w [] false false →
    w.priv = none →
      ∃ w', PassEffect s w w' m ∧
        Leaves i s s { w' with
          causes := w.causes ++
            if w.actives s.cur.tids = [] then []
            else [⟨cSoftware, s.cur.addr + 4, 0#64, 0#32, c, maskOf (w.actives s.cur.tids)⟩] }

/-- 06 R221: `exit` ends the active packed threads.
06 R216, R221, 02 R93: threads that exit leave the masks and their pending aperture writes; while a thread of the wave
lives, nothing else of the wave changes but results that only they were owed.
06 R221; 02 R68, R93; 04 R171: when the last thread exits, blocks, pin and pending aperture writes go back, and no
register result is owed; issued accesses go on. -/
def Obligations.ExitEndsThreadsAndWaves : Prop :=
  (∀ (m : Bool) (s : State) (w : Wave), Runs s w [] false true →
    ∃ w', PassEffect s w w' true ∧
      exec (.exit m) s =
        .next (settled (exitThreads (setW s s.cur.wave w') s.cur.wave (w.actives s.cur.tids)) s.cur.wave)) ∧
  (∀ (s : State) (k : Nat) (w : Wave) (tids : List Nat), mget s.waves k = some w →
    (∃ n t, w.thread n = some t ∧ t.live = true ∧ n ∉ tids) →
      ∃ w', mget (exitThreads s k tids).waves k = some w' ∧ w'.threads.length = w.threads.length ∧
        (∀ n t, w.thread n = some t → ∃ t', w'.thread n = some t' ∧
          if n ∈ tids then t'.st = .exited ∧ t'.regs = t.regs ∧ t'.digest = t.digest else t'.regs = t.regs) ∧
        (∀ n < 64, w'.em.getLsbD n = (w.em.getLsbD n && !tids.contains n) ∧
          w'.cm.getLsbD n = (w.cm.getLsbD n && !tids.contains n)) ∧
        w'.ldq = w.ldq ∧ w'.stq = w.stq ∧ w'.enq = w.enq ∧ w'.xblk = w.xblk ∧ w'.pin = w.pin ∧
        w'.accs.map (·.id) = w.accs.map (·.id) ∧ (exitThreads s k tids).mem = s.mem) ∧
  (∀ (s : State) (k : Nat) (w : Wave) (tids : List Nat), mget s.waves k = some w →
    (∀ n t, w.thread n = some t → t.live = true → n ∈ tids) →
      ∃ w', mget (exitThreads s k tids).waves k = some w' ∧ (∀ n t, w'.thread n = some t → t.st = .exited) ∧
        w'.xblk = 0 ∧ w'.pin = none ∧ w'.apw = [] ∧ (∀ a ∈ w'.accs, a.dest = none) ∧
        w'.accs.map (·.id) = w.accs.map (·.id) ∧ w'.ldq = w.ldq ∧ w'.stq = w.stq ∧ w'.enq = w.enq)

/-- 06 R228, R229: the threads of a barrier word arrive once every earlier access of the wave is performed, at once if all
are (`countArrivals`); a barrier that does not exist raises the barrier trap. -/
def Obligations.BarrierWordsBringThreadsToTheBarrier : Prop :=
  ∀ (i : Instr) (s : State) (w : Wave) (r : BarForm), barForm i = some r → Runs s w [] false true →
    (r.exists_ s w → ∃ w', StandEffect s w w' r.stand ∧
      exec i s = .next (settled (countArrivals (setW s s.cur.wave w') s.cur.wave) s.cur.wave) ∧
      (w.unperformed = true → Leaves i s s w')) ∧
    (¬r.exists_ s w → w.priv = none → (∃ n t, w.thread n = some t ∧ t.live = true) →
      Leaves i s s { w with
        causes := w.causes ++ [⟨cBarrier, s.cur.addr, BitVec.ofNat 64 r.num, 0#32, 0, maskOf s.cur.tids⟩] })

/-- 06 R232, 01 R23: `setw` sets the request of the unit, unless a wave of a higher number has set it in the same cycle; a request
out of range is an illegal instruction, an immediate one whether or not a thread is active (05 R191). -/
def Obligations.SetwSetsTheRequest : Prop :=
  ∀ (m : Bool) (a : SReg) (i : Bool) (x : BitVec 7) (s : State) (w : Wave), Runs s w [] i true →
    let q := (if i then imm64 s.cur.wimm x else readScal s w s.cur.tids 1 a.toNat).toNat
    (w.actives s.cur.tids = [] → (i = true → 8 ≤ q ∧ q ≤ 64) →
      ∃ w', PassEffect s w w' true ∧ Leaves (.setw m a i x) s s w') ∧
    (w.actives s.cur.tids ≠ [] → 8 ≤ q → q ≤ 64 →
      let e2 := e2Of s w
      let g0 := if e2 ≤ 8 * 32 then 8 else if e2 ≤ 16 * 32 then 16 else if e2 ≤ 32 * 32 then 32 else 64
      ∃ w', PassEffect s w w' true ∧
        Leaves (.setw m a i x) s
          { s with
            units := mmod s.units w.unit (fun u =>
              if u.reqBy.1 = s.cycle ∧ w.wlog < u.reqBy.2 then u else { u with req := max q g0, reqBy := (s.cycle, w.wlog) }) } w') ∧
    (w.actives s.cur.tids ≠ [] ∨ i = true → q < 8 ∨ 64 < q →
      exec (.setw m a i x) s = .next (settled (illegalAt s s.cur.wave s.cur.addr s.cur.word s.cur.tids) s.cur.wave))

/-- 02 R67, R69, 06 R233: the blocking XACQ.
02 R68, 06 R233: XREL. -/
def Obligations.XacqAcquiresOrWaitsAndXrelReleases : Prop :=
  (∀ (m : Bool) (c : BitVec 7) (s : State) (w : Wave), Runs s w [] false true →
    (w.actives s.cur.tids = [] ∨ c.toNat ≤ w.xblk → ∃ w', PassEffect s w w' true ∧ Leaves (.xacq m c) s s w') ∧
    (w.actives s.cur.tids ≠ [] → w.xblk < c.toNat → supplies s w c.toNat = true →
      ∃ w', GainEffect s w w' true c.toNat ∧ Leaves (.xacq m c) s s w') ∧
    (w.actives s.cur.tids ≠ [] → w.xblk < c.toNat → supplies s w c.toNat = false →
      ∃ w' x, StandEffect s w w' (waitXacq c.toNat) ∧
        x = { getC s w.core with
          reqs := if (s.cur.wave, c.toNat) ∈ (getC s w.core).reqs then (getC s w.core).reqs
            else (getC s w.core).reqs ++ [(s.cur.wave, c.toNat)] } ∧
        exec (.xacq m c) s =
          .next (settled { setW s s.cur.wave w' with cores := mset s.cores w.core x } s.cur.wave))) ∧
  (∀ (m : Bool) (c : BitVec 7) (s : State) (w : Wave), Runs s w [] false true →
    (w.actives s.cur.tids = [] ∨ w.xblk ≤ c.toNat → ∃ w', PassEffect s w w' m ∧ Leaves (.xrel m c) s s w') ∧
    (w.actives s.cur.tids ≠ [] → c.toNat < w.xblk → ∃ w', DropEffect s w w' m c.toNat ∧ Leaves (.xrel m c) s s w'))

/-- 08 R285-R289, R298, R303, R305: per-lane memory words whose checks pass put an access on its way and change no memory.
01 R34, R35; 08 R290; 14 R427; 12 R375: where some threads meet a fault in translation, the word completes for the others and they go
into a siding at it; a violation freezes the wave; in a handler a fault in translation is a handler fault. That a thread whose page
another device owns waits at the word is log 77 (DEDUCED).
08 R288, R290: where a thread fails a coded check, the word has no effect and raises the memory-access trap, which
reports the lowest failing thread's code and address and all failing threads; in a handler it is a handler fault (12 R375).
01 R34, R35: what a siding is; where the word forms a section of its own, the section is the word (08 R301). That threads join a fifth
siding which is pending is log 61 (DESIGN CHOICE). -/
def Obligations.MemoryWordsIssueTheirAccessOrTrap : Prop :=
  (∀ (i : Instr) (s : State) (w : Wave) (r : MemForm) (at_ : Nat → Place), memForm i = some r →
    Runs s w r.names r.wimm r.user → r.Passes s w at_ → ∃ w', MemEffect s w w' r at_ ∧ Leaves i s (numbered s 1) w') ∧
  (∀ (i : Instr) (s : State) (w : Wave) (r : MemForm), memForm i = some r → Runs s w r.names r.wimm r.user → r.Goes s w →
    let k := s.cur.wave
    (w.priv = none ∨ r.faults s w = [] → ∃ w', PartEffect s w w' r ∧
      let t := setW (numbered s (if r.placed s w true = [] then 1 else 2)) k w'
      exec i s = .next (settled
        (if r.faults s w = [] then t
         else toSiding t k (needKinds r.op.need + kLane) r.op.own (r.faults s w) ((r.faults s w).map (·.1))) k)) ∧
    (w.priv.isSome = true → r.faults s w ≠ [] → exec i s = .next (settled (handlerFault s k (noCause s)) k))) ∧
  (∀ (i : Instr) (s : State) (w : Wave) (r : MemForm) (va pa : Nat) (rest : List (Nat × Nat)), memForm i = some r →
    Runs s w r.names r.wimm r.user → r.coded s w = [] → r.violations s w = (va, pa) :: rest →
      exec i s = .next (settled (freezeWave s s.cur.wave s.cur.first va pa) s.cur.wave)) ∧
  (∀ (i : Instr) (s : State) (w : Wave) (r : MemForm) (n c : Nat) (t : Thread) (rest : List (Nat × Thread × Nat)),
    memForm i = some r → Runs s w r.names r.wimm r.user → r.coded s w = (n, t, c) :: rest →
      let cause : Cause :=
        ⟨cMemory, s.cur.first, BitVec.ofInt 64 (r.addr s w n t), 0#32, c, maskOf (n :: rest.map (·.1))⟩
      (w.priv = none → Leaves i s s { w with causes := w.causes ++ [cause] }) ∧
      (w.priv.isSome = true → exec i s = .next (settled (handlerFault s s.cur.wave cause) s.cur.wave))) ∧
  (∀ (s : State) (k kind : Nat) (own : Bool) (faults : List (Nat × Nat × Nat)) (tids : List Nat) (w : Wave), mget s.waves k = some w →
    ∃ w' pages, mget (toSiding s k kind own faults tids).waves k = some w' ∧ w'.threads.length = w.threads.length ∧
      w'.sidings = addSiding ⟨freeSiding w, tids, pages⟩ w.sidings ∧
      (pages.map (·.va)).eraseDups = (faults.map (fun f => f.2.1 / 32768 * 32768)).eraseDups ∧
      (∀ n t, w.thread n = some t → ∃ t', w'.thread n = some t' ∧
        if n ∈ tids then
          t' = { t with
            st := .inSiding, hold := .none, siding := freeSiding w, opened := own || t.opened,
            sec := if own then
                ⟨t.stand, t.opidx, 0xFFFFF, true, t.regs, w.em.getLsbD n, w.cm.getLsbD n, t.digest, s.nextId, t.folds, w.xblk⟩
              else t.sec }
        else t' = t) ∧
      w' = { w with threads := w'.threads, sidings := w'.sidings })

/-- 06 R208-R210: scalar loads and stores. That S(SA) + off of an access to the share wraps is log 59 (DESIGN CHOICE).
06 R236-R239: the records of `fqry`.
06 R209; 08 R290; 01 R34; 12 R375; 14 R427: where the one check fails, with a code, in translation (a siding of all packed threads) or as
a violation, the word has no other effect; that the threads wait for an owner's answer at it is log 77 (DEDUCED). -/
def Obligations.ScalarAccessesAndQueries : Prop :=
  (∀ (i : Instr) (s : State) (w : Wave) (r : ScalMem) (pl : Place), scalMem i = some r → Runs s w [] r.imm false →
    w.actives s.cur.tids ≠ [] → r.check s w = .ok pl →
      (isRemote pl = false →
        ∃ w', WaveAccEffect s w w' r.marked (r.access s w pl) (bnat r.load) (bnat (!r.load)) ∧ Leaves i s (numbered s 1) w') ∧
      (isRemote pl = true →
        ∃ w', HeldEffect s w w' r.marked [r.access s w pl] (if r.load then some r.data.toNat else none)
          ((if r.load then kRead else kWrite) + kScalar) ∧ Leaves i s (numbered s 1) w')) ∧
  (∀ (i : Instr) (s : State) (w : Wave) (r : QueryForm) (at_ : Nat → Place) (pl : Place), queryForm i = some r →
    Runs s w [] false false → w.actives s.cur.tids ≠ [] → isRemote pl = false →
    checkGlobal s w .write .scalar 8 (8 * r.words) (r.addr s w) = .ok pl →
    (∀ j < r.words, checkGlobal s w .write .scalar 8 8 (r.addr s w + 8 * j) = .ok (at_ j)) →
      ∃ w', QueryEffect s w w' r at_ ∧ Leaves i s (numbered s (r.words + 1)) w') ∧
  (∀ (i : Instr) (s : State) (w : Wave) (need : Need) (addr : Nat) (v : Verdict),
    (∃ r, scalMem i = some r ∧ Runs s w [] r.imm false ∧ need = (if r.load then .read else .write) ∧ addr = r.addr s w ∧
      v = r.check s w) ∨
    (∃ r, queryForm i = some r ∧ Runs s w [] false false ∧ need = .write ∧ addr = r.addr s w ∧
      v = checkGlobal s w .write .scalar 8 (8 * r.words) addr) →
    w.actives s.cur.tids ≠ [] →
      let k := s.cur.wave
      (∀ c, v = .coded c →
        let cause : Cause := ⟨cMemory, s.cur.first, BitVec.ofNat 64 addr, 0#32, c, maskOf s.cur.tids⟩
        (w.priv = none → Leaves i s s { w with causes := w.causes ++ [cause] }) ∧
        (w.priv.isSome = true → exec i s = .next (settled (handlerFault s k cause) k))) ∧
      (∀ c, v = .trans c →
        (w.priv = none → exec i s = .next (settled
          (toSiding s k (needKinds need + kScalar) false [(lget 0 s.cur.tids 0, addr, c)] s.cur.tids) k)) ∧
        (w.priv.isSome = true → exec i s = .next (settled (handlerFault s k (noCause s)) k))) ∧
      (∀ pa, v = .viol pa → exec i s = .next (settled (freezeWave s k s.cur.first addr pa) k)))

/-- 06 R241, R247, 11 R362: `smpl` starts the sampler with the four loads of its record, performed as it issues where local order lets
them (`storePerformed`); it stops or flushes a sampler of its context as it issues, after the samples of the cycle, and a record write
is on its way; with none it has no effect.
08 R308: `vpin` with a thread active checks the address of the lowest one, and the threads wait. -/
def Obligations.SamplerWordsAndVpin : Prop :=
  ((∀ (m : Bool) (a : SReg) (s : State) (w : Wave) (p0 p1 p2 p3 pl : Place), Runs s w [] false true →
    w.actives s.cur.tids ≠ [] →
    let va := (readScal s w s.cur.tids 1 a.toNat).toNat
    let check (size : Nat) (va : Nat) : Verdict := checkGlobal s w .read .scalar 8 size va
    check 32 va = .ok pl → isRemote pl = false → check 8 va = .ok p0 → check 8 (va + 8) = .ok p1 → check 8 (va + 16) = .ok p2 →
    check 8 (va + 24) = .ok p3 →
      ∃ w', WaveAccEffect s w w' m (sampleAcc s w va [p0, p1, p2, p3]) 4 1 ∧
        exec (.smplStart m a) s =
          .next (settled (storePerformed (setW (numbered s 1) s.cur.wave w') s.cur.wave s.nextId) s.cur.wave)) ∧
  (∀ (m stop : Bool) (a : SReg) (i : Instr) (s : State) (w : Wave), i = (if stop then .smplStop m a else .smplFlush m a) →
    Runs s w [] false true → w.actives s.cur.tids ≠ [] →
    ((∀ x, (getC s w.core).sampler = some x → x.cid ≠ w.cid) → ∃ w', PassEffect s w w' m ∧ Leaves i s s w') ∧
    (∀ x x' t, (getC s w.core).sampler = some x → x.cid = w.cid → t = flushSamples s w.core →
      (getC t w.core).sampler = some x' →
      ∃ w', WaveAccEffect s w w' m (reportAcc s w (if stop then 1 else 2) x') 0 1 ∧
        Leaves i s
          (numbered (if stop then { t with cores := mset t.cores w.core { getC t w.core with sampler := none } } else t) 1) w'))) ∧
  (∀ (m : Bool) (a : Spec) (s : State) (w : Wave) (n : Nat) (t : Thread) (rest : List (Nat × Thread))
    (vrn pidx off : Nat) (pin : Option Pin) (x : VRange),
    Runs s w [a] false true → activeThreads s w = (n, t) :: rest →
    checkGlobal s w .read .pin 1 1 (readOp s w n t 0 1 a true) = .ok (.versioned vrn pidx off pin) →
    mget s.ranges vrn = some x →
      ∃ w', StandEffect s w w' ⟨m, true, [a], false, .awaiting, .vpin x.owner⟩ ∧ Leaves (.vpin m a) s s w')

/-- 09 R315-R317, R324: matrix instructions join their queue; without the matrix unit they trap.
09 R323, R316: `tdesc` reads and rewrites its record as one access of the wave, once its record and its base pass the
checks; `recordAt` reads the record where this device owns it, and is what the owner answered where another does (14 R435). -/
def Obligations.MatrixWordsAndTdesc : Prop :=
  (∀ (i : Instr) (s : State) (w : Wave) (r : MatForm), matForm i = some r → wordIs s i → Runs s w [] false true →
    w.actives s.cur.tids ≠ [] →
    (holdsMatrix s w = true → ∃ w' x,
      IssueEffect s w w' r.marked [] (s.nextId + 1) r.counted (raised w s.cur.hint) ∧
        Enqueued (getC s w.core) x r.queue (matCmd s w r) ∧
        exec i s =
          .next (settled { setW (numbered s 1) s.cur.wave w' with cores := mset s.cores w.core x } s.cur.wave)) ∧
    (holdsMatrix s w = false → w.priv = none →
      Leaves i s s { w with causes := w.causes ++ [⟨cMatrix, s.cur.addr, 0#64, 0#32, 0, maskOf s.cur.tids⟩] })) ∧
  (∀ (m : Bool) (x y z : SReg) (orig base : Bool) (s : State) (w : Wave) (pl : Place) (v : Nat), Runs s w [] false true →
    w.actives s.cur.tids ≠ [] →
    let va := (readScal s w s.cur.tids 1 x.toNat).toNat
    let yv := (readScal s w s.cur.tids 2 y.toNat).toNat
    let zv := (readScal s w s.cur.tids 3 z.toNat).toNat
    let rec_ := tensorRec v
    checkGlobal s w .both .scalar 64 64 va = .ok pl → isRemote pl = false → recordAt s w va 64 2 pl = some v →
    (rec_.space ≠ 0 ∨ rec_.fmt = 0x20 ∨
      (unwalked s w.cid (if base then yv else rec_.base) = false ∧
        ∃ p, translate s w.cid (tlbOf s w) w.priv.isSome .read (if base then yv else rec_.base) = .page p)) →
      ∃ w', Threads s w w' (SectionThread s w m [] (s.nextId + 1)) ∧
        w' = { w with
          threads := w'.threads, runx := w.runx || spills s w m, slots := raised w s.cur.hint,
          ldq := w.ldq ++ [(s.nextId, false)], stq := w.stq ++ [(s.nextId, false)], reads := (w.dropRead va 2).reads,
          accs := w.accs ++ [ordered s w
            { waveAcc s w (.tdesc (bnat base + 2 * bnat orig)) va pl [yv, zv] none with
              slot := raisedSlot w s.cur.hint, after := [] }] } ∧
        Leaves (.tdesc m x y z orig base) s (numbered s 1) w')

/-- 09 R335-R337, R341-R343, R347, R350: engine words append their command; `ecopy` with a follow-on pointer of 0 is one of
them (09 R339).
09 R339: an `ecopy` with a follow-on reads its record at issue.
09 R337, R367: an engine word whose consist the context does not have notes command error 1 and does nothing else. -/
def Obligations.EngineWordsAppendTheirCommand : Prop :=
  (∀ (i : Instr) (s : State) (w : Wave) (r : EngForm) (q : Consist), engForm i = some r → Runs s w [] false true →
    w.actives s.cur.tids ≠ [] → consistOf s w.cid (dieOf w.core) r.eng = some q →
    ((∃ m x y z e, i = .ecopy m x y z e) → engOp s w 3 r.z = 0#64) →
      let con := conOf (dieOf w.core) r.eng
      ∃ w', AppendEffect s w w' r.marked con q none ∧
        exec i s = .next (settled (appended s w' con q (engCmd s w r con q)) s.cur.wave)) ∧
  (∀ (m : Bool) (x y z : SReg) (e : BitVec 2) (s : State) (w : Wave) (r : EngForm) (q : Consist) (pl : Place) (v : Nat),
    engForm (.ecopy m x y z e) = some r → Runs s w [] false true → w.actives s.cur.tids ≠ [] →
    consistOf s w.cid (dieOf w.core) r.eng = some q → engOp s w 3 r.z ≠ 0#64 →
    checkGlobal s w .read .scalar 32 32 (engOp s w 3 r.z).toNat = .ok pl →
    badGranule s pl 32 (engOp s w 3 r.z).toNat = none → recordAt s w (engOp s w 3 r.z).toNat 32 1 pl = some v →
      let con := conOf (dieOf w.core) r.eng
      ∃ w', AppendEffect s (w.dropRead (engOp s w 3 r.z).toNat 1) w' m con q (some (v % 2 ^ 256)) ∧
        exec (.ecopy m x y z e) s =
          .next (settled (appended s w' con q { engCmd s w r con q with follow := some (v % 2 ^ 256) }) s.cur.wave)) ∧
  (∀ (i : Instr) (s : State) (w : Wave) (r : EngForm), engForm i = some r → Runs s w [] false true →
    w.actives s.cur.tids ≠ [] → consistOf s w.cid (dieOf w.core) r.eng = none →
      ∃ w', ClosedEffect s w w' r.marked [] s.nextId ∧
        w' = { w with
          threads := w'.threads, runx := w.runx || spills s w r.marked,
          cmdErrs := w.cmdErrs ++ [noteError s (some (conOf (dieOf w.core) r.eng)) 1] } ∧
        Leaves i s s w')

/-- 09 R344-R346: `publish`, `eseq` and `ewait`. That the section that a waiting `ewait` begins has the `ewait` itself as its entry is log 40
(DEDUCED). -/
def Obligations.PublishEseqEwait : Prop :=
  (∀ (m : Bool) (x : SReg) (s : State) (w : Wave), Runs s w [] false true → w.actives s.cur.tids ≠ [] →
    (ownsGroup s w.cid = true →
      ∃ w', ClosedEffect s w w' m [1024 + x.toNat] (s.nextId + 1) ∧
        w' = { w with
          threads := w'.threads, runx := w.runx || spills s w m, enq := w.enq ++ [(s.nextId, false)],
          accs := w.accs ++ [{ scalarLater s w x 0#64 with
            op := .publish, lanes := [⟨lget 0 s.cur.tids 0, 0, .single 0, []⟩], performed := false, user := true }] } ∧
        Leaves (.publish m x) s (numbered s 1) w') ∧
    (ownsGroup s w.cid = false →
      ∃ w', ClosedEffect s w w' m [1024 + x.toNat] (s.nextId + 1) ∧
        w' = { w with
          threads := w'.threads, runx := w.runx || spills s w m, accs := w.accs ++ [scalarLater s w x 0#64],
          cmdErrs := w.cmdErrs ++ [noteError s none 7] } ∧
        Leaves (.publish m x) s (numbered s 1) w')) ∧
  (∀ (m last : Bool) (x : SReg) (e : BitVec 3) (s : State) (w : Wave) (q : Consist), Runs s w [] false true →
    w.actives s.cur.tids ≠ [] → consistOf s w.cid (dieOf w.core) e.toNat = some q →
      let con := conOf (dieOf w.core) e.toNat
      let v : W64 := if last then (mget w.lastSeq con).getD 0#64 else BitVec.ofNat 64 (conTag con * 2 ^ 62 + q.milepost % 2 ^ 62)
      ∃ w', ClosedEffect s w w' m [1024 + x.toNat] (s.nextId + 1) ∧
        w' = { w with
          threads := w'.threads, runx := w.runx || spills s w m, accs := w.accs ++ [scalarLater s w x v] } ∧
        Leaves (if last then .eseqLast m x e else .eseqMilepost m x e) s (numbered s 1) w') ∧
  (∀ (m : Bool) (x : SReg) (e : BitVec 3) (s : State) (w : Wave) (q : Consist), Runs s w [] false true →
    w.actives s.cur.tids ≠ [] →
    let v := readScal s w s.cur.tids 1 x.toNat
    let die := if e.toNat < 5 then v.toNat / 2 ^ 62 else 0
    let count := v.toNat % 2 ^ 62
    consistOf s w.cid die e.toNat = some q →
      ∃ w' w'', ClosedEffect s w w' true [] s.nextId ∧
        w' = { w with threads := w'.threads, runx := w.runx || spills s w true } ∧
        w'' = w'.onTids s.cur.tids (fun _ t => { t with
          st := .waiting, hold := .milepost (conOf die e.toNat) count, sec := { t.sec with entry := s.cur.first } }) ∧
        Leaves (.ewait m x e) s s (if count ≤ q.milepost then w' else w''))

/-- 06 R202, 09 R316: with no packed thread active, words that act for the wave are only passed; an MM or EN word still
closes its section. -/
def Obligations.WordsThatNoThreadIsActiveAt : Prop :=
  (∀ (i : Instr) (s : State) (w : Wave) (m imm user : Bool), w.actives s.cur.tids = [] → Runs s w [] imm user →
    ((∃ r, scalMem i = some r ∧ m = r.marked ∧ imm = r.imm ∧ user = false) ∨
      (∃ r, queryForm i = some r ∧ m = r.marked ∧ imm = false ∧ user = false) ∨
      (∃ a, (i = .smplStart m a ∨ i = .smplStop m a ∨ i = .smplFlush m a) ∧ imm = false ∧ user = true) ∨
      (∃ r, lateForm i = some r ∧ m = r.marked ∧ imm = false ∧ user = r.user)) →
      ∃ w', PassEffect s w w' m ∧ Leaves i s s w') ∧
  (∀ (i : Instr) (s : State) (w : Wave) (m : Bool), w.actives s.cur.tids = [] → Runs s w [] false true →
    ((∃ r, matForm i = some r ∧ m = r.marked) ∨ (∃ r, engForm i = some r ∧ m = r.marked) ∨
      (∃ x, i = .publish m x) ∨ (∃ x e, i = .eseqMilepost m x e ∨ i = .eseqLast m x e) ∨
      (∃ m' x e, i = .ewait m' x e ∧ m = true) ∨ (∃ x y z o b, i = .tdesc m x y z o b)) →
      ∃ w', ClosedEffect s w w' m [] s.nextId ∧
        w' = { w with threads := w'.threads, runx := w.runx || spills s w m } ∧ Leaves i s s w')

/-- 05 R176-R179; 02 R60, R80, R84: an HN word stays pending for the next instruction, delays it by its stall count outside
interlocked mode, and changes no register; a second one of its kind is an illegal instruction. -/
def Obligations.HnWordsStayPending : Prop :=
  (∀ (stall : BitVec 4) (wmask : BitVec 16) (seten : Bool) (slot : BitVec 4) (s : State) (w : Wave),
    Runs s w [] true false →
    (s.cur.hint = none → ∃ w',
      HnEffect s w w' (if w.ilk then 0 else stall.toNat) (fun t =>
        { t with hint := some (stall.toNat * 2 ^ 21 + wmask.toNat * 2 ^ 5 + bnat seten * 2 ^ 4 + slot.toNat) }) ∧
        Leaves (.hint stall wmask seten slot) s s w') ∧
    (s.cur.hint.isSome = true →
      exec (.hint stall wmask seten slot) s =
        .next (settled (illegalAt s s.cur.wave s.cur.addr s.cur.word s.cur.tids) s.cur.wave))) ∧
  (∀ (p : BitVec 25) (s : State) (w : Wave), Runs s w [] true false →
    (s.cur.wimm = none → ∃ w',
      HnEffect s w w' 0 (fun t => { t with wimm := some p.toNat }) ∧ Leaves (.wimm p) s s w') ∧
    (s.cur.wimm.isSome = true →
      exec (.wimm p) s = .next (settled (illegalAt s s.cur.wave s.cur.addr s.cur.word s.cur.tids) s.cur.wave)))

/-- 15 R437, R448, R452, R454, R441; 03 R135: what a cold reset leaves. Fields for which the manual gives no value are not
named here (log 11); that a wiped byte reads 0 is the model's choice (log 3). -/
def Obligations.TheDeviceAfterReset : Prop :=
  (∀ d a, dieByte State.reset d a = 0#8 ∧ homeByte State.reset a = 0#8) ∧
    State.reset.waves = [] ∧ State.reset.units = [] ∧ State.reset.contexts = [] ∧ State.reset.launches = [] ∧
    State.reset.binds = [] ∧ State.reset.ranges = [] ∧ State.reset.walkers = [] ∧ State.reset.mgmt.elog = 0 ∧
    State.reset.mgmt.thresholds = [([256, 1, 64, 4, 16], [])] ∧
    (∀ c, (getC State.reset c).tlb = [] ∧ (getC State.reset c).mat.acc = [] ∧ (getC State.reset c).owner = none) ∧
    (∀ p, zget 0#64 State.reset.gsteps p = 0#64) ∧
    (∀ fn < 9, ∃ f, mget State.reset.funcs fn = some f ∧ f.evbase = 0 ∧ f.evlog = 0 ∧ f.queues.length = 16 ∧
      ∀ q ∈ f.queues, q.qbase = 0 ∧ q.qlog = 0 ∧ q.head = 0 ∧ q.tail = 0 ∧ q.qerr = false)

/-- 01 R28, R30; 05 R173; 13 R404: the quadrant that issues runs the word at its group's address, decoded, for the packed
threads; a word without a meaning is an illegal instruction (05 R191). The pointer and the cycles taken come first
(`afterSelect`). A sample that is due comes before anything else (06 R244). A step with no wave to issue takes the agenda's event, or
lets a cycle pass, which ends only once no quadrant may issue in it (log 1, log 15). -/
def Obligations.StepRunsTheDecodedInstruction : Prop :=
  (∀ (s a : State) (core quad k n : Nat) (w : Wave) (g : Group) (l : List Choice), sampleTurn s = none →
    (s.agenda = .issue core quad :: l ∧ a = { s with agenda := l }) ∨
      (s.agenda = [] ∧ nextQuad s = some (core, quad) ∧ a = s) →
    selected a core quad = some (k, w, g) → g.word = .word n →
      let tids := ascending w.threads.length g.tids
      let b : State :=
        { afterSelect a k (w.dropRead g.addr.toNat 0) g (waveWide n) with cur := ⟨k, g.addr, g.first, tids, n, g.hint, g.wimm⟩ }
      (∀ i, decode n = .ok i → step s = exec i b) ∧
        (∀ e, decode n = .error e → step s = .next (settled (illegalAt b k g.addr n tids) k))) ∧
  (∀ (s : State) (core : Nat), sampleTurn s = some core → step s = exec (.sampleTake core) s) ∧
  (∀ (s : State) (i : Instr) (l : List Choice), sampleTurn s = none → s.agenda = .event i :: l → encode i = none →
    step s = exec i { s with agenda := l }) ∧
  (∀ (s : State) (l : List Choice), sampleTurn s = none → s.agenda = .tick :: l → nextQuad s = none →
    step s = .next (passCycle { s with agenda := l }))

/-- 05, 06, 08 and 12: words that the manual writes out decode to what it says they are. -/
def Obligations.WordsOfTheManualDecode : Prop :=
  decode 0x02400000 = .ok (.hint 2#4 0#16 false 0#4) ∧ decode 0x02000074 = .ok (.hint 0#4 3#16 true 4#4) ∧
    decode 0x8B60010F = .ok (.block true 0x0010F#20) ∧ decode 0x0BA00005 = .ok (.trap false 5#8) ∧
    decode 0x0BC00000 = .ok (.nop false) ∧ decode 0x0CC00000 = .ok (.fenceW false) ∧
    decode 0x0BA00001 = .ok (.handlerSaved false)

/-- 05 R173-R191: every well-formed word instruction decodes from its encoding, with every operand as it was, and its word
has 32 bits. -/
def Obligations.DecodingInvertsEncoding : Prop :=
  ∀ (i : Instr) (n : Nat), i.wf = true → encode i = some n → n < 2 ^ 32 ∧ decode n = .ok i

/-- Log 3: device and host memory keep their canonical form through every step. -/
def Obligations.StepsKeepMemoryCanonical : Prop :=
  ∀ s t : State, MemoryOk s → step s = .next t → MemoryOk t

/-- Log 3: they have it after reset. -/
def Obligations.MemoryIsCanonicalAfterReset : Prop := MemoryOk State.reset

/-- No instruction is refused, and a word stops only where no wave executes it, which no step does: every step of the device
goes on. -/
def Obligations.TheDeviceAlwaysGoesOn : Prop :=
  (∀ (i : Instr) (s : State), (∃ t, exec i s = .next t) ∨
    (exec i s = .fault .noExecution ∧ i.isEvent = false ∧ mget s.waves s.cur.wave = none)) ∧
  ∀ s : State, GoesOn s

/-- What `settled` adds to a word's own effect: a wave whose threads are Ready or exited, none of them at a switch marker, at
user level, outside deterministic mode and with no cause pending, does nothing by itself but stop to be parked once nothing is owed to it.
02 R82, R83, R93: at a switch marker a wave parks while a result is owed to it; without one the marker is complete, and
pending aperture writes of the threads that stand at it take effect, also on the entry of a section that the marked word began (02
R86). Its threads may issue from the following cycle on, which 11 R362 leaves open (DEDUCED, log 50). -/
def Obligations.SettledWavesAndSwitchMarkers : Prop :=
  (∀ (s : State) (k : Nat) (w : Wave),
    (∀ t ∈ w.threads, (t.st = .ready ∨ t.st = .exited) ∧ t.marking = false) → w.priv = none → w.causes = [] → w.det = false →
    NoPhaseOver s w.unit →
      settled (setW s k w) k = nextFree (setW s k { w with parked := w.parked && w.owes })) ∧
  (∀ (s : State) (k : Nat) (w : Wave),
    (∀ t ∈ w.threads, (t.st = .ready ∨ t.st = .exited) ∧ t.hold = .none) → w.priv = none → w.causes = [] → w.cmdErrs = [] →
    w.det = false → NoPhaseOver s w.unit → (∃ t ∈ w.threads, t.marking = true ∧ t.live = true) →
    (w.owes = true → settled (setW s k w) k = nextFree (setW s k { w with parked := true })) ∧
    (w.owes = false → ∃ w', settled (setW s k w) k = nextFree (setW s k w') ∧ w'.threads.length = w.threads.length ∧
      (∀ n t, w.thread n = some t → w'.thread n = some
        (if t.marking = true ∧ t.live = true then
          { applyAp w t with
            marking := false, owed := [], clobbered := [], wake := max t.wake (s.cycle + 1),
            sec := if t.opened then { t.sec with regs := (applyAp w t).regs } else t.sec }
        else t)) ∧
      w' = { w with
        threads := w'.threads, parked := false,
        apw := w.apw.filter (fun a => !(w.threads.any fun t => t.marking && t.live && t.lidx == a.lidx)) }))

/-- 01 R32, R54: when every non-exited thread of a cohort stands at one `rcb`, all of them go on from the following address,
with the masks unchanged; when they are all of the wave's threads, the wave has one cohort again. They may issue two cycles on, which 11
R362 leaves open for those that came before the others (DEDUCED, log 50).
01 R33, 12 R368: when they stand at two or more RCB addresses, the reconvergence-mismatch trap becomes pending, with the
least address, the number of addresses and the threads; here the wave is still owed a result, so that it does not take the
trap yet (12 R371). -/
def Obligations.RcbReleasesOrMismatches : Prop :=
  (∀ (s : State) (k c : Nat) (w : Wave) (pc : W64), w.priv = none → w.causes = [] → w.det = false → NoPhaseOver s w.unit →
    (∀ t ∈ w.threads, t.marking = false ∧ (t.live = true →
      if t.cohort = c then t.st = .atRcb ∧ t.hold = .join none ∧ t.pc = pc else t.st = .ready)) →
    (∃ t ∈ w.threads, t.live = true ∧ t.cohort = c) →
      let whole := ∀ t ∈ w.threads, t.live = true → t.cohort = c
      ∃ w', settled (setW s k w) k = nextFree (setW s k w') ∧ w' = { w with threads := w'.threads, parked := w.parked && w.owes } ∧
        w'.threads.length = w.threads.length ∧
        ∀ n t, w.thread n = some t → ∃ t', w'.thread n = some t' ∧
          (whole → t'.cohort = w.wlog * w.grant) ∧ (¬whole → t'.cohort = t.cohort) ∧
          { t' with cohort := t.cohort } =
            if t.live = true ∧ t.cohort = c then
              { t with st := .ready, hold := .none, pc := pc + 4, wake := max t.wake (s.cycle + 2), wakeCode := 3 }
            else t) ∧
  (∀ (s : State) (k c : Nat) (w : Wave), mget s.waves k = some w → w.priv = none → w.causes = [] → w.det = false →
    w.owes = true → NoPhaseOver s w.unit →
    (∀ t ∈ w.threads, t.marking = false ∧ (t.live = true →
      if t.cohort = c then t.st = .atRcb ∧ t.hold = .join none else t.st = .ready)) →
    (∃ t ∈ w.threads, ∃ u ∈ w.threads, t.live = true ∧ u.live = true ∧ t.cohort = c ∧ u.cohort = c ∧ t.pc ≠ u.pc) →
      ∃ x : Cause, x.code = cMismatch ∧ x.taddr = 0#64 ∧
        (∃ t ∈ w.threads, t.live = true ∧ t.cohort = c ∧ t.pc = x.info0) ∧
        (∀ t ∈ w.threads, t.live = true → t.cohort = c → x.info0 ≤ t.pc) ∧
        x.info1 = BitVec.ofNat 32
          (((w.threads.filter (fun t => t.live && t.cohort == c)).map (·.pc)).eraseDups).length ∧
        x.tmask = maskOf ((w.numbered.filter (fun p => p.2.live && p.2.cohort == c)).map (·.1)) ∧ x.sub = 0 ∧
        settled s k = nextFree (setW s k { w with causes := [x] }))

/-- 12 R369-R371, R377: a wave at user level with a pending cause takes it when no result is owed and no word of it is with the owners of
sharded pages: the frame, the handler's
start, the level, and nothing else. `trapEntry` is that step. -/
def Obligations.TrapEntrySavesTheWaveAndStartsTheHandler : Prop :=
  ∀ (s : State) (k pa : Nat) (w : Wave) (x : Context) (c : Cause), mget s.waves k = some w → w.priv = none → w.frozen = false →
    w.owes = false → w.held = [] → w.pre ≠ .saved → w.threads.length ≤ 64 → firstCause w.causes trapOrder = some c →
    mget s.contexts w.cid = some x → sbPlace s w.cid (frameAddr x w) 8192 .write = .dev [pa] →
      let fa := frameAddr x w
      let left : Wave := { w with causes := dropOne c w.causes }
      ∃ t w', takeTrap s k = t ∧ t = { s with waves := mset s.waves k w', mem := t.mem, vis := t.vis } ∧
        (∀ a, a < pa ∨ pa + 0x1500 ≤ a → ∀ d, dieByte t d a = dieByte s d a) ∧
        (∀ d, ofBytes (dieBytes t d pa 64) =
          frameHeader left c 0 (pendMask left.causes (w.pre == .requested)) % 2 ^ 512) ∧
        (∀ d, ∀ j < 8, ofBytes (dieBytes t d (pa + 0x40 + 8 * j) 8) = (zget 0#64 w.scal j).toNat) ∧
        (∀ d n th, w.thread n = some th →
          ofBytes (dieBytes t d (pa + 0x100 + 32 * n) 32) =
            threadRecord (w.active n) (w.cm.getLsbD n) (c.code == cPreempt) th % 2 ^ 256) ∧
        (∃ p, w'.priv = some p ∧ p.cause = c ∧ p.frame = BitVec.ofNat 64 fa ∧ p.kept = w.threads ∧ p.keptEm = w.em ∧
          p.keptCm = w.cm) ∧
        w'.threads.length = w.threads.length ∧
        (∀ n th, w.thread n = some th → ∃ th', w'.thread n = some th' ∧ th'.regs = th.regs ∧
          if th.live then
            th'.st = .ready ∧ th'.hold = .none ∧ th'.pc = x.vbase + BitVec.ofNat 64 (256 * c.code) ∧ th'.hint = none ∧
              th'.wimm = none ∧ th'.inRun = false ∧ th'.win = []
          else th' = th) ∧
        (∀ n < 64, w'.em.getLsbD n = ((w.thread n).map (·.live)).getD false) ∧ w'.cm = 0#64 ∧
        zget 0#64 w'.scal 0 = BitVec.ofNat 64 fa ∧ zget 0#64 w'.scal 1 = BitVec.ofNat 64 c.code ∧
        (∀ l, mget s.launches w.launch = some l →
          zget 0#64 w'.scal 2 = BitVec.ofNat 64 (l.savebase + ordOf s w * l.ustride)) ∧
        zget 0#64 w'.scal 3 = 0#64 ∧ (∀ j, 4 ≤ j → zget 0#64 w'.scal j = zget 0#64 w.scal j) ∧
        w' = { left with
          threads := w'.threads, em := w'.em, cm := w'.cm, scal := w'.scal, parked := false, priv := w'.priv, reads := [] } ∧
        ((∀ th ∈ w.threads, (th.st = .ready ∨ th.st = .exited) ∧ th.marking = false) → w.det = false → w.parked = false →
          NoPhaseOver s w.unit → exec (.trapEntry k) s = .next (nextFree t))

/-- 12 R372: `trap 0` of a handler, when every thread stands at it and no result is owed, returns: each thread goes on where
its record says, with the operand registers, masks and scalars of the frame, and stands in its barrier or wait as the
hardware kept it. What fault service has resolved meanwhile takes effect then (`freeSidings`), and a siding cancelled meanwhile ends
the wave (12 R371). For causes other than the reconvergence mismatch, whose handler may move threads. -/
def Obligations.HandlerReturnRestoresTheWave : Prop :=
  ∀ (s : State) (k pa : Nat) (more : List Nat) (w : Wave) (p : Priv) (pc : W64), mget s.waves k = some w → w.priv = some p →
    w.owes = false → 1 ≤ p.cause.code → p.cause.code ≤ 13 → p.cause.code ≠ cMismatch →
    p.kept.length = w.threads.length →
    (∀ t ∈ w.threads, t.live = true → t.st = .atRcb ∧ t.hold = .leave 0 ∧ t.pc = pc) → (∃ t ∈ w.threads, t.live = true) →
    sbPlace s w.cid p.frame.toNat 8192 .read = .dev (pa :: more) →
    let rd (off n : Nat) : Nat := frameNat s w.core pa off n
    (∀ n t, p.kept[n]? = some t → (t.live = false ↔ bitsAt (rd (0x100 + 32 * n) 32) 40 4 = 5)) →
      ∃ w' : Wave, leaveHandler s k =
          (let a := setW s k (w'.freeSidings s.cycle)
           if p.ended then cancelWave a k else a) ∧
        w'.threads.length = w.threads.length ∧
        (∀ n t kept, w.thread n = some t → p.kept[n]? = some kept → ∃ t', w'.thread n = some t' ∧
          if kept.live then
            t'.pc = BitVec.ofNat 64 (bitsAt (rd (0x100 + 32 * n) 32) 192 64) ∧ t'.st = kept.st ∧ t'.hold = kept.hold ∧
              t'.opidx = kept.opidx ∧ t'.sec = kept.sec ∧ t'.siding = kept.siding ∧ t'.cohort = t.cohort ∧
              t'.hint = none ∧ t'.wimm = none ∧ t'.inRun = false ∧ t'.win = [] ∧
              (∀ key, 4 * 0x64 ≤ key ∨ key < 4 * 0x60 → cell t' key = cell t key) ∧
              ∀ j < 4, ∀ i ∈ w.sibs, cell t' (4 * (0x60 + j) + i) =
                .val (BitVec.ofNat 32 (bitsAt (rd (0x900 + 48 * n + 16 * i) 16) (32 * j) 32))
          else t' = t) ∧
        (∀ n < 64, w'.em.getLsbD n = (((p.kept[n]?).map (·.live)).getD false && tst (rd (0x100 + 32 * n) 32) 36) ∧
          w'.cm.getLsbD n = (((p.kept[n]?).map (·.live)).getD false && tst (rd (0x100 + 32 * n) 32) 35)) ∧
        (∀ j < 8, zget 0#64 w'.scal j = BitVec.ofNat 64 (rd (0x40 + 8 * j) 8)) ∧
        (∀ j, 8 ≤ j → zget 0#64 w'.scal j = zget 0#64 w.scal j) ∧
        w'.aflag = BitVec.ofNat 32 (bitsAt (rd 0 64) 256 15) ||| p.late ∧ w'.priv = none ∧
        w' = { w with
          threads := w'.threads, em := w'.em, cm := w'.cm, scal := w'.scal, aflag := w'.aflag, nctl := w'.nctl,
          epoch := w'.epoch, priv := none, parked := false }

/-- 04 R159, R160, R165: a write that every die sees at once is what every die then reads there, and a write of one die is
read there by that die and at home, while the other dies read what they read before; nothing else changes. -/
def Obligations.ReadsAfterWrites : Prop :=
  (∀ (s : State) (pa a d : Nat) (bs : List Byte),
    dieByte (writeHome s pa bs) d a = if pa ≤ a then bs[a - pa]?.getD (dieByte s d a) else dieByte s d a) ∧
  (∀ (s : State) (pa a d : Nat) (bs : List Byte), d < 4 →
    homeByte (writeDie s d pa bs) a = (if pa ≤ a then bs[a - pa]?.getD (homeByte s a) else homeByte s a) ∧
    (unseenByte d a s.vis = none → dieByte (writeDie s d pa bs) d a = homeByte (writeDie s d pa bs) a) ∧
    (∀ e < 4, e ≠ d → dieByte (writeDie s d pa bs) e a = dieByte s e a)) ∧
  (∀ (s : State) (pa : Nat) (bs : List Byte) (d : Nat), dieBytes (writeHome s pa bs) d pa bs.length = bs)

/-- 13 R405: the multiplier mix. -/
def Obligations.MixFollowsItsFormula : Prop :=
  ∀ h w : BitVec 64,
    let a := (h ^^^ w) * 0x9E3779B97F4A7C15#64
    let b := a ^^^ a >>> 31
    let c := b.rotateLeft 27 * 0xC2B2AE3D27D4EB4F#64
    mix h.toNat w.toNat = (c ^^^ c >>> 29).toNat

/-- 14 R434: the owner of a page of a sharded range. -/
def Obligations.ShardOwnersFollowTheirFormula : Prop :=
  ∀ (va : BitVec 56) (ns : Nat),
    shardOwner va.toNat ns = (mix 0 (va.extractLsb 55 15).toNat / 2 ^ 32 % 2 ^ 32) * ns / 2 ^ 32 ∧
      (0 < ns → shardOwner va.toNat ns < ns) ∧
      ∀ va' : BitVec 56, va'.extractLsb 55 15 = va.extractLsb 55 15 → shardOwner va'.toNat ns = shardOwner va.toNat ns

/-- 01 R35, 02 R83, 14 R427, 13 R404: a wave with a fifth siding (a handler may go on once fault service has resolved another
one), a parked wave and a frozen one issue nothing, and a core issues nothing after a fatal error (15 R451). -/
def Obligations.WavesThatIssueNothing : Prop :=
  ∀ (s : State) (k : Nat) (w : Wave),
    (((∃ f ∈ w.sidings, f.num = 4) ∧ (w.priv = none ∨ ∀ f ∈ w.sidings, f.num ≠ 4 → f.over = false)) ∨
      w.parked = true ∨ w.frozen = true ∨ (w.priv = none ∧ w.causes ≠ []) → eligible s k w = none) ∧
    (s.mgmt.fatal = true → ∀ core quad, selected s core quad = none)

/-- 01 R37, R38; 06 R221, R229; 11 R362; 13 R400: arrivals that count, phases of tree barriers that complete in a later cycle than the
last arrival, and ended waves that leave their slots once their counters are 0. -/
def Obligations.BarriersCompleteAndEndedWavesLeave : Prop :=
  (∀ (s : State) (k n count : Nat) (w : Wave) (wait : Bool) (who : List Nat), mget s.waves k = some w → w.unperformed = false →
    who = (w.numbered.filter (fun p => p.2.hold == .arrive false n count wait)).map (·.1) → who ≠ [] →
    (∀ t ∈ w.threads, ∀ tr m c wt, t.hold = .arrive tr m c wt → tr = false ∧ m = n ∧ c = count ∧ wt = wait) →
      let a := arriveNamed (setW s k (w.openSections s.nextId who)) k n count wait who
      exec (.barrierArrive k) s = .next (nextFree (concludeAll a (k :: (unitWaves a w.unit).filter (· != k))))) ∧
  (∀ (live count : Nat) (b : Bar), b.count = none ∨ b.count = some count →
    let full := if count = 0 then live ≤ b.arrived + 1 else count ≤ b.arrived + 1
    Bar.arrive live count b =
      (if full then ⟨b.phase + 1, none, 0, b.since⟩ else ⟨b.phase, some count, b.arrived + 1, b.since⟩, false)) ∧
  (∀ (s : State) (n plat unit tier : Nat) (l : Launch) (b : TreeBar), mget s.launches n = some l → platTier l plat = some tier →
    mget l.trees (plat + 8 * unit) = some b → treeFull s n l tier unit b = true → scopeShown s n l tier b = true →
    s.cycle ≠ b.since →
      let left := b.arrived.filterMap (fun e => if e.2 ≤ 1 then none else some (e.1, e.2 - 1))
      let b' : TreeBar := ⟨b.phase + 1, left, b.since, if left = [] then [] else b.dies⟩
      let a : State := { s with launches := mset s.launches n { l with trees := mset l.trees (plat + 8 * unit) b' } }
      exec (.treeBarrierPhaseComplete n plat unit) s = .next (nextFree (concludeAll a (launchWaves s n)))) ∧
  (∀ (s : State) (k : Nat) (w : Wave), mget s.waves k = some w → (∀ t ∈ w.threads, t.st = .exited) → w.det = false →
    w.ldq = [] → w.stq = [] → w.enq = [] →
      exec (.waveSlotFree k) s = .next (nextFree (finishUnit
        { s with
          waves := mdel s.waves k, binds := mmod s.binds k (fun b => { b with state := 0 }),
          units := mmod s.units w.unit
            (fun u => { u with gone := w.threads.foldl (fun m t => mset m t.lidx t.digest) u.gone }) } w.unit))) ∧
  (∀ (s : State) (k : Nat) (w : Wave), mget s.waves k = some w →
    (∃ t ∈ w.threads, t.live = true) ∨ w.ldq ≠ [] ∨ w.stq ≠ [] ∨ w.enq ≠ [] →
    exec (.waveSlotFree k) s = .next (nextFree s))

/-- 02 R66-R71; 06 R234; 04 R171; 08 R308, R310: requests for registers that are met, in the order in which they began to wait, the
deadlock trap, and pins. A re-charge is met while no handler runs (log 62). Threads that a pin or its removal releases may issue in the next
cycle, which 11 R362 leaves open (DEDUCED, log 50). -/
def Obligations.RequestsPinsAndDeadlocks : Prop :=
  (∀ (s : State) (core quad k n : Nat) (rest : List (Nat × Nat)) (w : Wave), quadReqs s core quad = (k, n) :: rest → n ≠ 4 →
    mget s.waves k = some w → w.det = false → n ≤ w.xblk ∨ laneRegs w.grant w.triple (n - w.xblk) ≤ quadFree s core quad →
      let m := max n w.xblk
      let w' : Wave :=
        { (if w.xblk < n then holdBlocks n w else w).mapThreads (Thread.passXacq s.cycle m) with
          priv := w.priv.map (fun p => { p with kept := p.kept.map (Thread.meetXacq m) }) }
      let x := getC s w.core
      exec (.xacqGrant core quad) s = .next (nextFree (conclude
        { setW s k w' with
          cores := mset s.cores w.core { x with reqs := x.reqs.filter (fun r => !(r.1 == k && r.2 != 4 && decide (r.2 ≤ m))) } } k))) ∧
  (∀ (s : State) (core quad k : Nat) (rest : List (Nat × Nat)) (w : Wave), quadReqs s core quad = (k, 4) :: rest →
    mget s.waves k = some w → w.det = false → w.priv = none → 64 * w.grant * (w.xblk + 1) ≤ quadFree s core quad →
      exec (.xacqGrant core quad) s = .next (nextFree (conclude
        (dropRequest (setW s k (switchMode s.nextId s.cycle true w)) k) k))) ∧
  (∀ (s : State) (core : Nat), deadlocked s core = true → 1024 ≤ (getC s core).deadCycles →
    exec (.deadlockTrap core) s = .next (nextFree
      (((s.waves.filter (fun e => e.2.core == core)).map (·.1)).foldl deadTrap
        { s with cores := mset s.cores core { getC s core with deadCycles := 0 } }))) ∧
  (∀ (s : State) (core : Nat), deadlocked s core = false ∨ (getC s core).deadCycles < 1024 →
    exec (.deadlockTrap core) s = .next (nextFree s)) ∧
  (∀ (s : State) (k : Nat) (w : Wave) (who : List Nat), mget s.waves k = some w →
    who = (w.numbered.filter (fun p => p.2.stuck)).map (·.1) → who ≠ [] →
      let w' := w.mapThreads (fun t => match t.hold with
        | .xacq _ => { t with st := .ready, hold := .none }
        | .recharge _ => { t with st := .ready, hold := .none }
        | _ => t)
      deadTrap s k =
        conclude (addCause (dropRequest (setW s k w') k) k ⟨cDeadlock, 0#64, 0#64, 0#32, 0, maskOf who⟩) k) ∧
  (∀ (s : State) (k o : Nat) (w : Wave) (who : List Nat), mget s.waves k = some w →
    who = (w.numbered.filter (fun p => p.2.hold == .vpin o)).map (·.1) → who ≠ [] → w.ldq = [] →
    (∀ t ∈ w.threads, ∀ o', t.hold = .vpin o' → o' = o) →
      exec (.vpinPin k) s = .next (nextFree (conclude (sweepRanges (setW s k
        (Wave.openSections { w.onTids who (fun _ t =>
            { t with st := .ready, hold := .none, wake := max t.wake (s.cycle + 1) }) with
          pin := some ⟨o, groupVersion s o⟩ } s.nextId who))) k))) ∧
  (∀ (s : State) (k : Nat) (w : Wave) (who : List Nat), mget s.waves k = some w →
    who = (w.numbered.filter (fun p => p.2.hold == .vunpin)).map (·.1) → who ≠ [] → w.ldq = [] →
      exec (.vunpinRelease k) s = .next (nextFree (conclude (sweepRanges (setW s k
        { w.onTids who (fun _ t => { t with st := .ready, hold := .none, wake := max t.wake (s.cycle + 1) }) with
          pin := none })) k)))

/-- 06 R244-R246, R219; 12 R364, R375; 14 R420, R435: a save handler that runs too long, a sample, which is written as its cycle ends,
and a fetch that fails or that the owner of a sharded page has to answer. -/
def Obligations.LimitsSamplesAndFetches : Prop :=
  (∀ (s : State) (k : Nat) (w : Wave) (p : Priv) (x : Context), mget s.waves k = some w → w.priv = some p →
    mget s.contexts w.cid = some x → p.cause.code = cPreempt → w.pre ≠ .saved → x.savelim ≠ 0 →
      exec (.saveLimitExpiry k) s = .next (nextFree
        (if 1024 * x.savelim < s.cycle - p.since then endContext s w.cid (some (w, ⟨cPreempt, 0#64, 0#64, 0#32, 0, 0#64⟩)) else s))) ∧
  (∀ (s : State) (core : Nat) (m : Sampler), (getC s core).sampler = some m →
    exec (.sampleTake core) s = .next (nextFree
      (if m.start + (m.k + 1) * m.period ≤ s.cycle then
        { s with cores := mset s.cores core { getC s core with
            sampler := some { m with
              k := m.k + 1, pending := m.pending ++ (sampledWaves s core m).filterMap (sampleOf s ((m.k + 1) * m.period)) } } }
      else s))) ∧
  (∀ (s : State) (cyc k : Nat) (w : Wave),
    (∀ tid t, w.scan.find? (fun p => p.2.live) = some (tid, t) →
      sampleOf s cyc (k, w) = some (t.pc.toNat * 2 ^ 64 + cyc % 2 ^ 32 * 2 ^ 32 + sampleReason s k w tid t * 2 ^ 24 + w.slot * 2 ^ 16 +
        (if w.parked || w.pausing then 0 else (w.threads.filter (fun t => t.st == .ready)).length) * 2 ^ 8)) ∧
    ((∀ t ∈ w.threads, t.live = false) → sampleOf s cyc (k, w) = none)) ∧
  (∀ (s a : State) (core v : Nat) (m : Sampler), (getC s core).sampler = some m → m.pending = [v] →
    a = { s with cores := mset s.cores core { getC s core with sampler := some { m with pending := [] } } } →
      let stored := if m.nwr < m.cap then userStore a m.cid core ((m.buf.toNat + 16 * m.nwr) % 2 ^ 64) (numBytes 16 v) true else (a, false)
      flushSamples s core =
        { stored.1 with cores := mset stored.1.cores core { getC stored.1 core with
            sampler := (getC stored.1 core).sampler.map fun x =>
              if stored.2 then { x with nwr := x.nwr + 1 } else { x with ndrop := min (2 ^ 32 - 1) (x.ndrop + 1) } } }) ∧
  (∀ (s : State) (k tid : Nat) (w : Wave) (t : Thread), mget s.waves k = some w → w.thread tid = some t → t.st = .ready →
    w.stopped = false →
      let tids := (w.numbered.filter (fun p => p.2.st == .ready && t.like p.2)).map (·.1)
      (∀ n, fetch s w t.pc = .word n → exec (.instructionFetch k tid) s = .next (nextFree s)) ∧
      (fetch s w t.pc = .trap → w.priv = none → exec (.instructionFetch k tid) s = .next (nextFree (conclude
        (setW s k { w with causes := w.causes ++ [⟨cFetch, t.pc, 0#64, 0#32, 0, maskOf tids⟩] }) k))) ∧
      (∀ r, fetch s w t.pc = .fault r → w.priv = none → exec (.instructionFetch k tid) s = .next (nextFree (conclude
        (formSiding s k (kExec + kLane) (tids.map (fun n => (n, t.pc.toNat, r))) tids) k))) ∧
      (∀ pa, fetch s w t.pc = .viol pa → exec (.instructionFetch k tid) s = .next (nextFree (conclude
        (freezeWave s k t.pc t.pc.toNat pa) k))) ∧
      (fetch s w t.pc = .away → exec (.instructionFetch k tid) s = .next (nextFree (conclude (askFar s k t.pc.toNat 0 tids) k)))) ∧
  (∀ (s : State) (w : Wave) (pc : W64), pc.toNat % 4 ≠ 0 ∨ 2 ^ 56 ≤ pc.toNat → fetch s w pc = .trap)

/-- 02 R82, R83; 06 R204; 08 R286, R295; 04 R152, R153: results that arrive, and one lane of a load that is bound before the
others. A register that its thread has written over since holds either value (02 R82) and is left out here, as is interlocked
mode, which also clears what is owed (02 R85). -/
def Obligations.ResultsArrive : Prop :=
  (∀ (s : State) (k id fl : Nat) (w : Wave) (a : Access) (p : Spec) (wide : Bool), id < 2 ^ 64 → mget s.waves k = some w →
    w.acc id = some a → a.op = .result fl → a.performed = true → a.dest = some (4 * p.toNat, wide) → p.toNat < 0x68 →
    (wide = true → p.toNat + 1 < 0x68) → w.ilk = false → w.priv = none → (∀ t ∈ w.threads, t.clobbered = []) →
    (a.lanes.map (·.tid)).Nodup → (∀ l ∈ a.lanes, l.data.length ≤ 3) →
      ∃ w', exec (.resultArrival k id) s = .next (nextFree (conclude (setW s k w') k)) ∧ w'.threads.length = w.threads.length ∧
        (∀ n t, w.thread n = some t → ∃ t', w'.thread n = some t' ∧ t' = { t with regs := t'.regs, sec := t'.sec } ∧
          t'.sec = { t.sec with regs := t'.sec.regs } ∧
          ∀ key, cell t' key = match (if t.live then a.lanes.find? (fun l => l.tid == n) else none) with
            | some l => cellAfter p wide l.data key (cell t key)
            | none => cell t key) ∧
        w' = { w with
          threads := w'.threads, aflag := w.aflag ||| BitVec.ofNat 32 fl, accs := w.accs.filter (fun x => x.id != id) }) ∧
  (∀ (s : State) (k id fl j v : Nat) (w : Wave) (a : Access) (l : Lane) (more : List Nat), id < 2 ^ 64 → mget s.waves k = some w →
    w.acc id = some a → a.op = .result fl → a.performed = true → a.dest = some (1024 + j, true) → a.lanes = [l] →
    l.data = v :: more → w.ilk = false → w.priv = none → (∀ t ∈ w.threads, t.clobbered = []) →
      exec (.resultArrival k id) s = .next (nextFree (conclude (setW s k { w with
        scal := zset 0#64 w.scal j (BitVec.ofNat 64 v), aflag := w.aflag ||| BitVec.ofNat 32 fl,
        accs := w.accs.filter (fun x => x.id != id) }) k))) ∧
  (∀ (s : State) (k id ty j pa : Nat) (w : Wave) (a : Access) (l : Lane), id < 2 ^ 64 → mget s.waves k = some w →
    w.acc id = some a → a.op = .load ty → a.dest = some (1024 + j, true) → a.lanes = [l] → l.place = .single pa → a.common = true →
    mayPerform w a = true → badReads s a = [] → w.ilk = false → w.priv = none → (∀ t ∈ w.threads, t.clobbered = []) →
      exec (.resultArrival k id) s = .next (nextFree (conclude (setW s k { w with
        scal := zset 0#64 w.scal j (BitVec.ofNat 64 (extTy ty (ofBytes (dieBytes s (dieOf w.core) pa (accSize a))))),
        accs := w.accs.filter (fun x => x.id != id),
        ldq := countOff id w.ldq, stq := countOff id w.stq, enq := countOff id w.enq }) k))) ∧
  (∀ (s : State) (k id : Nat) (w : Wave) (a : Access) (ty : Nat), id < 2 ^ 64 → mget s.waves k = some w → w.acc id = some a →
    a.op = .load ty → mayPerform w a = false → exec (.resultArrival k id) s = .next (nextFree s)) ∧
  (∀ (s : State) (k id tid ty pa : Nat) (w : Wave) (a : Access), id < 2 ^ 64 → mget s.waves k = some w → w.acc id = some a →
    a.op = .load ty → mayPerform w a = true →
    (∀ x ∈ w.accs, x.id = id → x = a) →
    (∀ l ∈ a.lanes, l.tid = tid → l.place = .single pa ∧ badGranule s (.single pa) (accSize a) l.va = none ∧
      ∀ x ∈ a.lanes, x.tid < tid → overlap (footprint s x.place (accSize a) x.va) (footprint s l.place (accSize a) l.va) = false) →
      exec (.resultArrival k (id + 2 ^ 64 * (tid + 1))) s = .next (nextFree (setW s k { w with
        accs := w.accs.map (fun x => if x.id = id then
          { x with lanes := x.lanes.map (fun l =>
              if l.tid = tid then { l with place := .answered 0, data := [ofBytes (dieBytes s (dieOf w.core) pa (accSize a))] } else l) }
          else x) }))) ∧
  (∀ (s : State) (k id tid ty pa : Nat) (w : Wave) (a : Access), id < 2 ^ 64 → mget s.waves k = some w → w.acc id = some a →
    a.op = .load ty → mayPerform w a = true → (∀ x ∈ w.accs, x.id = id → x = a) →
    (∀ l ∈ a.lanes, l.tid = tid → ∃ x ∈ a.lanes, x.tid < tid ∧ x.place = .single pa ∧
      overlap (footprint s x.place (accSize a) x.va) (footprint s l.place (accSize a) l.va) = true) →
      exec (.resultArrival k (id + 2 ^ 64 * (tid + 1))) s = .next (nextFree (setW s k w)))

/-- 04 R152-R154, R159, R161; 08 R295, R298, R299: writes and atomics that are performed, and writes that a die makes visible:
at most once by each die, after what comes causally before. -/
def Obligations.WritesArePerformedAndMadeVisible : Prop :=
  (∀ (s : State) (k id ty pa : Nat) (w : Wave) (a : Access) (l : Lane), mget s.waves k = some w → w.acc id = some a →
    a.op = .store ty → a.lanes = [l] → l.place = .single pa → mayPerform w a = true → writeReady s w a = true →
    badWrites s a = [] →
      exec (.storePerformed k id) s = .next (nextFree (conclude
        (modW (writeDie (tagWrite s w.cid w.core [(pa, accSize a)]) (dieOf w.core) pa
            (soft s pa (bytesOf (accSize a) (lget 0 l.data 0)))) k
          (fun w => (((w.join 0).dropAcc id).countDone id).fate id [])) k))) ∧
  (∀ (s : State) (k id f pa : Nat) (w : Wave) (a : Access) (l : Lane), mget s.waves k = some w → w.acc id = some a →
    a.op = .atomic f true → a.lanes = [l] → l.place = .single pa → mayPerform w a = true → writeReady s w a = true →
    badReads s a = [] →
      let old := ofBytes (homeBytes s pa (accSize a))
      let r := atomNew f old l.data
      exec (.atomicPerformed k id) s = .next (nextFree (conclude
        (modW (writeDie (tagWrite s w.cid w.core [(pa, accSize a)]) (dieOf w.core) pa (soft s pa (bytesOf (accSize a) r.1))) k
          (fun w => (({ w.join r.2 with
            accs := w.accs.map (fun (x : Access) =>
              if x.id = id then { x with lanes := [{ l with data := [old] }], performed := true } else x) }).countDone id).fate id [])) k))) ∧
  (∀ (s : State) (k id : Nat) (w : Wave) (a : Access), mget s.waves k = some w → w.acc id = some a →
    mayPerform w a = false ∨ writeReady s w a = false →
      exec (.storePerformed k id) s = .next (nextFree s) ∧ exec (.atomicPerformed k id) s = .next (nextFree s)) ∧
  (∀ a b c : BitVec 32,
    atomNew 0 a.toNat [b.toNat] = ((a + b).toNat, 0) ∧
      atomNew 3 a.toNat [b.toNat] = ((if b.slt a then b else a).toNat, 0) ∧
      atomNew 4 a.toNat [b.toNat] = ((if b.ult a then b else a).toNat, 0) ∧
      atomNew 5 a.toNat [b.toNat] = ((if a.slt b then b else a).toNat, 0) ∧
      atomNew 6 a.toNat [b.toNat] = ((if a.ult b then b else a).toNat, 0) ∧
      atomNew 7 a.toNat [b.toNat] = ((a &&& b).toNat, 0) ∧ atomNew 8 a.toNat [b.toNat] = ((a ||| b).toNat, 0) ∧
      atomNew 9 a.toNat [b.toNat] = ((a ^^^ b).toNat, 0) ∧ atomNew 10 a.toNat [b.toNat] = (b.toNat, 0) ∧
      atomNew 12 a.toNat [b.toNat, c.toNat] = ((if a = b then c else a).toNat, 0)) ∧
  (∀ a b : BitVec 64, atomNew 1 a.toNat [b.toNat] = ((a + b).toNat, 0)) ∧
  (∀ (s : State) (d id : Nat) (v : VWrite), s.vis.find? (fun x => x.id == id) = some v → d < 4 → d ∉ v.seen →
    mayShow s d v = true → (∀ x ∈ s.vis, x.id = id → x = v) →
      exec (.writeMadeVisible d id) s = .next (nextFree
        { s with
          vis := if v.seen.length = 3 then s.vis.filter (fun x => x.id != id)
            else s.vis.map (fun x => if x.id = id then { v with seen := d :: v.seen } else x),
          dclk := lmod s.dclk d (fun c => lmod c v.die (fun n => max n (lget 0 v.clk v.die))) })) ∧
  (∀ (s : State) (d id : Nat) (v : VWrite), s.vis.find? (fun x => x.id == id) = some v → mayShow s d v = false →
    exec (.writeMadeVisible d id) s = .next (nextFree s))

/-- 04 R149, R163-R166; 09 R328, R335-R339, R345: a command begins with its records read and checked, its bytes land or are
thrown as one event, its completion is written at its milepost, after what it holds for staging is shown (04 R169), and its follow-on
goes to the matrix unit. As its work gets on, its pages are walked ahead (`andWalk`, 14 R414). -/
def Obligations.EngineCommandsBeginWorkAndComplete : Prop :=
  (∀ (s : State) (cid con : Nat) (x : Context) (q : Consist) (c : Cmd) (l : List Cmd), con < 64 → mget s.contexts cid = some x →
    mget x.consists con = some q → q.cmds = c :: l → q.frozen = false → c.frozen = false → c.waitPage = none → c.err = 0 →
    c.begun = false → s.mgmt.fatal = false →
      let r := beginEngine s con c
      exec (.engineCommandBegin cid con) s = .next (nextFree (concludeAll (putHead r.1 cid con r.2) (contextWaves s cid)))) ∧
  (∀ (s : State) (con : Nat) (c : Cmd) (u v : Nat), c.minor = 0 → c.follow = none →
    readRecord s con c c.x.toNat 64 = .ok u → readRecord s con c c.y.toNat 64 = .ok v → (tensorRec v).fmt ≠ 0x20 →
      let bad := recordCodes s c [u, v]
      let codes := if bad = [] then copyCodes s c (tensorRec u) (tensorRec v) else bad
      (codes = [] → beginEngine s con c = settleBegin s con { c with recs := [u, v] }) ∧
      (codes ≠ [] → ∃ n ∈ codes, beginEngine s con c =
        (cmdError s con { c with recs := [u, v] } n,
          { c with recs := [u, v], err := n, begun := true, shadow := [], pages := [], waitPage := none, ahead := [] }))) ∧
  (∀ (s : State) (cid con : Nat) (c : Cmd) (p : Plan) (w : Work) (l : List Work) (g : Batch), working s cid con = some (c, p) →
    p.works.drop c.doneW = w :: l → p.dstSpace = 0 → s.vis = [] →
    gatherAll s con c p ((w :: l).takeWhile (fun x => x.dst.addr / 2 ^ 21 == w.dst.addr / 2 ^ 21)) Batch.init = (g, none) →
      let r := andWalk con (applyBatch s c p g, keepBatch c g)
      exec (.pointsThrow cid con) s = .next (nextFree (concludeAll (putHead r.1 cid con r.2) (contextWaves r.1 cid)))) ∧
  (∀ (s : State) (cid con n : Nat) (c : Cmd) (p : Plan) (ws : List Work) (g : Batch), working s cid con = some (c, p) →
    ws = (landing n none 0 (p.works.drop c.doneW)).1 → ws ≠ [] → p.dstSpace = 1 → s.vis = [] →
    gatherAll s con c p ws Batch.init = (g, none) →
      let u := p.dstUnit.getD 0
      let r := andWalk con (applyBatch s c p g, keepBatch c g)
      let a := arriveWord (putHead r.1 cid con r.2) u (16 * p.aoff) g.share.length
      let b := concludeAll a (unitWaves a u)
      exec (.arrive cid con n) s = .next (nextFree (concludeAll b (contextWaves a cid)))) ∧
  (∀ (s : State) (u off n : Nat) (x : LUnit), mget s.units u = some x →
    let target := ofBytes (getBytes x.share off 4)
    let count := (ofBytes (getBytes x.share (off + 4) 4) + n) % 2 ^ 32
    let gen := ofBytes (getBytes x.share (off + 8) 4)
    let v := target + (if target = 0 then count else count % target) * 2 ^ 32 +
      (if target = 0 then gen else (gen + count / target) % 2 ^ 32) * 2 ^ 64
    arriveWord s u off n = { s with units := mset s.units u { x with share := putBytes x.share off (bytesOf 16 v) } }) ∧
  (∀ (s : State) (cid con : Nat) (x : Context) (q : Consist) (c : Cmd) (l : List Cmd), con < 64 → mget s.contexts cid = some x →
    mget x.consists con = some q → q.cmds = c :: l → q.frozen = false → workDone s c = true → s.vis = [] → c.err = 0 →
    c.note = 0 → c.follow = none → c.sent = false → c.actImage = none →
      let n := q.milepost + 1
      let a := modX (showShadow s c) cid
        (fun x => { x with consists := mset x.consists con { q with milepost := n, cmds := l } })
      let a := engineWrite a con (q.ring + 64 * (q.milepost % 2 ^ q.log2n) + 20) [0#8, 1#8] (uEngine con) c
      let a := engineWrite a con q.mpaddr (numBytes 8 (conTag con * 2 ^ 62 + n % 2 ^ 62)) (uEngine con) c
      let a := cmdFlags a c c.flags.toNat
      let a := match c.acc with
        | some id => countEverywhere a id
        | none => a
      let a := clearWaits (clearWaits a cid con n false) cid con n true
      exec (.milepostWrite cid con) s = .next (nextFree (concludeAll a (contextWaves a cid)))) ∧
  (∀ (s : State) (cid con v : Nat) (x : Context) (q : Consist) (c : Cmd) (l : List Cmd), con < 64 → mget s.contexts cid = some x →
    mget x.consists con = some q → q.cmds = c :: l → q.frozen = false → c.follow = some v → c.sent = false → c.err = 0 →
    workDone s c = true → s.vis = [] →
      ((getC s c.core).owner = some c.unit → followMayIssue s c (foHint v) = true →
        let g : Cmd := { c with
          word := foWord v, hintw := foHint v, x := foX v, y := foY v, z := foZ v, acc := none, follow := none, slotSet := none,
          carried := some (con, c.seq.toNat % 2 ^ 62), begun := false, err := 0, note := 0, flags := 0#32, recs := [], idx := [],
          vals := [], doneW := 0, shadow := [], pages := [], nans := 0, sent := false, ahead := [], far := [] }
        let counted := g.minor = 1 ∨ g.minor = 2 ∨ g.minor = 6
        let a : State := { s with nextId := s.nextId + 1 }
        let a := if counted then countFollow a c s.nextId else a
        exec (.followOnIssue cid con) s = .next (nextFree (accept (putHead a cid con { c with sent := true }) c.core
          { g with acc := if counted then some s.nextId else none }))) ∧
      ((getC s c.core).owner ≠ some c.unit →
        let a := putHead (cmdError s con c 0x0B) cid con { c with err := 0x0B }
        exec (.followOnIssue cid con) s = .next (nextFree (concludeAll a (contextWaves (cmdError s con c 0x0B) cid)))))

/-- 09 R317, R325, R332, R343; 04 R167-R170; 07 R275: the queues of the matrix unit, loads of the activation table,
collectives and publishing. -/
def Obligations.MatrixQueuesTablesCollectivesAndPublishing : Prop :=
  (∀ (s : State) (core queue : Nat) (c : Cmd) (l : List Cmd), matQueue (getC s core) queue = c :: l → c.frozen = false →
    c.waitPage = none → c.err = 0 → s.mgmt.fatal = false → accFree (getC s core) queue c = true → c.begun = false → queue ≠ 0 →
      let r := beginMatrix s (64 + core) c
      exec (.matrixQueueStart core queue) s = .next (nextFree (concludeAll
        (putQueue r.1 core queue (r.2 :: l)) (contextWaves s c.cid)))) ∧
  (∀ (s : State) (ring : Nat) (c : Cmd) (u v z : Nat), 3 ≤ c.minor → c.minor ≤ 5 → readRecord s ring c c.x.toNat 64 = .ok u →
    readRecord s ring c c.y.toNat 64 = .ok v → readRecord s ring c c.z.toNat 64 = .ok z →
    (∀ t ∈ [u, v, z], goodRecord s c (tensorRec t) = 0) →
    multiplyCodes { c with recs := [u, v, z] } (tensorRec u) (tensorRec v) (tensorRec z) (getC s c.core).mat = [] →
      let r := multiply { c with recs := [u, v, z] } (tensorRec u) (tensorRec v) (tensorRec z) (getC s c.core).mat
      beginMatrix s ring c = ({ s with cores := mset s.cores c.core { getC s c.core with mat := r.1 } },
        { c with recs := [u, v, z], begun := true, flags := BitVec.ofNat 32 r.2 })) ∧
  (∀ (acc : BitVec 32) (i : Int) (n : Nat), n = i.natAbs →
    narrowAdd acc.toNat ⟨.fin (decide (i < 0)) n 1, 0⟩ =
      (let v := acc.toInt + i
       let w := max (-(2 ^ 31)) (min (2 ^ 31 - 1) v)
       ((BitVec.ofInt 32 w).toNat, if w = v then 0 else flASAT))) ∧
  (∀ (s : State) (core queue : Nat) (c : Cmd) (l : List Cmd), matQueue (getC s core) queue = c :: l → workDone s c = true →
    queue < 2 ∨ s.vis = [] → c.carried = none →
      let b := showShadow s c
      let x := getC b core
      let a : State := { b with
        cores := mset b.cores core
          (if queue = 0 then { x with loadQ := l } else if queue = 1 then { x with compQ := l } else { x with storeQ := l }) }
      let a := cmdFlags a c c.flags.toNat
      let a := match c.acc with
        | some id => countEverywhere a id
        | none => a
      let a := lowerOwn a c
      exec (.matrixInstructionComplete core queue) s = .next (nextFree (concludeAll a (contextWaves a c.cid)))) ∧
  (∀ (s : State) (cid con core : Nat) (c : Cmd) (a : ActCopy) (img : List Byte), headOf s cid con = some c →
    mget (getC s core).acts cid = some a → c.actImage = some img → c.begun = true → c.frozen = false →
    a.switched ≠ c.acc.getD 0 →
      exec (.activationTableSwitch cid con core) s = .next (nextFree
        (if oldRun s core cid a then s
         else
          let a' : ActCopy :=
            ⟨if a.cur = 0 then a.bankA else img, if a.cur = 0 then img else a.bankB, if a.cur = 0 then 1 else 0, c.acc.getD 0⟩
          { s with cores := mset s.cores core { getC s core with acts := mset (getC s core).acts cid a' } }))) ∧
  (∀ (s : State) (part group cseq : Nat) (p : Partition) (members : List (Nat × Nat)) (all : List Coll),
    mget s.parts part = some p → mget p.colls group = some members →
    let xs := s.colls.filter (fun x => x.part == part && x.group == group && x.cseq == cseq)
    xs ≠ [] → (span 0 members.length).map (fun r => xs.find? (fun x => x.rank == r)) = all.map some → tickReached s xs = true →
    collReached s part group xs = true →
      ∃ agree : Bool, (agree = true ↔ ∀ x ∈ all, ∀ y ∈ xs.head?, (collDesc x.head).terms = (collDesc y.head).terms) ∧
        let a := all.foldl (collGive part group cseq agree (all.map (·.data))) s
        let b : State := { a with colls := a.colls.filter (fun x => !(x.part == part && x.group == group && x.cseq == cseq)) }
        exec (.collectiveExecute part group cseq) s = .next (nextFree (concludeAll b (b.waves.map (·.1))))) ∧
  (∀ (d : CDesc) (rank : Nat) (datas : List (List Nat)), d.dtype = 5 → d.op = 0 →
    collResult d rank datas = (span 0 d.count).map (fun e => (datas.map (fun l => lget 0 l e)).sum % 2 ^ 32)) ∧
  (∀ (s : State) (k id : Nat) (w : Wave) (a : Access), mget s.waves k = some w → w.acc id = some a → a.op = .publish →
    a.performed = false → publishReady s w.cid id = true → s.vis = [] →
      exec (.publishSwitch k id) s = .next (nextFree
        (if s.ranges.any (fun e => e.2.owner == w.cid && !e.2.dead && allPinned s e.2) then publishAnswer s k id 0
         else publishAnswer (switchGroup s w.cid).1 k id (switchGroup s w.cid).2))) ∧
  (∀ (s : State) (owner : Nat), (∀ e ∈ s.ranges, e.2.owner = owner → e.2.dead = true ∨ e.2.stg = none) →
    let v := if groupVersion s owner = 0xFFFFFFFF then 1 else groupVersion s owner + 1
    groupVersion s owner < 2 ^ 32 →
      switchGroup s owner =
        ({ s with
            ranges := s.ranges.map (fun e => if e.2.owner == owner && !e.2.dead then (e.1, switchRange s v e.2) else e),
            groups := mset s.groups owner v }, v))

/-- 13 R391-R395, R397, R398, R400; 02 R65: claims, steals, placements and the start of a wave. That a wave of a launch that is over starts
and is cancelled at once is log 83 (DEDUCED). -/
def Obligations.UnitsAreClaimedPlacedAndStarted : Prop :=
  (∀ (s : State) (j n q o : Nat) (rest : List Nat) (l : Launch), mget s.launches n = some l → l.st = .active →
    claimedUnits s n j = [] → lget [] l.queues j = q :: rest → q < 2 ^ 40 → claimUnits l q = [o] → l.serial = none →
      exec (.junctionClaim j n) s = .next (nextFree
        (if (tryPlace s keepAll n l j (headWants s n l j)).isSome ∧ headWants s n l j ≠ [] then
          { s with
            launches := mset s.launches n { l with queues := lmod l.queues j (·.drop 1) },
            units := mset s.units s.nextId (newUnit n l j o), nextId := s.nextId + 1 }
        else s))) ∧
  (∀ (s : State) (j n : Nat) (l : Launch), mget s.launches n = some l → l.st = .active → l.serial = none → j < 4 →
    lget [] l.queues j = [] → mget l.searching j = none → claimedUnits s n j = [] →
      exec (.stealRequest j n) s = .next (nextFree
        (if dieCould s j n l then
          { s with launches := mset s.launches n { l with searching := mset l.searching j 1, asked := mset l.asked j s.cycle } }
        else s))) ∧
  (∀ (s : State) (victim j n k : Nat) (l : Launch), mget s.launches n = some l → l.st = .active → mget l.searching j = some k →
    k < 4 → victim = (j + k) % 4 → servesFirst s n victim j l = false →
      (lget [] l.queues victim = [] → exec (.stealReply victim j n) s =
        .next (nextFree { s with launches := mset s.launches n { l with
          searching := mset l.searching j (k + 1), asked := mset l.asked j s.cycle } })) ∧
      (∀ q t, lget [] l.queues victim = q ++ [t] → exec (.stealReply victim j n) s =
        .next (nextFree { s with launches := mset s.launches n { l with
          queues := lmod (lset l.queues victim q) j (fun x => x ++ [t]), searching := mdel l.searching j } }))) ∧
  (∀ (e2 req g : Nat), g ∈ permitted e2 req ↔ (g = 8 ∨ g = 16 ∨ g = 32 ∨ g = 64) ∧ g ≤ req ∧ e2 / g ≤ 32) ∧
  (∀ (s : State) (j n u o : Nat) (l : Launch) (x : LUnit) (w : Work2) (p : Placed), mget s.launches n = some l → l.st = .active →
    nextGang s n j l = [(u, o)] → inOrder s n l = true → mget s.units u = some x → (∀ e ∈ s.units, hasRefused s e.1 = false) →
    tryPlace s keepAll n l j [startWant l o] = some w → w.out = [p] →
      let x' : LUnit := { x with
        st := .reserved, core := p.core, grant := p.grant, shBase := p.spot.shBase, nbBase := p.spot.nbBase, placedAt := s.cycle,
        die := some (p.core / 48), begun := false }
      exec (.unitPlacement j n) s = .next (nextFree
        { s with
          units := mset s.units u x',
          binds := p.spot.slots.foldl
            (fun m e => mset m (32 * p.core + e.2) (bindOf n l u x' e.1 e.2 1 l.xblk l.triple)) s.binds,
          launches := mset s.launches n { l with
            waiting := 0, waitPrio := l.prio, placedFirst := some (l.placedFirst.getD s.cycle),
            grants := (if (mget l.grants p.ord).isSome then l.grants else mset l.grants p.ord p.grant), domains := w.doms } })) ∧
  (∀ (s : State) (die index : Nat) (b : Bind) (l : Launch) (u : LUnit), mget s.binds (1536 * die + index) = some b → b.state = 1 →
    (∀ e ∈ s.binds, e.1 / 32 = (1536 * die + index) / 32 → e.1 < 1536 * die + index → e.2.pending = false) →
    mget s.launches b.launch = some l → l.st = .active → mget s.units b.unit = some u →
      let key := 1536 * die + index
      let a := fillTable (chargeUnit s b false) b.core b.cid
      let a : State := { a with binds := mset a.binds key { b with state := if u.st = .saving then 4 else 3 } }
      exec (.dispatch die index) s = .next (nextFree
        (if key = 32 * b.core + b.slot ∧ chargesFit s b = true then
          afterDet (setW a key { firstWave a b l with pre := if u.st = .saving then .requested else .none }) key
         else { s with binds := mset s.binds key { b with state := 6 } }))) ∧
  (∀ (s : State) (die index : Nat) (b : Bind) (l : Launch) (u : LUnit), mget s.binds (1536 * die + index) = some b → b.pending = true →
    (∀ e ∈ s.binds, e.1 / 32 = (1536 * die + index) / 32 → e.1 < 1536 * die + index → e.2.pending = false) →
    mget s.launches b.launch = some l → l.st ≠ .active → mget s.units b.unit = some u →
      let key := 1536 * die + index
      let a := fillTable (chargeUnit s b false) b.core b.cid
      let a : State := { a with binds := mset a.binds key { b with state := if u.st = .saving then 4 else 3 } }
      exec (.dispatch die index) s = .next (nextFree
        (if key = 32 * b.core + b.slot ∧ chargesFit s b = true then cancelWave (setW a key (firstWave a b l)) key
         else { s with binds := mset s.binds key { b with state := 6 } }))) ∧
  (∀ (s : State) (b : Bind) (l : Launch), b.grant ≤ 64 →
    let w := firstWave s b l
    w.threads.length = b.grant ∧ w.grant = b.grant ∧ w.triple = b.triple ∧ w.det = b.det ∧ w.xblk = b.xblk ∧ w.nctl = l.nctl ∧
      w.aflag = 0#32 ∧ w.cm = 0#64 ∧ (∀ n < 64, w.em.getLsbD n = decide (n < b.grant)) ∧ w.scal = [] ∧ w.priv = none ∧
      ∀ n t, w.thread n = some t → t.lidx = b.wlog * b.grant + n ∧ t.cohort = b.wlog * b.grant ∧ t.pc = l.entry ∧ t.st = .ready ∧
        (∀ key, cell t key = .val 0#32) ∧ t.win = [] ∧ t.opidx = 0#64 ∧ t.sec.entry = l.entry ∧ t.sec.mask = 0xFFFFF ∧
        t.digest = BitVec.ofNat 64 (mix 0x6A09E667F3BCC908 (b.uord * lget 64 l.ext 0 + t.lidx)))

/-- 12 R387; 13 R399, R401-R403, R405-R407: how launches age, make room and end; the record of a launch that is over waits for every wave,
every record that dispatch has not taken up and every command of it (`launchBusy`). -/
def Obligations.LaunchesAgeMakeRoomAndEnd : Prop :=
  (∀ (s : State) (n : Nat) (l : Launch), mget s.launches n = some l → l.st = .active →
    exec (.priorityAging n) s = .next (nextFree
      { s with launches := mset s.launches n { l with waitPrio := min 31 (l.prio + l.waiting / 2 ^ 26) } })) ∧
  (∀ (s : State) (n j : Nat) (l : Launch) (w : List Want) (more : List (Nat × List Want)), mget s.launches n = some l →
    l.st = .active → 2 ^ 22 ≤ l.waiting → (∀ e ∈ s.units, e.2.st ≠ .saving) → waitingWants s n l = (j, w) :: more →
    (∀ p ∈ (j, w) :: more, tryPlace s keepAll n l p.1 p.2 = none) →
      ∃ vs : List Nat, (∀ u ∈ vs, u ∈ victims s l) ∧ exec (.preemptionDecision n) s = .next (nextFree (vs.foldl requestUnit s))) ∧
  (∀ (s : State) (l : Launch) (u : Nat), u ∈ victims s l → ∃ x m, mget s.launches x.launch = some m ∧ (u, x) ∈ s.units ∧
    x.st = .resident ∧ m.part = l.part ∧ m.prio + 2 ≤ l.waitPrio) ∧
  (∀ (s : State) (u : Nat) (x : LUnit), mget s.units u = some x → x.st = .resident →
    requestUnit s u = { s with
      units := mset s.units u { x with st := .saving },
      waves := s.waves.map (fun e => if e.2.unit = u then (e.1, { e.2 with pre := .requested }) else e),
      binds := s.binds.map (fun e => if e.2.unit = u ∧ e.2.state = 3 then (e.1, { e.2 with state := 4 }) else e) }) ∧
  (∀ (s : State) (n : Nat) (l : Launch), mget s.launches n = some l → l.st = .active →
    exec (.timeLimitExpiry n) s = .next (nextFree
      (if l.resident < l.tlimit * 2 ^ 20 then s
       else match l.serial with
        | none => endLaunch (cancelLaunch s n) n 3 0 (brokenDigest s l)
        | some free => endLaunch (digestEntry (cancelLaunch s n) l free (brokenDigest s l) 3) n 4 3 (brokenDigest s l)))) ∧
  (∀ (s : State) (n status dsub : Nat) (dig : W64) (l : Launch), mget s.launches n = some l → l.st = .ending status dsub dig →
    launchBusy s n = false →
      exec (.launchComplete n) s = .next (nextFree (closeLaunch s n status dsub dig))) ∧
  (∀ (s : State) (n : Nat) (l : Launch), mget s.launches n = some l → l.st = .active → l.serial = none → l.unitsLeft = 0 →
    digestsIn l = true → launchBusy s n = false →
      exec (.launchComplete n) s = .next (nextFree
        (if l.digm = 0 then closeLaunch s n 1 0 0#64
         else if l.digm = 1 ∨ taskDigest s l = l.digest then closeLaunch s n 1 0 (taskDigest s l)
         else serialise s n (taskDigest s l)))) ∧
  (∀ (s : State) (n : Nat) (free : W64) (l : Launch), mget s.launches n = some l → l.st = .active → l.serial = some free →
    l.unitsLeft = 0 → digestsIn l = true → launchBusy s n = false →
      let t := taskDigest s l
      let sub := if t = l.digest then 1 else if t = free then 2 else 3
      exec (.serialisedReexecutionEnd n) s = .next (nextFree
        (closeLaunch (digestEntry s l free t sub) n (if t = l.digest then 1 else 4) sub t))) ∧
  (∀ (s : State) (n : Nat), launchBusy s n = true →
    exec (.launchComplete n) s = .next (nextFree s) ∧ exec (.serialisedReexecutionEnd n) s = .next (nextFree s)) ∧
  (∀ (s : State) (n : Nat), launchBusy s n = false ↔
    (∀ e ∈ s.waves, e.2.launch ≠ n) ∧ (∀ e ∈ s.binds, e.2.launch = n → e.2.pending = false) ∧
    (∀ x ∈ s.contexts, ∀ q ∈ x.2.consists, ∀ c ∈ q.2.cmds, ∀ u, mget s.units c.unit = some u → u.launch ≠ n) ∧
    (∀ x ∈ s.cores, ∀ c ∈ x.2.loadQ ++ x.2.compQ ++ x.2.storeQ, ∀ u, mget s.units c.unit = some u → u.launch ≠ n)) ∧
  (∀ (s : State) (n : Nat) (l : Launch), mget s.launches n = some l →
    ∃ m, mget (serialise s n 0#64).launches n = some m ∧ m.trees = [] ∧ m.farGone = [] ∧ m.digests = [] ∧ m.det = true)

/-- 02 R88; 12 R372, R378-R383, R386; 01 R51: a pre-emption rolls threads back to their sections and starts their handlers;
saved waves leave; units resume; pages that no wave's code epoch needs are unmapped. That the placement of a unit that resumes counts its
re-slice is log 74 (DEDUCED). -/
def Obligations.UnitsAreSavedAndResumed : Prop :=
  (∀ (s : State) (u : Nat) (x : LUnit), mget s.units u = some x → x.st = .saving → x.mown = false →
    (getC s x.core).sampler = none → unitQuiet s u x = true → (∃ e ∈ s.waves, e.2.unit = u) →
    (∀ e ∈ s.waves, e.2.unit = u → atPoint s e.2 = true ∧ e.2.pre ≠ .handler ∧ e.2.pre ≠ .saved) →
    (∀ e ∈ s.binds, e.2.unit = u → e.2.pending = false ∧ e.2.state ≠ 6) →
      exec (.preemptionHandlerStart u) s = .next (nextFree
        (((unitWaves s u).filter (fun k => ((mget s.waves k).map (fun w => w.threads.any (·.live))).getD false)).foldl startSave s))) ∧
  (∀ (s : State) (k : Nat) (w : Wave), mget s.waves k = some w →
    startSave s k = enterTrap
      { s with
        waves := mset s.waves k (stoppedWave w),
        cores := mset s.cores w.core { getC s w.core with reqs := (getC s w.core).reqs.filter (fun r => r.1 != k) } }
      k ⟨cPreempt, 0#64, 0#64, 0#32, 0, maskOf w.liveTids⟩ 0) ∧
  (∀ (triple : Bool) (xblk : Nat) (t : Thread), t.live = true → xblk ≤ 2 →
    let r := rollBack triple xblk t
    r.pc = t.sec.entry ∧ r.opidx = t.sec.opidx ∧ r.win = [] ∧ r.hint = none ∧ r.wimm = none ∧ r.digest = t.sec.digest ∧
      r.lidx = t.lidx ∧ r.cohort = t.cohort ∧ r.sec = t.sec ∧
      (r.st = if t.st = .atBarrier then .atBarrier else .ready) ∧
      ∀ p i, i = 0 ∨ (triple = true ∧ i ≤ 2) → p < 32 * (xblk + 1) ∨ (0x60 ≤ p ∧ p < 0x68) →
        cell r (4 * p + i) =
          if t.sec.liveIn p then zget (Cell.val 0#32) t.sec.regs (4 * p + i)
          else if 32 ≤ p ∧ p < 0x60 then cell t (4 * p + i) else .undef) ∧
  (∀ (s : State) (k : Nat) (w : Wave) (p : Priv), mget s.waves k = some w → w.priv = some p → p.cause.code = cPreempt →
    w.pre = .handler → w.ldq = [] → w.stq = [] → w.owes = false → atExit w 1 = true →
      let a : State := { setW s k { w with pre := .saved } with binds := mmod s.binds k (fun b => { b with state := 0 }) }
      exec (.waveLeavesCore k) s = .next (nextFree (unitLeaves a w.unit)) ∧
      ((∃ e ∈ s.waves, e.1 ≠ k ∧ e.2.unit = w.unit ∧ e.2.pre ≠ .saved ∧ (∃ t ∈ e.2.threads, t.live = true)) →
        keysFrom 0 s.waves = true → unitLeaves a w.unit = a)) ∧
  (∀ (s : State) (u : Nat) (x : LUnit), mget s.units u = some x → (∃ e ∈ s.waves, e.2.unit = u) →
    (∀ e ∈ s.waves, e.2.unit = u → e.2.pre = .saved ∧ e.2.det = false ∧ (∃ t ∈ e.2.threads, t.live = true)) →
      unitLeaves s u = requeue
        { s with
          waves := s.waves.filter (fun e => e.2.unit != u), binds := s.binds.filter (fun e => e.2.unit != u),
          units := mset s.units u { x with
            st := .saved, share := [], lateFlags := 0#32, oldGrant := none,
            gone := (s.waves.filter (fun e => e.2.unit == u)).foldl
              (fun m e => (e.2.threads.filter (fun t => !t.live)).foldl (fun m t => mset m t.lidx t.digest) m) x.gone,
            saved := (s.waves.filter (fun e => e.2.unit == u)).filterMap (fun e => keepWave e.2) },
          cores := mset s.cores x.core { getC s x.core with
            owner := if (getC s x.core).owner = some u then none else (getC s x.core).owner } } u) ∧
  (∀ (s : State) (u : Nat) (x : LUnit) (l : Launch) (w : Work2), mget s.units u = some x → mget s.launches x.launch = some l →
    l.st = .active → x.st = .claimed → x.saved ≠ [] → hasRefused s u = false → inOrder s x.launch l = true →
    let gang := (savedGang s x.launch l x.ord).map (·.2)
    (∀ e ∈ gang, e.2.st = .claimed) → tryPlace s keepAll x.launch l x.junction (resumeWants s x.launch l x.ord) = some w →
    (∀ e ∈ gang.zip w.out, seenOn s (e.1.2.die.getD (e.2.core / 48)) (e.2.core / 48) = true) →
      let a := (gang.zip w.out).foldl (fun s e => settleResumed x.launch l s e.1.1 e.2) (refreshContext s x.cid)
      exec (.unitResume u) s = .next (nextFree (modL a x.launch (fun l => { l with domains := w.doms })))) ∧
  (∀ (s : State) (n u : Nat) (l : Launch) (x : LUnit) (p : Placed), mget s.units u = some x →
    let old := ((x.saved.head?).map (·.grant)).getD p.grant
    ∃ bind, (∀ y q, (bind y q).state = 2 ∧ (bind y q).unit = u ∧ (bind y q).grant = y.grant ∧ (bind y q).slot = q.2) ∧
      settleResumed n l s u p = modU (settlePlaced n s u p .resuming bind) u
        (fun y => { y with rslc := if old = p.grant then y.rslc else y.rslc + 1 })) ∧
  (∀ (s : State) (u : Nat) (x : LUnit), mget s.units u = some x → x.st = .resuming →
    (∀ e ∈ s.binds, e.2.unit = u → e.2.pending = false) → (∃ e ∈ s.waves, e.2.unit = u) →
    (∀ e ∈ s.waves, e.2.unit = u → atExit e.2 0 = true ∧ (∃ p, e.2.priv = some p ∧ p.cause.code = cResume) ∧ e.2.stq = [] ∧
      e.2.owes = false ∧
      agreeing (x.saved.filter (fun v => decide (v.wlog * v.grant < (e.2.wlog + 1) * e.2.grant) &&
        decide (e.2.wlog * e.2.grant < (v.wlog + 1) * v.grant))) = true) →
      let a : State := { s with units := mset s.units u { x with
        st := .resident, saved := [], lateFlags := 0#32, oldGrant := none, mat := none } }
      let ks := unitWaves s u
      exec (.resumeRelease u) s = .next (nextFree
        (concludeAll (ks.foldl (fun s k => modW s k loseRest) (ks.foldl returnTrap a)) ks))) ∧
  (∀ (s : State) (cid epoch fn queue : Nat) (pages : List Nat) (x : Context), mget s.contexts cid = some x →
    x.retiring.find? (fun r => r.1 == epoch) = some (epoch, pages, fn, queue) →
      exec (.codeSwapRetire cid epoch) s = .next (nextFree
        (if holdsEpoch s cid epoch then s
         else finishRequest (modX (pages.foldl (fun s p => unmapPage s cid x p) s) cid (fun c =>
          { c with retiring := c.retiring.filter (fun x => x.1 != epoch), retired := c.retired ++ pages })) fn queue 1)))

/-- 14 R413, R415, R419, R433-R435; 04 R172: translations that a TLB takes up, invalidations that are done, held faults that
receive their record, and sharded accesses at their owner and on their way back. That the oldest entry makes room in a TLB is log 47 (DESIGN
CHOICE), which fault record a refused access joins log 23 (DEDUCED), and that a word waits with its threads for its owners log 77
(DEDUCED). -/
def Obligations.TranslationsFaultsAndShardedAccesses : Prop :=
  (∀ (s : State) (tlb cid va e size : Nat) (c : Context), mget s.contexts cid = some c → c.ended = false → va < 2 ^ 56 →
    inAperture c va = false →
      (tlb < 192 → walk s c va = .leaf e size →
        let l := (getC s tlb).tlb
        let l' := if (tlbHit cid va l).isSome then l else ⟨cid, va / size * size / 32768, size / 32768, e⟩ :: l.take 2047
        exec (.tlbFill tlb cid va) s = .next (nextFree { s with cores := mset s.cores tlb { getC s tlb with tlb := l' } })) ∧
      (192 ≤ tlb → tlb < 196 → walk s c va = .leaf e size →
        let l := (mget s.walkers (tlb - 192)).getD []
        let l' := if (tlbHit cid va l).isSome then l else ⟨cid, va / size * size / 32768, size / 32768, e⟩ :: l.take 8191
        exec (.tlbFill tlb cid va) s = .next (nextFree { s with walkers := mset s.walkers (tlb - 192) l' })) ∧
      (∀ r, walk s c va = .fault r →
        exec (.tlbFill tlb cid va) s = .next (nextFree s))) ∧
  (∀ (s : State) (id : Nat) (v : Inval), s.invals.find? (fun v => v.id == id) = some v →
    let a := sysWrite s v.done (numBytes 8 v.token)
    let b : State := { a with invals := a.invals.filter (fun x => x.id != id) }
    exec (.invalidateDone id) s = .next (nextFree (if v.waitFor.all (accessOver s) then finishRequest b v.fn v.queue 1 else s))) ∧
  (∀ (s : State) (part n cid va reason kind src : Nat) (p : Partition) (l : List (Nat × Nat × Nat × Nat × Nat × Nat)),
    mget s.parts part = some p → p.heldFaults = (n, cid, va, reason, kind, src) :: l →
      let p' : Partition := { p with heldFaults := l }
      let a : State := { s with parts := mset s.parts part p' }
      (openRec s p cid (va / 2 ^ 21 * 2 ^ 21) p.recs = none →
        exec (.heldFaultOpen part) s = .next (nextFree
          (if slotFree s p then renameAll (openRecord a part p' cid va reason kind) (2 ^ 64 + n) p.seqNext else s))) ∧
      (∀ seq, openRec s p cid (va / 2 ^ 21 * 2 ^ 21) p.recs = some seq →
        exec (.heldFaultOpen part) s = .next (nextFree
          (renameAll (mergeFault a p' seq va reason kind (decide (seq ∉ partyOf s (2 ^ 64 + n)))) (2 ^ 64 + n) seq)))) ∧
  (∀ (s : State) (flow : Nat) (msg : List Nat) (rest : List (Nat × List Nat)), s.trunk.inbox = (flow, msg) :: rest →
    takeInbox s msg = some { s with trunk := { s.trunk with inbox := rest } }) ∧
  (∀ (s s' : State) (dev mcid va ssn kind data pa : Nat), takeInbox s [4, dev, mcid, va, ssn, kind, data] = some s' →
    let k := sharedOf kind
    (ownerPlace s' mcid va ssn k = none → exec (.shardedOwnerAccess dev mcid va ssn kind data) s =
      .next (nextFree (devError s' 4 (freeUnit s') mcid (partOf s' mcid) 0))) ∧
    (ownerPlace s' mcid va ssn k = some (.single pa) → sharedReady s' k (.single pa) va = false →
      exec (.shardedOwnerAccess dev mcid va ssn kind data) s = .next (nextFree s)) ∧
    (ownerPlace s' mcid va ssn k = some (.single pa) → sharedReady s' k (.single pa) va = true →
      (∀ g b, badGranule s' (.single pa) k.size va = some (g, b) →
        exec (.shardedOwnerAccess dev mcid va ssn kind data) s = .next (nextFree (poisonGranule s' g))) ∧
      (badGranule s' (.single pa) k.size va = none → k.what = 1 → exec (.shardedOwnerAccess dev mcid va ssn kind data) s = .next (nextFree
        (writeHome (tagWrite s' mcid k.core [(pa, k.size)]) pa (soft s' pa (bytesOf k.size (data % 2 ^ 64)))))) ∧
      (badGranule s' (.single pa) k.size va = none → k.what = 2 → exec (.shardedOwnerAccess dev mcid va ssn kind data) s = .next (nextFree
        (writeHome (tagWrite s' mcid k.core [(pa, k.size)]) pa (soft s' pa (bytesOf k.size
          (atomNew k.op (ofBytes (homeBytes s' pa k.size)) [data % 2 ^ 64, data / 2 ^ 64 % 2 ^ 64, data / 2 ^ 128 % 2 ^ 64]).1))))))) ∧
  (∀ (s s' : State) (k id tid ok data dev mcid va ssn cls : Nat) (w : Wave) (h : Held) (a : Access) (l : Lane), k < 2 ^ 20 → tid < 2 ^ 16 →
    mget s'.waves k = some w → w.heldFor id = some h → h.pending id tid = some (a, l) → l.place = .remote dev mcid va ssn cls →
    mayTravel w a = true → mayWriteFar s' w a = true →
    takeInbox s [5, k, id, tid, ok, data] = some s' ∨
      takeInbox s [5, k, id, tid, ok, data] = none ∧ ok = 0 ∧ hasRoute s dev = false ∧ s' = s →
      let set := (mget s'.parts (partOf s' w.cid)).bind (fun p => mget p.shards ssn)
      let got : Lane :=
        if ok = 0 ∨ set = none then { l with place := .failed }
        else if 2 ≤ ok then { l with place := .spoiled cls (data % farGranules) (ok == 2) }
        else { l with place := .answered cls, data := answerData a cls data l.data }
      let h' : Held := { h with got := h.got ++ [(id, got)] }
      let w' : Wave := { w with held := w.held.map (fun x => if x = h then h' else x) }
      exec (.shardedOwnerAnswer k id tid ok data) s = .next (nextFree
        (if h'.over then conclude (landHeld (setW s' k w') k w' h') k else setW s' k w'))) ∧
  (∀ (s : State) (k : Nat) (w : Wave) (h : Held), mget s.waves k = some w →
    (h.refusals = [] → ∃ w', landHeld s k w h = setW (numbered s 1) k w' ∧ w'.held = w.held.filter (fun x => decide (x ≠ h)) ∧
      w'.accs = w.accs ++ (h.accs.filter (fun a => !a.lanes.isEmpty)).map
        (fun a => { a with lanes := a.lanes.map (fun l => (h.answer a.id l).getD l) }) ∧
      (∀ n t, w.thread n = some t → ∃ t', w'.thread n = some t' ∧ t'.st = t.st ∧ t'.regs = t.regs ∧ t'.opidx = t.opidx ∧
        if n ∈ h.tids then t'.pc = h.addr + 4 ∧ t'.wake = s.cycle + 2 else t' = { t with folds := t'.folds })) ∧
    (h.refusals ≠ [] → w.priv = none →
      let away := if h.accs.any (·.common) then h.tids else h.refusals.map (·.1)
      ∃ w', landHeld s k w h = toSiding (setW (numbered s 1) k w') k h.kinds h.own h.refusals away ∧
        ∀ n t, w.thread n = some t → n ∈ h.tids → n ∈ away → ∃ t', w'.thread n = some t' ∧
          t' = { t with wake := s.cycle + 1, folds := t'.folds }) ∧
    (h.refusals ≠ [] → w.priv.isSome = true → landHeld s k w h = handlerFault s k (noCause s)))

/-- 14 R423, R424; 15 R447, R448, R453: lines that are evicted, uncorrectable granules, scrub passes and the windows of predictive counters.
A tag keeps the CID and the partition of a context that has ended. That a counter crosses as it reaches its threshold is log 45 (DEDUCED);
the granules of a line, when one is evicted and the error that stays latent are log 64, the piles and how counts come log 67 (both DESIGN
CHOICE). -/
def Obligations.MemoryErrorsAndPredictiveCounters : Prop :=
  (∀ (s : State) (g cid core : Nat), g < 2 ^ 40 → mget s.tags (lineOf g) = some (cid, core) →
    exec (.lineEvictionError g) s = .next (nextFree
      ((g :: s.latent.filter (fun x => x != g && lineOf x == lineOf g)).foldl (evictedGranule cid core)
        { s with tags := mdel s.tags (lineOf g) }))) ∧
  (∀ (s : State) (g : Nat), exec (.lineEvictionError (g + 2 ^ 40)) s = .next (nextFree
    (match mget s.tags (lineOf g) with
     | none => s
     | some (cid, core) => (s.latent.filter (fun x => lineOf x == lineOf g)).foldl (evictedGranule cid core)
        { s with tags := mdel s.tags (lineOf g) }))) ∧
  (∀ (s : State) (cid part line c core : Nat), mget s.tags line = some (c, core) →
    mget (endTags s cid part).tags line = some (if c = cid then cid + 2 ^ 16 * (part + 1) else c, core)) ∧
  (∀ (s : State) (g cid part core : Nat), g < memSize / 32 → cid < 2 ^ 16 → mget s.contexts (cid + 2 ^ 16 * (part + 1)) = none →
    let a : State := { s with
      poison := if g ∈ s.poison then s.poison else g :: s.poison, latent := s.latent.filter (· != g) }
    ∃ cls unit, (cls = 3 ∨ cls = 7) ∧
      evictedGranule (cid + 2 ^ 16 * (part + 1)) core s g = devError a cls unit cid part (g * 32)) ∧
  (∀ (s : State) (g cid core : Nat), g < memSize / 32 → cid < 2 ^ 16 →
    let a : State := { s with
      poison := if g ∈ s.poison then s.poison else g :: s.poison, latent := s.latent.filter (· != g) }
    (∀ x, mget s.contexts cid = some x → x.ended = false → ∃ addr ord wlog : Nat,
      evictedGranule cid core s g = ringEntry a cid addr 0 (g * 32) cData 3 0 ord wlog core 0xFF) ∧
    (mget s.contexts cid = none → ∃ cls unit, (cls = 3 ∨ cls = 7) ∧
      evictedGranule cid core s g = devError a cls unit cid (partOf a cid) (g * 32))) ∧
  (∀ (s : State) (g : Nat), g < 2 ^ 40 → mget s.tags (lineOf g) = none → exec (.lineEvictionError g) s = .next (nextFree
    { s with latent := if memSize / 32 ≤ g ∨ g ∈ s.poison ∨ g ∈ s.latent then s.latent else g :: s.latent })) ∧
  (∀ (s : State) (pile g unit : Nat), g < memSize / 32 →
    ∃ u, let a := devError { s with
          poison := if g ∈ s.poison then s.poison else g :: s.poison, latent := s.latent.filter (· != g) } 3 u 0xFFFF 0xFF (g * 32)
      exec (.scrubPass pile g unit 0) s = .next (nextFree
        (if pile / 8 % 2 = 1 then endWindow a (5 * 2 ^ 28 + (8 + pile % 8) * 2 ^ 24) else a))) ∧
  (∀ (s : State) (pile g unit n : Nat), memSize / 32 ≤ g → 0 < n → unit < 2 ^ 32 → unit / 2 ^ 24 = 5 * 2 ^ 4 + 8 + pile % 8 →
    let bank := unit / 2 ^ 16 * 2 ^ 16 + 0xFFFF
    let a := if unit = bank then countEvents s bank n else countEvents (countEvents s bank n) unit n
    exec (.scrubPass pile g unit n) s = .next (nextFree
      (if pile / 8 % 2 = 1 then endWindow a (unit / 2 ^ 24 * 2 ^ 24) else a))) ∧
  (∀ (s : State) (unit n : Nat), unit < 2 ^ 32 → unit / 2 ^ 28 ≠ 5 →
    let a := if unit / 2 ^ 28 = 6 ∨ n % 2 ^ 32 = 0 then s else countEvents s unit (n % 2 ^ 32)
    exec (.predictiveWindow unit n) s = .next (nextFree (if 2 ^ 32 ≤ n then a else endWindow a unit))) ∧
  (∀ (s : State) (key n : Nat),
    let m := s.mgmt
    let old := zget 0 m.counters key
    let c : Mgmt := { m with counters := zset 0 m.counters key (old + n) }
    let t := thresholdOf m key
    countEvents s key n =
      if old < t ∧ t ≤ old + n then
        devError (event { s with mgmt := { c with crossings := zset 0 m.crossings key (zget 0 m.crossings key + 1) } } 0 5
          (key % 2 ^ 32) (key % 2 ^ 32)) 2 (key % 2 ^ 32) 0xFFFF 0xFF 0
      else { s with mgmt := c })

/-- 15 R438-R440, R466: requests are taken up from the head of their queue; malformed ones are answered 5, ones that are not
permitted 4; a request of another kind is left for its own step; a completion writes TAG and status and moves HEAD. That a second self-test
waits for the first is log 80 (DESIGN CHOICE). -/
def Obligations.RequestsAreAnsweredInOrder : Prop :=
  (∀ (i : Instr) (s : State) (fn queue v : Nat) (k : Kind) (f : Func) (q : Queue), requestForm i = some (fn, queue, k) →
    ¬waitsForTest s i → Arrived s fn queue v f q →
      let r := reqOf fn queue v
      (r.rsv ≠ 0 ∨ requestCodes.contains r.opc = false → k.mine r = true ∨ requestCodes.contains r.opc = false →
        exec i s = .next (nextFree (answered s fn queue v 5))) ∧
      (requestCodes.contains r.opc = true → k.mine r = false → exec i s = .next (nextFree s)) ∧
      (k.mine r = true → r.rsv = 0 → requestCodes.contains r.opc = true → ∀ n, k.load s r = .ok n → fn ≠ 0 →
        (k.pf0 = true ∨ (∃ c ∈ k.names r n, mayName s r c = false)) → exec i s = .next (nextFree (answered s fn queue v 4)))) ∧
  (∀ (i : Instr) (s : State) (fn queue : Nat) (k : Kind) (f : Func) (q : Queue), requestForm i = some (fn, queue, k) →
    mget s.funcs fn = some f → f.queues[queue]? = some q →
      fnAnswers s f = false ∨ q.qlog < 4 ∨ 12 < q.qlog ∨ q.qerr = true ∨ q.head = q.tail → exec i s = .next (nextFree s)) ∧
  (∀ (s t : State) (fn queue v n : Nat) (f g : Func) (q : Queue), Arrived s fn queue v f q → mget t.funcs fn = some g →
    g.queues = f.queues → fnReach t fn (bitsAt v 320 64) 8 = true →
      ∃ u, answered t fn queue v n = u ∧ u.mem = (completeReq t (bitsAt v 320 64) (bitsAt v 288 32) n).mem ∧
        u.hostMem = (completeReq t (bitsAt v 320 64) (bitsAt v 288 32) n).hostMem ∧
        mget u.funcs fn = some { g with queues := lset f.queues queue { q with head := (q.head + 1) % 2 ^ q.qlog, cur := none, came := q.came.drop 1 } } ∧
        u.launches = t.launches ∧ u.contexts = t.contexts ∧ u.waves = t.waves ∧ u.cores = t.cores ∧ u.mgmt = t.mgmt) ∧
  (∀ (s : State) (fn queue : Nat), s.selfTest.isSome = true → exec (.selfTest fn queue) s = .next (nextFree s))

/-- 12 R365, R376, R380; 13 R388-R390: launches, and the creation, end and pre-emption of contexts. That a PREEMPT waits while a unit that it
names is being resumed, and completes once none is being saved, is log 32 (DEDUCED). -/
def Obligations.LaunchAndContextRequests : Prop :=
  (∀ (s : State) (fn queue v : Nat) (c : Context) (bs : List Byte), let r := reqOf fn queue v
    Asks s fn queue v 0x01 → mayName s r r.cid = true → liveContext s r.cid = some c → r.pay % 128 = 0 → r.arg = 0 →
    sbRead s r.cid r.pay 128 = some bs → bitsAt (ofBytes bs) 448 64 % 32 = 0 →
      let l := launchOf s r c.part (ofBytes bs)
      exec (.launch fn queue) s = .next (nextFree
        (if launchError s l = 0 then answered (acceptLaunch s l) fn queue v 1
         else answered (writeCompletion s l 2 (launchError s l) 0 0#64) fn queue v 2))) ∧
  (∀ (s : State) (l : Launch), launchError s l = 0 ↔ versionOk l.record = true ∧ extentsOk l = true ∧ tiersOk l = true ∧
    rangesOk l = true ∧ addressesOk l = true ∧ devicesOk l = true ∧ placeable s l = true ∧ prioOk s l = true) ∧
  (∀ (s : State) (fn queue v : Nat) (bs : List Byte), let r := reqOf fn queue v
    let d := ofBytes bs
    let cid := descrCid d
    let c := freshContext r d
    Asks s fn queue v 0x02 → r.pay % 128 = 0 → fnReach s fn r.pay 128 = true → sysRead s r.pay 128 = some bs →
    descrOk (d / 2 ^ 488 * 2 ^ 488) = true → mayName s r r.cid = true → mayName s r cid = true →
    fn = 0 ∨ descrPart d = fn - 1 →
      exec (.contextCreate fn queue) s = .next (nextFree
        (if bitsAt d 0 488 = 0 ∧ cidFree s cid = true ∧ (mget s.parts (descrPart d)).isSome = true then
          answered (readConsists (loadGammas (writeEpoch { s with
            contexts := mset s.contexts cid c, cores := s.cores.map (fun e => (e.1, { e.2 with acts := mdel e.2.acts cid })) } c) cid) cid)
            fn queue v 1
         else answered s fn queue v 2))) ∧
  (∀ (s : State) (fn queue v : Nat), let r := reqOf fn queue v
    (Asks s fn queue v 0x03 → mayName s r r.cid = true → (mget s.contexts r.cid).isSome = true →
      exec (.contextEnd fn queue) s = .next (nextFree (takeReq (endContext s r.cid none) fn queue v))) ∧
    (Asks s fn queue v 0x03 → mget s.contexts r.cid = none →
      exec (.contextEnd fn queue) s = .next (nextFree (answered s fn queue v 2))) ∧
    (UnderWay s fn queue v 0x03 → exec (.contextEnd fn queue) s = .next (nextFree
      (if contextClear s r.cid = true then finishRequest s fn queue 1 else s)))) ∧
  (∀ (s : State) (fn queue v : Nat), let r := reqOf fn queue v
    (Asks s fn queue v 0x04 → bitsAt r.arg 48 12 = 0 → r.arg / 2 ^ 60 < 4 → mayName s r r.cid = true →
      exec (.preempt fn queue) s = .next (nextFree
        (if (liveContext s r.cid).isNone then answered s fn queue v 2
         else if preemptUnits s r (· == .resuming) ≠ [] then s
         else takeReq ((preemptUnits s r (· == .resident)).foldl requestUnit s) fn queue v))) ∧
    (UnderWay s fn queue v 0x04 → exec (.preempt fn queue) s = .next (nextFree
      (if preemptUnits s r (· == .saving) = [] then finishRequest s fn queue 1 else s))))

/-- 12 R366, R386; 14 R415, R420, R430-R433; 15 R445: invalidations, fault records resolved, code swaps, decay tables,
versioned ranges, shard sets and collective groups. The layout of a member list is log 34 (PRESUMED), status 2 for a set without this device
log 44, a code swap that waits until every write is visible log 7, and a destruction under way log 33 (all DEDUCED). -/
def Obligations.MemoryRequests : Prop :=
  (∀ (s : State) (fn queue v p : Nat), let r := reqOf fn queue v
    let cid := bitsAt p 80 16
    let done := bitsAt p 128 64
    let a := dropTlb s (fun x => x.cid == cid && inInval p x.vpn x.pages)
    let i : Inval := ⟨s.nextId, cid, bitsAt p 192 64 / 32768, bitsAt p 96 32, done, bitsAt p 0 64, fn, queue, invalWaits s p⟩
    Asks s fn queue v 0x05 → readPay s r r.pay 32 1 = .ok p → invalOk p = true → mayName s r cid = true →
      exec (.invalidate fn queue) s = .next (nextFree
        (if fnReach s fn done 8 = true then takeReq { a with invals := s.invals ++ [i], nextId := s.nextId + 1 } fn queue v
         else freezeFn s fn done))) ∧
  (∀ (s : State) (fn queue v : Nat) (p : Partition), let r := reqOf fn queue v
    let part := reqPart s r
    let w := readRec s p r.arg
    let x := resolveOf r.arg w
    let a := applyResolve s (bitsAt w 112 16) x
    let mask (l : List Nat) : Nat := l.foldl (fun n a => n ||| 2 ^ (a / 32768 % 64)) 0
    let w' := orField (orField w 256 64 (mask x.cancel)) 256 64 (mask x.replay)
    let b := writeRec a p r.arg (setField w' 0 8 3)
    Asks s fn queue v 0x06 → mayName s r r.cid = true → mget s.parts part = some p →
      (p.seqNext ≤ r.arg ∨ recState w ≠ 2 ∨ bitsAt w 320 64 ≠ r.arg →
        exec (.faultResolve fn queue) s = .next (nextFree (answered s fn queue v 2))) ∧
      (r.arg < p.seqNext → recState w = 2 → bitsAt w 320 64 = r.arg → bitsAt w' 256 64 ≠ bitsAt w' 448 64 →
        exec (.faultResolve fn queue) s = .next (nextFree (answered (writeRec a p r.arg w') fn queue v 1))) ∧
      (r.arg < p.seqNext → recState w = 2 → bitsAt w 320 64 = r.arg → bitsAt w' 256 64 = bitsAt w' 448 64 →
        exec (.faultResolve fn queue) s = .next (nextFree (answered
          { b with parts := mmod b.parts part (fun p => { p with recs := p.recs.filter (fun x => x.1 != r.arg) }) }
          fn queue v 1)))) ∧
  (∀ (s : State) (fn queue v p : Nat) (c : Context), let r := reqOf fn queue v
    let c' : Context := { c with
      cepoch := (c.cepoch + 1) % 2 ^ 32, retiring := c.retiring ++ [(c.cepoch, (words64 r.arg p).map (· / 32768), fn, queue)],
      stale := [] }
    Asks s fn queue v 0x07 → readPay s r r.pay (8 * r.arg) 1 = .ok p → (∀ a ∈ words64 r.arg p, a % 32768 = 0 ∧ a < 2 ^ 56) →
    mayName s r r.cid = true → liveContext s r.cid = some c →
      exec (.codeSwap fn queue) s = .next (nextFree
        (if s.vis = [] then takeReq (writeEpoch { s with contexts := mset s.contexts r.cid c' } c') fn queue v else s))) ∧
  (∀ (s : State) (fn queue v : Nat), let r := reqOf fn queue v
    Asks s fn queue v 0x08 → mayName s r r.cid = true → exec (.decayTableReload fn queue) s = .next (nextFree
      (if (liveContext s r.cid).isNone then answered s fn queue v 2 else answered (loadGammas s r.cid) fn queue v 1))) ∧
  (∀ (s : State) (fn queue v p : Nat), let r := reqOf fn queue v
    let owner := bitsAt p 208 16
    let version := (mget s.groups owner).getD 1
    let x := rangeOf p version
    Asks s fn queue v 0x09 → tst r.arg 63 = false → readPay s r r.pay 64 1 = .ok p → mayName s r owner = true →
      exec (.rangeCreate fn queue) s = .next (nextFree
        (if rangeOk s r.arg p x = true then
          answered { s with ranges := mset s.ranges r.arg x, groups := mset s.groups owner version } fn queue v 1
         else answered s fn queue v 2))) ∧
  (∀ (s : State) (fn queue v : Nat) (x : VRange), let r := reqOf fn queue v
    let vrn := r.arg % 2 ^ 10
    let a := dropTlb s (TlbEnt.inRange vrn)
    let left := mdel s.ranges vrn
    let groups := if (∃ e ∈ left, e.2.owner = x.owner ∧ e.2.leaving = false) then s.groups else mdel s.groups x.owner
    Asks s fn queue v 0x09 → tst r.arg 63 = true → bitsAt r.arg 10 53 = 0 → mget s.ranges vrn = some x → x.leaving = false →
    mayName s r x.owner = true →
      exec (.rangeDestroy fn queue) s = .next (nextFree
        (if rangePinned s x = true ∨ (∃ e ∈ commandsOf s x.owner, writesRange s vrn e.1 e.2 = true) then answered s fn queue v 3
         else if rangeInUse s vrn = true then
          takeReq { a with ranges := mset s.ranges vrn { x with dead := true, leaving := true }, groups := groups } fn queue v
         else answered { a with ranges := left, groups := groups } fn queue v 1))) ∧
  (∀ (s : State) (fn queue v : Nat), let r := reqOf fn queue v
    let vrn := r.arg % 2 ^ 10
    UnderWay s fn queue v 0x09 → tst r.arg 63 = true → exec (.rangeDestroy fn queue) s = .next (nextFree
      (if rangeInUse s vrn = true then s else finishRequest { s with ranges := mdel s.ranges vrn } fn queue 1))) ∧
  (∀ (s : State) (fn queue v p : Nat) (part : Partition), let r := reqOf fn queue v
    Asks s fn queue v 0x0A → r.arg < 64 → readMembers s r = .ok p → mayName s r r.cid = true →
    mget s.parts (reqPart s r) = some part → exec (.shardSet fn queue) s = .next (nextFree
      (if (∃ m ∈ membersOf p, m.2 = s.trunk.devn) then
        answered { s with
          parts := mset s.parts (reqPart s r) { part with shards := mset part.shards r.arg (membersOf p) } } fn queue v 1
       else answered s fn queue v 2))) ∧
  (∀ (s : State) (fn queue v p : Nat) (part : Partition), let r := reqOf fn queue v
    Asks s fn queue v 0x0B → r.arg < 2 ^ 16 → readMembers s r = .ok p → mayName s r r.cid = true →
    mget s.parts (reqPart s r) = some part → exec (.collectiveGroup fn queue) s = .next (nextFree
      (if (membersOf p).eraseDups.length = (membersOf p).length then
        answered { s with
          parts := mset s.parts (reqPart s r) { part with colls := mset part.colls r.arg (membersOf p) } } fn queue v 1
       else answered s fn queue v 2)))

/-- 14 R425, R428; 15 R446, R449, R452, R453, R457-R459, R463: partitions, self-test, Trunk, attestation, power, the error
record and predictive thresholds. The list layouts are the model's (log 34), and so is INFO of a self-test of several units
(log 4). Status 5 for a power limit out of range and the refusal to move a core that holds waves are log 44 (DEDUCED), the record set anew
that holds no entry log 69 (DESIGN CHOICE); which slice serves a line is no value of the manual (log 82), and the order in which attest
requests came is that of their doorbells (log 81, DEDUCED). -/
def Obligations.DeviceRequests : Prop :=
  (∀ (s : State) (queue v d : Nat), let r := reqOf 0 queue v
    let old := mget s.parts r.arg
    let p := partitionOf d old
    let a := (leftGiBs p old).foldl (fun s g => wipeStretch s (g * 2 ^ 30, 2 ^ 30)) ((movedCores p old).foldl wipeCore s)
    Asks s 0 queue v 0x10 → r.arg < 8 → readPay s r r.pay 256 1 = .ok d → partFields d = true →
      exec (.partition 0 queue) s = .next (nextFree
        (if partApart s r.arg p = true ∧ (∀ c ∈ movedCores p old,
            (∀ e ∈ s.waves, e.2.core ≠ c) ∧ (∀ e ∈ s.units, e.2.placed = true → e.2.core ≠ c)) then
          answered { a with parts := mset a.parts r.arg p } 0 queue v 1
         else answered s 0 queue v 2))) ∧
  (∀ (s : State) (queue v n d : Nat), let r := reqOf 0 queue v
    Asks s 0 queue v 0x11 → s.selfTest = none → readPay s r r.arg 4 1 = .ok n → 1 ≤ n → n ≤ 64 →
    readPay s r r.arg (4 + 4 * n) 1 = .ok d → (∀ u ∈ unitList d, testable u = true) →
      exec (.selfTest 0 queue) s = .next (nextFree (takeReq { s with selfTest := some ⟨unitList d, 0, queue⟩ } 0 queue v))) ∧
  (∀ (s : State) (pass : Nat) (t : SelfTest), s.selfTest = some t →
    let held : Prop := ∃ u ∈ t.units, ∃ c, coreOfUnit u = some c ∧
      ((∃ e ∈ s.waves, e.2.core = c) ∨ (∃ e ∈ s.units, e.2.placed = true ∧ e.2.core = c))
    (held → exec (.selfTestDone pass) s = .next (nextFree s)) ∧
    (¬held → ∃ info, (∀ u, t.units = [u] → info = u) ∧
      let a := (enumFrom 0 t.units).foldl (fun s e => testUnit s e.2 (tst pass e.1)) { s with selfTest := none }
      exec (.selfTestDone pass) s = .next (nextFree (event (finishRequest a t.fn t.queue 1) t.fn 6 uSignalbox info)))) ∧
  (∀ (s : State) (pass : Nat), s.selfTest = none → exec (.selfTestDone pass) s = .next (nextFree s)) ∧
  (∀ (s : State) (u : Nat), u / 2 ^ 28 = 3 →
    let a := testUnit s u true
    (∀ line, mget a.tags line =
      if u ∉ s.mgmt.fenced ∧ Config.sliceOf s.mgmt.fenced line = u then none else mget s.tags line) ∧
    testUnit s u false = devError
      { a with mgmt := { a.mgmt with fenced := if a.mgmt.fenced.contains u then a.mgmt.fenced else u :: a.mgmt.fenced } } 5 u 0xFFFF 0xFF 0) ∧
  (∀ (s : State) (queue v h d : Nat), let r := reqOf 0 queue v
    Asks s 0 queue v 0x12 → readPay s r r.pay 16 1 = .ok h → bitsAt h 16 12 ≠ 0 →
    readPay s r r.pay (16 + 8 * bitsAt h 16 12) 1 = .ok d → (∀ e ∈ routesOf d, bitsAt e 16 8 ≠ 0) →
      exec (.trunkConfigure 0 queue) s = .next (nextFree
        (if routesOk d = true ∧ (∀ e ∈ s.units, e.2.placed = true → ∀ l, mget s.launches e.2.launch = some l → l.ndev < 2) then
          answered { s with
            trunk := { s.trunk with devn := bitsAt d 0 16, links := bitsAt d 28 18, routes := routesOf d, down := [] } } 0 queue v 1
         else answered s 0 queue v 2))) ∧
  (∀ (s : State) (fn queue v d : Nat), let r := reqOf fn queue v
    let body := reportBody s fn d
    let report := body ++ (Config.xmssSign (nextIndex s.mgmt) body).toList
    Asks s fn queue v 0x13 → readPay s r r.pay 64 1 = .ok d → (attestBefore s r = true → exec (.attest fn queue) s = .next (nextFree s)) ∧
      (attestBefore s r = false → exec (.attest fn queue) s = .next (nextFree
        (if s.mgmt.indices = 0 then answered s fn queue v 2
         else if fnReach s fn r.arg report.length = true then
          answered (sysWrite { s with mgmt := { s.mgmt with indices := s.mgmt.indices - 1 } } r.arg report) fn queue v 1
         else freezeFn s fn r.arg)))) ∧
  (∀ (s : State) (queue v : Nat), let r := reqOf 0 queue v
    Asks s 0 queue v 0x14 → exec (.powerLimit 0 queue) s = .next (nextFree
      (if 600 ≤ r.arg ∧ r.arg ≤ 2400 ∧ r.arg % 25 = 0 then answered { s with mgmt := { s.mgmt with plim := r.arg } } 0 queue v 1
       else answered s 0 queue v 5))) ∧
  (∀ (s : State) (queue v d : Nat), let r := reqOf 0 queue v
    let a : State := { s with mgmt := { s.mgmt with ebase := bitsAt d 64 64, elog := bitsAt d 0 8, ewritten := 0 } }
    Asks s 0 queue v 0x15 → readPay s r r.pay 16 1 = .ok d → exec (.errorRecord 0 queue) s = .next (nextFree
      (if errorRecordOk s d = true then
        answered (if bitsAt d 0 8 = 0 then a else writeHome a (bitsAt d 64 64) (bytesOf 8 0)) 0 queue v 1
       else answered s 0 queue v 2))) ∧
  (∀ (s : State) (queue v d : Nat), let r := reqOf 0 queue v
    Asks s 0 queue v 0x16 → readPay s r r.pay 16 1 = .ok d → exec (.predictiveThresholds 0 queue) s = .next (nextFree
      (if bitsAt d 64 64 = 0 ∧ 1 ≤ bitsAt d 8 8 ∧ 1 ≤ bitsAt d 0 8 ∧ bitsAt d 0 8 ≤ 16 then
        answered { s with mgmt := { s.mgmt with thresholds := (thresholdsOf d, []) :: s.mgmt.thresholds } } 0 queue v 1
       else answered s 0 queue v 2)))

/-- 15 R437, R440, R461: doorbells and register writes. A write through the management port selects its register. CLASS 6 of the entry for a
relaxed doorbell is log 44 (DEDUCED), that a ring set anew begins at its first entry log 69 (DESIGN CHOICE), and what a doorbell notes of
the order of arrival log 81 (DEDUCED). -/
def Obligations.DoorbellsAndRegisters : Prop :=
  (∀ (s : State) (fn queue value : Nat) (relaxed : Bool) (f : Func) (q : Queue), mget s.funcs fn = some f →
    f.queues[queue]? = some q →
      let n := 2 ^ q.qlog
      let t := value % 2 ^ 32
      let put (q : Queue) : State := { s with funcs := mset s.funcs fn { f with queues := lset f.queues queue q } }
      (fnAnswers s f = false → exec (.doorbellWrite fn queue value relaxed) s = .next (nextFree s)) ∧
      (fnAnswers s f = true →
        exec (.doorbellWrite fn queue value true) s = .next (nextFree
          (devError s 6 (uHost fn) 0xFFFF (if fn = 0 then 0xFF else fn - 1) 0)) ∧
        (n ≤ t ∨ (q.head ≠ q.tail ∧ ringDist n q.tail q.head < ringDist n q.tail t) →
          exec (.doorbellWrite fn queue value false) s = .next (nextFree (put { q with qerr := true }))) ∧
        (t < n → q.head = q.tail ∨ ringDist n q.tail t ≤ ringDist n q.tail q.head →
          exec (.doorbellWrite fn queue value false) s = .next (nextFree
            { put { q with tail := t, came := q.came ++ List.replicate (ringDist n q.tail t) s.nextId } with nextId := s.nextId + 1 })))) ∧
  (∀ (s : State) (fn queue value : Nat) (f : Func) (q : Queue), fn < 9 → mget s.funcs fn = some f → f.queues[queue]? = some q →
    let put (q : Queue) : State := { s with funcs := mset s.funcs fn { f with queues := lset f.queues queue q } }
    (fnAnswers s f = false → ∀ reg, reg / 32 = queue → exec (.registerWrite fn reg value) s = .next (nextFree s)) ∧
    (fnAnswers s f = true →
      exec (.registerWrite fn (32 * queue + 24) value) s = .next (nextFree
        (if q.qlog ≠ 0 ∧ q.head ≠ q.tail then s else put { q with qbase := value % 2 ^ 64 })) ∧
      (queue = 0 → exec (.registerWrite fn 16 value) s = .next (nextFree
        { s with funcs := mset s.funcs fn (setRing f (value % 2 ^ 64) f.evlog) })) ∧
      (queue ≠ 0 → exec (.registerWrite fn (32 * queue) value) s = .next (nextFree
        (put { q with
          qlog := if q.qlog ≠ 0 ∧ q.head ≠ q.tail then q.qlog else bitsAt (value % 2 ^ 64) 56 8,
          qerr := q.qerr && !tst value 0 }))) ∧
      (queue = 0 → exec (.registerWrite fn 0 value) s = .next (nextFree
        { s with funcs := mset s.funcs fn (setRing
          { f with queues := lset f.queues 0 { q with
            qlog := if q.qlog ≠ 0 ∧ q.head ≠ q.tail then q.qlog else bitsAt (value % 2 ^ 64) 56 8,
            qerr := q.qerr && !tst value 0 } } f.evbase (bitsAt (value % 2 ^ 64) 48 8)) })))) ∧
  (∀ (f : Func) (base log2n : Nat), setRing f base log2n = { f with
    evbase := base, evlog := log2n, evCount := if base = f.evbase ∧ log2n = f.evlog then f.evCount else 0 }) ∧
  (∀ (s : State) (value : Nat),
    (value < 2 ^ 64 →
      exec (.registerWrite 9 0x10 value) s = .next (nextFree { s with mgmt := { s.mgmt with sel := 0x10, pcsel := BitVec.ofNat 32 value } }) ∧
      exec (.registerWrite 9 0x20 value) s = .next (nextFree { s with mgmt := { s.mgmt with sel := 0x20, errn := value % 2 ^ 8 } })) ∧
    ∀ reg < 2 ^ 8, (reg ≠ 0x10 ∧ reg ≠ 0x20) ∨ 2 ^ 64 ≤ value →
      exec (.registerWrite 9 reg value) s = .next (nextFree { s with mgmt := { s.mgmt with sel := reg } }))

/-- 15 R442-R444, R448: flits, links and exchange ticks. CLASS of the entries for a failed link and a lost tick is not stated
(log 4). That a retrain crosses as it reaches its threshold, with a counter of its own, is log 45 (DEDUCED). -/
def Obligations.TrunkLinksAndTicks : Prop :=
  (∀ (s : State) (link flow seq : Nat) (ok : Bool) (body : List Nat),
    let n := zget 0 s.trunk.retries link
    let next := zget 0 s.trunk.flows flow
    let fine : State := { s with trunk := { s.trunk with retries := zset 0 s.trunk.retries link 0 } }
    (linkUp s link = false ∨ 65 ≤ n → exec (.trunkFlitReceive link flow seq ok body) s = .next (nextFree s)) ∧
    (linkUp s link = true → n < 65 →
      exec (.trunkFlitReceive link flow seq false body) s = .next (nextFree
        (countEvents { s with trunk := { s.trunk with retries := zset 0 s.trunk.retries link (n + 1) } } (uLink link) 1)) ∧
      (seq < next → exec (.trunkFlitReceive link flow seq true body) s = .next (nextFree fine)) ∧
      (next < seq → (∀ h ∈ s.trunk.held, h.1 = flow → h.2.1 ≠ next ∧ h.2.1 ≠ seq) →
        exec (.trunkFlitReceive link flow seq true body) s = .next (nextFree
          { fine with trunk := { fine.trunk with held := s.trunk.held ++ [(flow, seq, body)] } })) ∧
      (seq = next → (∀ h ∈ s.trunk.held, h.1 ≠ flow) →
        exec (.trunkFlitReceive link flow seq true body) s = .next (nextFree
          (deliver { fine with trunk := { fine.trunk with flows := zset 0 s.trunk.flows flow (next + 1) } } flow body))))) ∧
  (∀ (s : State) (link : Nat),
    (linkUp s link = true → 65 ≤ zget 0 s.trunk.retries link → ∃ cls, 1 ≤ cls ∧ cls ≤ 6 ∧
      exec (.linkDown link) s = .next (nextFree (devError
        { s with trunk := { s.trunk with down := link :: s.trunk.down, retries := zset 0 s.trunk.retries link 0 } } cls (uLink link)
        0xFFFF 0xFF 0))) ∧
    (linkUp s link = false ∨ zget 0 s.trunk.retries link < 65 → exec (.linkDown link) s = .next (nextFree s))) ∧
  (∀ (s : State), exec .exchangeTick s = .next (nextFree { s with tickCount := s.tickCount + 1, tickGap := 0, tickLost := false }) ∧
    (s.tickLost = false → 2 ^ 30 < s.tickGap → ∃ cls, 1 ≤ cls ∧ cls ≤ 6 ∧
      exec .tickLoss s = .next (nextFree (devError { s with tickLost := true } cls uTick 0xFFFF 0xFF 0))) ∧
    (s.tickLost = true ∨ s.tickGap ≤ 2 ^ 30 → exec .tickLoss s = .next (nextFree s))) ∧
  (∀ (s : State) (unit below : Nat), unit < 2 ^ 32 →
    let key := 2 ^ 32 + unit
    let t := lget 1 ((s.mgmt.thresholds.head?.map (·.1)).getD defaultThresholds) 1
    let m : Mgmt := { s.mgmt with counters := zset 0 s.mgmt.counters key below }
    (unit / 2 ^ 28 = 6 ∨ unit / 2 ^ 28 = 7 → exec (.linkRetrain unit below) s = .next (nextFree
      (if t ≤ below then
        devError (event { s with mgmt := { m with crossings := zset 0 m.crossings key (zget 0 m.crossings key + 1) } } 0 5 unit unit)
          2 unit 0xFFFF 0xFF 0
       else { s with mgmt := m }))) ∧
    (unit / 2 ^ 28 ≠ 6 → unit / 2 ^ 28 ≠ 7 → exec (.linkRetrain unit below) s = .next (nextFree s)))

/-- 15 R449, R454, R456, R457, R461, R462: resets, the end of a wipe, and life-cycle tokens. What stays over a reset where the
manual does not say so is the model's (log 35), and so is the key after RETURNED (log 37). That the firmware is checked in the step that
applies a token is log 68 (DEDUCED). -/
def Obligations.ResetsAndLifeCycle : Prop :=
  (∀ (s : State) (ok : Bool), ∃ t, exec (.coldReset ok) s = .next t ∧ t.booting = true ∧ t.mem = [] ∧ t.hostMem = s.hostMem ∧
    t.waves = [] ∧ t.contexts = [] ∧ t.launches = [] ∧ t.parts = [] ∧ t.cores = [] ∧ t.ranges = [] ∧ t.trunk = State.reset.trunk ∧
    (∀ fn f, mget t.funcs fn = some f → f.wiping = true ∧ f.frozen = false) ∧
    t.mgmt.bootStat = (if ok = true ∧ bootFailure s.mgmt.lcs s.freeCount = none then 1 else 2) ∧
    (ok = true → t.mgmt.bootImage = (bootFailure s.mgmt.lcs s.freeCount).getD 0) ∧ t.mgmt.lcs = s.mgmt.lcs ∧
    t.mgmt.fenced = [] ∧ t.mgmt.plim = 2400 ∧
    t.mgmt.blocksLeft = s.mgmt.blocksLeft - 1 ∧ t.mgmt.indices = (if s.mgmt.blocksLeft = 0 then 0 else 64)) ∧
  (∀ (s : State), (s.mgmt.bootStat = 2 → exec .deviceReset s = .next (nextFree s)) ∧
    (s.mgmt.bootStat ≠ 2 → ∃ t, exec .deviceReset s = .next t ∧ t.booting = true ∧ t.mem = [] ∧ t.hostMem = s.hostMem ∧
      t.waves = [] ∧ t.contexts = [] ∧ t.launches = [] ∧ t.parts = [] ∧ t.cores = [] ∧ t.ranges = [] ∧
      t.trunk = State.reset.trunk ∧ (∀ fn f, mget t.funcs fn = some f → f.wiping = true ∧ f.frozen = false) ∧
      t.mgmt.fenced = s.mgmt.fenced ∧ t.mgmt.lcs = s.mgmt.lcs ∧ t.mgmt.indices = s.mgmt.indices ∧
      t.mgmt.blocksLeft = s.mgmt.blocksLeft ∧ t.mgmt.plim = 2400)) ∧
  (∀ (s : State) (part : Nat) (p : Partition), part < 8 → s.booting = false → mget s.parts part = some p →
    ∃ t, exec (.partitionReset part) s = .next t ∧ zget 0#64 t.gsteps part = 0#64 ∧
      (∀ f, mget t.funcs (part + 1) = some f → f = { Func.init with wiping := true }) ∧
      (∀ e ∈ t.waves, tst p.cores e.2.core = false) ∧ (∀ c, c < 192 → tst p.cores c = true → mget t.cores c = none) ∧
      (∀ r ∈ p.regions, ∀ a, r.1 * 2 ^ 30 ≤ a → a < r.1 * 2 ^ 30 + r.2 * 2 ^ 30 → homeByte t a = 0#8) ∧
      mget t.parts part = some { p with recs := [], heldFaults := [] }) ∧
  (∀ (s : State) (part : Nat), 8 ≤ part ∨ s.booting = true → exec (.partitionReset part) s = .next (nextFree s)) ∧
  (∀ (s : State), (s.mgmt.bootStat = 2 → exec .wipeComplete s = .next (nextFree s)) ∧
    (s.mgmt.bootStat ≠ 2 → exec .wipeComplete s = .next (nextFree { s with
      booting := false, funcs := s.funcs.map (fun e => (e.1, { e.2 with wiping := false })),
      mgmt := { s.mgmt with bootStat := 0, lccmd := if s.booting = true ∧ s.mgmt.lccmd = 1 then 2 else s.mgmt.lccmd } }))) ∧
  (∀ (s : State), (s.mgmt.lccmd = 1 → exec .lcApply s = .next (nextFree s)) ∧
    (s.mgmt.lccmd ≠ 1 → tokenOk s.mgmt = true → ∃ t, exec .lcApply s = .next t ∧ t.mgmt.lcs = s.mgmt.lcs + 1 ∧ t.mgmt.lccmd = 1 ∧
      t.mgmt.bootStat = (if bootFailure (s.mgmt.lcs + 1) s.freeCount = none then 1 else 2) ∧ t.mgmt.lcbuf = [] ∧
      t.booting = true ∧ t.mem = [] ∧ t.waves = [] ∧ t.contexts = [] ∧ t.hostMem = s.hostMem) ∧
    (s.mgmt.lccmd ≠ 1 → tokenOk s.mgmt = false → ∃ n, exec .lcApply s = .next (nextFree { s with
      mgmt := { s.mgmt with lcnonce := n, lcbuf := [], lccmd := 3, sel := 0x32 } }))) ∧
  (∀ (m : Mgmt), tokenOk m = true → m.lcbuf.length = 9764 ∧ m.lcs < 3 ∧ (lget 0#8 m.lcbuf 0).toNat = m.lcs + 1 ∧
    ofBytes ((m.lcbuf.drop 8).take 8) = m.lcnonce.toNat ∧ ofBytes ((m.lcbuf.drop 16).take 16) = Config.serial.toNat ∧
    Config.xmssVerify (m.lcbuf.take 32) (m.lcbuf.drop 32) = true) ∧
  (∀ (s : State) (byte : Nat),
    exec (.lcbufWrite byte) s = .next (nextFree
      { s with mgmt := { s.mgmt with lcbuf := s.mgmt.lcbuf ++ [BitVec.ofNat 8 byte], sel := 0x31 } }) ∧
    exec .lcDiscard s = .next (nextFree { s with mgmt := { s.mgmt with lcbuf := [], sel := 0x32 } }))

/-- 15 R461, R463: thermal requests, the power measured in each cycle and the clock; the step upwards and the power itself are the model's
(log 36). 14 R419, R427, 15 R436: the host's atomics at the home of their bytes; 00 R9, 14 R418: a write leaves read-only bytes of a fault
record as they are, and all others take what is written. -/
def Obligations.ClocksAndHostAtomics : Prop :=
  (∀ (s : State),
    exec .thermalRequest s = .next (nextFree { s with mgmt := { s.mgmt with therm := true, clock := 1000, sel := 0x07 } }) ∧
    exec .thermalWithdraw s = .next (nextFree { s with mgmt := { s.mgmt with therm := false, sel := 0x07 } }) ∧
    (2 ^ 22 ≤ s.mgmt.hot → 1100 ≤ s.mgmt.clock →
      exec .clockLower s = .next (nextFree { s with mgmt := { s.mgmt with clock := s.mgmt.clock - 100, hot := 0 } })) ∧
    (2 ^ 22 ≤ s.mgmt.hot → 1000 < s.mgmt.clock → s.mgmt.clock ≤ 1100 →
      exec .clockLower s = .next (nextFree { s with mgmt := { s.mgmt with clock := 1000, hot := 0 } })) ∧
    (s.mgmt.hot < 2 ^ 22 ∨ s.mgmt.clock ≤ 1000 → exec .clockLower s = .next (nextFree s)) ∧
    (2 ^ 26 ≤ s.mgmt.cool → s.mgmt.therm = false → s.mgmt.clock ≤ 2900 →
      exec .clockRaise s = .next (nextFree { s with mgmt := { s.mgmt with clock := s.mgmt.clock + 100, cool := 0 } })) ∧
    (2 ^ 26 ≤ s.mgmt.cool → s.mgmt.therm = false → 2900 < s.mgmt.clock → s.mgmt.clock < 3000 →
      exec .clockRaise s = .next (nextFree { s with mgmt := { s.mgmt with clock := 3000, cool := 0 } })) ∧
    (s.mgmt.cool < 2 ^ 26 ∨ s.mgmt.therm = true ∨ 3000 ≤ s.mgmt.clock → exec .clockRaise s = .next (nextFree s)) ∧
    ((∀ e ∈ s.cores, ∀ m, e.2.sampler = some m → m.pending = []) → ∃ p ≤ 2400, ∃ q, (passCycle s).mgmt = { s.mgmt with
      power := BitVec.ofNat 32 p, temp := q, hot := if s.mgmt.plim < p then s.mgmt.hot + 1 else 0,
      cool := if 100 * p < 95 * s.mgmt.plim then s.mgmt.cool + 1 else 0 })) ∧
  (∀ (s : State) (pa : Nat) (bs : List Byte), (∀ j < bs.length, readOnly s (pa + j) = false) → soft s pa bs = bs) ∧
  (∀ (s : State) (fn addr op size operand : Nat) (f : Func), mget s.funcs fn = some f → fnAnswers s f = true →
    size = 4 ∨ size = 8 → addr % size = 0 → addr + size ≤ memSize → op < 2 →
      let old := ofBytes (homeBytes s addr size)
      (fn ≠ 0 → physOk s (fn - 1) true addr size = false →
        exec (.pcieAtomicop fn addr op size operand) s = .next (nextFree (freezeFn s fn addr))) ∧
      (fn = 0 ∨ physOk s (fn - 1) true addr size = true → s.vis ≠ [] →
        exec (.pcieAtomicop fn addr op size operand) s = .next (nextFree s)) ∧
      (fn = 0 ∨ physOk s (fn - 1) true addr size = true → s.vis = [] → badGranule s (.single addr) size addr = none →
        exec (.pcieAtomicop fn addr 0 size operand) s = .next (nextFree
          (writeHome s addr (soft s addr (bytesOf size ((old + operand) % 2 ^ (8 * size)))))) ∧
        exec (.pcieAtomicop fn addr 1 size operand) s = .next (nextFree (writeHome s addr (soft s addr (bytesOf size
          (if old = operand % 2 ^ (8 * size) then operand / 2 ^ (8 * size) % 2 ^ (8 * size) else old))))))) ∧
  (∀ (s : State) (fn addr op size operand : Nat), size ≠ 4 → size ≠ 8 →
    exec (.pcieAtomicop fn addr op size operand) s = .next (nextFree s)) ∧
  (∀ (s : State) (fn addr op size operand : Nat) (g : Nat) (b : Bool), badGranule s (.single addr) size addr = some (g, b) →
    size = 4 ∨ size = 8 → addr % size = 0 → addr + size ≤ memSize → op < 2 → fn = 0 → s.vis = [] →
    (∃ f, mget s.funcs fn = some f ∧ fnAnswers s f = true) →
      exec (.pcieAtomicop fn addr op size operand) s = .next (nextFree { s with
        poison := if g ∈ s.poison then s.poison else g :: s.poison, latent := s.latent.filter (· != g) }))

/-- 12 R387; 13 R401-R403, R407; 15 R455, R458, R459, R462: where the Signalbox's own steps on a launch, a life-cycle token and an
attestation complete, and with what: aging, the units that make room (all that go with a victim, `party`), a launch out of time, one
that is over, a serialised re-execution that is over, the next life-cycle state, a report. Whether the firmware suits the new state is
checked at once (log 68); what a reset leaves of the management registers is log 35, that no index and no block is left in RETURNED log 37,
and that what goes with a victim must itself be allowed to go log 75 (all DEDUCED). -/
def Obligations.SignalboxStepsComplete : Prop :=
  (∀ (s : State) (n : Nat) (l : Launch), mget s.launches n = some l → l.st = .active →
    exec (.priorityAging n) s = .next (nextFree
      { s with launches := mset s.launches n { l with waitPrio := min 31 (l.prio + l.waiting / 2 ^ 26) } })) ∧
  (∀ (s : State) (n j : Nat) (l : Launch) (w : List Want) (more : List (Nat × List Want)) (vs : List Nat), mget s.launches n = some l →
    l.st = .active → (∀ e ∈ s.units, e.2.st ≠ .saving) → waitingWants s n l = (j, w) :: more →
    (∀ p ∈ (j, w) :: more, tryPlace s keepAll n l p.1 p.2 = none) →
    vs = (victims s l).filter (fun u => (party s u).all (victims s l).contains &&
      ((mget s.units u).map (fun x => tst (((mget s.parts l.part).map (·.cores)).getD 0) x.core &&
        (decide (2 ≤ tierDom l (gangTier l)) || (diesFor l j ((w.head?.map (·.ord)).getD 0)).contains (x.core / 48)))).getD false) →
      (2 ^ 22 ≤ l.waiting →
        exec (.preemptionDecision n) s = .next (nextFree ((chooseVictims s n l j w [] vs).foldl requestUnit s)) ∧
        ∀ u us, vs = u :: us → (tryPlace s (fun k => !(party s u).contains k) n l j w).isSome = true →
          exec (.preemptionDecision n) s = .next (nextFree ((party s u).foldl requestUnit s))) ∧
      (l.waiting < 2 ^ 22 → exec (.preemptionDecision n) s = .next (nextFree s))) ∧
  (∀ (s : State) (n : Nat) (l : Launch), mget s.launches n = some l → l.st = .active → l.tlimit * 2 ^ 20 ≤ l.resident →
    (l.serial = none →
      exec (.timeLimitExpiry n) s = .next (nextFree (endLaunch (cancelLaunch s n) n 3 0 (brokenDigest s l)))) ∧
    (∀ free, l.serial = some free → exec (.timeLimitExpiry n) s = .next (nextFree
      (endLaunch (digestEntry (cancelLaunch s n) l free (brokenDigest s l) 3) n 4 3 (brokenDigest s l))))) ∧
  (∀ (s : State) (n : Nat) (l : Launch), mget s.launches n = some l → launchBusy s n = false →
    (∀ status dsub dig, l.st = .ending status dsub dig →
      exec (.launchComplete n) s = .next (nextFree (closeLaunch s n status dsub dig))) ∧
    (l.st = .active → l.serial = none → l.unitsLeft = 0 →
      (l.digm = 0 → exec (.launchComplete n) s = .next (nextFree (closeLaunch s n 1 0 0#64))) ∧
      (l.digm ≠ 0 → digestsIn l = true → l.digm = 1 ∨ taskDigest s l = l.digest →
        exec (.launchComplete n) s = .next (nextFree (closeLaunch s n 1 0 (taskDigest s l)))) ∧
      (l.digm ≠ 0 → l.digm ≠ 1 → digestsIn l = true → taskDigest s l ≠ l.digest →
        exec (.launchComplete n) s = .next (nextFree (serialise s n (taskDigest s l))))) ∧
    (∀ free, l.st = .active → l.serial = some free → l.unitsLeft = 0 → digestsIn l = true →
      let t := taskDigest s l
      let sub := if t = l.digest then 1 else if t = free then 2 else 3
      exec (.serialisedReexecutionEnd n) s = .next (nextFree
        (closeLaunch (digestEntry s l free t sub) n (if t = l.digest then 1 else 4) sub t)))) ∧
  (∀ s : State, s.mgmt.lccmd ≠ 1 → tokenOk s.mgmt = true →
    let m : Mgmt := { s.mgmt with lcnonce := Config.nonce s.freeCount, lcbuf := [], lcs := s.mgmt.lcs + 1, lccmd := 1, sel := 0x32 }
    let r := verified (resetMgmt m false s.freeCount) (bootFailure (s.mgmt.lcs + 1) s.freeCount)
    exec .lcApply s = .next (nextFree (wipeDevice s (if s.mgmt.lcs = 2 then { r with indices := 0, blocksLeft := 0 } else r)))) ∧
  (∀ (s : State) (fn queue v d : Nat), let r := reqOf fn queue v
    let body := reportBody s fn d
    let report := body ++ (Config.xmssSign (nextIndex s.mgmt) body).toList
    Asks s fn queue v 0x13 → readPay s r r.pay 64 1 = .ok d → attestBefore s r = false → s.mgmt.indices ≠ 0 → fnReach s fn r.arg report.length = true →
      exec (.attest fn queue) s = .next (nextFree (answered
        (sysWrite { s with mgmt := { s.mgmt with indices := s.mgmt.indices - 1 } } r.arg report) fn queue v 1)))
end

