-- ==== Sys2Proof/Laws/Arith.lean ====
section
/-! SUPPORT. Arithmetic on natural numbers, as the meanings do it, and on bit vectors agree. -/

namespace Sys2Proof.Laws

open Sys2Proof.Machine

theorem tst_eq (x k : Nat) : tst x k = x.testBit k := by
  rw [tst, Nat.testBit_eq_decide_div_mod_eq]
  simp [beq_eq_decide]

theorem sgn_eq {n : Nat} (hn : 0 < n) (x : Nat) : sgn n x = (BitVec.ofNat n x).toInt := by
  unfold sgn
  rw [tst_eq, BitVec.toInt_eq_msb_cond, BitVec.msb_eq_getLsbD_last, BitVec.getLsbD_ofNat, BitVec.toNat_ofNat]
  have : (decide (n - 1 < n) && x.testBit (n - 1)) = x.testBit (n - 1) := by simp; omega
  rw [this]

theorem wrap_eq (n : Nat) (i : Int) : wrap n i = (BitVec.ofInt n i).toNat := by
  simp [wrap, BitVec.toNat_ofInt]

theorem sgn_toNat {n : Nat} (hn : 0 < n) (x : BitVec n) : sgn n x.toNat = x.toInt := by
  rw [sgn_eq hn, BitVec.ofNat_toNat, BitVec.setWidth_eq]

section
variable {a b : Nat}

theorem addW_eq (n a b : Nat) : addW n a b = (BitVec.ofNat n a + BitVec.ofNat n b).toNat := by simp [addW]

theorem subW_eq {n : Nat} (hb : b < 2 ^ n) : subW n a b = (BitVec.ofNat n a - BitVec.ofNat n b).toNat := by
  simp only [subW, BitVec.toNat_sub, BitVec.toNat_ofNat, Nat.mod_eq_of_lt hb]
  rw [Nat.add_comm a, Nat.add_mod_mod, show 2 ^ n + a - b = 2 ^ n - b + a by omega]

theorem mulW_eq (n a b : Nat) : a * b % 2 ^ n = (BitVec.ofNat n a * BitVec.ofNat n b).toNat := by simp

theorem and_eq {n : Nat} (ha : a < 2 ^ n) (hb : b < 2 ^ n) : a &&& b = (BitVec.ofNat n a &&& BitVec.ofNat n b).toNat := by
  simp [Nat.mod_eq_of_lt ha, Nat.mod_eq_of_lt hb]

theorem or_eq {n : Nat} (ha : a < 2 ^ n) (hb : b < 2 ^ n) : a ||| b = (BitVec.ofNat n a ||| BitVec.ofNat n b).toNat := by
  simp [Nat.mod_eq_of_lt ha, Nat.mod_eq_of_lt hb]

theorem xor_eq {n : Nat} (ha : a < 2 ^ n) (hb : b < 2 ^ n) : a ^^^ b = (BitVec.ofNat n a ^^^ BitVec.ofNat n b).toNat := by
  simp [Nat.mod_eq_of_lt ha, Nat.mod_eq_of_lt hb]

theorem shlW_eq (n a c : Nat) : shlW n a c = (BitVec.ofNat n a <<< c).toNat := by
  simp [shlW, BitVec.toNat_shiftLeft, Nat.shiftLeft_eq]

theorem shr_eq {n : Nat} (c : Nat) (ha : a < 2 ^ n) : a / 2 ^ c = (BitVec.ofNat n a >>> c).toNat := by
  simp [BitVec.toNat_ushiftRight, Nat.shiftRight_eq_div_pow, Nat.mod_eq_of_lt ha]

theorem sarW_eq {n : Nat} (c : Nat) (hn : 0 < n) : sarW n a c = ((BitVec.ofNat n a).sshiftRight c).toNat := by
  have h : ((2 : Int) ^ c) = ((2 ^ c : Nat) : Int) := by push_cast; rfl
  rw [sarW, sgn_eq hn, wrap_eq, h, ← Int.shiftRight_eq_div_pow, ← BitVec.toInt_sshiftRight, BitVec.ofInt_toInt]

theorem sgn_lt {n : Nat} (hn : 0 < n) (a b : Nat) : decide (sgn n a < sgn n b) = (BitVec.ofNat n a).slt (BitVec.ofNat n b) := by
  rw [sgn_eq hn, sgn_eq hn, BitVec.slt]

theorem sgn_le {n : Nat} (hn : 0 < n) (a b : Nat) : decide (sgn n a ≤ sgn n b) = (BitVec.ofNat n a).sle (BitVec.ofNat n b) := by
  rw [sgn_eq hn, sgn_eq hn, BitVec.sle]

theorem nat_lt {n : Nat} (ha : a < 2 ^ n) (hb : b < 2 ^ n) : decide (a < b) = (BitVec.ofNat n a).ult (BitVec.ofNat n b) := by
  simp [BitVec.ult, Nat.mod_eq_of_lt ha, Nat.mod_eq_of_lt hb]

theorem nat_le {n : Nat} (ha : a < 2 ^ n) (hb : b < 2 ^ n) : decide (a ≤ b) = (BitVec.ofNat n a).ule (BitVec.ofNat n b) := by
  simp [BitVec.ule, Nat.mod_eq_of_lt ha, Nat.mod_eq_of_lt hb]

theorem nat_eq {n : Nat} (ha : a < 2 ^ n) (hb : b < 2 ^ n) : (a == b) = (BitVec.ofNat n a == BitVec.ofNat n b) := by
  have : (BitVec.ofNat n a = BitVec.ofNat n b) ↔ a = b := by
    rw [← BitVec.toNat_inj]; simp [Nat.mod_eq_of_lt ha, Nat.mod_eq_of_lt hb]
  simp [beq_eq_decide, this]

theorem minS_eq {n : Nat} (hn : 0 < n) (ha : a < 2 ^ n) (hb : b < 2 ^ n) :
    (if sgn n b < sgn n a then b else a) =
      (if (BitVec.ofNat n b).slt (BitVec.ofNat n a) then BitVec.ofNat n b else BitVec.ofNat n a).toNat := by
  rw [← sgn_lt hn]
  by_cases h : sgn n b < sgn n a <;> simp [h, Nat.mod_eq_of_lt ha, Nat.mod_eq_of_lt hb]

theorem maxS_eq {n : Nat} (hn : 0 < n) (ha : a < 2 ^ n) (hb : b < 2 ^ n) :
    (if sgn n a < sgn n b then b else a) =
      (if (BitVec.ofNat n a).slt (BitVec.ofNat n b) then BitVec.ofNat n b else BitVec.ofNat n a).toNat := by
  rw [← sgn_lt hn]
  by_cases h : sgn n a < sgn n b <;> simp [h, Nat.mod_eq_of_lt ha, Nat.mod_eq_of_lt hb]

theorem minU_eq {n : Nat} (ha : a < 2 ^ n) (hb : b < 2 ^ n) :
    min a b = (if (BitVec.ofNat n b).ult (BitVec.ofNat n a) then BitVec.ofNat n b else BitVec.ofNat n a).toNat := by
  rw [← nat_lt hb ha]
  by_cases h : b < a
  · simp [h, Nat.mod_eq_of_lt hb, Nat.min_eq_right (Nat.le_of_lt h)]
  · simp [h, Nat.mod_eq_of_lt ha, Nat.min_eq_left (Nat.le_of_not_lt h)]

theorem maxU_eq {n : Nat} (ha : a < 2 ^ n) (hb : b < 2 ^ n) :
    max a b = (if (BitVec.ofNat n a).ult (BitVec.ofNat n b) then BitVec.ofNat n b else BitVec.ofNat n a).toNat := by
  rw [← nat_lt ha hb]
  by_cases h : a < b
  · simp [h, Nat.mod_eq_of_lt hb, Nat.max_eq_right (Nat.le_of_lt h)]
  · simp [h, Nat.mod_eq_of_lt ha, Nat.max_eq_left (Nat.le_of_not_lt h)]

theorem popCount_eq (a : Nat) : popCount a = ((List.range 32).filter (BitVec.ofNat 32 a).getLsbD).length := by
  have h : span 0 32 = List.range 32 := by decide
  rw [popCount, h]
  congr 1
  apply List.filter_congr
  intro i hi
  have : i < 32 := by simpa using hi
  rw [tst_eq, BitVec.getLsbD_ofNat]; simp [this]

theorem sext_eq {n w : Nat} (hn : 0 < n) (x : Nat) : sext n w x = ((BitVec.ofNat n x).signExtend w).toNat := by
  rw [sext, wrap_eq, sgn_eq hn]
  rfl

theorem bitsAt_eq (x lo n : Nat) : bitsAt x lo n = ((BitVec.ofNat (lo + n) x).extractLsb' lo n).toNat := by
  simp only [bitsAt, BitVec.extractLsb'_toNat, BitVec.toNat_ofNat, Nat.shiftRight_eq_div_pow, Nat.pow_add, Nat.mod_mul_right_div_self,
    Nat.mod_mod]

end

end Sys2Proof.Laws
end

