-- ==== Sys2Proof/Laws/Maps.lean ====
section
/-! SUPPORT. Laws of the sparse maps and of the list helpers: read after write, other keys, and the canonical
form. -/

namespace Sys2Proof.Laws

open Sys2Proof.Machine

variable {α β : Type}

@[simp] theorem mget_nil (k : Nat) : mget ([] : FMap α) k = none := rfl

@[simp] theorem mget_mset_same (m : FMap α) (k : Nat) (v : α) : mget (mset m k v) k = some v := by
  induction m with
  | nil => simp [mset, mget]
  | cons e m ih =>
    obtain ⟨a, x⟩ := e
    simp only [mset]
    split
    · simp [mget]
    · split
      · simp [mget]
      · rename_i h _
        simp [mget, h, ih]

theorem mget_mset_ne (m : FMap α) {k j : Nat} (v : α) (h : j ≠ k) : mget (mset m k v) j = mget m j := by
  induction m with
  | nil => simp [mset, mget, h]
  | cons e m ih =>
    obtain ⟨a, x⟩ := e
    simp only [mset]
    split
    · rename_i hk
      have : k = a := by simpa using hk
      subst this
      simp [mget, h]
    · split
      · simp [mget, h]
      · simp only [mget, ih]

theorem mget_mset (m : FMap α) (k j : Nat) (v : α) : mget (mset m k v) j = if j = k then some v else mget m j := by
  by_cases h : j = k
  · subst h; simp
  · simp [h, mget_mset_ne m v h]

@[simp] theorem mget_mdel_same (m : FMap α) (k : Nat) : mget (mdel m k) k = none := by
  induction m with
  | nil => rfl
  | cons e m ih =>
    obtain ⟨a, x⟩ := e
    simp only [mdel]
    split
    · exact ih
    · rename_i h
      simp [mget, h, ih]

theorem mget_mdel_ne (m : FMap α) {k j : Nat} (h : j ≠ k) : mget (mdel m k) j = mget m j := by
  induction m with
  | nil => rfl
  | cons e m ih =>
    obtain ⟨a, x⟩ := e
    simp only [mdel]
    split
    · rename_i hk
      have : k = a := by simpa using hk
      subst this
      simp [mget, ih, h]
    · simp only [mget, ih]

theorem mget_mdel (m : FMap α) (k j : Nat) : mget (mdel m k) j = if j = k then none else mget m j := by
  by_cases h : j = k
  · subst h; simp
  · simp [h, mget_mdel_ne m h]

/-- Reading a map after a change of what stands at one key. -/
theorem mget_mmod (m : FMap α) (k j : Nat) (f : α → α) :
    mget (mmod m k f) j = if j = k then (mget m k).map f else mget m j := by
  unfold mmod
  cases hm : mget m k with
  | none =>
    by_cases h : j = k
    · subst h; simp [hm]
    · simp [h]
  | some v => simp [mget_mset]

variable [DecidableEq α]

@[simp] theorem zget_zset_same (z : α) (m : FMap α) (k : Nat) (v : α) : zget z (zset z m k v) k = v := by
  unfold zset zget
  split
  · rename_i h; simp [h]
  · simp

theorem zget_zset_ne (z : α) (m : FMap α) {k j : Nat} (v : α) (h : j ≠ k) : zget z (zset z m k v) j = zget z m j := by
  unfold zset zget
  split
  · rw [mget_mdel_ne m h]
  · rw [mget_mset_ne m v h]

theorem zget_zset (z : α) (m : FMap α) (k j : Nat) (v : α) :
    zget z (zset z m k v) j = if j = k then v else zget z m j := by
  by_cases h : j = k
  · subst h; simp
  · simp [h, zget_zset_ne z m v h]

omit [DecidableEq α]

/-- The keys of a map in order stay in order when the bound falls. -/
theorem keysFrom_mono {m : FMap α} {a b : Nat} (h : a ≤ b) (hm : keysFrom b m = true) : keysFrom a m = true := by
  cases m with
  | nil => rfl
  | cons e m =>
    obtain ⟨k, v⟩ := e
    simp only [keysFrom, Bool.and_eq_true, decide_eq_true_eq] at hm ⊢
    exact ⟨by omega, hm.2⟩

theorem keysFrom_mset {m : FMap α} {lo : Nat} (k : Nat) (v : α) (hm : keysFrom lo m = true) (hk : lo ≤ k) :
    keysFrom lo (mset m k v) = true := by
  induction m generalizing lo with
  | nil => simp [mset, keysFrom, hk]
  | cons e m ih =>
    obtain ⟨a, x⟩ := e
    simp only [keysFrom, Bool.and_eq_true, decide_eq_true_eq] at hm
    simp only [mset]
    split
    · rename_i h
      have : k = a := by simpa using h
      subst this
      simp [keysFrom, hk, hm.2]
    · split
      · simp only [keysFrom, Bool.and_eq_true, decide_eq_true_eq]
        exact ⟨hk, by omega, hm.2⟩
      · rename_i h1 h2
        have : ¬ k = a := by simpa using h1
        simp only [keysFrom, Bool.and_eq_true, decide_eq_true_eq]
        exact ⟨hm.1, ih hm.2 (by omega)⟩

theorem keysFrom_filter {m : FMap α} {lo : Nat} (p : Nat × α → Bool) (hm : keysFrom lo m = true) :
    keysFrom lo (m.filter p) = true := by
  induction m generalizing lo with
  | nil => rfl
  | cons e m ih =>
    obtain ⟨a, x⟩ := e
    simp only [keysFrom, Bool.and_eq_true, decide_eq_true_eq] at hm
    simp only [List.filter_cons]
    split
    · simp only [keysFrom, Bool.and_eq_true, decide_eq_true_eq]
      exact ⟨hm.1, ih hm.2⟩
    · exact keysFrom_mono (by omega) (ih hm.2)

theorem mdel_eq_filter (m : FMap α) (k : Nat) : mdel m k = m.filter (fun e => !(k == e.1)) := by
  induction m with
  | nil => rfl
  | cons e m ih =>
    obtain ⟨a, x⟩ := e
    by_cases h : k = a
    · subst h; simp [mdel, ih]
    · simp [mdel, ih, h]

/-- Every entry of a map after a write is the new one or an old one. -/
theorem mem_mset {m : FMap α} {k : Nat} {v : α} {e : Nat × α} (h : e ∈ mset m k v) : e = (k, v) ∨ e ∈ m := by
  induction m with
  | nil => simp [mset] at h; exact .inl h
  | cons f m ih =>
    obtain ⟨a, x⟩ := f
    simp only [mset] at h
    split at h
    · rcases List.mem_cons.1 h with h | h
      · exact .inl h
      · exact .inr (List.mem_cons_of_mem _ h)
    · split at h
      · rcases List.mem_cons.1 h with h | h
        · exact .inl h
        · exact .inr h
      · rcases List.mem_cons.1 h with h | h
        · exact .inr (h ▸ List.mem_cons_self)
        · rcases ih h with h | h
          · exact .inl h
          · exact .inr (List.mem_cons_of_mem _ h)

@[simp] theorem enumFrom_length (n : Nat) (l : List α) : (enumFrom n l).length = l.length := by
  induction l generalizing n with
  | nil => rfl
  | cons x l ih => simp [enumFrom, ih]

theorem enumFrom_getElem? (n i : Nat) (l : List α) : (enumFrom n l)[i]? = l[i]?.map (fun x => (n + i, x)) := by
  induction l generalizing n i with
  | nil => simp [enumFrom]
  | cons x l ih =>
    cases i with
    | zero => simp [enumFrom]
    | succ i => simp [enumFrom, ih, Nat.add_comm, Nat.add_left_comm]

theorem span_length (lo n : Nat) : (span lo n).length = n := by
  induction n generalizing lo with
  | zero => rfl
  | succ n ih => simp [span, ih]

theorem mem_span {lo n i : Nat} : i ∈ span lo n ↔ lo ≤ i ∧ i < lo + n := by
  induction n generalizing lo with
  | zero => simp [span]
  | succ n ih => simp only [span, List.mem_cons, ih]; omega

end Sys2Proof.Laws
end

