-- ==== Sys2Proof/Laws/State.lean ====
section
/-! SUPPORT. What each named update of the state leaves unchanged, field by field, and what it does to the field it
changes. -/

namespace Sys2Proof.Laws

open Sys2Proof.Machine

/-! `setW` -/

@[simp] theorem setW_mem (s : State) (k : Nat) (w : Wave) : (setW s k w).mem = s.mem := rfl
@[simp] theorem setW_hostMem (s : State) (k : Nat) (w : Wave) : (setW s k w).hostMem = s.hostMem := rfl
@[simp] theorem setW_poison (s : State) (k : Nat) (w : Wave) : (setW s k w).poison = s.poison := rfl
@[simp] theorem setW_latent (s : State) (k : Nat) (w : Wave) : (setW s k w).latent = s.latent := rfl
@[simp] theorem setW_tags (s : State) (k : Nat) (w : Wave) : (setW s k w).tags = s.tags := rfl
@[simp] theorem setW_vis (s : State) (k : Nat) (w : Wave) : (setW s k w).vis = s.vis := rfl
@[simp] theorem setW_dclk (s : State) (k : Nat) (w : Wave) : (setW s k w).dclk = s.dclk := rfl
@[simp] theorem setW_units (s : State) (k : Nat) (w : Wave) : (setW s k w).units = s.units := rfl
@[simp] theorem setW_cores (s : State) (k : Nat) (w : Wave) : (setW s k w).cores = s.cores := rfl
@[simp] theorem setW_contexts (s : State) (k : Nat) (w : Wave) : (setW s k w).contexts = s.contexts := rfl
@[simp] theorem setW_launches (s : State) (k : Nat) (w : Wave) : (setW s k w).launches = s.launches := rfl
@[simp] theorem setW_binds (s : State) (k : Nat) (w : Wave) : (setW s k w).binds = s.binds := rfl
@[simp] theorem setW_parts (s : State) (k : Nat) (w : Wave) : (setW s k w).parts = s.parts := rfl
@[simp] theorem setW_gsteps (s : State) (k : Nat) (w : Wave) : (setW s k w).gsteps = s.gsteps := rfl
@[simp] theorem setW_ranges (s : State) (k : Nat) (w : Wave) : (setW s k w).ranges = s.ranges := rfl
@[simp] theorem setW_groups (s : State) (k : Nat) (w : Wave) : (setW s k w).groups = s.groups := rfl
@[simp] theorem setW_walkers (s : State) (k : Nat) (w : Wave) : (setW s k w).walkers = s.walkers := rfl
@[simp] theorem setW_platforms (s : State) (k : Nat) (w : Wave) : (setW s k w).platforms = s.platforms := rfl
@[simp] theorem setW_colls (s : State) (k : Nat) (w : Wave) : (setW s k w).colls = s.colls := rfl
@[simp] theorem setW_invals (s : State) (k : Nat) (w : Wave) : (setW s k w).invals = s.invals := rfl
@[simp] theorem setW_funcs (s : State) (k : Nat) (w : Wave) : (setW s k w).funcs = s.funcs := rfl
@[simp] theorem setW_trunk (s : State) (k : Nat) (w : Wave) : (setW s k w).trunk = s.trunk := rfl
@[simp] theorem setW_tickCount (s : State) (k : Nat) (w : Wave) : (setW s k w).tickCount = s.tickCount := rfl
@[simp] theorem setW_tickGap (s : State) (k : Nat) (w : Wave) : (setW s k w).tickGap = s.tickGap := rfl
@[simp] theorem setW_tickLost (s : State) (k : Nat) (w : Wave) : (setW s k w).tickLost = s.tickLost := rfl
@[simp] theorem setW_mgmt (s : State) (k : Nat) (w : Wave) : (setW s k w).mgmt = s.mgmt := rfl
@[simp] theorem setW_selfTest (s : State) (k : Nat) (w : Wave) : (setW s k w).selfTest = s.selfTest := rfl
@[simp] theorem setW_booting (s : State) (k : Nat) (w : Wave) : (setW s k w).booting = s.booting := rfl
@[simp] theorem setW_cycle (s : State) (k : Nat) (w : Wave) : (setW s k w).cycle = s.cycle := rfl
@[simp] theorem setW_nextId (s : State) (k : Nat) (w : Wave) : (setW s k w).nextId = s.nextId := rfl
@[simp] theorem setW_freeCount (s : State) (k : Nat) (w : Wave) : (setW s k w).freeCount = s.freeCount := rfl
@[simp] theorem setW_agenda (s : State) (k : Nat) (w : Wave) : (setW s k w).agenda = s.agenda := rfl
@[simp] theorem setW_cur (s : State) (k : Nat) (w : Wave) : (setW s k w).cur = s.cur := rfl

/-! `modW` -/

@[simp] theorem modW_mem (s : State) (k : Nat) (f : Wave → Wave) : (modW s k f).mem = s.mem := rfl
@[simp] theorem modW_hostMem (s : State) (k : Nat) (f : Wave → Wave) : (modW s k f).hostMem = s.hostMem := rfl
@[simp] theorem modW_poison (s : State) (k : Nat) (f : Wave → Wave) : (modW s k f).poison = s.poison := rfl
@[simp] theorem modW_latent (s : State) (k : Nat) (f : Wave → Wave) : (modW s k f).latent = s.latent := rfl
@[simp] theorem modW_tags (s : State) (k : Nat) (f : Wave → Wave) : (modW s k f).tags = s.tags := rfl
@[simp] theorem modW_vis (s : State) (k : Nat) (f : Wave → Wave) : (modW s k f).vis = s.vis := rfl
@[simp] theorem modW_dclk (s : State) (k : Nat) (f : Wave → Wave) : (modW s k f).dclk = s.dclk := rfl
@[simp] theorem modW_units (s : State) (k : Nat) (f : Wave → Wave) : (modW s k f).units = s.units := rfl
@[simp] theorem modW_cores (s : State) (k : Nat) (f : Wave → Wave) : (modW s k f).cores = s.cores := rfl
@[simp] theorem modW_contexts (s : State) (k : Nat) (f : Wave → Wave) : (modW s k f).contexts = s.contexts := rfl
@[simp] theorem modW_launches (s : State) (k : Nat) (f : Wave → Wave) : (modW s k f).launches = s.launches := rfl
@[simp] theorem modW_binds (s : State) (k : Nat) (f : Wave → Wave) : (modW s k f).binds = s.binds := rfl
@[simp] theorem modW_parts (s : State) (k : Nat) (f : Wave → Wave) : (modW s k f).parts = s.parts := rfl
@[simp] theorem modW_gsteps (s : State) (k : Nat) (f : Wave → Wave) : (modW s k f).gsteps = s.gsteps := rfl
@[simp] theorem modW_ranges (s : State) (k : Nat) (f : Wave → Wave) : (modW s k f).ranges = s.ranges := rfl
@[simp] theorem modW_groups (s : State) (k : Nat) (f : Wave → Wave) : (modW s k f).groups = s.groups := rfl
@[simp] theorem modW_walkers (s : State) (k : Nat) (f : Wave → Wave) : (modW s k f).walkers = s.walkers := rfl
@[simp] theorem modW_platforms (s : State) (k : Nat) (f : Wave → Wave) : (modW s k f).platforms = s.platforms := rfl
@[simp] theorem modW_colls (s : State) (k : Nat) (f : Wave → Wave) : (modW s k f).colls = s.colls := rfl
@[simp] theorem modW_invals (s : State) (k : Nat) (f : Wave → Wave) : (modW s k f).invals = s.invals := rfl
@[simp] theorem modW_funcs (s : State) (k : Nat) (f : Wave → Wave) : (modW s k f).funcs = s.funcs := rfl
@[simp] theorem modW_trunk (s : State) (k : Nat) (f : Wave → Wave) : (modW s k f).trunk = s.trunk := rfl
@[simp] theorem modW_tickCount (s : State) (k : Nat) (f : Wave → Wave) : (modW s k f).tickCount = s.tickCount := rfl
@[simp] theorem modW_tickGap (s : State) (k : Nat) (f : Wave → Wave) : (modW s k f).tickGap = s.tickGap := rfl
@[simp] theorem modW_tickLost (s : State) (k : Nat) (f : Wave → Wave) : (modW s k f).tickLost = s.tickLost := rfl
@[simp] theorem modW_mgmt (s : State) (k : Nat) (f : Wave → Wave) : (modW s k f).mgmt = s.mgmt := rfl
@[simp] theorem modW_selfTest (s : State) (k : Nat) (f : Wave → Wave) : (modW s k f).selfTest = s.selfTest := rfl
@[simp] theorem modW_booting (s : State) (k : Nat) (f : Wave → Wave) : (modW s k f).booting = s.booting := rfl
@[simp] theorem modW_cycle (s : State) (k : Nat) (f : Wave → Wave) : (modW s k f).cycle = s.cycle := rfl
@[simp] theorem modW_nextId (s : State) (k : Nat) (f : Wave → Wave) : (modW s k f).nextId = s.nextId := rfl
@[simp] theorem modW_freeCount (s : State) (k : Nat) (f : Wave → Wave) : (modW s k f).freeCount = s.freeCount := rfl
@[simp] theorem modW_agenda (s : State) (k : Nat) (f : Wave → Wave) : (modW s k f).agenda = s.agenda := rfl
@[simp] theorem modW_cur (s : State) (k : Nat) (f : Wave → Wave) : (modW s k f).cur = s.cur := rfl

/-! `modU` -/

@[simp] theorem modU_mem (s : State) (u : Nat) (f : LUnit → LUnit) : (modU s u f).mem = s.mem := rfl
@[simp] theorem modU_hostMem (s : State) (u : Nat) (f : LUnit → LUnit) : (modU s u f).hostMem = s.hostMem := rfl
@[simp] theorem modU_poison (s : State) (u : Nat) (f : LUnit → LUnit) : (modU s u f).poison = s.poison := rfl
@[simp] theorem modU_latent (s : State) (u : Nat) (f : LUnit → LUnit) : (modU s u f).latent = s.latent := rfl
@[simp] theorem modU_tags (s : State) (u : Nat) (f : LUnit → LUnit) : (modU s u f).tags = s.tags := rfl
@[simp] theorem modU_vis (s : State) (u : Nat) (f : LUnit → LUnit) : (modU s u f).vis = s.vis := rfl
@[simp] theorem modU_dclk (s : State) (u : Nat) (f : LUnit → LUnit) : (modU s u f).dclk = s.dclk := rfl
@[simp] theorem modU_waves (s : State) (u : Nat) (f : LUnit → LUnit) : (modU s u f).waves = s.waves := rfl
@[simp] theorem modU_cores (s : State) (u : Nat) (f : LUnit → LUnit) : (modU s u f).cores = s.cores := rfl
@[simp] theorem modU_contexts (s : State) (u : Nat) (f : LUnit → LUnit) : (modU s u f).contexts = s.contexts := rfl
@[simp] theorem modU_launches (s : State) (u : Nat) (f : LUnit → LUnit) : (modU s u f).launches = s.launches := rfl
@[simp] theorem modU_binds (s : State) (u : Nat) (f : LUnit → LUnit) : (modU s u f).binds = s.binds := rfl
@[simp] theorem modU_parts (s : State) (u : Nat) (f : LUnit → LUnit) : (modU s u f).parts = s.parts := rfl
@[simp] theorem modU_gsteps (s : State) (u : Nat) (f : LUnit → LUnit) : (modU s u f).gsteps = s.gsteps := rfl
@[simp] theorem modU_ranges (s : State) (u : Nat) (f : LUnit → LUnit) : (modU s u f).ranges = s.ranges := rfl
@[simp] theorem modU_groups (s : State) (u : Nat) (f : LUnit → LUnit) : (modU s u f).groups = s.groups := rfl
@[simp] theorem modU_walkers (s : State) (u : Nat) (f : LUnit → LUnit) : (modU s u f).walkers = s.walkers := rfl
@[simp] theorem modU_platforms (s : State) (u : Nat) (f : LUnit → LUnit) : (modU s u f).platforms = s.platforms := rfl
@[simp] theorem modU_colls (s : State) (u : Nat) (f : LUnit → LUnit) : (modU s u f).colls = s.colls := rfl
@[simp] theorem modU_invals (s : State) (u : Nat) (f : LUnit → LUnit) : (modU s u f).invals = s.invals := rfl
@[simp] theorem modU_funcs (s : State) (u : Nat) (f : LUnit → LUnit) : (modU s u f).funcs = s.funcs := rfl
@[simp] theorem modU_trunk (s : State) (u : Nat) (f : LUnit → LUnit) : (modU s u f).trunk = s.trunk := rfl
@[simp] theorem modU_tickCount (s : State) (u : Nat) (f : LUnit → LUnit) : (modU s u f).tickCount = s.tickCount := rfl
@[simp] theorem modU_tickGap (s : State) (u : Nat) (f : LUnit → LUnit) : (modU s u f).tickGap = s.tickGap := rfl
@[simp] theorem modU_tickLost (s : State) (u : Nat) (f : LUnit → LUnit) : (modU s u f).tickLost = s.tickLost := rfl
@[simp] theorem modU_mgmt (s : State) (u : Nat) (f : LUnit → LUnit) : (modU s u f).mgmt = s.mgmt := rfl
@[simp] theorem modU_selfTest (s : State) (u : Nat) (f : LUnit → LUnit) : (modU s u f).selfTest = s.selfTest := rfl
@[simp] theorem modU_booting (s : State) (u : Nat) (f : LUnit → LUnit) : (modU s u f).booting = s.booting := rfl
@[simp] theorem modU_cycle (s : State) (u : Nat) (f : LUnit → LUnit) : (modU s u f).cycle = s.cycle := rfl
@[simp] theorem modU_nextId (s : State) (u : Nat) (f : LUnit → LUnit) : (modU s u f).nextId = s.nextId := rfl
@[simp] theorem modU_freeCount (s : State) (u : Nat) (f : LUnit → LUnit) : (modU s u f).freeCount = s.freeCount := rfl
@[simp] theorem modU_agenda (s : State) (u : Nat) (f : LUnit → LUnit) : (modU s u f).agenda = s.agenda := rfl
@[simp] theorem modU_cur (s : State) (u : Nat) (f : LUnit → LUnit) : (modU s u f).cur = s.cur := rfl

/-! `modC` -/

@[simp] theorem modC_mem (s : State) (c : Nat) (f : Core → Core) : (modC s c f).mem = s.mem := rfl
@[simp] theorem modC_hostMem (s : State) (c : Nat) (f : Core → Core) : (modC s c f).hostMem = s.hostMem := rfl
@[simp] theorem modC_poison (s : State) (c : Nat) (f : Core → Core) : (modC s c f).poison = s.poison := rfl
@[simp] theorem modC_latent (s : State) (c : Nat) (f : Core → Core) : (modC s c f).latent = s.latent := rfl
@[simp] theorem modC_tags (s : State) (c : Nat) (f : Core → Core) : (modC s c f).tags = s.tags := rfl
@[simp] theorem modC_vis (s : State) (c : Nat) (f : Core → Core) : (modC s c f).vis = s.vis := rfl
@[simp] theorem modC_dclk (s : State) (c : Nat) (f : Core → Core) : (modC s c f).dclk = s.dclk := rfl
@[simp] theorem modC_waves (s : State) (c : Nat) (f : Core → Core) : (modC s c f).waves = s.waves := rfl
@[simp] theorem modC_units (s : State) (c : Nat) (f : Core → Core) : (modC s c f).units = s.units := rfl
@[simp] theorem modC_contexts (s : State) (c : Nat) (f : Core → Core) : (modC s c f).contexts = s.contexts := rfl
@[simp] theorem modC_launches (s : State) (c : Nat) (f : Core → Core) : (modC s c f).launches = s.launches := rfl
@[simp] theorem modC_binds (s : State) (c : Nat) (f : Core → Core) : (modC s c f).binds = s.binds := rfl
@[simp] theorem modC_parts (s : State) (c : Nat) (f : Core → Core) : (modC s c f).parts = s.parts := rfl
@[simp] theorem modC_gsteps (s : State) (c : Nat) (f : Core → Core) : (modC s c f).gsteps = s.gsteps := rfl
@[simp] theorem modC_ranges (s : State) (c : Nat) (f : Core → Core) : (modC s c f).ranges = s.ranges := rfl
@[simp] theorem modC_groups (s : State) (c : Nat) (f : Core → Core) : (modC s c f).groups = s.groups := rfl
@[simp] theorem modC_walkers (s : State) (c : Nat) (f : Core → Core) : (modC s c f).walkers = s.walkers := rfl
@[simp] theorem modC_platforms (s : State) (c : Nat) (f : Core → Core) : (modC s c f).platforms = s.platforms := rfl
@[simp] theorem modC_colls (s : State) (c : Nat) (f : Core → Core) : (modC s c f).colls = s.colls := rfl
@[simp] theorem modC_invals (s : State) (c : Nat) (f : Core → Core) : (modC s c f).invals = s.invals := rfl
@[simp] theorem modC_funcs (s : State) (c : Nat) (f : Core → Core) : (modC s c f).funcs = s.funcs := rfl
@[simp] theorem modC_trunk (s : State) (c : Nat) (f : Core → Core) : (modC s c f).trunk = s.trunk := rfl
@[simp] theorem modC_tickCount (s : State) (c : Nat) (f : Core → Core) : (modC s c f).tickCount = s.tickCount := rfl
@[simp] theorem modC_tickGap (s : State) (c : Nat) (f : Core → Core) : (modC s c f).tickGap = s.tickGap := rfl
@[simp] theorem modC_tickLost (s : State) (c : Nat) (f : Core → Core) : (modC s c f).tickLost = s.tickLost := rfl
@[simp] theorem modC_mgmt (s : State) (c : Nat) (f : Core → Core) : (modC s c f).mgmt = s.mgmt := rfl
@[simp] theorem modC_selfTest (s : State) (c : Nat) (f : Core → Core) : (modC s c f).selfTest = s.selfTest := rfl
@[simp] theorem modC_booting (s : State) (c : Nat) (f : Core → Core) : (modC s c f).booting = s.booting := rfl
@[simp] theorem modC_cycle (s : State) (c : Nat) (f : Core → Core) : (modC s c f).cycle = s.cycle := rfl
@[simp] theorem modC_nextId (s : State) (c : Nat) (f : Core → Core) : (modC s c f).nextId = s.nextId := rfl
@[simp] theorem modC_freeCount (s : State) (c : Nat) (f : Core → Core) : (modC s c f).freeCount = s.freeCount := rfl
@[simp] theorem modC_agenda (s : State) (c : Nat) (f : Core → Core) : (modC s c f).agenda = s.agenda := rfl
@[simp] theorem modC_cur (s : State) (c : Nat) (f : Core → Core) : (modC s c f).cur = s.cur := rfl

/-! `modX` -/

@[simp] theorem modX_mem (s : State) (c : Nat) (f : Context → Context) : (modX s c f).mem = s.mem := rfl
@[simp] theorem modX_hostMem (s : State) (c : Nat) (f : Context → Context) : (modX s c f).hostMem = s.hostMem := rfl
@[simp] theorem modX_poison (s : State) (c : Nat) (f : Context → Context) : (modX s c f).poison = s.poison := rfl
@[simp] theorem modX_latent (s : State) (c : Nat) (f : Context → Context) : (modX s c f).latent = s.latent := rfl
@[simp] theorem modX_tags (s : State) (c : Nat) (f : Context → Context) : (modX s c f).tags = s.tags := rfl
@[simp] theorem modX_vis (s : State) (c : Nat) (f : Context → Context) : (modX s c f).vis = s.vis := rfl
@[simp] theorem modX_dclk (s : State) (c : Nat) (f : Context → Context) : (modX s c f).dclk = s.dclk := rfl
@[simp] theorem modX_waves (s : State) (c : Nat) (f : Context → Context) : (modX s c f).waves = s.waves := rfl
@[simp] theorem modX_units (s : State) (c : Nat) (f : Context → Context) : (modX s c f).units = s.units := rfl
@[simp] theorem modX_cores (s : State) (c : Nat) (f : Context → Context) : (modX s c f).cores = s.cores := rfl
@[simp] theorem modX_launches (s : State) (c : Nat) (f : Context → Context) : (modX s c f).launches = s.launches := rfl
@[simp] theorem modX_binds (s : State) (c : Nat) (f : Context → Context) : (modX s c f).binds = s.binds := rfl
@[simp] theorem modX_parts (s : State) (c : Nat) (f : Context → Context) : (modX s c f).parts = s.parts := rfl
@[simp] theorem modX_gsteps (s : State) (c : Nat) (f : Context → Context) : (modX s c f).gsteps = s.gsteps := rfl
@[simp] theorem modX_ranges (s : State) (c : Nat) (f : Context → Context) : (modX s c f).ranges = s.ranges := rfl
@[simp] theorem modX_groups (s : State) (c : Nat) (f : Context → Context) : (modX s c f).groups = s.groups := rfl
@[simp] theorem modX_walkers (s : State) (c : Nat) (f : Context → Context) : (modX s c f).walkers = s.walkers := rfl
@[simp] theorem modX_platforms (s : State) (c : Nat) (f : Context → Context) : (modX s c f).platforms = s.platforms := rfl
@[simp] theorem modX_colls (s : State) (c : Nat) (f : Context → Context) : (modX s c f).colls = s.colls := rfl
@[simp] theorem modX_invals (s : State) (c : Nat) (f : Context → Context) : (modX s c f).invals = s.invals := rfl
@[simp] theorem modX_funcs (s : State) (c : Nat) (f : Context → Context) : (modX s c f).funcs = s.funcs := rfl
@[simp] theorem modX_trunk (s : State) (c : Nat) (f : Context → Context) : (modX s c f).trunk = s.trunk := rfl
@[simp] theorem modX_tickCount (s : State) (c : Nat) (f : Context → Context) : (modX s c f).tickCount = s.tickCount := rfl
@[simp] theorem modX_tickGap (s : State) (c : Nat) (f : Context → Context) : (modX s c f).tickGap = s.tickGap := rfl
@[simp] theorem modX_tickLost (s : State) (c : Nat) (f : Context → Context) : (modX s c f).tickLost = s.tickLost := rfl
@[simp] theorem modX_mgmt (s : State) (c : Nat) (f : Context → Context) : (modX s c f).mgmt = s.mgmt := rfl
@[simp] theorem modX_selfTest (s : State) (c : Nat) (f : Context → Context) : (modX s c f).selfTest = s.selfTest := rfl
@[simp] theorem modX_booting (s : State) (c : Nat) (f : Context → Context) : (modX s c f).booting = s.booting := rfl
@[simp] theorem modX_cycle (s : State) (c : Nat) (f : Context → Context) : (modX s c f).cycle = s.cycle := rfl
@[simp] theorem modX_nextId (s : State) (c : Nat) (f : Context → Context) : (modX s c f).nextId = s.nextId := rfl
@[simp] theorem modX_freeCount (s : State) (c : Nat) (f : Context → Context) : (modX s c f).freeCount = s.freeCount := rfl
@[simp] theorem modX_agenda (s : State) (c : Nat) (f : Context → Context) : (modX s c f).agenda = s.agenda := rfl
@[simp] theorem modX_cur (s : State) (c : Nat) (f : Context → Context) : (modX s c f).cur = s.cur := rfl

/-! `modL` -/

@[simp] theorem modL_mem (s : State) (l : Nat) (f : Launch → Launch) : (modL s l f).mem = s.mem := rfl
@[simp] theorem modL_hostMem (s : State) (l : Nat) (f : Launch → Launch) : (modL s l f).hostMem = s.hostMem := rfl
@[simp] theorem modL_poison (s : State) (l : Nat) (f : Launch → Launch) : (modL s l f).poison = s.poison := rfl
@[simp] theorem modL_latent (s : State) (l : Nat) (f : Launch → Launch) : (modL s l f).latent = s.latent := rfl
@[simp] theorem modL_tags (s : State) (l : Nat) (f : Launch → Launch) : (modL s l f).tags = s.tags := rfl
@[simp] theorem modL_vis (s : State) (l : Nat) (f : Launch → Launch) : (modL s l f).vis = s.vis := rfl
@[simp] theorem modL_dclk (s : State) (l : Nat) (f : Launch → Launch) : (modL s l f).dclk = s.dclk := rfl
@[simp] theorem modL_waves (s : State) (l : Nat) (f : Launch → Launch) : (modL s l f).waves = s.waves := rfl
@[simp] theorem modL_units (s : State) (l : Nat) (f : Launch → Launch) : (modL s l f).units = s.units := rfl
@[simp] theorem modL_cores (s : State) (l : Nat) (f : Launch → Launch) : (modL s l f).cores = s.cores := rfl
@[simp] theorem modL_contexts (s : State) (l : Nat) (f : Launch → Launch) : (modL s l f).contexts = s.contexts := rfl
@[simp] theorem modL_binds (s : State) (l : Nat) (f : Launch → Launch) : (modL s l f).binds = s.binds := rfl
@[simp] theorem modL_parts (s : State) (l : Nat) (f : Launch → Launch) : (modL s l f).parts = s.parts := rfl
@[simp] theorem modL_gsteps (s : State) (l : Nat) (f : Launch → Launch) : (modL s l f).gsteps = s.gsteps := rfl
@[simp] theorem modL_ranges (s : State) (l : Nat) (f : Launch → Launch) : (modL s l f).ranges = s.ranges := rfl
@[simp] theorem modL_groups (s : State) (l : Nat) (f : Launch → Launch) : (modL s l f).groups = s.groups := rfl
@[simp] theorem modL_walkers (s : State) (l : Nat) (f : Launch → Launch) : (modL s l f).walkers = s.walkers := rfl
@[simp] theorem modL_platforms (s : State) (l : Nat) (f : Launch → Launch) : (modL s l f).platforms = s.platforms := rfl
@[simp] theorem modL_colls (s : State) (l : Nat) (f : Launch → Launch) : (modL s l f).colls = s.colls := rfl
@[simp] theorem modL_invals (s : State) (l : Nat) (f : Launch → Launch) : (modL s l f).invals = s.invals := rfl
@[simp] theorem modL_funcs (s : State) (l : Nat) (f : Launch → Launch) : (modL s l f).funcs = s.funcs := rfl
@[simp] theorem modL_trunk (s : State) (l : Nat) (f : Launch → Launch) : (modL s l f).trunk = s.trunk := rfl
@[simp] theorem modL_tickCount (s : State) (l : Nat) (f : Launch → Launch) : (modL s l f).tickCount = s.tickCount := rfl
@[simp] theorem modL_tickGap (s : State) (l : Nat) (f : Launch → Launch) : (modL s l f).tickGap = s.tickGap := rfl
@[simp] theorem modL_tickLost (s : State) (l : Nat) (f : Launch → Launch) : (modL s l f).tickLost = s.tickLost := rfl
@[simp] theorem modL_mgmt (s : State) (l : Nat) (f : Launch → Launch) : (modL s l f).mgmt = s.mgmt := rfl
@[simp] theorem modL_selfTest (s : State) (l : Nat) (f : Launch → Launch) : (modL s l f).selfTest = s.selfTest := rfl
@[simp] theorem modL_booting (s : State) (l : Nat) (f : Launch → Launch) : (modL s l f).booting = s.booting := rfl
@[simp] theorem modL_cycle (s : State) (l : Nat) (f : Launch → Launch) : (modL s l f).cycle = s.cycle := rfl
@[simp] theorem modL_nextId (s : State) (l : Nat) (f : Launch → Launch) : (modL s l f).nextId = s.nextId := rfl
@[simp] theorem modL_freeCount (s : State) (l : Nat) (f : Launch → Launch) : (modL s l f).freeCount = s.freeCount := rfl
@[simp] theorem modL_agenda (s : State) (l : Nat) (f : Launch → Launch) : (modL s l f).agenda = s.agenda := rfl
@[simp] theorem modL_cur (s : State) (l : Nat) (f : Launch → Launch) : (modL s l f).cur = s.cur := rfl

/-! `nextFree` -/

@[simp] theorem nextFree_mem (s : State) : (nextFree s).mem = s.mem := rfl
@[simp] theorem nextFree_hostMem (s : State) : (nextFree s).hostMem = s.hostMem := rfl
@[simp] theorem nextFree_poison (s : State) : (nextFree s).poison = s.poison := rfl
@[simp] theorem nextFree_latent (s : State) : (nextFree s).latent = s.latent := rfl
@[simp] theorem nextFree_tags (s : State) : (nextFree s).tags = s.tags := rfl
@[simp] theorem nextFree_vis (s : State) : (nextFree s).vis = s.vis := rfl
@[simp] theorem nextFree_dclk (s : State) : (nextFree s).dclk = s.dclk := rfl
@[simp] theorem nextFree_waves (s : State) : (nextFree s).waves = s.waves := rfl
@[simp] theorem nextFree_units (s : State) : (nextFree s).units = s.units := rfl
@[simp] theorem nextFree_cores (s : State) : (nextFree s).cores = s.cores := rfl
@[simp] theorem nextFree_contexts (s : State) : (nextFree s).contexts = s.contexts := rfl
@[simp] theorem nextFree_launches (s : State) : (nextFree s).launches = s.launches := rfl
@[simp] theorem nextFree_binds (s : State) : (nextFree s).binds = s.binds := rfl
@[simp] theorem nextFree_parts (s : State) : (nextFree s).parts = s.parts := rfl
@[simp] theorem nextFree_gsteps (s : State) : (nextFree s).gsteps = s.gsteps := rfl
@[simp] theorem nextFree_ranges (s : State) : (nextFree s).ranges = s.ranges := rfl
@[simp] theorem nextFree_groups (s : State) : (nextFree s).groups = s.groups := rfl
@[simp] theorem nextFree_walkers (s : State) : (nextFree s).walkers = s.walkers := rfl
@[simp] theorem nextFree_platforms (s : State) : (nextFree s).platforms = s.platforms := rfl
@[simp] theorem nextFree_colls (s : State) : (nextFree s).colls = s.colls := rfl
@[simp] theorem nextFree_invals (s : State) : (nextFree s).invals = s.invals := rfl
@[simp] theorem nextFree_funcs (s : State) : (nextFree s).funcs = s.funcs := rfl
@[simp] theorem nextFree_trunk (s : State) : (nextFree s).trunk = s.trunk := rfl
@[simp] theorem nextFree_tickCount (s : State) : (nextFree s).tickCount = s.tickCount := rfl
@[simp] theorem nextFree_tickGap (s : State) : (nextFree s).tickGap = s.tickGap := rfl
@[simp] theorem nextFree_tickLost (s : State) : (nextFree s).tickLost = s.tickLost := rfl
@[simp] theorem nextFree_mgmt (s : State) : (nextFree s).mgmt = s.mgmt := rfl
@[simp] theorem nextFree_selfTest (s : State) : (nextFree s).selfTest = s.selfTest := rfl
@[simp] theorem nextFree_booting (s : State) : (nextFree s).booting = s.booting := rfl
@[simp] theorem nextFree_cycle (s : State) : (nextFree s).cycle = s.cycle := rfl
@[simp] theorem nextFree_nextId (s : State) : (nextFree s).nextId = s.nextId := rfl
@[simp] theorem nextFree_agenda (s : State) : (nextFree s).agenda = s.agenda := rfl
@[simp] theorem nextFree_cur (s : State) : (nextFree s).cur = s.cur := rfl

@[simp] theorem setW_waves (s : State) (k : Nat) (w : Wave) : (setW s k w).waves = mset s.waves k w := rfl
@[simp] theorem modW_waves (s : State) (k : Nat) (f : Wave → Wave) : (modW s k f).waves = mmod s.waves k f := rfl
@[simp] theorem modU_units (s : State) (u : Nat) (f : LUnit → LUnit) : (modU s u f).units = mmod s.units u f := rfl
@[simp] theorem modC_cores (s : State) (c : Nat) (f : Core → Core) : (modC s c f).cores = mset s.cores c (f (getC s c)) := rfl
@[simp] theorem modX_contexts (s : State) (c : Nat) (f : Context → Context) :
    (modX s c f).contexts = mmod s.contexts c f := rfl
@[simp] theorem modL_launches (s : State) (l : Nat) (f : Launch → Launch) :
    (modL s l f).launches = mmod s.launches l f := rfl
@[simp] theorem nextFree_freeCount (s : State) : (nextFree s).freeCount = s.freeCount + 1 := rfl

end Sys2Proof.Laws
end

