-- ==== Sys2Proof/Laws/Words.lean ====
section
/-! SUPPORT. What the shared shapes of words do: the checks before an effect, the threads of a wave, register results and
the accounting of one word. -/

namespace Sys2Proof.Laws

open Sys2Proof.Machine Sys2Proof.Terms

theorem mset_mset {α : Type} (m : FMap α) (k : Nat) (v v' : α) : mset (mset m k v) k v' = mset m k v' := by
  induction m with
  | nil => simp [mset]
  | cons e m ih =>
    obtain ⟨a, x⟩ := e
    by_cases h1 : k = a
    · simp [mset, h1]
    · by_cases h2 : k < a
      · simp [mset, h1, h2]
      · simp [mset, h1, h2, ih]

@[simp] theorem setW_setW (s : State) (k : Nat) (w v : Wave) : setW (setW s k w) k v = setW s k v := by
  simp [setW, mset_mset]

/-- A word that passes the checks has its own effect, and then its wave settles. -/
theorem runWord_next {f : Form} {body : State → Nat → Wave → Exec → State} {s : State} {w : Wave}
    (h : Runs s w f.specs f.wimm f.user) :
    runWord f body s = .next (settled (body s s.cur.wave w s.cur) s.cur.wave) := by
  obtain ⟨hw, hi, hp, hb⟩ := h
  have ha : attempt f body s w = body s s.cur.wave w s.cur := by
    have h1 : (s.cur.wimm.isSome && !f.wimm) = false := by
      cases hc : s.cur.wimm.isSome <;> simp_all
    have h2 : (w.priv.isSome && f.user) = false := by
      cases hc : w.priv.isSome <;> simp_all
    have h3 : (if (w.actives s.cur.tids).isEmpty = true then none else f.specs.find? (fun p => w.lacks p)) = none := by
      rcases hb with hb | hb
      · simp [hb]
      · split
        · rfl
        · rw [List.find?_eq_none]
          intro p hp'
          simp [hb p hp']
    simp only [attempt, h1, h2, h3, Bool.false_eq_true, ↓reduceIte]
  simp [runWord, hw, ha]

theorem onTids_getElem? (tids : List Nat) (f : Nat → Thread → Thread) (n i : Nat) (l : List Thread) :
    (Machine.onTids tids f n l)[i]? = l[i]?.map (fun t => if tids.contains (n + i) then f (n + i) t else t) := by
  induction l generalizing n i with
  | nil => simp [Machine.onTids]
  | cons x l ih =>
    cases i with
    | zero => simp [Machine.onTids]
    | succ i => simp [Machine.onTids, ih, Nat.add_comm, Nat.add_left_comm]

@[simp] theorem onTids_length (tids : List Nat) (f : Nat → Thread → Thread) (n : Nat) (l : List Thread) :
    (Machine.onTids tids f n l).length = l.length := by
  induction l generalizing n with
  | nil => rfl
  | cons x l ih => simp [Machine.onTids, ih]

/-- A thread after a change of the threads of a list of tids. -/
theorem thread_onTids (w : Wave) (tids : List Nat) (f : Nat → Thread → Thread) (n : Nat) :
    (w.onTids tids f).thread n = (w.thread n).map (fun t => if tids.contains n then f n t else t) := by
  simp [Wave.onTids, Wave.thread, onTids_getElem?]

@[simp] theorem onTids_threads_length (w : Wave) (tids : List Nat) (f : Nat → Thread → Thread) :
    (w.onTids tids f).threads.length = w.threads.length := by simp [Wave.onTids]

/-- Changing threads keeps which of them are packed and active, if it keeps their states. -/
theorem actives_congr {w v : Wave} (tids : List Nat) (he : v.em = w.em)
    (h : ∀ n, (v.thread n).map (·.live) = (w.thread n).map (·.live)) : v.actives tids = w.actives tids := by
  simp only [Wave.actives, Wave.active, he, h]

theorem mget_laneResults (w : Wave) (tids : List Nat) (comp : Wave → Nat → Thread → VRes) (n : Nat) :
    mget (laneResults w tids comp) n = if n ∈ w.actives tids then (w.thread n).map (comp w n) else none := by
  unfold laneResults
  induction w.actives tids with
  | nil => rfl
  | cons a l ih =>
    by_cases h : n = a
    · subst h
      cases ht : w.thread n with
      | none => simp [ht, ih]
      | some t => simp [ht, mget]
    · cases ht : w.thread a with
      | none => simp [ht, ih, h]
      | some t => simp [ht, mget, ih, h]

/-- An active packed thread is a thread of the wave. -/
theorem actives_thread {w : Wave} {tids : List Nat} {n : Nat} (h : n ∈ w.actives tids) :
    n ∈ tids ∧ ∃ t, w.thread n = some t ∧ t.live = true := by
  simp only [Wave.actives, List.mem_filter, Bool.and_eq_true] at h
  obtain ⟨h1, _, h3⟩ := h
  refine ⟨h1, ?_⟩
  cases ht : w.thread n with
  | none => simp [ht] at h3
  | some t => exact ⟨t, rfl, by simpa [ht] using h3⟩

/-- Register copies after sibling values are put from sibling `k` on. -/
theorem zget_putCells (regs : FMap Cell) (spec : Nat) (wide : Bool) (k : Nat) (vals : List Nat) (key : Nat)
    (hk : k + vals.length ≤ 4) :
    zget (Cell.val 0#32) (putCells regs spec wide k vals) key =
      if wide = true ∧ key / 4 = spec + 1 ∧ k ≤ key % 4 then
        (vals[key % 4 - k]?.map (fun v => Cell.val (BitVec.ofNat 32 (v / 2 ^ 32)))).getD (zget (Cell.val 0#32) regs key)
      else if key / 4 = spec ∧ k ≤ key % 4 then
        (vals[key % 4 - k]?.map (fun v => Cell.val (BitVec.ofNat 32 v))).getD (zget (Cell.val 0#32) regs key)
      else zget (Cell.val 0#32) regs key := by
  induction vals generalizing regs k with
  | nil => simp [putCells]
  | cons v l ih =>
    simp only [List.length_cons] at hk
    simp only [putCells]
    rw [ih _ _ (by omega)]
    have e : key = 4 * (key / 4) + key % 4 := by omega
    rcases Nat.lt_trichotomy (key % 4) k with h | h | h
    · have h1 : ¬ k + 1 ≤ key % 4 := by omega
      have h2 : ¬ k ≤ key % 4 := by omega
      have h3 : key ≠ 4 * spec + k := by omega
      have h4 : key ≠ 4 * (spec + 1) + k := by omega
      cases wide <;> simp [h1, h2, zget_zset, h3, h4]
    · have h1 : ¬ k + 1 ≤ key % 4 := by omega
      have h0 : key % 4 - k = 0 := by omega
      have h2 : k ≤ key % 4 := by omega
      have e1 : (key = 4 * spec + k) ↔ key / 4 = spec := by omega
      have e2 : (key = 4 * (spec + 1) + k) ↔ key / 4 = spec + 1 := by omega
      simp only [h1, h0, h2, and_false, and_true, ↓reduceIte, List.getElem?_cons_zero]
      by_cases ha : key / 4 = spec
      · have hb : ¬ key / 4 = spec + 1 := by omega
        cases wide <;> simp [zget_zset, e1, e2, ha]
      · cases wide <;> simp [zget_zset, e1, e2, ha]
    · have h1 : k + 1 ≤ key % 4 := by omega
      have h2 : k ≤ key % 4 := by omega
      have h3 : key ≠ 4 * spec + k := by omega
      have h4 : key ≠ 4 * (spec + 1) + k := by omega
      have h0 : key % 4 - k = (key % 4 - (k + 1)) + 1 := by omega
      simp only [h1, h2, h0, and_true, List.getElem?_cons_succ]
      have hz : zget (Cell.val 0#32)
          (if wide = true then zset (Cell.val 0#32) (zset (Cell.val 0#32) regs (4 * spec + k) (.val (BitVec.ofNat 32 v)))
              (4 * (spec + 1) + k) (.val (BitVec.ofNat 32 (v / 2 ^ 32)))
            else zset (Cell.val 0#32) regs (4 * spec + k) (.val (BitVec.ofNat 32 v))) key = zget (Cell.val 0#32) regs key := by
        cases wide <;> simp [zget_zset, h3, h4]
      rw [hz]

/-- What a fixed-latency result does to the register copies of a thread. -/
theorem cell_writeD (lat : Nat) (p : Spec) (wide : Bool) (vals : List Nat) (t : Thread) (key : Nat)
    (hl : vals.length ≤ 3) : cell (t.writeD lat p wide vals) key = cellAfter p wide vals key (cell t key) := by
  unfold cell cellAfter Thread.writeD
  by_cases h : p.toNat < 0x68
  · have h' : ¬ 0x68 ≤ p.toNat := by omega
    have z := zget_putCells t.regs p.toNat wide 0 vals key (by omega)
    simp only [Nat.zero_le, and_true, Nat.sub_zero] at z
    cases wide <;> simp [h, h', Thread.noteWrite, pushWin, z]
  · have h' : 0x68 ≤ p.toNat := by omega
    simp [h, h', pushWin]

theorem sameBody_trans {a b c : Thread} (h : SameBody a b) (k : SameBody b c) : SameBody a c := by
  obtain ⟨h1, h2, h3, h4, h5, h6⟩ := h
  obtain ⟨k1, k2, k3, k4, k5, k6⟩ := k
  exact ⟨k1.trans h1, k2.trans h2, k3.trans h3, k4.trans h4, k5.trans h5, k6.trans h6⟩

theorem sameThread_trans {a b c : Thread} (h : SameThread a b) (k : SameThread b c) : SameThread a c :=
  ⟨sameBody_trans h.1 k.1, k.2.1.trans h.2.1, k.2.2.trans h.2.2⟩

theorem writeD_same (lat : Nat) (p : Spec) (wide : Bool) (vals : List Nat) (t : Thread) :
    let t' := t.writeD lat p wide vals
    SameThread t t' ∧ t'.owed = t.owed ∧ t'.opidx = t.opidx ∧ t'.runCount = t.runCount ∧ t'.clock = t.clock ∧
      t'.win = (⟨vals.map (BitVec.ofNat 64), wide, t.clock + lat⟩ :: t.win).take 8 := by
  unfold Thread.writeD
  by_cases h : p.toNat < 0x68 <;> cases wide <;> simp [h, Thread.noteWrite, pushWin, SameThread, SameBody]

/-- The accounting of one word (02 R79-R84) for a thread. -/
theorem retire_retired (cycle bank : Nat) (ends : Bool) (next : W64) (t : Thread) :
    Retired (cycle + 2) ends next t (t.retire cycle bank ends next) := by
  simp [Retired, Thread.retire]

theorem retire_same (cycle bank : Nat) (ends : Bool) (next : W64) (t : Thread) :
    let t' := t.retire cycle bank ends next
    SameThread t t' ∧ SameValues t t' :=
  ⟨by simp [SameThread, SameBody, Thread.retire], rfl, rfl, rfl, rfl⟩

/-- Every packed thread passes the word, whatever `v` the wave has become before. -/
theorem passAll_thread (s : State) (v : Wave) (e : Exec) (f : Form) (n : Nat) :
    (passAll s v e f).thread n = (v.thread n).map (fun t =>
      if e.tids.contains n then t.retire s.cycle (actBank s v.core v.cid) f.last (e.addr + 4) else t) := by
  have := thread_onTids v e.tids (fun _ t => t.retire s.cycle (actBank s v.core v.cid) f.last (e.addr + 4)) n
  simpa [passAll, Wave.retire, Wave.thread] using this

theorem any_enumFrom_congr {p q : Nat × Thread → Bool} {l m : List Thread} (n : Nat) (hl : l.length = m.length)
    (h : ∀ i a b, l[i]? = some a → m[i]? = some b → p (n + i, a) = q (n + i, b)) :
    (enumFrom n l).any p = (enumFrom n m).any q := by
  induction l generalizing n m with
  | nil => cases m with
    | nil => rfl
    | cons => simp at hl
  | cons x l ih =>
    cases m with
    | nil => simp at hl
    | cons y m =>
      have h0 := h 0 x y rfl rfl
      have hr := ih (m := m) (n + 1) (by simpa using hl) (fun i a b ha hb => by
        have := h (i + 1) a b (by simpa using ha) (by simpa using hb)
        simpa [Nat.add_comm, Nat.add_left_comm] using this)
      simp only [Nat.add_zero] at h0
      simp [enumFrom, h0, hr]

/-- RUNX after a word depends on the run counts of the packed threads alone. -/
theorem spills_congr {s : State} {w v : Wave} (ends : Bool) (hl : v.threads.length = w.threads.length)
    (h : ∀ n a b, v.thread n = some a → w.thread n = some b → a.runCount = b.runCount) :
    v.numbered.any (fun p => s.cur.tids.contains p.1 && p.2.overruns ends) = spills s w ends := by
  unfold spills Wave.numbered
  apply any_enumFrom_congr 0 hl
  intro i a b ha hb
  simp only [Nat.zero_add, Thread.overruns, h i a b ha hb]

theorem foldl_or_map {α : Type} (l : List α) (f : α → Nat) (a : Nat) :
    l.foldl (fun n x => n ||| f x) a = (l.map f).foldl (fun n x => n ||| x) a := by
  induction l generalizing a with
  | nil => rfl
  | cons x l ih => simp [ih]

/-- The results of the active packed threads, in order. -/
theorem laneResults_eq (w : Wave) (tids : List Nat) (comp : Wave → Nat → Thread → VRes) :
    laneResults w tids comp = (w.actives tids).map (fun n =>
      (n, ((w.thread n).map (comp w n)).getD ⟨[], 0⟩)) := by
  unfold laneResults
  have h : ∀ l : List Nat, (∀ n ∈ l, ∃ t, w.thread n = some t) →
      l.filterMap (fun n => (w.thread n).map (fun t => (n, comp w n t))) =
        l.map (fun n => (n, ((w.thread n).map (comp w n)).getD ⟨[], 0⟩)) := by
    intro l
    induction l with
    | nil => intro _; rfl
    | cons a l ih =>
      intro hl
      obtain ⟨t, ht⟩ := hl a List.mem_cons_self
      simp [ht, ih (fun n hn => hl n (List.mem_cons_of_mem _ hn))]
  exact h _ (fun n hn => by obtain ⟨_, t, ht, _⟩ := actives_thread hn; exact ⟨t, ht⟩)

end Sys2Proof.Laws
end

