-- ==== Sys2Proof/Laws/Vector.lean ====
section
/-! SUPPORT. What a vector instruction with a fixed-latency result does: once for all of them. -/

namespace Sys2Proof.Laws

open Sys2Proof.Machine Sys2Proof.Terms

/-- The form that the arguments of `vecBody` describe. -/
def vecForm (f : Form) (d : Spec) (wide : Bool) (lat rc : Nat) (comp : State → Wave → Nat → Thread → VRes) : VecForm :=
  ⟨f.last, d, f.specs, wide, f.wimm, lat, rc, fun s w n t => ((comp s w n t).vals, (comp s w n t).flags)⟩

theorem allFlags_laneResults (s : State) (w : Wave) (tids : List Nat) (comp : State → Wave → Nat → Thread → VRes) :
    allFlags (laneResults w tids (comp s)) =
      (w.actives tids).foldl (fun a n => a ||| ((w.thread n).map (fun t => (comp s w n t).flags)).getD 0) 0 := by
  rw [allFlags, laneResults_eq, List.foldl_map]
  congr 1
  funext a n
  cases w.thread n <;> rfl

/-- The flags of a thread's result, whether or not the thread is there. -/
def flagsOf (s : State) (w : Wave) (comp : State → Wave → Nat → Thread → VRes) (n : Nat) : Nat :=
  ((w.thread n).map (fun t => (comp s w n t).flags)).getD 0

theorem laneFlags (s : State) (w : Wave) (comp : State → Wave → Nat → Thread → VRes) (n : Nat) :
    (((w.thread n).map (comp s w n)).getD ⟨[], 0⟩).flags = flagsOf s w comp n := by
  unfold flagsOf
  cases w.thread n <;> rfl

/-- The instability trap after results (03 R112): at user level it becomes pending if a condition met is enabled. -/
theorem instability_setW' {s u : State} {w v : Wave} {comp : State → Wave → Nat → Thread → VRes} {r : VecForm}
    (hr : r.result = fun s w n t => ((comp s w n t).vals, (comp s w n t).flags))
    (hn : v.nctl = w.nctl) (hp : v.priv = none ∨ r.trap s w = [])
    (hl : (w.actives s.cur.tids).isEmpty = false → v.threads.any (·.live) = true) :
    instability (setW u s.cur.wave v) s.cur.wave s.cur (laneResults w s.cur.tids (comp s)) =
      setW u s.cur.wave { v with causes := v.causes ++ r.trap s w } := by
  have hf : (fun n => ((w.thread n).map (fun t => (r.result s w n t).2)).getD 0) = flagsOf s w comp := by
    funext n; rw [hr]; rfl
  have ht : r.trap s w =
      if ((w.actives s.cur.tids).filter (fun n => flagsOf s w comp n / 32 % 8 != 0)).foldl
          (fun a n => a ||| flagsOf s w comp n) 0 / 32 % 8 * 32 &&& enabledConds w.nctl == 0 then []
      else [⟨cInstability, s.cur.addr + 4, 0#64, 0#32,
        ((w.actives s.cur.tids).filter (fun n => flagsOf s w comp n / 32 % 8 != 0)).foldl
          (fun a n => a ||| flagsOf s w comp n) 0 / 32 % 8,
        maskOf ((w.actives s.cur.tids).filter (fun n => flagsOf s w comp n / 32 % 8 != 0))⟩] := by
    simp only [VecForm.trap]
    simp only [fun n => congrFun hf n]
  have hm : ((laneResults w s.cur.tids (comp s)).filter (fun r => r.2.flags / 32 % 8 != 0)).map (·.1) =
      (w.actives s.cur.tids).filter (fun n => flagsOf s w comp n / 32 % 8 != 0) := by
    rw [laneResults_eq, List.filter_map, List.map_map]
    have : (Prod.fst ∘ fun n => (n, ((w.thread n).map (comp s w n)).getD ⟨[], 0⟩)) = id := rfl
    rw [this, List.map_id]
    congr 1
    funext n
    simp [laneFlags]
  have ha : allFlags ((laneResults w s.cur.tids (comp s)).filter (fun r => r.2.flags / 32 % 8 != 0)) =
      ((w.actives s.cur.tids).filter (fun n => flagsOf s w comp n / 32 % 8 != 0)).foldl
        (fun a n => a ||| flagsOf s w comp n) 0 := by
    rw [allFlags, laneResults_eq, List.filter_map, List.foldl_map]
    have e1 : (fun (a : Nat) n => a ||| (((w.thread n).map (comp s w n)).getD ⟨[], 0⟩).flags) =
        fun a n => a ||| flagsOf s w comp n := by funext a n; rw [laneFlags]
    rw [e1]
    congr 1
    congr 1
    funext n
    simp [laneFlags]
  rw [← hn] at ht
  simp only [instability, setW_waves, mget_mset_same, ha, hm]
  by_cases h : (((w.actives s.cur.tids).filter (fun n => flagsOf s w comp n / 32 % 8 != 0)).foldl
        (fun a n => a ||| flagsOf s w comp n) 0 / 32 % 8 * 32 &&& enabledConds v.nctl == 0) = true
  · rw [if_pos h, ht, if_pos h, List.append_nil]
  · rw [if_neg h, ht, if_neg h]
    rw [ht, if_neg h] at hp
    have hp' : v.priv = none := by simpa using hp
    have hne : (w.actives s.cur.tids).isEmpty = false := by
      cases hc : w.actives s.cur.tids with
      | nil => simp [hc] at h
      | cons => rfl
    have hu : v.priv.isSome = false := by rw [hp']; rfl
    simp only [meetCause, setW_waves, mget_mset_same, hu, addCause, hl hne, setW_setW, Bool.false_eq_true, ↓reduceIte]

theorem instability_setW {s : State} {w v : Wave} {comp : State → Wave → Nat → Thread → VRes} {r : VecForm}
    (hr : r.result = fun s w n t => ((comp s w n t).vals, (comp s w n t).flags))
    (hn : v.nctl = w.nctl) (hp : v.priv = none ∨ r.trap s w = [])
    (hl : (w.actives s.cur.tids).isEmpty = false → v.threads.any (·.live) = true) :
    instability (setW s s.cur.wave v) s.cur.wave s.cur (laneResults w s.cur.tids (comp s)) =
      setW s s.cur.wave { v with causes := v.causes ++ r.trap s w } := instability_setW' hr hn hp hl

/-- A fixed-latency vector instruction answers a next state: its results, and the accounting of one word. -/
theorem runVec_effect {f : Form} {d : Spec} {wide : Bool} {lat rc : Nat} {comp : State → Wave → Nat → Thread → VRes}
    {s : State} {w : Wave} (h : Runs s w f.specs f.wimm f.user)
    (hl : ∀ n t, (comp s w n t).vals.length ≤ 3)
    (hp : w.priv = none ∨ (vecForm f d wide lat rc comp).trap s w = []) :
    ∃ w', runVec f d wide lat rc comp s = .next (settled (setW s s.cur.wave w') s.cur.wave) ∧
      VecEffect s w w' (vecForm f d wide lat rc comp) := by
  let r := vecForm f d wide lat rc comp
  let g : Nat → Thread → Thread := fun n t =>
    match mget (laneResults w s.cur.tids (comp s)) n with
    | some r => { t.writeD lat d wide r.vals with opidx := t.opidx + BitVec.ofNat 64 rc }
    | none => pushWin undefWin t
  let v1 := w.onTids s.cur.tids g
  let v2 := v1.flag (allFlags (laneResults w s.cur.tids (comp s)))
  let v3 := passAll s v2 s.cur f
  have g_active (n : Nat) (t : Thread) (hn : n ∈ w.actives s.cur.tids) (ht : w.thread n = some t) :
      g n t = { t.writeD lat d wide (comp s w n t).vals with opidx := t.opidx + BitVec.ofNat 64 rc } := by
    have hm := mget_laneResults w s.cur.tids (comp s) n
    rw [if_pos hn, ht] at hm
    show (match mget (laneResults w s.cur.tids (comp s)) n with
      | some r => { t.writeD lat d wide r.vals with opidx := t.opidx + BitVec.ofNat 64 rc }
      | none => pushWin undefWin t) = _
    rw [hm]
    rfl
  have g_idle (n : Nat) (t : Thread) (hn : n ∉ w.actives s.cur.tids) : g n t = pushWin undefWin t := by
    have hm := mget_laneResults w s.cur.tids (comp s) n
    rw [if_neg hn] at hm
    show (match mget (laneResults w s.cur.tids (comp s)) n with
      | some r => { t.writeD lat d wide r.vals with opidx := t.opidx + BitVec.ofNat 64 rc }
      | none => pushWin undefWin t) = _
    rw [hm]
  have g_keeps (n : Nat) (t : Thread) : SameThread t (g n t) ∧ (g n t).owed = t.owed ∧ (g n t).runCount = t.runCount ∧
      (g n t).clock = t.clock := by
    show SameThread t (match mget (laneResults w s.cur.tids (comp s)) n with
      | some r => { t.writeD lat d wide r.vals with opidx := t.opidx + BitVec.ofNat 64 rc }
      | none => pushWin undefWin t) ∧ (match mget (laneResults w s.cur.tids (comp s)) n with
      | some r => { t.writeD lat d wide r.vals with opidx := t.opidx + BitVec.ofNat 64 rc }
      | none => pushWin undefWin t).owed = t.owed ∧ (match mget (laneResults w s.cur.tids (comp s)) n with
      | some r => { t.writeD lat d wide r.vals with opidx := t.opidx + BitVec.ofNat 64 rc }
      | none => pushWin undefWin t).runCount = t.runCount ∧ (match mget (laneResults w s.cur.tids (comp s)) n with
      | some r => { t.writeD lat d wide r.vals with opidx := t.opidx + BitVec.ofNat 64 rc }
      | none => pushWin undefWin t).clock = t.clock
    split
    · rename_i r _
      obtain ⟨h1, h2, _, h4, h5, _⟩ := writeD_same lat d wide r.vals t
      exact ⟨h1, h2, h4, h5⟩
    · simp [SameThread, SameBody, pushWin]
  have t1 (n : Nat) : v1.thread n = (w.thread n).map (fun t => if s.cur.tids.contains n then g n t else t) :=
    thread_onTids w s.cur.tids g n
  have t3 (n : Nat) : v3.thread n = (v1.thread n).map (fun t =>
      if s.cur.tids.contains n then t.retire s.cycle (actBank s w.core w.cid) f.last (s.cur.addr + 4) else t) := by
    exact passAll_thread s v2 s.cur f n
  have hlen : v3.threads.length = w.threads.length := by
    simp [v3, v2, v1, passAll, Wave.retire, Wave.flag]
  have hb : vecBody f d wide lat rc comp s s.cur.wave w s.cur =
      setW s s.cur.wave { v3 with causes := v3.causes ++ r.trap s w } := by
    show instability (setW s s.cur.wave v3) s.cur.wave s.cur (laneResults w s.cur.tids (comp s)) = _
    refine instability_setW (w := w) (v := v3) (r := r) rfl rfl hp ?_
    intro hne
    cases hc : w.actives s.cur.tids with
    | nil => simp [hc] at hne
    | cons n l =>
      obtain ⟨hn, t, ht, hlive⟩ := actives_thread (w := w) (tids := s.cur.tids) (n := n) (by simp [hc])
      have h3 := t3 n
      rw [t1 n, ht] at h3
      simp only [Option.map_some, List.contains_iff_mem.2 hn, ↓reduceIte] at h3
      rw [List.any_eq_true]
      refine ⟨_, List.mem_of_getElem? (by simpa [Wave.thread] using h3), ?_⟩
      have hs := (retire_same s.cycle (actBank s w.core w.cid) f.last (s.cur.addr + 4) (g n t)).1.2.1
      have hg := (g_keeps n t).1.2.1
      exact (congrArg (fun x => x != TState.exited) (hs.trans hg)).trans hlive
  refine ⟨{ v3 with causes := v3.causes ++ r.trap s w }, ?_, ?_, ?_⟩
  · rw [runVec, runWord_next h, hb]
  · refine ⟨by simpa using hlen, fun n t ht => ?_⟩
    have h3 := t3 n
    rw [t1 n, ht] at h3
    simp only [Option.map_some] at h3
    by_cases hn : n ∈ s.cur.tids
    · simp only [List.contains_iff_mem.2 hn, ↓reduceIte] at h3
      refine ⟨_, h3, ?_⟩
      rw [if_pos hn]
      have k1 := retire_retired s.cycle (actBank s w.core w.cid) f.last (s.cur.addr + 4) (g n t)
      have k2 := retire_same s.cycle (actBank s w.core w.cid) f.last (s.cur.addr + 4) (g n t)
      have k3 := g_keeps n t
      generalize hq : (g n t).retire s.cycle (actBank s w.core w.cid) f.last (s.cur.addr + 4) = q at k1 k2
      obtain ⟨s1, r1, o1, w1, win1⟩ := k2
      obtain ⟨c1, c2, c3, c4⟩ := k3
      refine ⟨?_, ?_, by rw [w1, c2], ?_⟩
      · show Retired (s.cycle + 2) f.last (s.cur.addr + 4) t q
        simpa only [Retired, c3, c4] using k1
      · exact sameThread_trans c1 s1
      · by_cases ha : n ∈ w.actives s.cur.tids
        · rw [if_pos ha]
          have ga := g_active n t ha ht
          obtain ⟨_, _, _, _, _, e6⟩ := writeD_same lat d wide (comp s w n t).vals t
          refine ⟨?_, ?_, ?_⟩
          · rw [o1, ga]; rfl
          · intro key
            rw [cell, r1, ga]
            exact cell_writeD lat d wide (comp s w n t).vals t key (hl n t)
          · rw [win1, ga]
            exact congrArg _ e6
        · rw [if_neg ha]
          have gi := g_idle n t ha
          refine ⟨by rw [o1, gi]; rfl, by rw [r1, gi]; rfl, ?_⟩
          rw [win1, gi]; rfl
    · simp only [show s.cur.tids.contains n = false by simpa using hn, Bool.false_eq_true, ↓reduceIte] at h3
      exact ⟨t, h3, by rw [if_neg hn]⟩
  · have hrun : v3.runx = (w.runx || spills s w f.last) := by
      show (w.runx || v2.numbered.any (fun p => s.cur.tids.contains p.1 && p.2.overruns f.last)) = _
      rw [show v2.numbered = v1.numbered from rfl]
      rw [spills_congr (s := s) (w := w) (v := v1) f.last (by simp [v1])]
      intro n a b ha hb
      rw [t1 n, hb] at ha
      simp only [Option.map_some, Option.some.injEq] at ha
      subst ha
      split
      · exact (g_keeps n b).2.2.1
      · rfl
    have hfl : allFlags (laneResults w s.cur.tids (comp s)) = r.flags s w := allFlags_laneResults s w s.cur.tids comp
    show ({ v3 with causes := v3.causes ++ r.trap s w } : Wave) = _
    have hc : v3.causes = w.causes := rfl
    simp only [hc]
    show ({ v3 with causes := w.causes ++ r.trap s w } : Wave) =
      { w with threads := v3.threads, runx := w.runx || spills s w f.last,
               aflag := w.aflag ||| BitVec.ofNat 32 (r.flags s w), causes := w.causes ++ r.trap s w }
    rw [← hrun, ← hfl]
    rfl

/-- `VecEffect` speaks of a form's results, not of the registers it names. -/
theorem runVec_form {f : Form} {d : Spec} {wide : Bool} {lat rc : Nat} {comp : State → Wave → Nat → Thread → VRes}
    {s : State} {w : Wave} {r : VecForm} (h : Runs s w f.specs f.wimm f.user)
    (hf : r.marked = f.last ∧ r.dest = d ∧ r.wide = wide ∧ r.lat = lat ∧ r.count = rc)
    (hr : ∀ s w n t, r.result s w n t = ((comp s w n t).vals, (comp s w n t).flags))
    (hl : ∀ n t, (r.result s w n t).1.length ≤ 3) (hp : w.priv = none ∨ r.trap s w = []) :
    ∃ w', runVec f d wide lat rc comp s = .next (settled (setW s s.cur.wave w') s.cur.wave) ∧ VecEffect s w w' r := by
  obtain ⟨marked, dest, names, wide', wimm, lat', count, result⟩ := r
  obtain ⟨h1, h2, h3, h4, h5⟩ := hf
  simp only at h1 h2 h3 h4 h5
  subst h1 h2 h3 h4 h5
  have hres : result = fun s w n t => ((comp s w n t).vals, (comp s w n t).flags) := by
    funext s w n t; exact hr s w n t
  subst hres
  exact runVec_effect (rc := count) h hl hp

/-- Results without flags raise no trap. -/
theorem trap_nil {r : VecForm} {s : State} {w : Wave} (h : ∀ n t, (r.result s w n t).2 = 0) : r.trap s w = [] := by
  have hz : ∀ n, ((w.thread n).map (fun t => (r.result s w n t).2)).getD 0 = 0 := by
    intro n
    cases w.thread n with
    | none => rfl
    | some t => exact h n t
  simp [VecForm.trap, hz]

theorem flags_zero {r : VecForm} {s : State} {w : Wave} (h : ∀ n t, (r.result s w n t).2 = 0) : r.flags s w = 0 := by
  have hz : ∀ n, ((w.thread n).map (fun t => (r.result s w n t).2)).getD 0 = 0 := by
    intro n
    cases w.thread n with
    | none => rfl
    | some t => exact h n t
  unfold VecForm.flags
  simp only [hz]
  induction w.actives s.cur.tids with
  | nil => rfl
  | cons a l ih => simp

@[simp] theorem sibs_length (w : Wave) : w.sibs.length ≤ 3 := by unfold Wave.sibs; split <;> simp

/-! Operands are within their width (07 R249). -/

theorem reg_lt (ilk : Bool) (t : Thread) (free spec k : Nat) : t.reg ilk free spec k < 2 ^ 32 := by
  unfold Thread.reg
  split
  · exact Nat.mod_lt _ (by decide)
  · split
    · decide
    · exact BitVec.isLt _
    · exact Nat.mod_lt _ (by decide)

theorem freeOp_lt (s : State) (tid k port : Nat) : freeOp s tid k port < 2 ^ 64 := BitVec.isLt _

theorem winRead_lt (ilk : Bool) (clock free k : Nat) (wide : Bool) (e : Option WinEntry) (hf : free < 2 ^ 64) :
    winRead ilk clock free k wide e < (if wide then 2 ^ 64 else 2 ^ 32) := by
  have h0 : (if wide = true then free else free % 2 ^ 32) < (if wide then 2 ^ 64 else 2 ^ 32) := by
    cases wide
    · exact Nat.mod_lt _ (by decide)
    · exact hf
  unfold winRead
  split
  · exact h0
  · split
    · exact h0
    · rename_i v _
      split
      · exact h0
      · have := v.isLt
        cases wide
        · simp only [Bool.false_eq_true, Bool.not_false, ↓reduceIte]; omega
        · simp only [Bool.not_true, Bool.false_eq_true, ↓reduceIte]
          split <;> omega

theorem readOp_lt (s : State) (w : Wave) (tid : Nat) (t : Thread) (k port : Nat) (p : Spec) (wide : Bool) :
    readOp s w tid t k port p wide < (if wide then 2 ^ 64 else 2 ^ 32) := by
  unfold readOp
  simp only
  split
  · have h1 := reg_lt w.ilk t (freeOp s tid k (2 * port)) p.toNat k
    have h2 := reg_lt w.ilk t (freeOp s tid k (2 * port + 1)) (p.toNat + 1) k
    cases wide <;> simp <;> omega
  · split
    · exact winRead_lt _ _ _ _ _ _ (freeOp_lt s tid k (2 * port))
    · have : (if t.unsettled w.ilk (scalKey (p.toNat - 0x70)) = true then freeOp s tid k (2 * port)
          else (zget 0#64 w.scal (p.toNat - 0x70)).toNat) < 2 ^ 64 := by
        split
        · exact freeOp_lt ..
        · exact BitVec.isLt _
      cases wide
      · simp; exact Nat.mod_lt _ (by decide)
      · simpa using this

end Sys2Proof.Laws
end

