-- ==== Sys2Proof/Laws/Shapes.lean ====
section
/-! SUPPORT. What the shapes that words share do to a wave: scalar results, compares, late results, branches, waits. -/

namespace Sys2Proof.Laws

open Sys2Proof.Machine Sys2Proof.Terms

/-- Two changes of the same threads are one. -/
theorem onTids_onTids (tids : List Nat) (f g : Nat → Thread → Thread) (n : Nat) (l : List Thread) :
    Machine.onTids tids f n (Machine.onTids tids g n l) = Machine.onTids tids (fun i t => f i (g i t)) n l := by
  induction l generalizing n with
  | nil => rfl
  | cons x l ih =>
    simp only [Machine.onTids, ih, List.cons.injEq, and_true]
    split <;> rfl

/-- A change of the packed threads, as a relation. -/
theorem threads_of_onTids {s : State} {w w' : Wave} {F : Nat → Thread → Thread} {P : Nat → Thread → Thread → Prop}
    (h : w'.threads = Machine.onTids s.cur.tids F 0 w.threads)
    (hP : ∀ n t, n ∈ s.cur.tids → w.thread n = some t → P n t (F n t)) : Threads s w w' P := by
  refine ⟨by simp [h], fun n t ht => ?_⟩
  have e : w'.thread n = (w.thread n).map (fun t => if s.cur.tids.contains n then F n t else t) := by
    simp [Wave.thread, h, onTids_getElem?]
  rw [e, ht]
  by_cases hn : n ∈ s.cur.tids
  · exact ⟨F n t, by simp [hn], by simpa [hn] using hP n t hn ht⟩
  · exact ⟨t, by simp [hn], by simp [hn]⟩

/-- RUNX after a change of the packed threads that keeps their counts. -/
theorem spill_of_onTids {s : State} {w v : Wave} (ends : Bool) {F : Nat → Thread → Thread}
    (h : v.threads = Machine.onTids s.cur.tids F 0 w.threads) (hF : ∀ n t, (F n t).runCount = t.runCount) :
    v.numbered.any (fun p => s.cur.tids.contains p.1 && p.2.overruns ends) = spills s w ends := by
  refine spills_congr ends (by simp [h]) ?_
  intro n a b ha hb
  simp only [Wave.thread, h, onTids_getElem?, Nat.zero_add] at ha hb
  rw [hb] at ha
  simp only [Option.map_some, Option.some.injEq] at ha
  subst ha
  split
  · exact hF n b
  · rfl

/-- A word that ends the run never overruns it. -/
@[simp] theorem spills_true (s : State) (w : Wave) : spills s w true = false := by
  simp [spills]

/-- Packed threads that pass a word as they are. -/
theorem passAll_passes (s : State) (w : Wave) (f : Form) :
    Threads s w (passAll s w s.cur f) (PassedThread s f.last) := by
  refine threads_of_onTids (F := fun _ t => t.retire s.cycle (actBank s w.core w.cid) f.last (s.cur.addr + 4)) rfl ?_
  intro n t _ _
  exact ⟨retire_retired .., retire_same ..⟩

/-- The wave that only passes a word. -/
theorem passAll_eq (s : State) (w : Wave) (f : Form) :
    passAll s w s.cur f =
      { w with threads := (passAll s w s.cur f).threads, runx := w.runx || spills s w f.last } := by
  have h := spill_of_onTids (s := s) (w := w) (v := w) f.last (F := fun _ t => t) (by
    have : ∀ n (l : List Thread), Machine.onTids s.cur.tids (fun _ t => t) n l = l := by
      intro n l
      induction l generalizing n with
      | nil => rfl
      | cons x l ih => simp [Machine.onTids, ih]
    rw [this]) (fun _ _ => rfl)
  rw [← h]
  rfl

theorem passAll_effect (s : State) (w : Wave) (f : Form) : PassEffect s w (passAll s w s.cur f) f.last :=
  ⟨passAll_passes s w f, passAll_eq s w f⟩

/-- A word without an effect of its own. -/
theorem runWord_pass {f : Form} {s : State} {w : Wave} (h : Runs s w f.specs f.wimm f.user) :
    ∃ w', runWord f (fun s k w e => setW s k (passAll s w e f)) s =
        .next (settled (setW s s.cur.wave w') s.cur.wave) ∧ PassEffect s w w' f.last :=
  ⟨_, runWord_next h, passAll_effect s w f⟩

/-- A scalar result reaches its register, and the packed threads pass. -/
theorem writeScal_pass (s : State) (w : Wave) (f : Form) (d : SReg) (lat : Nat) (v : W64) :
    let w' := passAll s (writeScal w s.cur.tids d.toNat lat v) s.cur f
    Threads s w w' (PassedThread s f.last) ∧ (∀ j, scal w' j = if j = d.toNat then v else scal w j) ∧
      w' = { w with threads := w'.threads, runx := w.runx || spills s w f.last, scal := w'.scal } := by
  let F : Nat → Thread → Thread := fun _ t => { t with
      dues := mset t.dues (scalKey d.toNat) (t.clock + lat),
      clobbered := if t.owed.contains (scalKey d.toNat) then scalKey d.toNat :: t.clobbered else t.clobbered }
  refine ⟨?_, ?_, ?_⟩
  · refine threads_of_onTids
      (F := fun n t => (F n t).retire s.cycle (actBank s w.core w.cid) f.last (s.cur.addr + 4)) ?_ ?_
    · show Machine.onTids _ _ 0 (Machine.onTids s.cur.tids F 0 w.threads) = _
      rw [onTids_onTids]
      rfl
    · intro n t _ _
      have r := retire_retired s.cycle (actBank s w.core w.cid) f.last (s.cur.addr + 4) (F n t)
      have q := retire_same s.cycle (actBank s w.core w.cid) f.last (s.cur.addr + 4) (F n t)
      exact ⟨r, q.1, q.2⟩
  · intro j
    exact zget_zset 0#64 w.scal d.toNat j v
  · have h := spill_of_onTids (s := s) (w := w) (v := writeScal w s.cur.tids d.toNat lat v) f.last (F := F) rfl
      (fun _ _ => rfl)
    rw [← h]
    rfl

/-- A word with a scalar result at once. -/
theorem runScal_value {f : Form} {always : Bool} {d : SReg} {lat : Nat} {val : State → Wave → W64}
    {act : State → Wave → Exec → Wave} {s : State} {w : Wave} {wimm : Bool}
    (h : Runs s w f.specs f.wimm f.user)
    (ha : act s w s.cur = writeScal w s.cur.tids d.toNat lat (val s w)) :
    ∃ w', runScal f always act s = .next (settled (setW s s.cur.wave w') s.cur.wave) ∧
      ScalEffect s w w' ⟨f.last, wimm, always, d, val⟩ := by
  have hr : runScal f always act s =
      .next (settled (scalBody f always act s s.cur.wave w s.cur) s.cur.wave) := runWord_next h
  by_cases hc : (always || !(w.actives s.cur.tids).isEmpty) = true
  · have hd : always = true ∨ w.actives s.cur.tids ≠ [] := by simpa using hc
    obtain ⟨h1, h2, h3⟩ := writeScal_pass s w f d lat (val s w)
    refine ⟨_, ?_, h1, ?_, h3⟩
    · rw [hr, scalBody, if_pos hc, ha]
    · intro j
      rw [h2]
      simp only [hd, true_and]
  · have hd : ¬ (always = true ∨ w.actives s.cur.tids ≠ []) := by simpa using hc
    refine ⟨passAll s w s.cur f, ?_, passAll_passes s w f, ?_, ?_⟩
    · rw [hr, scalBody, if_neg hc]
    · intro j
      rw [if_neg (by tauto)]
      rfl
    · exact passAll_eq s w f

/-- An SC arithmetic word. -/
theorem scalArith_effect {m : Bool} {d a : SReg} {i : Bool} {x : BitVec 7} {op : W64 → W64 → W64} {s : State} {w : Wave}
    (h : Runs s w [] i false) :
    ∃ w', scalArith m d a i x op s = .next (settled (setW s s.cur.wave w') s.cur.wave) ∧
      ScalEffect s w w'
        ⟨m, i, false, d, fun s w => op (readScal s w s.cur.tids 1 a.toNat) (scX s w s.cur 2 i x)⟩ := by
  have e : (Form.sc m i).last = m := by simp [Form.sc, Form.last]
  have := runScal_value (f := Form.sc m i) (always := false) (d := d) (lat := 6) (s := s) (w := w) (wimm := i)
    (val := fun s w => op (readScal s w s.cur.tids 1 a.toNat) (scX s w s.cur 2 i x))
    (act := fun s w e => writeScal w e.tids d.toNat 6 (op (readScal s w e.tids 1 a.toNat) (scX s w e 2 i x))) h rfl
  rw [e] at this
  exact this

/-- A vector instruction whose result arrives later answers a next state: the result is on its way and owed. -/
theorem runLong_effect {f : Form} {d : Spec} {wide : Bool} {rc : Nat} {comp : State → Wave → Nat → Thread → VRes}
    {s : State} {w : Wave} {r : VecForm} (h : Runs s w f.specs f.wimm f.user)
    (hf : r.marked = f.last ∧ r.dest = d ∧ r.wide = wide ∧ r.count = rc)
    (hr : ∀ s w n t, r.result s w n t = ((comp s w n t).vals, (comp s w n t).flags))
    (hp : w.priv = none ∨ r.trap s w = []) :
    ∃ w', runLong f d wide rc comp s =
        .next (settled (setW { s with nextId := s.nextId + 1 } s.cur.wave w') s.cur.wave) ∧ LongEffect s w w' r := by
  obtain ⟨marked, dest, names, wide', wimm, lat', count, result⟩ := r
  obtain ⟨h1, h2, h3, h5⟩ := hf
  simp only at h1 h2 h3 h5
  subst h1 h2 h3 h5
  have hres : result = fun s w n t => ((comp s w n t).vals, (comp s w n t).flags) := by
    funext s w n t; exact hr s w n t
  subst hres
  generalize hR : (⟨f.last, dest, names, wide', wimm, lat', count,
    fun s w n t => ((comp s w n t).vals, (comp s w n t).flags)⟩ : VecForm) = r at *
  let g : Nat → Thread → Thread := fun n t =>
    match mget (laneResults w s.cur.tids (comp s)) n with
    | some _ => { t.owe (some dest) wide' with opidx := t.opidx + BitVec.ofNat 64 count }
    | none => pushWin undefWin t
  have g_active (n : Nat) (t : Thread) (hn : n ∈ w.actives s.cur.tids) (ht : w.thread n = some t) :
      g n t = { t.owe (some dest) wide' with opidx := t.opidx + BitVec.ofNat 64 count } := by
    have hm := mget_laneResults w s.cur.tids (comp s) n
    rw [if_pos hn, ht] at hm
    simp only [g, hm, Option.map_some]
  have g_idle (n : Nat) (t : Thread) (hn : n ∉ w.actives s.cur.tids) : g n t = pushWin undefWin t := by
    have hm := mget_laneResults w s.cur.tids (comp s) n
    rw [if_neg hn] at hm
    simp only [g, hm]
  have owe_same (t : Thread) : SameThread t (t.owe (some dest) wide') ∧ (t.owe (some dest) wide').regs = t.regs ∧
      (t.owe (some dest) wide').win = (undefWin :: t.win).take 8 ∧ (t.owe (some dest) wide').runCount = t.runCount ∧
      (t.owe (some dest) wide').clock = t.clock ∧ (t.owe (some dest) wide').owed = owedKeys dest wide' ++ t.owed := by
    unfold Thread.owe owedKeys
    by_cases hd : dest.toNat < 0x68
    · have hd' : ¬ 0x68 ≤ dest.toNat := by omega
      cases wide' <;> simp [hd, hd', pushWin, SameThread, SameBody]
    · have hd' : 0x68 ≤ dest.toNat := by omega
      simp [hd, hd', pushWin, SameThread, SameBody]
  have g_keeps (n : Nat) (t : Thread) : SameThread t (g n t) ∧ (g n t).regs = t.regs ∧
      (g n t).win = (undefWin :: t.win).take 8 ∧ (g n t).runCount = t.runCount ∧ (g n t).clock = t.clock := by
    obtain ⟨o1, o2, o3, o4, o5, _⟩ := owe_same t
    simp only [g]
    split
    · exact ⟨o1, o2, o3, o4, o5⟩
    · simp [pushWin, SameThread, SameBody]
  let acc : Wave → Wave := fun v =>
    if (laneResults w s.cur.tids (comp s)).isEmpty then v
    else addAccess v (resultAccess s v s.cur (longDest dest wide') (allFlags (laneResults w s.cur.tids (comp s)))
      ((laneResults w s.cur.tids (comp s)).map (fun r => (r.1, r.2.vals))))
  let v1 := w.onTids s.cur.tids g
  let v2 := acc v1
  let v3 := passAll s v2 s.cur f
  have e2 : v2 = { v1 with accs := w.accs ++ r.access s w } := by
    have hlane : (laneResults w s.cur.tids (comp s)).isEmpty = (w.actives s.cur.tids).isEmpty := by
      rw [laneResults_eq]; simp
    have hd : longDest dest wide' = if 0x68 ≤ dest.toNat then none else some (4 * dest.toNat, wide') := by
      unfold longDest destKey
      by_cases hd : dest.toNat < 0x68
      · simp [hd, show ¬ 0x68 ≤ dest.toNat by omega]
      · simp [hd, show 0x68 ≤ dest.toNat by omega]
    have hfl : allFlags (laneResults w s.cur.tids (comp s)) = r.flags s w := by
      rw [← hR]; exact allFlags_laneResults s w s.cur.tids comp
    by_cases hc : w.actives s.cur.tids = []
    · have : (laneResults w s.cur.tids (comp s)).isEmpty = true := by rw [hlane]; simp [hc]
      simp only [v2, acc, this, ↓reduceIte, VecForm.access, hc, List.append_nil]
      rfl
    · have : (laneResults w s.cur.tids (comp s)).isEmpty = false := by rw [hlane]; simp [hc]
      simp only [v2, acc, this, Bool.false_eq_true, ↓reduceIte, VecForm.access, hc, hfl, hd, addAccess, resultAccess]
      rw [laneResults_eq]
      simp only [List.map_map]
      have hl : (w.actives s.cur.tids).map ((fun l : Nat × List Nat => (⟨l.1, 0, .single 0, l.2⟩ : Lane)) ∘
            ((fun r : Nat × VRes => (r.1, r.2.vals)) ∘ fun n => (n, ((w.thread n).map (comp s w n)).getD ⟨[], 0⟩))) =
          (w.actives s.cur.tids).map fun n =>
            (⟨n, 0, .single 0, ((w.thread n).map (fun t => (r.result s w n t).1)).getD []⟩ : Lane) := by
        apply List.map_congr_left
        intro n _
        rw [← hR]
        simp only [Function.comp]
        cases w.thread n <;> rfl
      rw [hl]
      rw [← hR]
      rfl
  have hth : v3.threads = Machine.onTids s.cur.tids
      (fun n t => (g n t).retire s.cycle (actBank s v2.core v2.cid) f.last (s.cur.addr + 4)) 0 w.threads := by
    show Machine.onTids _ _ 0 v2.threads = _
    rw [e2]
    show Machine.onTids _ _ 0 (Machine.onTids s.cur.tids g 0 w.threads) = _
    rw [onTids_onTids]
  have hb : longBody f dest wide' count comp s s.cur.wave w s.cur =
      setW { s with nextId := s.nextId + 1 } s.cur.wave { v3 with causes := v3.causes ++ r.trap s w } := by
    show instability (setW { s with nextId := s.nextId + 1 } s.cur.wave v3) s.cur.wave s.cur
      (laneResults w s.cur.tids (comp s)) = _
    have hins := instability_setW' (s := s) (u := { s with nextId := s.nextId + 1 }) (w := w) (v := v3) (comp := comp)
      (r := r) (by rw [← hR]) (by show v2.nctl = w.nctl; rw [e2]; rfl)
      (by rcases hp with hp | hp
          · left; show v2.priv = none; rw [e2]; exact hp
          · exact .inr hp) ?_
    · exact hins
    · intro hne
      cases hc : w.actives s.cur.tids with
      | nil => simp [hc] at hne
      | cons n l =>
        obtain ⟨hn, t, ht, hlive⟩ := actives_thread (w := w) (tids := s.cur.tids) (n := n) (by simp [hc])
        have h3 : v3.threads[n]? = some ((g n t).retire s.cycle (actBank s v2.core v2.cid) f.last (s.cur.addr + 4)) := by
          have ht' : w.threads[n]? = some t := ht
          rw [hth, onTids_getElem?, ht']
          simp [hn]
        rw [List.any_eq_true]
        refine ⟨_, List.mem_of_getElem? h3, ?_⟩
        have hs := (retire_same s.cycle (actBank s v2.core v2.cid) f.last (s.cur.addr + 4) (g n t)).1.2.1
        have hg := (g_keeps n t).1.2.1
        exact (congrArg (fun x => x != TState.exited) (hs.trans hg)).trans hlive
  refine ⟨{ v3 with causes := v3.causes ++ r.trap s w }, ?_, ?_, ?_⟩
  · rw [runLong, runWord_next h, hb]
  · refine threads_of_onTids hth ?_
    intro n t hn ht
    obtain ⟨k1, k2, k3, k4, k5⟩ := g_keeps n t
    have q1 := retire_retired s.cycle (actBank s v2.core v2.cid) f.last (s.cur.addr + 4) (g n t)
    have q2 := retire_same s.cycle (actBank s v2.core v2.cid) f.last (s.cur.addr + 4) (g n t)
    generalize (g n t).retire s.cycle (actBank s v2.core v2.cid) f.last (s.cur.addr + 4) = q at q1 q2
    obtain ⟨s1, r1, o1, w1, win1⟩ := q2
    rw [← hR]
    refine ⟨?_, sameThread_trans k1 s1, r1.trans k2, ?_, ?_⟩
    · simpa only [Retired, k4, k5] using q1
    · rw [win1, k3]
    · by_cases ha : n ∈ w.actives s.cur.tids
      · rw [if_pos ha]
        have ga := g_active n t ha ht
        refine ⟨by rw [o1, ga], ?_⟩
        rw [w1, ga]
        exact (owe_same t).2.2.2.2.2
      · rw [if_neg ha]
        have gi := g_idle n t ha
        exact ⟨by rw [o1, gi]; rfl, by rw [w1, gi]; rfl⟩
  · have hrun : v3.runx = (w.runx || spills s w f.last) := by
      show (v2.runx || v2.numbered.any (fun p => s.cur.tids.contains p.1 && p.2.overruns f.last)) = _
      rw [spill_of_onTids (s := s) (w := w) (v := v2) (F := g) f.last (by rw [e2]; rfl) (fun n t => (g_keeps n t).2.2.2.1), e2]
      rfl
    have hacc : v3.accs = w.accs ++ r.access s w := by
      show v2.accs = _
      rw [e2]
    have hc : v3.causes = w.causes := by
      show v2.causes = _
      rw [e2]
      rfl
    have hm : r.marked = f.last := by rw [← hR]
    rw [hc, ← hacc, hm, ← hrun]
    show _ = ({ w with threads := v3.threads, runx := v3.runx, accs := v3.accs, causes := _ } : Wave)
    have a : v3 = { v2 with threads := v3.threads, runx := v3.runx } := rfl
    have b (T : List Thread) (x : Bool) :
        ({ v2 with threads := T, runx := x } : Wave) = { w with threads := T, runx := x, accs := w.accs ++ r.access s w } := by
      rw [e2]
      rfl
    rw [b, ← hacc] at a
    conv => lhs; rw [a]

end Sys2Proof.Laws
end

