-- ==== Sys2Proof/Laws/Control.lean ====
section
/-! SUPPORT. What compares, branches and words at which threads come to stand do to a wave. -/

namespace Sys2Proof.Laws

open Sys2Proof.Machine Sys2Proof.Terms

/-- A bit of a mask of tids. -/
theorem maskOf_getLsbD (l : List Nat) (n : Nat) (hn : n < 64) : (maskOf l).getLsbD n = l.contains n := by
  have key : ∀ (l : List Nat) (m : W64),
      (l.foldl (fun m t => m ||| BitVec.ofNat 64 (2 ^ t)) m).getLsbD n = (m.getLsbD n || l.contains n) := by
    intro l
    induction l with
    | nil => intro m; simp
    | cons a l ih =>
      intro m
      have hb : (BitVec.ofNat 64 (2 ^ a)).getLsbD n = (n == a) := by
        simp only [BitVec.getLsbD_ofNat, hn, decide_true, Bool.true_and, Nat.testBit_two_pow]
        rcases eq_or_ne a n with h | h
        · simp [h]
        · simp [h, Ne.symm h]
      simp only [List.foldl_cons, ih, BitVec.getLsbD_or, hb, List.contains_cons]
      cases m.getLsbD n <;> cases (n == a) <;> simp
  simpa [maskOf] using key l 0#64

theorem actives_lt {w : Wave} {tids : List Nat} {n : Nat} (h : n ∈ w.actives tids) : n < 64 := by
  simp only [Wave.actives, List.mem_filter, Bool.and_eq_true, Wave.active] at h
  exact BitVec.lt_of_getLsbD h.2.1

/-- A compare answers a next state: the condition bits of the active packed threads. -/
theorem runCm_effect {f : Form} {lat : Nat} {comp : State → Wave → Nat → Thread → VRes} {s : State} {w : Wave} {r : CmForm}
    (h : Runs s w f.specs f.wimm f.user) (hm : r.marked = f.last)
    (hr : ∀ s w n t, comp s w n t = ⟨[bnat (r.holds s w n t).1], (r.holds s w n t).2⟩)
    (hp : w.priv = none ∨ r.trap s w = []) :
    ∃ w', runCm f lat comp s = .next (settled (setW s s.cur.wave w') s.cur.wave) ∧ CmEffect s w w' r := by
  let res := laneResults w s.cur.tids (comp s)
  let q : VecForm := ⟨r.marked, 0x00#7, [], false, false, 0, 0, fun s w n t => ([], (r.holds s w n t).2)⟩
  let ones := maskOf ((res.filter (fun r => r.2.vals == [1])).map (·.1))
  let who := maskOf (res.map (·.1))
  let tk : List Nat := res.map (·.1)
  let F : Nat → Thread → Thread := fun n t => if tk.contains n then t.noteWrite lat cmKey else t
  let v1 : Wave := { w with cm := (w.cm &&& ~~~who) ||| ones }
  let v2 := (v1.onTids tk (fun _ t => t.noteWrite lat cmKey)).flag (allFlags res)
  let v3 := passAll s v2 s.cur f
  have hres : res = (w.actives s.cur.tids).map (fun n => (n, ((w.thread n).map (comp s w n)).getD ⟨[], 0⟩)) :=
    laneResults_eq w s.cur.tids (comp s)
  have htk : tk = w.actives s.cur.tids := by
    simp only [tk, hres, List.map_map]
    exact List.map_id _
  have hones : ∀ n < 64, ones.getLsbD n =
      (decide (n ∈ w.actives s.cur.tids) && ((w.thread n).map (fun t => (r.holds s w n t).1)).getD false) := by
    intro n hn
    rw [maskOf_getLsbD _ _ hn]
    by_cases hx : ((w.thread n).map (fun t => (r.holds s w n t).1)).getD false = true
    · by_cases ha : n ∈ w.actives s.cur.tids
      · rw [hx, decide_eq_true ha]
        simp only [Bool.and_self, List.contains_iff_mem, List.mem_map, List.mem_filter]
        obtain ⟨_, t, ht, _⟩ := actives_thread ha
        refine ⟨(n, comp s w n t), ⟨?_, ?_⟩, rfl⟩
        · rw [hres, List.mem_map]
          exact ⟨n, ha, by simp [ht]⟩
        · rw [ht] at hx
          simp only [Option.map_some, Option.getD_some] at hx
          simp [hr, hx, bnat]
      · rw [decide_eq_false ha, Bool.false_and]
        rw [Bool.eq_false_iff]
        intro hc
        simp only [List.contains_iff_mem, List.mem_map, List.mem_filter, hres] at hc
        obtain ⟨e, ⟨⟨m, hm', rfl⟩, _⟩, he⟩ := hc
        exact ha (by simpa using he ▸ hm')
    · rw [Bool.not_eq_true] at hx
      rw [hx, Bool.and_false, Bool.eq_false_iff]
      intro hc
      simp only [List.contains_iff_mem, List.mem_map, List.mem_filter, hres] at hc
      obtain ⟨e, ⟨⟨m, hm', rfl⟩, hv⟩, he⟩ := hc
      simp only at he
      subst he
      obtain ⟨_, t, ht, _⟩ := actives_thread hm'
      rw [ht] at hx hv
      simp only [Option.map_some, Option.getD_some] at hx hv
      rw [hr] at hv
      simp [hx, bnat] at hv
  have hth : v3.threads = Machine.onTids s.cur.tids
      (fun n t => (F n t).retire s.cycle (actBank s w.core w.cid) f.last (s.cur.addr + 4)) 0 w.threads := by
    show Machine.onTids s.cur.tids _ 0 (Machine.onTids tk (fun _ t => t.noteWrite lat cmKey) 0 w.threads) = _
    have : Machine.onTids tk (fun _ t => t.noteWrite lat cmKey) 0 w.threads = Machine.onTids s.cur.tids F 0 w.threads := by
      have gen : ∀ k (l : List Thread), Machine.onTids tk (fun _ t => t.noteWrite lat cmKey) k l = Machine.onTids s.cur.tids F k l := by
        intro k l
        induction l generalizing k with
        | nil => rfl
        | cons x l ih =>
          simp only [Machine.onTids, ih, F, List.cons.injEq, and_true]
          by_cases hk : k ∈ tk
          · have : k ∈ s.cur.tids := (actives_thread (htk ▸ hk)).1
            simp [hk, this]
          · simp [hk]
      exact gen 0 w.threads
    rw [this, onTids_onTids]
    rfl
  have F_keeps (n : Nat) (t : Thread) : SameThread t (F n t) ∧ (F n t).regs = t.regs ∧ (F n t).opidx = t.opidx ∧
      (F n t).owed = t.owed ∧ (F n t).win = t.win ∧ (F n t).runCount = t.runCount ∧ (F n t).clock = t.clock := by
    simp only [F]
    split <;> simp [Thread.noteWrite, SameThread, SameBody]
  have hflags : allFlags res = r.flags s w := by
    show allFlags (laneResults w s.cur.tids (comp s)) = _
    rw [allFlags_laneResults]
    unfold CmForm.flags
    congr 1
    funext a n
    cases w.thread n with
    | none => rfl
    | some t => simp [hr]
  have hb : cmBody f lat comp s s.cur.wave w s.cur = setW s s.cur.wave { v3 with causes := v3.causes ++ r.trap s w } := by
    have e : instability (setW s s.cur.wave v3) s.cur.wave s.cur res =
        instability (setW s s.cur.wave v3) s.cur.wave s.cur
          (laneResults w s.cur.tids (fun (w : Wave) n t => (⟨[], (r.holds s w n t).2⟩ : VRes))) := by
      simp only [instability]
      split
      · rfl
      · have hm1 : ∀ p : Nat → Bool, (res.filter (fun r => p r.2.flags)).map (fun x => (x.1, x.2.flags)) =
            ((laneResults w s.cur.tids (fun (w : Wave) n t => (⟨[], (r.holds s w n t).2⟩ : VRes))).filter
              (fun r => p r.2.flags)).map (fun x => (x.1, x.2.flags)) := by
          intro p
          rw [hres, laneResults_eq, List.filter_map, List.filter_map, List.map_map, List.map_map]
          have : ∀ n, (((w.thread n).map (comp s w n)).getD ⟨[], 0⟩).flags =
              (((w.thread n).map (fun t => (⟨[], (r.holds s w n t).2⟩ : VRes))).getD ⟨[], 0⟩).flags := by
            intro n; cases w.thread n <;> simp [hr]
          simp only [Function.comp_def, this]
        have h1 := hm1 (fun n => n / 32 % 8 != 0)
        have hA : ∀ l l' : FMap VRes, l.map (fun x => (x.1, x.2.flags)) = l'.map (fun x => (x.1, x.2.flags)) →
            allFlags l = allFlags l' ∧ l.map (·.1) = l'.map (·.1) := by
          intro l l' hl
          have a1 : ∀ l : FMap VRes, allFlags l = (l.map (fun x => (x.1, x.2.flags))).foldl (fun n e => n ||| e.2) 0 := by
            intro l; simp [allFlags, List.foldl_map]
          have a2 : ∀ l : FMap VRes, l.map (·.1) = (l.map (fun x => (x.1, x.2.flags))).map (·.1) := by
            intro l; simp
          exact ⟨by rw [a1, a1, hl], by rw [a2, a2, hl]⟩
        obtain ⟨h2, h3⟩ := hA _ _ h1
        simp only [h2, h3]
    show instability (setW s s.cur.wave v3) s.cur.wave s.cur res = _
    rw [e]
    refine instability_setW (s := s) (w := w) (v := v3) (r := q)
      (comp := fun s w n t => ⟨[], (r.holds s w n t).2⟩) rfl rfl hp ?_
    intro hne
    cases hc : w.actives s.cur.tids with
    | nil => simp [hc] at hne
    | cons n l =>
      obtain ⟨hn, t, ht, hlive⟩ := actives_thread (w := w) (tids := s.cur.tids) (n := n) (by simp [hc])
      have h3 : v3.threads[n]? = some ((F n t).retire s.cycle (actBank s w.core w.cid) f.last (s.cur.addr + 4)) := by
        have ht' : w.threads[n]? = some t := ht
        rw [hth, onTids_getElem?, ht']
        simp [hn]
      rw [List.any_eq_true]
      refine ⟨_, List.mem_of_getElem? h3, ?_⟩
      have hs := (retire_same s.cycle (actBank s w.core w.cid) f.last (s.cur.addr + 4) (F n t)).1.2.1
      have hg := (F_keeps n t).1.2.1
      exact (congrArg (fun x => x != TState.exited) (hs.trans hg)).trans hlive
  refine ⟨{ v3 with causes := v3.causes ++ r.trap s w }, ?_, ?_, ?_, ?_⟩
  · rw [runCm, runWord_next h, hb]
  · refine threads_of_onTids hth ?_
    intro n t _ _
    obtain ⟨k1, k2, k3, k4, k5, k6, k7⟩ := F_keeps n t
    have q1 := retire_retired s.cycle (actBank s w.core w.cid) f.last (s.cur.addr + 4) (F n t)
    have q2 := retire_same s.cycle (actBank s w.core w.cid) f.last (s.cur.addr + 4) (F n t)
    generalize (F n t).retire s.cycle (actBank s w.core w.cid) f.last (s.cur.addr + 4) = z at q1 q2
    obtain ⟨s1, r1, o1, w1, win1⟩ := q2
    rw [hm]
    exact ⟨by simpa only [Retired, k6, k7] using q1, sameThread_trans k1 s1, r1.trans k2, o1.trans k3, w1.trans k4,
      by rw [win1, k5]⟩
  · intro n hn
    show ((w.cm &&& ~~~who) ||| ones).getLsbD n = _
    simp only [BitVec.getLsbD_or, BitVec.getLsbD_and, BitVec.getLsbD_not, hones n hn, hn, decide_true, Bool.true_and]
    have hw : who.getLsbD n = decide (n ∈ w.actives s.cur.tids) := by
      show (maskOf tk).getLsbD n = _
      rw [maskOf_getLsbD _ _ hn, htk]
      by_cases ha : n ∈ w.actives s.cur.tids <;> simp [ha]
    rw [hw]
    by_cases ha : n ∈ w.actives s.cur.tids <;> simp [ha]
  · have hrun : v3.runx = (w.runx || spills s w f.last) := by
      show (w.runx || v2.numbered.any (fun p => s.cur.tids.contains p.1 && p.2.overruns f.last)) = _
      have ht2 : v2.threads = Machine.onTids s.cur.tids F 0 w.threads := by
        show Machine.onTids tk _ 0 w.threads = _
        have gen : ∀ k (l : List Thread), Machine.onTids tk (fun _ t => t.noteWrite lat cmKey) k l = Machine.onTids s.cur.tids F k l := by
          intro k l
          induction l generalizing k with
          | nil => rfl
          | cons x l ih =>
            simp only [Machine.onTids, ih, F, List.cons.injEq, and_true]
            by_cases hk : k ∈ tk
            · have : k ∈ s.cur.tids := (actives_thread (htk ▸ hk)).1
              simp [hk, this]
            · simp [hk]
        exact gen 0 w.threads
      rw [spill_of_onTids (s := s) (w := w) (v := v2) f.last ht2 (fun n t => (F_keeps n t).2.2.2.2.2.1)]
    rw [hm, ← hrun, ← hflags]
    rfl

/-- The addresses at which no word can be fetched, by their bits. -/
theorem offCourse_bits (a : W64) :
    offCourse a = decide (a.extractLsb' 0 2 ≠ 0#2 ∨ a.extractLsb' 56 8 ≠ 0#8) := by
  have h1 : (a.extractLsb' 0 2 ≠ 0#2) ↔ a.toNat % 4 ≠ 0 := by
    rw [Ne, ← BitVec.toNat_inj]; simp
  have h2 : (a.extractLsb' 56 8 ≠ 0#8) ↔ 2 ^ 56 ≤ a.toNat := by
    rw [Ne, ← BitVec.toNat_inj]
    simp only [BitVec.extractLsb'_toNat, Nat.shiftRight_eq_div_pow, BitVec.toNat_ofNat]
    have := a.isLt
    omega
  unfold offCourse
  rw [Bool.eq_iff_iff, decide_eq_true_iff, or_congr h1 h2]
  simp

/-- A branch answers a next state: which threads take it, and where they go. -/
theorem branch_effect {f : Form} {r : BranchForm} {s : State} {w : Wave} (h : Runs s w f.specs f.wimm f.user)
    (hl : f.last = true) {target : State → Wave → Exec → Nat → Thread → W64}
    (ht : ∀ n t, target s w s.cur n t = r.target s w n t) :
    ∃ w', runWord f (branchBody f r.link r.take target) s =
        .next (settled (astray (setW s s.cur.wave w') s.cur.wave (destination s w r) (s.cur.tids.filter (r.take s w))) s.cur.wave) ∧
      BranchEffect s w w' r := by
  let tk := s.cur.tids.filter (r.take s w)
  let G : Nat → Thread → Thread := fun n t =>
    if r.link && tk.contains n then
      ({ t with regs := putCells t.regs 0x66 true 0 (List.replicate w.nsib (s.cur.addr + 4).toNat) }.noteWrite 2
        (4 * 0x66)).noteWrite 2 (4 * 0x67)
    else t
  let next (n : Nat) : W64 :=
    if tk.contains n then (match w.thread n with
      | some t => target s w s.cur n t
      | none => s.cur.addr + 4)
    else s.cur.addr + 4
  let F : Nat → Thread → Thread := fun n t =>
    let t := (G n t).retire s.cycle (actBank s w.core w.cid) f.last (next n)
    if tk.contains n then t.tookBranch s.cycle else t
  have narrow (g : Nat → Thread → Thread) (k : Nat) (l : List Thread) :
      Machine.onTids tk g k l = Machine.onTids s.cur.tids (fun n t => if tk.contains n then g n t else t) k l := by
    induction l generalizing k with
    | nil => rfl
    | cons x l ih =>
      simp only [Machine.onTids, ih, List.cons.injEq, and_true]
      by_cases hk : k ∈ tk
      · have : k ∈ s.cur.tids := (List.mem_filter.1 hk).1
        simp [hk, this]
      · simp [hk]
  let v1 : Wave :=
    if r.link then
      w.onTids tk (fun _ t =>
        ({ t with regs := putCells t.regs 0x66 true 0 (List.replicate w.nsib (s.cur.addr + 4).toNat) }.noteWrite 2
          (4 * 0x66)).noteWrite 2 (4 * 0x67))
    else w
  have e1 : v1 = { w with threads := Machine.onTids s.cur.tids G 0 w.threads } := by
    show (if r.link then _ else _) = _
    cases hk : r.link with
    | false =>
      have idl : ∀ k (l : List Thread), Machine.onTids s.cur.tids (fun _ t => t) k l = l := by
        intro k l
        induction l generalizing k with
        | nil => rfl
        | cons x l ih => simp [Machine.onTids, ih]
      have hG : G = fun _ t => t := by funext n t; simp [G, hk]
      rw [hG, idl]
      simp
    | true =>
      have hG : G = fun n t => if tk.contains n then
          ({ t with regs := putCells t.regs 0x66 true 0 (List.replicate w.nsib (s.cur.addr + 4).toNat) }.noteWrite 2
            (4 * 0x66)).noteWrite 2 (4 * 0x67) else t := by
        funext n t; simp only [G, hk, Bool.true_and]
      rw [hG, ← narrow]
      rfl
  let v2 := (v1.retire s.cycle (actBank s w.core w.cid) s.cur.tids f.last next).onTids tk (fun _ t => t.tookBranch s.cycle)
  have hth : v2.threads = Machine.onTids s.cur.tids F 0 w.threads := by
    show Machine.onTids tk _ 0 (Machine.onTids s.cur.tids _ 0 v1.threads) = _
    rw [e1, narrow, onTids_onTids, onTids_onTids]
  have hb : branchBody f r.link r.take target s s.cur.wave w s.cur =
      astray (setW s s.cur.wave v2) s.cur.wave (destination s w r) tk := by
    have e : branchBody f r.link r.take target s s.cur.wave w s.cur = astray (setW s s.cur.wave v2) s.cur.wave next tk := rfl
    rw [e]
    have hf : ∀ n ∈ tk, next n = destination s w r n := by
      intro n hn
      have : tk.contains n = true := by simpa using hn
      simp only [next, destination, this, ↓reduceIte]
      cases w.thread n with
      | none => rfl
      | some t => simp [ht]
    have hflt : tk.filter (fun n => offCourse (next n)) = tk.filter (fun n => offCourse (destination s w r n)) :=
      List.filter_congr (fun n hn => by rw [hf n hn])
    unfold astray
    rw [hflt]
    split
    · rfl
    · rename_i n l e
      have hn : n ∈ tk := List.mem_of_mem_filter (p := fun n => offCourse (destination s w r n)) (by rw [e]; simp)
      rw [hf n hn]
  refine ⟨v2, by rw [runWord_next h, hb], ?_, ?_⟩
  · refine threads_of_onTids hth ?_
    intro n t hn htn
    have keepG : SameThread t (G n t) ∧ (G n t).opidx = t.opidx ∧ (G n t).owed = t.owed ∧ (G n t).runCount = t.runCount ∧
        (G n t).clock = t.clock := by
      simp only [G]
      split <;> simp [Thread.noteWrite, SameThread, SameBody]
    obtain ⟨k1, k2, k3, k4, k5⟩ := keepG
    have q1 := retire_retired s.cycle (actBank s w.core w.cid) f.last (next n) (G n t)
    have q2 := retire_same s.cycle (actBank s w.core w.cid) f.last (next n) (G n t)
    have hF : F n t = if tk.contains n then
        ((G n t).retire s.cycle (actBank s w.core w.cid) f.last (next n)).tookBranch s.cycle
        else (G n t).retire s.cycle (actBank s w.core w.cid) f.last (next n) := rfl
    rw [hF]
    have hmk : ((G n t).retire s.cycle (actBank s w.core w.cid) f.last (next n)).marking = true := by
      simp [Thread.retire, hl]
    generalize (G n t).retire s.cycle (actBank s w.core w.cid) f.last (next n) = z at q1 q2 hmk
    obtain ⟨s1, r1, o1, w1, win1⟩ := q2
    rw [hmk] at win1
    have tkn : tk.contains n = r.take s w n := by
      simp only [tk]
      cases hc : r.take s w n <;> simp [hc, hn]
    rw [tkn]
    have hnx : next n = if r.take s w n then r.target s w n t else s.cur.addr + 4 := by
      simp only [next, tkn, htn, ht]
    rw [hnx] at q1
    cases hc : r.take s w n with
    | true =>
      simp only [hc, ↓reduceIte] at q1
      simp only [↓reduceIte]
      refine ⟨sameThread_trans k1 s1, o1.trans k2, w1.trans k3, win1, ?_⟩
      rw [hc]
      refine ⟨?_, ?_⟩
      · obtain ⟨a1, a2, a3, a4, a5, a6, a7, a8, a9⟩ := q1
        rw [hl] at a6 a7 a8
        refine ⟨a1, a2, a3, a4, by rw [← k5]; exact a5, by rw [← k4]; exact a6, by rw [← k4]; exact a7, by rw [← k4]; exact a8, ?_⟩
        show max z.wake (s.cycle + 4) = _
        rw [a9]
        omega
      · intro key
        show zget (Cell.val 0#32) z.regs key = _
        rw [r1]
        simp only [G, tkn, hc, Bool.and_true]
        cases hk : r.link with
        | false => rfl
        | true =>
          simp only [↓reduceIte, Thread.noteWrite]
          have hs : (List.replicate w.nsib (s.cur.addr + 4).toNat) = w.sibs.map fun _ => (s.cur.addr + 4).toNat := by
            unfold Wave.nsib Wave.sibs
            split <;> rfl
          rw [hs]
          have z := zget_putCells t.regs 0x66 true 0 (w.sibs.map fun _ => (s.cur.addr + 4).toNat) key (by
            have := sibs_length w
            simp only [List.length_map]; omega)
          rw [z]
          simp [cellAfter, cell]
    | false =>
      simp only [hc, Bool.false_eq_true, ↓reduceIte] at q1
      simp only [Bool.false_eq_true, ↓reduceIte]
      refine ⟨sameThread_trans k1 s1, o1.trans k2, w1.trans k3, win1, ?_⟩
      rw [hc]
      refine ⟨?_, ?_⟩
      · rw [hl] at q1
        simpa only [Retired, k4, k5] using q1
      · rw [r1]
        have : G n t = t := by
          show (if (r.link && tk.contains n) = true then _ else t) = t
          rw [tkn, hc, Bool.and_false]
          rfl
        rw [this]
  · show ({ v1.retire s.cycle (actBank s w.core w.cid) s.cur.tids f.last next with threads := v2.threads } : Wave) = _
    have hr : (v1.retire s.cycle (actBank s w.core w.cid) s.cur.tids f.last next).runx = w.runx := by
      have e : ∀ l : List (Nat × Thread), l.any (fun p => s.cur.tids.contains p.1 && p.2.overruns true) = false := by
        intro l; simp [Thread.overruns]
      show (v1.runx || v1.numbered.any (fun p => s.cur.tids.contains p.1 && p.2.overruns f.last)) = _
      rw [hl, e, e1]
      simp
    have b (T : List Thread) (x : Bool) :
        ({ v1 with threads := T, runx := x } : Wave) = { w with threads := T, runx := x } := by
      rw [e1]
    have a : ({ v1.retire s.cycle (actBank s w.core w.cid) s.cur.tids f.last next with threads := v2.threads } : Wave) =
        { v1 with
          threads := v2.threads, runx := (v1.retire s.cycle (actBank s w.core w.cid) s.cur.tids f.last next).runx } := rfl
    rw [a, hr, b]

/-- Packed threads pass or stay at a word and come to stand there. -/
theorem retire_stands (s : State) (w : Wave) (r : StandForm) (next : W64)
    (hn : next = if r.here then s.cur.addr else s.cur.addr + 4) :
    StandEffect s w ((w.retire s.cycle (actBank s w.core w.cid) s.cur.tids r.ends (fun _ => next)).onTids s.cur.tids
      (fun _ t => { t with st := r.st, hold := r.hold })) r := by
  refine ⟨?_, ?_⟩
  · refine threads_of_onTids
      (F := fun _ t => { t.retire s.cycle (actBank s w.core w.cid) r.ends next with st := r.st, hold := r.hold }) ?_ ?_
    · show Machine.onTids _ _ 0 (Machine.onTids _ _ 0 w.threads) = _
      rw [onTids_onTids]
    · intro n t _ _
      have q1 := retire_retired s.cycle (actBank s w.core w.cid) r.ends next t
      have q2 := retire_same s.cycle (actBank s w.core w.cid) r.ends next t
      rw [hn] at *
      exact ⟨q1, q2.1.1, q2.2, rfl, rfl⟩
  · have idl : ∀ k (l : List Thread), Machine.onTids s.cur.tids (fun _ t => t) k l = l := by
      intro k l
      induction l generalizing k with
      | nil => rfl
      | cons x l ih => simp [Machine.onTids, ih]
    have h := spill_of_onTids (s := s) (w := w) (v := w) r.ends (F := fun _ t => t) (by rw [idl]) (fun _ _ => rfl)
    rw [← h]
    rfl

/-- `rcb`, a mode switch, a handler exit (06 R222, R234; 12 R372). -/
theorem standAt_effect {f : Form} {hd : Hold} {user : Bool} {s : State} {w : Wave} (h : Runs s w f.specs f.wimm f.user) :
    ∃ w', runWord f (standAt hd) s = .next (settled (setW s s.cur.wave w') s.cur.wave) ∧
      StandEffect s w w' ⟨true, user, [], true, .atRcb, hd⟩ :=
  ⟨_, runWord_next h, retire_stands s w ⟨true, user, [], true, .atRcb, hd⟩ s.cur.addr rfl⟩

/-- A word after which its threads wait at the following one (06 R223; 08 R306, R307, R310). -/
theorem pass_stands {f : Form} {st : TState} {hd : Hold} {user : Bool} (s : State) (w : Wave) :
    StandEffect s w ((passAll s w s.cur f).onTids s.cur.tids (fun _ t => { t with st := st, hold := hd }))
      ⟨f.last, user, [], false, st, hd⟩ :=
  retire_stands s w ⟨f.last, user, [], false, st, hd⟩ (s.cur.addr + 4) rfl

end Sys2Proof.Laws
end

