-- ==== Sys2Proof/Laws/Access.lean ====
section
/-! SUPPORT. What a per-lane memory word does once its checks have passed. -/

namespace Sys2Proof.Laws

open Sys2Proof.Machine Sys2Proof.Terms

/-- Active packed threads, as the tids and what stands in them. -/
theorem verdicts_eq {s : State} {w : Wave} {r : MemForm} {at_ : Nat → Place} (hp : r.Passes s w at_)
    {check : Wave → Nat → Thread → Verdict} {addr : Nat → Thread → Int}
    (hc : ∀ n t, check w n t = r.check s w n t) (ha : ∀ n t, addr n t = r.addr s w n t) :
    ((w.actives s.cur.tids).filterMap fun n => (w.thread n).map fun t => (n, addr n t, check w n t)) =
      (activeThreads s w).map fun p => (p.1, r.addr s w p.1 p.2, .ok (at_ p.1)) := by
  have hp' : ∀ n ∈ w.actives s.cur.tids, ∀ t, w.thread n = some t → r.check s w n t = .ok (at_ n) := by
    intro n hn t ht
    exact hp (n, t) (by
      simp only [activeThreads, List.mem_filterMap]
      exact ⟨n, hn, by simp [ht]⟩) |>.1
  clear hp
  unfold activeThreads
  revert hp'
  induction w.actives s.cur.tids with
  | nil => intro _; rfl
  | cons n l ih =>
    intro hp'
    have hr := ih (fun m hm => hp' m (List.mem_cons_of_mem _ hm))
    cases ht : w.thread n with
    | none => simpa [ht] using hr
    | some t =>
      have h1 := hp' n List.mem_cons_self t ht
      simp only [List.filterMap_cons, ht, Option.map_some, List.map_cons, hc, ha, h1]
      simpa [hc, ha] using hr

theorem codedOf_ok (l : List (Nat × Thread)) (a : Nat × Thread → Int) (pl : Nat → Place) :
    codedOf (l.map fun p => (p.1, a p, .ok (pl p.1))) = [] := by
  unfold codedOf; induction l with
  | nil => rfl
  | cons x l ih => simp

theorem violOf_ok (l : List (Nat × Thread)) (a : Nat × Thread → Int) (pl : Nat → Place) :
    violOf (l.map fun p => (p.1, a p, .ok (pl p.1))) = [] := by
  unfold violOf; induction l with
  | nil => rfl
  | cons x l ih => simp

theorem transOf_ok (l : List (Nat × Thread)) (a : Nat × Thread → Int) (pl : Nat → Place) :
    transOf (l.map fun p => (p.1, a p, .ok (pl p.1))) = [] := by
  unfold transOf; induction l with
  | nil => rfl
  | cons x l ih => simp

theorem placesOf_ok (l : List (Nat × Thread)) (a : Nat × Thread → Int) (pl : Nat → Place) :
    placesOf (l.map fun p => (p.1, a p, .ok (pl p.1))) = l.map fun p => (p.1, a p, pl p.1) := by
  unfold placesOf; induction l with
  | nil => rfl
  | cons x l ih => simp

theorem filterMap_some {α β : Type} (f : α → Option β) (g : α → β) (l : List α) (h : ∀ x ∈ l, f x = some (g x)) :
    l.filterMap f = l.map g := by
  induction l with
  | nil => rfl
  | cons x l ih =>
    rw [List.filterMap_cons, h x List.mem_cons_self, List.map_cons, ih (fun y hy => h y (List.mem_cons_of_mem _ hy))]

theorem mem_activeThreads {s : State} {w : Wave} {p : Nat × Thread} :
    p ∈ activeThreads s w ↔ p.1 ∈ w.actives s.cur.tids ∧ w.thread p.1 = some p.2 := by
  simp only [activeThreads, List.mem_filterMap, Option.map_eq_some_iff]
  constructor
  · rintro ⟨n, hn, t, ht, rfl⟩
    exact ⟨hn, ht⟩
  · rintro ⟨h1, h2⟩
    exact ⟨p.1, h1, p.2, h2, rfl⟩

theorem activeThreads_nil {s : State} {w : Wave} : activeThreads s w = [] ↔ w.actives s.cur.tids = [] := by
  constructor
  · intro h
    by_contra hc
    obtain ⟨n, hn⟩ := List.exists_mem_of_ne_nil _ hc
    obtain ⟨_, t, ht, _⟩ := actives_thread hn
    have := (mem_activeThreads (s := s) (w := w) (p := (n, t))).2 ⟨hn, ht⟩
    rw [h] at this
    cases this
  · intro h
    simp [activeThreads, h]

/-- Noting the writes of an access for the digests changes only what is still to be taken up, in packed threads. -/
theorem noteFolds_eq (s : State) (w : Wave) (a : Access) (tids : List Nat)
    (hs : ∀ n ∈ a.folds ++ a.lanes.map (·.tid), n ∈ tids) :
    ∃ g : Nat → List Fold, noteFolds s w a =
      { w with threads := Machine.onTids tids (fun n t => { t with folds := t.folds ++ g n }) 0 w.threads } := by
  have idl : ∀ k (l : List Thread), Machine.onTids tids (fun _ t => t) k l = l := by
    intro k l
    induction l generalizing k with
    | nil => rfl
    | cons x l ih => simp [Machine.onTids, ih]
  by_cases hk : keepsDigest s w = true
  · let own (n : Nat) : List (List Nat) :=
      if a.common then (if a.folds.contains n then a.lanes.flatMap (fun l => laneItems a (freeVal s 9100).toNat (l.stamp s w) l) else [])
      else (a.lanes.filter (fun l => l.tid == n)).flatMap (fun l => laneItems a (freeVal s 9100).toNat (l.stamp s w) l)
    refine ⟨fun n => if (a.folds ++ a.lanes.map (·.tid)).contains n && !(own n).isEmpty then [⟨a.id, 0, own n⟩] else [], ?_⟩
    have e : noteFolds s w a = w.onTids (a.folds ++ a.lanes.map (·.tid)) (fun n t =>
        if (own n).isEmpty then t else { t with folds := t.folds ++ [⟨a.id, 0, own n⟩] }) := by
      unfold noteFolds
      rw [hk]
      rfl
    rw [e]
    unfold Wave.onTids
    congr 1
    generalize a.folds ++ a.lanes.map (·.tid) = wh at *
    have gen : ∀ k (l : List Thread), Machine.onTids wh (fun n t =>
          if (own n).isEmpty then t else { t with folds := t.folds ++ [⟨a.id, 0, own n⟩] }) k l =
        Machine.onTids tids (fun n t => { t with
          folds := t.folds ++ if wh.contains n && !(own n).isEmpty then [⟨a.id, 0, own n⟩] else [] }) k l := by
      intro k l
      induction l generalizing k with
      | nil => rfl
      | cons x l ih =>
        simp only [Machine.onTids, ih, List.cons.injEq, and_true]
        by_cases hw : k ∈ wh
        · have hti := hs k hw
          by_cases ho : own k = [] <;> simp [hw, hti, ho]
        · by_cases hti : k ∈ tids <;> simp [hw, hti]
    exact gen 0 w.threads
  · refine ⟨fun _ => [], ?_⟩
    have e : noteFolds s w a = w := by
      unfold noteFolds
      rw [Bool.not_eq_true] at hk
      rw [hk]
      rfl
    rw [e]
    have : (fun (n : Nat) (t : Thread) => { t with folds := t.folds ++ ([] : List Fold) }) = fun _ t => t := by
      funext n t; simp
    rw [this, idl]

/-- A per-lane memory word whose checks pass answers a next state: its access is on its way. -/
theorem runMem_effect {f : Form} {s : State} {w : Wave} {r : MemForm} {at_ : Nat → Place}
    {addr : State → Wave → Nat → Thread → Int} {data : State → Wave → Nat → Thread → Place → List Nat} {m : MemOp}
    (h : Runs s w f.specs f.wimm f.user) (hm : r.marked = f.last) (hop : m = r.op)
    (ha : ∀ n t, addr s w n t = r.addr s w n t) (hd : ∀ n t pl, data s w n t pl = r.data s w n t pl)
    (hp : r.Passes s w at_) :
    ∃ w', runMem f m addr data s =
        .next (settled (setW { s with nextId := s.nextId + 1 } s.cur.wave w') s.cur.wave) ∧ MemEffect s w w' r at_ := by
  subst hop
  have hvs := verdicts_eq hp (check := fun w n t => r.op.check s w (addr s w n t)) (addr := addr s w)
    (fun n t => by
      simp only [MemOp.check, MemForm.check, ha, wrap]
      rfl) ha
  let L := activeThreads s w
  let pl : List (Nat × Int × Place) := L.map fun p => (p.1, r.addr s w p.1 p.2, at_ p.1)
  let acc : Access :=
    { id := s.nextId, op := r.op.op,
      lanes := pl.filterMap fun p => (w.thread p.1).map
        (fun t => (⟨p.1, wrap 64 p.2.1, p.2.2, data s w p.1 t p.2.2⟩ : Lane)),
      dest := r.op.dest.bind (fun d => longDest d.1 d.2), addr := s.cur.addr,
      word := s.cur.word, after := [], performed := false, user := w.priv.isNone, folds := [], slot := none }
  let v1 : Wave := if pl.isEmpty then w else launchAccess s w r.op.loads r.op.stores acc
  let v2 : Wave := match r.op.dest with
    | none => v1
    | some d => v1.onTids s.cur.tids (fun n t => if pl.any (fun p => p.1 == n) then t.owe (some d.1) d.2 else pushWin undefWin t)
  let v3 := v2.retire s.cycle (actBank s w.core w.cid) s.cur.tids f.last (fun _ => s.cur.addr + 4)
  let v4 := if r.op.own then v3.openSections (s.nextId + 1) s.cur.tids else v3
  have hnear (p : Nat × Int × Place) (h : p ∈ pl) : isRemote p.2.2 = false := by
    obtain ⟨q, hq, rfl⟩ := List.mem_map.1 h
    exact (hp q hq).2
  have hfar : pl.filter (fun p => isRemote p.2.2) = [] := List.filter_eq_nil_iff.2 (fun p h => by simp [hnear p h])
  have hok : pl.filter (fun p => !isRemote p.2.2) = pl := List.filter_eq_self.2 (fun p h => by simp [hnear p h])
  have hb : memBody f r.op addr data s s.cur.wave w s.cur = setW { s with nextId := s.nextId + 1 } s.cur.wave v4 := by
    unfold memBody
    simp only
    rw [hvs, codedOf_ok, violOf_ok]
    simp only [transOf_ok, placesOf_ok, List.isEmpty_nil, Bool.not_true, Bool.false_and, Bool.false_eq_true, ↓reduceIte,
      List.map_nil, List.contains_nil, Bool.not_false, Bool.true_and]
    rw [show (activeThreads s w).map (fun p => (p.1, r.addr s w p.1 p.2, at_ p.1)) = pl from rfl, hfar, hok]
    simp only [List.any_nil, Bool.not_false, List.filter_true, List.isEmpty_nil, ↓reduceIte]
    rfl
  have hlanes : acc.lanes = L.map fun p =>
      (⟨p.1, (BitVec.ofInt 64 (r.addr s w p.1 p.2)).toNat, at_ p.1, r.data s w p.1 p.2 (at_ p.1)⟩ : Lane) := by
    show List.filterMap _ (L.map _) = _
    rw [List.filterMap_map]
    refine filterMap_some _ _ _ ?_
    intro p hp
    have h0 := (mem_activeThreads.1 hp).2
    simp only [Function.comp_apply, h0, Option.map_some, hd]
    rfl
  have hdest : acc.dest = r.op.dest.bind fun d => if 0x68 ≤ d.1.toNat then none else some (4 * d.1.toNat, d.2) := by
    show r.op.dest.bind _ = _
    congr 1
    funext d
    unfold longDest destKey
    by_cases hd : d.1.toNat < 0x68
    · simp [hd, show ¬ 0x68 ≤ d.1.toNat by omega]
    · simp [hd, show 0x68 ≤ d.1.toNat by omega]
  have hacc : r.access s w at_ = { acc with after := earlier s w acc } := by
    have e2 : acc =
        ⟨s.nextId, r.op.op, L.map fun p =>
          (⟨p.1, (BitVec.ofInt 64 (r.addr s w p.1 p.2)).toNat, at_ p.1, r.data s w p.1 p.2 (at_ p.1)⟩ : Lane),
          r.op.dest.bind fun d => if 0x68 ≤ d.1.toNat then none else some (4 * d.1.toNat, d.2),
          s.cur.addr, s.cur.word, [], false, w.priv.isNone, [], none, [], s.nextId⟩ := by
      show (⟨acc.id, acc.op, acc.lanes, acc.dest, acc.addr, acc.word, acc.after, acc.performed, acc.user, acc.folds,
        acc.slot, acc.packed, acc.issued⟩ : Access) = _
      rw [hlanes, hdest]
    rw [e2]
    rfl
  have hpl : pl.isEmpty = (w.actives s.cur.tids).isEmpty := by
    cases hL : w.actives s.cur.tids with
    | nil => simp [pl, L, activeThreads_nil.2 hL]
    | cons a l =>
      have : L ≠ [] := fun hc => by
        have := activeThreads_nil.1 hc
        rw [hL] at this; cases this
      cases hq : L with
      | nil => exact absurd hq this
      | cons _ _ => simp [pl, hq]
  obtain ⟨g, hg⟩ : ∃ g : Nat → List Fold, v1 =
      { w with
        threads := Machine.onTids s.cur.tids (fun n t => { t with folds := t.folds ++ g n }) 0 w.threads,
        accs := w.accs ++ if decide (w.actives s.cur.tids ≠ []) then [r.access s w at_] else [],
        ldq := w.ldq ++ if decide (w.actives s.cur.tids ≠ []) then List.replicate r.op.loads (s.nextId, false) else [],
        stq := w.stq ++ if decide (w.actives s.cur.tids ≠ []) then List.replicate r.op.stores (s.nextId, false) else [] } := by
    have idl : ∀ k (l : List Thread), Machine.onTids s.cur.tids (fun _ t => t) k l = l := by
      intro k l
      induction l generalizing k with
      | nil => rfl
      | cons x l ih => simp [Machine.onTids, ih]
    show ∃ g, (if pl.isEmpty then w else _) = _
    rw [hpl]
    by_cases hc : w.actives s.cur.tids = []
    · refine ⟨fun _ => [], ?_⟩
      simp [hc, idl]
    · have hne : (w.actives s.cur.tids).isEmpty = false := by simp [hc]
      obtain ⟨g, hg⟩ := noteFolds_eq s (addAccess w (r.access s w at_)) (r.access s w at_) s.cur.tids (by
        intro n hn
        rw [hacc] at hn
        simp only [List.mem_append, List.mem_map] at hn
        rcases hn with hn | ⟨x, hx, rfl⟩
        · simp [acc] at hn
        · simp only [hlanes, List.mem_map] at hx
          obtain ⟨p, hp, rfl⟩ := hx
          exact (actives_thread (mem_activeThreads.1 hp).1).1)
      refine ⟨g, ?_⟩
      rw [hne]
      simp only [Bool.false_eq_true, ↓reduceIte, launchAccess]
      rw [← hacc, hg]
      have hid : acc.id = s.nextId := rfl
      simp [hc, addAccess, MemForm.access, hid]
  let G : Nat → Thread → Thread := fun n t =>
    match r.op.dest with
    | none => { t with folds := t.folds ++ g n }
    | some d =>
      if pl.any (fun p => p.1 == n) then ({ t with folds := t.folds ++ g n } : Thread).owe (some d.1) d.2
      else pushWin undefWin { t with folds := t.folds ++ g n }
  let R : Nat → Thread → Thread := fun n t =>
    let t := (G n t).retire s.cycle (actBank s w.core w.cid) f.last (s.cur.addr + 4)
    if r.op.own then t.openSection (s.nextId + 1) w.xblk (w.em.getLsbD n) (w.cm.getLsbD n) t.pc else t
  have e2 : v2 = { v1 with threads := Machine.onTids s.cur.tids G 0 w.threads } := by
    show (match r.op.dest with | none => v1 | some d => _) = _
    have ht1 : v1.threads = Machine.onTids s.cur.tids (fun n t => { t with folds := t.folds ++ g n }) 0 w.threads := by
      rw [hg]
    cases hdst : r.op.dest with
    | none =>
      have : G = fun n t => { t with folds := t.folds ++ g n } := by funext n t; simp only [G, hdst]
      rw [this, ← ht1]
    | some d =>
      have : G = fun n t =>
          if pl.any (fun p => p.1 == n) then ({ t with folds := t.folds ++ g n } : Thread).owe (some d.1) d.2
          else pushWin undefWin { t with folds := t.folds ++ g n } := by funext n t; simp only [G, hdst]
      rw [this]
      show ({ v1 with threads := Machine.onTids _ _ 0 v1.threads } : Wave) = _
      rw [ht1, onTids_onTids]
  have hth : v4.threads = Machine.onTids s.cur.tids R 0 w.threads := by
    have h3 : v3.threads = Machine.onTids s.cur.tids
        (fun n t => (G n t).retire s.cycle (actBank s w.core w.cid) f.last (s.cur.addr + 4)) 0 w.threads := by
      show Machine.onTids _ _ 0 v2.threads = _
      rw [e2]
      show Machine.onTids _ _ 0 (Machine.onTids s.cur.tids G 0 w.threads) = _
      rw [onTids_onTids]
    have hxe : v3.xblk = w.xblk ∧ v3.em = w.em ∧ v3.cm = w.cm := by
      have a : v3.xblk = v2.xblk ∧ v3.em = v2.em ∧ v3.cm = v2.cm := ⟨rfl, rfl, rfl⟩
      rw [e2] at a
      rw [hg] at a
      exact a
    show (if r.op.own then v3.openSections (s.nextId + 1) s.cur.tids else v3).threads = _
    cases hown : r.op.own with
    | false =>
      rw [if_neg (by decide), h3]
      simp only [R, hown, Bool.false_eq_true, ↓reduceIte]
    | true =>
      rw [if_pos rfl]
      show Machine.onTids _ _ 0 v3.threads = _
      rw [h3, onTids_onTids]
      obtain ⟨x1, x2, x3⟩ := hxe
      rw [x1, x2, x3]
      simp only [R, hown, ↓reduceIte]
  have keepG (n : Nat) (t : Thread) : (G n t).st = t.st ∧ (G n t).hold = t.hold ∧ (G n t).lidx = t.lidx ∧
      (G n t).cohort = t.cohort ∧ (G n t).siding = t.siding ∧ (G n t).digest = t.digest ∧
      (G n t).folds = t.folds ++ g n ∧ (G n t).regs = t.regs ∧ (G n t).opidx = t.opidx ∧ (G n t).sec = t.sec ∧
      (G n t).runCount = t.runCount ∧ (G n t).clock = t.clock := by
    simp only [G]
    split
    · simp
    · rename_i d _
      split
      · unfold Thread.owe
        by_cases hdd : d.1.toNat < 0x68 <;> simp [hdd, pushWin]
      · simp [pushWin]
  have anyPl (n : Nat) (t : Thread) (ht : w.thread n = some t) :
      pl.any (fun p => p.1 == n) = decide (n ∈ w.actives s.cur.tids) := by
    by_cases hn : n ∈ w.actives s.cur.tids
    · rw [decide_eq_true hn, List.any_eq_true]
      exact ⟨(n, r.addr s w n t, at_ n), List.mem_map.2 ⟨(n, t), mem_activeThreads.2 ⟨hn, ht⟩, rfl⟩, by simp⟩
    · rw [decide_eq_false hn, List.any_eq_false]
      intro p hp hc
      obtain ⟨q, hq, rfl⟩ := List.mem_map.1 hp
      simp only [beq_iff_eq] at hc
      exact hn (hc ▸ (mem_activeThreads.1 hq).1)
  refine ⟨v4, by rw [runMem, runWord_next h, hb], ?_, ?_⟩
  · refine threads_of_onTids hth ?_
    intro n t hn ht
    obtain ⟨k1, k2, k3, k4, k5, k6, k7, k8, k9, k10, k11, k12⟩ := keepG n t
    have q1 := retire_retired s.cycle (actBank s w.core w.cid) f.last (s.cur.addr + 4) (G n t)
    have q2 := retire_same s.cycle (actBank s w.core w.cid) f.last (s.cur.addr + 4) (G n t)
    have hR : R n t = if r.op.own then
        ((G n t).retire s.cycle (actBank s w.core w.cid) f.last (s.cur.addr + 4)).openSection (s.nextId + 1) w.xblk
          (w.em.getLsbD n) (w.cm.getLsbD n) (s.cur.addr + 4)
        else (G n t).retire s.cycle (actBank s w.core w.cid) f.last (s.cur.addr + 4) := rfl
    rw [hR]
    generalize (G n t).retire s.cycle (actBank s w.core w.cid) f.last (s.cur.addr + 4) = z at q1 q2
    obtain ⟨⟨⟨b1, b2, b3, b4, b5, b6⟩, b7, b8⟩, r1, o1, w1, win1⟩ := q2
    have base : Retired (s.cycle + 2) r.marked (s.cur.addr + 4) t z := by
      rw [hm]; simpa only [Retired, k11, k12] using q1
    have hdst : (match r.op.dest with
      | none => z.owed = t.owed ∧ z.win = if z.marking then [] else t.win
      | some d =>
        z.owed = (if n ∈ w.actives s.cur.tids then owedKeys d.1 d.2 else []) ++ t.owed ∧
          z.win = if z.marking then [] else (undefWin :: t.win).take 8) := by
      cases hds : r.op.dest with
      | none =>
        have : G n t = { t with folds := t.folds ++ g n } := by simp only [G, hds]
        rw [this] at w1 win1
        exact ⟨w1, win1⟩
      | some d =>
        have : G n t = if pl.any (fun p => p.1 == n) then ({ t with folds := t.folds ++ g n } : Thread).owe (some d.1) d.2
          else pushWin undefWin { t with folds := t.folds ++ g n } := by simp only [G, hds]
        rw [anyPl n t ht] at this
        show z.owed = (if n ∈ w.actives s.cur.tids then owedKeys d.1 d.2 else []) ++ t.owed ∧
          z.win = if z.marking then [] else (undefWin :: t.win).take 8
        by_cases hn' : n ∈ w.actives s.cur.tids
        · rw [if_pos (by simpa using hn')] at this
          rw [this] at w1 win1
          rw [if_pos hn']
          unfold owedKeys
          unfold Thread.owe at w1 win1
          by_cases hdd : d.1.toNat < 0x68
          · have hdd' : ¬ 0x68 ≤ d.1.toNat := by omega
            cases hwide : d.2 <;> simp only [hdd, hdd', hwide, ↓reduceIte, pushWin, Bool.false_eq_true] at w1 win1 ⊢ <;>
              exact ⟨w1, win1⟩
          · have hdd' : 0x68 ≤ d.1.toNat := by omega
            simp only [hdd, hdd', ↓reduceIte, pushWin] at w1 win1 ⊢
            exact ⟨w1, win1⟩
        · rw [if_neg (by simpa using hn')] at this
          rw [this] at w1 win1
          rw [if_neg hn']
          exact ⟨w1, win1⟩
    cases hown : r.op.own with
    | false =>
      rw [if_neg (by decide)]
      refine ⟨base, b7.trans k1, b8.trans k2, b1.trans k3, b2.trans k4, b4.trans k5, b5.trans k6, ⟨g n, b6.trans k7⟩,
        r1.trans k8, o1.trans k9, hdst, ?_⟩
      rw [hown, if_neg (by decide)]
      exact b3.trans k10
    | true =>
      rw [if_pos rfl]
      refine ⟨base, b7.trans k1, b8.trans k2, b1.trans k3, b2.trans k4, b4.trans k5, b5.trans k6, ⟨g n, b6.trans k7⟩,
        r1.trans k8, o1.trans k9, hdst, ?_⟩
      rw [hown, if_pos rfl]
      show (⟨s.cur.addr + 4, z.opidx, 0xFFFFF, true, z.regs, _, _, z.digest, _, z.folds, _⟩ : Section) =
        ⟨s.cur.addr + 4, t.opidx, 0xFFFFF, true, t.regs, _, _, t.digest, _, z.folds, _⟩
      rw [o1, k9, r1, k8, b5, k6]
  · have hrun : v3.runx = (w.runx || spills s w f.last) := by
      show (v2.runx || v2.numbered.any (fun p => s.cur.tids.contains p.1 && p.2.overruns f.last)) = _
      rw [spill_of_onTids (s := s) (w := w) (v := v2) (F := G) f.last (by rw [e2])
        (fun n t => (keepG n t).2.2.2.2.2.2.2.2.2.2.1), e2, hg]
    have a4 : v4 = { v2 with threads := v4.threads, runx := v3.runx } := by
      show (if r.op.own then v3.openSections (s.nextId + 1) s.cur.tids else v3) = _
      cases hown : r.op.own with
      | false =>
        have : v4 = v3 := by show (if r.op.own then _ else v3) = v3; rw [hown]; rfl
        rw [if_neg (by decide), this]
        rfl
      | true =>
        have : v4 = v3.openSections (s.nextId + 1) s.cur.tids := by show (if r.op.own then _ else v3) = _; rw [hown]; rfl
        rw [if_pos rfl, this]
        rfl
    have b (T : List Thread) (x : Bool) : ({ v2 with threads := T, runx := x } : Wave) =
        { w with
          threads := T, runx := x, accs := w.accs ++ if decide (w.actives s.cur.tids ≠ []) then [r.access s w at_] else [],
          ldq := w.ldq ++ if decide (w.actives s.cur.tids ≠ []) then List.replicate r.op.loads (s.nextId, false) else [],
          stq := w.stq ++ if decide (w.actives s.cur.tids ≠ []) then List.replicate r.op.stores (s.nextId, false) else [] } := by
      rw [e2, hg]
    rw [b, hrun, ← hm] at a4
    exact a4

end Sys2Proof.Laws
end

