-- ==== Sys2Proof/Laws/Ints.lean ====
section
/-! SUPPORT. The shapes of integer instructions: what each does, given what its operation is on bit vectors. -/

namespace Sys2Proof.Laws

open Sys2Proof.Machine Sys2Proof.Terms

theorem sibs_le (w : Wave) : w.sibs.length ≤ 3 := by unfold Wave.sibs; split <;> simp

theorem read32 (s : State) (w : Wave) (n : Nat) (t : Thread) (k port : Nat) (p : Spec) :
    readOp s w n t k port p false < 2 ^ 32 := by simpa using readOp_lt s w n t k port p false

theorem read64 (s : State) (w : Wave) (n : Nat) (t : Thread) (k port : Nat) (p : Spec) :
    readOp s w n t k port p true < 2 ^ 64 := by simpa using readOp_lt s w n t k port p true

/-- A block always held may be named or not. -/
theorem runs_zero {s : State} {w : Wave} {l : List Spec} {i u : Bool} (h : Runs s w l i u) :
    Runs s w (l ++ [0x00#7]) i u := by
  obtain ⟨h1, h2, h3, h4⟩ := h
  refine ⟨h1, h2, h3, h4.imp id fun h p hp => ?_⟩
  rcases List.mem_append.mp hp with hp | hp
  · exact h p hp
  · rw [List.mem_singleton.mp hp]
    simp [Wave.lacks]

/-- What a flagless result of the fixed-latency shapes does, when the words agree value by value. -/
theorem plainVec_effect {f : Form} {d : Spec} {wide : Bool} {lat rc : Nat} {comp : State → Wave → Nat → Thread → VRes}
    {s : State} {w : Wave} {names : List Spec} {imm : Bool} {vals : State → Wave → Nat → Thread → Nat → Nat}
    (h : Runs s w f.specs f.wimm f.user)
    (hc : ∀ s w n t, comp s w n t = ⟨w.sibs.map (vals s w n t), 0⟩) :
    ∃ w', VecEffect s w w' ⟨f.last, d, names, wide, imm, lat, rc, fun s w n t => each w (vals s w n t)⟩ ∧
      runVec f d wide lat rc comp s = .next (settled (setW s s.cur.wave w') s.cur.wave) := by
  obtain ⟨w', h1, h2⟩ := runVec_form (comp := comp) (r := ⟨f.last, d, names, wide, imm, lat, rc, fun s w n t => each w (vals s w n t)⟩) h
    ⟨rfl, rfl, rfl, rfl, rfl⟩ (fun s w n t => by rw [hc]; rfl) (fun n t => by simp [each, sibs_le w])
    (Or.inr (trap_nil (fun _ _ => rfl)))
  exact ⟨w', h2, h1⟩

/-- V3 instructions of 32 bits. -/
theorem run32_effect {m : Bool} {d a b : Spec} {op : Nat → Nat → Nat} {f : W32 → W32 → W32} {s : State} {w : Wave}
    {names : List Spec} (h : Runs s w [d, a, b] false false)
    (hf : ∀ x y, x < 2 ^ 32 → y < 2 ^ 32 → op x y = (f (BitVec.ofNat 32 x) (BitVec.ofNat 32 y)).toNat) :
    ∃ w', VecEffect s w w' ⟨m, d, names, false, false, 2, 0,
        fun s w n t => each w fun k => (f (rd32 s w n t k 1 a) (rd32 s w n t k 2 b)).toNat⟩ ∧
      run32 m d a b op s = .next (settled (setW s s.cur.wave w') s.cur.wave) := by
  have hm : (Form.v3 m [d, a, b]).last = m := by cases m <;> rfl
  have := plainVec_effect (f := Form.v3 m [d, a, b]) (d := d) (wide := false) (lat := 2) (rc := 0) (names := names) (imm := false)
    (comp := perSibling a b false false op)
    (vals := fun s w n t k => (f (rd32 s w n t k 1 a) (rd32 s w n t k 2 b)).toNat) (s := s) (w := w) h
    (fun s w n t => by
      simp only [perSibling, rd32]
      congr 1
      exact List.map_congr_left fun k _ => hf _ _ (read32 ..) (read32 ..))
  rwa [hm] at this

/-- V3 instructions of 64 bits. -/
theorem run64_effect {m : Bool} {d a b : Spec} {op : Nat → Nat → Nat} {f : W64 → W64 → W64} {s : State} {w : Wave}
    {names : List Spec} (h : Runs s w [d, a, b] false false)
    (hf : ∀ x y, x < 2 ^ 64 → y < 2 ^ 64 → op x y = (f (BitVec.ofNat 64 x) (BitVec.ofNat 64 y)).toNat) :
    ∃ w', VecEffect s w w' ⟨m, d, names, true, false, 6, 0,
        fun s w n t => each w fun k => (f (rd64 s w n t k 1 a) (rd64 s w n t k 2 b)).toNat⟩ ∧
      run64 m d a b true op s = .next (settled (setW s s.cur.wave w') s.cur.wave) := by
  have hm : (Form.v3 m [d, a, b]).last = m := by cases m <;> rfl
  have := plainVec_effect (f := Form.v3 m [d, a, b]) (d := d) (wide := true) (lat := 6) (rc := 0) (names := names) (imm := false)
    (comp := perSibling a b true true op)
    (vals := fun s w n t k => (f (rd64 s w n t k 1 a) (rd64 s w n t k 2 b)).toNat) (s := s) (w := w) h
    (fun s w n t => by
      simp only [perSibling, rd64]
      congr 1
      exact List.map_congr_left fun k _ => hf _ _ (read64 ..) (read64 ..))
  rwa [hm] at this

/-- Shifts of 64 bits. -/
theorem shift64_effect {m : Bool} {d a b : Spec} {op : Nat → Nat → Nat} {f : W64 → Nat → W64} {s : State} {w : Wave}
    {names : List Spec} (h : Runs s w [d, a, b] false false)
    (hf : ∀ x y, x < 2 ^ 64 → op x y = (f (BitVec.ofNat 64 x) (y % 64)).toNat) :
    ∃ w', VecEffect s w w' ⟨m, d, names, true, false, 6, 0,
        fun s w n t => each w fun k => (f (rd64 s w n t k 1 a) ((rd32 s w n t k 2 b).toNat % 64)).toNat⟩ ∧
      run64 m d a b false op s = .next (settled (setW s s.cur.wave w') s.cur.wave) := by
  have hm : (Form.v3 m [d, a, b]).last = m := by cases m <;> rfl
  have := plainVec_effect (f := Form.v3 m [d, a, b]) (d := d) (wide := true) (lat := 6) (rc := 0) (names := names) (imm := false)
    (comp := perSibling a b true false op)
    (vals := fun s w n t k => (f (rd64 s w n t k 1 a) ((rd32 s w n t k 2 b).toNat % 64)).toNat) (s := s) (w := w) h
    (fun s w n t => by
      simp only [perSibling, rd64, rd32]
      congr 1
      refine List.map_congr_left fun k _ => ?_
      rw [hf _ _ (read64 ..), BitVec.toNat_ofNat, Nat.mod_eq_of_lt (read32 ..)])
  rwa [hm] at this

theorem viImm32 (p : Option Nat) (i : BitVec 7) : viImm p i 32 = (imm32 p i).toNat := by
  cases p <;> simp [viImm, imm32, sext_eq, BitVec.signExtend_eq]

theorem viImm64 (p : Option Nat) (i : BitVec 7) : viImm p i 64 = (imm64 p i).toNat := by
  cases p <;> simp [viImm, imm64, sext_eq]

/-- VI instructions of 32 bits. -/
theorem run32Imm_effect {m : Bool} {d a : Spec} {i : BitVec 7} {op : Nat → Nat → Nat} {f : W32 → W32 → W32} {s : State}
    {w : Wave} {names : List Spec} (h : Runs s w [d, a] true false)
    (hf : ∀ x y, x < 2 ^ 32 → y < 2 ^ 32 → op x y = (f (BitVec.ofNat 32 x) (BitVec.ofNat 32 y)).toNat) :
    ∃ w', VecEffect s w w' ⟨m, d, names, false, true, 2, 0,
        fun s w n t => each w fun k => (f (rd32 s w n t k 1 a) (imm32 s.cur.wimm i)).toNat⟩ ∧
      run32Imm m d a i op s = .next (settled (setW s s.cur.wave w') s.cur.wave) := by
  have hm : (Form.vi m [d, a]).last = m := by cases m <;> rfl
  have := plainVec_effect (f := Form.vi m [d, a]) (d := d) (wide := false) (lat := 2) (rc := 0) (names := names) (imm := true)
    (comp := perSiblingImm a false i op)
    (vals := fun s w n t k => (f (rd32 s w n t k 1 a) (imm32 s.cur.wimm i)).toNat) (s := s) (w := w) h
    (fun s w n t => by
      simp only [perSiblingImm, rd32, Bool.false_eq_true, if_false]
      congr 1
      refine List.map_congr_left fun k _ => ?_
      rw [viImm32, hf _ _ (read32 ..) (imm32 s.cur.wimm i).isLt, BitVec.ofNat_toNat, BitVec.setWidth_eq])
  rwa [hm] at this

end Sys2Proof.Laws
end

