-- ==== Sys2Proof/Laws/Memory.lean ====
section
/-! SUPPORT. Memory keeps its canonical form (log 3): one lemma for each operation that writes device or host memory, and what
a byte reads after the plain ones. -/

namespace Sys2Proof.Laws

open Sys2Proof.Machine

theorem wf_iff {m : FMap Byte} : Memory.wf m = true ↔ keysFrom 0 m = true ∧ ∀ e ∈ m, e.2 ≠ 0#8 := by
  simp only [Memory.wf, Bool.and_eq_true, List.all_eq_true, bne_iff_ne]

theorem wf_nil : Memory.wf [] = true := rfl

/-- The memory that reset leaves. -/
theorem wf_reset : Memory.wf State.reset.mem = true := rfl

theorem wf_filter {m : FMap Byte} (p : Nat × Byte → Bool) (h : Memory.wf m = true) : Memory.wf (m.filter p) = true := by
  rw [wf_iff] at h ⊢
  exact ⟨keysFrom_filter p h.1, fun e he => h.2 e (List.mem_filter.1 he).1⟩

theorem wf_zset {m : FMap Byte} (a : Nat) (b : Byte) (h : Memory.wf m = true) : Memory.wf (zset 0#8 m a b) = true := by
  unfold zset
  split
  · rw [mdel_eq_filter]; exact wf_filter _ h
  · rename_i hb
    rw [wf_iff] at h ⊢
    refine ⟨keysFrom_mset a b h.1 (Nat.zero_le a), fun e he => ?_⟩
    rcases mem_mset he with rfl | he
    · exact hb
    · exact h.2 e he

theorem wf_putBytes {m : FMap Byte} (a : Nat) (bs : List Byte) (h : Memory.wf m = true) :
    Memory.wf (putBytes m a bs) = true := by
  induction bs generalizing m a with
  | nil => exact h
  | cons b l ih => exact ih (a + 1) (wf_zset a b h)

theorem wf_putList {m : FMap Byte} (bs : List (Nat × Byte)) (h : Memory.wf m = true) : Memory.wf (putList m bs) = true := by
  induction bs generalizing m with
  | nil => exact h
  | cons b l ih => exact ih (wf_zset b.1 b.2 h)

theorem wf_clearRange {m : FMap Byte} (lo n : Nat) (h : Memory.wf m = true) : Memory.wf (clearRange lo n m) = true :=
  wf_filter _ h

/-- A fold whose step keeps a property keeps it. -/
theorem foldl_keeps {α β : Type} {P : α → Prop} {f : α → β → α} (hf : ∀ a b, P a → P (f a b)) (l : List β) {a : α} (h : P a) :
    P (l.foldl f a) := by
  induction l generalizing a with
  | nil => exact h
  | cons b l ih => exact ih (hf a b h)

/-- Bytes of one map put into another at moved addresses. -/
theorem wf_moved {m : FMap Byte} (old : FMap Byte) (f : Nat × Byte → Nat) (h : Memory.wf m = true) :
    Memory.wf (old.foldl (fun m e => zset 0#8 m (f e) e.2) m) = true :=
  foldl_keeps (P := fun m => Memory.wf m = true) (fun _ e hm => wf_zset (f e) e.2 hm) old h

/-- Both memories of a state in which neither changed. -/
theorem memoryOk_same {s t : State} (hm : t.mem = s.mem) (hh : t.hostMem = s.hostMem) (h : MemoryOk s) : MemoryOk t := by
  unfold MemoryOk at h ⊢; rw [hm, hh]; exact h

theorem memoryOk_writeHome {s : State} (pa : Nat) (bs : List Byte) (h : MemoryOk s) : MemoryOk (writeHome s pa bs) :=
  ⟨wf_putBytes pa bs h.1, h.2⟩

theorem memoryOk_writeHomeList {s : State} (bs : List (Nat × Byte)) (h : MemoryOk s) : MemoryOk (writeHomeList s bs) :=
  ⟨wf_putList bs h.1, h.2⟩

theorem memoryOk_writeDie {s : State} (d pa : Nat) (bs : List Byte) (h : MemoryOk s) : MemoryOk (writeDie s d pa bs) :=
  ⟨wf_putBytes pa bs h.1, h.2⟩

theorem memoryOk_writeDieList {s : State} (d : Nat) (bs : List (Nat × Byte)) (h : MemoryOk s) : MemoryOk (writeDieList s d bs) :=
  ⟨wf_putList bs h.1, h.2⟩

theorem memoryOk_host {s : State} (a : Nat) (bs : List Byte) (h : MemoryOk s) :
    MemoryOk { s with hostMem := putBytes s.hostMem a bs } := ⟨h.1, wf_putBytes a bs h.2⟩

theorem memoryOk_putHost {s : State} (cid : Nat) (l : List (Nat × Byte)) (h : MemoryOk s) : MemoryOk (putHost s cid l) :=
  ⟨h.1, wf_putList l h.2⟩

theorem memoryOk_sysWrite {s : State} (a : Nat) (bs : List Byte) (h : MemoryOk s) : MemoryOk (sysWrite s a bs) := by
  unfold sysWrite
  split
  · exact memoryOk_writeHome a bs h
  · exact memoryOk_host a bs h

theorem memoryOk_sbPut {s : State} (pl : SbPlace) (bs : List Byte) (h : MemoryOk s) : MemoryOk (sbPut s pl bs) := by
  unfold sbPut
  split
  · exact foldl_keeps (P := MemoryOk) (fun _ pa hs => memoryOk_writeHome pa bs hs) _ h
  · exact memoryOk_host _ bs h
  · exact h

theorem memoryOk_writeFrame {s : State} (pa : Nat) (fs : List (Nat × Nat × Nat)) (h : MemoryOk s) :
    MemoryOk (writeFrame s pa fs) := by
  refine ⟨foldl_keeps (P := fun m => Memory.wf m = true) (fun m f hm => ?_) fs (wf_clearRange _ _ (wf_clearRange _ _ h.1)), h.2⟩
  split
  · exact hm
  · exact wf_putBytes _ _ hm

theorem memoryOk_wipeStretch {s : State} (r : Nat × Nat) (h : MemoryOk s) : MemoryOk (wipeStretch s r) :=
  ⟨wf_clearRange _ _ h.1, h.2⟩

theorem memoryOk_putImage {s : State} (pa n off : Nat) (img : FMap Byte) (h : MemoryOk s) : MemoryOk (putImage s pa n off img) :=
  ⟨wf_moved _ (fun e => pa + (e.1 - off)) (wf_clearRange pa n h.1), h.2⟩

theorem memoryOk_poisonGranule {s : State} (g : Nat) (h : MemoryOk s) : MemoryOk (poisonGranule s g) := by
  unfold poisonGranule
  split
  · exact h
  · exact h

theorem memoryOk_putUser {s : State} (cid core : Nat) (home : Bool) (pas : List Nat) (bs : List Byte) (h : MemoryOk s) :
    MemoryOk (putUser s cid core home pas bs) := by
  unfold putUser
  cases home
  · exact memoryOk_writeDieList _ _ h
  · exact memoryOk_writeHomeList _ h

theorem memoryOk_userStore {s : State} (cid core va : Nat) (bs : List Byte) (home : Bool) (h : MemoryOk s) :
    MemoryOk (userStore s cid core va bs home).1 := by
  unfold userStore
  dsimp only
  split
  any_goals exact h
  any_goals exact memoryOk_putHost _ _ h
  all_goals
    split
    · exact h
    · split
      · exact memoryOk_poisonGranule _ h
      · exact memoryOk_putUser _ _ _ _ _ h

theorem memoryOk_tryStore {s : State} (cid core va : Nat) (bs : List Byte) (h : MemoryOk s) : MemoryOk (tryStore s cid core va bs) :=
  memoryOk_userStore cid core va bs true h

theorem memoryOk_tagWrite {s : State} (cid core : Nat) (ps : List (Nat × Nat)) (h : MemoryOk s) : MemoryOk (tagWrite s cid core ps) := h

theorem memoryOk_event {s : State} (fn kind unit info : Nat) (h : MemoryOk s) : MemoryOk (event s fn kind unit info) := by
  unfold event
  split
  · exact h
  · dsimp only
    split
    · exact h
    · exact memoryOk_sysWrite _ _ h

theorem memoryOk_devError {s : State} (cls unit cid part paddr : Nat) (h : MemoryOk s) :
    MemoryOk (devError s cls unit cid part paddr) := by
  unfold devError
  dsimp only
  split
  · exact memoryOk_event _ _ _ _ (memoryOk_writeHome _ _ (memoryOk_writeHome _ _ h))
  · exact memoryOk_event _ _ _ _ h

theorem memoryOk_freezeFn {s : State} (fn pa : Nat) (h : MemoryOk s) : MemoryOk (freezeFn s fn pa) := memoryOk_event _ _ _ _ h

theorem memoryOk_putShare {s : State} (u off : Nat) (bs : List Byte) (h : MemoryOk s) : MemoryOk (putShare s u off bs) := by
  refine memoryOk_same ?_ ?_ h <;> simp [putShare, modU]

/-- A page of a versioned range that is inherited (04 R169). -/
theorem memoryOk_inherit {s : State} (vrn pidx : Nat) (h : MemoryOk s) : MemoryOk (inherit s vrn pidx) := by
  unfold inherit
  split
  · exact h
  · split
    · exact h
    · split
      · exact h
      · exact ⟨wf_moved _ _ (wf_filter _ h.1), h.2⟩

theorem memoryOk_apWrite {s : State} (u lidx : Nat) (key : Option Nat) (n v : Nat) (h : MemoryOk s) :
    MemoryOk (apWrite s u lidx key n v) := by
  unfold apWrite
  split
  · split
    · exact h
    · exact h
  · exact h

/-- A lane's data written at its place (08 R295). -/
theorem memoryOk_storeAt {s : State} (d cid core : Nat) (l : Lane) (n : Nat) (data : List Nat) (h : MemoryOk s) :
    MemoryOk (storeAt s d cid core l n data) := by
  unfold storeAt
  dsimp only
  have h' := memoryOk_tagWrite cid core (devPieces s l.place n l.va) h
  split
  · exact memoryOk_writeDie _ _ _ h'
  · exact memoryOk_writeDieList _ _ h'
  · exact memoryOk_writeDie _ _ _ h'
  · exact memoryOk_putHost _ _ h'
  · exact memoryOk_putShare _ _ _ h'
  · exact memoryOk_apWrite _ _ _ _ _ h'
  · exact h'

/-- A byte after bytes were put. -/
theorem zget_putBytes (m : FMap Byte) (pa a : Nat) (bs : List Byte) :
    zget 0#8 (putBytes m pa bs) a = if pa ≤ a then bs[a - pa]?.getD (zget 0#8 m a) else zget 0#8 m a := by
  induction bs generalizing m pa with
  | nil => simp [putBytes]
  | cons b l ih =>
    simp only [putBytes, ih, zget_zset]
    rcases Nat.lt_trichotomy a pa with h | rfl | h
    · simp [show ¬pa + 1 ≤ a by omega, show ¬pa ≤ a by omega, show a ≠ pa by omega]
    · simp [show ¬a + 1 ≤ a by omega]
    · obtain ⟨k, rfl⟩ : ∃ k, a = pa + 1 + k := ⟨a - (pa + 1), by omega⟩
      simp [show pa + 1 + k - (pa + 1) = k by omega, show pa + 1 + k - pa = k + 1 by omega, show pa ≤ pa + 1 + k by omega,
        show pa + 1 + k ≠ pa by omega]

theorem mget_clearRange (lo n a : Nat) (m : FMap Byte) :
    mget (clearRange lo n m) a = if lo ≤ a ∧ a < lo + n then none else mget m a := by
  unfold clearRange
  induction m with
  | nil => simp [mget]
  | cons e m ih =>
    obtain ⟨k, v⟩ := e
    by_cases hk : k < lo ∨ lo + n ≤ k
    · by_cases ha : a = k
      · subst ha
        simp [mget, hk, show ¬(lo ≤ a ∧ a < lo + n) by omega]
      · simp [mget, hk, ih, ha]
    · by_cases ha : a = k
      · subst ha
        simp [hk, ih, show lo ≤ a ∧ a < lo + n by omega]
      · simp [mget, hk, ih, ha]

end Sys2Proof.Laws
end

