-- ==== Sys2Proof/Laws/PerInstr.lean ====
section
/-! SUPPORT. Statements about instructions as syntax, one lemma for each constructor. `WordFits`: the word that encodes an
instruction has 32 bits (05 R173). -/

namespace Sys2Proof.Laws.WordFits

/-- The word of the instruction, if it has one, has 32 bits. -/
def Statement (i : Instr) : Prop := ∀ n, encode i = some n → n < 2 ^ 32

theorem mk_le (m : Bool) : mk m ≤ 2147483648 := by cases m <;> decide

theorem sb_le (b : Bool) (lo : Nat) : sb b lo ≤ 1 * 2 ^ lo := by cases b <;> simp [sb]

theorem sv_le {n : Nat} (x : BitVec n) (lo : Nat) : sv x lo ≤ (2 ^ n - 1) * 2 ^ lo := by
  have h := x.isLt
  exact Nat.mul_le_mul_right _ (by omega)

theorem rm_le (r : RM) (lo : Nat) : r.code * 2 ^ lo ≤ 7 * 2 ^ lo := Nat.mul_le_mul_right _ (by cases r <;> decide)

/-- Every field stays below a bound of its own. -/
inductive Below : List Nat → List Nat → Prop where
  | nil : Below [] []
  | cons {a b : Nat} {l u : List Nat} : a ≤ b → Below l u → Below (a :: l) (b :: u)

theorem pk_le {base : Nat} {l u : List Nat} (h : Below l u) : pk base l ≤ pk base u := by
  induction h with
  | nil => exact Nat.le_refl _
  | cons hab _ ih => exact Nat.add_le_add ih hab

theorem of_below {i : Instr} {base : Nat} {l u : List Nat} (he : encode i = some (pk base l)) (h : Below l u)
    (hu : pk base u < 2 ^ 32) : Statement i := by
  intro n hn
  rw [he] at hn
  cases hn
  exact Nat.lt_of_le_of_lt (pk_le h) hu

theorem of_none {i : Instr} (he : encode i = none) : Statement i := by
  intro n hn
  rw [he] at hn
  exact nomatch hn

theorem hint (stall wmask seten slot) : Statement (.hint stall wmask seten slot) :=
  of_below rfl (.cons (sv_le stall 21) (.cons (sv_le wmask 5) (.cons (sb_le seten 4) (.cons (sv_le slot 0) .nil)))) (by decide)
theorem wimm (p) : Statement (.wimm p) :=
  of_below rfl (.cons (sv_le p 0) .nil) (by decide)
theorem sadd (m d a i x) : Statement (.sadd m d a i x) :=
  of_below rfl (.cons (mk_le m) (.cons (sv_le d 19) (.cons (sv_le a 13) (.cons (sb_le i 7) (.cons (sv_le x 0) .nil))))) (by decide)
theorem ssub (m d a i x) : Statement (.ssub m d a i x) :=
  of_below rfl (.cons (mk_le m) (.cons (sv_le d 19) (.cons (sv_le a 13) (.cons (sb_le i 7) (.cons (sv_le x 0) .nil))))) (by decide)
theorem smul (m d a i x) : Statement (.smul m d a i x) :=
  of_below rfl (.cons (mk_le m) (.cons (sv_le d 19) (.cons (sv_le a 13) (.cons (sb_le i 7) (.cons (sv_le x 0) .nil))))) (by decide)
theorem smulhI64 (m d a i x) : Statement (.smulhI64 m d a i x) :=
  of_below rfl (.cons (mk_le m) (.cons (sv_le d 19) (.cons (sv_le a 13) (.cons (sb_le i 7) (.cons (sv_le x 0) .nil))))) (by decide)
theorem smulhN64 (m d a i x) : Statement (.smulhN64 m d a i x) :=
  of_below rfl (.cons (mk_le m) (.cons (sv_le d 19) (.cons (sv_le a 13) (.cons (sb_le i 7) (.cons (sv_le x 0) .nil))))) (by decide)
theorem sand (m d a i x) : Statement (.sand m d a i x) :=
  of_below rfl (.cons (mk_le m) (.cons (sv_le d 19) (.cons (sv_le a 13) (.cons (sb_le i 7) (.cons (sv_le x 0) .nil))))) (by decide)
theorem sor (m d a i x) : Statement (.sor m d a i x) :=
  of_below rfl (.cons (mk_le m) (.cons (sv_le d 19) (.cons (sv_le a 13) (.cons (sb_le i 7) (.cons (sv_le x 0) .nil))))) (by decide)
theorem sxor (m d a i x) : Statement (.sxor m d a i x) :=
  of_below rfl (.cons (mk_le m) (.cons (sv_le d 19) (.cons (sv_le a 13) (.cons (sb_le i 7) (.cons (sv_le x 0) .nil))))) (by decide)
theorem sshl (m d a i x) : Statement (.sshl m d a i x) :=
  of_below rfl (.cons (mk_le m) (.cons (sv_le d 19) (.cons (sv_le a 13) (.cons (sb_le i 7) (.cons (sv_le x 0) .nil))))) (by decide)
theorem sshr (m d a i x) : Statement (.sshr m d a i x) :=
  of_below rfl (.cons (mk_le m) (.cons (sv_le d 19) (.cons (sv_le a 13) (.cons (sb_le i 7) (.cons (sv_le x 0) .nil))))) (by decide)
theorem ssar (m d a i x) : Statement (.ssar m d a i x) :=
  of_below rfl (.cons (mk_le m) (.cons (sv_le d 19) (.cons (sv_le a 13) (.cons (sb_le i 7) (.cons (sv_le x 0) .nil))))) (by decide)
theorem sminI64 (m d a i x) : Statement (.sminI64 m d a i x) :=
  of_below rfl (.cons (mk_le m) (.cons (sv_le d 19) (.cons (sv_le a 13) (.cons (sb_le i 7) (.cons (sv_le x 0) .nil))))) (by decide)
theorem sminN64 (m d a i x) : Statement (.sminN64 m d a i x) :=
  of_below rfl (.cons (mk_le m) (.cons (sv_le d 19) (.cons (sv_le a 13) (.cons (sb_le i 7) (.cons (sv_le x 0) .nil))))) (by decide)
theorem smaxI64 (m d a i x) : Statement (.smaxI64 m d a i x) :=
  of_below rfl (.cons (mk_le m) (.cons (sv_le d 19) (.cons (sv_le a 13) (.cons (sb_le i 7) (.cons (sv_le x 0) .nil))))) (by decide)
theorem smaxN64 (m d a i x) : Statement (.smaxN64 m d a i x) :=
  of_below rfl (.cons (mk_le m) (.cons (sv_le d 19) (.cons (sv_le a 13) (.cons (sb_le i 7) (.cons (sv_le x 0) .nil))))) (by decide)
theorem smov (m d i x) : Statement (.smov m d i x) :=
  of_below rfl (.cons (mk_le m) (.cons (sv_le d 19) (.cons (sb_le i 7) (.cons (sv_le x 0) .nil)))) (by decide)
theorem sceq (m d a i x) : Statement (.sceq m d a i x) :=
  of_below rfl (.cons (mk_le m) (.cons (sv_le d 19) (.cons (sv_le a 13) (.cons (sb_le i 7) (.cons (sv_le x 0) .nil))))) (by decide)
theorem scltI64 (m d a i x) : Statement (.scltI64 m d a i x) :=
  of_below rfl (.cons (mk_le m) (.cons (sv_le d 19) (.cons (sv_le a 13) (.cons (sb_le i 7) (.cons (sv_le x 0) .nil))))) (by decide)
theorem scltN64 (m d a i x) : Statement (.scltN64 m d a i x) :=
  of_below rfl (.cons (mk_le m) (.cons (sv_le d 19) (.cons (sv_le a 13) (.cons (sb_le i 7) (.cons (sv_le x 0) .nil))))) (by decide)
theorem scleI64 (m d a i x) : Statement (.scleI64 m d a i x) :=
  of_below rfl (.cons (mk_le m) (.cons (sv_le d 19) (.cons (sv_le a 13) (.cons (sb_le i 7) (.cons (sv_le x 0) .nil))))) (by decide)
theorem scleN64 (m d a i x) : Statement (.scleN64 m d a i x) :=
  of_below rfl (.cons (mk_le m) (.cons (sv_le d 19) (.cons (sv_le a 13) (.cons (sb_le i 7) (.cons (sv_le x 0) .nil))))) (by decide)
theorem sldN32 (m d a i x) : Statement (.sldN32 m d a i x) :=
  of_below rfl (.cons (mk_le m) (.cons (sv_le d 19) (.cons (sv_le a 13) (.cons (sb_le i 7) (.cons (sv_le x 0) .nil))))) (by decide)
theorem sldN64 (m d a i x) : Statement (.sldN64 m d a i x) :=
  of_below rfl (.cons (mk_le m) (.cons (sv_le d 19) (.cons (sv_le a 13) (.cons (sb_le i 7) (.cons (sv_le x 0) .nil))))) (by decide)
theorem sstN32 (m d a i x) : Statement (.sstN32 m d a i x) :=
  of_below rfl (.cons (mk_le m) (.cons (sv_le d 19) (.cons (sv_le a 13) (.cons (sb_le i 7) (.cons (sv_le x 0) .nil))))) (by decide)
theorem sstN64 (m d a i x) : Statement (.sstN64 m d a i x) :=
  of_below rfl (.cons (mk_le m) (.cons (sv_le d 19) (.cons (sv_le a 13) (.cons (sb_le i 7) (.cons (sv_le x 0) .nil))))) (by decide)
theorem sldSN32 (m d a i x) : Statement (.sldSN32 m d a i x) :=
  of_below rfl (.cons (mk_le m) (.cons (sv_le d 19) (.cons (sv_le a 13) (.cons (sb_le i 7) (.cons (sv_le x 0) .nil))))) (by decide)
theorem sstSN32 (m d a i x) : Statement (.sstSN32 m d a i x) :=
  of_below rfl (.cons (mk_le m) (.cons (sv_le d 19) (.cons (sv_le a 13) (.cons (sb_le i 7) (.cons (sv_le x 0) .nil))))) (by decide)
theorem rdsrScalar (m d n) : Statement (.rdsrScalar m d n) :=
  of_below rfl (.cons (mk_le m) (.cons (sv_le d 19) (.cons (sv_le n 0) .nil))) (by decide)
theorem wrsr (m a n) : Statement (.wrsr m a n) :=
  of_below rfl (.cons (mk_le m) (.cons (sv_le a 13) (.cons (sv_le n 0) .nil))) (by decide)
theorem getw (m d) : Statement (.getw m d) :=
  of_below rfl (.cons (mk_le m) (.cons (sv_le d 19) .nil)) (by decide)
theorem setw (m a i x) : Statement (.setw m a i x) :=
  of_below rfl (.cons (mk_le m) (.cons (sv_le a 13) (.cons (sb_le i 7) (.cons (sv_le x 0) .nil)))) (by decide)
theorem xacq (m c) : Statement (.xacq m c) :=
  of_below rfl (.cons (mk_le m) (.cons (sv_le c 0) .nil)) (by decide)
theorem xacqNb (m d c) : Statement (.xacqNb m d c) :=
  of_below rfl (.cons (mk_le m) (.cons (sv_le d 19) (.cons (sv_le c 0) .nil))) (by decide)
theorem xrel (m c) : Statement (.xrel m c) :=
  of_below rfl (.cons (mk_le m) (.cons (sv_le c 0) .nil)) (by decide)
theorem modeTriple (m) : Statement (.modeTriple m) :=
  of_below rfl (.cons (mk_le m) .nil) (by decide)
theorem modeSingle (m) : Statement (.modeSingle m) :=
  of_below rfl (.cons (mk_le m) .nil) (by decide)
theorem fqryDevice (m d a) : Statement (.fqryDevice m d a) :=
  of_below rfl (.cons (mk_le m) (.cons (sv_le d 19) (.cons (sv_le a 13) .nil))) (by decide)
theorem fqryNumeric (m d a) : Statement (.fqryNumeric m d a) :=
  of_below rfl (.cons (mk_le m) (.cons (sv_le d 19) (.cons (sv_le a 13) .nil))) (by decide)
theorem fqryPlacement (m d a) : Statement (.fqryPlacement m d a) :=
  of_below rfl (.cons (mk_le m) (.cons (sv_le d 19) (.cons (sv_le a 13) .nil))) (by decide)
theorem smplStart (m a) : Statement (.smplStart m a) :=
  of_below rfl (.cons (mk_le m) (.cons (sv_le a 13) .nil)) (by decide)
theorem smplStop (m a) : Statement (.smplStop m a) :=
  of_below rfl (.cons (mk_le m) (.cons (sv_le a 13) .nil)) (by decide)
theorem smplFlush (m a) : Statement (.smplFlush m a) :=
  of_below rfl (.cons (mk_le m) (.cons (sv_le a 13) .nil)) (by decide)
theorem emsave (m d) : Statement (.emsave m d) :=
  of_below rfl (.cons (mk_le m) (.cons (sv_le d 19) .nil)) (by decide)
theorem emset (m a) : Statement (.emset m a) :=
  of_below rfl (.cons (mk_le m) (.cons (sv_le a 13) .nil)) (by decide)
theorem emand (m a) : Statement (.emand m a) :=
  of_below rfl (.cons (mk_le m) (.cons (sv_le a 13) .nil)) (by decide)
theorem emandn (m a) : Statement (.emandn m a) :=
  of_below rfl (.cons (mk_le m) (.cons (sv_le a 13) .nil)) (by decide)
theorem emor (m a) : Statement (.emor m a) :=
  of_below rfl (.cons (mk_le m) (.cons (sv_le a 13) .nil)) (by decide)
theorem emif (m d) : Statement (.emif m d) :=
  of_below rfl (.cons (mk_le m) (.cons (sv_le d 19) .nil)) (by decide)
theorem emelse (m d) : Statement (.emelse m d) :=
  of_below rfl (.cons (mk_le m) (.cons (sv_le d 19) .nil)) (by decide)
theorem sadr (m d x) : Statement (.sadr m d x) :=
  of_below rfl (.cons (mk_le m) (.cons (sv_le d 19) (.cons (sv_le x 0) .nil))) (by decide)
theorem br (m off) : Statement (.br m off) :=
  of_below rfl (.cons (mk_le m) (.cons (sv_le off 0) .nil)) (by decide)
theorem brc (m off) : Statement (.brc m off) :=
  of_below rfl (.cons (mk_le m) (.cons (sv_le off 0) .nil)) (by decide)
theorem brnc (m off) : Statement (.brnc m off) :=
  of_below rfl (.cons (mk_le m) (.cons (sv_le off 0) .nil)) (by decide)
theorem brany (m off) : Statement (.brany m off) :=
  of_below rfl (.cons (mk_le m) (.cons (sv_le off 0) .nil)) (by decide)
theorem brall (m off) : Statement (.brall m off) :=
  of_below rfl (.cons (mk_le m) (.cons (sv_le off 0) .nil)) (by decide)
theorem call (m off) : Statement (.call m off) :=
  of_below rfl (.cons (mk_le m) (.cons (sv_le off 0) .nil)) (by decide)
theorem callr (m t) : Statement (.callr m t) :=
  of_below rfl (.cons (mk_le m) (.cons (sv_le t 14) .nil)) (by decide)
theorem ret (m) : Statement (.ret m) :=
  of_below rfl (.cons (mk_le m) .nil) (by decide)
theorem jmpr (m t) : Statement (.jmpr m t) :=
  of_below rfl (.cons (mk_le m) (.cons (sv_le t 14) .nil)) (by decide)
theorem exit (m) : Statement (.exit m) :=
  of_below rfl (.cons (mk_le m) .nil) (by decide)
theorem rcb (m) : Statement (.rcb m) :=
  of_below rfl (.cons (mk_le m) .nil) (by decide)
theorem block (m lim) : Statement (.block m lim) :=
  of_below rfl (.cons (mk_le m) (.cons (sv_le lim 0) .nil)) (by decide)
theorem yield (m) : Statement (.yield m) :=
  of_below rfl (.cons (mk_le m) .nil) (by decide)
theorem trap (m c) : Statement (.trap m c) :=
  of_below rfl (.cons (mk_le m) (.cons (sv_le c 0) .nil)) (by decide)
theorem handlerReturn (m) : Statement (.handlerReturn m) :=
  of_below rfl (.cons (mk_le m) .nil) (by decide)
theorem handlerSaved (m) : Statement (.handlerSaved m) :=
  of_below rfl (.cons (mk_le m) .nil) (by decide)
theorem handlerEndWave (m) : Statement (.handlerEndWave m) :=
  of_below rfl (.cons (mk_le m) .nil) (by decide)
theorem handlerRefuseReslice (m) : Statement (.handlerRefuseReslice m) :=
  of_below rfl (.cons (mk_le m) .nil) (by decide)
theorem handlerEndContext (m) : Statement (.handlerEndContext m) :=
  of_below rfl (.cons (mk_le m) .nil) (by decide)
theorem nop (m) : Statement (.nop m) :=
  of_below rfl (.cons (mk_le m) .nil) (by decide)
theorem bar (m n c) : Statement (.bar m n c) :=
  of_below rfl (.cons (mk_le m) (.cons (sv_le n 12) (.cons (sv_le c 0) .nil))) (by decide)
theorem barArr (m n c) : Statement (.barArr m n c) :=
  of_below rfl (.cons (mk_le m) (.cons (sv_le n 12) (.cons (sv_le c 0) .nil))) (by decide)
theorem tbar (m p) : Statement (.tbar m p) :=
  of_below rfl (.cons (mk_le m) (.cons (sv_le p 18) .nil)) (by decide)
theorem tbarArr (m p) : Statement (.tbarArr m p) :=
  of_below rfl (.cons (mk_le m) (.cons (sv_le p 18) .nil)) (by decide)
theorem waitgen (m off g) : Statement (.waitgen m off g) :=
  of_below rfl (.cons (mk_le m) (.cons (sv_le off 15) (.cons (sv_le g 9) .nil))) (by decide)
theorem waitc (m c v) : Statement (.waitc m c v) :=
  of_below rfl (.cons (mk_le m) (.cons (sv_le c 19) (.cons (sv_le v 0) .nil))) (by decide)
theorem fenceW (m) : Statement (.fenceW m) :=
  of_below rfl (.cons (mk_le m) .nil) (by decide)
theorem addN32 (m d a b) : Statement (.addN32 m d a b) :=
  of_below rfl (.cons (mk_le m) (.cons (sv_le d 18) (.cons (sv_le a 11) (.cons (sv_le b 4) .nil)))) (by decide)
theorem subN32 (m d a b) : Statement (.subN32 m d a b) :=
  of_below rfl (.cons (mk_le m) (.cons (sv_le d 18) (.cons (sv_le a 11) (.cons (sv_le b 4) .nil)))) (by decide)
theorem mulN32 (m d a b) : Statement (.mulN32 m d a b) :=
  of_below rfl (.cons (mk_le m) (.cons (sv_le d 18) (.cons (sv_le a 11) (.cons (sv_le b 4) .nil)))) (by decide)
theorem mulhI32 (m d a b) : Statement (.mulhI32 m d a b) :=
  of_below rfl (.cons (mk_le m) (.cons (sv_le d 18) (.cons (sv_le a 11) (.cons (sv_le b 4) .nil)))) (by decide)
theorem mulhN32 (m d a b) : Statement (.mulhN32 m d a b) :=
  of_below rfl (.cons (mk_le m) (.cons (sv_le d 18) (.cons (sv_le a 11) (.cons (sv_le b 4) .nil)))) (by decide)
theorem andB32 (m d a b) : Statement (.andB32 m d a b) :=
  of_below rfl (.cons (mk_le m) (.cons (sv_le d 18) (.cons (sv_le a 11) (.cons (sv_le b 4) .nil)))) (by decide)
theorem orB32 (m d a b) : Statement (.orB32 m d a b) :=
  of_below rfl (.cons (mk_le m) (.cons (sv_le d 18) (.cons (sv_le a 11) (.cons (sv_le b 4) .nil)))) (by decide)
theorem xorB32 (m d a b) : Statement (.xorB32 m d a b) :=
  of_below rfl (.cons (mk_le m) (.cons (sv_le d 18) (.cons (sv_le a 11) (.cons (sv_le b 4) .nil)))) (by decide)
theorem shlB32 (m d a b) : Statement (.shlB32 m d a b) :=
  of_below rfl (.cons (mk_le m) (.cons (sv_le d 18) (.cons (sv_le a 11) (.cons (sv_le b 4) .nil)))) (by decide)
theorem shrB32 (m d a b) : Statement (.shrB32 m d a b) :=
  of_below rfl (.cons (mk_le m) (.cons (sv_le d 18) (.cons (sv_le a 11) (.cons (sv_le b 4) .nil)))) (by decide)
theorem sarB32 (m d a b) : Statement (.sarB32 m d a b) :=
  of_below rfl (.cons (mk_le m) (.cons (sv_le d 18) (.cons (sv_le a 11) (.cons (sv_le b 4) .nil)))) (by decide)
theorem minI32 (m d a b) : Statement (.minI32 m d a b) :=
  of_below rfl (.cons (mk_le m) (.cons (sv_le d 18) (.cons (sv_le a 11) (.cons (sv_le b 4) .nil)))) (by decide)
theorem minN32 (m d a b) : Statement (.minN32 m d a b) :=
  of_below rfl (.cons (mk_le m) (.cons (sv_le d 18) (.cons (sv_le a 11) (.cons (sv_le b 4) .nil)))) (by decide)
theorem maxI32 (m d a b) : Statement (.maxI32 m d a b) :=
  of_below rfl (.cons (mk_le m) (.cons (sv_le d 18) (.cons (sv_le a 11) (.cons (sv_le b 4) .nil)))) (by decide)
theorem maxN32 (m d a b) : Statement (.maxN32 m d a b) :=
  of_below rfl (.cons (mk_le m) (.cons (sv_le d 18) (.cons (sv_le a 11) (.cons (sv_le b 4) .nil)))) (by decide)
theorem addsI32 (m d a b) : Statement (.addsI32 m d a b) :=
  of_below rfl (.cons (mk_le m) (.cons (sv_le d 18) (.cons (sv_le a 11) (.cons (sv_le b 4) .nil)))) (by decide)
theorem addN32Imm (m d a imm) : Statement (.addN32Imm m d a imm) :=
  of_below rfl (.cons (mk_le m) (.cons (sv_le d 18) (.cons (sv_le a 11) (.cons (sv_le imm 0) .nil)))) (by decide)
theorem andB32Imm (m d a imm) : Statement (.andB32Imm m d a imm) :=
  of_below rfl (.cons (mk_le m) (.cons (sv_le d 18) (.cons (sv_le a 11) (.cons (sv_le imm 0) .nil)))) (by decide)
theorem orB32Imm (m d a imm) : Statement (.orB32Imm m d a imm) :=
  of_below rfl (.cons (mk_le m) (.cons (sv_le d 18) (.cons (sv_le a 11) (.cons (sv_le imm 0) .nil)))) (by decide)
theorem xorB32Imm (m d a imm) : Statement (.xorB32Imm m d a imm) :=
  of_below rfl (.cons (mk_le m) (.cons (sv_le d 18) (.cons (sv_le a 11) (.cons (sv_le imm 0) .nil)))) (by decide)
theorem shlB32Imm (m d a imm) : Statement (.shlB32Imm m d a imm) :=
  of_below rfl (.cons (mk_le m) (.cons (sv_le d 18) (.cons (sv_le a 11) (.cons (sv_le imm 0) .nil)))) (by decide)
theorem shrB32Imm (m d a imm) : Statement (.shrB32Imm m d a imm) :=
  of_below rfl (.cons (mk_le m) (.cons (sv_le d 18) (.cons (sv_le a 11) (.cons (sv_le imm 0) .nil)))) (by decide)
theorem sarB32Imm (m d a imm) : Statement (.sarB32Imm m d a imm) :=
  of_below rfl (.cons (mk_le m) (.cons (sv_le d 18) (.cons (sv_le a 11) (.cons (sv_le imm 0) .nil)))) (by decide)
theorem movB32 (m d imm) : Statement (.movB32 m d imm) :=
  of_below rfl (.cons (mk_le m) (.cons (sv_le d 18) (.cons (sv_le imm 0) .nil))) (by decide)
theorem rsubN32 (m d a imm) : Statement (.rsubN32 m d a imm) :=
  of_below rfl (.cons (mk_le m) (.cons (sv_le d 18) (.cons (sv_le a 11) (.cons (sv_le imm 0) .nil)))) (by decide)
theorem minI32Imm (m d a imm) : Statement (.minI32Imm m d a imm) :=
  of_below rfl (.cons (mk_le m) (.cons (sv_le d 18) (.cons (sv_le a 11) (.cons (sv_le imm 0) .nil)))) (by decide)
theorem maxI32Imm (m d a imm) : Statement (.maxI32Imm m d a imm) :=
  of_below rfl (.cons (mk_le m) (.cons (sv_le d 18) (.cons (sv_le a 11) (.cons (sv_le imm 0) .nil)))) (by decide)
theorem addN64Imm (m d a imm) : Statement (.addN64Imm m d a imm) :=
  of_below rfl (.cons (mk_le m) (.cons (sv_le d 18) (.cons (sv_le a 11) (.cons (sv_le imm 0) .nil)))) (by decide)
theorem movB64 (m d imm) : Statement (.movB64 m d imm) :=
  of_below rfl (.cons (mk_le m) (.cons (sv_le d 18) (.cons (sv_le imm 0) .nil))) (by decide)
theorem rdsrVector (m d n) : Statement (.rdsrVector m d n) :=
  of_below rfl (.cons (mk_le m) (.cons (sv_le d 18) (.cons (sv_le n 0) .nil))) (by decide)
theorem addN64 (m d a b) : Statement (.addN64 m d a b) :=
  of_below rfl (.cons (mk_le m) (.cons (sv_le d 18) (.cons (sv_le a 11) (.cons (sv_le b 4) .nil)))) (by decide)
theorem subN64 (m d a b) : Statement (.subN64 m d a b) :=
  of_below rfl (.cons (mk_le m) (.cons (sv_le d 18) (.cons (sv_le a 11) (.cons (sv_le b 4) .nil)))) (by decide)
theorem mulN64 (m d a b) : Statement (.mulN64 m d a b) :=
  of_below rfl (.cons (mk_le m) (.cons (sv_le d 18) (.cons (sv_le a 11) (.cons (sv_le b 4) .nil)))) (by decide)
theorem andB64 (m d a b) : Statement (.andB64 m d a b) :=
  of_below rfl (.cons (mk_le m) (.cons (sv_le d 18) (.cons (sv_le a 11) (.cons (sv_le b 4) .nil)))) (by decide)
theorem orB64 (m d a b) : Statement (.orB64 m d a b) :=
  of_below rfl (.cons (mk_le m) (.cons (sv_le d 18) (.cons (sv_le a 11) (.cons (sv_le b 4) .nil)))) (by decide)
theorem xorB64 (m d a b) : Statement (.xorB64 m d a b) :=
  of_below rfl (.cons (mk_le m) (.cons (sv_le d 18) (.cons (sv_le a 11) (.cons (sv_le b 4) .nil)))) (by decide)
theorem shlB64 (m d a b) : Statement (.shlB64 m d a b) :=
  of_below rfl (.cons (mk_le m) (.cons (sv_le d 18) (.cons (sv_le a 11) (.cons (sv_le b 4) .nil)))) (by decide)
theorem shrB64 (m d a b) : Statement (.shrB64 m d a b) :=
  of_below rfl (.cons (mk_le m) (.cons (sv_le d 18) (.cons (sv_le a 11) (.cons (sv_le b 4) .nil)))) (by decide)
theorem sarB64 (m d a b) : Statement (.sarB64 m d a b) :=
  of_below rfl (.cons (mk_le m) (.cons (sv_le d 18) (.cons (sv_le a 11) (.cons (sv_le b 4) .nil)))) (by decide)
theorem popcB32 (m d a) : Statement (.popcB32 m d a) :=
  of_below rfl (.cons (mk_le m) (.cons (sv_le d 18) (.cons (sv_le a 11) .nil))) (by decide)
theorem clzB32 (m d a) : Statement (.clzB32 m d a) :=
  of_below rfl (.cons (mk_le m) (.cons (sv_le d 18) (.cons (sv_le a 11) .nil))) (by decide)
theorem brevB32 (m d a) : Statement (.brevB32 m d a) :=
  of_below rfl (.cons (mk_le m) (.cons (sv_le d 18) (.cons (sv_le a 11) .nil))) (by decide)
theorem bfeN32 (m d a b) : Statement (.bfeN32 m d a b) :=
  of_below rfl (.cons (mk_le m) (.cons (sv_le d 18) (.cons (sv_le a 11) (.cons (sv_le b 4) .nil)))) (by decide)
theorem bfeI32 (m d a b) : Statement (.bfeI32 m d a b) :=
  of_below rfl (.cons (mk_le m) (.cons (sv_le d 18) (.cons (sv_le a 11) (.cons (sv_le b 4) .nil)))) (by decide)
theorem subsI32 (m d a b) : Statement (.subsI32 m d a b) :=
  of_below rfl (.cons (mk_le m) (.cons (sv_le d 18) (.cons (sv_le a 11) (.cons (sv_le b 4) .nil)))) (by decide)
theorem mulwN32 (m d a b) : Statement (.mulwN32 m d a b) :=
  of_below rfl (.cons (mk_le m) (.cons (sv_le d 18) (.cons (sv_le a 11) (.cons (sv_le b 4) .nil)))) (by decide)
theorem ceqN32 (m a b) : Statement (.ceqN32 m a b) :=
  of_below rfl (.cons (mk_le m) (.cons (sv_le a 11) (.cons (sv_le b 4) .nil))) (by decide)
theorem cneN32 (m a b) : Statement (.cneN32 m a b) :=
  of_below rfl (.cons (mk_le m) (.cons (sv_le a 11) (.cons (sv_le b 4) .nil))) (by decide)
theorem cltI32 (m a b) : Statement (.cltI32 m a b) :=
  of_below rfl (.cons (mk_le m) (.cons (sv_le a 11) (.cons (sv_le b 4) .nil))) (by decide)
theorem cleI32 (m a b) : Statement (.cleI32 m a b) :=
  of_below rfl (.cons (mk_le m) (.cons (sv_le a 11) (.cons (sv_le b 4) .nil))) (by decide)
theorem cltN32 (m a b) : Statement (.cltN32 m a b) :=
  of_below rfl (.cons (mk_le m) (.cons (sv_le a 11) (.cons (sv_le b 4) .nil))) (by decide)
theorem cleN32 (m a b) : Statement (.cleN32 m a b) :=
  of_below rfl (.cons (mk_le m) (.cons (sv_le a 11) (.cons (sv_le b 4) .nil))) (by decide)
theorem ceqN64 (m a b) : Statement (.ceqN64 m a b) :=
  of_below rfl (.cons (mk_le m) (.cons (sv_le a 11) (.cons (sv_le b 4) .nil))) (by decide)
theorem cltI64 (m a b) : Statement (.cltI64 m a b) :=
  of_below rfl (.cons (mk_le m) (.cons (sv_le a 11) (.cons (sv_le b 4) .nil))) (by decide)
theorem cltN64 (m a b) : Statement (.cltN64 m a b) :=
  of_below rfl (.cons (mk_le m) (.cons (sv_le a 11) (.cons (sv_le b 4) .nil))) (by decide)
theorem selB32 (m d a b) : Statement (.selB32 m d a b) :=
  of_below rfl (.cons (mk_le m) (.cons (sv_le d 18) (.cons (sv_le a 11) (.cons (sv_le b 4) .nil)))) (by decide)
theorem selB64 (m d a b) : Statement (.selB64 m d a b) :=
  of_below rfl (.cons (mk_le m) (.cons (sv_le d 18) (.cons (sv_le a 11) (.cons (sv_le b 4) .nil)))) (by decide)
theorem fceqF32 (m a b) : Statement (.fceqF32 m a b) :=
  of_below rfl (.cons (mk_le m) (.cons (sv_le a 11) (.cons (sv_le b 4) .nil))) (by decide)
theorem fcneF32 (m a b) : Statement (.fcneF32 m a b) :=
  of_below rfl (.cons (mk_le m) (.cons (sv_le a 11) (.cons (sv_le b 4) .nil))) (by decide)
theorem fcltF32 (m a b) : Statement (.fcltF32 m a b) :=
  of_below rfl (.cons (mk_le m) (.cons (sv_le a 11) (.cons (sv_le b 4) .nil))) (by decide)
theorem fcleF32 (m a b) : Statement (.fcleF32 m a b) :=
  of_below rfl (.cons (mk_le m) (.cons (sv_le a 11) (.cons (sv_le b 4) .nil))) (by decide)
theorem fcgtF32 (m a b) : Statement (.fcgtF32 m a b) :=
  of_below rfl (.cons (mk_le m) (.cons (sv_le a 11) (.cons (sv_le b 4) .nil))) (by decide)
theorem fcgeF32 (m a b) : Statement (.fcgeF32 m a b) :=
  of_below rfl (.cons (mk_le m) (.cons (sv_le a 11) (.cons (sv_le b 4) .nil))) (by decide)
theorem fcunF32 (m a b) : Statement (.fcunF32 m a b) :=
  of_below rfl (.cons (mk_le m) (.cons (sv_le a 11) (.cons (sv_le b 4) .nil))) (by decide)
theorem fcordF32 (m a b) : Statement (.fcordF32 m a b) :=
  of_below rfl (.cons (mk_le m) (.cons (sv_le a 11) (.cons (sv_le b 4) .nil))) (by decide)
theorem fminF32 (m d a b) : Statement (.fminF32 m d a b) :=
  of_below rfl (.cons (mk_le m) (.cons (sv_le d 18) (.cons (sv_le a 11) (.cons (sv_le b 4) .nil)))) (by decide)
theorem fmaxF32 (m d a b) : Statement (.fmaxF32 m d a b) :=
  of_below rfl (.cons (mk_le m) (.cons (sv_le d 18) (.cons (sv_le a 11) (.cons (sv_le b 4) .nil)))) (by decide)
theorem fabsF32 (m d a) : Statement (.fabsF32 m d a) :=
  of_below rfl (.cons (mk_le m) (.cons (sv_le d 18) (.cons (sv_le a 11) .nil))) (by decide)
theorem fnegF32 (m d a) : Statement (.fnegF32 m d a) :=
  of_below rfl (.cons (mk_le m) (.cons (sv_le d 18) (.cons (sv_le a 11) .nil))) (by decide)
theorem fcopysignF32 (m d a b) : Statement (.fcopysignF32 m d a b) :=
  of_below rfl (.cons (mk_le m) (.cons (sv_le d 18) (.cons (sv_le a 11) (.cons (sv_le b 4) .nil)))) (by decide)
theorem fclassF32 (m d a) : Statement (.fclassF32 m d a) :=
  of_below rfl (.cons (mk_le m) (.cons (sv_le d 18) (.cons (sv_le a 11) .nil))) (by decide)
theorem fexfF32 (m d a rm) : Statement (.fexfF32 m d a rm) :=
  of_below rfl (.cons (mk_le m) (.cons (sv_le d 18) (.cons (sv_le a 11) (.cons (rm_le rm 4) .nil)))) (by decide)
theorem flog2F32 (m d a rm) : Statement (.flog2F32 m d a rm) :=
  of_below rfl (.cons (mk_le m) (.cons (sv_le d 18) (.cons (sv_le a 11) (.cons (rm_le rm 4) .nil)))) (by decide)
theorem frcpF32 (m d a rm) : Statement (.frcpF32 m d a rm) :=
  of_below rfl (.cons (mk_le m) (.cons (sv_le d 18) (.cons (sv_le a 11) (.cons (rm_le rm 4) .nil)))) (by decide)
theorem frsqrtF32 (m d a rm) : Statement (.frsqrtF32 m d a rm) :=
  of_below rfl (.cons (mk_le m) (.cons (sv_le d 18) (.cons (sv_le a 11) (.cons (rm_le rm 4) .nil)))) (by decide)
theorem frintF32 (m d a rm) : Statement (.frintF32 m d a rm) :=
  of_below rfl (.cons (mk_le m) (.cons (sv_le d 18) (.cons (sv_le a 11) (.cons (rm_le rm 4) .nil)))) (by decide)
theorem cvtF32I32 (m d a rm) : Statement (.cvtF32I32 m d a rm) :=
  of_below rfl (.cons (mk_le m) (.cons (sv_le d 18) (.cons (sv_le a 11) (.cons (rm_le rm 4) .nil)))) (by decide)
theorem cvtF32N32 (m d a rm) : Statement (.cvtF32N32 m d a rm) :=
  of_below rfl (.cons (mk_le m) (.cons (sv_le d 18) (.cons (sv_le a 11) (.cons (rm_le rm 4) .nil)))) (by decide)
theorem cvtI32F32 (m d a rm) : Statement (.cvtI32F32 m d a rm) :=
  of_below rfl (.cons (mk_le m) (.cons (sv_le d 18) (.cons (sv_le a 11) (.cons (rm_le rm 4) .nil)))) (by decide)
theorem cvtN32F32 (m d a rm) : Statement (.cvtN32F32 m d a rm) :=
  of_below rfl (.cons (mk_le m) (.cons (sv_le d 18) (.cons (sv_le a 11) (.cons (rm_le rm 4) .nil)))) (by decide)
theorem cvtF16F32 (m d a rm) : Statement (.cvtF16F32 m d a rm) :=
  of_below rfl (.cons (mk_le m) (.cons (sv_le d 18) (.cons (sv_le a 11) (.cons (rm_le rm 4) .nil)))) (by decide)
theorem cvtBf16F32 (m d a rm) : Statement (.cvtBf16F32 m d a rm) :=
  of_below rfl (.cons (mk_le m) (.cons (sv_le d 18) (.cons (sv_le a 11) (.cons (rm_le rm 4) .nil)))) (by decide)
theorem cvtE4m3F32 (m d a sat rm) : Statement (.cvtE4m3F32 m d a sat rm) :=
  of_below rfl (.cons (mk_le m) (.cons (sv_le d 18) (.cons (sv_le a 11) (.cons (sb_le sat 7) (.cons (rm_le rm 4) .nil))))) (by decide)
theorem cvtE5m2F32 (m d a sat rm) : Statement (.cvtE5m2F32 m d a sat rm) :=
  of_below rfl (.cons (mk_le m) (.cons (sv_le d 18) (.cons (sv_le a 11) (.cons (sb_le sat 7) (.cons (rm_le rm 4) .nil))))) (by decide)
theorem cvtF32F16 (m d a) : Statement (.cvtF32F16 m d a) :=
  of_below rfl (.cons (mk_le m) (.cons (sv_le d 18) (.cons (sv_le a 11) .nil))) (by decide)
theorem cvtF32Bf16 (m d a) : Statement (.cvtF32Bf16 m d a) :=
  of_below rfl (.cons (mk_le m) (.cons (sv_le d 18) (.cons (sv_le a 11) .nil))) (by decide)
theorem cvtF32E4m3 (m d a) : Statement (.cvtF32E4m3 m d a) :=
  of_below rfl (.cons (mk_le m) (.cons (sv_le d 18) (.cons (sv_le a 11) .nil))) (by decide)
theorem cvtF32E5m2 (m d a) : Statement (.cvtF32E5m2 m d a) :=
  of_below rfl (.cons (mk_le m) (.cons (sv_le d 18) (.cons (sv_le a 11) .nil))) (by decide)
theorem cvtF32I64 (m d a rm) : Statement (.cvtF32I64 m d a rm) :=
  of_below rfl (.cons (mk_le m) (.cons (sv_le d 18) (.cons (sv_le a 11) (.cons (rm_le rm 4) .nil)))) (by decide)
theorem cvtI64F32 (m d a rm) : Statement (.cvtI64F32 m d a rm) :=
  of_below rfl (.cons (mk_le m) (.cons (sv_le d 18) (.cons (sv_le a 11) (.cons (rm_le rm 4) .nil)))) (by decide)
theorem pack6 (m d a) : Statement (.pack6 m d a) :=
  of_below rfl (.cons (mk_le m) (.cons (sv_le d 18) (.cons (sv_le a 11) .nil))) (by decide)
theorem unpack6 (m d a k) : Statement (.unpack6 m d a k) :=
  of_below rfl (.cons (mk_le m) (.cons (sv_le d 18) (.cons (sv_le a 11) (.cons (sb_le k 4) .nil)))) (by decide)
theorem fdig (m d a) : Statement (.fdig m d a) :=
  of_below rfl (.cons (mk_le m) (.cons (sv_le d 18) (.cons (sv_le a 11) .nil))) (by decide)
theorem fmean (m d a) : Statement (.fmean m d a) :=
  of_below rfl (.cons (mk_le m) (.cons (sv_le d 18) (.cons (sv_le a 11) .nil))) (by decide)
theorem sibget (m d a n) : Statement (.sibget m d a n) :=
  of_below rfl (.cons (mk_le m) (.cons (sv_le d 18) (.cons (sv_le a 11) (.cons (sv_le n 4) .nil)))) (by decide)
theorem sibset (m d a n) : Statement (.sibset m d a n) :=
  of_below rfl (.cons (mk_le m) (.cons (sv_le d 18) (.cons (sv_le a 11) (.cons (sv_le n 4) .nil)))) (by decide)
theorem krnd (m d a w) : Statement (.krnd m d a w) :=
  of_below rfl (.cons (mk_le m) (.cons (sv_le d 18) (.cons (sv_le a 11) (.cons (sv_le w 4) .nil)))) (by decide)
theorem act (m d a b) : Statement (.act m d a b) :=
  of_below rfl (.cons (mk_le m) (.cons (sv_le d 18) (.cons (sv_le a 11) (.cons (sv_le b 4) .nil)))) (by decide)
theorem mseaMax (m d a b) : Statement (.mseaMax m d a b) :=
  of_below rfl (.cons (mk_le m) (.cons (sv_le d 18) (.cons (sv_le a 11) (.cons (sv_le b 4) .nil)))) (by decide)
theorem mseaAcc (m d a b) : Statement (.mseaAcc m d a b) :=
  of_below rfl (.cons (mk_le m) (.cons (sv_le d 18) (.cons (sv_le a 11) (.cons (sv_le b 4) .nil)))) (by decide)
theorem shfl (m d a b mask) : Statement (.shfl m d a b mask) :=
  of_below rfl (.cons (mk_le m) (.cons (sv_le d 18) (.cons (sv_le a 11) (.cons (sv_le b 4) (.cons (sv_le mask 0) .nil))))) (by decide)
theorem voteAny (m d a mask) : Statement (.voteAny m d a mask) :=
  of_below rfl (.cons (mk_le m) (.cons (sv_le d 18) (.cons (sv_le a 11) (.cons (sv_le mask 4) .nil)))) (by decide)
theorem voteAll (m d a mask) : Statement (.voteAll m d a mask) :=
  of_below rfl (.cons (mk_le m) (.cons (sv_le d 18) (.cons (sv_le a 11) (.cons (sv_le mask 4) .nil)))) (by decide)
theorem voteBallot (m d a mask) : Statement (.voteBallot m d a mask) :=
  of_below rfl (.cons (mk_le m) (.cons (sv_le d 18) (.cons (sv_le a 11) (.cons (sv_le mask 4) .nil)))) (by decide)
theorem matchN32 (m d a mask) : Statement (.matchN32 m d a mask) :=
  of_below rfl (.cons (mk_le m) (.cons (sv_le d 18) (.cons (sv_le a 11) (.cons (sv_le mask 4) .nil)))) (by decide)
theorem matchN64 (m d a mask) : Statement (.matchN64 m d a mask) :=
  of_below rfl (.cons (mk_le m) (.cons (sv_le d 18) (.cons (sv_le a 11) (.cons (sv_le mask 4) .nil)))) (by decide)
theorem redOF32 (m d a mask) : Statement (.redOF32 m d a mask) :=
  of_below rfl (.cons (mk_le m) (.cons (sv_le d 18) (.cons (sv_le a 11) (.cons (sv_le mask 4) .nil)))) (by decide)
theorem redAddN32 (m d a mask) : Statement (.redAddN32 m d a mask) :=
  of_below rfl (.cons (mk_le m) (.cons (sv_le d 18) (.cons (sv_le a 11) (.cons (sv_le mask 4) .nil)))) (by decide)
theorem redMinI32 (m d a mask) : Statement (.redMinI32 m d a mask) :=
  of_below rfl (.cons (mk_le m) (.cons (sv_le d 18) (.cons (sv_le a 11) (.cons (sv_le mask 4) .nil)))) (by decide)
theorem redMaxI32 (m d a mask) : Statement (.redMaxI32 m d a mask) :=
  of_below rfl (.cons (mk_le m) (.cons (sv_le d 18) (.cons (sv_le a 11) (.cons (sv_le mask 4) .nil)))) (by decide)
theorem redMinN32 (m d a mask) : Statement (.redMinN32 m d a mask) :=
  of_below rfl (.cons (mk_le m) (.cons (sv_le d 18) (.cons (sv_le a 11) (.cons (sv_le mask 4) .nil)))) (by decide)
theorem redMaxN32 (m d a mask) : Statement (.redMaxN32 m d a mask) :=
  of_below rfl (.cons (mk_le m) (.cons (sv_le d 18) (.cons (sv_le a 11) (.cons (sv_le mask 4) .nil)))) (by decide)
theorem vtos (m d a b) : Statement (.vtos m d a b) :=
  of_below rfl (.cons (mk_le m) (.cons (sv_le d 18) (.cons (sv_le a 11) (.cons (sv_le b 4) .nil)))) (by decide)
theorem ldGN8 (m d a imm) : Statement (.ldGN8 m d a imm) :=
  of_below rfl (.cons (mk_le m) (.cons (sv_le d 18) (.cons (sv_le a 11) (.cons (sv_le imm 0) .nil)))) (by decide)
theorem ldGI8 (m d a imm) : Statement (.ldGI8 m d a imm) :=
  of_below rfl (.cons (mk_le m) (.cons (sv_le d 18) (.cons (sv_le a 11) (.cons (sv_le imm 0) .nil)))) (by decide)
theorem ldGN16 (m d a imm) : Statement (.ldGN16 m d a imm) :=
  of_below rfl (.cons (mk_le m) (.cons (sv_le d 18) (.cons (sv_le a 11) (.cons (sv_le imm 0) .nil)))) (by decide)
theorem ldGI16 (m d a imm) : Statement (.ldGI16 m d a imm) :=
  of_below rfl (.cons (mk_le m) (.cons (sv_le d 18) (.cons (sv_le a 11) (.cons (sv_le imm 0) .nil)))) (by decide)
theorem ldGN32 (m d a imm) : Statement (.ldGN32 m d a imm) :=
  of_below rfl (.cons (mk_le m) (.cons (sv_le d 18) (.cons (sv_le a 11) (.cons (sv_le imm 0) .nil)))) (by decide)
theorem ldGF32 (m d a imm) : Statement (.ldGF32 m d a imm) :=
  of_below rfl (.cons (mk_le m) (.cons (sv_le d 18) (.cons (sv_le a 11) (.cons (sv_le imm 0) .nil)))) (by decide)
theorem ldGF16 (m d a imm) : Statement (.ldGF16 m d a imm) :=
  of_below rfl (.cons (mk_le m) (.cons (sv_le d 18) (.cons (sv_le a 11) (.cons (sv_le imm 0) .nil)))) (by decide)
theorem ldGBf16 (m d a imm) : Statement (.ldGBf16 m d a imm) :=
  of_below rfl (.cons (mk_le m) (.cons (sv_le d 18) (.cons (sv_le a 11) (.cons (sv_le imm 0) .nil)))) (by decide)
theorem ldGN64 (m d a imm) : Statement (.ldGN64 m d a imm) :=
  of_below rfl (.cons (mk_le m) (.cons (sv_le d 18) (.cons (sv_le a 11) (.cons (sv_le imm 0) .nil)))) (by decide)
theorem stGN8 (m d a imm) : Statement (.stGN8 m d a imm) :=
  of_below rfl (.cons (mk_le m) (.cons (sv_le d 18) (.cons (sv_le a 11) (.cons (sv_le imm 0) .nil)))) (by decide)
theorem stGN16 (m d a imm) : Statement (.stGN16 m d a imm) :=
  of_below rfl (.cons (mk_le m) (.cons (sv_le d 18) (.cons (sv_le a 11) (.cons (sv_le imm 0) .nil)))) (by decide)
theorem stGN32 (m d a imm) : Statement (.stGN32 m d a imm) :=
  of_below rfl (.cons (mk_le m) (.cons (sv_le d 18) (.cons (sv_le a 11) (.cons (sv_le imm 0) .nil)))) (by decide)
theorem stGF32 (m d a imm) : Statement (.stGF32 m d a imm) :=
  of_below rfl (.cons (mk_le m) (.cons (sv_le d 18) (.cons (sv_le a 11) (.cons (sv_le imm 0) .nil)))) (by decide)
theorem stGF16 (m d a imm) : Statement (.stGF16 m d a imm) :=
  of_below rfl (.cons (mk_le m) (.cons (sv_le d 18) (.cons (sv_le a 11) (.cons (sv_le imm 0) .nil)))) (by decide)
theorem stGBf16 (m d a imm) : Statement (.stGBf16 m d a imm) :=
  of_below rfl (.cons (mk_le m) (.cons (sv_le d 18) (.cons (sv_le a 11) (.cons (sv_le imm 0) .nil)))) (by decide)
theorem stGN64 (m d a imm) : Statement (.stGN64 m d a imm) :=
  of_below rfl (.cons (mk_le m) (.cons (sv_le d 18) (.cons (sv_le a 11) (.cons (sv_le imm 0) .nil)))) (by decide)
theorem ldSN8 (m d a imm) : Statement (.ldSN8 m d a imm) :=
  of_below rfl (.cons (mk_le m) (.cons (sv_le d 18) (.cons (sv_le a 11) (.cons (sv_le imm 0) .nil)))) (by decide)
theorem ldSI8 (m d a imm) : Statement (.ldSI8 m d a imm) :=
  of_below rfl (.cons (mk_le m) (.cons (sv_le d 18) (.cons (sv_le a 11) (.cons (sv_le imm 0) .nil)))) (by decide)
theorem ldSN16 (m d a imm) : Statement (.ldSN16 m d a imm) :=
  of_below rfl (.cons (mk_le m) (.cons (sv_le d 18) (.cons (sv_le a 11) (.cons (sv_le imm 0) .nil)))) (by decide)
theorem ldSI16 (m d a imm) : Statement (.ldSI16 m d a imm) :=
  of_below rfl (.cons (mk_le m) (.cons (sv_le d 18) (.cons (sv_le a 11) (.cons (sv_le imm 0) .nil)))) (by decide)
theorem ldSN32 (m d a imm) : Statement (.ldSN32 m d a imm) :=
  of_below rfl (.cons (mk_le m) (.cons (sv_le d 18) (.cons (sv_le a 11) (.cons (sv_le imm 0) .nil)))) (by decide)
theorem ldSF32 (m d a imm) : Statement (.ldSF32 m d a imm) :=
  of_below rfl (.cons (mk_le m) (.cons (sv_le d 18) (.cons (sv_le a 11) (.cons (sv_le imm 0) .nil)))) (by decide)
theorem ldSF16 (m d a imm) : Statement (.ldSF16 m d a imm) :=
  of_below rfl (.cons (mk_le m) (.cons (sv_le d 18) (.cons (sv_le a 11) (.cons (sv_le imm 0) .nil)))) (by decide)
theorem ldSBf16 (m d a imm) : Statement (.ldSBf16 m d a imm) :=
  of_below rfl (.cons (mk_le m) (.cons (sv_le d 18) (.cons (sv_le a 11) (.cons (sv_le imm 0) .nil)))) (by decide)
theorem ldSN64 (m d a imm) : Statement (.ldSN64 m d a imm) :=
  of_below rfl (.cons (mk_le m) (.cons (sv_le d 18) (.cons (sv_le a 11) (.cons (sv_le imm 0) .nil)))) (by decide)
theorem stSN8 (m d a imm) : Statement (.stSN8 m d a imm) :=
  of_below rfl (.cons (mk_le m) (.cons (sv_le d 18) (.cons (sv_le a 11) (.cons (sv_le imm 0) .nil)))) (by decide)
theorem stSN16 (m d a imm) : Statement (.stSN16 m d a imm) :=
  of_below rfl (.cons (mk_le m) (.cons (sv_le d 18) (.cons (sv_le a 11) (.cons (sv_le imm 0) .nil)))) (by decide)
theorem stSN32 (m d a imm) : Statement (.stSN32 m d a imm) :=
  of_below rfl (.cons (mk_le m) (.cons (sv_le d 18) (.cons (sv_le a 11) (.cons (sv_le imm 0) .nil)))) (by decide)
theorem stSF32 (m d a imm) : Statement (.stSF32 m d a imm) :=
  of_below rfl (.cons (mk_le m) (.cons (sv_le d 18) (.cons (sv_le a 11) (.cons (sv_le imm 0) .nil)))) (by decide)
theorem stSF16 (m d a imm) : Statement (.stSF16 m d a imm) :=
  of_below rfl (.cons (mk_le m) (.cons (sv_le d 18) (.cons (sv_le a 11) (.cons (sv_le imm 0) .nil)))) (by decide)
theorem stSBf16 (m d a imm) : Statement (.stSBf16 m d a imm) :=
  of_below rfl (.cons (mk_le m) (.cons (sv_le d 18) (.cons (sv_le a 11) (.cons (sv_le imm 0) .nil)))) (by decide)
theorem stSN64 (m d a imm) : Statement (.stSN64 m d a imm) :=
  of_below rfl (.cons (mk_le m) (.cons (sv_le d 18) (.cons (sv_le a 11) (.cons (sv_le imm 0) .nil)))) (by decide)
theorem atomGAddN32 (m d a b) : Statement (.atomGAddN32 m d a b) :=
  of_below rfl (.cons (mk_le m) (.cons (sv_le d 18) (.cons (sv_le a 11) (.cons (sv_le b 4) .nil)))) (by decide)
theorem atomGAddN64 (m d a b) : Statement (.atomGAddN64 m d a b) :=
  of_below rfl (.cons (mk_le m) (.cons (sv_le d 18) (.cons (sv_le a 11) (.cons (sv_le b 4) .nil)))) (by decide)
theorem atomGAddF32 (m d a b) : Statement (.atomGAddF32 m d a b) :=
  of_below rfl (.cons (mk_le m) (.cons (sv_le d 18) (.cons (sv_le a 11) (.cons (sv_le b 4) .nil)))) (by decide)
theorem atomGMinI32 (m d a b) : Statement (.atomGMinI32 m d a b) :=
  of_below rfl (.cons (mk_le m) (.cons (sv_le d 18) (.cons (sv_le a 11) (.cons (sv_le b 4) .nil)))) (by decide)
theorem atomGMinN32 (m d a b) : Statement (.atomGMinN32 m d a b) :=
  of_below rfl (.cons (mk_le m) (.cons (sv_le d 18) (.cons (sv_le a 11) (.cons (sv_le b 4) .nil)))) (by decide)
theorem atomGMaxI32 (m d a b) : Statement (.atomGMaxI32 m d a b) :=
  of_below rfl (.cons (mk_le m) (.cons (sv_le d 18) (.cons (sv_le a 11) (.cons (sv_le b 4) .nil)))) (by decide)
theorem atomGMaxN32 (m d a b) : Statement (.atomGMaxN32 m d a b) :=
  of_below rfl (.cons (mk_le m) (.cons (sv_le d 18) (.cons (sv_le a 11) (.cons (sv_le b 4) .nil)))) (by decide)
theorem atomGAndB32 (m d a b) : Statement (.atomGAndB32 m d a b) :=
  of_below rfl (.cons (mk_le m) (.cons (sv_le d 18) (.cons (sv_le a 11) (.cons (sv_le b 4) .nil)))) (by decide)
theorem atomGOrB32 (m d a b) : Statement (.atomGOrB32 m d a b) :=
  of_below rfl (.cons (mk_le m) (.cons (sv_le d 18) (.cons (sv_le a 11) (.cons (sv_le b 4) .nil)))) (by decide)
theorem atomGXorB32 (m d a b) : Statement (.atomGXorB32 m d a b) :=
  of_below rfl (.cons (mk_le m) (.cons (sv_le d 18) (.cons (sv_le a 11) (.cons (sv_le b 4) .nil)))) (by decide)
theorem atomGExchN32 (m d a b) : Statement (.atomGExchN32 m d a b) :=
  of_below rfl (.cons (mk_le m) (.cons (sv_le d 18) (.cons (sv_le a 11) (.cons (sv_le b 4) .nil)))) (by decide)
theorem atomGExchN64 (m d a b) : Statement (.atomGExchN64 m d a b) :=
  of_below rfl (.cons (mk_le m) (.cons (sv_le d 18) (.cons (sv_le a 11) (.cons (sv_le b 4) .nil)))) (by decide)
theorem atomGCasN32 (m d a b) : Statement (.atomGCasN32 m d a b) :=
  of_below rfl (.cons (mk_le m) (.cons (sv_le d 18) (.cons (sv_le a 11) (.cons (sv_le b 4) .nil)))) (by decide)
theorem atomGCasN64 (m d a b) : Statement (.atomGCasN64 m d a b) :=
  of_below rfl (.cons (mk_le m) (.cons (sv_le d 18) (.cons (sv_le a 11) (.cons (sv_le b 4) .nil)))) (by decide)
theorem atomnGAddN32 (m a b) : Statement (.atomnGAddN32 m a b) :=
  of_below rfl (.cons (mk_le m) (.cons (sv_le a 11) (.cons (sv_le b 4) .nil))) (by decide)
theorem atomnGAddN64 (m a b) : Statement (.atomnGAddN64 m a b) :=
  of_below rfl (.cons (mk_le m) (.cons (sv_le a 11) (.cons (sv_le b 4) .nil))) (by decide)
theorem atomnGAddF32 (m a b) : Statement (.atomnGAddF32 m a b) :=
  of_below rfl (.cons (mk_le m) (.cons (sv_le a 11) (.cons (sv_le b 4) .nil))) (by decide)
theorem atomnGMinI32 (m a b) : Statement (.atomnGMinI32 m a b) :=
  of_below rfl (.cons (mk_le m) (.cons (sv_le a 11) (.cons (sv_le b 4) .nil))) (by decide)
theorem atomnGMinN32 (m a b) : Statement (.atomnGMinN32 m a b) :=
  of_below rfl (.cons (mk_le m) (.cons (sv_le a 11) (.cons (sv_le b 4) .nil))) (by decide)
theorem atomnGMaxI32 (m a b) : Statement (.atomnGMaxI32 m a b) :=
  of_below rfl (.cons (mk_le m) (.cons (sv_le a 11) (.cons (sv_le b 4) .nil))) (by decide)
theorem atomnGMaxN32 (m a b) : Statement (.atomnGMaxN32 m a b) :=
  of_below rfl (.cons (mk_le m) (.cons (sv_le a 11) (.cons (sv_le b 4) .nil))) (by decide)
theorem atomnGAndB32 (m a b) : Statement (.atomnGAndB32 m a b) :=
  of_below rfl (.cons (mk_le m) (.cons (sv_le a 11) (.cons (sv_le b 4) .nil))) (by decide)
theorem atomnGOrB32 (m a b) : Statement (.atomnGOrB32 m a b) :=
  of_below rfl (.cons (mk_le m) (.cons (sv_le a 11) (.cons (sv_le b 4) .nil))) (by decide)
theorem atomnGXorB32 (m a b) : Statement (.atomnGXorB32 m a b) :=
  of_below rfl (.cons (mk_le m) (.cons (sv_le a 11) (.cons (sv_le b 4) .nil))) (by decide)
theorem atomSAddN32 (m d a b) : Statement (.atomSAddN32 m d a b) :=
  of_below rfl (.cons (mk_le m) (.cons (sv_le d 18) (.cons (sv_le a 11) (.cons (sv_le b 4) .nil)))) (by decide)
theorem atomSAddN64 (m d a b) : Statement (.atomSAddN64 m d a b) :=
  of_below rfl (.cons (mk_le m) (.cons (sv_le d 18) (.cons (sv_le a 11) (.cons (sv_le b 4) .nil)))) (by decide)
theorem atomSAddF32 (m d a b) : Statement (.atomSAddF32 m d a b) :=
  of_below rfl (.cons (mk_le m) (.cons (sv_le d 18) (.cons (sv_le a 11) (.cons (sv_le b 4) .nil)))) (by decide)
theorem atomSMinI32 (m d a b) : Statement (.atomSMinI32 m d a b) :=
  of_below rfl (.cons (mk_le m) (.cons (sv_le d 18) (.cons (sv_le a 11) (.cons (sv_le b 4) .nil)))) (by decide)
theorem atomSMinN32 (m d a b) : Statement (.atomSMinN32 m d a b) :=
  of_below rfl (.cons (mk_le m) (.cons (sv_le d 18) (.cons (sv_le a 11) (.cons (sv_le b 4) .nil)))) (by decide)
theorem atomSMaxI32 (m d a b) : Statement (.atomSMaxI32 m d a b) :=
  of_below rfl (.cons (mk_le m) (.cons (sv_le d 18) (.cons (sv_le a 11) (.cons (sv_le b 4) .nil)))) (by decide)
theorem atomSMaxN32 (m d a b) : Statement (.atomSMaxN32 m d a b) :=
  of_below rfl (.cons (mk_le m) (.cons (sv_le d 18) (.cons (sv_le a 11) (.cons (sv_le b 4) .nil)))) (by decide)
theorem atomSAndB32 (m d a b) : Statement (.atomSAndB32 m d a b) :=
  of_below rfl (.cons (mk_le m) (.cons (sv_le d 18) (.cons (sv_le a 11) (.cons (sv_le b 4) .nil)))) (by decide)
theorem atomSOrB32 (m d a b) : Statement (.atomSOrB32 m d a b) :=
  of_below rfl (.cons (mk_le m) (.cons (sv_le d 18) (.cons (sv_le a 11) (.cons (sv_le b 4) .nil)))) (by decide)
theorem atomSXorB32 (m d a b) : Statement (.atomSXorB32 m d a b) :=
  of_below rfl (.cons (mk_le m) (.cons (sv_le d 18) (.cons (sv_le a 11) (.cons (sv_le b 4) .nil)))) (by decide)
theorem atomSExchN32 (m d a b) : Statement (.atomSExchN32 m d a b) :=
  of_below rfl (.cons (mk_le m) (.cons (sv_le d 18) (.cons (sv_le a 11) (.cons (sv_le b 4) .nil)))) (by decide)
theorem atomSExchN64 (m d a b) : Statement (.atomSExchN64 m d a b) :=
  of_below rfl (.cons (mk_le m) (.cons (sv_le d 18) (.cons (sv_le a 11) (.cons (sv_le b 4) .nil)))) (by decide)
theorem atomSCasN32 (m d a b) : Statement (.atomSCasN32 m d a b) :=
  of_below rfl (.cons (mk_le m) (.cons (sv_le d 18) (.cons (sv_le a 11) (.cons (sv_le b 4) .nil)))) (by decide)
theorem atomSCasN64 (m d a b) : Statement (.atomSCasN64 m d a b) :=
  of_below rfl (.cons (mk_le m) (.cons (sv_le d 18) (.cons (sv_le a 11) (.cons (sv_le b 4) .nil)))) (by decide)
theorem faddF32 (m rm d a b) : Statement (.faddF32 m rm d a b) :=
  of_below rfl (.cons (mk_le m) (.cons (rm_le rm 25) (.cons (sv_le d 18) (.cons (sv_le a 11) (.cons (sv_le b 4) .nil))))) (by decide)
theorem fsubF32 (m rm d a b) : Statement (.fsubF32 m rm d a b) :=
  of_below rfl (.cons (mk_le m) (.cons (rm_le rm 25) (.cons (sv_le d 18) (.cons (sv_le a 11) (.cons (sv_le b 4) .nil))))) (by decide)
theorem fmulF32 (m rm d a b) : Statement (.fmulF32 m rm d a b) :=
  of_below rfl (.cons (mk_le m) (.cons (rm_le rm 25) (.cons (sv_le d 18) (.cons (sv_le a 11) (.cons (sv_le b 4) .nil))))) (by decide)
theorem fdivF32 (m rm d a b) : Statement (.fdivF32 m rm d a b) :=
  of_below rfl (.cons (mk_le m) (.cons (rm_le rm 25) (.cons (sv_le d 18) (.cons (sv_le a 11) (.cons (sv_le b 4) .nil))))) (by decide)
theorem fsqrtF32 (m rm d a) : Statement (.fsqrtF32 m rm d a) :=
  of_below rfl (.cons (mk_le m) (.cons (rm_le rm 25) (.cons (sv_le d 18) (.cons (sv_le a 11) .nil)))) (by decide)
theorem fexpiF32 (m rm d a b) : Statement (.fexpiF32 m rm d a b) :=
  of_below rfl (.cons (mk_le m) (.cons (rm_le rm 25) (.cons (sv_le d 18) (.cons (sv_le a 11) (.cons (sv_le b 4) .nil))))) (by decide)
theorem ffmaF32 (m rm d a b c) : Statement (.ffmaF32 m rm d a b c) :=
  of_below rfl (.cons (mk_le m) (.cons (rm_le rm 25) (.cons (sv_le d 18) (.cons (sv_le a 11) (.cons (sv_le b 4) (.cons (sv_le c 0) .nil)))))) (by decide)
theorem ffmsF32 (m rm d a b c) : Statement (.ffmsF32 m rm d a b c) :=
  of_below rfl (.cons (mk_le m) (.cons (rm_le rm 25) (.cons (sv_le d 18) (.cons (sv_le a 11) (.cons (sv_le b 4) (.cons (sv_le c 0) .nil)))))) (by decide)
theorem fnmaF32 (m rm d a b c) : Statement (.fnmaF32 m rm d a b c) :=
  of_below rfl (.cons (mk_le m) (.cons (rm_le rm 25) (.cons (sv_le d 18) (.cons (sv_le a 11) (.cons (sv_le b 4) (.cons (sv_le c 0) .nil)))))) (by decide)
theorem fnmsF32 (m rm d a b c) : Statement (.fnmsF32 m rm d a b c) :=
  of_below rfl (.cons (mk_le m) (.cons (rm_le rm 25) (.cons (sv_le d 18) (.cons (sv_le a 11) (.cons (sv_le b 4) (.cons (sv_le c 0) .nil)))))) (by decide)
theorem ldD (m d a) : Statement (.ldD m d a) :=
  of_below rfl (.cons (mk_le m) (.cons (sv_le d 18) (.cons (sv_le a 11) .nil))) (by decide)
theorem stD (m c a b) : Statement (.stD m c a b) :=
  of_below rfl (.cons (mk_le m) (.cons (sv_le c 18) (.cons (sv_le a 11) (.cons (sv_le b 4) .nil)))) (by decide)
theorem dadd (m a b) : Statement (.dadd m a b) :=
  of_below rfl (.cons (mk_le m) (.cons (sv_le a 11) (.cons (sv_le b 4) .nil))) (by decide)
theorem dcls (m c a) : Statement (.dcls m c a) :=
  of_below rfl (.cons (mk_le m) (.cons (sv_le c 18) (.cons (sv_le a 11) .nil))) (by decide)
theorem armS (m a b) : Statement (.armS m a b) :=
  of_below rfl (.cons (mk_le m) (.cons (sv_le a 11) (.cons (sv_le b 4) .nil))) (by decide)
theorem vpin (m a) : Statement (.vpin m a) :=
  of_below rfl (.cons (mk_le m) (.cons (sv_le a 11) .nil)) (by decide)
theorem vunpin (m) : Statement (.vunpin m) :=
  of_below rfl (.cons (mk_le m) .nil) (by decide)
theorem vread (m d) : Statement (.vread m d) :=
  of_below rfl (.cons (mk_le m) (.cons (sv_le d 18) .nil)) (by decide)
theorem prefG (m a) : Statement (.prefG m a) :=
  of_below rfl (.cons (mk_le m) (.cons (sv_le a 11) .nil)) (by decide)
theorem tdesc (m x y z orig base) : Statement (.tdesc m x y z orig base) :=
  of_below rfl (.cons (mk_le m) (.cons (sv_le x 15) (.cons (sv_le y 9) (.cons (sv_le z 3) (.cons (sb_le orig 1) (.cons (sb_le base 0) .nil)))))) (by decide)
theorem mload (m x y) : Statement (.mload m x y) :=
  of_below rfl (.cons (mk_le m) (.cons (sv_le x 15) (.cons (sv_le y 9) .nil))) (by decide)
theorem tturn (m x y) : Statement (.tturn m x y) :=
  of_below rfl (.cons (mk_le m) (.cons (sv_le x 15) (.cons (sv_le y 9) .nil))) (by decide)
theorem mma (m x y z narrow clear) : Statement (.mma m x y z narrow clear) :=
  of_below rfl (.cons (mk_le m) (.cons (sv_le x 15) (.cons (sv_le y 9) (.cons (sv_le z 3) (.cons (sb_le narrow 1) (.cons (sb_le clear 0) .nil)))))) (by decide)
theorem mmaSc (m x y z narrow clear) : Statement (.mmaSc m x y z narrow clear) :=
  of_below rfl (.cons (mk_le m) (.cons (sv_le x 15) (.cons (sv_le y 9) (.cons (sv_le z 3) (.cons (sb_le narrow 1) (.cons (sb_le clear 0) .nil)))))) (by decide)
theorem mmaPn (m x y z narrow clear) : Statement (.mmaPn m x y z narrow clear) :=
  of_below rfl (.cons (mk_le m) (.cons (sv_le x 15) (.cons (sv_le y 9) (.cons (sv_le z 3) (.cons (sb_le narrow 1) (.cons (sb_le clear 0) .nil)))))) (by decide)
theorem mstore (m x sat) : Statement (.mstore m x sat) :=
  of_below rfl (.cons (mk_le m) (.cons (sv_le x 15) (.cons (sb_le sat 0) .nil))) (by decide)
theorem ecopy (m x y z eng) : Statement (.ecopy m x y z eng) :=
  of_below rfl (.cons (mk_le m) (.cons (sv_le x 15) (.cons (sv_le y 9) (.cons (sv_le z 3) (.cons (sv_le eng 0) .nil))))) (by decide)
theorem egath (m x y z) : Statement (.egath m x y z) :=
  of_below rfl (.cons (mk_le m) (.cons (sv_le x 15) (.cons (sv_le y 9) (.cons (sv_le z 3) .nil)))) (by decide)
theorem escat (m x y z) : Statement (.escat m x y z) :=
  of_below rfl (.cons (mk_le m) (.cons (sv_le x 15) (.cons (sv_le y 9) (.cons (sv_le z 3) .nil)))) (by decide)
theorem ecoll (m x y z eng) : Statement (.ecoll m x y z eng) :=
  of_below rfl (.cons (mk_le m) (.cons (sv_le x 15) (.cons (sv_le y 9) (.cons (sv_le z 3) (.cons (sv_le eng 0) .nil))))) (by decide)
theorem publish (m x) : Statement (.publish m x) :=
  of_below rfl (.cons (mk_le m) (.cons (sv_le x 15) .nil)) (by decide)
theorem eseqMilepost (m x eng) : Statement (.eseqMilepost m x eng) :=
  of_below rfl (.cons (mk_le m) (.cons (sv_le x 15) (.cons (sv_le eng 0) .nil))) (by decide)
theorem eseqLast (m x eng) : Statement (.eseqLast m x eng) :=
  of_below rfl (.cons (mk_le m) (.cons (sv_le x 15) (.cons (sv_le eng 0) .nil))) (by decide)
theorem ewait (m x eng) : Statement (.ewait m x eng) :=
  of_below rfl (.cons (mk_le m) (.cons (sv_le x 15) (.cons (sv_le eng 0) .nil))) (by decide)
theorem optstep (m x y) : Statement (.optstep m x y) :=
  of_below rfl (.cons (mk_le m) (.cons (sv_le x 15) (.cons (sv_le y 9) .nil))) (by decide)
theorem dsweep (m x eng) : Statement (.dsweep m x eng) :=
  of_below rfl (.cons (mk_le m) (.cons (sv_le x 15) (.cons (sv_le eng 0) .nil))) (by decide)
theorem barrierArrive : ∀ a0, Statement (.barrierArrive a0) := fun _ => of_none rfl
theorem treeBarrierPhaseComplete : ∀ a0 a1 a2, Statement (.treeBarrierPhaseComplete a0 a1 a2) := fun _ _ _ => of_none rfl
theorem waveSlotFree : ∀ a0, Statement (.waveSlotFree a0) := fun _ => of_none rfl
theorem resultArrival : ∀ a0 a1, Statement (.resultArrival a0 a1) := fun _ _ => of_none rfl
theorem storePerformed : ∀ a0 a1, Statement (.storePerformed a0 a1) := fun _ _ => of_none rfl
theorem atomicPerformed : ∀ a0 a1, Statement (.atomicPerformed a0 a1) := fun _ _ => of_none rfl
theorem writeMadeVisible : ∀ a0 a1, Statement (.writeMadeVisible a0 a1) := fun _ _ => of_none rfl
theorem xacqGrant : ∀ a0 a1, Statement (.xacqGrant a0 a1) := fun _ _ => of_none rfl
theorem deadlockTrap : ∀ a0, Statement (.deadlockTrap a0) := fun _ => of_none rfl
theorem vpinPin : ∀ a0, Statement (.vpinPin a0) := fun _ => of_none rfl
theorem vunpinRelease : ∀ a0, Statement (.vunpinRelease a0) := fun _ => of_none rfl
theorem engineCommandBegin : ∀ a0 a1, Statement (.engineCommandBegin a0 a1) := fun _ _ => of_none rfl
theorem arrive : ∀ a0 a1 a2, Statement (.arrive a0 a1 a2) := fun _ _ _ => of_none rfl
theorem pointsThrow : ∀ a0 a1, Statement (.pointsThrow a0 a1) := fun _ _ => of_none rfl
theorem milepostWrite : ∀ a0 a1, Statement (.milepostWrite a0 a1) := fun _ _ => of_none rfl
theorem followOnIssue : ∀ a0 a1, Statement (.followOnIssue a0 a1) := fun _ _ => of_none rfl
theorem matrixQueueStart : ∀ a0 a1, Statement (.matrixQueueStart a0 a1) := fun _ _ => of_none rfl
theorem matrixInstructionComplete : ∀ a0 a1, Statement (.matrixInstructionComplete a0 a1) := fun _ _ => of_none rfl
theorem activationTableSwitch : ∀ a0 a1 a2, Statement (.activationTableSwitch a0 a1 a2) := fun _ _ _ => of_none rfl
theorem collectiveExecute : ∀ a0 a1 a2, Statement (.collectiveExecute a0 a1 a2) := fun _ _ _ => of_none rfl
theorem publishSwitch : ∀ a0 a1, Statement (.publishSwitch a0 a1) := fun _ _ => of_none rfl
theorem trapEntry : ∀ a0, Statement (.trapEntry a0) := fun _ => of_none rfl
theorem saveLimitExpiry : ∀ a0, Statement (.saveLimitExpiry a0) := fun _ => of_none rfl
theorem preemptionHandlerStart : ∀ a0, Statement (.preemptionHandlerStart a0) := fun _ => of_none rfl
theorem waveLeavesCore : ∀ a0, Statement (.waveLeavesCore a0) := fun _ => of_none rfl
theorem unitResume : ∀ a0, Statement (.unitResume a0) := fun _ => of_none rfl
theorem resumeRelease : ∀ a0, Statement (.resumeRelease a0) := fun _ => of_none rfl
theorem codeSwapRetire : ∀ a0 a1, Statement (.codeSwapRetire a0 a1) := fun _ _ => of_none rfl
theorem sampleTake : ∀ a0, Statement (.sampleTake a0) := fun _ => of_none rfl
theorem junctionClaim : ∀ a0 a1, Statement (.junctionClaim a0 a1) := fun _ _ => of_none rfl
theorem stealRequest : ∀ a0 a1, Statement (.stealRequest a0 a1) := fun _ _ => of_none rfl
theorem stealReply : ∀ a0 a1 a2, Statement (.stealReply a0 a1 a2) := fun _ _ _ => of_none rfl
theorem unitPlacement : ∀ a0 a1, Statement (.unitPlacement a0 a1) := fun _ _ => of_none rfl
theorem dispatch : ∀ a0 a1, Statement (.dispatch a0 a1) := fun _ _ => of_none rfl
theorem priorityAging : ∀ a0, Statement (.priorityAging a0) := fun _ => of_none rfl
theorem preemptionDecision : ∀ a0, Statement (.preemptionDecision a0) := fun _ => of_none rfl
theorem timeLimitExpiry : ∀ a0, Statement (.timeLimitExpiry a0) := fun _ => of_none rfl
theorem launchComplete : ∀ a0, Statement (.launchComplete a0) := fun _ => of_none rfl
theorem serialisedReexecutionEnd : ∀ a0, Statement (.serialisedReexecutionEnd a0) := fun _ => of_none rfl
theorem tlbFill : ∀ a0 a1 a2, Statement (.tlbFill a0 a1 a2) := fun _ _ _ => of_none rfl
theorem invalidateDone : ∀ a0, Statement (.invalidateDone a0) := fun _ => of_none rfl
theorem heldFaultOpen : ∀ a0, Statement (.heldFaultOpen a0) := fun _ => of_none rfl
theorem shardedOwnerAccess : ∀ a0 a1 a2 a3 a4 a5, Statement (.shardedOwnerAccess a0 a1 a2 a3 a4 a5) := fun _ _ _ _ _ _ => of_none rfl
theorem shardedOwnerAnswer : ∀ a0 a1 a2 a3 a4, Statement (.shardedOwnerAnswer a0 a1 a2 a3 a4) := fun _ _ _ _ _ => of_none rfl
theorem lineEvictionError : ∀ a0, Statement (.lineEvictionError a0) := fun _ => of_none rfl
theorem scrubPass : ∀ a0 a1 a2 a3, Statement (.scrubPass a0 a1 a2 a3) := fun _ _ _ _ => of_none rfl
theorem predictiveWindow : ∀ a0 a1, Statement (.predictiveWindow a0 a1) := fun _ _ => of_none rfl
theorem doorbellWrite : ∀ a0 a1 a2 a3, Statement (.doorbellWrite a0 a1 a2 a3) := fun _ _ _ _ => of_none rfl
theorem registerWrite : ∀ a0 a1 a2, Statement (.registerWrite a0 a1 a2) := fun _ _ _ => of_none rfl
theorem launch : ∀ a0 a1, Statement (.launch a0 a1) := fun _ _ => of_none rfl
theorem contextCreate : ∀ a0 a1, Statement (.contextCreate a0 a1) := fun _ _ => of_none rfl
theorem contextEnd : ∀ a0 a1, Statement (.contextEnd a0 a1) := fun _ _ => of_none rfl
theorem preempt : ∀ a0 a1, Statement (.preempt a0 a1) := fun _ _ => of_none rfl
theorem invalidate : ∀ a0 a1, Statement (.invalidate a0 a1) := fun _ _ => of_none rfl
theorem faultResolve : ∀ a0 a1, Statement (.faultResolve a0 a1) := fun _ _ => of_none rfl
theorem codeSwap : ∀ a0 a1, Statement (.codeSwap a0 a1) := fun _ _ => of_none rfl
theorem decayTableReload : ∀ a0 a1, Statement (.decayTableReload a0 a1) := fun _ _ => of_none rfl
theorem rangeCreate : ∀ a0 a1, Statement (.rangeCreate a0 a1) := fun _ _ => of_none rfl
theorem rangeDestroy : ∀ a0 a1, Statement (.rangeDestroy a0 a1) := fun _ _ => of_none rfl
theorem shardSet : ∀ a0 a1, Statement (.shardSet a0 a1) := fun _ _ => of_none rfl
theorem collectiveGroup : ∀ a0 a1, Statement (.collectiveGroup a0 a1) := fun _ _ => of_none rfl
theorem partition : ∀ a0 a1, Statement (.partition a0 a1) := fun _ _ => of_none rfl
theorem selfTest : ∀ a0 a1, Statement (.selfTest a0 a1) := fun _ _ => of_none rfl
theorem selfTestDone : ∀ a0, Statement (.selfTestDone a0) := fun _ => of_none rfl
theorem trunkConfigure : ∀ a0 a1, Statement (.trunkConfigure a0 a1) := fun _ _ => of_none rfl
theorem attest : ∀ a0 a1, Statement (.attest a0 a1) := fun _ _ => of_none rfl
theorem powerLimit : ∀ a0 a1, Statement (.powerLimit a0 a1) := fun _ _ => of_none rfl
theorem errorRecord : ∀ a0 a1, Statement (.errorRecord a0 a1) := fun _ _ => of_none rfl
theorem predictiveThresholds : ∀ a0 a1, Statement (.predictiveThresholds a0 a1) := fun _ _ => of_none rfl
theorem trunkFlitReceive : ∀ a0 a1 a2 a3 a4, Statement (.trunkFlitReceive a0 a1 a2 a3 a4) := fun _ _ _ _ _ => of_none rfl
theorem linkDown : ∀ a0, Statement (.linkDown a0) := fun _ => of_none rfl
theorem exchangeTick : Statement .exchangeTick := of_none rfl
theorem tickLoss : Statement .tickLoss := of_none rfl
theorem coldReset : ∀ a0, Statement (.coldReset a0) := fun _ => of_none rfl
theorem deviceReset : Statement .deviceReset := of_none rfl
theorem partitionReset : ∀ a0, Statement (.partitionReset a0) := fun _ => of_none rfl
theorem wipeComplete : Statement .wipeComplete := of_none rfl
theorem thermalRequest : Statement .thermalRequest := of_none rfl
theorem thermalWithdraw : Statement .thermalWithdraw := of_none rfl
theorem lcbufWrite : ∀ a0, Statement (.lcbufWrite a0) := fun _ => of_none rfl
theorem lcApply : Statement .lcApply := of_none rfl
theorem lcDiscard : Statement .lcDiscard := of_none rfl
theorem clockLower : Statement .clockLower := of_none rfl
theorem clockRaise : Statement .clockRaise := of_none rfl
theorem linkRetrain : ∀ a0 a1, Statement (.linkRetrain a0 a1) := fun _ _ => of_none rfl
theorem pcieAtomicop : ∀ a0 a1 a2 a3 a4, Statement (.pcieAtomicop a0 a1 a2 a3 a4) := fun _ _ _ _ _ => of_none rfl
theorem instructionFetch : ∀ a0 a1, Statement (.instructionFetch a0 a1) := fun _ _ => of_none rfl

end Sys2Proof.Laws.WordFits
end

