-- ==== Sys2Proof/Laws/Scalars.lean ====
section
/-! SUPPORT. Immediates and operands of scalar words as the statements spell them, and which words end a run. -/

namespace Sys2Proof.Laws

open Sys2Proof.Machine Sys2Proof.Terms

@[simp] theorem sc_last (m i : Bool) : (Form.sc m i).last = m := by cases m <;> rfl
@[simp] theorem sc0_last (m : Bool) : (Form.sc0 m).last = m := by cases m <;> rfl
@[simp] theorem v3_last (m : Bool) (l : List Spec) : (Form.v3 m l).last = m := by cases m <;> rfl
@[simp] theorem vi_last (m : Bool) (l : List Spec) : (Form.vi m l).last = m := by cases m <;> rfl
@[simp] theorem ct_last (i : Bool) : (Form.ct i).last = true := rfl
@[simp] theorem userOnly_last (f : Form) : f.userOnly.last = f.last := rfl
@[simp] theorem ending_last (f : Form) : f.ending.last = true := by simp [Form.ending, Form.last]
@[simp] theorem engineForm_last (m : Bool) : (engineForm m).last = m := by cases m <;> rfl
@[simp] theorem plain_last (m : Bool) (l : List Spec) (i u : Bool) : (⟨m, false, l, i, u⟩ : Form).last = m := by
  cases m <;> rfl

theorem ofNat_mod64 (z : Int) : BitVec.ofNat 64 (z % 18446744073709551616).toNat = BitVec.ofInt 64 z := by
  apply BitVec.eq_of_toNat_eq
  have h1 : z % 18446744073709551616 < 18446744073709551616 := Int.emod_lt_of_pos _ (by decide)
  have h0 : 0 ≤ z % 18446744073709551616 := Int.emod_nonneg _ (by decide)
  simp [BitVec.toNat_ofInt]
  omega

theorem ofNat_wrap64 (z : Int) : BitVec.ofNat 64 (wrap 64 z) = BitVec.ofInt 64 z := by
  rw [wrap_eq, BitVec.ofNat_toNat, BitVec.setWidth_eq]

/-- The immediate of an SC word. -/
theorem scImm_eq (p : Option Nat) (x : BitVec 7) : BitVec.ofNat 64 (scImm p x) = imm64 p x := by
  unfold scImm imm64
  cases p <;> simp [sgn_eq, BitVec.signExtend, sext, wrap_eq, ofNat_mod64]

/-- The second operand of an SC word. -/
theorem scX_eq (s : State) (w : Wave) (i : Bool) (x : BitVec 7) : scX s w s.cur 2 i x = scalX s w i x := by
  unfold scX scalX
  cases i <;> simp [scImm_eq]

/-- Writing a register the value that it has changes nothing that can be read. -/
theorem isEmpty_eq {α : Type} (l : List α) : l.isEmpty = decide (l = []) := by cases l <;> simp

end Sys2Proof.Laws
end

