-- ==== Sys2Proof/Machine/CodeObject.lean ====
section
/-! DEFINITION. What the assembler and the loader make for the device (05 R193-R201): literals and offsets as fields of words,
switch markers, the image of a code object, its kernels, and the launch records that templates hold. These run outside the
device; no step calls them. -/

namespace Sys2Proof.Machine

/-- A number that fits a signed field of `n` bits. -/
def fitsSigned (n : Nat) (x : Int) : Bool := decide (-(2 ^ (n - 1) : Int) ≤ x) && decide (x < (2 ^ (n - 1) : Int))

/-- A `wimm` payload and the immediate field below it, `n` bits wide (05 R178). -/
def wideFields (n : Nat) (x : Int) : BitVec 25 × Nat := (BitVec.ofNat 25 (wrap (n + 25) x / 2 ^ n), wrap n x)

/-- The fields of a byte offset for an access of `size` bytes (05 R193, R194): a multiple of the size whose quotient fits
IMM7, or a `wimm` word. None is an assembly error. -/
def offsetFields (size : Nat) (off : Int) : Option (Option (BitVec 25) × Nat) :=
  if off % size == 0 && fitsSigned 7 (off / size) then some (none, wrap 7 (off / size))
  else if fitsSigned 32 off then some (some (wideFields 7 off).1, (wideFields 7 off).2)
  else none

/-- The fields of a literal of arithmetic and logic: 32-bit operations take any 32 bits, 64-bit ones a signed number of 32
bits (05 R178, R194). -/
def literalFields (wide64 : Bool) (x : Int) : Option (Option (BitVec 25) × Nat) :=
  if fitsSigned 7 x then some (none, wrap 7 x)
  else if fitsSigned 32 x || (!wide64 && decide (0 ≤ x) && decide (x < 2 ^ 32)) then some (some (wideFields 7 x).1, (wideFields 7 x).2)
  else none

/-- The fields of a relative branch whose target lies `words` words from it (05 R178, R184). -/
def branchFields (words : Int) : Option (Option (BitVec 25) × Nat) :=
  if fitsSigned 21 words then some (none, wrap 21 words)
  else if fitsSigned 46 words then some (some (wideFields 21 words).1, (wideFields 21 words).2)
  else none

/-- A word of a run-ending instruction (02 R79), by its major opcode and F (05 R181-R184, R189). -/
def endsRunWord (w : Nat) : Bool :=
  let ct := bitsAt w 21 4
  match bitsAt w 25 6 with
  | 0x04 => [3, 4, 7, 8].contains (bitsAt w 8 5)
  | 0x05 => [0, 1, 2, 3, 4, 5, 6, 7, 8, 9, 10, 11, 12].contains ct
  | 0x06 => [0, 1, 2, 3, 4, 5].contains ct
  | 0x1F => ct == 6
  | _ => false

/-- A HN word (05 R181). -/
def isHnWord (w : Nat) : Bool := bitsAt w 25 6 == 1 || bitsAt w 25 6 == 2

/-- The word with its switch marker (05 R194); `!` after a HN word is an assembly error. -/
def markWord (bang : Bool) (w : Nat) : Option Nat :=
  if bang && isHnWord w then none
  else if (bang || endsRunWord w) && !tst w 31 then some (w + 2 ^ 31) else some w

/-- A straight line of more than 24 words, none of which acts as marked, is an assembly error (05 R194); `n` words of it
have passed. -/
def runTooLong : Nat → List Nat → Bool
  | n, [] => decide (24 < n)
  | n, w :: l => decide (24 < n) || runTooLong (if tst w 31 || endsRunWord w then 0 else n + 1) l

/-- The word that `.align` pads `.text` with (05 R196). -/
def padWord : Nat := 0x0BC00000

/-- `n` rounded up to a multiple of `a`. -/
def roundUp (n a : Nat) : Nat := cdiv n a * a

/-- Where the contents of `.data` begin, after `len` bytes of `.text` (05 R197); `align` is the largest `.align` in them. -/
def dataOffset (len align : Nat) : Nat := roundUp len (max 8 align)

/-- A line `.levels`: extent, domain, scope and platform (05 R196). -/
structure TierDecl where
  extent : Nat
  dom : Nat
  scope : Nat
  plat : Option Nat
  deriving DecidableEq, Repr

/-- Its tier byte (13 R389). -/
def TierDecl.byte (l : TierDecl) : Nat := (l.plat.map (fun p => 32 * p + 16)).getD 0 + 4 * l.scope + l.dom

/-- What the directives of a kernel say (05 R196). -/
structure Directives where
  width : Nat := 64
  levels : List TierDecl
  seed : W64 := 0#64
  block : Nat := 0
  scratch : Nat := 0
  triple : Bool := true
  det : Bool := false
  nctl : W32 := 0#32
  deriving DecidableEq, Repr

/-- A level's operands are in range. -/
def TierDecl.ok (l : TierDecl) : Bool :=
  decide (l.extent < 2 ^ 32) && decide (l.dom < 4) && decide (l.scope < 4) && (l.plat.map (fun p => decide (p < 8))).getD true

/-- The operands of the directives are in range; a kernel without `.levels` is an assembly error (05 R196). -/
def Directives.ok (d : Directives) : Bool :=
  decide (8 ≤ d.width) && decide (d.width ≤ 64) && decide (2 ≤ d.levels.length) && decide (d.levels.length ≤ 6) && d.levels.all TierDecl.ok &&
    decide (d.block ≤ 2) && d.scratch % 256 == 0 && decide (d.scratch ≤ 393216)

/-- The launch-record template of a kernel (05 R196, R200): the fields of 13 R388 that directives set. -/
def Directives.template (d : Directives) : Nat :=
  let row (w : Nat) (f : TierDecl → Nat) : Nat := d.levels.foldr (fun l n => f l + n * 2 ^ w) 0
  row 8 TierDecl.byte * 2 ^ 704 + row 32 (·.extent) * 2 ^ 512 + d.scratch * 2 ^ 224 + d.nctl.toNat * 2 ^ 192 + d.seed.toNat * 2 ^ 128 +
    d.width * 2 ^ 32 + (d.levels.length + 1) * 2 ^ 26 + d.block * 2 ^ 24 + bnat d.triple * 2 ^ 22 + bnat d.det * 2 ^ 21 + 1

/-- `n` bytes of a file from `off`, where it has them. -/
def slice (f : List Byte) (off n : Nat) : Option (List Byte) := if off + n ≤ f.length then some ((f.drop off).take n) else none

/-- A section of a code object: kind, contents, offset in the image and alignment (05 R199). -/
structure ObjSection where
  kind : Nat
  bytes : List Byte
  ioff : Nat
  align : Nat
  deriving DecidableEq, Repr

/-- A kernel of a code object (05 R199). -/
structure ObjKernel where
  entry : Nat
  tmpl : Nat
  name : Nat
  deriving DecidableEq, Repr

/-- A code object that the loader accepts (05 R198). -/
structure CodeObject where
  step : Nat
  sections : List ObjSection
  kernels : List ObjKernel
  deriving DecidableEq, Repr

/-- The section entry at `off`: a kind beyond 4 and a nonzero reserved field are rejected (05 R199, R200). -/
def readSection (f : List Byte) (off : Nat) : Option ObjSection :=
  match slice f off 24 with
  | none => none
  | some e =>
    let v := ofBytes e
    if bitsAt v 8 16 != 0 || bitsAt v 0 8 == 0 || decide (4 < bitsAt v 0 8) then none
    else (slice f (bitsAt v 128 64) (bitsAt v 64 64)).map (fun b => ⟨bitsAt v 0 8, b, bitsAt v 32 32, bitsAt v 24 8⟩)

/-- The kernel entry at `off` (05 R199). -/
def readKernel (f : List Byte) (off : Nat) : Option ObjKernel :=
  match slice f off 32 with
  | none => none
  | some e =>
    let v := ofBytes e
    if bitsAt v 0 64 != 0 then none else some ⟨bitsAt v 192 64, bitsAt v 128 64, bitsAt v 64 64⟩

/-- A code object from its file: rejected whole for a wrong MAGIC or FMTV or for an entry that is rejected (05 R198-R200). DESIGN CHOICE
(log 57): a table or section that reaches past the end of the file is rejected too, and the object with it. -/
def readCodeObject (f : List Byte) : Option CodeObject :=
  match slice f 0 32 with
  | none => none
  | some h =>
    let v := ofBytes h
    if bitsAt v 0 32 != 0x4C505256 || bitsAt v 32 16 != 1 then none
    else
      let secs := (span 0 (bitsAt v 64 32)).map (fun i => readSection f (bitsAt v 128 64 + 24 * i))
      let kers := (span 0 (bitsAt v 96 32)).map (fun i => readKernel f (bitsAt v 192 64 + 32 * i))
      if secs.all Option.isSome && kers.all Option.isSome then
        some ⟨bitsAt v 48 16, secs.filterMap id, kers.filterMap id⟩
      else none

/-- Sections that the image holds (05 R200). -/
def CodeObject.placed (o : CodeObject) : List ObjSection := o.sections.filter (fun x => x.kind == 1 || x.kind == 2)

/-- The alignment of the image: the largest of its sections, and at least 32 KiB (05 R200). -/
def CodeObject.align (o : CodeObject) : Nat := o.placed.foldl (fun a x => max a (2 ^ x.align)) 32768

/-- The image: text and data at their offsets, the bytes between them zero (05 R197, R200). -/
def CodeObject.image (o : CodeObject) : FMap Byte := o.placed.foldl (fun m x => putBytes m x.ioff x.bytes) []

/-- Its length. -/
def CodeObject.size (o : CodeObject) : Nat := o.placed.foldl (fun n x => max n (x.ioff + x.bytes.length)) 0

/-- The loader writes the image at a physical base with the image's alignment (05 R200). -/
def CodeObject.load (o : CodeObject) (base : Nat) (s : State) : Option State :=
  if base % o.align == 0 then some (writeHome (freshCode s base o.size) base ((span 0 o.size).map (zget 0#8 o.image))) else none

/-- The template of a kernel, in the section of templates (05 R199, R200). -/
def CodeObject.template (o : CodeObject) (k : ObjKernel) : Option Nat :=
  match o.sections.find? (fun x => x.kind == 4) with
  | none => none
  | some x => (slice x.bytes k.tmpl 128).map ofBytes

/-- A launch record that the loader completes from a template (05 R200, R201): STEP from the header, ENTRY where the kernel
lies at the image's virtual base. The host fills what is left (13 R388). -/
def CodeObject.record (o : CodeObject) (k : ObjKernel) (base : Nat) : Option Nat :=
  (o.template k).map fun v =>
    bitsAt v 784 240 * 2 ^ 784 + o.step * 2 ^ 768 + bitsAt v 128 640 * 2 ^ 128 + (base + k.entry) % 2 ^ 64 * 2 ^ 64 + bitsAt v 0 64

end Sys2Proof.Machine
end

