-- ==== Sys2Proof/Machine/Ports.lean ====
section
/-! DEFINITION. What the outside reads from the device's own ports: queue entries and doorbells in BAR0 (15 R437) and the
registers of the management port (15 R460, R461). A read changes nothing. -/

namespace Sys2Proof.Machine

/-- The 32-byte entry of queue `q` as a number (15 R437). EVBASE and EVLOG stand in queue 0's entry only. -/
def queueEntry (f : Func) (queue : Nat) (q : Queue) : Nat :=
  let ev (n : Nat) : Nat := if queue == 0 then n else 0
  q.qbase * 2 ^ 192 + ev f.evbase * 2 ^ 128 + q.head * 2 ^ 96 + q.tail * 2 ^ 64 + q.qlog * 2 ^ 56 + ev f.evlog * 2 ^ 48 + bnat q.qerr

/-- The 8 bytes of BAR0 at `reg`: a queue's entry, or a doorbell, which reads as the tail accepted from it. A function that
does not answer gives none (14 R427, 15 R454). -/
def barRead (s : State) (fn reg : Nat) : Option Nat :=
  match mget s.funcs fn with
  | none => none
  | some f =>
    if !fnAnswers s f || reg % 8 != 0 then none
    else if 0x1000 ≤ reg then (f.queues[(reg - 0x1000) / 8]?).map (·.tail)
    else (f.queues[reg / 32]?).map (fun q => bitsAt (queueEntry f (reg / 32) q) (8 * (reg % 32)) 64)

/-- What a function answers a configuration read with: the register, whose contents PCI Express gives and the manual does not;
Configuration Request Retry Status; or nothing. -/
inductive ConfigAnswer where
  | register
  | retry
  | silent
  deriving DecidableEq, Repr

/-- A configuration read of a function (15 R454, R456): retry until the wipe that affects it completes; a device held in reset answers
over its management port alone. -/
def configRead (s : State) (fn : Nat) : ConfigAnswer :=
  match mget s.funcs fn with
  | none => .silent
  | some f => if s.mgmt.bootStat == 2 then .silent else if s.booting || f.wiping then .retry else .register

/-- BOOT (15 R456, R461): a fatal entry holds the device until a reset. -/
def bootReg (m : Mgmt) : Nat := if m.fatal then 3 else m.bootImage * 2 ^ 8 + m.bootStat

/-- ATTST (15 R457, R461). -/
def attestReg (m : Mgmt) : Nat := bnat (m.indices != 0) + 2 * bnat (m.blocksLeft != 0)

/-- The key of the counter that PCSEL names. A Trunk link has two counters and the manual does not say which of them is read
(log 45). -/
def selectedCounter (s : State) : Nat :=
  let u := s.mgmt.pcsel.toNat
  if u / 2 ^ 28 == 7 || (u / 2 ^ 28 == 6 && tst (freeVal s 9780).toNat 0) then 2 ^ 32 + u else u

/-- PCVAL (15 R461): the count in the window and the crossings since reset. -/
def counterReg (s : State) : Nat :=
  zget 0 s.mgmt.crossings (selectedCounter s) % 2 ^ 32 * 2 ^ 32 + zget 0 s.mgmt.counters (selectedCounter s) % 2 ^ 32

/-- A register of the management port: its bytes and its value (15 R461). It answers also while the device is held in reset;
an index that is not listed, and the write-only LCBUF, read as zero. -/
def portRead (s : State) (index : Nat) : Nat × Nat :=
  let m := s.mgmt
  match index with
  | 0x00 => (4, 0x53455258)
  | 0x01 => (4, 0x4753 * 2 ^ 16 + 0x0009)
  | 0x02 => (1, m.lcs)
  | 0x03 => (4, bootReg m)
  | 0x04 => (2, m.temp.toNat % 2 ^ 16)
  | 0x05 => (2, m.power.toNat % 2 ^ 16)
  | 0x06 => (2, m.plim)
  | 0x07 => (1, bnat m.therm)
  | 0x08 => (1, attestReg m)
  | 0x10 => (4, m.pcsel.toNat)
  | 0x11 => (8, counterReg s)
  | 0x20 => (1, m.errn)
  | 0x21 => (64, lget 0 m.newest m.errn)
  | 0x30 => (8, m.lcnonce.toNat)
  | 0x32 => (1, m.lccmd)
  | _ => (1, 0)

/-- A private read (15 R461): the bytes of the selected register, little-endian. -/
def portBytes (s : State) : List Byte :=
  let r := portRead s s.mgmt.sel
  bytesOf r.1 r.2

end Sys2Proof.Machine
end

