-- ==== Sys2Proof/Tests/Fixtures.lean ====
section
/-! SUPPORT. The small device on which the tests and witnesses run: one context, one launch of one unit, one wave of eight
threads in single mode at user level, all at `0x1000000`, its word at hand (log 2). -/

namespace Sys2Proof.Tests

open Sys2Proof.Machine

/-- The loaded device with the word at `0x1000000` at hand for all eight threads. -/
def sys : State :=
  { loaded State.reset with cur := ⟨0, 0x1000000#64, 0x1000000#64, [0, 1, 2, 3, 4, 5, 6, 7], 0, none, none⟩ }

/-- Its wave. -/
def wv : Wave := startWave 0 0 1 0 0 0 8 0 2 0 0#32 false false false (fun _ => 0#64) 0x1000000#64

/-- Register copy `k` of register `p` set in every thread. -/
def put (p k : Nat) (v : Nat) (s : State) : State :=
  modW s 0 (fun w => w.mapThreads (fun t =>
    { t with regs := zset (Cell.val 0#32) t.regs (4 * p + k) (.val (BitVec.ofNat 32 v)) }))

/-- A scalar register set. -/
def putS (j : Nat) (v : Nat) (s : State) : State := modW s 0 (fun w => { w with scal := zset 0#64 w.scal j (BitVec.ofNat 64 v) })

/-- The wave changed. -/
def onW (f : Wave → Wave) (s : State) : State := modW s 0 f

/-- Every thread changed. -/
def onT (f : Thread → Thread) (s : State) : State := modW s 0 (fun w => w.mapThreads f)

/-- The execution at hand changed. -/
def onX (f : Exec → Exec) (s : State) : State := { s with cur := f s.cur }

/-- The state that an outcome gives, reset where it gives none. -/
def after : Out → State
  | .next s => s
  | _ => State.reset

/-- The wave in an outcome. -/
def waveIn (o : Out) : Option Wave := mget (after o).waves 0

/-- A register copy of thread `n` in an outcome. -/
def reg (o : Out) (n p k : Nat) : Option Cell :=
  (waveIn o).bind (fun w => (w.thread n).map (fun t => zget (Cell.val 0#32) t.regs (4 * p + k)))

/-- A scalar register in an outcome. -/
def scal (o : Out) (j : Nat) : Option W64 := (waveIn o).map (fun w => zget 0#64 w.scal j)

/-- Where thread `n` stands in an outcome. -/
def pc (o : Out) (n : Nat) : Option W64 := (waveIn o).bind (fun w => (w.thread n).map (·.pc))

/-- The state of thread `n` in an outcome. -/
def tst (o : Out) (n : Nat) : Option TState := (waveIn o).bind (fun w => (w.thread n).map (·.st))

/-- `aflag` in an outcome. -/
def flags (o : Out) : Option W32 := (waveIn o).map (·.aflag)

/-- The code of the trap that the wave serves in an outcome. -/
def trapped (o : Out) : Option Nat := (waveIn o).bind (fun w => w.priv.map (·.cause.code))

end Sys2Proof.Tests
end

