-- ==== Sys2Proof/Tests/Slice0.lean ====
section
/-! SUPPORT. Tests: the decoding of a word of every word row, written out from the encodings of spec/05-09; operands that no
instruction takes; and one step each of chosen instructions, with results worked out by hand from the rules. -/

namespace Sys2Proof.Tests

open Sys2Proof.Machine

/-! Operands that an instruction does not take (05 R175, R183-R190; 07 R248). -/

/-- 05 R175: `l1` and a scalar are no destinations; a 64-bit destination is even (02 R58). -/
theorem test_wf_destinations :
    (Instr.addN32 false 0x69#7 1#7 2#7).wf = false ∧ (Instr.addN32 false 0x70#7 1#7 2#7).wf = false ∧
      (Instr.addN32 false 0x68#7 1#7 2#7).wf = true ∧ (Instr.addN64 false 3#7 2#7 4#7).wf = false ∧
      (Instr.mulwN32 false 3#7 2#7 4#7).wf = false ∧ (Instr.voteBallot false 3#7 2#7 0#4).wf = false := by
  decide

/-- 02 R58: a 64-bit source in registers is even. -/
theorem test_wf_sources :
    (Instr.addN64 false 2#7 3#7 4#7).wf = false ∧ (Instr.addN64 false 2#7 4#7 5#7).wf = false ∧
      (Instr.addN64 false 2#7 4#7 0x69#7).wf = true ∧ (Instr.stGN64 false 3#7 4#7 0#7).wf = false ∧
      (Instr.jmpr false 5#7).wf = false ∧ (Instr.callr false 5#7).wf = false := by
  decide

/-- 08 R298: the operand of `cas.n64` begins at a multiple of 4; 07 R270: no stochastic rounding to integers. -/
theorem test_wf_quads_and_rounding :
    (Instr.atomGCasN64 false 2#7 4#7 6#7).wf = false ∧ (Instr.atomGCasN64 false 2#7 4#7 8#7).wf = true ∧
      (Instr.cvtI32F32 false 2#7 4#7 .rs).wf = false ∧ (Instr.cvtI64F32 false 2#7 4#7 .rs).wf = false := by
  decide

/-- 07 R272: sibling 3 does not exist, and `sibset` takes no `l0`. -/
theorem test_wf_siblings :
    (Instr.sibget false 2#7 4#7 3#2).wf = false ∧ (Instr.sibset false 2#7 4#7 3#2).wf = false ∧
      (Instr.sibset false 0x68#7 4#7 1#2).wf = false := by
  decide

/-- 06 R212: a per-thread special register has no scalar read, and a 64-bit one needs a pair. -/
theorem test_wf_special_registers :
    (Instr.rdsrScalar false 1#6 0x00#7).wf = false ∧ (Instr.rdsrVector false 3#7 0x10#7).wf = false ∧
      (Instr.rdsrVector false 3#7 0x01#7).wf = true := by
  decide

/-- 06 R228-R235: counts, counters, codes and fields that must be zero. -/
theorem test_wf_control_fields :
    (Instr.setw false 1#6 true 8#7).wf = false ∧ (Instr.setw false 0#6 false 0x43#7).wf = false ∧
      (Instr.xacq false 0#7).wf = false ∧ (Instr.xacqNb false 1#6 3#7).wf = false ∧ (Instr.xrel false 2#7).wf = false ∧
      (Instr.bar false 0#9 2049#12).wf = false ∧ (Instr.barArr false 0#9 2049#12).wf = false ∧
      (Instr.waitc false 3#2 0#6).wf = false ∧ (Instr.trap false 4#8).wf = false := by
  decide

/-- 09 R323, R335, R337: engines that do not take a command, and descriptor fields that must be zero. -/
theorem test_wf_engines :
    (Instr.ecoll false 1#6 2#6 3#6 2#3).wf = false ∧ (Instr.eseqLast false 1#6 7#3).wf = false ∧
      (Instr.ewait false 1#6 7#3).wf = false ∧ (Instr.tdesc false 1#6 2#6 3#6 true false).wf = false ∧
      (Instr.tdesc false 1#6 2#6 3#6 false true).wf = false := by
  decide

/-- 05 R190, R191: an unassigned opcode, an unassigned minor code, and an operand that the instruction does not take. -/
theorem test_decode_refusals :
    decode 0x00000000 = .error .noInstruction ∧ decode 0x10000700 = .error .noInstruction ∧
      decode 0x0FA40000 = .error .illegalOperand ∧ decodeBytes [0#8, 0#8, 0#8] = .error .short := by
  refine ⟨?_, ?_, ?_, ?_⟩ <;> rfl

/-- Major 0x01 (05 R173-R191). -/
theorem test_decode_hint :
    decode 0x035000BA = .ok (.hint 0xA#4 0x8005#16 true 0xA#4) := by
  exact rfl

/-- Major 0x02 (05 R173-R191). -/
theorem test_decode_wimm :
    decode 0x05234567 = .ok (.wimm 0x1234567#25) := by
  exact rfl

/-- Major 0x03 (05 R173-R191). -/
theorem test_decode_scalar_arithmetic :
    decode 0x062D60D5 = .ok (.sadd false 0x5#6 0x2B#6 true 0x55#7) ∧
      decode 0x862D61D5 = .ok (.ssub true 0x5#6 0x2B#6 true 0x55#7) ∧
      decode 0x062D62D5 = .ok (.smul false 0x5#6 0x2B#6 true 0x55#7) ∧
      decode 0x862D63D5 = .ok (.smulhI64 true 0x5#6 0x2B#6 true 0x55#7) ∧
      decode 0x062D64D5 = .ok (.smulhN64 false 0x5#6 0x2B#6 true 0x55#7) ∧
      decode 0x862D65D5 = .ok (.sand true 0x5#6 0x2B#6 true 0x55#7) ∧
      decode 0x062D66D5 = .ok (.sor false 0x5#6 0x2B#6 true 0x55#7) ∧
      decode 0x862D67D5 = .ok (.sxor true 0x5#6 0x2B#6 true 0x55#7) ∧
      decode 0x062D68D5 = .ok (.sshl false 0x5#6 0x2B#6 true 0x55#7) ∧
      decode 0x862D69D5 = .ok (.sshr true 0x5#6 0x2B#6 true 0x55#7) ∧
      decode 0x062D6AD5 = .ok (.ssar false 0x5#6 0x2B#6 true 0x55#7) ∧
      decode 0x862D6BD5 = .ok (.sminI64 true 0x5#6 0x2B#6 true 0x55#7) ∧
      decode 0x062D6CD5 = .ok (.sminN64 false 0x5#6 0x2B#6 true 0x55#7) ∧
      decode 0x862D6DD5 = .ok (.smaxI64 true 0x5#6 0x2B#6 true 0x55#7) ∧
      decode 0x062D6ED5 = .ok (.smaxN64 false 0x5#6 0x2B#6 true 0x55#7) ∧
      decode 0x86280FD5 = .ok (.smov true 0x5#6 true 0x55#7) ∧
      decode 0x062D70D5 = .ok (.sceq false 0x5#6 0x2B#6 true 0x55#7) ∧
      decode 0x862D71D5 = .ok (.scltI64 true 0x5#6 0x2B#6 true 0x55#7) ∧
      decode 0x062D72D5 = .ok (.scltN64 false 0x5#6 0x2B#6 true 0x55#7) ∧
      decode 0x862D73D5 = .ok (.scleI64 true 0x5#6 0x2B#6 true 0x55#7) ∧
      decode 0x062D74D5 = .ok (.scleN64 false 0x5#6 0x2B#6 true 0x55#7) ∧
      decode 0x862D75D5 = .ok (.sldN32 true 0x5#6 0x2B#6 true 0x55#7) ∧
      decode 0x062D76D5 = .ok (.sldN64 false 0x5#6 0x2B#6 true 0x55#7) ∧
      decode 0x862D77D5 = .ok (.sstN32 true 0x5#6 0x2B#6 true 0x55#7) ∧
      decode 0x062D78D5 = .ok (.sstN64 false 0x5#6 0x2B#6 true 0x55#7) ∧
      decode 0x862D79D5 = .ok (.sldSN32 true 0x5#6 0x2B#6 true 0x55#7) ∧
      decode 0x062D7AD5 = .ok (.sstSN32 false 0x5#6 0x2B#6 true 0x55#7) := by
  refine ⟨?_, ?_, ?_, ?_, ?_, ?_, ?_, ?_, ?_, ?_, ?_, ?_, ?_, ?_, ?_, ?_, ?_, ?_, ?_, ?_, ?_, ?_, ?_, ?_, ?_, ?_, ?_⟩ <;> rfl

/-- Major 0x04 (05 R173-R191). -/
theorem test_decode_special_and_mask :
    decode 0x88280082 = .ok (.rdsrScalar true 0x5#6 0x2#7) ∧
      decode 0x08056199 = .ok (.wrsr false 0x2B#6 0x19#7) ∧
      decode 0x88280200 = .ok (.getw true 0x5#6) ∧
      decode 0x080003D5 = .ok (.setw false 0x0#6 true 0x55#7) ∧
      decode 0x88000482 = .ok (.xacq true 0x2#7) ∧
      decode 0x08280582 = .ok (.xacqNb false 0x5#6 0x2#7) ∧
      decode 0x88000681 = .ok (.xrel true 0x1#7) ∧
      decode 0x08000700 = .ok (.modeTriple false) ∧
      decode 0x88000800 = .ok (.modeSingle true) ∧
      decode 0x082D6980 = .ok (.fqryDevice false 0x5#6 0x2B#6) ∧
      decode 0x882D6981 = .ok (.fqryNumeric true 0x5#6 0x2B#6) ∧
      decode 0x082D6982 = .ok (.fqryPlacement false 0x5#6 0x2B#6) ∧
      decode 0x88056A80 = .ok (.smplStart true 0x2B#6) ∧
      decode 0x08056A81 = .ok (.smplStop false 0x2B#6) ∧
      decode 0x88056A82 = .ok (.smplFlush true 0x2B#6) ∧
      decode 0x08280B00 = .ok (.emsave false 0x5#6) ∧
      decode 0x88056C00 = .ok (.emset true 0x2B#6) ∧
      decode 0x08056D00 = .ok (.emand false 0x2B#6) ∧
      decode 0x88056E00 = .ok (.emandn true 0x2B#6) ∧
      decode 0x08056F00 = .ok (.emor false 0x2B#6) ∧
      decode 0x88281000 = .ok (.emif true 0x5#6) ∧
      decode 0x08281100 = .ok (.emelse false 0x5#6) ∧
      decode 0x882812D5 = .ok (.sadr true 0x5#6 0x55#7) := by
  refine ⟨?_, ?_, ?_, ?_, ?_, ?_, ?_, ?_, ?_, ?_, ?_, ?_, ?_, ?_, ?_, ?_, ?_, ?_, ?_, ?_, ?_, ?_, ?_⟩ <;> rfl

/-- Major 0x05 (05 R173-R191). -/
theorem test_decode_control :
    decode 0x0A100003 = .ok (.br false 0x100003#21) ∧
      decode 0x8A300003 = .ok (.brc true 0x100003#21) ∧
      decode 0x0A500003 = .ok (.brnc false 0x100003#21) ∧
      decode 0x8A700003 = .ok (.brany true 0x100003#21) ∧
      decode 0x0A900003 = .ok (.brall false 0x100003#21) ∧
      decode 0x8AB00003 = .ok (.call true 0x100003#21) ∧
      decode 0x0AD88000 = .ok (.callr false 0x62#7) ∧
      decode 0x8AE00000 = .ok (.ret true) ∧
      decode 0x0B188000 = .ok (.jmpr false 0x62#7) ∧
      decode 0x8B200000 = .ok (.exit true) ∧
      decode 0x0B400000 = .ok (.rcb false) ∧
      decode 0x8B6A0301 = .ok (.block true 0xA0301#20) ∧
      decode 0x0B800000 = .ok (.yield false) ∧
      decode 0x8BA000A5 = .ok (.trap true 0xA5#8) ∧
      decode 0x0BA00000 = .ok (.handlerReturn false) ∧
      decode 0x8BA00001 = .ok (.handlerSaved true) ∧
      decode 0x0BA00002 = .ok (.handlerEndWave false) ∧
      decode 0x8BA00003 = .ok (.handlerRefuseReslice true) ∧
      decode 0x0BA00004 = .ok (.handlerEndContext false) ∧
      decode 0x8BC00000 = .ok (.nop true) := by
  refine ⟨?_, ?_, ?_, ?_, ?_, ?_, ?_, ?_, ?_, ?_, ?_, ?_, ?_, ?_, ?_, ?_, ?_, ?_, ?_, ?_⟩ <;> rfl

/-- Major 0x06 (05 R173-R191). -/
theorem test_decode_waits :
    decode 0x0C155800 = .ok (.bar false 0x155#9 0x800#12) ∧
      decode 0x8C355800 = .ok (.barArr true 0x155#9 0x800#12) ∧
      decode 0x0C540000 = .ok (.tbar false 0x5#3) ∧
      decode 0x8C740000 = .ok (.tbarArr true 0x5#3) ∧
      decode 0x0C859200 = .ok (.waitgen false 0xB#6 0x9#6) ∧
      decode 0x8CA8002D = .ok (.waitc true 0x1#2 0x2D#6) ∧
      decode 0x0CC00000 = .ok (.fenceW false) := by
  refine ⟨?_, ?_, ?_, ?_, ?_, ?_, ?_⟩ <;> rfl

/-- Major 0x07 (05 R173-R191). -/
theorem test_decode_integer :
    decode 0x8E10B080 = .ok (.addN32 true 0x4#7 0x16#7 0x8#7) ∧
      decode 0x0E10B081 = .ok (.subN32 false 0x4#7 0x16#7 0x8#7) ∧
      decode 0x8E10B082 = .ok (.mulN32 true 0x4#7 0x16#7 0x8#7) ∧
      decode 0x0E10B083 = .ok (.mulhI32 false 0x4#7 0x16#7 0x8#7) ∧
      decode 0x8E10B084 = .ok (.mulhN32 true 0x4#7 0x16#7 0x8#7) ∧
      decode 0x0E10B085 = .ok (.andB32 false 0x4#7 0x16#7 0x8#7) ∧
      decode 0x8E10B086 = .ok (.orB32 true 0x4#7 0x16#7 0x8#7) ∧
      decode 0x0E10B087 = .ok (.xorB32 false 0x4#7 0x16#7 0x8#7) ∧
      decode 0x8E10B088 = .ok (.shlB32 true 0x4#7 0x16#7 0x8#7) ∧
      decode 0x0E10B089 = .ok (.shrB32 false 0x4#7 0x16#7 0x8#7) ∧
      decode 0x8E10B08A = .ok (.sarB32 true 0x4#7 0x16#7 0x8#7) ∧
      decode 0x0E10B08B = .ok (.minI32 false 0x4#7 0x16#7 0x8#7) ∧
      decode 0x8E10B08C = .ok (.minN32 true 0x4#7 0x16#7 0x8#7) ∧
      decode 0x0E10B08D = .ok (.maxI32 false 0x4#7 0x16#7 0x8#7) ∧
      decode 0x8E10B08E = .ok (.maxN32 true 0x4#7 0x16#7 0x8#7) ∧
      decode 0x0E10B08F = .ok (.addsI32 false 0x4#7 0x16#7 0x8#7) := by
  refine ⟨?_, ?_, ?_, ?_, ?_, ?_, ?_, ?_, ?_, ?_, ?_, ?_, ?_, ?_, ?_, ?_⟩ <;> rfl

/-- Major 0x08 (05 R173-R191). -/
theorem test_decode_integer_wide_immediate :
    decode 0x9010B055 = .ok (.addN32Imm true 0x4#7 0x16#7 0x55#7) ∧
      decode 0x1010B0D5 = .ok (.andB32Imm false 0x4#7 0x16#7 0x55#7) ∧
      decode 0x9010B155 = .ok (.orB32Imm true 0x4#7 0x16#7 0x55#7) ∧
      decode 0x1010B1D5 = .ok (.xorB32Imm false 0x4#7 0x16#7 0x55#7) ∧
      decode 0x9010B255 = .ok (.shlB32Imm true 0x4#7 0x16#7 0x55#7) ∧
      decode 0x1010B2D5 = .ok (.shrB32Imm false 0x4#7 0x16#7 0x55#7) ∧
      decode 0x9010B355 = .ok (.sarB32Imm true 0x4#7 0x16#7 0x55#7) ∧
      decode 0x101003D5 = .ok (.movB32 false 0x4#7 0x55#7) ∧
      decode 0x9010B455 = .ok (.rsubN32 true 0x4#7 0x16#7 0x55#7) ∧
      decode 0x1010B4D5 = .ok (.minI32Imm false 0x4#7 0x16#7 0x55#7) ∧
      decode 0x9010B555 = .ok (.maxI32Imm true 0x4#7 0x16#7 0x55#7) ∧
      decode 0x1010B5D5 = .ok (.addN64Imm false 0x4#7 0x16#7 0x55#7) ∧
      decode 0x90100655 = .ok (.movB64 true 0x4#7 0x55#7) ∧
      decode 0x1010068A = .ok (.rdsrVector false 0x4#7 0xA#7) := by
  refine ⟨?_, ?_, ?_, ?_, ?_, ?_, ?_, ?_, ?_, ?_, ?_, ?_, ?_, ?_⟩ <;> rfl

/-- Major 0x09 (05 R173-R191). -/
theorem test_decode_integer_compares :
    decode 0x9210B080 = .ok (.addN64 true 0x4#7 0x16#7 0x8#7) ∧
      decode 0x1210B081 = .ok (.subN64 false 0x4#7 0x16#7 0x8#7) ∧
      decode 0x9210B082 = .ok (.mulN64 true 0x4#7 0x16#7 0x8#7) ∧
      decode 0x1210B083 = .ok (.andB64 false 0x4#7 0x16#7 0x8#7) ∧
      decode 0x9210B084 = .ok (.orB64 true 0x4#7 0x16#7 0x8#7) ∧
      decode 0x1210B085 = .ok (.xorB64 false 0x4#7 0x16#7 0x8#7) ∧
      decode 0x9210B086 = .ok (.shlB64 true 0x4#7 0x16#7 0x8#7) ∧
      decode 0x1210B087 = .ok (.shrB64 false 0x4#7 0x16#7 0x8#7) ∧
      decode 0x9210B088 = .ok (.sarB64 true 0x4#7 0x16#7 0x8#7) ∧
      decode 0x1210B009 = .ok (.popcB32 false 0x4#7 0x16#7) ∧
      decode 0x9210B00A = .ok (.clzB32 true 0x4#7 0x16#7) ∧
      decode 0x1210B00B = .ok (.brevB32 false 0x4#7 0x16#7) ∧
      decode 0x9210B08C = .ok (.bfeN32 true 0x4#7 0x16#7 0x8#7) ∧
      decode 0x1210B08D = .ok (.bfeI32 false 0x4#7 0x16#7 0x8#7) ∧
      decode 0x9210B08E = .ok (.subsI32 true 0x4#7 0x16#7 0x8#7) ∧
      decode 0x1210B08F = .ok (.mulwN32 false 0x4#7 0x16#7 0x8#7) := by
  refine ⟨?_, ?_, ?_, ?_, ?_, ?_, ?_, ?_, ?_, ?_, ?_, ?_, ?_, ?_, ?_, ?_⟩ <;> rfl

/-- Major 0x0A (05 R173-R191). -/
theorem test_decode_bits64 :
    decode 0x9400B080 = .ok (.ceqN32 true 0x16#7 0x8#7) ∧
      decode 0x1400B081 = .ok (.cneN32 false 0x16#7 0x8#7) ∧
      decode 0x9400B082 = .ok (.cltI32 true 0x16#7 0x8#7) ∧
      decode 0x1400B083 = .ok (.cleI32 false 0x16#7 0x8#7) ∧
      decode 0x9400B084 = .ok (.cltN32 true 0x16#7 0x8#7) ∧
      decode 0x1400B085 = .ok (.cleN32 false 0x16#7 0x8#7) ∧
      decode 0x9400B086 = .ok (.ceqN64 true 0x16#7 0x8#7) ∧
      decode 0x1400B087 = .ok (.cltI64 false 0x16#7 0x8#7) ∧
      decode 0x9400B088 = .ok (.cltN64 true 0x16#7 0x8#7) ∧
      decode 0x1410B089 = .ok (.selB32 false 0x4#7 0x16#7 0x8#7) ∧
      decode 0x9410B08A = .ok (.selB64 true 0x4#7 0x16#7 0x8#7) := by
  refine ⟨?_, ?_, ?_, ?_, ?_, ?_, ?_, ?_, ?_, ?_, ?_⟩ <;> rfl

/-- Major 0x0B (05 R173-R191). -/
theorem test_decode_float_compares :
    decode 0x1600B080 = .ok (.fceqF32 false 0x16#7 0x8#7) ∧
      decode 0x9600B081 = .ok (.fcneF32 true 0x16#7 0x8#7) ∧
      decode 0x1600B082 = .ok (.fcltF32 false 0x16#7 0x8#7) ∧
      decode 0x9600B083 = .ok (.fcleF32 true 0x16#7 0x8#7) ∧
      decode 0x1600B084 = .ok (.fcgtF32 false 0x16#7 0x8#7) ∧
      decode 0x9600B085 = .ok (.fcgeF32 true 0x16#7 0x8#7) ∧
      decode 0x1600B086 = .ok (.fcunF32 false 0x16#7 0x8#7) ∧
      decode 0x9600B087 = .ok (.fcordF32 true 0x16#7 0x8#7) ∧
      decode 0x1610B088 = .ok (.fminF32 false 0x4#7 0x16#7 0x8#7) ∧
      decode 0x9610B089 = .ok (.fmaxF32 true 0x4#7 0x16#7 0x8#7) ∧
      decode 0x1610B00A = .ok (.fabsF32 false 0x4#7 0x16#7) ∧
      decode 0x9610B00B = .ok (.fnegF32 true 0x4#7 0x16#7) ∧
      decode 0x1610B08C = .ok (.fcopysignF32 false 0x4#7 0x16#7 0x8#7) ∧
      decode 0x9610B00D = .ok (.fclassF32 true 0x4#7 0x16#7) := by
  refine ⟨?_, ?_, ?_, ?_, ?_, ?_, ?_, ?_, ?_, ?_, ?_, ?_, ?_, ?_⟩ <;> rfl

/-- Major 0x0C (05 R173-R191). -/
theorem test_decode_special_functions :
    decode 0x1810B020 = .ok (.fexfF32 false 0x4#7 0x16#7 .ru) ∧
      decode 0x9810B031 = .ok (.flog2F32 true 0x4#7 0x16#7 .rd) ∧
      decode 0x1810B012 = .ok (.frcpF32 false 0x4#7 0x16#7 .rz) ∧
      decode 0x9810B023 = .ok (.frsqrtF32 true 0x4#7 0x16#7 .ru) ∧
      decode 0x1810B034 = .ok (.frintF32 false 0x4#7 0x16#7 .rd) := by
  refine ⟨?_, ?_, ?_, ?_, ?_⟩ <;> rfl

/-- Major 0x0D (05 R173-R191). -/
theorem test_decode_conversions :
    decode 0x9A10B010 = .ok (.cvtF32I32 true 0x4#7 0x16#7 .rz) ∧
      decode 0x1A10B021 = .ok (.cvtF32N32 false 0x4#7 0x16#7 .ru) ∧
      decode 0x9A10B032 = .ok (.cvtI32F32 true 0x4#7 0x16#7 .rd) ∧
      decode 0x1A10B013 = .ok (.cvtN32F32 false 0x4#7 0x16#7 .rz) ∧
      decode 0x9A10B024 = .ok (.cvtF16F32 true 0x4#7 0x16#7 .ru) ∧
      decode 0x1A10B035 = .ok (.cvtBf16F32 false 0x4#7 0x16#7 .rd) ∧
      decode 0x9A10B096 = .ok (.cvtE4m3F32 true 0x4#7 0x16#7 true .rz) ∧
      decode 0x1A10B0A7 = .ok (.cvtE5m2F32 false 0x4#7 0x16#7 true .ru) ∧
      decode 0x9A10B008 = .ok (.cvtF32F16 true 0x4#7 0x16#7) ∧
      decode 0x1A10B009 = .ok (.cvtF32Bf16 false 0x4#7 0x16#7) ∧
      decode 0x9A10B00A = .ok (.cvtF32E4m3 true 0x4#7 0x16#7) ∧
      decode 0x1A10B00B = .ok (.cvtF32E5m2 false 0x4#7 0x16#7) ∧
      decode 0x9A10B01C = .ok (.cvtF32I64 true 0x4#7 0x16#7 .rz) ∧
      decode 0x1A10B02D = .ok (.cvtI64F32 false 0x4#7 0x16#7 .ru) ∧
      decode 0x9A10B00E = .ok (.pack6 true 0x4#7 0x16#7) ∧
      decode 0x1A10B01F = .ok (.unpack6 false 0x4#7 0x16#7 true) := by
  refine ⟨?_, ?_, ?_, ?_, ?_, ?_, ?_, ?_, ?_, ?_, ?_, ?_, ?_, ?_, ?_, ?_⟩ <;> rfl

/-- Major 0x0E (05 R173-R191). -/
theorem test_decode_siblings :
    decode 0x9C10B000 = .ok (.fdig true 0x4#7 0x16#7) ∧
      decode 0x1C10B001 = .ok (.fmean false 0x4#7 0x16#7) ∧
      decode 0x9C10B022 = .ok (.sibget true 0x4#7 0x16#7 0x2#2) ∧
      decode 0x1C10B023 = .ok (.sibset false 0x4#7 0x16#7 0x2#2) ∧
      decode 0x9C10B014 = .ok (.krnd true 0x4#7 0x16#7 0x1#2) ∧
      decode 0x1C10B085 = .ok (.act false 0x4#7 0x16#7 0x8#7) ∧
      decode 0x9C10B086 = .ok (.mseaMax true 0x4#7 0x16#7 0x8#7) ∧
      decode 0x1C10B087 = .ok (.mseaAcc false 0x4#7 0x16#7 0x8#7) := by
  refine ⟨?_, ?_, ?_, ?_, ?_, ?_, ?_, ?_⟩ <;> rfl

/-- Major 0x0F (05 R173-R191). -/
theorem test_decode_shuffles :
    decode 0x9E10B08A = .ok (.shfl true 0x4#7 0x16#7 0x8#7 0xA#4) := by
  exact rfl

/-- Major 0x10 (05 R173-R191). -/
theorem test_decode_votes_and_reductions :
    decode 0x2010B7A0 = .ok (.voteAny false 0x4#7 0x16#7 0xA#4) ∧
      decode 0xA010B7A1 = .ok (.voteAll true 0x4#7 0x16#7 0xA#4) ∧
      decode 0x2010B7A2 = .ok (.voteBallot false 0x4#7 0x16#7 0xA#4) ∧
      decode 0xA010B7A3 = .ok (.matchN32 true 0x4#7 0x16#7 0xA#4) ∧
      decode 0x2010B7A4 = .ok (.matchN64 false 0x4#7 0x16#7 0xA#4) ∧
      decode 0xA010B7A5 = .ok (.redOF32 true 0x4#7 0x16#7 0xA#4) ∧
      decode 0x2010B7A6 = .ok (.redAddN32 false 0x4#7 0x16#7 0xA#4) ∧
      decode 0xA010B7A7 = .ok (.redMinI32 true 0x4#7 0x16#7 0xA#4) ∧
      decode 0x2010B7A8 = .ok (.redMaxI32 false 0x4#7 0x16#7 0xA#4) ∧
      decode 0xA010B7A9 = .ok (.redMinN32 true 0x4#7 0x16#7 0xA#4) ∧
      decode 0x2010B7AA = .ok (.redMaxN32 false 0x4#7 0x16#7 0xA#4) ∧
      decode 0xA1E8B7AB = .ok (.vtos true 0xA#4 0x16#7 0xA#4) := by
  refine ⟨?_, ?_, ?_, ?_, ?_, ?_, ?_, ?_, ?_, ?_, ?_, ?_⟩ <;> rfl

/-- Major 0x11 (05 R173-R191). -/
theorem test_decode_global_loads :
    decode 0x2210B055 = .ok (.ldGN8 false 0x4#7 0x16#7 0x55#7) ∧
      decode 0xA210B0D5 = .ok (.ldGI8 true 0x4#7 0x16#7 0x55#7) ∧
      decode 0x2210B155 = .ok (.ldGN16 false 0x4#7 0x16#7 0x55#7) ∧
      decode 0xA210B1D5 = .ok (.ldGI16 true 0x4#7 0x16#7 0x55#7) ∧
      decode 0x2210B255 = .ok (.ldGN32 false 0x4#7 0x16#7 0x55#7) ∧
      decode 0xA210B2D5 = .ok (.ldGF32 true 0x4#7 0x16#7 0x55#7) ∧
      decode 0x2210B355 = .ok (.ldGF16 false 0x4#7 0x16#7 0x55#7) ∧
      decode 0xA210B3D5 = .ok (.ldGBf16 true 0x4#7 0x16#7 0x55#7) ∧
      decode 0x2210B455 = .ok (.ldGN64 false 0x4#7 0x16#7 0x55#7) := by
  refine ⟨?_, ?_, ?_, ?_, ?_, ?_, ?_, ?_, ?_⟩ <;> rfl

/-- Major 0x12 (05 R173-R191). -/
theorem test_decode_global_stores :
    decode 0xA410B055 = .ok (.stGN8 true 0x4#7 0x16#7 0x55#7) ∧
      decode 0x2410B155 = .ok (.stGN16 false 0x4#7 0x16#7 0x55#7) ∧
      decode 0xA410B255 = .ok (.stGN32 true 0x4#7 0x16#7 0x55#7) ∧
      decode 0x2410B2D5 = .ok (.stGF32 false 0x4#7 0x16#7 0x55#7) ∧
      decode 0xA410B355 = .ok (.stGF16 true 0x4#7 0x16#7 0x55#7) ∧
      decode 0x2410B3D5 = .ok (.stGBf16 false 0x4#7 0x16#7 0x55#7) ∧
      decode 0xA410B455 = .ok (.stGN64 true 0x4#7 0x16#7 0x55#7) := by
  refine ⟨?_, ?_, ?_, ?_, ?_, ?_, ?_⟩ <;> rfl

/-- Major 0x13 (05 R173-R191). -/
theorem test_decode_scratchpad_loads :
    decode 0x2610B055 = .ok (.ldSN8 false 0x4#7 0x16#7 0x55#7) ∧
      decode 0xA610B0D5 = .ok (.ldSI8 true 0x4#7 0x16#7 0x55#7) ∧
      decode 0x2610B155 = .ok (.ldSN16 false 0x4#7 0x16#7 0x55#7) ∧
      decode 0xA610B1D5 = .ok (.ldSI16 true 0x4#7 0x16#7 0x55#7) ∧
      decode 0x2610B255 = .ok (.ldSN32 false 0x4#7 0x16#7 0x55#7) ∧
      decode 0xA610B2D5 = .ok (.ldSF32 true 0x4#7 0x16#7 0x55#7) ∧
      decode 0x2610B355 = .ok (.ldSF16 false 0x4#7 0x16#7 0x55#7) ∧
      decode 0xA610B3D5 = .ok (.ldSBf16 true 0x4#7 0x16#7 0x55#7) ∧
      decode 0x2610B455 = .ok (.ldSN64 false 0x4#7 0x16#7 0x55#7) := by
  refine ⟨?_, ?_, ?_, ?_, ?_, ?_, ?_, ?_, ?_⟩ <;> rfl

/-- Major 0x14 (05 R173-R191). -/
theorem test_decode_scratchpad_stores :
    decode 0xA810B055 = .ok (.stSN8 true 0x4#7 0x16#7 0x55#7) ∧
      decode 0x2810B155 = .ok (.stSN16 false 0x4#7 0x16#7 0x55#7) ∧
      decode 0xA810B255 = .ok (.stSN32 true 0x4#7 0x16#7 0x55#7) ∧
      decode 0x2810B2D5 = .ok (.stSF32 false 0x4#7 0x16#7 0x55#7) ∧
      decode 0xA810B355 = .ok (.stSF16 true 0x4#7 0x16#7 0x55#7) ∧
      decode 0x2810B3D5 = .ok (.stSBf16 false 0x4#7 0x16#7 0x55#7) ∧
      decode 0xA810B455 = .ok (.stSN64 true 0x4#7 0x16#7 0x55#7) := by
  refine ⟨?_, ?_, ?_, ?_, ?_, ?_, ?_⟩ <;> rfl

/-- Major 0x15 (05 R173-R191). -/
theorem test_decode_global_atomics :
    decode 0x2A10B080 = .ok (.atomGAddN32 false 0x4#7 0x16#7 0x8#7) ∧
      decode 0xAA10B081 = .ok (.atomGAddN64 true 0x4#7 0x16#7 0x8#7) ∧
      decode 0x2A10B082 = .ok (.atomGAddF32 false 0x4#7 0x16#7 0x8#7) ∧
      decode 0xAA10B083 = .ok (.atomGMinI32 true 0x4#7 0x16#7 0x8#7) ∧
      decode 0x2A10B084 = .ok (.atomGMinN32 false 0x4#7 0x16#7 0x8#7) ∧
      decode 0xAA10B085 = .ok (.atomGMaxI32 true 0x4#7 0x16#7 0x8#7) ∧
      decode 0x2A10B086 = .ok (.atomGMaxN32 false 0x4#7 0x16#7 0x8#7) ∧
      decode 0xAA10B087 = .ok (.atomGAndB32 true 0x4#7 0x16#7 0x8#7) ∧
      decode 0x2A10B088 = .ok (.atomGOrB32 false 0x4#7 0x16#7 0x8#7) ∧
      decode 0xAA10B089 = .ok (.atomGXorB32 true 0x4#7 0x16#7 0x8#7) ∧
      decode 0x2A10B08A = .ok (.atomGExchN32 false 0x4#7 0x16#7 0x8#7) ∧
      decode 0xAA10B08B = .ok (.atomGExchN64 true 0x4#7 0x16#7 0x8#7) ∧
      decode 0x2A10B08C = .ok (.atomGCasN32 false 0x4#7 0x16#7 0x8#7) ∧
      decode 0xAA10B08D = .ok (.atomGCasN64 true 0x4#7 0x16#7 0x8#7) := by
  refine ⟨?_, ?_, ?_, ?_, ?_, ?_, ?_, ?_, ?_, ?_, ?_, ?_, ?_, ?_⟩ <;> rfl

/-- Major 0x16 (05 R173-R191). -/
theorem test_decode_global_atomics_without_return :
    decode 0x2C00B080 = .ok (.atomnGAddN32 false 0x16#7 0x8#7) ∧
      decode 0xAC00B081 = .ok (.atomnGAddN64 true 0x16#7 0x8#7) ∧
      decode 0x2C00B082 = .ok (.atomnGAddF32 false 0x16#7 0x8#7) ∧
      decode 0xAC00B083 = .ok (.atomnGMinI32 true 0x16#7 0x8#7) ∧
      decode 0x2C00B084 = .ok (.atomnGMinN32 false 0x16#7 0x8#7) ∧
      decode 0xAC00B085 = .ok (.atomnGMaxI32 true 0x16#7 0x8#7) ∧
      decode 0x2C00B086 = .ok (.atomnGMaxN32 false 0x16#7 0x8#7) ∧
      decode 0xAC00B087 = .ok (.atomnGAndB32 true 0x16#7 0x8#7) ∧
      decode 0x2C00B088 = .ok (.atomnGOrB32 false 0x16#7 0x8#7) ∧
      decode 0xAC00B089 = .ok (.atomnGXorB32 true 0x16#7 0x8#7) := by
  refine ⟨?_, ?_, ?_, ?_, ?_, ?_, ?_, ?_, ?_, ?_⟩ <;> rfl

/-- Major 0x17 (05 R173-R191). -/
theorem test_decode_scratchpad_atomics :
    decode 0x2E10B080 = .ok (.atomSAddN32 false 0x4#7 0x16#7 0x8#7) ∧
      decode 0xAE10B081 = .ok (.atomSAddN64 true 0x4#7 0x16#7 0x8#7) ∧
      decode 0x2E10B082 = .ok (.atomSAddF32 false 0x4#7 0x16#7 0x8#7) ∧
      decode 0xAE10B083 = .ok (.atomSMinI32 true 0x4#7 0x16#7 0x8#7) ∧
      decode 0x2E10B084 = .ok (.atomSMinN32 false 0x4#7 0x16#7 0x8#7) ∧
      decode 0xAE10B085 = .ok (.atomSMaxI32 true 0x4#7 0x16#7 0x8#7) ∧
      decode 0x2E10B086 = .ok (.atomSMaxN32 false 0x4#7 0x16#7 0x8#7) ∧
      decode 0xAE10B087 = .ok (.atomSAndB32 true 0x4#7 0x16#7 0x8#7) ∧
      decode 0x2E10B088 = .ok (.atomSOrB32 false 0x4#7 0x16#7 0x8#7) ∧
      decode 0xAE10B089 = .ok (.atomSXorB32 true 0x4#7 0x16#7 0x8#7) ∧
      decode 0x2E10B08A = .ok (.atomSExchN32 false 0x4#7 0x16#7 0x8#7) ∧
      decode 0xAE10B08B = .ok (.atomSExchN64 true 0x4#7 0x16#7 0x8#7) ∧
      decode 0x2E10B08C = .ok (.atomSCasN32 false 0x4#7 0x16#7 0x8#7) ∧
      decode 0xAE10B08D = .ok (.atomSCasN64 true 0x4#7 0x16#7 0x8#7) := by
  refine ⟨?_, ?_, ?_, ?_, ?_, ?_, ?_, ?_, ?_, ?_, ?_, ?_, ?_, ?_⟩ <;> rfl

/-- Major 0x18 (05 R173-R191). -/
theorem test_decode_float_rn :
    decode 0x3610B080 = .ok (.faddF32 false .rd 0x4#7 0x16#7 0x8#7) ∧
      decode 0xB210B081 = .ok (.fsubF32 true .rz 0x4#7 0x16#7 0x8#7) ∧
      decode 0x3410B082 = .ok (.fmulF32 false .ru 0x4#7 0x16#7 0x8#7) ∧
      decode 0xB610B083 = .ok (.fdivF32 true .rd 0x4#7 0x16#7 0x8#7) ∧
      decode 0x3210B004 = .ok (.fsqrtF32 false .rz 0x4#7 0x16#7) ∧
      decode 0xB410B085 = .ok (.fexpiF32 true .ru 0x4#7 0x16#7 0x8#7) := by
  refine ⟨?_, ?_, ?_, ?_, ?_, ?_⟩ <;> rfl

/-- Major 0x1D (05 R173-R191). -/
theorem test_decode_storage :
    decode 0x3A10B000 = .ok (.ldD false 0x4#7 0x16#7) ∧
      decode 0xBA28B081 = .ok (.stD true 0xA#4 0x16#7 0x8#7) ∧
      decode 0x3A00B082 = .ok (.dadd false 0x16#7 0x8#7) ∧
      decode 0xBA28B003 = .ok (.dcls true 0xA#4 0x16#7) ∧
      decode 0x3A00B084 = .ok (.armS false 0x16#7 0x8#7) ∧
      decode 0xBA00B005 = .ok (.vpin true 0x16#7) ∧
      decode 0x3A000006 = .ok (.vunpin false) ∧
      decode 0xBA100007 = .ok (.vread true 0x4#7) ∧
      decode 0x3A00B008 = .ok (.prefG false 0x16#7) := by
  refine ⟨?_, ?_, ?_, ?_, ?_, ?_, ?_, ?_, ?_⟩ <;> rfl

/-- Major 0x1E (05 R173-R191). -/
theorem test_decode_matrix :
    decode 0xBC10A5FB = .ok (.tdesc true 0x21#6 0x12#6 0x3F#6 true true) ∧
      decode 0x3C30A400 = .ok (.mload false 0x21#6 0x12#6) ∧
      decode 0xBC50A400 = .ok (.tturn true 0x21#6 0x12#6) ∧
      decode 0x3C70A5FB = .ok (.mma false 0x21#6 0x12#6 0x3F#6 true true) ∧
      decode 0xBC90A5FB = .ok (.mmaSc true 0x21#6 0x12#6 0x3F#6 true true) ∧
      decode 0x3CB0A5FB = .ok (.mmaPn false 0x21#6 0x12#6 0x3F#6 true true) ∧
      decode 0xBCD08001 = .ok (.mstore true 0x21#6 true) := by
  refine ⟨?_, ?_, ?_, ?_, ?_, ?_, ?_⟩ <;> rfl

/-- Major 0x1F (05 R173-R191). -/
theorem test_decode_engines :
    decode 0x3E10A5FA = .ok (.ecopy false 0x21#6 0x12#6 0x3F#6 0x2#2) ∧
      decode 0xBE30A5FC = .ok (.egath true 0x21#6 0x12#6 0x3F#6) ∧
      decode 0x3E50A5FC = .ok (.escat false 0x21#6 0x12#6 0x3F#6) ∧
      decode 0xBE70A5FE = .ok (.ecoll true 0x21#6 0x12#6 0x3F#6 0x6#3) ∧
      decode 0x3E908000 = .ok (.publish false 0x21#6) ∧
      decode 0xBEB08002 = .ok (.eseqMilepost true 0x21#6 0x2#3) ∧
      decode 0x3EB08202 = .ok (.eseqLast false 0x21#6 0x2#3) ∧
      decode 0xBED08002 = .ok (.ewait true 0x21#6 0x2#3) ∧
      decode 0x3EF0A404 = .ok (.optstep false 0x21#6 0x12#6) ∧
      decode 0xBF108002 = .ok (.dsweep true 0x21#6 0x2#2) := by
  refine ⟨?_, ?_, ?_, ?_, ?_, ?_, ?_, ?_, ?_, ?_⟩ <;> rfl

/-- Major 0x20 (05 R173-R191). -/
theorem test_decode_ffma :
    decode 0x4610B08A = .ok (.ffmaF32 false .rd 0x4#7 0x16#7 0x8#7 0xA#4) := by
  exact rfl

/-- Major 0x28 (05 R173-R191). -/
theorem test_decode_ffms :
    decode 0xD210B08A = .ok (.ffmsF32 true .rz 0x4#7 0x16#7 0x8#7 0xA#4) := by
  exact rfl

/-- Major 0x30 (05 R173-R191). -/
theorem test_decode_fnma :
    decode 0x6410B08A = .ok (.fnmaF32 false .ru 0x4#7 0x16#7 0x8#7 0xA#4) := by
  exact rfl

/-- Major 0x38 (05 R173-R191). -/
theorem test_decode_fnms :
    decode 0xF610B08A = .ok (.fnmsF32 true .rd 0x4#7 0x16#7 0x8#7 0xA#4) := by
  exact rfl

/-! One step each, on the device of `Fixtures`. Expected values are worked out by hand from the rules named. -/

/-- 06 R207: -1 + 1 wraps to 0; the immediate 0x7F is -1 (05 R178). -/
theorem test_sadd_wraps : scal (exec (.sadd false 2#6 1#6 true 1#7) (putS 1 0xFFFFFFFFFFFFFFFF sys)) 2 = some 0#64 := by decide
theorem test_sadd_sign_extends : scal (exec (.sadd false 2#6 1#6 true 0x7F#7) (putS 1 5 sys)) 2 = some 4#64 := by decide

/-- 06 R207: the high halves of (-1) × 2, signed and unsigned. -/
theorem test_smulh_signed :
    scal (exec (.smulhI64 false 2#6 1#6 true 2#7) (putS 1 0xFFFFFFFFFFFFFFFF sys)) 2 = some 0xFFFFFFFFFFFFFFFF#64 := by decide
theorem test_smulh_unsigned :
    scal (exec (.smulhN64 false 2#6 1#6 true 2#7) (putS 1 0xFFFFFFFFFFFFFFFF sys)) 2 = some 1#64 := by decide

/-- 06 R207: a shift count counts modulo 64. -/
theorem test_ssar_count : scal (exec (.ssar false 2#6 1#6 true 0x7F#7) (putS 1 0x8000000000000000 sys)) 2 =
    some 0xFFFFFFFFFFFFFFFF#64 := by decide

/-- 06 R207: -1 is below 0 signed and not below it unsigned. -/
theorem test_sclt_signed : scal (exec (.scltI64 false 2#6 1#6 true 0#7) (putS 1 0xFFFFFFFFFFFFFFFF sys)) 2 = some 1#64 := by
  decide
theorem test_sclt_unsigned : scal (exec (.scltN64 false 2#6 1#6 true 0#7) (putS 1 0xFFFFFFFFFFFFFFFF sys)) 2 = some 0#64 := by
  decide

/-- 06 R206, 05 R178: `sadr` adds to the word's own address; with `wimm` p the offset is p × 128 + IMM7. -/
theorem test_sadr : scal (exec (.sadr false 3#6 0x78#7) sys) 3 = some 0xFFFFF8#64 := by decide
theorem test_sadr_wide :
    scal (exec (.sadr false 3#6 1#7) (onX (fun e => { e with wimm := some 2 }) sys)) 3 = some 0x1000101#64 := by decide

/-- 06 R231: the grant. -/
theorem test_getw : scal (exec (.getw false 0#6) sys) 0 = some 8#64 := by decide

/-- 06 R215: `emif` saves the mask and keeps the threads whose condition holds; `emelse` takes the others of the saved mask. -/
theorem test_emif :
    (waveIn (exec (.emif false 4#6) (onW (fun w => { w with cm := 0x0F#64, em := 0x3C#64 }) sys))).map
      (fun w => (w.em, zget 0#64 w.scal 4)) = some (0x0C#64, 0x3C#64) := by decide
theorem test_emelse :
    (waveIn (exec (.emelse false 4#6) (putS 4 0x3C (onW (fun w => { w with em := 0x0C#64 }) sys)))).map (·.em) =
      some 0x30#64 := by decide

/-- 02 R76, 06 R214: a write of `aflag` clears the bits written as 1. -/
theorem test_wrsr_aflag :
    flags (exec (.wrsr false 1#6 0x19#7) (putS 1 0x11 (onW (fun w => { w with aflag := 0x13#32 }) sys))) = some 0x02#32 := by
  decide

/-- 07 R254: wrapping, and a source that is also the destination. -/
theorem test_add_n32_wraps : reg (exec (.addN32 false 2#7 4#7 6#7) (put 4 0 0xFFFFFFFF (put 6 0 3 sys))) 7 2 0 = some (.val 2#32) := by
  decide
theorem test_sub_n32_in_place : reg (exec (.subN32 false 4#7 4#7 6#7) (put 4 0 1 (put 6 0 3 sys))) 0 4 0 =
    some (.val 0xFFFFFFFE#32) := by decide

/-- 07 R250: a thread whose `em` bit is clear keeps its register, and its neighbour does not. -/
theorem test_inactive_thread_keeps :
    reg (exec (.addN32 false 4#7 4#7 4#7) (put 4 0 5 (onW (fun w => { w with em := 0xFD#64 }) sys))) 1 4 0 = some (.val 5#32) := by
  decide
theorem test_active_thread_writes :
    reg (exec (.addN32 false 4#7 4#7 4#7) (put 4 0 5 (onW (fun w => { w with em := 0xFD#64 }) sys))) 2 4 0 = some (.val 10#32) := by
  decide

/-- 07 R254: high products of 0xFFFFFFFF and 2: -1 × 2 and (2^32 - 1) × 2. -/
theorem test_mulh_i32 : reg (exec (.mulhI32 false 2#7 4#7 6#7) (put 4 0 0xFFFFFFFF (put 6 0 2 sys))) 0 2 0 =
    some (.val 0xFFFFFFFF#32) := by decide
theorem test_mulh_n32 : reg (exec (.mulhN32 false 2#7 4#7 6#7) (put 4 0 0xFFFFFFFF (put 6 0 2 sys))) 0 2 0 = some (.val 1#32) := by
  decide

/-- 07 R254: shift counts modulo 32, saturation, and the wide product in a pair. -/
theorem test_sar_b32 : reg (exec (.sarB32 false 2#7 4#7 6#7) (put 4 0 0x80000000 (put 6 0 36 sys))) 0 2 0 =
    some (.val 0xF8000000#32) := by decide
theorem test_adds_i32 : reg (exec (.addsI32 false 2#7 4#7 6#7) (put 4 0 0x7FFFFFFF (put 6 0 1 sys))) 0 2 0 =
    some (.val 0x7FFFFFFF#32) := by decide
theorem test_mulw_n32_low : reg (exec (.mulwN32 false 2#7 4#7 6#7) (put 4 0 0xFFFFFFFF (put 6 0 0xFFFFFFFF sys))) 0 2 0 =
    some (.val 1#32) := by decide
theorem test_mulw_n32_high : reg (exec (.mulwN32 false 2#7 4#7 6#7) (put 4 0 0xFFFFFFFF (put 6 0 0xFFFFFFFF sys))) 0 3 0 =
    some (.val 0xFFFFFFFE#32) := by decide

/-- 07 R254: a 64-bit addition carries into the odd register. -/
theorem test_add_n64_carry : reg (exec (.addN64 false 2#7 4#7 6#7) (put 4 0 0xFFFFFFFF (put 6 0 1 sys))) 0 3 0 = some (.val 1#32) := by
  decide

/-- 07 R255: the manual's own example. -/
theorem test_bfe_n32 : reg (exec (.bfeN32 false 2#7 4#7 6#7) (put 4 0 0xF0A0 (put 6 0 0x805 sys))) 0 2 0 = some (.val 0x85#32) := by
  decide
theorem test_bfe_i32 : reg (exec (.bfeI32 false 2#7 4#7 6#7) (put 4 0 0xF0A0 (put 6 0 0x805 sys))) 0 2 0 =
    some (.val 0xFFFFFF85#32) := by decide

/-- 07 R254: 32 leading zeros of 0. -/
theorem test_clz_zero : reg (exec (.clzB32 false 2#7 4#7) (put 4 0 0 sys)) 0 2 0 = some (.val 32#32) := by decide

/-- 07 R257: `sel` takes A where the condition bit is 1, B where it is 0. -/
theorem test_sel_true : reg (exec (.selB32 false 2#7 4#7 6#7) (put 4 0 7 (put 6 0 9 (onW (fun w => { w with cm := 2#64 }) sys)))) 1 2 0 =
    some (.val 7#32) := by decide
theorem test_sel_false : reg (exec (.selB32 false 2#7 4#7 6#7) (put 4 0 7 (put 6 0 9 (onW (fun w => { w with cm := 2#64 }) sys)))) 0 2 0 =
    some (.val 9#32) := by decide

/-- 07 R256: a signed compare. -/
theorem test_clt_i32 :
    (waveIn (exec (.cltI32 false 4#7 6#7) (put 4 0 0xFFFFFFFF (put 6 0 0 sys)))).map (·.cm) = some 0xFF#64 := by decide

/-- 03 R105, R108: 1 + 2^-24 lies half way and rounds to even, inexact. -/
theorem test_fadd_ties : reg (exec (.faddF32 false .rn 2#7 4#7 6#7) (put 4 0 0x3F800000 (put 6 0 0x33800000 sys))) 0 2 0 =
    some (.val 0x3F800000#32) := by rfl
theorem test_fadd_inexact : flags (exec (.faddF32 false .ru 2#7 4#7 6#7) (put 4 0 0x3F800000 (put 6 0 0x33800000 sys))) =
    some 0x10#32 := by rfl

/-- 07 R258: infinity times zero is invalid; the canonical NaN. -/
theorem test_fmul_invalid : reg (exec (.fmulF32 false .rn 2#7 4#7 6#7) (put 4 0 0x7F800000 (put 6 0 0 sys))) 0 2 0 =
    some (.val 0x7FC00000#32) := by rfl
theorem test_fmul_invalid_flag : flags (exec (.fmulF32 false .rn 2#7 4#7 6#7) (put 4 0 0x7F800000 (put 6 0 0 sys))) =
    some 1#32 := by rfl

/-- 07 R258: fused: (1 + 2^-23)² - (1 + 2^-22) = 2^-46, exact. -/
theorem test_ffms_fused :
    reg (exec (.ffmsF32 false .rn 2#7 4#7 4#7 0#4) (put 4 0 0x3F800001 (put 0x60 0 0x3F800002 sys))) 0 2 0 =
      some (.val 0x28800000#32) := by rfl

/-- 07 R267: `frint.f32.rz` of -0.3 is -0. -/
theorem test_frint_zero_sign : reg (exec (.frintF32 false 2#7 4#7 .rz) (put 4 0 0xBE99999A sys)) 0 2 0 =
    some (.val 0x80000000#32) := by rfl

/-- 07 R269, 03 R104: 65,520 rounds beyond the greatest FP16 value; 500 saturates to 448 in E4M3. -/
theorem test_cvt_f16_overflow : reg (exec (.cvtF16F32 false 2#7 4#7 .rn) (put 4 0 0x477FF000 sys)) 0 2 0 = some (.val 0x7C00#32) := by
  rfl
theorem test_cvt_e4m3_saturates : reg (exec (.cvtE4m3F32 false 2#7 4#7 true .rn) (put 4 0 0x43FA0000 sys)) 0 2 0 =
    some (.val 0x7E#32) := by rfl

/-- 07 R270: the manual's worked example in triple mode: siblings 2.5 - 2^-22, 2.5, 2.5 + 2^-22 give 2, with NX and CDIS. -/
theorem test_cvt_i32_median :
    reg (exec (.cvtI32F32 false 2#7 1#7 .rn)
      (put 1 0 0x401FFFFF (put 1 1 0x40200000 (put 1 2 0x40200001 (onW (fun w => { w with triple := true }) sys))))) 0 2 2 =
      some (.val 2#32) := by rfl
theorem test_cvt_i32_disagreement :
    flags (exec (.cvtI32F32 false 2#7 1#7 .rn)
      (put 1 0 0x401FFFFF (put 1 1 0x40200000 (put 1 2 0x40200001 (onW (fun w => { w with triple := true }) sys))))) =
      some 0x110#32 := by rfl

/-- 07 R270: NaN converts to 0, and 2^31 saturates. -/
theorem test_cvt_i32_nan : reg (exec (.cvtI32F32 false 2#7 4#7 .rz) (put 4 0 0x7FC00000 sys)) 0 2 0 = some (.val 0#32) := by rfl
theorem test_cvt_i32_saturates : reg (exec (.cvtI32F32 false 2#7 4#7 .rz) (put 4 0 0x4F000000 sys)) 0 2 0 =
    some (.val 0x7FFFFFFF#32) := by rfl

/-- 07 R261: -0 equals +0. -/
theorem test_fceq_zeros :
    (waveIn (exec (.fceqF32 false 4#7 6#7) (put 4 0 0x80000000 (put 6 0 0 sys)))).map (·.cm) = some 0xFF#64 := by rfl

/-- 06 R218: `brc` moves the threads whose bit is set, by words, backwards here; the others go on. -/
theorem test_brc_taken : pc (exec (.brc false 0x1FFFFF#21) (onW (fun w => { w with cm := 1#64 }) sys)) 0 = some 0xFFFFFC#64 := by
  decide
theorem test_brc_not_taken : pc (exec (.brc false 0x1FFFFF#21) (onW (fun w => { w with cm := 1#64 }) sys)) 1 =
    some 0x1000004#64 := by decide

/-- 06 R218: a call leaves the following address in o6:o7. -/
theorem test_call_links : reg (exec (.call false 4#21) sys) 3 0x66 0 = some (.val 0x1000004#32) := by decide
theorem test_call_goes : pc (exec (.call false 4#21) sys) 3 = some 0x1000010#64 := by decide

/-- 01 R32: threads that all stand at one `rcb` go on. -/
theorem test_rcb_passes : tst (exec (.rcb false) sys) 5 = some .ready := by decide
theorem test_rcb_waits : tst (exec (.rcb false) (onX (fun e => { e with tids := [0, 1] }) sys)) 1 = some .atRcb := by decide

/-- 06 R221: `exit`. -/
theorem test_exit : tst (exec (.exit false) sys) 0 = some .exited := by decide

/-- 06 R225, 12 R371: `trap 5` raises the software trap, whose handler stands at VBASE + 0x0B × 256. -/
theorem test_trap_enters : trapped (exec (.trap false 5#8) sys) = some 0x0B := by decide
theorem test_trap_goes : pc (exec (.trap false 5#8) sys) 0 = some 0x1000B00#64 := by decide

/-- 12 R374: a word that a handler may not execute is an illegal instruction in it, which ends the context (12 R375). -/
theorem test_handler_fault :
    (mget (after (exec (.exit false) (onW (fun w => { w with priv := some ⟨⟨1, 0#64, 0#64, 0#32, 0, 0#64⟩, 0x4000000#64, 0, w.threads, w.em,
      w.cm, 0, 0#32, 0#32, 0#32, false⟩ }) sys))).contexts 1).map (·.ended) = some true := by decide

/-- 05 R176: a `hint` stays pending and delays by its stall. -/
theorem test_hint_stays :
    (waveIn (exec (.hint 3#4 0#16 false 0#4) sys)).map (fun w => (w.threads.map (fun t => (t.hint.isSome, t.wake, t.clock))).head?) =
      some (some (true, 5, 5)) := by decide

/-- 08 R287: a misaligned global access is a memory trap. -/
theorem test_misaligned : trapped (exec (.ldGN32 false 2#7 4#7 0#7) (put 4 0 0x2000001 sys)) = some 7 := by decide

/-- 08 R295: a load is issued and its destination owed; nothing arrives yet. -/
theorem test_load_owes :
    (waveIn (exec (.ldGN32 false 2#7 4#7 1#7) (put 4 0 0x2000000 sys))).map (fun w => (w.ldq.length, w.accs.map (fun a => a.dest),
      (w.accs.flatMap (fun a => a.lanes)).map (fun l => l.va))) =
      some (1, [some (8, false)], List.replicate 8 0x2000004) := by decide

/-- 08 R298: eight threads add 0x103 to one word: once performed, it holds 0x818, low byte first. -/
theorem test_atomic_adds :
    dieBytes (after (exec (.storePerformed 0 1) (after (exec (.atomnGAddN32 false 4#7 6#7) (put 4 0 0x2000000 (put 6 0 0x103 sys))))))
      0 0x2000000 4 = [0x18#8, 0x08#8, 0#8, 0#8] := by decide +kernel

/-- 08 R294: a store of 16 bits stores two bytes, low byte first, and not the next. -/
theorem test_store_bytes :
    dieBytes (after (exec (.storePerformed 0 1) (after (exec (.stGN16 false 6#7 4#7 0#7) (put 4 0 0x2000000 (put 6 0 0xABCDEF sys))))))
      0 0x2000000 3 = [0xEF#8, 0xCD#8, 0#8] := by decide

/-- 01 R37, 11 R362: eight threads at a barrier for 8 complete its phase, which releases them in the next cycle. -/
theorem test_barrier_completes :
    ((mget (after (exec (.bar false 1#9 8#12) sys)).units 0).bind (fun u => (waveIn (exec (.bar false 1#9 8#12) sys)).map (fun w =>
      ((u.bar 1).phase, w.threads.all (Thread.barDone 0 u), w.threads.all (Thread.barDone 1 u))))) = some (1, false, true) := by decide
theorem test_barrier_waits : tst (exec (.bar false 1#9 9#12) sys) 0 = some .atBarrier := by decide

/-- 09 R317: a matrix instruction of the unit that owns the matrix state enters its queue. -/
theorem test_matrix_queues :
    ((getC (after (exec (.mload false 1#6 2#6) sys)) 0).loadQ.length, (waveIn (exec (.mload false 1#6 2#6) sys)).map (fun w => w.enq.length)) =
      (1, some 1) := by decide

/-- 09 R335: an engine command takes sequence number 1 and its ring entry. -/
theorem test_engine_appends :
    ((mget (after (exec (.ecopy false 1#6 2#6 3#6 0#2) sys)).contexts 1).bind (fun x => mget x.consists 0)).map (fun q => q.tail) =
      some 1 := by decide

/-- 15 R440: an ordered doorbell moves the tail; one beyond the ring freezes the queue. -/
theorem test_doorbell_past_end :
    ((mget (after (exec (.doorbellWrite 1 0 16 false) { State.reset with funcs := [(1, { Func.init with
      queues := [⟨0x1000, 0, 0, 4, false, none, []⟩] })] })).funcs 1).bind (fun f => f.queues.head?)).map (fun q => (q.tail, q.qerr)) =
      some (0, true) := by decide
theorem test_doorbell_moves :
    ((mget (after (exec (.doorbellWrite 1 0 15 false) { State.reset with funcs := [(1, { Func.init with
      queues := [⟨0x1000, 0, 0, 4, false, none, []⟩] })] })).funcs 1).bind (fun f => f.queues.head?)).map (fun q => (q.tail, q.qerr)) =
      some (15, false) := by decide

/-- 15 R463: a thermal request lowers the clock to 1,000 MHz. -/
theorem test_thermal : (after (exec .thermalRequest State.reset)).mgmt.clock = 1000 := by decide

/-- 05 R193, R195: the manual's literals and offsets: `mov.b32 v1, 1.5` takes `wimm 0x7F_8000`; 16 bytes of 8 are IMM7 2. -/
theorem test_literals :
    (literalFields false 0x3FC00000, offsetFields 8 16, offsetFields 4 6) =
      (some (some 0x7F8000#25, 0), some (none, 2), some (some 0#25, 6)) := by decide

/-- 05 R191, R194: `exit` is marked by the assembler, `nop` is not. -/
theorem test_switch_marks : (markWord false 0x0B200000, markWord false 0x0BC00000) = (some 0x8B200000, some 0x0BC00000) := by decide

/-- 05 R196, 13 R389: `2:set:system:3`. -/
theorem test_tier_byte : (TierDecl.byte ⟨2, 3, 3, some 3⟩) = 0x7F := by decide

/-- 15 R461: PID, and nothing behind an index that is not listed. -/
theorem test_management_reads :
    (portRead State.reset 1, portRead State.reset 0x40, portBytes { State.reset with mgmt := { Mgmt.init with sel := 2 } }) = ((4, 0x47530009), (1, 0), [2#8]) := by
  decide +kernel

/-- The host's question: a word placed after reset is fetched, decoded and run (log 2): `nop` moves a thread on. -/
theorem test_step_runs_nop : pc (step (State.reset.withFetchWord 32 0x0BC00000)) 0 = some 0x1000004#64 := by rfl

end Sys2Proof.Tests
end

