-- ==== Sys2Proof/Tests/Witnesses.lean ====
section
/-! SUPPORT. Witnesses: for every obligation with hypotheses, states and operands that meet all of them together, clause by
clause, at boundary values where a clause has a range. -/

namespace Sys2Proof.Tests

open Sys2Proof.Machine Sys2Proof.Terms

/-- When a word runs, from facts that compute. -/
theorem runs_of {s : State} {w : Wave} {names : List Spec} {wimm user : Bool} (h : mget s.waves s.cur.wave = some w)
    (hi : (s.cur.wimm.isNone || wimm) = true) (hp : (w.priv.isNone || !user) = true)
    (hn : names.all (fun p => !w.lacks p) = true) : Runs s w names wimm user := by
  refine ⟨h, ?_, ?_, .inr fun p hp => ?_⟩
  · intro h
    simp only [Bool.or_eq_true, Option.isNone_iff_eq_none] at hi
    exact hi.resolve_left (fun e => by rw [e] at h; exact absurd h (by decide))
  · intro h
    simp only [Bool.or_eq_true, Option.isNone_iff_eq_none, Bool.not_eq_true'] at hp
    exact hp.resolve_left (fun e => by rw [e] at h; exact absurd h (by decide))
  · simpa using List.all_eq_true.mp hn p hp

/-- The device with the wave at privileged level. -/
def priv : State :=
  onW (fun w => { w with priv := some ⟨⟨1, 0#64, 0#64, 0#32, 0, 0#64⟩, 0x4000000#64, 0, w.threads, w.em, w.cm, 0, 0#32, 0#32, 0#32, false⟩ }) sys

/-- The wave of a state. -/
def theWave (s : State) : Wave := (mget s.waves 0).getD wv

/-- Its thread `n`. -/
def t8 (s : State) (n : Nat) : Thread := ((theWave s).thread n).getD (startThread (fun _ => 0#64) 0 0 0 0#64)

/-- The device with no thread active. -/
def idle : State := onW (fun w => { w with em := 0#64 }) sys

/-- A load of thread 0 into v2 on its way. -/
def aLoad : Access :=
  { id := 9, op := .load 4, lanes := [⟨0, 0x2000000, .single 0x2000000, []⟩], dest := some (8, false), addr := 0x1000000#64, word := 0,
    after := [], performed := false, user := true, folds := [], slot := none }

/-- The device with that load outstanding. -/
def owing : State := onW (fun w => { w with accs := [aLoad], ldq := [(9, false)] }) sys

/-- The device whose threads have all exited. -/
def ended : State := onT (fun t => { t with st := .exited }) sys

/-- The device with `n` extended blocks held. -/
def blocks (n : Nat) : State := onW (fun w => { w with xblk := n }) sys

/-- A versioned range owned by context 1. -/
def aRange : VRange :=
  { back := [0x3000000, 0x3008000], npages := 1, cls := 0, nb := 2, owner := 1, readers := 2, cur := 0, stg := none,
    held := [[1], []], copied := [], dead := false }

/-- The device with a page of that range at `0x40000000`, whose address stands in v4:v5 (14 R408, R411). -/
def versioned : State :=
  put 4 0 0x40000000
    { sys with
      mem := putBytes (putBytes (putBytes sys.mem 0x20008 (bytesOf 8 0x31001)) 0x31000 (bytesOf 8 0x32001)) 0x32000
        (bytesOf 8 0x2000000000000A23),
      ranges := [(5, aRange)] }

/-- The device whose threads stand on a sharded page that another device owns (14 R408, R435). -/
def farCode : State :=
  { onT (fun t => { t with pc := 0x40000000#64 }) sys with
    mem := putBytes (putBytes (putBytes sys.mem 0x20008 (bytesOf 8 0x31001)) 0x31000 (bytesOf 8 0x32001)) 0x32000
      (bytesOf 8 0x30500000020000A3),
    parts := sys.parts.map (fun e => (e.1, { e.2 with shards := [(5, [(1, 7), (1, 7)])] })) }

/-- The device with platform 0 at tier 3. -/
def withPlatform : State := modL sys 0 (fun l => { l with tiers := [0, 16] })

/-- Cancellation in triple mode, with the trap enabled: 1 - (1, 1, 1 - 2^-24). -/
def cancels (s : State) : State :=
  put 4 0 0x3F800000 (put 4 1 0x3F800000 (put 4 2 0x3F800000 (put 6 0 0x3F800000 (put 6 1 0x3F800000 (put 6 2 0x3F7FFFFF
    (onW (fun w => { w with triple := true, nctl := 0x20#32 }) s))))))

/-- A divisor whose siblings disagree, with the trap for it enabled (03 R111). -/
def disagrees (bits : W32) (s : State) : State :=
  put 4 0 0x3F800000 (put 4 1 0x3F800000 (put 4 2 0x3F800000 (put 6 0 0x40000000 (put 6 1 0xBF800000 (put 6 2 0x40000000
    (onW (fun w => { w with triple := true, nctl := bits }) s))))))

theorem witness_ScalarWordsWriteTheirResult :
    ∃ (i : Instr) (s : State) (w : Wave) (r : ScalForm), scalForm s w i = some r ∧ Runs s w [] r.wimm false :=
  ⟨.sadd false 2#6 1#6 true 1#7, sys, wv, _, rfl, runs_of rfl rfl rfl rfl⟩

theorem witness_GetwReadsTheGrant : ∃ (s : State) (w : Wave), Runs s w [] false false ∧ w.actives s.cur.tids ≠ [] :=
  ⟨sys, wv, runs_of rfl rfl rfl rfl, by decide⟩

theorem witness_IntegerWordsWriteTheirResult :
    ∃ (i : Instr) (s : State) (w : Wave) (r : VecForm), intForm i = some r ∧ Runs s w r.names r.wimm false :=
  ⟨.addN32 false 2#7 4#7 31#7, sys, wv, _, rfl, runs_of rfl rfl rfl rfl⟩

theorem witness_FloatWordsWriteTheirResult :
    (∃ (i : Instr) (s : State) (w : Wave) (r : VecForm), floatForm i = some r ∧ Runs s w r.names r.wimm false ∧
      (w.priv = none ∨ r.trap s w = [])) ∧
    (∃ (i : Instr) (s : State) (w : Wave) (r : VecForm), floatForm i = some r ∧ Runs s w r.names r.wimm false ∧
      w.priv.isSome = true ∧ r.trap s w ≠ []) :=
  ⟨⟨.faddF32 false .rn 2#7 4#7 6#7, sys, wv, _, rfl, runs_of rfl rfl rfl rfl, .inl rfl⟩,
    ⟨.fsubF32 false .rn 2#7 4#7 6#7, cancels priv, theWave (cancels priv), _, rfl, runs_of rfl rfl rfl rfl, rfl, by
      intro h
      have : (VecForm.trap _ (cancels priv) (theWave (cancels priv))).length = 0 := congrArg List.length h
      revert this
      decide⟩⟩

theorem witness_LateResultsAreOnTheirWay :
    (∃ (i : Instr) (s : State) (w : Wave) (r : VecForm), longFloat i = some r ∧ Runs s w r.names r.wimm false ∧
      (w.priv = none ∨ r.trap s w = [])) ∧
    (∃ (i : Instr) (s : State) (w : Wave) (r : VecForm), crossForm i = some r ∧ Runs s w r.names r.wimm false ∧
      (w.priv = none ∨ r.trap s w = [])) ∧
    (∃ (i : Instr) (s : State) (w : Wave) (r : LateForm), lateForm i = some r ∧ Runs s w r.names false r.user ∧
      w.actives s.cur.tids ≠ []) ∧
    (∃ (i : Instr) (s : State) (w : Wave) (r : VecForm), longFloat i = some r ∧ Runs s w r.names r.wimm false ∧
      w.priv.isSome = true ∧ r.trap s w ≠ []) :=
  ⟨⟨.fdivF32 false .rn 2#7 4#7 6#7, sys, wv, _, rfl, runs_of rfl rfl rfl rfl, .inl rfl⟩,
    ⟨.shfl false 2#7 4#7 6#7 1#4, sys, wv, _, rfl, runs_of rfl rfl rfl rfl, .inl rfl⟩,
    ⟨.vtos false 1#4 4#7 2#4, sys, wv, _, rfl, runs_of rfl rfl rfl rfl, by decide⟩,
    ⟨.fdivF32 false .rn 2#7 4#7 6#7, disagrees 0x80 priv, theWave (disagrees 0x80 priv), _, rfl, runs_of rfl rfl rfl rfl, rfl, by
      intro h
      have : (VecForm.trap _ (disagrees 0x80 priv) (theWave (disagrees 0x80 priv))).length = 0 := congrArg List.length h
      revert this
      decide +kernel⟩⟩

theorem witness_ComparesWriteTheConditionBits :
    (∃ (i : Instr) (s : State) (w : Wave) (r : CmForm), cmForm i = some r ∧ Runs s w r.names false false ∧
      (w.priv = none ∨ r.trap s w = [])) ∧
    (∃ (i : Instr) (s : State) (w : Wave) (r : CmForm), cmForm i = some r ∧ Runs s w r.names false false ∧
      w.priv.isSome = true ∧ r.trap s w ≠ []) :=
  ⟨⟨.cltI32 false 4#7 6#7, sys, wv, _, rfl, runs_of rfl rfl rfl rfl, .inl rfl⟩,
    ⟨.fcltF32 false 6#7 4#7, disagrees 0x40 priv, theWave (disagrees 0x40 priv), _, rfl, runs_of rfl rfl rfl rfl, rfl, by
      intro h
      have : (CmForm.trap _ (disagrees 0x40 priv) (theWave (disagrees 0x40 priv))).length = 0 := congrArg List.length h
      revert this
      decide +kernel⟩⟩

theorem witness_SpecialRegistersAreReadAndWritten :
    (∃ (i : Instr) (s : State) (w : Wave) (r : VecForm), readForm i = some r ∧ Runs s w r.names false false ∧
      ∀ m d n, i = .rdsrVector m d n → ¬denied s w n) ∧
    (∃ (n : BitVec 7) (s : State) (w : Wave), Runs s w [] false false ∧ ¬denied s w n ∧ n = 0x14 ∧
      w.actives s.cur.tids ≠ [] ∧ w.priv.isSome = true) ∧
    (∃ (n : BitVec 7) (s : State) (w : Wave), Runs s w [] false false ∧ ¬denied s w n ∧ w.priv = none) ∧
    (∃ (i : Instr) (n : BitVec 7) (s : State) (w : Wave), (∃ m d, i = .rdsrScalar m d n) ∧ Runs s w [] false false ∧ denied s w n) ∧
    (∃ (i : Instr) (n : BitVec 7) (s : State) (w : Wave), (∃ m d, i = .rdsrVector m d n ∧ w.lacks d = true) ∧
      Runs s w [] false false ∧ denied s w n) ∧
    (∃ (i : Instr) (n : BitVec 7) (s : State) (w : Wave), (∃ m a, i = .wrsr m a n) ∧ Runs s w [] false false ∧ denied s w n) := by
  refine ⟨⟨.rdsrVector false 2#7 1#7, sys, wv, _, rfl, runs_of rfl rfl rfl rfl, ?_⟩,
    ⟨0x14, priv, theWave priv, runs_of rfl rfl rfl rfl, ?_, rfl, by decide, rfl⟩,
    ⟨0x1A, sys, wv, runs_of rfl rfl rfl rfl, ?_, rfl⟩,
    ⟨.rdsrScalar false 2#6 0x22#7, 0x22, sys, wv, ⟨_, _, rfl⟩, runs_of rfl rfl rfl rfl, rfl, rfl, by decide⟩,
    ⟨.rdsrVector false 0x20#7 0x20#7, 0x20, blocks 0, theWave (blocks 0), ⟨_, _, rfl, by decide⟩, runs_of rfl rfl rfl rfl, rfl, rfl,
      by decide⟩,
    ⟨.wrsr false 2#6 0x22#7, 0x22, sys, wv, ⟨_, _, rfl⟩, runs_of rfl rfl rfl rfl, rfl, rfl, by decide⟩⟩
  · rintro m d n h ⟨hp, -⟩
    cases h
    exact absurd hp (by decide)
  · exact fun h => absurd h.1 (by decide)
  · exact fun h => absurd h.1 (by decide)

theorem witness_MaskWordsWriteTheExecutionMask :
    ∃ (i : Instr) (s : State) (w : Wave) (r : MaskForm), maskForm i = some r ∧ Runs s w [] false false :=
  ⟨.emif false 2#6, sys, wv, _, rfl, runs_of rfl rfl rfl rfl⟩

theorem witness_BranchesMoveThreads :
    (∃ (i : Instr) (s : State) (w : Wave) (r : BranchForm), branchForm i = some r ∧ Runs s w r.names r.wimm false ∧
      straying s w r = []) ∧
    (∃ (i : Instr) (s : State) (w : Wave) (r : BranchForm) (n : Nat) (l : List Nat), branchForm i = some r ∧
      Runs s w r.names r.wimm false ∧ straying s w r = n :: l ∧ w.priv = none ∧ ∃ j t, w.thread j = some t ∧ t.live = true) ∧
    (∃ (i : Instr) (s : State) (w : Wave) (r : BranchForm) (n : Nat) (l : List Nat), branchForm i = some r ∧
      Runs s w r.names r.wimm false ∧ straying s w r = n :: l ∧ w.priv ≠ none) :=
  ⟨⟨.brc false 4#21, sys, wv, _, rfl, runs_of rfl rfl rfl rfl, by decide⟩,
    ⟨.jmpr false 4#7, put 4 0 2 sys, theWave (put 4 0 2 sys), _, 0, [1, 2, 3, 4, 5, 6, 7], rfl, runs_of rfl rfl rfl rfl,
      by decide, rfl, 0, _, rfl, rfl⟩,
    ⟨.jmpr false 4#7, put 5 0 0x1000000 priv, theWave (put 5 0 0x1000000 priv), _, 0, [1, 2, 3, 4, 5, 6, 7], rfl,
      runs_of rfl rfl rfl rfl, by decide, by decide⟩⟩

theorem witness_ThreadsStandAtWaitingWords :
    (∃ (m : Bool) (s : State) (w : Wave) (r : StandForm), standForm s w (.rcb m) = some r ∧ Runs s w r.names false r.user) ∧
    (∃ (m : Bool) (s : State) (w : Wave) (r : StandForm), standForm s w (.handlerReturn m) = some r ∧
      Runs s w r.names false r.user) ∧
    (∃ (m : Bool) (a b : SReg) (s : State) (w : Wave) (r : StandForm), standForm s w (.waitgen m a b) = some r ∧
      Runs s w r.names false r.user ∧ scal32 s w 1 a = 4080) ∧
    (∃ (m : Bool) (s : State) (w : Wave) (r : StandForm), standForm s w (.fenceW m) = some r ∧ Runs s w r.names false r.user) ∧
    (∃ (m : Bool) (s : State) (w : Wave) (r : StandForm), standForm s w (.vunpin m) = some r ∧ Runs s w r.names false r.user) :=
  ⟨⟨false, sys, wv, _, rfl, runs_of rfl rfl rfl rfl⟩, ⟨false, priv, theWave priv, _, rfl, runs_of rfl rfl rfl rfl⟩,
    ⟨false, 1#6, 2#6, putS 1 4080 sys, theWave (putS 1 4080 sys), _, rfl, runs_of rfl rfl rfl rfl, rfl⟩,
    ⟨false, owing, theWave owing, _, rfl, runs_of rfl rfl rfl rfl⟩, ⟨false, sys, wv, _, rfl, runs_of rfl rfl rfl rfl⟩⟩

theorem witness_PassedWordsAndYield :
    (∃ (i : Instr) (s : State) (w : Wave) (ends user : Bool), passForm s w i = some (ends, user) ∧ Runs s w [] false user) ∧
    (∃ (m : Bool) (a : Spec) (s : State) (w : Wave) (ends user : Bool), passForm s w (.vpin m a) = some (ends, user) ∧
      Runs s w [] false user) ∧
    (∃ (s : State) (w : Wave), Runs s w [] false true ∧ w.det = true ∧ w.sidings ≠ []) ∧
    (∃ (s : State) (w : Wave), Runs s w [] false true ∧ w.det = true ∧ w.sidings = [] ∧ w.held = [] ∧ w.reads = []) :=
  ⟨⟨.nop false, sys, wv, _, _, rfl, runs_of rfl rfl rfl rfl⟩,
    ⟨false, 4#7, idle, theWave idle, _, _, rfl, runs_of rfl rfl rfl rfl⟩,
    ⟨onW (fun w => { w with det := true, sidings := [⟨0, [1], []⟩] }) sys, { wv with det := true, sidings := [⟨0, [1], []⟩] },
      runs_of rfl rfl rfl rfl, rfl, by decide⟩,
    ⟨onW (fun w => { w with det := true }) sys, { wv with det := true }, runs_of rfl rfl rfl rfl, rfl, rfl, rfl, rfl⟩⟩

theorem witness_TrapRaisesTheSoftwareTrap :
    (∃ (i : Instr) (m : Bool) (c : Nat) (s : State) (w : Wave), trapCode i = some (m, c) ∧ Runs s w [] false false ∧ w.priv = none ∧
      w.actives s.cur.tids ≠ []) ∧
    (∃ (i : Instr) (m : Bool) (s : State) (w : Wave), trapCode i = some (m, 0) ∧ Runs s w [] false false ∧ w.priv = none ∧
      w.actives s.cur.tids = []) ∧
    (∃ (i : Instr) (s : State) (w : Wave) (names : List Spec) (wimm : Bool) (p : Spec), namesOf s w i = some (names, wimm) ∧
      mget s.waves s.cur.wave = some w ∧ (s.cur.wimm.isSome = true → wimm = true) ∧ w.priv = none ∧ w.actives s.cur.tids ≠ [] ∧
      names.find? (fun p => w.lacks p) = some p) ∧
    (∃ (i : Instr) (s : State) (w : Wave) (names : List Spec) (wimm : Bool) (p : Spec), namesOf s w i = some (names, wimm) ∧
      mget s.waves s.cur.wave = some w ∧ (s.cur.wimm.isSome = true → wimm = true) ∧ w.priv.isSome = true ∧ forbidden i = false ∧
      (∀ m d n, i = .rdsrVector m d n → ¬denied s w n) ∧ w.actives s.cur.tids ≠ [] ∧ names.find? (fun p => w.lacks p) = some p) ∧
    (∃ (i : Instr) (s : State) (w : Wave), forbidden i = true ∧ mget s.waves s.cur.wave = some w ∧ s.cur.wimm = none ∧
      w.priv.isSome = true ∧ w.actives s.cur.tids = []) := by
  refine ⟨⟨.trap false 255#8, false, 255, sys, wv, rfl, runs_of rfl rfl rfl rfl, rfl, by decide⟩,
    ⟨.handlerReturn true, true, idle, theWave idle, rfl, runs_of rfl rfl rfl rfl, rfl, by decide⟩,
    ⟨.addN32 false 2#7 0x3F#7 0x40#7, blocks 1, theWave (blocks 1), _, _, 0x40#7, rfl, rfl, fun h => absurd h (by decide), rfl, by decide, by decide⟩,
    ⟨.rdsrVector false 0x20#7 1#7, onW (fun w => { w with xblk := 0 }) priv, theWave (onW (fun w => { w with xblk := 0 }) priv), _, _,
      0x20#7, rfl, rfl, fun h => absurd h (by decide), rfl, rfl, ?_, by decide, by decide⟩,
    ⟨.exit false, onW (fun w => { w with em := 0#64 }) priv, theWave (onW (fun w => { w with em := 0#64 }) priv), rfl, rfl, rfl, rfl,
      by decide⟩⟩
  rintro m d n h ⟨hp, -⟩
  cases h
  exact absurd hp (by decide)

theorem witness_ExitEndsThreadsAndWaves :
    (∃ (s : State) (w : Wave), Runs s w [] false true) ∧
    (∃ (s : State) (k : Nat) (w : Wave) (tids : List Nat), mget s.waves k = some w ∧
      ∃ n t, w.thread n = some t ∧ t.live = true ∧ n ∉ tids) ∧
    (∃ (s : State) (k : Nat) (w : Wave) (tids : List Nat), mget s.waves k = some w ∧
      ∀ n t, w.thread n = some t → t.live = true → n ∈ tids) := by
  refine ⟨⟨sys, wv, runs_of rfl rfl rfl rfl⟩, ⟨sys, 0, wv, [0], rfl, 7, _, rfl, rfl, by decide⟩,
    ⟨sys, 0, wv, [0, 1, 2, 3, 4, 5, 6, 7], rfl, fun n t h _ => ?_⟩⟩
  have hn : n < wv.threads.length := (List.getElem?_eq_some_iff.mp h).1
  have : wv.threads.length = 8 := rfl
  have : n < 8 := by omega
  revert this
  clear h hn
  revert n
  decide

theorem witness_BarrierWordsBringThreadsToTheBarrier :
    (∃ (i : Instr) (s : State) (w : Wave) (r : BarForm), barForm i = some r ∧ Runs s w [] false true ∧ r.exists_ s w ∧
      r.num = 3 ∧ r.tree = false) ∧
    (∃ (i : Instr) (s : State) (w : Wave) (r : BarForm), barForm i = some r ∧ Runs s w [] false true ∧ r.exists_ s w ∧
      w.unperformed = true) ∧
    (∃ (i : Instr) (s : State) (w : Wave) (r : BarForm), barForm i = some r ∧ Runs s w [] false true ∧ r.exists_ s w ∧
      r.tree = true) ∧
    (∃ (i : Instr) (s : State) (w : Wave) (r : BarForm), barForm i = some r ∧ Runs s w [] false true ∧ ¬r.exists_ s w ∧
      r.num = 4 ∧ w.priv = none ∧ ∃ n t, w.thread n = some t ∧ t.live = true) := by
  refine ⟨⟨.bar false 3#9 0#12, sys, wv, _, rfl, runs_of rfl rfl rfl rfl, ?_, rfl, rfl⟩,
    ⟨.barArr false 0#9 8#12, owing, theWave owing, _, rfl, runs_of rfl rfl rfl rfl, ?_, by decide⟩,
    ⟨.tbar false 0#3, withPlatform, wv, _, rfl, runs_of rfl rfl rfl rfl, ?_, rfl⟩,
    ⟨.bar false 4#9 0#12, sys, wv, _, rfl, runs_of rfl rfl rfl rfl, ?_, rfl, rfl, 0, _, rfl, rfl⟩⟩
  · exact ⟨_, rfl, by decide⟩
  · exact ⟨_, rfl, by decide⟩
  · exact ⟨_, _, rfl, rfl⟩
  · rintro ⟨u, hu, h⟩
    cases hu
    exact absurd h (by decide)

theorem witness_SetwSetsTheRequest :
    (∃ (s : State) (w : Wave), Runs s w [] false true ∧ w.actives s.cur.tids = []) ∧
    (∃ (x : BitVec 7) (s : State) (w : Wave), Runs s w [] true true ∧ w.actives s.cur.tids = [] ∧ (imm64 s.cur.wimm x).toNat = 8) ∧
    (∃ (x : BitVec 7) (s : State) (w : Wave), Runs s w [] true true ∧ w.actives s.cur.tids = [] ∧ (imm64 s.cur.wimm x).toNat = 7) ∧
    (∃ (a : SReg) (s : State) (w : Wave), Runs s w [] false true ∧ w.actives s.cur.tids ≠ [] ∧
      (readScal s w s.cur.tids 1 a.toNat).toNat = 8) ∧
    (∃ (x : BitVec 7) (s : State) (w : Wave), Runs s w [] true true ∧ w.actives s.cur.tids ≠ [] ∧
      (imm64 s.cur.wimm x).toNat = 63) ∧
    (∃ (a : SReg) (s : State) (w : Wave), Runs s w [] false true ∧ w.actives s.cur.tids ≠ [] ∧
      (readScal s w s.cur.tids 1 a.toNat).toNat = 64) ∧
    (∃ (x : BitVec 7) (s : State) (w : Wave), Runs s w [] true true ∧ w.actives s.cur.tids ≠ [] ∧
      (imm64 s.cur.wimm x).toNat = 7) ∧
    (∃ (a : SReg) (s : State) (w : Wave), Runs s w [] false true ∧ w.actives s.cur.tids ≠ [] ∧
      (readScal s w s.cur.tids 1 a.toNat).toNat = 65) :=
  ⟨⟨idle, theWave idle, runs_of rfl rfl rfl rfl, by decide⟩, ⟨8#7, idle, theWave idle, runs_of rfl rfl rfl rfl, by decide, rfl⟩,
    ⟨7#7, idle, theWave idle, runs_of rfl rfl rfl rfl, by decide, rfl⟩,
    ⟨1#6, putS 1 8 sys, theWave (putS 1 8 sys), runs_of rfl rfl rfl rfl, by decide, rfl⟩,
    ⟨63#7, sys, wv, runs_of rfl rfl rfl rfl, by decide, rfl⟩,
    ⟨1#6, putS 1 64 sys, theWave (putS 1 64 sys), runs_of rfl rfl rfl rfl, by decide, rfl⟩,
    ⟨7#7, sys, wv, runs_of rfl rfl rfl rfl, by decide, rfl⟩,
    ⟨1#6, putS 1 65 sys, theWave (putS 1 65 sys), runs_of rfl rfl rfl rfl, by decide, rfl⟩⟩

theorem witness_XacqAcquiresOrWaitsAndXrelReleases :
    (∃ (c : BitVec 7) (s : State) (w : Wave), Runs s w [] false true ∧ w.actives s.cur.tids ≠ [] ∧ c.toNat = w.xblk) ∧
    (∃ (s : State) (w : Wave), Runs s w [] false true ∧ w.actives s.cur.tids = []) ∧
    (∃ (c : BitVec 7) (s : State) (w : Wave), Runs s w [] false true ∧ w.actives s.cur.tids ≠ [] ∧ w.xblk + 1 = c.toNat ∧
      supplies s w c.toNat = true) ∧
    (∃ (c : BitVec 7) (s : State) (w : Wave), Runs s w [] false true ∧ w.actives s.cur.tids ≠ [] ∧ w.xblk + 1 = c.toNat ∧
      supplies s w c.toNat = false) ∧
    (∃ (c : BitVec 7) (s : State) (w : Wave), Runs s w [] false true ∧ w.actives s.cur.tids ≠ [] ∧ w.xblk = c.toNat) ∧
    (∃ (c : BitVec 7) (s : State) (w : Wave), Runs s w [] false true ∧ w.actives s.cur.tids ≠ [] ∧ c.toNat + 1 = w.xblk) :=
  ⟨⟨1#7, blocks 1, theWave (blocks 1), runs_of rfl rfl rfl rfl, by decide, rfl⟩,
    ⟨idle, theWave idle, runs_of rfl rfl rfl rfl, by decide⟩,
    ⟨1#7, blocks 0, theWave (blocks 0), runs_of rfl rfl rfl rfl, by decide, rfl, by decide⟩,
    ⟨1#7, modC (blocks 0) 0 (fun c => { c with reqs := [(4, 1)] }), theWave (blocks 0), runs_of rfl rfl rfl rfl, by decide, rfl, by decide⟩,
    ⟨1#7, blocks 1, theWave (blocks 1), runs_of rfl rfl rfl rfl, by decide, rfl⟩,
    ⟨0#7, blocks 1, theWave (blocks 1), runs_of rfl rfl rfl rfl, by decide, rfl⟩⟩

/-- What holds of each of the eight threads holds of all that are active. -/
theorem of_threads {P : Nat × Thread → Prop} (s : State) (h0 : P (0, t8 s 0)) (h1 : P (1, t8 s 1)) (h2 : P (2, t8 s 2))
    (h3 : P (3, t8 s 3)) (h4 : P (4, t8 s 4)) (h5 : P (5, t8 s 5)) (h6 : P (6, t8 s 6)) (h7 : P (7, t8 s 7)) :
    ∀ p ∈ [(0, t8 s 0), (1, t8 s 1), (2, t8 s 2), (3, t8 s 3), (4, t8 s 4), (5, t8 s 5), (6, t8 s 6), (7, t8 s 7)], P p := by
  simp only [List.forall_mem_cons]
  exact ⟨h0, h1, h2, h3, h4, h5, h6, h7, fun _ h => nomatch h⟩

theorem witness_MemoryWordsIssueTheirAccessOrTrap :
    (∃ (i : Instr) (s : State) (w : Wave) (r : MemForm) (at_ : Nat → Place), memForm i = some r ∧ Runs s w r.names r.wimm r.user ∧
      r.Passes s w at_ ∧ r.op.scratch = false) ∧
    (∃ (i : Instr) (s : State) (w : Wave) (r : MemForm) (at_ : Nat → Place), memForm i = some r ∧ Runs s w r.names r.wimm r.user ∧
      r.Passes s w at_ ∧ r.op.scratch = true) ∧
    (∃ (i : Instr) (s : State) (w : Wave) (r : MemForm) (n c : Nat) (t : Thread) (rest : List (Nat × Thread × Nat)),
      memForm i = some r ∧ Runs s w r.names r.wimm r.user ∧ r.coded s w = (n, t, c) :: rest ∧ w.priv = none) ∧
    (∃ (i : Instr) (s : State) (w : Wave) (r : MemForm) (n c : Nat) (t : Thread) (rest : List (Nat × Thread × Nat)),
      memForm i = some r ∧ Runs s w r.names r.wimm r.user ∧ r.coded s w = (n, t, c) :: rest ∧ w.priv.isSome = true) ∧
    (∃ (i : Instr) (s : State) (w : Wave) (r : MemForm), memForm i = some r ∧ Runs s w r.names r.wimm r.user ∧ r.Goes s w ∧
      w.priv = none ∧ r.faults s w ≠ []) ∧
    (∃ (i : Instr) (s : State) (w : Wave) (r : MemForm), memForm i = some r ∧ Runs s w r.names r.wimm r.user ∧ r.Goes s w ∧
      w.priv = none ∧ r.faults s w = [] ∧ r.placed s w true ≠ []) ∧
    (∃ (i : Instr) (s : State) (w : Wave) (r : MemForm), memForm i = some r ∧ Runs s w r.names r.wimm r.user ∧ r.Goes s w ∧
      w.priv.isSome = true ∧ r.faults s w ≠ []) ∧
    (∃ (i : Instr) (s : State) (w : Wave) (r : MemForm) (va pa : Nat) (rest : List (Nat × Nat)), memForm i = some r ∧
      Runs s w r.names r.wimm r.user ∧ r.coded s w = [] ∧ r.violations s w = (va, pa) :: rest) := by
  refine ⟨⟨.ldGN32 false 2#7 4#7 1#7, put 4 0 0x2000000 sys, theWave (put 4 0 0x2000000 sys), _, fun _ => .single 0x2000004, rfl,
      runs_of rfl rfl rfl rfl, ?_, rfl⟩,
    ⟨.stSN64 false 2#7 4#7 0#7, put 4 0 4088 sys, theWave (put 4 0 4088 sys), _, fun _ => .scratch 0 4088, rfl,
      runs_of rfl rfl rfl rfl, ?_, rfl⟩,
    ⟨.stSN64 false 2#7 4#7 1#7, put 4 0 4088 sys, theWave (put 4 0 4088 sys), _, 0, 3, _, _, rfl, runs_of rfl rfl rfl rfl, rfl, rfl⟩,
    ⟨.stSN64 false 2#7 4#7 1#7, put 4 0 4088 priv, theWave (put 4 0 4088 priv), _, 0, 3, _, _, rfl, runs_of rfl rfl rfl rfl, rfl, rfl⟩,
    ⟨.ldGN32 false 2#7 4#7 1#7, put 4 0 0x40000000 sys, theWave (put 4 0 0x40000000 sys), _, rfl, runs_of rfl rfl rfl rfl, ?_, rfl,
      by decide +kernel⟩,
    ⟨.ldGN32 false 2#7 4#7 1#7, put 4 0 0x40000000 farCode, theWave (put 4 0 0x40000000 farCode), _, rfl, runs_of rfl rfl rfl rfl, ?_, rfl,
      by decide +kernel, by decide +kernel⟩,
    ⟨.ldGN32 false 2#7 4#7 1#7, put 4 0 0x40000000 priv, theWave (put 4 0 0x40000000 priv), _, rfl, runs_of rfl rfl rfl rfl, ?_, rfl,
      by decide +kernel⟩,
    ⟨.ldGN32 false 2#7 4#7 1#7, { put 4 0 0x2000000 sys with parts := [] }, theWave (put 4 0 0x2000000 sys), _, _, _, _, rfl,
      runs_of rfl rfl rfl rfl, rfl, rfl⟩⟩
  · exact of_threads (put 4 0 0x2000000 sys) ⟨rfl, rfl⟩ ⟨rfl, rfl⟩ ⟨rfl, rfl⟩ ⟨rfl, rfl⟩ ⟨rfl, rfl⟩ ⟨rfl, rfl⟩ ⟨rfl, rfl⟩ ⟨rfl, rfl⟩
  · exact of_threads (put 4 0 4088 sys) ⟨rfl, rfl⟩ ⟨rfl, rfl⟩ ⟨rfl, rfl⟩ ⟨rfl, rfl⟩ ⟨rfl, rfl⟩ ⟨rfl, rfl⟩ ⟨rfl, rfl⟩ ⟨rfl, rfl⟩
  · exact of_threads (put 4 0 0x40000000 sys) (.inr ⟨_, rfl⟩) (.inr ⟨_, rfl⟩) (.inr ⟨_, rfl⟩) (.inr ⟨_, rfl⟩) (.inr ⟨_, rfl⟩)
      (.inr ⟨_, rfl⟩) (.inr ⟨_, rfl⟩) (.inr ⟨_, rfl⟩)
  · exact of_threads (put 4 0 0x40000000 farCode) (.inl ⟨_, rfl⟩) (.inl ⟨_, rfl⟩) (.inl ⟨_, rfl⟩) (.inl ⟨_, rfl⟩) (.inl ⟨_, rfl⟩)
      (.inl ⟨_, rfl⟩) (.inl ⟨_, rfl⟩) (.inl ⟨_, rfl⟩)
  · exact of_threads (put 4 0 0x40000000 priv) (.inr ⟨_, rfl⟩) (.inr ⟨_, rfl⟩) (.inr ⟨_, rfl⟩) (.inr ⟨_, rfl⟩) (.inr ⟨_, rfl⟩)
      (.inr ⟨_, rfl⟩) (.inr ⟨_, rfl⟩) (.inr ⟨_, rfl⟩)

theorem witness_ScalarAccessesAndQueries :
    (∃ (i : Instr) (s : State) (w : Wave) (r : ScalMem) (pl : Place), scalMem i = some r ∧ Runs s w [] r.imm false ∧
      w.actives s.cur.tids ≠ [] ∧ r.check s w = .ok pl ∧ isRemote pl = false) ∧
    (∃ (i : Instr) (s : State) (w : Wave) (r : ScalMem) (pl : Place), scalMem i = some r ∧ Runs s w [] r.imm false ∧
      w.actives s.cur.tids ≠ [] ∧ r.check s w = .ok pl ∧ isRemote pl = true) ∧
    (∃ (i : Instr) (s : State) (w : Wave) (r : ScalMem) (c : Nat), scalMem i = some r ∧ Runs s w [] r.imm false ∧
      w.actives s.cur.tids ≠ [] ∧ r.check s w = .coded c ∧ w.priv = none) ∧
    (∃ (i : Instr) (s : State) (w : Wave) (r : ScalMem) (c : Nat), scalMem i = some r ∧ Runs s w [] r.imm false ∧
      w.actives s.cur.tids ≠ [] ∧ r.check s w = .trans c ∧ w.priv = none) ∧
    (∃ (i : Instr) (s : State) (w : Wave) (r : ScalMem) (pa : Nat), scalMem i = some r ∧ Runs s w [] r.imm false ∧
      w.actives s.cur.tids ≠ [] ∧ r.check s w = .viol pa) ∧
    (∃ (i : Instr) (s : State) (w : Wave) (r : QueryForm) (c : Nat), queryForm i = some r ∧ Runs s w [] false false ∧
      w.actives s.cur.tids ≠ [] ∧ checkGlobal s w .write .scalar 8 (8 * r.words) (r.addr s w) = .trans c ∧ w.priv.isSome = true) ∧
    (∃ (i : Instr) (s : State) (w : Wave) (r : QueryForm) (at_ : Nat → Place) (pl : Place), queryForm i = some r ∧
      Runs s w [] false false ∧ w.actives s.cur.tids ≠ [] ∧ isRemote pl = false ∧
      checkGlobal s w .write .scalar 8 (8 * r.words) (r.addr s w) = .ok pl ∧
      ∀ j < r.words, checkGlobal s w .write .scalar 8 8 (r.addr s w + 8 * j) = .ok (at_ j)) := by
  refine ⟨⟨.sstN64 false 2#6 1#6 true 0#7, putS 1 0x2000000 sys, theWave (putS 1 0x2000000 sys), _, .single 0x2000000, rfl,
      runs_of rfl rfl rfl rfl, by decide, rfl, rfl⟩,
    ⟨.sldN64 false 2#6 1#6 true 0#7, putS 1 0x40000000 farCode, theWave (putS 1 0x40000000 farCode), _, .remote 7 1 0x40000000 5 0, rfl,
      runs_of rfl rfl rfl rfl, by decide, by decide +kernel, rfl⟩,
    ⟨.sstN64 false 2#6 1#6 true 0#7, putS 1 0x2000004 sys, theWave (putS 1 0x2000004 sys), _, _, rfl,
      runs_of rfl rfl rfl rfl, by decide, rfl, rfl⟩,
    ⟨.sstN64 false 2#6 1#6 true 0#7, putS 1 0x40000000 sys, theWave (putS 1 0x40000000 sys), _, _, rfl,
      runs_of rfl rfl rfl rfl, by decide, rfl, rfl⟩,
    ⟨.sstN64 false 2#6 1#6 true 0#7, { putS 1 0x2000000 sys with parts := [] }, theWave (putS 1 0x2000000 sys), _, _, rfl,
      runs_of rfl rfl rfl rfl, by decide, rfl⟩,
    ⟨.fqryPlacement false 2#6 1#6, putS 1 0x40000000 priv, theWave (putS 1 0x40000000 priv), _, _, rfl,
      runs_of rfl rfl rfl rfl, by decide, rfl, rfl⟩,
    ⟨.fqryPlacement false 2#6 1#6, putS 1 0x2000000 sys, theWave (putS 1 0x2000000 sys), _, fun j => .single (0x2000000 + 8 * j),
      .single 0x2000000, rfl, runs_of rfl rfl rfl rfl, by decide, rfl, rfl, ?_⟩⟩
  intro j hj
  have : j = 0 ∨ j = 1 := by
    have : j < 2 := hj
    omega
  rcases this with rfl | rfl <;> rfl

/-- A sampler of the wave, with `n` samples written into a buffer for 4 and one to be written. -/
def aSampler (n : Nat) : Sampler :=
  { cid := 1, unit := 0, wlog := 0, recAddr := 0x2000000#64, buf := 0x2000040#64, cap := 4, period := 256, allWaves := false,
    start := 0, k := 0, nwr := n, ndrop := 0, pending := [5] }

/-- The core with that sampler. -/
def sampling (n : Nat) : State := modC sys 0 (fun c => { c with sampler := some (aSampler n) })

theorem witness_SamplerWordsAndVpin :
    (∃ (a : SReg) (s : State) (w : Wave) (p0 p1 p2 p3 pl : Place), Runs s w [] false true ∧ w.actives s.cur.tids ≠ [] ∧
      let va := (readScal s w s.cur.tids 1 a.toNat).toNat
      checkGlobal s w .read .scalar 8 32 va = .ok pl ∧ isRemote pl = false ∧ checkGlobal s w .read .scalar 8 8 va = .ok p0 ∧
        checkGlobal s w .read .scalar 8 8 (va + 8) = .ok p1 ∧ checkGlobal s w .read .scalar 8 8 (va + 16) = .ok p2 ∧
        checkGlobal s w .read .scalar 8 8 (va + 24) = .ok p3) ∧
    (∃ (s : State) (w : Wave), Runs s w [] false true ∧ w.actives s.cur.tids ≠ [] ∧
      ∀ x, (getC s w.core).sampler = some x → x.cid ≠ w.cid) ∧
    (∃ (s : State) (w : Wave) (x x' : Sampler) (t : State), Runs s w [] false true ∧ w.actives s.cur.tids ≠ [] ∧
      (getC s w.core).sampler = some x ∧ x.cid = w.cid ∧ t = flushSamples s w.core ∧ (getC t w.core).sampler = some x') ∧
    (∃ (a : Spec) (s : State) (w : Wave) (n : Nat) (t : Thread) (rest : List (Nat × Thread)) (vrn pidx off : Nat)
      (pin : Option Pin) (x : VRange), Runs s w [a] false true ∧ activeThreads s w = (n, t) :: rest ∧
      checkGlobal s w .read .pin 1 1 (readOp s w n t 0 1 a true) = .ok (.versioned vrn pidx off pin) ∧
      mget s.ranges vrn = some x) :=
  ⟨⟨1#6, putS 1 0x2000000 sys, theWave (putS 1 0x2000000 sys), .single 0x2000000, .single 0x2000008, .single 0x2000010,
      .single 0x2000018, .single 0x2000000, runs_of rfl rfl rfl rfl, by decide, rfl, rfl, rfl, rfl, rfl, rfl⟩,
    ⟨sys, wv, runs_of rfl rfl rfl rfl, by decide, fun _ h => nomatch h⟩,
    ⟨sampling 3, wv, _, _, _, runs_of rfl rfl rfl rfl, by decide, rfl, rfl, rfl, rfl⟩,
    ⟨4#7, versioned, theWave versioned, 0, _, _, 5, 0, 0, none, aRange, runs_of rfl rfl rfl rfl, rfl, rfl, rfl⟩⟩

/-- The wave's word at hand is that of an instruction. -/
def atWord (n : Nat) (s : State) : State := onX (fun e => { e with word := n }) s

/-- The device whose unit does not own the matrix unit. -/
def noUnit : State := modU sys 0 (fun u => { u with mown := false })

/-- The device whose context has no consists. -/
def noConsists : State := modX sys 1 (fun x => { x with consists := [] })

theorem mma_word : encode (.mma false 1#6 2#6 3#6 false true) = some 0x3C608419 := rfl

theorem witness_MatrixWordsAndTdesc :
    (∃ (i : Instr) (s : State) (w : Wave) (r : MatForm), matForm i = some r ∧ wordIs s i ∧ Runs s w [] false true ∧
      w.actives s.cur.tids ≠ [] ∧ holdsMatrix s w = true) ∧
    (∃ (i : Instr) (s : State) (w : Wave) (r : MatForm), matForm i = some r ∧ wordIs s i ∧ Runs s w [] false true ∧
      w.actives s.cur.tids ≠ [] ∧ holdsMatrix s w = false ∧ w.priv = none) ∧
    (∃ (x : SReg) (base : Bool) (y : SReg) (s : State) (w : Wave) (pl : Place) (v : Nat), Runs s w [] false true ∧
      w.actives s.cur.tids ≠ [] ∧
      let va := (readScal s w s.cur.tids 1 x.toNat).toNat
      let yv := (readScal s w s.cur.tids 2 y.toNat).toNat
      let rec_ := tensorRec v
      checkGlobal s w .both .scalar 64 64 va = .ok pl ∧ isRemote pl = false ∧ recordAt s w va 64 2 pl = some v ∧
      (rec_.space ≠ 0 ∨ rec_.fmt = 0x20 ∨
        (unwalked s w.cid (if base then yv else rec_.base) = false ∧
          ∃ p, translate s w.cid (tlbOf s w) w.priv.isSome .read (if base then yv else rec_.base) = .page p))) :=
  ⟨⟨.mma false 1#6 2#6 3#6 false true, atWord 0x3C608419 sys, wv, _, rfl, mma_word, runs_of rfl rfl rfl rfl, by decide, by decide⟩,
    ⟨.mma false 1#6 2#6 3#6 false true, atWord 0x3C608419 noUnit, wv, _, rfl, mma_word, runs_of rfl rfl rfl rfl, by decide,
      by decide, rfl⟩,
    ⟨1#6, true, 2#6, putS 2 0x2000040 (putS 1 0x2000000 sys), theWave (putS 2 0x2000040 (putS 1 0x2000000 sys)),
      .single 0x2000000, _, runs_of rfl rfl rfl rfl, by decide, rfl, rfl, rfl, .inr (.inr ⟨rfl, _, rfl⟩)⟩⟩

theorem witness_EngineWordsAppendTheirCommand :
    (∃ (i : Instr) (s : State) (w : Wave) (r : EngForm) (q : Consist), engForm i = some r ∧ Runs s w [] false true ∧
      w.actives s.cur.tids ≠ [] ∧ consistOf s w.cid (dieOf w.core) r.eng = some q ∧
      ((∃ m x y z e, i = .ecopy m x y z e) ∧ engOp s w 3 r.z = 0#64)) ∧
    (∃ (i : Instr) (s : State) (w : Wave) (r : EngForm) (q : Consist), engForm i = some r ∧ Runs s w [] false true ∧
      w.actives s.cur.tids ≠ [] ∧ consistOf s w.cid (dieOf w.core) r.eng = some q ∧ ¬(∃ m x y z e, i = .ecopy m x y z e)) ∧
    (∃ (m : Bool) (x y z : SReg) (e : BitVec 2) (s : State) (w : Wave) (r : EngForm) (q : Consist) (pl : Place) (v : Nat),
      engForm (.ecopy m x y z e) = some r ∧ Runs s w [] false true ∧ w.actives s.cur.tids ≠ [] ∧
      consistOf s w.cid (dieOf w.core) r.eng = some q ∧ engOp s w 3 r.z ≠ 0#64 ∧
      checkGlobal s w .read .scalar 32 32 (engOp s w 3 r.z).toNat = .ok pl ∧
      badGranule s pl 32 (engOp s w 3 r.z).toNat = none ∧ recordAt s w (engOp s w 3 r.z).toNat 32 1 pl = some v) ∧
    (∃ (i : Instr) (s : State) (w : Wave) (r : EngForm), engForm i = some r ∧ Runs s w [] false true ∧
      w.actives s.cur.tids ≠ [] ∧ consistOf s w.cid (dieOf w.core) r.eng = none) :=
  ⟨⟨.ecopy false 1#6 2#6 3#6 3#2, sys, wv, _, _, rfl, runs_of rfl rfl rfl rfl, by decide, rfl, ⟨_, _, _, _, _, rfl⟩, rfl⟩,
    ⟨.ecoll false 1#6 2#6 3#6 6#3, sys, wv, _, _, rfl, runs_of rfl rfl rfl rfl, by decide, rfl, by rintro ⟨m, x, y, z, e, h⟩; cases h⟩,
    ⟨false, 1#6, 2#6, 3#6, 0#2, putS 3 0x2000020 sys, theWave (putS 3 0x2000020 sys), _, _, .single 0x2000020, _, rfl,
      runs_of rfl rfl rfl rfl, by decide, rfl, by decide, rfl, rfl, rfl⟩,
    ⟨.egath false 1#6 2#6 3#6, noConsists, wv, _, rfl, runs_of rfl rfl rfl rfl, by decide, rfl⟩⟩

theorem witness_PublishEseqEwait :
    (∃ (s : State) (w : Wave), Runs s w [] false true ∧ w.actives s.cur.tids ≠ [] ∧ ownsGroup s w.cid = true) ∧
    (∃ (s : State) (w : Wave), Runs s w [] false true ∧ w.actives s.cur.tids ≠ [] ∧ ownsGroup s w.cid = false) ∧
    (∃ (e : BitVec 3) (s : State) (w : Wave) (q : Consist), Runs s w [] false true ∧ w.actives s.cur.tids ≠ [] ∧
      consistOf s w.cid (dieOf w.core) e.toNat = some q) ∧
    (∃ (x : SReg) (e : BitVec 3) (s : State) (w : Wave) (q : Consist), Runs s w [] false true ∧ w.actives s.cur.tids ≠ [] ∧
      let v := readScal s w s.cur.tids 1 x.toNat
      let die := if e.toNat < 5 then v.toNat / 2 ^ 62 else 0
      consistOf s w.cid die e.toNat = some q ∧ v.toNat % 2 ^ 62 = q.milepost) ∧
    (∃ (x : SReg) (e : BitVec 3) (s : State) (w : Wave) (q : Consist), Runs s w [] false true ∧ w.actives s.cur.tids ≠ [] ∧
      let v := readScal s w s.cur.tids 1 x.toNat
      let die := if e.toNat < 5 then v.toNat / 2 ^ 62 else 0
      consistOf s w.cid die e.toNat = some q ∧ v.toNat % 2 ^ 62 = q.milepost + 1) :=
  ⟨⟨versioned, theWave versioned, runs_of rfl rfl rfl rfl, by decide, rfl⟩, ⟨sys, wv, runs_of rfl rfl rfl rfl, by decide, rfl⟩,
    ⟨6#3, sys, wv, _, runs_of rfl rfl rfl rfl, by decide, rfl⟩, ⟨1#6, 5#3, sys, wv, _, runs_of rfl rfl rfl rfl, by decide, rfl, rfl⟩,
    ⟨1#6, 0#3, putS 1 1 sys, theWave (putS 1 1 sys), _, runs_of rfl rfl rfl rfl, by decide, rfl, rfl⟩⟩

theorem witness_WordsThatNoThreadIsActiveAt :
    (∃ (s : State) (w : Wave), w.actives s.cur.tids = [] ∧ Runs s w [] true false) ∧
    (∃ (s : State) (w : Wave), w.actives s.cur.tids = [] ∧ Runs s w [] false true) ∧
    (∃ i r, scalMem i = some r ∧ r.imm = true) ∧ (∃ i r, queryForm i = some r) ∧ (∃ i r, lateForm i = some r) ∧
    (∃ i r, matForm i = some r) ∧ (∃ i r, engForm i = some r) :=
  ⟨⟨idle, theWave idle, by decide, runs_of rfl rfl rfl rfl⟩, ⟨idle, theWave idle, by decide, runs_of rfl rfl rfl rfl⟩,
    ⟨.sldN32 false 1#6 2#6 true 0#7, _, rfl, rfl⟩, ⟨.fqryDevice false 1#6 2#6, _, rfl⟩, ⟨.xacqNb false 1#6 2#7, _, rfl⟩,
    ⟨.mload false 1#6 2#6, _, rfl⟩, ⟨.optstep false 1#6 2#6, _, rfl⟩⟩

theorem witness_HnWordsStayPending :
    (∃ (s : State) (w : Wave), Runs s w [] true false ∧ s.cur.hint = none) ∧
    (∃ (s : State) (w : Wave), Runs s w [] true false ∧ s.cur.hint.isSome = true) ∧
    (∃ (s : State) (w : Wave), Runs s w [] true false ∧ s.cur.wimm = none) ∧
    (∃ (s : State) (w : Wave), Runs s w [] true false ∧ s.cur.wimm.isSome = true) :=
  ⟨⟨sys, wv, runs_of rfl rfl rfl rfl, rfl⟩, ⟨onX (fun e => { e with hint := some 0 }) sys, wv, runs_of rfl rfl rfl rfl, rfl⟩,
    ⟨sys, wv, runs_of rfl rfl rfl rfl, rfl⟩, ⟨onX (fun e => { e with wimm := some 0 }) sys, wv, runs_of rfl rfl rfl rfl, rfl⟩⟩

theorem witness_StepRunsTheDecodedInstruction :
    (∃ (s a : State) (core quad k n : Nat) (w : Wave) (g : Group) (l : List Choice),
      sampleTurn s = none ∧ s.agenda = .issue core quad :: l ∧ a = { s with agenda := l } ∧ selected a core quad = some (k, w, g) ∧ g.word = .word n ∧
        ∃ i, decode n = .ok i) ∧
    (∃ (s : State) (core quad k n : Nat) (w : Wave) (g : Group), s.agenda = [] ∧ sampleTurn s = none ∧
      nextQuad s = some (core, quad) ∧ selected s core quad = some (k, w, g) ∧ g.word = .word n ∧ ∃ e, decode n = .error e) ∧
    (∃ (s : State) (core : Nat), sampleTurn s = some core) ∧
    (∃ (s : State) (i : Instr) (l : List Choice), sampleTurn s = none ∧ s.agenda = .event i :: l ∧ encode i = none) ∧
    (∃ (s : State) (l : List Choice), sampleTurn s = none ∧ s.agenda = .tick :: l ∧ nextQuad s = none) :=
  ⟨⟨State.reset.withFetchWord 32 0x0BC00000, _, 0, 0, _, _, _, _, [], rfl, rfl, rfl, rfl, rfl, _, rfl⟩,
    ⟨sys, 0, 0, _, _, _, _, rfl, rfl, rfl, rfl, rfl, _, rfl⟩,
    ⟨{ sampling 0 with cycle := 256 }, 0, by decide⟩, ⟨{ sys with agenda := [.event .thermalRequest] }, _, [], rfl, rfl, rfl⟩,
    ⟨{ ended with agenda := [.tick] }, [], by decide, rfl, by decide⟩⟩

theorem witness_DecodingInvertsEncoding : ∃ (i : Instr) (n : Nat), i.wf = true ∧ encode i = some n :=
  ⟨.addN64 true 0x66#7 0x6F#7 0x7F#7, _, by decide, rfl⟩

theorem witness_StepsKeepMemoryCanonical : ∃ s t : State, MemoryOk s ∧ step s = .next t :=
  ⟨{ ended with agenda := [.tick] }, _, ⟨by decide, rfl⟩, rfl⟩

theorem noPhaseOver_sys : NoPhaseOver sys 0 := by
  rintro u hu e he - - t ht
  cases hu
  revert e t
  decide

theorem witness_SettledWavesAndSwitchMarkers :
    (∃ (s : State) (w : Wave), NoPhaseOver s w.unit ∧ (∀ t ∈ w.threads, (t.st = .ready ∨ t.st = .exited) ∧ t.marking = false) ∧ w.priv = none ∧ w.causes = [] ∧
      w.det = false) ∧
    (∃ (s : State) (w : Wave), NoPhaseOver s w.unit ∧ (∀ t ∈ w.threads, (t.st = .ready ∨ t.st = .exited) ∧ t.hold = .none) ∧ w.priv = none ∧ w.causes = [] ∧
      w.cmdErrs = [] ∧ w.det = false ∧ (∃ t ∈ w.threads, t.marking = true ∧ t.live = true) ∧ w.owes = true) ∧
    (∃ (s : State) (w : Wave), NoPhaseOver s w.unit ∧ (∀ t ∈ w.threads, (t.st = .ready ∨ t.st = .exited) ∧ t.hold = .none) ∧ w.priv = none ∧ w.causes = [] ∧
      w.cmdErrs = [] ∧ w.det = false ∧ (∃ t ∈ w.threads, t.marking = true ∧ t.live = true) ∧ w.owes = false) :=
  ⟨⟨sys, wv, noPhaseOver_sys, by decide, rfl, rfl, rfl⟩,
    ⟨sys, { wv.mapThreads (fun t => { t with marking := true }) with accs := [aLoad] }, noPhaseOver_sys, by decide, rfl, rfl, rfl, rfl, by decide, by decide⟩,
    ⟨sys, wv.mapThreads (fun t => { t with marking := true }), noPhaseOver_sys, by decide, rfl, rfl, rfl, rfl, by decide, by decide⟩⟩

/-- A wave whose first `n` threads have cohort 7 and stand at an `rcb`, the others at `other`. -/
def atRcbs (n : Nat) (other : W64) (w : Wave) : Wave :=
  { w with threads := w.threads.mapIdx (fun i t => if i < n then
      { t with cohort := 7, st := .atRcb, hold := .join none, pc := if i = 0 then 0x1000000#64 else other }
    else t) }

theorem witness_RcbReleasesOrMismatches :
    (∃ (s : State) (c : Nat) (w : Wave) (pc : W64), NoPhaseOver s w.unit ∧ w.priv = none ∧ w.causes = [] ∧ w.det = false ∧
      (∀ t ∈ w.threads, t.marking = false ∧ (t.live = true →
        if t.cohort = c then t.st = .atRcb ∧ t.hold = .join none ∧ t.pc = pc else t.st = .ready)) ∧
      (∃ t ∈ w.threads, t.live = true ∧ t.cohort = c) ∧ (∀ t ∈ w.threads, t.live = true → t.cohort = c)) ∧
    (∃ (s : State) (c : Nat) (w : Wave) (pc : W64), NoPhaseOver s w.unit ∧ w.priv = none ∧ w.causes = [] ∧ w.det = false ∧
      (∀ t ∈ w.threads, t.marking = false ∧ (t.live = true →
        if t.cohort = c then t.st = .atRcb ∧ t.hold = .join none ∧ t.pc = pc else t.st = .ready)) ∧
      (∃ t ∈ w.threads, t.live = true ∧ t.cohort = c) ∧ ¬(∀ t ∈ w.threads, t.live = true → t.cohort = c)) ∧
    (∃ (s : State) (k c : Nat) (w : Wave), mget s.waves k = some w ∧ NoPhaseOver s w.unit ∧ w.priv = none ∧ w.causes = [] ∧
      w.det = false ∧ w.owes = true ∧
      (∀ t ∈ w.threads, t.marking = false ∧ (t.live = true →
        if t.cohort = c then t.st = .atRcb ∧ t.hold = .join none else t.st = .ready)) ∧
      (∃ t ∈ w.threads, ∃ u ∈ w.threads, t.live = true ∧ u.live = true ∧ t.cohort = c ∧ u.cohort = c ∧ t.pc ≠ u.pc)) := by
  refine ⟨⟨sys, 7, atRcbs 8 0x1000000#64 wv, 0x1000000#64, noPhaseOver_sys, rfl, rfl, rfl, by decide, by decide, by decide⟩,
    ⟨sys, 7, atRcbs 3 0x1000000#64 wv, 0x1000000#64, noPhaseOver_sys, rfl, rfl, rfl, by decide, by decide, by decide⟩,
    ⟨onW (atRcbs 2 0x1000010#64) owing, 0, 7, theWave (onW (atRcbs 2 0x1000010#64) owing), rfl, ?_, rfl, rfl, rfl, by decide, by decide,
      by decide⟩⟩
  rintro u hu e he - - t ht
  cases hu
  revert e t
  decide

/-- The device with a software trap pending. -/
def trapping : State := onW (fun w => { w with causes := [⟨cSoftware, 0x1000004#64, 0#64, 0#32, 5, 0xFF#64⟩] }) sys

theorem witness_TrapEntrySavesTheWaveAndStartsTheHandler :
    ∃ (s : State) (k pa : Nat) (w : Wave) (x : Context) (c : Cause) (l : Launch), mget s.waves k = some w ∧ w.priv = none ∧
      w.frozen = false ∧ w.owes = false ∧ w.held = [] ∧ w.pre ≠ .saved ∧ w.threads.length ≤ 64 ∧ firstCause w.causes trapOrder = some c ∧
      mget s.contexts w.cid = some x ∧ sbPlace s w.cid (frameAddr x w) 8192 .write = .dev [pa] ∧
      mget s.launches w.launch = some l ∧ (∀ th ∈ w.threads, (th.st = .ready ∨ th.st = .exited) ∧ th.marking = false) ∧
      w.det = false ∧ w.parked = false ∧ NoPhaseOver s w.unit := by
  refine ⟨trapping, 0, 0x4000000, theWave trapping, _, _, _, rfl, rfl, rfl, rfl, rfl, by decide, by decide, rfl, rfl, rfl, rfl, by decide, rfl,
    rfl, ?_⟩
  rintro u hu e he - - t ht
  cases hu
  revert e t
  decide

/-- The device with every thread of a handler at its return. -/
def leaving : State :=
  onT (fun t => { t with st := .atRcb, hold := .leave 0 })
    (onW (fun w => { w with priv := w.priv.map (fun p => { p with kept := wv.threads }) }) priv)

theorem witness_HandlerReturnRestoresTheWave :
    ∃ (s : State) (k pa : Nat) (more : List Nat) (w : Wave) (p : Priv) (pc : W64), mget s.waves k = some w ∧ w.priv = some p ∧
      w.owes = false ∧ 1 ≤ p.cause.code ∧ p.cause.code ≤ 13 ∧ p.cause.code ≠ cMismatch ∧ p.kept.length = w.threads.length ∧
      (∀ t ∈ w.threads, t.live = true → t.st = .atRcb ∧ t.hold = .leave 0 ∧ t.pc = pc) ∧ (∃ t ∈ w.threads, t.live = true) ∧
      sbPlace s w.cid p.frame.toNat 8192 .read = .dev (pa :: more) ∧
      ∀ n t, p.kept[n]? = some t → (t.live = false ↔ bitsAt (frameNat s w.core pa (0x100 + 32 * n) 32) 40 4 = 5) := by
  refine ⟨leaving, 0, 0x4000000, [], theWave leaving, _, 0x1000000#64, rfl, rfl, rfl, by decide, by decide, by decide, rfl, by decide,
    by decide, rfl, ?_⟩
  intro n t h
  have hl : t.live = true := by
    have : ∀ t ∈ wv.threads, t.live = true := by decide
    exact this t (List.mem_of_getElem? h)
  have hn : n < 8 := by
    have := (List.getElem?_eq_some_iff.mp h).1
    exact this
  rw [hl]
  clear h hl
  revert n
  decide

theorem witness_ReadsAfterWrites : ∃ (s : State) (d a e : Nat), d < 4 ∧ unseenByte d a s.vis = none ∧ e < 4 ∧ e ≠ d :=
  ⟨sys, 3, 0, 0, by decide, by decide, by decide, by decide⟩

theorem witness_ShardOwnersFollowTheirFormula :
    ∃ (va va' : BitVec 56) (ns : Nat), 0 < ns ∧ va ≠ va' ∧ va'.extractLsb 55 15 = va.extractLsb 55 15 :=
  ⟨0#56, 0x7FFF#56, 1, by decide, by decide, by decide⟩

theorem witness_WavesThatIssueNothing :
    (∃ w : Wave, (∃ f ∈ w.sidings, f.num = 4) ∧ w.priv = none) ∧
    (∃ w : Wave, (∃ f ∈ w.sidings, f.num = 4) ∧ w.priv.isSome = true ∧ ∀ f ∈ w.sidings, f.num ≠ 4 → f.over = false) ∧ (∃ w : Wave, w.parked = true) ∧ (∃ w : Wave, w.frozen = true) ∧
      (∃ w : Wave, w.priv = none ∧ w.causes ≠ []) ∧ ∃ s : State, s.mgmt.fatal = true :=
  ⟨⟨{ wv with sidings := [⟨4, [], []⟩] }, ⟨_, List.mem_singleton_self _, rfl⟩, rfl⟩,
    ⟨{ theWave priv with sidings := [⟨4, [0], []⟩, ⟨0, [1], [⟨1, 0, false⟩]⟩] }, ⟨⟨4, [0], []⟩, by decide, rfl⟩, rfl, by decide⟩, ⟨{ wv with parked := true }, rfl⟩, ⟨{ wv with frozen := true }, rfl⟩,
    ⟨theWave trapping, rfl, by decide⟩, ⟨{ sys with mgmt := { sys.mgmt with fatal := true } }, rfl⟩⟩

/-- The device whose threads all arrive at barrier 1 for 9, not yet counted. -/
def arriving : State := onT (fun t => { t with st := .awaiting, hold := .arrive false 1 9 true }) sys

/-- The device at whose platform every thread has arrived. -/
def treeMet : State :=
  modL withPlatform 0 (fun l => { l with trees := [(0, ⟨0, (span 0 8).map (fun i => (i, 1)), 0, [0]⟩)] })

theorem witness_BarriersCompleteAndEndedWavesLeave :
    (∃ (s : State) (k n count : Nat) (w : Wave) (wait : Bool) (who : List Nat), mget s.waves k = some w ∧ w.unperformed = false ∧
      who = (w.numbered.filter (fun p => p.2.hold == .arrive false n count wait)).map (·.1) ∧ who ≠ [] ∧
      ∀ t ∈ w.threads, ∀ tr m c wt, t.hold = .arrive tr m c wt → tr = false ∧ m = n ∧ c = count ∧ wt = wait) ∧
    (∃ (count : Nat) (b : Bar), b.count = none ∧ count = 0) ∧ (∃ (count : Nat) (b : Bar), b.count = some count) ∧
    (∃ (s : State) (n plat unit tier : Nat) (l : Launch) (b : TreeBar), mget s.launches n = some l ∧ platTier l plat = some tier ∧
      mget l.trees (plat + 8 * unit) = some b ∧ treeFull s n l tier unit b = true ∧ scopeShown s n l tier b = true ∧
      s.cycle ≠ b.since) ∧
    (∃ (s : State) (k : Nat) (w : Wave), mget s.waves k = some w ∧ (∀ t ∈ w.threads, t.st = .exited) ∧ w.det = false ∧
      w.ldq = [] ∧ w.stq = [] ∧ w.enq = []) ∧
    (∃ (s : State) (k : Nat) (w : Wave), mget s.waves k = some w ∧ ∃ t ∈ w.threads, t.live = true) ∧
    (∃ (s : State) (k : Nat) (w : Wave), mget s.waves k = some w ∧ (w.ldq ≠ [] ∨ w.stq ≠ [] ∨ w.enq ≠ [])) := by
  refine ⟨⟨arriving, 0, 1, 9, theWave arriving, true, [0, 1, 2, 3, 4, 5, 6, 7], rfl, by decide, by decide, by decide, ?_⟩,
    ⟨0, ⟨0, none, 0, 0⟩, rfl, rfl⟩, ⟨9, ⟨0, some 9, 8, 0⟩, rfl⟩,
    ⟨{ treeMet with cycle := 1 }, 0, 0, 0, 3, _, _, rfl, rfl, rfl, by decide, by decide, by decide⟩,
    ⟨ended, 0, theWave ended, rfl, by decide, rfl, rfl, rfl, rfl⟩, ⟨sys, 0, wv, rfl, by decide⟩, ⟨owing, 0, theWave owing, rfl, .inl (by decide)⟩⟩
  intro t ht tr m c wt h
  have : ∀ t ∈ (theWave arriving).threads, t.hold = .arrive false 1 9 true := by decide
  rw [this t ht] at h
  cases h
  exact ⟨rfl, rfl, rfl, rfl⟩

/-- The wave waits at the head of its quadrant for `n` extended blocks. -/
def asking (n : Nat) : State :=
  modC (onT (fun t => { t with st := .waiting, hold := .xacq n }) (blocks 0)) 0 (fun c => { c with reqs := [(0, n)] })

/-- The wave waits to recharge for triple mode. -/
def recharging : State :=
  modC (onT (fun t => { t with st := .waiting, hold := .recharge true }) (blocks 0)) 0 (fun c => { c with reqs := [(0, 4)] })

/-- Two waves of the core that wait for blocks which nothing can supply. -/
def stuck (cycles : Nat) : State :=
  modC (onT (fun t => { t with st := .waiting, hold := .xacq 2 })
    (onW (fun w => { w with xblk := 1, grant := 96 }) sys)) 0 (fun c => { c with reqs := [(0, 2)], deadCycles := cycles })

theorem witness_RequestsPinsAndDeadlocks :
    (∃ (s : State) (core quad k n : Nat) (rest : List (Nat × Nat)) (w : Wave), quadReqs s core quad = (k, n) :: rest ∧ n ≠ 4 ∧
      mget s.waves k = some w ∧ w.det = false ∧ n ≤ w.xblk) ∧
    (∃ (s : State) (core quad k n : Nat) (rest : List (Nat × Nat)) (w : Wave), quadReqs s core quad = (k, n) :: rest ∧ n ≠ 4 ∧
      mget s.waves k = some w ∧ w.det = false ∧ w.xblk < n ∧ laneRegs w.grant w.triple (n - w.xblk) ≤ quadFree s core quad) ∧
    (∃ (s : State) (core quad k : Nat) (rest : List (Nat × Nat)) (w : Wave), quadReqs s core quad = (k, 4) :: rest ∧
      mget s.waves k = some w ∧ w.det = false ∧ w.priv = none ∧ 64 * w.grant * (w.xblk + 1) ≤ quadFree s core quad) ∧
    (∃ (s : State) (core : Nat), deadlocked s core = true ∧ (getC s core).deadCycles = 1024) ∧
    (∃ (s : State) (core : Nat), deadlocked s core = true ∧ (getC s core).deadCycles = 1023) ∧
    (∃ (s : State) (core : Nat), deadlocked s core = false) ∧
    (∃ (s : State) (k : Nat) (w : Wave) (who : List Nat), mget s.waves k = some w ∧
      who = (w.numbered.filter (fun p => p.2.stuck)).map (·.1) ∧ who ≠ []) ∧
    (∃ (s : State) (k o : Nat) (w : Wave) (who : List Nat), mget s.waves k = some w ∧
      who = (w.numbered.filter (fun p => p.2.hold == .vpin o)).map (·.1) ∧ who ≠ [] ∧ w.ldq = [] ∧
      ∀ t ∈ w.threads, ∀ o', t.hold = .vpin o' → o' = o) ∧
    (∃ (s : State) (k : Nat) (w : Wave) (who : List Nat), mget s.waves k = some w ∧
      who = (w.numbered.filter (fun p => p.2.hold == .vunpin)).map (·.1) ∧ who ≠ [] ∧ w.ldq = []) := by
  refine ⟨⟨asking 0, 0, 0, 0, 0, [], theWave (asking 0), by decide, by decide, rfl, rfl, by decide⟩,
    ⟨asking 1, 0, 0, 0, 1, [], theWave (asking 1), by decide, by decide, rfl, rfl, by decide, by decide⟩,
    ⟨recharging, 0, 0, 0, [], theWave recharging, by decide, rfl, rfl, rfl, by decide⟩,
    ⟨stuck 1024, 0, by decide, rfl⟩, ⟨stuck 1023, 0, by decide, rfl⟩, ⟨sys, 0, by decide⟩,
    ⟨asking 2, 0, theWave (asking 2), [0, 1, 2, 3, 4, 5, 6, 7], rfl, by decide, by decide⟩,
    ⟨onT (fun t => { t with hold := .vpin 1 }) sys, 0, 1, wv.mapThreads (fun t => { t with hold := .vpin 1 }), [0, 1, 2, 3, 4, 5, 6, 7],
      rfl, by decide, by decide, rfl, ?_⟩,
    ⟨onT (fun t => { t with hold := .vunpin }) sys, 0, wv.mapThreads (fun t => { t with hold := .vunpin }), [0, 1, 2, 3, 4, 5, 6, 7],
      rfl, by decide, by decide, rfl⟩⟩
  intro t ht o' h
  have : ∀ t ∈ (wv.mapThreads (fun t => { t with hold := .vpin 1 })).threads, t.hold = .vpin 1 := by decide
  rw [this t ht] at h
  cases h
  rfl

/-- The device whose wave saves itself, with a save limit of one unit. -/
def saving : State :=
  modX (onW (fun w => { w with
    pre := .handler, priv := w.priv.map (fun p => { p with cause := ⟨cPreempt, 0#64, 0#64, 0#32, 0, 0xFF#64⟩ }) }) priv) 1
    (fun x => { x with savelim := 1 })

theorem witness_LimitsSamplesAndFetches :
    (∃ (s : State) (k : Nat) (w : Wave) (p : Priv) (x : Context), mget s.waves k = some w ∧ w.priv = some p ∧
      mget s.contexts w.cid = some x ∧ p.cause.code = cPreempt ∧ w.pre ≠ .saved ∧ x.savelim ≠ 0 ∧
      1024 * x.savelim < s.cycle - p.since) ∧
    (∃ (s : State) (k : Nat) (w : Wave) (p : Priv) (x : Context), mget s.waves k = some w ∧ w.priv = some p ∧
      mget s.contexts w.cid = some x ∧ p.cause.code = cPreempt ∧ w.pre ≠ .saved ∧ x.savelim ≠ 0 ∧
      s.cycle - p.since = 1024 * x.savelim) ∧
    (∃ (s : State) (core : Nat) (m : Sampler), (getC s core).sampler = some m ∧ m.start + (m.k + 1) * m.period = s.cycle) ∧
    (∃ (s : State) (core : Nat) (m : Sampler), (getC s core).sampler = some m ∧ s.cycle < m.start + (m.k + 1) * m.period) ∧
    (∃ (tid : Nat) (w : Wave) (t : Thread), w.scan.find? (fun p => p.2.live) = some (tid, t)) ∧
    (∃ w : Wave, ∀ t ∈ w.threads, t.live = false) ∧
    (∃ (s : State) (core v : Nat) (m : Sampler), (getC s core).sampler = some m ∧ m.pending = [v] ∧ m.nwr + 1 = m.cap) ∧
    (∃ (s : State) (core v : Nat) (m : Sampler), (getC s core).sampler = some m ∧ m.pending = [v] ∧ m.nwr = m.cap) ∧
    (∃ (s : State) (k tid : Nat) (w : Wave) (t : Thread) (n : Nat), mget s.waves k = some w ∧ w.thread tid = some t ∧ t.st = .ready ∧
      w.stopped = false ∧ fetch s w t.pc = .word n) ∧
    (∃ (s : State) (k tid : Nat) (w : Wave) (t : Thread), mget s.waves k = some w ∧ w.thread tid = some t ∧ t.st = .ready ∧
      w.stopped = false ∧ fetch s w t.pc = .trap ∧ w.priv = none ∧ t.pc.toNat = 2 ^ 56) ∧
    (∃ (s : State) (k tid : Nat) (w : Wave) (t : Thread) (r : Nat), mget s.waves k = some w ∧ w.thread tid = some t ∧ t.st = .ready ∧
      w.stopped = false ∧ fetch s w t.pc = .fault r ∧ w.priv = none) ∧
    (∃ (s : State) (k tid : Nat) (w : Wave) (t : Thread) (pa : Nat), mget s.waves k = some w ∧ w.thread tid = some t ∧ t.st = .ready ∧
      w.stopped = false ∧ fetch s w t.pc = .viol pa) ∧
    (∃ (s : State) (k tid : Nat) (w : Wave) (t : Thread), mget s.waves k = some w ∧ w.thread tid = some t ∧ t.st = .ready ∧
      w.stopped = false ∧ fetch s w t.pc = .away) ∧
    (∃ pc : W64, pc.toNat % 4 = 2) ∧ (∃ pc : W64, pc.toNat = 2 ^ 56) := by
  refine ⟨⟨{ saving with cycle := 1025 }, 0, theWave saving, _, _, rfl, rfl, rfl, rfl, by decide, by decide, by decide⟩,
    ⟨{ saving with cycle := 1024 }, 0, theWave saving, _, _, rfl, rfl, rfl, rfl, by decide, by decide, by decide⟩,
    ⟨{ sampling 0 with cycle := 256 }, 0, _, rfl, rfl⟩, ⟨{ sampling 0 with cycle := 255 }, 0, _, rfl, by decide⟩,
    ⟨_, wv, _, rfl⟩, ⟨theWave ended, by decide⟩, ⟨sampling 3, 0, _, _, rfl, rfl, rfl⟩, ⟨sampling 4, 0, _, _, rfl, rfl, rfl⟩,
    ⟨sys, 0, 0, wv, _, _, rfl, rfl, rfl, rfl, rfl⟩,
    ⟨onT (fun t => { t with pc := 0x100000000000000#64 }) sys, 0, 0, theWave (onT (fun t => { t with pc := 0x100000000000000#64 }) sys), _,
      rfl, rfl, rfl, rfl, rfl, rfl, rfl⟩,
    ⟨onT (fun t => { t with pc := 0x40000000#64 }) sys, 0, 0, theWave (onT (fun t => { t with pc := 0x40000000#64 }) sys), _, _,
      rfl, rfl, rfl, rfl, rfl, rfl⟩,
    ⟨{ sys with parts := [] }, 0, 0, wv, _, _, rfl, rfl, rfl, rfl, rfl⟩,
    ⟨farCode, 0, 0, theWave farCode, _, rfl, rfl, rfl, rfl, by decide +kernel⟩,
    ⟨2#64, rfl⟩, ⟨0x100000000000000#64, rfl⟩⟩

/-- An access of the wave with operation `op` and destination `dest`, thread 0's at `0x2000000`. -/
def acc (op : AOp) (dest : Option (Nat × Bool)) (word : Nat) (data : List Nat) (performed : Bool) : Access :=
  { aLoad with op := op, dest := dest, lanes := [⟨0, 0x2000000, .single 0x2000000, data⟩], word := word, performed := performed }

/-- The device with that access on its way. -/
def withAcc (a : Access) : State := onW (fun w => { w with accs := [a], ldq := [(9, false)], stq := [(9, false)] }) sys

/-- A load of threads 0 and 1 from the same bytes. -/
def twoLanes : Access := { aLoad with lanes := [⟨0, 0x2000000, .single 0x2000000, []⟩, ⟨1, 0x2000000, .single 0x2000000, []⟩] }

theorem witness_ResultsArrive :
    (∃ (s : State) (k id fl : Nat) (w : Wave) (a : Access) (p : Spec) (wide : Bool), id < 2 ^ 64 ∧ mget s.waves k = some w ∧ w.acc id = some a ∧
      a.op = .result fl ∧ a.performed = true ∧ a.dest = some (4 * p.toNat, wide) ∧ p.toNat < 0x68 ∧
      (wide = true → p.toNat + 1 < 0x68) ∧ w.ilk = false ∧ w.priv = none ∧ (∀ t ∈ w.threads, t.clobbered = []) ∧
      (a.lanes.map (·.tid)).Nodup ∧ (∀ l ∈ a.lanes, l.data.length ≤ 3) ∧ p.toNat = 0x66 ∧ wide = true) ∧
    (∃ (s : State) (k id fl j v : Nat) (w : Wave) (a : Access) (l : Lane) (more : List Nat), id < 2 ^ 64 ∧ mget s.waves k = some w ∧
      w.acc id = some a ∧ a.op = .result fl ∧ a.performed = true ∧ a.dest = some (1024 + j, true) ∧ a.lanes = [l] ∧
      l.data = v :: more ∧ w.ilk = false ∧ w.priv = none ∧ ∀ t ∈ w.threads, t.clobbered = []) ∧
    (∃ (s : State) (k id ty j pa : Nat) (w : Wave) (a : Access) (l : Lane), id < 2 ^ 64 ∧ mget s.waves k = some w ∧ w.acc id = some a ∧
      a.op = .load ty ∧ a.dest = some (1024 + j, true) ∧ a.lanes = [l] ∧ l.place = .single pa ∧ a.common = true ∧
      mayPerform w a = true ∧ badReads s a = [] ∧ w.ilk = false ∧ w.priv = none ∧ ∀ t ∈ w.threads, t.clobbered = []) ∧
    (∃ (s : State) (k id : Nat) (w : Wave) (a : Access) (ty : Nat), id < 2 ^ 64 ∧ mget s.waves k = some w ∧ w.acc id = some a ∧
      a.op = .load ty ∧ mayPerform w a = false) ∧
    (∃ (s : State) (k id tid ty pa : Nat) (w : Wave) (a : Access), id < 2 ^ 64 ∧ mget s.waves k = some w ∧ w.acc id = some a ∧
      a.op = .load ty ∧ mayPerform w a = true ∧ (∀ x ∈ w.accs, x.id = id → x = a) ∧ (∃ l ∈ a.lanes, l.tid = tid) ∧
      ∀ l ∈ a.lanes, l.tid = tid → l.place = .single pa ∧ badGranule s (.single pa) (accSize a) l.va = none ∧
        ∀ x ∈ a.lanes, x.tid < tid → overlap (footprint s x.place (accSize a) x.va) (footprint s l.place (accSize a) l.va) = false) ∧
    (∃ (s : State) (k id tid ty pa : Nat) (w : Wave) (a : Access), id < 2 ^ 64 ∧ mget s.waves k = some w ∧ w.acc id = some a ∧
      a.op = .load ty ∧ mayPerform w a = true ∧ (∀ x ∈ w.accs, x.id = id → x = a) ∧ (∃ l ∈ a.lanes, l.tid = tid) ∧
      ∀ l ∈ a.lanes, l.tid = tid → ∃ x ∈ a.lanes, x.tid < tid ∧ x.place = .single pa ∧
        overlap (footprint s x.place (accSize a) x.va) (footprint s l.place (accSize a) l.va) = true) :=
  ⟨⟨withAcc (acc (.result 1) (some (4 * 0x66, true)) 0 [5] true), 0, 9, 1, theWave (withAcc (acc (.result 1) (some (4 * 0x66, true)) 0 [5] true)),
      _, 0x66#7, true, by decide, rfl, rfl, rfl, rfl, rfl, by decide, by decide, rfl, rfl, by decide, by decide, by decide, rfl, rfl⟩,
    ⟨withAcc (acc (.result 0) (some (1027, true)) 0 [5] true), 0, 9, 0, 3, 5, theWave (withAcc (acc (.result 0) (some (1027, true)) 0 [5] true)),
      _, _, [], by decide, rfl, rfl, rfl, rfl, rfl, rfl, rfl, rfl, rfl, by decide⟩,
    ⟨withAcc (acc (.load 8) (some (1027, true)) 0x06000000 [] false), 0, 9, 8, 3, 0x2000000,
      theWave (withAcc (acc (.load 8) (some (1027, true)) 0x06000000 [] false)), _, _, by decide, rfl, rfl, rfl, rfl, rfl, rfl, by decide, by decide,
      by decide, rfl, rfl, by decide⟩,
    ⟨withAcc (acc (.load 4) (some (8, false)) 0 [] true), 0, 9, theWave (withAcc (acc (.load 4) (some (8, false)) 0 [] true)), _, 4, by decide,
      rfl, rfl, rfl, by decide⟩,
    ⟨withAcc (acc (.load 4) (some (8, false)) 0 [] false), 0, 9, 0, 4, 0x2000000, theWave (withAcc (acc (.load 4) (some (8, false)) 0 [] false)),
      aLoad, by decide, rfl, rfl, rfl, by decide, by decide, by decide, by decide⟩,
    ⟨withAcc twoLanes, 0, 9, 1, 4, 0x2000000, theWave (withAcc twoLanes), twoLanes, by decide, rfl, rfl, rfl, by decide, by decide, by decide,
      by decide⟩⟩

/-- A write of die 1 that die 0 has not seen, and one of die 1 after it. -/
def shown : State :=
  { sys with vis := [⟨4, [(0x2000000, 0#8)], 1, [0, 1, 0, 0], []⟩, ⟨5, [(0x2000000, 0#8)], 1, [0, 2, 0, 0], []⟩] }

theorem witness_WritesArePerformedAndMadeVisible :
    (∃ (s : State) (k id ty pa : Nat) (w : Wave) (a : Access) (l : Lane), mget s.waves k = some w ∧ w.acc id = some a ∧
      a.op = .store ty ∧ a.lanes = [l] ∧ l.place = .single pa ∧ mayPerform w a = true ∧ writeReady s w a = true ∧ badWrites s a = []) ∧
    (∃ (s : State) (k id f pa : Nat) (w : Wave) (a : Access) (l : Lane), mget s.waves k = some w ∧ w.acc id = some a ∧
      a.op = .atomic f true ∧ a.lanes = [l] ∧ l.place = .single pa ∧ mayPerform w a = true ∧ writeReady s w a = true ∧
      badReads s a = []) ∧
    (∃ (s : State) (k id : Nat) (w : Wave) (a : Access), mget s.waves k = some w ∧ w.acc id = some a ∧ mayPerform w a = false) ∧
    (∃ (s : State) (k id : Nat) (w : Wave) (a : Access), mget s.waves k = some w ∧ w.acc id = some a ∧ writeReady s w a = false) ∧
    (∃ (s : State) (d id : Nat) (v : VWrite), s.vis.find? (fun x => x.id == id) = some v ∧ d < 4 ∧ d ∉ v.seen ∧ mayShow s d v = true ∧
      ∀ x ∈ s.vis, x.id = id → x = v) ∧
    (∃ (s : State) (d id : Nat) (v : VWrite), s.vis.find? (fun x => x.id == id) = some v ∧ mayShow s d v = false) :=
  ⟨⟨withAcc (acc (.store 4) none 0 [5] false), 0, 9, 4, 0x2000000, theWave (withAcc (acc (.store 4) none 0 [5] false)), _, _, rfl, rfl, rfl,
      rfl, rfl, by decide, by decide, by decide⟩,
    ⟨withAcc (acc (.atomic 0 true) (some (8, false)) 0 [5] false), 0, 9, 0, 0x2000000,
      theWave (withAcc (acc (.atomic 0 true) (some (8, false)) 0 [5] false)), _, _, rfl, rfl, rfl, rfl, rfl, by decide, by decide, by decide⟩,
    ⟨withAcc (acc (.store 4) none 0 [5] true), 0, 9, theWave (withAcc (acc (.store 4) none 0 [5] true)), _, rfl, rfl, by decide⟩,
    ⟨{ withAcc (acc (.store 4) none 0 [5] false) with vis := shown.vis }, 0, 9, theWave (withAcc (acc (.store 4) none 0 [5] false)), _, rfl, rfl,
      by decide⟩,
    ⟨shown, 0, 4, _, rfl, by decide, by decide, by decide, by decide⟩, ⟨shown, 0, 5, _, rfl, by decide⟩⟩

end Sys2Proof.Tests
end

