-- ==== Sys2Proof/Tests/WitnessesHost.lean ====
section
/-! SUPPORT. Witnesses for the obligations about the host interface, resets and power: requests that stand at the head of a
queue, and states of functions, links and registers at the boundaries of each clause. -/

namespace Sys2Proof.Tests

open Sys2Proof.Machine Sys2Proof.Terms

/-- An entry (15 R438) with payload address, argument, CID and code. -/
def entry (pay arg cid opc : Nat) : Nat := pay * 2 ^ 448 + arg * 2 ^ 384 + 0x6000000 * 2 ^ 320 + 7 * 2 ^ 288 + cid * 2 ^ 272 + opc * 2 ^ 264

/-- Bytes put into device memory. -/
def poke (a n v : Nat) (s : State) : State := { s with mem := putBytes s.mem a (bytesOf n v) }

/-- A queue of 16 entries with entry `v` at its head. -/
def ask (fn v : Nat) (s : State) : State :=
  poke 0x5000000 64 v { s with funcs := mset s.funcs fn { Func.init with queues := [⟨0x5000000, 0, 1, 4, false, none, []⟩] } }

/-- That queue with the request under way. -/
def began (fn v : Nat) (s : State) : State :=
  { s with funcs := mset s.funcs fn { Func.init with queues := [⟨0x5000000, 0, 1, 4, false, some v, []⟩] } }

/-- Whether an entry stands at the head of queue 0, as far as it computes. -/
def atHead (s : State) (fn v : Nat) : Bool :=
  (match mget s.funcs fn with
   | some f => match f.queues[0]? with
     | some q => fnAnswers s f && decide (4 ≤ q.qlog ∧ q.qlog ≤ 12) && !q.qerr && decide (q.head ≠ q.tail) && q.cur.isNone &&
         fnReach s fn (q.qbase + 64 * q.head) 64 && ((sysRead s (q.qbase + 64 * q.head) 64).map ofBytes) == some v
     | none => false
   | none => false)

theorem arrived_of {s : State} {fn v : Nat} (h : atHead s fn v = true) : ∃ f q, Arrived s fn 0 v f q := by
  unfold atHead at h
  split at h
  · split at h
    · rename_i f hf _ q hq
      simp only [Bool.and_eq_true, decide_eq_true_eq, Bool.not_eq_true', Option.isNone_iff_eq_none, beq_iff_eq, Option.map_eq_some_iff] at h
      obtain ⟨⟨⟨⟨⟨⟨h1, h2⟩, h3⟩, h4⟩, h5⟩, h6⟩, bs, h7, h8⟩ := h
      exact ⟨f, q, hf, hq, h1, h2, h3, h4, h5, h6, bs, h7, h8.symm⟩
    · exact absurd h (by decide +kernel)
  · exact absurd h (by decide +kernel)

theorem asks_of {s : State} {fn v opc : Nat} (h : (atHead s fn v && (reqOf fn 0 v).opc == opc && (reqOf fn 0 v).rsv == 0) = true) :
    Asks s fn 0 v opc := by
  simp only [Bool.and_eq_true, beq_iff_eq] at h
  exact ⟨arrived_of h.1.1, h.1.2, h.2⟩

/-- A request of each code that asks nothing of its payload. -/
def asks (fn cid opc : Nat) : State := ask fn (entry 0 0 cid opc) sys

theorem witness_RequestsAreAnsweredInOrder :
    (∃ (i : Instr) (s : State) (fn queue v : Nat) (k : Kind) (f : Func) (q : Queue), requestForm i = some (fn, queue, k) ∧
      ¬waitsForTest s i ∧ Arrived s fn queue v f q ∧ ((reqOf fn queue v).rsv ≠ 0 ∨ requestCodes.contains (reqOf fn queue v).opc = false) ∧
      (k.mine (reqOf fn queue v) = true ∨ requestCodes.contains (reqOf fn queue v).opc = false)) ∧
    (∃ (i : Instr) (s : State) (fn queue v : Nat) (k : Kind) (f : Func) (q : Queue), requestForm i = some (fn, queue, k) ∧
      ¬waitsForTest s i ∧ Arrived s fn queue v f q ∧ (reqOf fn queue v).rsv ≠ 0 ∧ k.mine (reqOf fn queue v) = true) ∧
    (∃ (i : Instr) (s : State) (fn queue v : Nat) (k : Kind) (f : Func) (q : Queue), requestForm i = some (fn, queue, k) ∧
      ¬waitsForTest s i ∧ Arrived s fn queue v f q ∧ requestCodes.contains (reqOf fn queue v).opc = true ∧
      k.mine (reqOf fn queue v) = false) ∧
    (∃ (i : Instr) (s : State) (fn queue v n : Nat) (k : Kind) (f : Func) (q : Queue), requestForm i = some (fn, queue, k) ∧
      ¬waitsForTest s i ∧ Arrived s fn queue v f q ∧ k.mine (reqOf fn queue v) = true ∧ (reqOf fn queue v).rsv = 0 ∧
      requestCodes.contains (reqOf fn queue v).opc = true ∧ k.load s (reqOf fn queue v) = .ok n ∧ fn ≠ 0 ∧ k.pf0 = true) ∧
    (∃ (i : Instr) (s : State) (fn queue v n : Nat) (k : Kind) (f : Func) (q : Queue), requestForm i = some (fn, queue, k) ∧
      ¬waitsForTest s i ∧ Arrived s fn queue v f q ∧ k.mine (reqOf fn queue v) = true ∧ (reqOf fn queue v).rsv = 0 ∧
      requestCodes.contains (reqOf fn queue v).opc = true ∧ k.load s (reqOf fn queue v) = .ok n ∧ fn ≠ 0 ∧ k.pf0 = false ∧
      ∃ c ∈ k.names (reqOf fn queue v) n, mayName s (reqOf fn queue v) c = false) ∧
    (∃ (i : Instr) (s : State) (fn queue : Nat) (k : Kind) (f : Func) (q : Queue), requestForm i = some (fn, queue, k) ∧
      mget s.funcs fn = some f ∧ f.queues[queue]? = some q ∧ q.qlog < 4) ∧
    (∃ (s t : State) (fn queue v : Nat) (f g : Func) (q : Queue), Arrived s fn queue v f q ∧ mget t.funcs fn = some g ∧
      g.queues = f.queues ∧ fnReach t fn (bitsAt v 320 64) 8 = true) ∧
    (∃ s : State, s.selfTest.isSome = true) := by
  obtain ⟨f1, q1, h1⟩ := arrived_of (s := asks 1 1 0x0C) (fn := 1) (v := entry 0 0 1 0x0C) (by decide +kernel)
  obtain ⟨f2, q2, h2⟩ := arrived_of (s := ask 1 (entry 0 0 1 0x08 + 1) sys) (fn := 1) (v := entry 0 0 1 0x08 + 1) (by decide +kernel)
  obtain ⟨f3, q3, h3⟩ := arrived_of (s := asks 1 1 0x08) (fn := 1) (v := entry 0 0 1 0x08) (by decide +kernel)
  obtain ⟨f4, q4, h4⟩ := arrived_of (s := ask 1 (entry 0 600 0 0x14) sys) (fn := 1) (v := entry 0 600 0 0x14) (by decide +kernel)
  obtain ⟨f5, q5, h5⟩ := arrived_of (s := ask 1 (entry 0 0 1 0x08) (modX sys 1 (fun c => { c with part := 3 }))) (fn := 1)
    (v := entry 0 0 1 0x08) (by decide +kernel)
  refine ⟨⟨.codeSwap 1 0, _, 1, 0, _, _, f1, q1, rfl, id, h1, by decide +kernel, by decide +kernel⟩,
    ⟨.decayTableReload 1 0, _, 1, 0, _, _, f2, q2, rfl, id, h2, by decide +kernel, by decide +kernel⟩,
    ⟨.codeSwap 1 0, _, 1, 0, _, _, f3, q3, rfl, id, h3, by decide +kernel, by decide +kernel⟩,
    ⟨.powerLimit 1 0, _, 1, 0, _, 0, _, f4, q4, rfl, id, h4, by decide +kernel, by decide +kernel, by decide +kernel, by decide +kernel, by decide +kernel, rfl⟩,
    ⟨.decayTableReload 1 0, _, 1, 0, _, 0, _, f5, q5, rfl, id, h5, by decide +kernel, by decide +kernel, by decide +kernel, rfl, by decide +kernel, rfl, 1, by decide +kernel, by decide +kernel⟩,
    ⟨.launch 1 0, sys, 1, 0, _, Func.init, Queue.init, rfl, rfl, rfl, by decide +kernel⟩,
    ⟨_, _, 1, 0, _, f3, f3, q3, h3, h3.func, rfl, by decide +kernel⟩, ⟨{ sys with selfTest := some ⟨[], 0, 0⟩ }, rfl⟩⟩

/-- Whether a request is under way in queue 0. -/
def atWork (s : State) (fn v : Nat) : Bool :=
  match mget s.funcs fn with
  | some f => match f.queues[0]? with
    | some q => fnAnswers s f && decide (4 ≤ q.qlog) && decide (q.qlog ≤ 12) && !q.qerr && decide (q.head ≠ q.tail) && q.cur == some v
    | none => false
  | none => false

theorem underWay_of {s : State} {fn v opc : Nat} (h : (atWork s fn v && (reqOf fn 0 v).opc == opc) = true) : UnderWay s fn 0 v opc := by
  simp only [Bool.and_eq_true, beq_iff_eq] at h
  obtain ⟨h, ho⟩ := h
  unfold atWork at h
  split at h
  · split at h
    · rename_i f hf _ q hq
      simp only [Bool.and_eq_true, decide_eq_true_eq, Bool.not_eq_true', beq_iff_eq] at h
      obtain ⟨⟨⟨⟨⟨h1, h2⟩, h3⟩, h4⟩, h5⟩, h6⟩ := h
      exact ⟨⟨f, q, hf, hq, h1, h2, h3, h4, h5, h6⟩, ho⟩
    · exact absurd h (by decide)
  · exact absurd h (by decide)

/-- A launch record (13 R388) of one unit of 64 threads, with a given version. -/
def recordV (version : Nat) : Nat :=
  2 ^ 752 + 2 ^ 544 + 64 * 2 ^ 512 + 0x260000 * 2 ^ 448 + 2 ^ 352 + 0x321000 * 2 ^ 320 + 0x10000000 * 2 ^ 256 + 0x1000000 * 2 ^ 64 +
    4 * 2 ^ 40 + 8 * 2 ^ 32 + 3 * 2 ^ 26 + version

/-- A launch request whose record has a given version. -/
def launching (version : Nat) : State := ask 1 (entry 0x250000 0 1 0x01) (poke 0x250000 128 (recordV version) sys)

/-- A context descriptor (12 R365) for CID 2 of partition 0. -/
def descriptor : Nat := 0x20000 * 2 ^ 960 + 0x1000000 * 2 ^ 896 + 2 * 2 ^ 496 + 4 * 2 ^ 492

/-- A request to create that context. -/
def creating : State := ask 1 (entry 0x252000 0 2 0x02) (poke 0x252000 128 descriptor sys)

theorem witness_LaunchAndContextRequests :
    (∀ version, version = 1 ∨ version = 2 → ∃ (s : State) (fn queue v : Nat) (c : Context) (bs : List Byte),
      Asks s fn queue v 0x01 ∧ mayName s (reqOf fn queue v) (reqOf fn queue v).cid = true ∧
      liveContext s (reqOf fn queue v).cid = some c ∧ (reqOf fn queue v).pay % 128 = 0 ∧ (reqOf fn queue v).arg = 0 ∧
      sbRead s (reqOf fn queue v).cid (reqOf fn queue v).pay 128 = some bs ∧ bitsAt (ofBytes bs) 448 64 % 32 = 0 ∧
      (launchError s (launchOf s (reqOf fn queue v) c.part (ofBytes bs)) = 0 ↔ version = 1)) ∧
    (∃ (s : State) (fn queue v : Nat) (bs : List Byte), Asks s fn queue v 0x02 ∧ (reqOf fn queue v).pay % 128 = 0 ∧
      fnReach s fn (reqOf fn queue v).pay 128 = true ∧ sysRead s (reqOf fn queue v).pay 128 = some bs ∧
      descrOk (ofBytes bs / 2 ^ 488 * 2 ^ 488) = true ∧ mayName s (reqOf fn queue v) (reqOf fn queue v).cid = true ∧
      mayName s (reqOf fn queue v) (descrCid (ofBytes bs)) = true ∧ descrPart (ofBytes bs) = fn - 1) ∧
    (∃ (s : State) (fn queue v : Nat), Asks s fn queue v 0x03 ∧ mayName s (reqOf fn queue v) (reqOf fn queue v).cid = true ∧
      (mget s.contexts (reqOf fn queue v).cid).isSome = true) ∧
    (∃ (s : State) (fn queue v : Nat), Asks s fn queue v 0x03 ∧ mget s.contexts (reqOf fn queue v).cid = none) ∧
    (∃ (s : State) (fn queue v : Nat), UnderWay s fn queue v 0x03) ∧
    (∃ (s : State) (fn queue v : Nat), Asks s fn queue v 0x04 ∧ bitsAt (reqOf fn queue v).arg 48 12 = 0 ∧
      (reqOf fn queue v).arg / 2 ^ 60 < 4 ∧ mayName s (reqOf fn queue v) (reqOf fn queue v).cid = true) ∧
    (∃ (s : State) (fn queue v : Nat), UnderWay s fn queue v 0x04) := by
  refine ⟨?_, ⟨creating, 1, 0, _, bytesOf 128 descriptor, asks_of (v := entry 0x252000 0 2 0x02) (by decide +kernel), by decide +kernel,
      by decide +kernel, by decide +kernel,
      by decide +kernel, by decide +kernel, by decide +kernel, by decide +kernel⟩,
    ⟨asks 1 1 3, 1, 0, _, asks_of (v := entry 0 0 1 3) (by decide +kernel), by decide +kernel, by decide +kernel⟩,
    ⟨asks 1 9 3, 1, 0, _, asks_of (v := entry 0 0 9 3) (by decide +kernel), by decide +kernel⟩,
    ⟨began 1 (entry 0 0 1 3) sys, 1, 0, _, underWay_of (v := entry 0 0 1 3) (by decide +kernel)⟩,
    ⟨ask 1 (entry 0 (3 * 2 ^ 60 + 1) 1 4) sys, 1, 0, _, asks_of (v := entry 0 (3 * 2 ^ 60 + 1) 1 4) (by decide +kernel), by decide +kernel,
      by decide +kernel, by decide +kernel⟩,
    ⟨began 1 (entry 0 1 1 4) sys, 1, 0, _, underWay_of (v := entry 0 1 1 4) (by decide +kernel)⟩⟩
  rintro version (rfl | rfl)
  · exact ⟨launching 1, 1, 0, _, loadedContext, bytesOf 128 (recordV 1), asks_of (v := entry 0x250000 0 1 0x01) (by decide +kernel),
      by decide +kernel, by decide +kernel, by decide +kernel, by decide +kernel, by decide +kernel, by decide +kernel, by decide +kernel⟩
  · exact ⟨launching 2, 1, 0, _, loadedContext, bytesOf 128 (recordV 2), asks_of (v := entry 0x250000 0 1 0x01) (by decide +kernel),
      by decide +kernel, by decide +kernel, by decide +kernel, by decide +kernel, by decide +kernel, by decide +kernel, by decide +kernel⟩

/-- A request with a payload of `n` bytes at `0x251000`. -/
def asking2 (fn n p arg cid opc : Nat) (s : State) : State := ask fn (entry 0x251000 arg cid opc) (poke 0x251000 n p s)

/-- A partition whose record 0 has state `st`, two pages faulted and a replay mask. -/
def claimed (st replay : Nat) (s : State) : State :=
  poke 0x280000 64 (3 * 2 ^ 448 + replay * 2 ^ 192 + 2 ^ 112 + st)
    { s with parts := s.parts.map (fun e => (e.1, { e.2 with seqNext := 1, recs := [(0, 1, 0)] })) }

/-- A versioned range of context 1. -/
def aRange5 : VRange := rangeOf (0x9000000 * 2 ^ 320 + 0x8000000 * 2 ^ 256 + 2 * 2 ^ 231 + 2 ^ 208) 1

/-- The device with a load through a leaf of range 5 on its way. -/
def inRange5 : State :=
  onW (fun w => { w with accs := [⟨9, .load 4, [⟨0, 0x40000000, .versioned 5 0 0 none, []⟩], some (8, false), 0x1000000#64, 0, [], false, true,
    [], none, [], 9⟩] }) sys

theorem witness_MemoryRequests :
    (∃ (s : State) (fn queue v p : Nat), Asks s fn queue v 0x05 ∧ readPay s (reqOf fn queue v) (reqOf fn queue v).pay 32 1 = .ok p ∧
      invalOk p = true ∧ mayName s (reqOf fn queue v) (bitsAt p 80 16) = true) ∧
    (∀ n, n < 3 → ∃ (s : State) (fn queue v w w' : Nat) (p : Partition), Asks s fn queue v 0x06 ∧
      mayName s (reqOf fn queue v) (reqOf fn queue v).cid = true ∧ mget s.parts (reqPart s (reqOf fn queue v)) = some p ∧
      w = readRec s p (reqOf fn queue v).arg ∧
      w' = (let x := resolveOf (reqOf fn queue v).arg w
            let mask (l : List Nat) : Nat := l.foldl (fun n a => n ||| 2 ^ (a / 32768 % 64)) 0
            orField (orField w 256 64 (mask x.cancel)) 256 64 (mask x.replay)) ∧
      (n = 0 → recState w ≠ 2) ∧
      (n ≠ 0 → (reqOf fn queue v).arg < p.seqNext ∧ recState w = 2 ∧ bitsAt w 320 64 = (reqOf fn queue v).arg ∧
        (n = 1 ↔ bitsAt w' 256 64 ≠ bitsAt w' 448 64))) ∧
    (∃ (s : State) (fn queue v p : Nat) (c : Context), Asks s fn queue v 0x07 ∧
      readPay s (reqOf fn queue v) (reqOf fn queue v).pay (8 * (reqOf fn queue v).arg) 1 = .ok p ∧ words64 (reqOf fn queue v).arg p ≠ [] ∧
      (∀ a ∈ words64 (reqOf fn queue v).arg p, a % 32768 = 0 ∧ a < 2 ^ 56) ∧
      mayName s (reqOf fn queue v) (reqOf fn queue v).cid = true ∧ liveContext s (reqOf fn queue v).cid = some c) ∧
    (∃ (s : State) (fn queue v : Nat), Asks s fn queue v 0x08 ∧ mayName s (reqOf fn queue v) (reqOf fn queue v).cid = true) ∧
    (∃ (s : State) (fn queue v p : Nat), Asks s fn queue v 0x09 ∧ Machine.tst (reqOf fn queue v).arg 63 = false ∧
      readPay s (reqOf fn queue v) (reqOf fn queue v).pay 64 1 = .ok p ∧ mayName s (reqOf fn queue v) (bitsAt p 208 16) = true ∧
      rangeOk s (reqOf fn queue v).arg p (rangeOf p 1) = true) ∧
    (∃ (s : State) (fn queue v : Nat) (x : VRange), Asks s fn queue v 0x09 ∧ Machine.tst (reqOf fn queue v).arg 63 = true ∧
      bitsAt (reqOf fn queue v).arg 10 53 = 0 ∧ mget s.ranges ((reqOf fn queue v).arg % 2 ^ 10) = some x ∧
      x.leaving = false ∧ mayName s (reqOf fn queue v) x.owner = true) ∧
    (∀ used, used = true ∨ used = false → ∃ (s : State) (fn queue v : Nat), UnderWay s fn queue v 0x09 ∧
      Machine.tst (reqOf fn queue v).arg 63 = true ∧ rangeInUse s ((reqOf fn queue v).arg % 2 ^ 10) = used) ∧
    (∃ (s : State) (fn queue v p : Nat) (part : Partition), Asks s fn queue v 0x0A ∧ (reqOf fn queue v).arg = 63 ∧
      readMembers s (reqOf fn queue v) = .ok p ∧ mayName s (reqOf fn queue v) (reqOf fn queue v).cid = true ∧
      mget s.parts (reqPart s (reqOf fn queue v)) = some part) ∧
    (∃ (s : State) (fn queue v p : Nat) (part : Partition), Asks s fn queue v 0x0B ∧ (reqOf fn queue v).arg = 2 ^ 16 - 1 ∧
      readMembers s (reqOf fn queue v) = .ok p ∧ mayName s (reqOf fn queue v) (reqOf fn queue v).cid = true ∧
      mget s.parts (reqPart s (reqOf fn queue v)) = some part) := by
  let inval : Nat := 0x8000 * 2 ^ 192 + 0x3F0000 * 2 ^ 128 + 2 ^ 96 + 2 ^ 80 + 5
  let range : Nat := 0x9000000 * 2 ^ 320 + 0x8000000 * 2 ^ 256 + 2 * 2 ^ 231 + 2 ^ 208
  let members : Nat := 3 * 2 ^ 64 + 2 ^ 48 + 2
  refine ⟨⟨asking2 1 32 inval 0 1 5 sys, 1, 0, _, inval, asks_of (v := entry 0x251000 0 1 5) (by decide +kernel), by decide +kernel,
      by decide +kernel, by decide +kernel⟩, ?_,
    ⟨asking2 1 8 0x8000 1 1 7 sys, 1, 0, _, 0x8000, loadedContext, asks_of (v := entry 0x251000 1 1 7) (by decide +kernel),
      by decide +kernel, by decide +kernel, by decide +kernel, by decide +kernel, by decide +kernel⟩,
    ⟨asks 1 1 8, 1, 0, _, asks_of (v := entry 0 0 1 8) (by decide +kernel), by decide +kernel⟩,
    ⟨asking2 1 64 range 5 1 9 sys, 1, 0, _, range, asks_of (v := entry 0x251000 5 1 9) (by decide +kernel), by decide +kernel,
      by decide +kernel, by decide +kernel, by decide +kernel⟩,
    ⟨ask 1 (entry 0 (2 ^ 63 + 5) 1 9) { sys with ranges := [(5, aRange5)] }, 1, 0, _, aRange5,
      asks_of (v := entry 0 (2 ^ 63 + 5) 1 9) (by decide +kernel), by decide +kernel, by decide +kernel, by decide +kernel, by decide +kernel,
      by decide +kernel⟩, ?_,
    ⟨asking2 1 12 members 63 1 10 sys, 1, 0, _, members, _, asks_of (v := entry 0x251000 63 1 10) (by decide +kernel), by decide +kernel,
      by decide +kernel, by decide +kernel, rfl⟩,
    ⟨asking2 1 12 members 65535 1 11 sys, 1, 0, _, members, _, asks_of (v := entry 0x251000 65535 1 11) (by decide +kernel), by decide +kernel,
      by decide +kernel, by decide +kernel, rfl⟩⟩
  rotate_left
  · rintro used (rfl | rfl)
    · exact ⟨began 1 (entry 0 (2 ^ 63 + 5) 1 9) inRange5, 1, 0, _, underWay_of (v := entry 0 (2 ^ 63 + 5) 1 9) (by decide +kernel),
        by decide +kernel, by decide +kernel⟩
    · exact ⟨began 1 (entry 0 (2 ^ 63 + 5) 1 9) sys, 1, 0, _, underWay_of (v := entry 0 (2 ^ 63 + 5) 1 9) (by decide +kernel),
        by decide +kernel, by decide +kernel⟩
  intro n hn
  match n, hn with
  | 0, _ =>
    exact ⟨ask 1 (entry 0 0 1 6) (claimed 1 0 sys), 1, 0, _, _, _, _, asks_of (v := entry 0 0 1 6) (by decide +kernel), by decide +kernel, rfl,
      rfl, rfl, by decide +kernel, by decide +kernel⟩
  | 1, _ =>
    exact ⟨ask 1 (entry 0 0 1 6) (claimed 2 1 sys), 1, 0, _, _, _, _, asks_of (v := entry 0 0 1 6) (by decide +kernel), by decide +kernel, rfl,
      rfl, rfl, by decide +kernel, by decide +kernel⟩
  | 2, _ =>
    exact ⟨ask 1 (entry 0 0 1 6) (claimed 2 3 sys), 1, 0, _, _, _, _, asks_of (v := entry 0 0 1 6) (by decide +kernel), by decide +kernel, rfl,
      rfl, rfl, by decide +kernel, by decide +kernel⟩

/-- A partition descriptor (14 R425) of core 0 and one GiB. -/
def partDescr : Nat := 2 ^ 1856 + 2 ^ 1376 + 5 * 2 ^ 1344 + 5 * 2 ^ 30 * 2 ^ 768 + 4 * 2 ^ 760

/-- A payload read by PF0, and its entry. -/
def pf0 (n p arg opc : Nat) : State := asking2 0 n p arg 0 opc State.reset

/-- A unit list of `n` times core 0. -/
def coreList (n : Nat) : Nat := n + (List.range n).foldl (fun v i => v + 0x1000FFFF * 2 ^ (32 + 32 * i)) 0

/-- A self-test of core 0. -/
def testing (s : State) : State := { s with selfTest := some ⟨[0x1000FFFF], 0, 0⟩ }

/-- An attest request of PF0 that came after one of function 2. -/
def twoAttests : State :=
  let s := pf0 64 99 0 0x13
  poke 0x5001000 64 (entry 0x251000 0 0 0x13)
    { s with funcs :=
        [(0, { Func.init with queues := [⟨0x5000000, 0, 1, 4, false, none, [8]⟩] }),
          (2, { Func.init with queues := [⟨0x5001000, 0, 1, 4, false, none, [7]⟩] })],
             parts := sys.parts.map (fun e => (1, e.2)) }

theorem witness_DeviceRequests :
    (∃ (s : State) (queue v d : Nat), Asks s 0 queue v 0x10 ∧ (reqOf 0 queue v).arg = 7 ∧
      readPay s (reqOf 0 queue v) (reqOf 0 queue v).pay 256 1 = .ok d ∧ partFields d = true) ∧
    (∀ m, m = 1 ∨ m = 64 → ∃ (s : State) (queue v n d : Nat), Asks s 0 queue v 0x11 ∧ s.selfTest = none ∧ n = m ∧
      readPay s (reqOf 0 queue v) (reqOf 0 queue v).arg 4 1 = .ok n ∧
      readPay s (reqOf 0 queue v) (reqOf 0 queue v).arg (4 + 4 * n) 1 = .ok d ∧ ∀ u ∈ unitList d, testable u = true) ∧
    (∃ (s : State) (t : SelfTest), s.selfTest = some t ∧ ∃ u ∈ t.units, ∃ c, coreOfUnit u = some c ∧
      ((∃ e ∈ s.waves, e.2.core = c) ∨ (∃ e ∈ s.units, e.2.placed = true ∧ e.2.core = c))) ∧
    (∃ (s : State) (t : SelfTest), s.selfTest = some t ∧ ¬∃ u ∈ t.units, ∃ c, coreOfUnit u = some c ∧
      ((∃ e ∈ s.waves, e.2.core = c) ∨ (∃ e ∈ s.units, e.2.placed = true ∧ e.2.core = c))) ∧
    (∃ (s : State), s.selfTest = none) ∧
    (∃ (s : State) (queue v h d : Nat), Asks s 0 queue v 0x12 ∧ readPay s (reqOf 0 queue v) (reqOf 0 queue v).pay 16 1 = .ok h ∧
      bitsAt h 16 12 ≠ 0 ∧ readPay s (reqOf 0 queue v) (reqOf 0 queue v).pay (16 + 8 * bitsAt h 16 12) 1 = .ok d ∧
      ∀ e ∈ routesOf d, bitsAt e 16 8 ≠ 0) ∧
    (∀ late, late = true ∨ late = false → ∃ (s : State) (fn queue v d : Nat), Asks s fn queue v 0x13 ∧
      readPay s (reqOf fn queue v) (reqOf fn queue v).pay 64 1 = .ok d ∧ attestBefore s (reqOf fn queue v) = late) ∧
    (∃ u : Nat, u / 2 ^ 28 = 3 ∧ testable u = true) ∧
    (∃ (s : State) (queue v : Nat), Asks s 0 queue v 0x14 ∧ (reqOf 0 queue v).arg = 600) ∧
    (∃ (s : State) (queue v d : Nat), Asks s 0 queue v 0x15 ∧ readPay s (reqOf 0 queue v) (reqOf 0 queue v).pay 16 1 = .ok d ∧
      errorRecordOk s d = true) ∧
    (∃ (s : State) (queue v d : Nat), Asks s 0 queue v 0x16 ∧ readPay s (reqOf 0 queue v) (reqOf 0 queue v).pay 16 1 = .ok d) := by
  let trunk : Nat := 2 ^ 162 + 1 * 2 ^ 160 + 2 ^ 144 + 9 * 2 ^ 128 + 5 * 2 ^ 28 + 2 ^ 16 + 4
  refine ⟨⟨pf0 256 partDescr 7 0x10, 0, _, partDescr, asks_of (v := entry 0x251000 7 0 0x10) (by decide +kernel), by decide +kernel,
      by decide +kernel, by decide +kernel⟩, ?_,
    ⟨testing sys, _, rfl, 0x1000FFFF, by decide +kernel, 0, by decide +kernel, .inl ⟨(0, wv), by decide +kernel, rfl⟩⟩,
    ⟨testing State.reset, _, rfl, by rintro ⟨u, -, c, -, h | h⟩ <;> exact absurd h (by simp [testing, State.reset])⟩, ⟨sys, rfl⟩,
    ⟨pf0 24 trunk 0 0x12, 0, _, trunk % 2 ^ 128, trunk, asks_of (v := entry 0x251000 0 0 0x12) (by decide +kernel), by decide +kernel,
      by decide +kernel, by decide +kernel, by decide +kernel⟩,
    ?_, ⟨0x33000000, by decide, by decide⟩,
    ⟨pf0 0 0 600 0x14, 0, _, asks_of (v := entry 0x251000 600 0 0x14) (by decide +kernel), by decide +kernel⟩,
    ⟨pf0 16 (0x400000 * 2 ^ 64 + 6) 0 0x15, 0, _, 0x400000 * 2 ^ 64 + 6, asks_of (v := entry 0x251000 0 0 0x15) (by decide +kernel),
      by decide +kernel, by decide +kernel⟩,
    ⟨pf0 16 0x0100 0 0x16, 0, _, 0x0100, asks_of (v := entry 0x251000 0 0 0x16) (by decide +kernel), by decide +kernel⟩⟩
  rotate_left
  · rintro late (rfl | rfl)
    · exact ⟨twoAttests, 0, 0, _, 99, asks_of (v := entry 0x251000 0 0 0x13) (by decide +kernel), by decide +kernel, by decide +kernel⟩
    · exact ⟨pf0 64 99 0 0x13, 0, 0, _, 99, asks_of (v := entry 0x251000 0 0 0x13) (by decide +kernel), by decide +kernel, by decide +kernel⟩
  rintro m (rfl | rfl)
  · exact ⟨poke 0x253000 8 (coreList 1) (pf0 0 0 0x253000 0x11), 0, _, 1, coreList 1, asks_of (v := entry 0x251000 0x253000 0 0x11) (by decide +kernel),
      by decide +kernel, rfl, by decide +kernel, by decide +kernel, by decide +kernel⟩
  · exact ⟨poke 0x253000 260 (coreList 64) (pf0 0 0 0x253000 0x11), 0, _, 64, coreList 64, asks_of (v := entry 0x251000 0x253000 0 0x11) (by decide +kernel),
      by decide +kernel, rfl, by decide +kernel, by decide +kernel, by decide +kernel⟩

/-- Function 1 with queue 0 of 16 entries. -/
def queued (head tail : Nat) : State :=
  { State.reset with funcs := mset State.reset.funcs 1 { Func.init with queues := [⟨0x5000000, head, tail, 4, false, none, []⟩, Queue.init] } }

theorem witness_DoorbellsAndRegisters :
    (∃ (s : State) (fn queue : Nat) (f : Func) (q : Queue), mget s.funcs fn = some f ∧ f.queues[queue]? = some q ∧ fnAnswers s f = false) ∧
    (∀ t, t = 16 ∨ t = 5 → ∃ (s : State) (fn queue value : Nat) (f : Func) (q : Queue), mget s.funcs fn = some f ∧
      f.queues[queue]? = some q ∧ fnAnswers s f = true ∧ value % 2 ^ 32 = t ∧ (2 ^ q.qlog ≤ t ∨ (q.head ≠ q.tail ∧
        ringDist (2 ^ q.qlog) q.tail q.head < ringDist (2 ^ q.qlog) q.tail t))) ∧
    (∀ t, t = 15 ∨ t = 4 → ∃ (s : State) (fn queue value : Nat) (f : Func) (q : Queue), mget s.funcs fn = some f ∧
      f.queues[queue]? = some q ∧ fnAnswers s f = true ∧ value % 2 ^ 32 = t ∧ t < 2 ^ q.qlog ∧
      (q.head = q.tail ∨ ringDist (2 ^ q.qlog) q.tail t ≤ ringDist (2 ^ q.qlog) q.tail q.head)) ∧
    (∀ queue, queue < 2 → ∃ (s : State) (fn : Nat) (f : Func) (q : Queue), fn = 1 ∧ mget s.funcs fn = some f ∧
      f.queues[queue]? = some q ∧ fnAnswers s f = true) := by
  refine ⟨⟨{ State.reset with booting := true }, 8, 15, Func.init, Queue.init, by decide +kernel, by decide +kernel, by decide +kernel⟩, ?_, ?_, ?_⟩
  · rintro t (rfl | rfl)
    · exact ⟨queued 0 0, 1, 0, 16, _, _, rfl, rfl, by decide +kernel, rfl, .inl (by decide +kernel)⟩
    · exact ⟨queued 4 6, 1, 0, 5, _, _, rfl, rfl, by decide +kernel, rfl, .inr (by decide +kernel)⟩
  · rintro t (rfl | rfl)
    · exact ⟨queued 0 0, 1, 0, 15, _, _, rfl, rfl, by decide +kernel, rfl, by decide +kernel, .inl rfl⟩
    · exact ⟨queued 4 6, 1, 0, 4, _, _, rfl, rfl, by decide +kernel, rfl, by decide +kernel, .inr (by decide +kernel)⟩
  · intro queue h
    match queue, h with
    | 0, _ => exact ⟨queued 0 0, 1, _, _, rfl, rfl, rfl, by decide +kernel⟩
    | 1, _ => exact ⟨queued 0 0, 1, _, _, rfl, rfl, rfl, by decide +kernel⟩

/-- A device whose link 17 is up, with `n` failures of its next flit. -/
def linked (n : Nat) : State := { State.reset with trunk := ⟨0, 2 ^ 17, [], [(2, 5)], [], [(17, n)], [], []⟩ }

theorem witness_TrunkLinksAndTicks :
    (∃ (s : State) (link : Nat), linkUp s link = false) ∧
    (∃ (s : State) (link : Nat), linkUp s link = true ∧ zget 0 s.trunk.retries link = 65) ∧
    (∀ seq, seq = 4 ∨ seq = 5 ∨ seq = 6 → ∃ (s : State) (link flow : Nat), linkUp s link = true ∧ zget 0 s.trunk.retries link = 64 ∧
      zget 0 s.trunk.flows flow = 5 ∧ ∀ h ∈ s.trunk.held, h.1 ≠ flow) ∧
    (∃ s : State, s.tickLost = false ∧ s.tickGap = 2 ^ 30 + 1) ∧ (∃ s : State, s.tickLost = false ∧ s.tickGap = 2 ^ 30) ∧
    (∃ s : State, s.tickLost = true) ∧ (∃ unit : Nat, unit < 2 ^ 32 ∧ unit / 2 ^ 28 = 6) ∧
    (∃ unit : Nat, unit < 2 ^ 32 ∧ unit / 2 ^ 28 = 7) ∧ (∃ unit : Nat, unit < 2 ^ 32 ∧ unit / 2 ^ 28 ≠ 6 ∧ unit / 2 ^ 28 ≠ 7) :=
  ⟨⟨State.reset, 0, by decide +kernel⟩, ⟨linked 65, 17, by decide +kernel, by decide +kernel⟩,
    fun _ _ => ⟨linked 64, 17, 2, by decide +kernel, by decide +kernel, by decide +kernel, by decide +kernel⟩,
    ⟨{ State.reset with tickGap := 2 ^ 30 + 1 }, rfl, rfl⟩, ⟨{ State.reset with tickGap := 2 ^ 30 }, rfl, rfl⟩,
    ⟨{ State.reset with tickLost := true }, rfl⟩, ⟨0x64000000, by decide +kernel, by decide +kernel⟩,
    ⟨0x74000000, by decide +kernel, by decide +kernel⟩, ⟨0xFFFFFFFF, by decide +kernel, by decide +kernel, by decide +kernel⟩⟩

theorem length_bytesOf : ∀ n v, (bytesOf n v).length = n
  | 0, _ => rfl
  | n + 1, v => congrArg Nat.succ (length_bytesOf n (v / 256))

theorem ofBytes_bytesOf : ∀ n v, ofBytes (bytesOf n v) = v % 256 ^ n
  | 0, v => by simp [bytesOf, ofBytes, Nat.mod_one]
  | n + 1, v => by
    rw [bytesOf, ofBytes, ofBytes_bytesOf n, BitVec.toNat_ofNat, Nat.pow_succ' (m := 256) (n := n)]
    exact (Nat.mod_mul (x := v) (a := 256) (b := 256 ^ n)).symm

/-- A life-cycle token (15 R462) for the state after a device's, with its nonce and serial, before its signature. -/
def tokenHead (m : Mgmt) : List Byte :=
  BitVec.ofNat 8 (m.lcs + 1) :: List.replicate 7 0#8 ++ bytesOf 8 m.lcnonce.toNat ++ bytesOf 16 Config.serial.toNat

/-- The token with the key's signature (`Config.tokenSign` is opaque: log 12). -/
def token (m : Mgmt) : List Byte := tokenHead m ++ (Config.tokenSign (tokenHead m)).toList

/-- A device to which that token has been written. -/
def offered : State := { State.reset with mgmt := { Mgmt.init with lcbuf := token Mgmt.init } }

theorem offered_ok : tokenOk offered.mgmt = true := by
  show tokenOk { Mgmt.init with lcbuf := token Mgmt.init } = true
  have hl : (tokenHead Mgmt.init).length = 32 := by
    rw [tokenHead, List.length_append, List.length_append, List.length_cons, length_bytesOf, length_bytesOf]
    rfl
  have hs : (token Mgmt.init).length = 9764 := by rw [token, List.length_append, hl, Vector.length_toList]
  have ht : (token Mgmt.init).take 32 = tokenHead Mgmt.init := List.take_left' hl
  have hd : (token Mgmt.init).drop 32 = (Config.tokenSign (tokenHead Mgmt.init)).toList := List.drop_left' hl
  simp only [tokenOk, Bool.and_eq_true, beq_iff_eq, decide_eq_true_eq]
  refine ⟨⟨⟨⟨⟨hs, rfl⟩, (by decide : 2 < 3)⟩, ?_⟩, ?_⟩, ?_⟩
  · exact (by decide : ofBytes (bytesOf 8 0) = 0)
  · show ofBytes ((bytesOf 16 Config.serial.toNat ++ (Config.tokenSign (tokenHead Mgmt.init)).toList).take 16) = _
    rw [List.take_left' (length_bytesOf ..), ofBytes_bytesOf]
    exact Nat.mod_eq_of_lt Config.serial.isLt
  · rw [ht, hd, Config.xmssVerify]
    simp

theorem witness_ResetsAndLifeCycle :
    (∃ (s : State), s.mgmt.bootStat = 2) ∧ (∃ (s : State), s.mgmt.bootStat ≠ 2) ∧
    (∃ (s : State) (part : Nat) (p : Partition), part < 8 ∧ s.booting = false ∧ mget s.parts part = some p ∧ s.waves ≠ []) ∧
    (∃ (s : State) (part : Nat) (p : Partition), part = 7 ∧ s.booting = false ∧ mget s.parts part = some p) ∧
    (∃ (s : State) (part : Nat), part = 8 ∧ s.booting = false) ∧ (∃ (s : State), s.booting = true) ∧
    (∃ (s : State), s.mgmt.lccmd = 1) ∧ (∃ (s : State), s.mgmt.lccmd ≠ 1 ∧ tokenOk s.mgmt = false) ∧
    (∃ (s : State), s.mgmt.lccmd ≠ 1 ∧ tokenOk s.mgmt = true) := by
  refine ⟨⟨{ State.reset with mgmt := { Mgmt.init with bootStat := 2 } }, rfl⟩, ⟨State.reset, by decide +kernel⟩,
    ⟨sys, 0, _, by decide +kernel, rfl, rfl, by decide +kernel⟩,
    ⟨{ sys with parts := mset sys.parts 7 ((mget sys.parts 0).getD ⟨0, 0, [], [], 0, 0, 0, 0, 0, [], [], [], []⟩) }, 7, _, rfl, rfl, rfl⟩,
    ⟨sys, 8, rfl, rfl⟩, ⟨{ State.reset with booting := true }, rfl⟩,
    ⟨{ State.reset with mgmt := { Mgmt.init with lccmd := 1 } }, rfl⟩, ⟨State.reset, by decide +kernel, by decide +kernel⟩,
    ⟨offered, (by decide : (0 : Nat) ≠ 1), offered_ok⟩⟩

/-- A device with function 1 open, a clock, and its power above the limit, or below 95 % of it, for so many cycles. -/
def clocked (mhz : Nat) (therm : Bool) (hot cool : Nat) : State :=
  { State.reset with mgmt := { Mgmt.init with clock := mhz, therm := therm, hot := hot, cool := cool } }

theorem witness_ClocksAndHostAtomics :
    (∃ s : State, s.mgmt.hot = 2 ^ 22 ∧ s.mgmt.clock = 1100 ∧ s.mgmt.therm = true) ∧
    (∃ s : State, s.mgmt.hot = 2 ^ 22 ∧ s.mgmt.clock = 1001) ∧ (∃ s : State, s.mgmt.hot = 2 ^ 22 - 1) ∧
    (∃ s : State, s.mgmt.cool = 2 ^ 26 ∧ s.mgmt.clock = 2900 ∧ s.mgmt.therm = false) ∧
    (∃ s : State, s.mgmt.cool = 2 ^ 26 ∧ s.mgmt.clock = 2901 ∧ s.mgmt.therm = false) ∧ (∃ s : State, s.mgmt.cool = 2 ^ 26 - 1) ∧
    (∃ s : State, ∀ e ∈ s.cores, ∀ m, e.2.sampler = some m → m.pending = []) ∧
    (∃ (s : State) (pa : Nat) (bs : List Byte), bs ≠ [] ∧ s.parts ≠ [] ∧ ∀ j < bs.length, readOnly s (pa + j) = false) ∧
    (∃ (s : State) (fn addr : Nat) (f : Func), mget s.funcs fn = some f ∧ fnAnswers s f = true ∧ addr + 4 ≤ memSize ∧ fn = 0 ∧ s.vis ≠ []) ∧
    (∀ size, size = 4 ∨ size = 8 → ∃ (s : State) (fn addr : Nat) (f : Func), mget s.funcs fn = some f ∧ fnAnswers s f = true ∧
      addr % size = 0 ∧ addr + size = memSize ∧ fn ≠ 0 ∧ physOk s (fn - 1) true addr size = false) ∧
    (∀ size, size = 4 ∨ size = 8 → ∃ (s : State) (fn addr : Nat) (f : Func), mget s.funcs fn = some f ∧ fnAnswers s f = true ∧
      addr % size = 0 ∧ addr + size = memSize ∧ fn ≠ 0 ∧ physOk s (fn - 1) true addr size = true ∧ s.vis = [] ∧
      badGranule s (.single addr) size addr = none) ∧
    (∀ size, size = 4 ∨ size = 8 → ∃ (s : State) (fn addr g : Nat) (b : Bool), badGranule s (.single addr) size addr = some (g, b) ∧
      addr % size = 0 ∧ addr + size ≤ memSize ∧ fn = 0 ∧ s.vis = [] ∧ ∃ f, mget s.funcs fn = some f ∧ fnAnswers s f = true) ∧
    (∃ size : Nat, size ≠ 4 ∧ size ≠ 8) := by
  refine ⟨⟨clocked 1100 true (2 ^ 22) 0, rfl, rfl, rfl⟩, ⟨clocked 1001 true (2 ^ 22) 0, rfl, rfl⟩, ⟨clocked 1001 true (2 ^ 22 - 1) 0, rfl⟩,
    ⟨clocked 2900 false 0 (2 ^ 26), rfl, rfl, rfl⟩, ⟨clocked 2901 false 0 (2 ^ 26), rfl, rfl, rfl⟩, ⟨clocked 2901 false 0 (2 ^ 26 - 1), rfl⟩,
    ⟨sys, by decide +kernel⟩, ⟨sys, 0x280010, [1#8], by decide, by decide, by decide +kernel⟩,
    ⟨{ sys with vis := [⟨4, [(0, 0#8)], 1, [0, 1, 0, 0], []⟩] }, 0, 0, _, rfl, by decide +kernel, by decide +kernel, rfl, by decide⟩, ?_, ?_, ?_,
    ⟨16, by decide, by decide⟩⟩
  · rintro size (rfl | rfl)
    · exact ⟨State.reset, 8, memSize - 4, _, rfl, by decide +kernel, by decide +kernel, by decide +kernel, by decide, by decide +kernel⟩
    · exact ⟨State.reset, 8, memSize - 8, _, rfl, by decide +kernel, by decide +kernel, by decide +kernel, by decide, by decide +kernel⟩
  · rintro size (rfl | rfl)
    · exact ⟨sys, 1, memSize - 4, _, rfl, by decide +kernel, by decide +kernel, by decide +kernel, by decide, by decide +kernel, rfl, by decide +kernel⟩
    · exact ⟨sys, 1, memSize - 8, _, rfl, by decide +kernel, by decide +kernel, by decide +kernel, by decide, by decide +kernel, rfl, by decide +kernel⟩
  · rintro size (rfl | rfl)
    · exact ⟨{ State.reset with poison := [0] }, 0, 28, 0, _, rfl, by decide +kernel, by decide +kernel, rfl, rfl, _, rfl, by decide +kernel⟩
    · exact ⟨{ State.reset with latent := [0] }, 0, 24, 0, _, rfl, by decide +kernel, by decide +kernel, rfl, rfl, _, rfl, by decide +kernel⟩

theorem witness_SignalboxStepsComplete_host :
    (∃ s : State, s.mgmt.lccmd ≠ 1 ∧ tokenOk s.mgmt = true) ∧
    (∃ (s : State) (fn queue v d : Nat), Asks s fn queue v 0x13 ∧ readPay s (reqOf fn queue v) (reqOf fn queue v).pay 64 1 = .ok d ∧
      attestBefore s (reqOf fn queue v) = false ∧ s.mgmt.indices ≠ 0 ∧ fnReach s fn (reqOf fn queue v).arg
        (reportBody s fn d ++ (Config.xmssSign (nextIndex s.mgmt) (reportBody s fn d)).toList).length = true) := by
  refine ⟨⟨offered, (by decide : (0 : Nat) ≠ 1), offered_ok⟩,
    ⟨pf0 64 99 0 0x13, 0, 0, _, 99, asks_of (v := entry 0x251000 0 0 0x13) (by decide +kernel), by decide +kernel, by decide +kernel,
      by decide +kernel, by simp [fnReach]⟩⟩

end Sys2Proof.Tests
end

