-- ==== Sys2Proof/Tests/WitnessesUnits.lean ====
section
/-! SUPPORT. Witnesses for the obligations about engines, the matrix unit, launches, units, translations and memory errors. -/

namespace Sys2Proof.Tests

open Sys2Proof.Machine Sys2Proof.Terms

/-- A tensor record (09 R319) of one row and `cols` columns of 4-byte words. -/
def rec1 (base space aoff cols : Nat) : Nat :=
  base * 2 ^ 448 + 2 ^ 352 + cols * 2 ^ 320 + 4 * cols * 2 ^ 288 + 2 ^ 144 + cols * 2 ^ 128 + 6 * 2 ^ 72 + space * 2 ^ 64 + 2 ^ 59 + aoff * 2 ^ 36

/-- A command of the wave with word `word`, whose records stand at `0x400000`, `0x400040` and `0x400080`. -/
def cmd (word : Nat) : Cmd :=
  { newCmd sys wv { sys.cur with word := word } 0#64 0x400000#64 0x400040#64 0x400080#64 none with seed := 0#64 }

/-- A copy that has begun, to global memory (space 0) or to the share (1). -/
def copying (space : Nat) : Cmd :=
  { cmd 0x3E000000 with begun := true, recs := [rec1 0x410000 0 0 2, rec1 (if space = 0 then 0x420000 else 64) space 1 2] }

/-- A device with a command at the head of consist 0. -/
def heading (c : Cmd) (s : State) : State :=
  modX s 1 (fun x => { x with consists := mset x.consists 0 ⟨0x300000, 0x380000, 4, 1, 0, [c], false⟩ })

/-- Records in memory. -/
def withRecs (u v z : Nat) (s : State) : State :=
  { s with mem := putBytes (putBytes (putBytes s.mem 0x400000 (bytesOf 64 u)) 0x400040 (bytesOf 64 v)) 0x400080 (bytesOf 64 z) }

/-- What a record read gives, as far as it computes. -/
theorem read_of {r : Except Stop Nat} {v : Nat} (h : (match r with | .ok u => u == v | .error _ => false) = true) : r = .ok v := by
  cases r with
  | ok u => exact congrArg _ (by simpa using h)
  | error e => exact absurd h (by simp)

/-- A copy whose head is done. -/
def copied : Cmd := { copying 0 with doneW := 2 }

/-- A follow-on record (09 R339): a `tturn` with records at the same places. -/
def followRec : Nat := 0x400000 * 2 ^ 64 + 0x3C400000

/-- A copy that is done but for its follow-on. -/
def following (free : Bool) : State :=
  heading { copied with follow := some followRec } (modC sys 0 (fun c => { c with owner := if free then some 0 else none }))

set_option exponentiation.threshold 1024 in
theorem witness_EngineCommandsBeginWorkAndComplete :
    (∃ (s : State) (cid con : Nat) (x : Context) (q : Consist) (c : Cmd) (l : List Cmd), con < 64 ∧ mget s.contexts cid = some x ∧
      mget x.consists con = some q ∧ q.cmds = c :: l ∧ q.frozen = false ∧ c.frozen = false ∧ c.waitPage = none ∧ c.err = 0 ∧
      c.begun = false ∧ s.mgmt.fatal = false) ∧
    (∃ (s : State) (con : Nat) (c : Cmd) (u v : Nat), c.minor = 0 ∧ c.follow = none ∧ readRecord s con c c.x.toNat 64 = .ok u ∧
      readRecord s con c c.y.toNat 64 = .ok v ∧ (tensorRec v).fmt ≠ 0x20 ∧ recordCodes s c [u, v] = [] ∧
      copyCodes s c (tensorRec u) (tensorRec v) = []) ∧
    (∃ (s : State) (con : Nat) (c : Cmd) (u v : Nat), c.minor = 0 ∧ c.follow = none ∧ readRecord s con c c.x.toNat 64 = .ok u ∧
      readRecord s con c c.y.toNat 64 = .ok v ∧ (tensorRec v).fmt ≠ 0x20 ∧ recordCodes s c [u, v] = [] ∧
      copyCodes s c (tensorRec u) (tensorRec v) ≠ []) ∧
    (∃ (s : State) (con : Nat) (c : Cmd) (u v : Nat), c.minor = 0 ∧ c.follow = none ∧ readRecord s con c c.x.toNat 64 = .ok u ∧
      readRecord s con c c.y.toNat 64 = .ok v ∧ (tensorRec v).fmt ≠ 0x20 ∧ recordCodes s c [u, v] ≠ []) ∧
    (∃ (s : State) (cid con : Nat) (c : Cmd) (p : Plan) (w : Work) (l : List Work) (g : Batch), working s cid con = some (c, p) ∧
      p.works.drop c.doneW = w :: l ∧ p.dstSpace = 0 ∧ s.vis = [] ∧
      gatherAll s con c p ((w :: l).takeWhile (fun x => x.dst.addr / 2 ^ 21 == w.dst.addr / 2 ^ 21)) Batch.init = (g, none)) ∧
    (∃ (s : State) (cid con n : Nat) (c : Cmd) (p : Plan) (ws : List Work) (g : Batch), working s cid con = some (c, p) ∧
      ws = (landing n none 0 (p.works.drop c.doneW)).1 ∧ ws ≠ [] ∧ p.dstSpace = 1 ∧ s.vis = [] ∧
      gatherAll s con c p ws Batch.init = (g, none)) ∧
    (∃ (s : State) (u : Nat) (x : LUnit), mget s.units u = some x) ∧
    (∃ (s : State) (cid con : Nat) (x : Context) (q : Consist) (c : Cmd) (l : List Cmd), con < 64 ∧ mget s.contexts cid = some x ∧
      mget x.consists con = some q ∧ q.cmds = c :: l ∧ q.frozen = false ∧ workDone s c = true ∧ s.vis = [] ∧ c.err = 0 ∧
      c.note = 0 ∧ c.follow = none ∧ c.sent = false ∧ c.actImage = none ∧ c.shadow = [] ∧ c.pages = []) ∧
    (∃ (s : State) (cid con v : Nat) (x : Context) (q : Consist) (c : Cmd) (l : List Cmd), con < 64 ∧ mget s.contexts cid = some x ∧
      mget x.consists con = some q ∧ q.cmds = c :: l ∧ q.frozen = false ∧ c.follow = some v ∧ c.sent = false ∧ c.err = 0 ∧
      workDone s c = true ∧ s.vis = [] ∧ (getC s c.core).owner = some c.unit ∧ followMayIssue s c (foHint v) = true) ∧
    (∃ (s : State) (cid con v : Nat) (x : Context) (q : Consist) (c : Cmd) (l : List Cmd), con < 64 ∧ mget s.contexts cid = some x ∧
      mget x.consists con = some q ∧ q.cmds = c :: l ∧ q.frozen = false ∧ c.follow = some v ∧ c.sent = false ∧ c.err = 0 ∧
      workDone s c = true ∧ s.vis = [] ∧ (getC s c.core).owner ≠ some c.unit) := by
  let u := rec1 0x410000 0 0 2
  let v := rec1 0x420000 0 0 2
  refine ⟨⟨heading (cmd 0x3E000000) sys, 1, 0, _, _, _, _, by decide, rfl, rfl, rfl, rfl, rfl, rfl, rfl, rfl, rfl⟩,
    ⟨withRecs u v 0 sys, 0, cmd 0x3E000000, u, v, rfl, rfl, read_of (by decide +kernel), read_of (by decide +kernel), by decide +kernel,
      by decide +kernel, by decide +kernel⟩,
    ⟨withRecs u (rec1 0x420000 0 0 3) 0 sys, 0, cmd 0x3E000000, u, rec1 0x420000 0 0 3, rfl, rfl, read_of (by decide +kernel),
      read_of (by decide +kernel), by decide +kernel, by decide +kernel, by decide +kernel⟩,
    ⟨withRecs u 0 0 sys, 0, cmd 0x3E000000, u, 0, rfl, rfl, read_of (by decide +kernel), read_of (by decide +kernel), by decide +kernel,
      by decide +kernel⟩,
    ⟨heading (copying 0) sys, 1, 0, copying 0, _, _, _, _, rfl, rfl, by decide +kernel, rfl, Prod.ext rfl (by decide +kernel)⟩,
    ⟨heading (copying 1) sys, 1, 0, 4, copying 1, _, _, _, rfl, rfl, by decide +kernel, by decide +kernel, rfl, Prod.ext rfl (by decide +kernel)⟩,
    ⟨sys, 0, loadedUnit, rfl⟩,
    ⟨heading copied sys, 1, 0, _, _, copied, _, by decide, rfl, rfl, rfl, rfl, by decide +kernel, rfl, rfl, rfl, rfl, rfl, rfl, rfl, rfl⟩,
    ⟨following true, 1, 0, followRec, _, _, _, _, by decide, rfl, rfl, rfl, rfl, rfl, rfl, rfl, by decide +kernel, rfl, by decide +kernel,
      by decide +kernel⟩,
    ⟨following false, 1, 0, followRec, _, _, _, _, by decide, rfl, rfl, rfl, rfl, rfl, rfl, rfl, by decide +kernel, rfl, by decide +kernel⟩⟩

/-- A BF16 record of one element in a space of the matrix unit. -/
def recB (space : Nat) : Nat := 2 ^ 352 + 2 ^ 320 + 2 ^ 144 + 2 ^ 128 + 8 * 2 ^ 72 + space * 2 ^ 64 + 2 ^ 59

/-- A device whose core has a command in a queue of its matrix unit. -/
def queuedMat (queue : Nat) (c : Cmd) : State :=
  modC sys 0 (fun x => if queue = 0 then { x with loadQ := [c] } else if queue = 1 then { x with compQ := [c] } else { x with storeQ := [c] })

/-- A load of the activation table that has read its image. -/
def tableLoad : Cmd := { cmd 0x3E000000 with begun := true, actImage := some [1#8], acc := some 7 }

/-- A core with a copy of the table. -/
def tabled : State := heading tableLoad (modC sys 0 (fun x => { x with acts := [(1, ⟨[], [], 0, 3⟩)] }))

/-- Two ranks of group 4 that have begun. -/
def gathered : State :=
  { sys with
    parts := sys.parts.map (fun e => (e.1, { e.2 with colls := [(4, [(1, 0), (2, 0)])] })),
    colls := [⟨0, 4, 9, 0, 0, 1, 20, [5], 0#64⟩, ⟨0, 4, 9, 1, 0, 2, 20, [6], 0#64⟩] }

/-- A publish that waits. -/
def pub : Access :=
  { id := 9, op := .publish, lanes := [], dest := some (1024, true), addr := 0#64, word := 0, after := [], performed := false,
    user := true, folds := [], slot := none }

/-- The wave with it. -/
def publishing : State :=
  onW (fun w => { w with accs := [pub] }) sys

theorem witness_MatrixQueuesTablesCollectivesAndPublishing :
    (∀ queue, queue = 1 ∨ queue = 2 → ∃ (s : State) (core : Nat) (c : Cmd) (l : List Cmd), matQueue (getC s core) queue = c :: l ∧
      c.frozen = false ∧ c.waitPage = none ∧ c.err = 0 ∧ s.mgmt.fatal = false ∧ accFree (getC s core) queue c = true ∧
      c.begun = false) ∧
    (∃ (s : State) (ring : Nat) (c : Cmd) (u v z : Nat), 3 ≤ c.minor ∧ c.minor ≤ 5 ∧ readRecord s ring c c.x.toNat 64 = .ok u ∧
      readRecord s ring c c.y.toNat 64 = .ok v ∧ readRecord s ring c c.z.toNat 64 = .ok z ∧
      (∀ t ∈ [u, v, z], goodRecord s c (tensorRec t) = 0) ∧
      multiplyCodes { c with recs := [u, v, z] } (tensorRec u) (tensorRec v) (tensorRec z) (getC s c.core).mat = []) ∧
    (∀ queue, queue < 2 → ∃ (s : State) (core : Nat) (c : Cmd) (l : List Cmd), matQueue (getC s core) queue = c :: l ∧
      workDone s c = true ∧ c.carried = none ∧ c.shadow = [] ∧ c.pages = []) ∧
    (∃ (s : State) (cid con core : Nat) (c : Cmd) (a : ActCopy) (img : List Byte), headOf s cid con = some c ∧
      mget (getC s core).acts cid = some a ∧ c.actImage = some img ∧ c.begun = true ∧ c.frozen = false ∧ a.switched ≠ c.acc.getD 0) ∧
    (∃ (s : State) (part group cseq : Nat) (p : Partition) (members : List (Nat × Nat)) (all : List Coll),
      mget s.parts part = some p ∧ mget p.colls group = some members ∧
      let xs := s.colls.filter (fun x => x.part == part && x.group == group && x.cseq == cseq)
      xs ≠ [] ∧ (span 0 members.length).map (fun r => xs.find? (fun x => x.rank == r)) = all.map some ∧ tickReached s xs = true ∧
      collReached s part group xs = true) ∧
    (∃ d : CDesc, d.dtype = 5 ∧ d.op = 0) ∧
    (∃ (s : State) (k id : Nat) (w : Wave) (a : Access), mget s.waves k = some w ∧ w.acc id = some a ∧ a.op = .publish ∧
      a.performed = false ∧ publishReady s w.cid id = true ∧ s.vis = []) ∧
    (∃ (s : State) (owner : Nat), (∀ e ∈ s.ranges, e.2.owner = owner → e.2.dead = true ∨ e.2.stg = none) ∧ s.ranges ≠ [] ∧
      groupVersion s owner = 0xFFFFFFFF) := by
  refine ⟨?_, ⟨withRecs (recB 2) (recB 3) (recB 2) sys, 64, cmd 0x3C600001, recB 2, recB 3, recB 2, by decide +kernel, by decide +kernel,
      read_of (by decide +kernel), read_of (by decide +kernel), read_of (by decide +kernel), by decide +kernel, by decide +kernel⟩, ?_,
    ⟨tabled, 1, 0, 0, tableLoad, _, _, rfl, rfl, rfl, rfl, rfl, by decide +kernel⟩,
    ⟨gathered, 0, 4, 9, _, _, gathered.colls, rfl, rfl, by decide +kernel, by decide +kernel, by decide +kernel, by decide +kernel⟩,
    ⟨collDesc (5 * 2 ^ 128), by decide +kernel, by decide +kernel⟩,
    ⟨publishing, 0, 9, { wv with accs := [pub] }, pub, rfl, rfl, rfl, rfl, by decide +kernel, rfl⟩,
    ⟨{ sys with ranges := [(5, rangeOf (2 ^ 208) 1)], groups := [(1, 0xFFFFFFFF)] }, 1, by decide +kernel, by decide +kernel, by decide +kernel⟩⟩
  · rintro queue (rfl | rfl)
    · exact ⟨queuedMat 1 (cmd 0x3C600000), 0, _, _, rfl, rfl, rfl, rfl, rfl, by decide +kernel, rfl⟩
    · exact ⟨queuedMat 2 (cmd 0x3CC00000), 0, _, _, rfl, rfl, rfl, rfl, rfl, by decide +kernel, rfl⟩
  · intro queue h
    match queue, h with
    | 0, _ =>
      exact ⟨queuedMat 0 { cmd 0x3C200000 with begun := true, err := 1 }, 0, _, _, rfl, by decide +kernel, rfl, rfl, rfl⟩
    | 1, _ =>
      exact ⟨queuedMat 1 { cmd 0x3C600000 with begun := true }, 0, _, _, rfl, by decide +kernel, rfl, rfl, rfl⟩

/-- The launch with one claim in Junction 0's queue. -/
def offering : Launch := { loadedLaunch with queues := [[0], [], [], []] }

/-- A device with a launch and nothing resident. -/
def vacant (l : Launch) : State := { sys with launches := [(0, l)], units := [], waves := [], cores := [] }

/-- A device with the launch's unit claimed. -/
def claimedUnit : State := { vacant loadedLaunch with units := [(0, { loadedUnit with st := .claimed, mown := false, gone := [] })] }

/-- A bind record of the unit in slot 3 of core 47, the last of die 0. -/
def bind47 : Bind := { bindOf 0 loadedLaunch 0 { loadedUnit with core := 47 } 0 3 1 2 false with state := 1 }

/-- That record pending. -/
def binding : State := { vacant loadedLaunch with binds := [(32 * 47 + 3, bind47)], units := [(0, { loadedUnit with core := 47, st := .reserved })] }

/-- Junction 0 has a claim that its die cannot hold now, and Junction 1 asks it for one. -/
def tailOnly : State :=
  { vacant { offering with searching := [(1, 3)] } with parts := sys.parts.map (fun e => (e.1, { e.2 with cores := 0 })) }

theorem claimed_places : (tryPlace claimedUnit keepAll 0 loadedLaunch 0 [startWant loadedLaunch 0]).isSome = true := by decide +kernel

theorem witness_UnitsAreClaimedPlacedAndStarted :
    (∃ (s : State) (j n q o : Nat) (rest : List Nat) (l : Launch), mget s.launches n = some l ∧ l.st = .active ∧
      claimedUnits s n j = [] ∧ lget [] l.queues j = q :: rest ∧ q < 2 ^ 40 ∧ claimUnits l q = [o] ∧ l.serial = none ∧
      (tryPlace s keepAll n l j (headWants s n l j)).isSome ∧ headWants s n l j ≠ []) ∧
    (∃ (s : State) (j n : Nat) (l : Launch), mget s.launches n = some l ∧ l.st = .active ∧ l.serial = none ∧ j < 4 ∧
      lget [] l.queues j = [] ∧ mget l.searching j = none ∧ claimedUnits s n j = [] ∧ dieCould s j n l = true) ∧
    (∃ (s : State) (victim j n k : Nat) (l : Launch), mget s.launches n = some l ∧ l.st = .active ∧ mget l.searching j = some k ∧
      k < 4 ∧ victim = (j + k) % 4 ∧ servesFirst s n victim j l = false ∧ lget [] l.queues victim = []) ∧
    (∃ (s : State) (victim j n k : Nat) (l : Launch) (q : List Nat) (t : Nat), mget s.launches n = some l ∧ l.st = .active ∧
      mget l.searching j = some k ∧ k < 4 ∧ victim = (j + k) % 4 ∧ servesFirst s n victim j l = false ∧
      lget [] l.queues victim = q ++ [t]) ∧
    (∃ (s : State) (j n u o : Nat) (l : Launch) (x : LUnit) (w : Work2) (p : Placed), mget s.launches n = some l ∧ l.st = .active ∧
      nextGang s n j l = [(u, o)] ∧ inOrder s n l = true ∧ mget s.units u = some x ∧ (∀ e ∈ s.units, hasRefused s e.1 = false) ∧
      tryPlace s keepAll n l j [startWant l o] = some w ∧ w.out = [p]) ∧
    (∃ (s : State) (die index : Nat) (b : Bind) (l : Launch) (u : LUnit), mget s.binds (1536 * die + index) = some b ∧ b.state = 1 ∧
      (∀ e ∈ s.binds, e.1 / 32 = (1536 * die + index) / 32 → e.1 < 1536 * die + index → e.2.pending = false) ∧
      mget s.launches b.launch = some l ∧ l.st = .active ∧ mget s.units b.unit = some u ∧
      1536 * die + index = 32 * b.core + b.slot ∧ chargesFit s b = true) ∧
    (∃ (s : State) (die index : Nat) (b : Bind) (l : Launch) (u : LUnit), mget s.binds (1536 * die + index) = some b ∧ b.state = 1 ∧
      (∀ e ∈ s.binds, e.1 / 32 = (1536 * die + index) / 32 → e.1 < 1536 * die + index → e.2.pending = false) ∧
      mget s.launches b.launch = some l ∧ l.st = .active ∧ mget s.units b.unit = some u ∧
      1536 * die + index ≠ 32 * b.core + b.slot) ∧
    (∃ (s : State) (die index : Nat) (b : Bind) (l : Launch) (u : LUnit), mget s.binds (1536 * die + index) = some b ∧ b.pending = true ∧
      (∀ e ∈ s.binds, e.1 / 32 = (1536 * die + index) / 32 → e.1 < 1536 * die + index → e.2.pending = false) ∧
      mget s.launches b.launch = some l ∧ l.st ≠ .active ∧ mget s.units b.unit = some u ∧ 1536 * die + index = 32 * b.core + b.slot ∧
      chargesFit s b = true) ∧
    (∃ b : Bind, b.grant = 64) := by
  refine ⟨⟨vacant offering, 0, 0, 0, 0, [], offering, rfl, rfl, rfl, rfl, by decide, by decide +kernel, rfl, by decide +kernel,
      List.ne_nil_of_length_pos (by decide +kernel)⟩,
    ⟨vacant offering, 3, 0, offering, rfl, rfl, rfl, by decide, rfl, rfl, rfl, by decide +kernel⟩,
    ⟨vacant { offering with searching := [(2, 3)] }, 1, 2, 0, 3, _, rfl, rfl, rfl, by decide, rfl, by decide +kernel, rfl⟩,
    ⟨tailOnly, 0, 1, 0, 3, _, [], 0, rfl, rfl, rfl, by decide, rfl, by decide +kernel, rfl⟩,
    ⟨claimedUnit, 0, 0, 0, 0, loadedLaunch, _, (tryPlace claimedUnit keepAll 0 loadedLaunch 0 [startWant loadedLaunch 0]).get claimed_places,
      ⟨0, 0, 8, ⟨(span 0 8).map (fun i => (i, i)), 0, 0⟩⟩, rfl, rfl, by decide +kernel, by decide +kernel, rfl, by decide +kernel, (Option.some_get _).symm,
      by decide +kernel⟩,
    ⟨binding, 0, 32 * 47 + 3, bind47, _, _, by decide +kernel, rfl, by decide, rfl, rfl, rfl, by decide, by decide +kernel⟩,
    ⟨{ binding with binds := [(32 * 47 + 2, bind47)] }, 0, 32 * 47 + 2, bind47, _, _, by decide +kernel, rfl, by decide, rfl, rfl, rfl,
      by decide⟩,
    ⟨{ binding with launches := [(0, { loadedLaunch with st := .ending 3 0 0#64 })] }, 0, 32 * 47 + 3, bind47, _, _, by decide +kernel,
      by decide, by decide, rfl, by decide, rfl, by decide, by decide +kernel⟩,
    ⟨{ bind47 with grant := 64 }, rfl⟩⟩

/-- A partition of one core that a unit holds, and a launch of higher priority that waits for it. -/
def crowded : State :=
  { sys with
    parts := sys.parts.map (fun e => (e.1, { e.2 with cores := 1 })),
    launches := [(0, loadedLaunch), (1, { offering with waiting := 2 ^ 22, waitPrio := 2 })] }

theorem witness_LaunchesAgeMakeRoomAndEnd :
    (∃ (s : State) (n : Nat) (l : Launch), mget s.launches n = some l ∧ l.st = .active) ∧
    (∃ (s : State) (n j : Nat) (l : Launch) (w : List Want) (more : List (Nat × List Want)), mget s.launches n = some l ∧
      l.st = .active ∧ 2 ^ 22 ≤ l.waiting ∧ (∀ e ∈ s.units, e.2.st ≠ .saving) ∧ waitingWants s n l = (j, w) :: more ∧
      (∀ p ∈ (j, w) :: more, tryPlace s keepAll n l p.1 p.2 = none) ∧ l.waiting = 2 ^ 22) ∧
    (∃ (s : State) (l : Launch) (u : Nat), u ∈ victims s l) ∧
    (∃ (s : State) (u : Nat) (x : LUnit), mget s.units u = some x ∧ x.st = .resident) ∧
    (∃ (s : State) (n : Nat) (l : Launch), mget s.launches n = some l ∧ l.st = .active ∧ l.resident = l.tlimit * 2 ^ 20 ∧
      l.serial = none) ∧
    (∃ (s : State) (n : Nat) (free : W64) (l : Launch), mget s.launches n = some l ∧ l.st = .active ∧
      l.resident = l.tlimit * 2 ^ 20 ∧ l.serial = some free) ∧
    (∃ (s : State) (n status dsub : Nat) (dig : W64) (l : Launch), mget s.launches n = some l ∧ l.st = .ending status dsub dig ∧
      launchBusy s n = false) ∧
    (∀ d, d < 3 → ∃ (s : State) (n : Nat) (l : Launch), mget s.launches n = some l ∧ l.st = .active ∧ l.serial = none ∧
      l.unitsLeft = 0 ∧ digestsIn l = true ∧ launchBusy s n = false ∧ l.digm = d) ∧
    (∃ (s : State) (n : Nat) (free : W64) (l : Launch), mget s.launches n = some l ∧ l.st = .active ∧ l.serial = some free ∧
      l.unitsLeft = 0 ∧ digestsIn l = true ∧ launchBusy s n = false) ∧
    (∃ (s : State) (n : Nat), s.waves = [] ∧ launchBusy s n = true) ∧ (∃ (s : State) (n : Nat) (l : Launch), mget s.launches n = some l) := by
  refine ⟨⟨sys, 0, _, rfl, rfl⟩,
    ⟨crowded, 1, 0, { offering with waiting := 2 ^ 22, waitPrio := 2 }, _, _, rfl, rfl, by decide, by decide, rfl, ?_, rfl⟩,
    ⟨crowded, { offering with waitPrio := 2 }, 0, by decide +kernel⟩,
    ⟨sys, 0, _, rfl, rfl⟩,
    ⟨vacant { loadedLaunch with resident := 2 ^ 20 }, 0, _, rfl, rfl, by decide, rfl⟩,
    ⟨vacant { loadedLaunch with resident := 2 ^ 20, serial := some 1#64 }, 0, 1#64, _, rfl, rfl, by decide, rfl⟩,
    ⟨vacant { loadedLaunch with st := .ending 3 0 0#64 }, 0, 3, 0, 0#64, _, rfl, rfl, by decide⟩,
    fun d _ => ⟨vacant { loadedLaunch with unitsLeft := 0, digm := d, digests := [(0, 0#64)] }, 0, _, rfl, rfl, rfl, rfl,
      by rw [digestsIn]; simp; exact .inr rfl, rfl, rfl⟩,
    ⟨vacant { loadedLaunch with unitsLeft := 0, serial := some 1#64 }, 0, 1#64, _, rfl, rfl, rfl, rfl, by decide, by decide⟩,
    ⟨binding, 0, rfl, by decide⟩, ⟨sys, 0, _, rfl⟩⟩
  intro p hp
  have e : ∀ p ∈ waitingWants crowded 1 { offering with waiting := 2 ^ 22, waitPrio := 2 },
      (tryPlace crowded keepAll 1 { offering with waiting := 2 ^ 22, waitPrio := 2 } p.1 p.2).isNone = true := by
    exact List.all_eq_true.mp (by decide +kernel)
  simpa using e p hp

/-- That device when the launch has waited `w` cycles. -/
def crowdedAt (w : Nat) : State := { crowded with launches := [(0, loadedLaunch), (1, { offering with waiting := w, waitPrio := 2 })] }

/-- What the launch waits to place does not fit, where a run shows it. -/
theorem crowded_full (s : State) (l : Launch) (h : (waitingWants s 1 l).all (fun p => (tryPlace s keepAll 1 l p.1 p.2).isNone) = true) :
    ∀ p ∈ waitingWants s 1 l, tryPlace s keepAll 1 l p.1 p.2 = none := by
  intro p hp
  simpa using List.all_eq_true.mp h p hp

theorem witness_SignalboxStepsComplete :
    (∃ (s : State) (n : Nat) (l : Launch), mget s.launches n = some l ∧ l.st = .active) ∧
    (∀ d, d < 2 → ∃ (s : State) (n j : Nat) (l : Launch) (w : List Want) (more : List (Nat × List Want)) (vs us : List Nat) (u : Nat),
      mget s.launches n = some l ∧ l.st = .active ∧ (∀ e ∈ s.units, e.2.st ≠ .saving) ∧ waitingWants s n l = (j, w) :: more ∧
      (∀ p ∈ (j, w) :: more, tryPlace s keepAll n l p.1 p.2 = none) ∧
      vs = (victims s l).filter (fun u => (party s u).all (victims s l).contains &&
        ((mget s.units u).map (fun x => Sys2Proof.Machine.tst (((mget s.parts l.part).map (·.cores)).getD 0) x.core &&
          (decide (2 ≤ tierDom l (gangTier l)) || (diesFor l j ((w.head?.map (·.ord)).getD 0)).contains (x.core / 48)))).getD false) ∧
      vs = u :: us ∧ (tryPlace s (fun k => !(party s u).contains k) n l j w).isSome = true ∧ l.waiting = 2 ^ 22 - d) ∧
    (∃ (s : State) (n : Nat) (l : Launch), mget s.launches n = some l ∧ l.st = .active ∧ l.resident = l.tlimit * 2 ^ 20 ∧
      l.serial = none) ∧
    (∃ (s : State) (n : Nat) (free : W64) (l : Launch), mget s.launches n = some l ∧ l.st = .active ∧
      l.resident = l.tlimit * 2 ^ 20 ∧ l.serial = some free) ∧
    (∃ (s : State) (n status dsub : Nat) (dig : W64) (l : Launch), mget s.launches n = some l ∧ launchBusy s n = false ∧
      l.st = .ending status dsub dig) ∧
    (∀ d, d < 3 → ∃ (s : State) (n : Nat) (l : Launch), mget s.launches n = some l ∧ launchBusy s n = false ∧
      l.st = .active ∧ l.serial = none ∧ l.unitsLeft = 0 ∧ digestsIn l = true ∧ l.digm = d) ∧
    (∃ (s : State) (n : Nat) (free : W64) (l : Launch), mget s.launches n = some l ∧ launchBusy s n = false ∧
      l.st = .active ∧ l.serial = some free ∧ l.unitsLeft = 0 ∧ digestsIn l = true) := by
  refine ⟨⟨sys, 0, _, rfl, rfl⟩, fun d hd => ?_,
    ⟨vacant { loadedLaunch with resident := 2 ^ 20 }, 0, _, rfl, rfl, by decide, rfl⟩,
    ⟨vacant { loadedLaunch with resident := 2 ^ 20, serial := some 1#64 }, 0, 1#64, _, rfl, rfl, by decide, rfl⟩,
    ⟨vacant { loadedLaunch with st := .ending 3 0 0#64 }, 0, 3, 0, 0#64, _, rfl, by decide, rfl⟩,
    fun d _ => ⟨vacant { loadedLaunch with unitsLeft := 0, digm := d, digests := [(0, 0#64)] }, 0, _, rfl,
      rfl, rfl, rfl, rfl, by rw [digestsIn]; simp; exact .inr rfl, rfl⟩,
    ⟨vacant { loadedLaunch with unitsLeft := 0, serial := some 1#64 }, 0, 1#64, _, rfl, by decide, rfl, rfl, rfl, by decide⟩⟩
  match d, hd with
  | 0, _ =>
    exact ⟨crowdedAt (2 ^ 22), 1, 0, { offering with waiting := 2 ^ 22, waitPrio := 2 }, _, _, _, [], 0, rfl, rfl, by decide, rfl,
      crowded_full (crowdedAt (2 ^ 22)) { offering with waiting := 2 ^ 22, waitPrio := 2 } (by decide +kernel), rfl, by decide +kernel, by decide +kernel, rfl⟩
  | 1, _ =>
    exact ⟨crowdedAt (2 ^ 22 - 1), 1, 0, { offering with waiting := 2 ^ 22 - 1, waitPrio := 2 }, _, _, _, [], 0, rfl, rfl, by decide, rfl,
      crowded_full (crowdedAt (2 ^ 22 - 1)) { offering with waiting := 2 ^ 22 - 1, waitPrio := 2 } (by decide +kernel), rfl, by decide +kernel, by decide +kernel, rfl⟩

/-- The unit is asked to leave its core. -/
def outgoing : State :=
  modU (onW (fun w => { w with pre := .requested }) sys) 0 (fun u => { u with st := .saving, mown := false, bars := [] })

/-- A wave at the exit `code` of a handler for a cause. -/
def exiting (cause code : Nat) : State :=
  onW (fun w => { w with
    pre := .handler, priv := w.priv.map (fun p => { p with cause := ⟨cause, 0#64, 0#64, 0#32, 0, 0xFF#64⟩ }) })
    (onT (fun t => { t with st := .atRcb, hold := .leave code }) priv')
where
  priv' : State :=
    onW (fun w => { w with priv := some ⟨⟨1, 0#64, 0#64, 0#32, 0, 0#64⟩, 0x4000000#64, 0, w.threads, w.em, w.cm, 0, 0#32, 0#32, 0#32, false⟩ }) sys

/-- A second wave of the unit beside it. -/
def besides : State := { exiting cPreempt 1 with waves := (exiting cPreempt 1).waves ++ [(1, { wv with slot := 1, wlog := 1 })] }

/-- The wave of a state. -/
def wave0 (s : State) : Wave := (mget s.waves 0).getD wv

/-- The wave of the unit is saved. -/
def allSaved : State := modU (onW (fun w => { w with pre := .saved }) sys) 0 (fun u => { u with st := .saving })

/-- What is kept of that wave. -/
def kept : SavedWave := (keepWave (wave0 allSaved)).getD ⟨0, 8, 0, 0, false, 2, none, 0#32, 0#32, 0, [], [], [], [], [], [], [], 0#64, 0#64, []⟩

/-- The unit claimed again, with its saved wave. -/
def returning : State :=
  { vacant loadedLaunch with units := [(0, { loadedUnit with st := .claimed, mown := false, saved := [kept] })] }

theorem returning_places : (tryPlace returning keepAll 0 loadedLaunch 0 (resumeWants returning 0 loadedLaunch 0)).isSome = true := by
  decide +kernel

/-- The unit at the end of its resume. -/
def resuming : State := modU (exiting cResume 0) 0 (fun u => { u with st := .resuming, saved := [kept] })

theorem witness_UnitsAreSavedAndResumed :
    (∃ (s : State) (u : Nat) (x : LUnit), mget s.units u = some x ∧ x.st = .saving ∧ x.mown = false ∧
      (getC s x.core).sampler = none ∧ unitQuiet s u x = true ∧ (∃ e ∈ s.waves, e.2.unit = u) ∧
      (∀ e ∈ s.waves, e.2.unit = u → atPoint s e.2 = true ∧ e.2.pre ≠ .handler ∧ e.2.pre ≠ .saved) ∧
      ∀ e ∈ s.binds, e.2.unit = u → e.2.pending = false ∧ e.2.state ≠ 6) ∧
    (∃ (s : State) (k : Nat) (w : Wave), mget s.waves k = some w) ∧ (∃ (xblk : Nat) (t : Thread), t.live = true ∧ xblk = 2) ∧
    (∃ (s : State) (k : Nat) (w : Wave) (p : Priv), mget s.waves k = some w ∧ w.priv = some p ∧ p.cause.code = cPreempt ∧
      w.pre = .handler ∧ w.ldq = [] ∧ w.stq = [] ∧ w.owes = false ∧ atExit w 1 = true) ∧
    (∃ (s : State) (k : Nat) (w : Wave) (p : Priv), mget s.waves k = some w ∧ w.priv = some p ∧ p.cause.code = cPreempt ∧
      w.pre = .handler ∧ w.ldq = [] ∧ w.stq = [] ∧ w.owes = false ∧ atExit w 1 = true ∧
      (∃ e ∈ s.waves, e.1 ≠ k ∧ e.2.unit = w.unit ∧ e.2.pre ≠ .saved ∧ (∃ t ∈ e.2.threads, t.live = true)) ∧ keysFrom 0 s.waves = true) ∧
    (∃ (s : State) (u : Nat) (x : LUnit), mget s.units u = some x ∧ (∃ e ∈ s.waves, e.2.unit = u) ∧
      ∀ e ∈ s.waves, e.2.unit = u → e.2.pre = .saved ∧ e.2.det = false ∧ (∃ t ∈ e.2.threads, t.live = true)) ∧
    (∃ (s : State) (u : Nat) (x : LUnit) (l : Launch) (w : Work2), mget s.units u = some x ∧ mget s.launches x.launch = some l ∧
      l.st = .active ∧ x.st = .claimed ∧ x.saved ≠ [] ∧ hasRefused s u = false ∧ inOrder s x.launch l = true ∧
      (∀ e ∈ (savedGang s x.launch l x.ord).map (·.2), e.2.st = .claimed) ∧
      tryPlace s keepAll x.launch l x.junction (resumeWants s x.launch l x.ord) = some w ∧
      ∀ e ∈ ((savedGang s x.launch l x.ord).map (·.2)).zip w.out, seenOn s (e.1.2.die.getD (e.2.core / 48)) (e.2.core / 48) = true) ∧
    (∃ (s : State) (u : Nat) (x : LUnit), mget s.units u = some x) ∧
    (∃ (s : State) (u : Nat) (x : LUnit), mget s.units u = some x ∧ x.st = .resuming ∧
      (∀ e ∈ s.binds, e.2.unit = u → e.2.pending = false) ∧ (∃ e ∈ s.waves, e.2.unit = u) ∧
      ∀ e ∈ s.waves, e.2.unit = u → atExit e.2 0 = true ∧ (∃ p, e.2.priv = some p ∧ p.cause.code = cResume) ∧ e.2.stq = [] ∧
        e.2.owes = false ∧
        agreeing (x.saved.filter (fun v => decide (v.wlog * v.grant < (e.2.wlog + 1) * e.2.grant) &&
          decide (e.2.wlog * e.2.grant < (v.wlog + 1) * v.grant))) = true) ∧
    (∃ (s : State) (cid epoch fn queue : Nat) (pages : List Nat) (x : Context), mget s.contexts cid = some x ∧
      x.retiring.find? (fun r => r.1 == epoch) = some (epoch, pages, fn, queue) ∧ holdsEpoch s cid epoch = false) := by
  refine ⟨⟨outgoing, 0, _, rfl, rfl, rfl, rfl, by decide +kernel, ⟨_, .head _, rfl⟩, by decide +kernel, by decide +kernel⟩, ⟨sys, 0, wv, rfl⟩,
    ⟨2, startThread (fun _ => 0#64) 2 0 0 0#64, by decide, rfl⟩,
    ⟨exiting cPreempt 1, 0, wave0 (exiting cPreempt 1), _, rfl, rfl, rfl, rfl, rfl, rfl, by decide +kernel, by decide +kernel⟩,
    ⟨besides, 0, wave0 (exiting cPreempt 1), _, rfl, rfl, rfl, rfl, rfl, rfl, by decide +kernel, by decide +kernel,
      ⟨_, .tail _ (.head _), by decide, rfl, by decide, _, .head _, by decide⟩, by decide +kernel⟩,
    ⟨allSaved, 0, _, rfl, ⟨_, .head _, rfl⟩, ?_⟩,
    ⟨returning, 0, _, loadedLaunch, _, rfl, rfl, rfl, rfl, List.cons_ne_nil _ _, by decide +kernel, by decide +kernel, by decide +kernel,
      (Option.some_get returning_places).symm, by decide +kernel⟩, ⟨sys, 0, _, rfl⟩,
    ⟨resuming, 0, _, rfl, rfl, by decide +kernel, ⟨_, .head _, rfl⟩, ?_⟩,
    ⟨modX (vacant { loadedLaunch with st := .done }) 1 (fun x => { x with retiring := [(5, [1], 1, 0)] }), 1, 5, 1, 0, [1], _, rfl, rfl, by decide +kernel⟩⟩
  · intro e he _
    obtain rfl : e = (0, wave0 allSaved) := by
      rcases he with _ | ⟨_, h⟩
      · rfl
      · exact nomatch h
    exact ⟨rfl, rfl, _, .head _, by decide⟩
  · intro e he _
    obtain rfl : e = (0, wave0 resuming) := by
      rcases he with _ | ⟨_, h⟩
      · rfl
      · exact nomatch h
    exact ⟨by decide +kernel, ⟨_, rfl, rfl⟩, rfl, by decide +kernel, by decide +kernel⟩

/-- A device with a sharded page at address 0 owned by this context on this device. -/
def sharded : State :=
  { sys with
    mem := putBytes (putBytes (putBytes sys.mem 0x20000 (bytesOf 8 0x30001)) 0x30000 (bytesOf 8 0x40001)) 0x40000
      (bytesOf 8 (3 * 2 ^ 60 + 5 * 2 ^ 52 + 0x2000000 + 0xE3)),
    parts := sys.parts.map (fun e => (e.1, { e.2 with shards := [(5, [(1, 0), (1, 0)])] })) }

/-- That device with messages of one flow to be taken up; a write that it has not seen everywhere (1), or a poisoned granule (2). -/
def asked (what : Nat) (msgs : List (List Nat)) : State :=
  { sharded with
    trunk := { sharded.trunk with inbox := msgs.map (fun m => (3, m)) },
    vis := if what = 1 then [⟨4, [(0x2000000, 0#8)], 1, [0, 1, 0, 0], []⟩] else [],
    poison := if what = 2 then [0x100000] else [] }

/-- A load whose lane waits for a sharded owner. -/
def farLoad : Access := { id := 9, op := .load 4, lanes := [⟨3, 0x2000000, .remote 7 1 0x2000000 5 0, []⟩], dest := some (8, false),
                          addr := 0x1000000#64, word := 0, after := [], performed := false, user := true, folds := [], slot := none }

/-- Its word, with thread 3 at it. -/
def farHeld : Held :=
  { addr := 0x1000000#64, accs := [farLoad], got := [], tids := [3], dest := some (2#7, false), scal := none, kinds := 17, own := false,
    last := false }

/-- The wave with it. -/
def farWave : Wave := { wv with held := [farHeld] }

/-- The device with it. -/
def farWaiting (msgs : List (List Nat)) : State := onW (fun w => { w with held := [farHeld] }) (asked 0 msgs)

/-- The word once its owner has answered, or refused. -/
def cameBack (refused : Bool) : Held :=
  { farHeld with got := [(9, { tid := 3, va := 0x2000000, place := if refused then .failed else .answered 0, data := [6] })] }

/-- A partition with a held fault, and an open record of the same block or none. -/
def holding (same : Bool) : State :=
  { sys with
    mem := putBytes sys.mem 0x280000 (bytesOf 64 (freshRec 0 1 0x600000 0 1 1)),
    parts := sys.parts.map (fun e => (e.1, { e.2 with
      seqNext := 1, recs := [(0, 1, 0x600000)], heldFaults := [(7, 1, if same then 0x608000 else 0x808000, 1, 1, 0)] })) }

theorem witness_TranslationsFaultsAndShardedAccesses :
    (∃ (s : State) (tlb cid va e size : Nat) (c : Context), mget s.contexts cid = some c ∧ c.ended = false ∧ va < 2 ^ 56 ∧
      inAperture c va = false ∧ tlb = 191 ∧ walk s c va = .leaf e size) ∧
    (∃ (s : State) (tlb cid va e size : Nat) (c : Context), mget s.contexts cid = some c ∧ c.ended = false ∧ va < 2 ^ 56 ∧
      inAperture c va = false ∧ tlb = 195 ∧ walk s c va = .leaf e size) ∧
    (∃ (s : State) (cid va r : Nat) (c : Context), mget s.contexts cid = some c ∧ c.ended = false ∧ va = 2 ^ 56 - 1 ∧
      inAperture c va = false ∧ walk s c va = .fault r) ∧
    (∃ (s : State) (id : Nat) (v : Inval), s.invals.find? (fun v => v.id == id) = some v ∧ v.waitFor ≠ []) ∧
    (∃ (s : State) (part n cid va reason kind src : Nat) (p : Partition) (l : List (Nat × Nat × Nat × Nat × Nat × Nat)),
      mget s.parts part = some p ∧ p.heldFaults = (n, cid, va, reason, kind, src) :: l ∧
      openRec s p cid (va / 2 ^ 21 * 2 ^ 21) p.recs = none ∧ slotFree s p = true) ∧
    (∃ (s : State) (part n cid va reason kind src seq : Nat) (p : Partition) (l : List (Nat × Nat × Nat × Nat × Nat × Nat)),
      mget s.parts part = some p ∧ p.heldFaults = (n, cid, va, reason, kind, src) :: l ∧
      openRec s p cid (va / 2 ^ 21 * 2 ^ 21) p.recs = some seq) ∧
    (∃ (s : State) (flow : Nat) (msg : List Nat) (rest : List (Nat × List Nat)), s.trunk.inbox = (flow, msg) :: rest ∧ rest ≠ []) ∧
    (∃ (s s' : State) (dev mcid va ssn kind data : Nat), takeInbox s [4, dev, mcid, va, ssn, kind, data] = some s' ∧
      ownerPlace s' mcid va ssn (sharedOf kind) = none) ∧
    (∃ (s s' : State) (dev mcid va ssn kind data pa : Nat), takeInbox s [4, dev, mcid, va, ssn, kind, data] = some s' ∧
      ownerPlace s' mcid va ssn (sharedOf kind) = some (.single pa) ∧ sharedReady s' (sharedOf kind) (.single pa) va = false) ∧
    (∃ (s s' : State) (dev mcid va ssn kind data pa g : Nat) (b : Bool), takeInbox s [4, dev, mcid, va, ssn, kind, data] = some s' ∧
      ownerPlace s' mcid va ssn (sharedOf kind) = some (.single pa) ∧ sharedReady s' (sharedOf kind) (.single pa) va = true ∧
      badGranule s' (.single pa) (sharedOf kind).size va = some (g, b)) ∧
    (∀ what, what = 1 ∨ what = 2 → ∃ (s s' : State) (dev mcid va ssn kind data pa : Nat),
      takeInbox s [4, dev, mcid, va, ssn, kind, data] = some s' ∧ ownerPlace s' mcid va ssn (sharedOf kind) = some (.single pa) ∧
      sharedReady s' (sharedOf kind) (.single pa) va = true ∧ badGranule s' (.single pa) (sharedOf kind).size va = none ∧
      (sharedOf kind).what = what) ∧
    (∀ ok, ok < 4 → ∃ (s s' : State) (k id tid data dev mcid va ssn cls : Nat) (w : Wave) (h : Held) (a : Access) (l : Lane)
      (p : Partition), k < 2 ^ 20 ∧ tid < 2 ^ 16 ∧ mget s'.waves k = some w ∧ w.heldFor id = some h ∧
      h.pending id tid = some (a, l) ∧ l.place = .remote dev mcid va ssn cls ∧
      mget s'.parts (partOf s' w.cid) = some p ∧ mayTravel w a = true ∧ mayWriteFar s' w a = true ∧
      takeInbox s [5, k, id, tid, ok, data] = some s' ∧ (mget p.shards ssn).isSome = true ∧ w.priv = none) ∧
    (∃ (s : State) (k id tid dev mcid va ssn cls : Nat) (w : Wave) (h : Held) (a : Access) (l : Lane) (p : Partition), k < 2 ^ 20 ∧
      tid < 2 ^ 16 ∧ mget s.waves k = some w ∧ w.heldFor id = some h ∧ h.pending id tid = some (a, l) ∧
      l.place = .remote dev mcid va ssn cls ∧ mget s.parts (partOf s w.cid) = some p ∧ mayTravel w a = true ∧
      mayWriteFar s w a = true ∧ takeInbox s [5, k, id, tid, 0, 0] = none ∧ hasRoute s dev = false ∧ w.priv = none) ∧
    (∃ (s : State) (k : Nat) (w : Wave) (h : Held), mget s.waves k = some w ∧ h ∈ w.held ∧ h.refusals = []) ∧
    (∃ (s : State) (k : Nat) (w : Wave) (h : Held), mget s.waves k = some w ∧ h ∈ w.held ∧ h.refusals ≠ [] ∧ w.priv = none) ∧
    (∃ (s : State) (k : Nat) (w : Wave) (h : Held), mget s.waves k = some w ∧ h ∈ w.held ∧ h.refusals ≠ [] ∧ w.priv.isSome = true) := by
  refine ⟨⟨sys, 191, 1, 0x1000000, 0xE3, 2 ^ 30, loadedContext, rfl, rfl, by decide, by decide, rfl, by decide +kernel⟩,
    ⟨sys, 195, 1, 0x1000000, 0xE3, 2 ^ 30, loadedContext, rfl, rfl, by decide, by decide, rfl, by decide +kernel⟩,
    ⟨sys, 1, 2 ^ 56 - 1, 1, loadedContext, rfl, rfl, rfl, by decide, by decide +kernel⟩,
    ⟨{ sys with invals := [⟨3, 1, 0, 0, 0x3F0000, 5, 1, 0, [(0, 9)]⟩] }, 3, _, rfl, by decide⟩,
    ⟨holding false, 0, 7, 1, 0x808000, 1, 1, 0, _, [], rfl, rfl, by decide +kernel, by decide +kernel⟩,
    ⟨holding true, 0, 7, 1, 0x608000, 1, 1, 0, 0, _, [], rfl, rfl, by decide +kernel⟩,
    ⟨asked 0 [[1], [2]], 3, [1], [(3, [2])], rfl, by decide⟩,
    ⟨asked 0 [[4, 7, 9, 0, 5, 0x801, 6]], asked 0 [], 7, 9, 0, 5, 0x801, 6, by decide +kernel, by decide +kernel⟩,
    ⟨asked 1 [[4, 7, 1, 0, 5, 0x801, 6]], asked 1 [], 7, 1, 0, 5, 0x801, 6, 0x2000000, by decide +kernel, by decide +kernel, by decide +kernel⟩,
    ⟨asked 2 [[4, 7, 1, 0, 5, 0x801, 6]], asked 2 [], 7, 1, 0, 5, 0x801, 6, 0x2000000, 0x100000, true, by decide +kernel, by decide +kernel,
      by decide +kernel, by decide +kernel⟩, ?_,
    fun ok _ => ⟨farWaiting [[5, 0, 9, 3, ok, 6]], farWaiting [], 0, 9, 3, 6, 7, 1, 0x2000000, 5, 0, farWave, farHeld, farLoad,
      ⟨3, 0x2000000, .remote 7 1 0x2000000 5 0, []⟩, _, by decide, by decide, rfl, rfl, rfl, rfl, rfl, by decide +kernel, by decide +kernel, by simp [takeInbox, farWaiting, asked, onW, modW], by decide +kernel, rfl⟩,
    ⟨farWaiting [], 0, 9, 3, 7, 1, 0x2000000, 5, 0, farWave, farHeld, farLoad, ⟨3, 0x2000000, .remote 7 1 0x2000000 5 0, []⟩, _, by decide,
      by decide, rfl, rfl, rfl, rfl, rfl, by decide +kernel, by decide +kernel, by decide +kernel, by decide +kernel, rfl⟩,
    ⟨onW (fun w => { w with held := [cameBack false] }) sys, 0, { wv with held := [cameBack false] }, cameBack false, rfl, .head _, by decide⟩,
    ⟨onW (fun w => { w with held := [cameBack true] }) sys, 0, { wv with held := [cameBack true] }, cameBack true, rfl, .head _, by decide,
      rfl⟩,
    ⟨onW (fun w => { w with held := [cameBack true] }) (exiting 1 0), 0, { wave0 (exiting 1 0) with held := [cameBack true] }, cameBack true,
      rfl, .head _, by decide, rfl⟩⟩
  rintro what (rfl | rfl)
  · exact ⟨asked 0 [[4, 7, 1, 0, 5, 0x801, 6]], asked 0 [], 7, 1, 0, 5, 0x801, 6, 0x2000000, by decide +kernel, by decide +kernel,
      by decide +kernel, by decide +kernel, rfl⟩
  · exact ⟨asked 0 [[4, 7, 1, 0, 5, 0x802, 6]], asked 0 [], 7, 1, 0, 5, 0x802, 6, 0x2000000, by decide +kernel, by decide +kernel,
      by decide +kernel, by decide +kernel, rfl⟩

theorem witness_MemoryErrorsAndPredictiveCounters :
    (∃ (s : State) (g cid core : Nat), g < 2 ^ 40 ∧ mget s.tags (lineOf g) = some (cid, core)) ∧
    (∃ (s : State) (line c core : Nat), mget s.tags line = some (c, core)) ∧
    (∃ (s : State) (g cid part : Nat), g < memSize / 32 ∧ cid = 2 ^ 16 - 1 ∧ mget s.contexts (cid + 2 ^ 16 * (part + 1)) = none) ∧
    (∃ (s : State) (g cid : Nat) (x : Context), g < memSize / 32 ∧ cid < 2 ^ 16 ∧ mget s.contexts cid = some x ∧ x.ended = false) ∧
    (∃ (s : State) (g cid : Nat), g < memSize / 32 ∧ cid < 2 ^ 16 ∧ mget s.contexts cid = none) ∧
    (∃ (s : State) (g : Nat), g = 2 ^ 40 - 1 ∧ mget s.tags (lineOf g) = none) ∧ (∃ g, g = memSize / 32 - 1 ∧ g < memSize / 32) ∧
    (∃ (pile g unit n : Nat), memSize / 32 ≤ g ∧ n = 1 ∧ unit < 2 ^ 32 ∧ unit % 2 ^ 16 = 0xFFFF ∧
      unit / 2 ^ 24 = 5 * 2 ^ 4 + 8 + pile % 8 ∧ pile / 8 % 2 = 1) ∧
    (∃ (pile g unit n : Nat), memSize / 32 ≤ g ∧ n = 1 ∧ unit < 2 ^ 32 ∧ unit % 2 ^ 16 = 0 ∧
      unit / 2 ^ 24 = 5 * 2 ^ 4 + 8 + pile % 8 ∧ pile / 8 % 2 = 0) ∧
    (∃ unit n, unit = 2 ^ 32 - 1 ∧ unit / 2 ^ 28 ≠ 5 ∧ n = 2 ^ 32 - 1) ∧ (∃ unit n, unit = 0 ∧ unit / 2 ^ 28 ≠ 5 ∧ n = 2 ^ 32) :=
  ⟨⟨{ sys with tags := [(lineOf 5, 1, 0)] }, 5, 1, 0, by decide, by simp [mget]⟩, ⟨{ sys with tags := [(3, 1, 0)] }, 3, 1, 0, rfl⟩,
    ⟨sys, memSize / 32 - 1, 2 ^ 16 - 1, 0, by decide +kernel, rfl, by decide +kernel⟩,
    ⟨sys, 0, 1, _, by decide +kernel, by decide, rfl, rfl⟩,
    ⟨State.reset, memSize / 32 - 1, 1, by decide +kernel, by decide, rfl⟩, ⟨sys, 2 ^ 40 - 1, rfl, rfl⟩, ⟨memSize / 32 - 1, rfl, by decide +kernel⟩,
    ⟨15, memSize / 32, 0x5F00FFFF, 1, Nat.le_refl _, rfl, by decide, by decide, by decide, by decide⟩,
    ⟨7, memSize / 32, 0x5F000000, 1, Nat.le_refl _, rfl, by decide, by decide, by decide, by decide⟩,
    ⟨2 ^ 32 - 1, 2 ^ 32 - 1, rfl, by decide, rfl⟩, ⟨0, 2 ^ 32, rfl, by decide, rfl⟩⟩

end Sys2Proof.Tests
end

section
/-! PROOFS. `getw` (06 R231): its word, and what it leaves of the wave that executes it. -/

namespace Sys2Proof.Proofs.Getw

open Sys2Proof.Machine Sys2Proof.Terms Sys2Proof.Laws

theorem exec_getw (m : Bool) (d : SReg) (s : State) : exec (.getw m d) s = execGetw m d s := rfl

/-- OP 0x04 and F 2 are the fixed bits of the word; the marker and SD are its only fields (05 R181). -/
theorem encode_getw (m : Bool) (d : SReg) :
    encode (.getw m d) = some ((if m then 2 ^ 31 else 0) + 0x04 * 2 ^ 25 + d.toNat * 2 ^ 19 + 2 * 2 ^ 8) := by
  show some (0x08000200 + sv d 19 + mk m) = _
  cases m <;> simp only [sv, mk, Option.some.injEq, Bool.false_eq_true, ↓reduceIte] <;> omega

/-- `getw` completes as a word whose scalar result, the grant, is written at once. -/
theorem getw_scalEffect {m : Bool} {d : SReg} {s : State} {w : Wave} (h : Runs s w [] false false) :
    ∃ w', Leaves (.getw m d) s s w' ∧ ScalEffect s w w' ⟨m, false, false, d, fun _ w => BitVec.ofNat 64 w.grant⟩ := by
  obtain ⟨w', hnext, heffect⟩ := runScal_value (f := Form.sc0 m) (always := false) (d := d) (lat := 2) (wimm := false)
    (val := fun _ w => BitVec.ofNat 64 w.grant)
    (act := fun _ w e => writeScal w e.tids d.toNat 2 (BitVec.ofNat 64 w.grant)) h rfl
  rw [sc0_last] at heffect
  exact ⟨w', (exec_getw m d s).trans hnext, heffect⟩

/-- Settles O2: `getw` has the shape of a scalar result, which with a thread active reaches S(SD) and no other register. -/
theorem getwReadsTheGrant : Obligations.GetwReadsTheGrant := by
  intro m d
  refine ⟨encode_getw m d, fun s w hruns hactive => ?_⟩
  obtain ⟨w', hleaves, hthreads, hscal, hframe⟩ := getw_scalEffect (m := m) (d := d) hruns
  refine ⟨w', ?_, fun j hj => ?_, hthreads, hframe, hleaves⟩
  · rw [hscal, if_pos ⟨.inr hactive, rfl⟩]
  · rw [hscal, if_neg fun h => hj h.2]

end Sys2Proof.Proofs.Getw
end

section
/-! PROOFS. `mix` (13 R405): the model's arithmetic on `Nat` against the rule's operators on 64-bit words. -/

namespace Sys2Proof.Proofs.Mix

open Sys2Proof.Machine

/-- The bits a left rotate brings round lie below those it shifts up, so joining the two parts is adding them. -/
theorem toNat_rotateLeft_eq_add {n r : Nat} (x : BitVec n) (h : r < n) :
    (x.rotateLeft r).toNat = x.toNat * 2 ^ r % 2 ^ n + x.toNat / 2 ^ (n - r) := by
  have hsplit : 2 ^ n = 2 ^ r * 2 ^ (n - r) := by rw [← pow_add, Nat.add_sub_cancel' h.le]
  have hlow : x.toNat / 2 ^ (n - r) < 2 ^ r :=
    Nat.div_lt_of_lt_mul (by rw [mul_comm, ← hsplit]; exact x.isLt)
  have hhigh : x.toNat * 2 ^ r % 2 ^ n = 2 ^ r * (x.toNat % 2 ^ (n - r)) := by
    rw [hsplit, mul_comm, Nat.mul_mod_mul_left]
  rw [BitVec.toNat_rotateLeft, Nat.mod_eq_of_lt h, Nat.shiftLeft_eq, Nat.shiftRight_eq_div_pow, hhigh,
    Nat.two_pow_add_eq_or_of_lt hlow]

theorem toNat_xor_ushiftRight {n : Nat} (x : BitVec n) (k : Nat) :
    (x ^^^ x >>> k).toNat = x.toNat ^^^ x.toNat / 2 ^ k := by
  rw [BitVec.toNat_xor, BitVec.toNat_ushiftRight, Nat.shiftRight_eq_div_pow]

/-- Settles O37: each line of R405 has the value of the model's line, and the four compose. -/
theorem mixFollowsItsFormula : Obligations.MixFollowsItsFormula := by
  intro h w a b c
  have ha : a.toNat = (h.toNat ^^^ w.toNat) * 0x9E3779B97F4A7C15 % 2 ^ 64 := by
    rw [BitVec.toNat_mul, BitVec.toNat_xor]; rfl
  have hb : b.toNat = a.toNat ^^^ a.toNat / 2 ^ 31 := toNat_xor_ushiftRight a 31
  have hc : c.toNat = (b.toNat * 2 ^ 27 % 2 ^ 64 + b.toNat / 2 ^ 37) * 0xC2B2AE3D27D4EB4F % 2 ^ 64 := by
    rw [BitVec.toNat_mul, toNat_rotateLeft_eq_add b (by decide)]; rfl
  rw [toNat_xor_ushiftRight, hc, hb, ha, mix]

end Sys2Proof.Proofs.Mix
end

section
/-! PROOFS. `shardOwner` (14 R434): the mix of R405 stays a 64-bit word, so its upper half scales a set to one of its members. -/

namespace Sys2Proof.Proofs.ShardOwner

open Sys2Proof.Machine

theorem mix_lt (h w : Nat) : mix h w < 2 ^ 64 := by
  rw [mix]
  exact Nat.xor_lt_two_pow (Nat.mod_lt _ (by decide))
    ((Nat.div_le_self _ _).trans_lt (Nat.mod_lt _ (by decide)))

theorem mix_upperHalf_lt (h w : Nat) : mix h w / 2 ^ 32 < 2 ^ 32 :=
  Nat.div_lt_of_lt_mul (mix_lt h w)

/-- Bits 55 to 15 of an address are its whole page number: no bit of a 56-bit address lies above them. -/
theorem pageNumber_eq_div (va : BitVec 56) : (va.extractLsb 55 15).toNat = va.toNat / 32768 := by
  rw [BitVec.extractLsb_toNat, Nat.shiftRight_eq_div_pow]
  exact Nat.mod_eq_of_lt (Nat.div_lt_of_lt_mul va.isLt)

/-- R434 as it is written, with the upper half of the mix and bits 55 to 15 of the address. -/
theorem shardOwner_eq (va : BitVec 56) (ns : Nat) :
    shardOwner va.toNat ns = mix 0 (va.extractLsb 55 15).toNat / 2 ^ 32 % 2 ^ 32 * ns / 2 ^ 32 := by
  rw [Nat.mod_eq_of_lt (mix_upperHalf_lt _ _), pageNumber_eq_div, shardOwner]

/-- A 32-bit fraction of `ns` falls short of `ns`. -/
theorem shardOwner_lt (va : Nat) {ns : Nat} (hns : 0 < ns) : shardOwner va ns < ns :=
  Nat.div_lt_of_lt_mul (Nat.mul_lt_mul_of_pos_right (mix_upperHalf_lt _ _) hns)

/-- Settles O38: the address enters R434 through its page number alone. -/
theorem shardOwnersFollowTheirFormula : Obligations.ShardOwnersFollowTheirFormula := by
  intro va ns
  refine ⟨shardOwner_eq va ns, shardOwner_lt va.toNat, fun va' hpage => ?_⟩
  rw [shardOwner_eq, shardOwner_eq, hpage]

end Sys2Proof.Proofs.ShardOwner
end

section
/-! PROOFS. The decoder inverts the encoder (05 R173-R191): what each bit field of an assembled word reads. -/

set_option Elab.async false -- one proof at a time: the check bounds memory

namespace Sys2Proof.Proofs.Codec

open Sys2Proof

/-! A word is its base with fields put into places that are free there: each field reads back, and every other bit is the
base's. -/

/-- Two ranges of bits share none. -/
def apart (lo n low k : Nat) : Bool := Nat.ble (lo + n) low || Nat.ble (low + k) lo

section Fields

variable {u lo n low k : Nat}

theorem num_add_below (x : BitVec k) (h : lo + n ≤ low) : num (u + sv x low) lo n = num u lo n := by
  obtain ⟨j, rfl⟩ := Nat.exists_eq_add_of_le h
  have hmul : sv x (lo + n + j) = 2 ^ lo * (2 ^ n * (2 ^ j * x.toNat)) := by rw [sv, pow_add, pow_add]; ring
  rw [num, num, hmul, Nat.add_mul_div_left _ _ (Nat.two_pow_pos lo), Nat.add_mul_mod_self_left]

theorem num_add_above (x : BitVec k) (hfree : num u low k = 0) (h : low + k ≤ lo) :
    num (u + sv x low) lo n = num u lo n := by
  obtain ⟨j, rfl⟩ := Nat.exists_eq_add_of_le h
  have habove : (u + sv x low) / 2 ^ low / 2 ^ k = u / 2 ^ low / 2 ^ k := by
    rw [sv, Nat.add_mul_div_right _ _ (Nat.two_pow_pos low), ← Nat.div_add_mod (u / 2 ^ low) (2 ^ k),
      show u / 2 ^ low % 2 ^ k = 0 from hfree, Nat.add_zero, Nat.mul_add_div (Nat.two_pow_pos k),
      Nat.div_eq_of_lt x.isLt, Nat.mul_div_cancel_left _ (Nat.two_pow_pos k), Nat.add_zero]
  rw [num, num, pow_add, pow_add, ← Nat.div_div_eq_div_mul, ← Nat.div_div_eq_div_mul, ← Nat.div_div_eq_div_mul,
    ← Nat.div_div_eq_div_mul, habove]

/-- A field leaves the bits outside its place. -/
theorem num_add_apart (x : BitVec k) (hfree : num u low k = 0) (h : apart lo n low k = true) :
    num (u + sv x low) lo n = num u lo n := by
  rcases Bool.or_eq_true _ _ ▸ h with hlo | hhi
  · exact num_add_below x (Nat.le_of_ble_eq_true hlo)
  · exact num_add_above x hfree (Nat.le_of_ble_eq_true hhi)

/-- A field in a free place reads back. -/
theorem eq_fld_add (x : BitVec k) (hfree : num u low k = 0) : x = fld (u + sv x low) low k := by
  apply BitVec.eq_of_toNat_eq
  rw [fld, BitVec.toNat_ofNat, sv, Nat.add_mul_div_right _ _ (Nat.two_pow_pos low), Nat.add_mod,
    show u / 2 ^ low % 2 ^ k = 0 from hfree, Nat.zero_add, Nat.mod_mod, Nat.mod_eq_of_lt x.isLt]

theorem fld_eq_num (w lo n : Nat) : fld w lo n = BitVec.ofNat n (num w lo n) :=
  BitVec.eq_of_toNat_eq (by simp [fld, num])

end Fields

/-- A value and the place of its lowest bit. -/
structure Field where
  width : Nat
  value : BitVec width
  low : Nat

def Field.place (f : Field) : Nat := sv f.value f.low

/-- The lowest bit and the width. -/
def Field.range (f : Field) : Nat × Nat := (f.low, f.width)

/-- Bits that none of the ranges has. -/
def outside (lo n : Nat) : List (Nat × Nat) → Bool
  | [] => true
  | (low, k) :: ps => apart lo n low k && outside lo n ps

/-- The base has every range free, and no two ranges share a bit. -/
def free (base : Nat) : List (Nat × Nat) → Bool
  | [] => true
  | (low, k) :: ps => Nat.beq (num base low k) 0 && outside low k ps && free base ps

/-- A word that reads as its fields, and as the base everywhere else. -/
structure Reads (base w : Nat) (fs : List Field) : Prop where
  field : ∀ f ∈ fs, f.value = fld w f.low f.width
  rest : ∀ {lo n}, outside lo n (fs.map Field.range) = true → num w lo n = num base lo n

theorem fld_congr {w v lo n : Nat} (h : num w lo n = num v lo n) : fld w lo n = fld v lo n := by
  rw [fld_eq_num, h, ← fld_eq_num]

theorem outside_field {lo n : Nat} {fs : List Field} (h : outside lo n (fs.map Field.range) = true) : ∀ f ∈ fs, apart lo n f.low f.width = true := by
  induction fs with
  | nil => exact fun _ hf => absurd hf (List.not_mem_nil)
  | cons g fs ih =>
    obtain ⟨hg, hrest⟩ := Bool.and_eq_true _ _ ▸ h
    exact fun f hf => (List.mem_cons.mp hf).elim (fun hfg => hfg ▸ hg) (ih hrest f)

theorem apart_comm {lo n low k : Nat} (h : apart lo n low k = true) : apart low k lo n = true :=
  (Bool.or_comm _ _).trans h

theorem reads_pk {base : Nat} {fs : List Field} (h : free base (fs.map Field.range) = true) : Reads base (pk base (fs.map Field.place)) fs := by
  induction fs with
  | nil => exact ⟨fun _ hf => absurd hf (List.not_mem_nil), fun _ => rfl⟩
  | cons g fs ih =>
    obtain ⟨hg, hrest⟩ := Bool.and_eq_true _ _ ▸ h
    obtain ⟨hbase, hapart⟩ := Bool.and_eq_true _ _ ▸ hg
    have hfs := ih hrest
    have hplace : num (pk base (fs.map Field.place)) g.low g.width = 0 :=
      (hfs.rest hapart).trans (Nat.eq_of_beq_eq_true hbase)
    constructor
    case field =>
      intro f hf
      rcases List.mem_cons.mp hf with rfl | hf
      · exact eq_fld_add _ hplace
      · have hfg := apart_comm (outside_field hapart f hf)
        exact (hfs.field f hf).trans (fld_congr (num_add_apart g.value hplace hfg)).symm
    case rest =>
      intro lo n hout
      obtain ⟨hapg, hout⟩ := Bool.and_eq_true _ _ ▸ hout
      exact (num_add_apart g.value hplace hapg).trans (hfs.rest hout)

theorem bit_eq_fld (w k : Nat) : BitVec.ofBool (bit w k) = fld w k 1 := by
  have h : num w k 1 < 2 := Nat.mod_lt _ (by decide)
  rw [fld_eq_num, show bit w k = (num w k 1 == 1) from rfl]
  rcases Nat.le_one_iff_eq_zero_or_eq_one.mp (Nat.le_of_lt_succ h) with h | h <;> rw [h] <;> rfl

/-- A field of one bit. -/
abbrev flag (b : Bool) (lo : Nat) : Field := ⟨1, BitVec.ofBool b, lo⟩

theorem place_flag (b : Bool) (lo : Nat) : (flag b lo).place = sb b lo := by
  cases b <;> simp [Field.place, flag, sb, sv]

theorem ofBool_inj {a b : Bool} (h : BitVec.ofBool a = BitVec.ofBool b) : a = b := by
  have hbit := congrArg (·.getLsbD 0) h
  simpa using hbit

theorem Reads.flag {base w lo : Nat} {fs : List Field} {b : Bool} (h : Reads base w fs) (hb : Codec.flag b lo ∈ fs) :
    b = bit w lo :=
  ofBool_inj ((h.field _ hb).trans (bit_eq_fld w lo).symm)

/-- The mark of an instruction and its fields, as a word. -/
theorem marked_eq (base : Nat) (m : Bool) (fs : List Field) :
    pk base (mk m :: fs.map Field.place) = pk base ((flag m 31 :: fs).map Field.place) := by
  rw [List.map_cons, place_flag]
  rfl

section Words

variable {base : Nat} {m : Bool} {i : Instr}

theorem parse_word (fs : List Field) (hfree : free base ((31, 1) :: fs.map Field.range) = true)
    (h : ∀ w, m = bit w 31 → Reads base w (flag m 31 :: fs) → parse w = some i) :
    parse (pk base (mk m :: fs.map Field.place)) = some i := by
  have hreads := marked_eq base m fs ▸ reads_pk hfree
  exact h _ (hreads.flag (List.mem_cons_self)) hreads

/-! The same for each number of fields, the fields named. -/

theorem parse_marked (hfree : free base [(31, 1)] = true)
    (h : ∀ w, m = bit w 31 → (∀ lo n, outside lo n [(31, 1)] = true → num w lo n = num base lo n) → parse w = some i) :
    parse (pk base [mk m]) = some i :=
  parse_word [] hfree fun w hm hr => h w hm fun _ _ => hr.rest

theorem parse_one {k p : Nat} {x : BitVec k}
    (hfree : free base [(31, 1), (p, k)] = true)
    (h : ∀ w, m = bit w 31 → x = fld w p k →
      (∀ lo n, outside lo n [(31, 1), (p, k)] = true → num w lo n = num base lo n) → parse w = some i) :
    parse (pk base [mk m, sv x p]) = some i :=
  parse_word [⟨k, x, p⟩] hfree fun w hm hr => h w hm
    (hr.field ⟨k, x, p⟩ (by simp))
    fun _ _ => hr.rest

theorem parse_two {k p j q : Nat} {x : BitVec k} {y : BitVec j}
    (hfree : free base [(31, 1), (p, k), (q, j)] = true)
    (h : ∀ w, m = bit w 31 → x = fld w p k → y = fld w q j →
      (∀ lo n, outside lo n [(31, 1), (p, k), (q, j)] = true → num w lo n = num base lo n) → parse w = some i) :
    parse (pk base [mk m, sv x p, sv y q]) = some i :=
  parse_word [⟨k, x, p⟩, ⟨j, y, q⟩] hfree fun w hm hr => h w hm
    (hr.field ⟨k, x, p⟩ (by simp))
    (hr.field ⟨j, y, q⟩ (by simp))
    fun _ _ => hr.rest

theorem parse_three {k p j q l r : Nat} {x : BitVec k} {y : BitVec j} {z : BitVec l}
    (hfree : free base [(31, 1), (p, k), (q, j), (r, l)] = true)
    (h : ∀ w, m = bit w 31 → x = fld w p k → y = fld w q j → z = fld w r l →
      (∀ lo n, outside lo n [(31, 1), (p, k), (q, j), (r, l)] = true → num w lo n = num base lo n) → parse w = some i) :
    parse (pk base [mk m, sv x p, sv y q, sv z r]) = some i :=
  parse_word [⟨k, x, p⟩, ⟨j, y, q⟩, ⟨l, z, r⟩] hfree fun w hm hr => h w hm
    (hr.field ⟨k, x, p⟩ (by simp))
    (hr.field ⟨j, y, q⟩ (by simp))
    (hr.field ⟨l, z, r⟩ (by simp))
    fun _ _ => hr.rest

theorem parse_four {k p j q l r s d : Nat} {x : BitVec k} {y : BitVec j} {z : BitVec l} {u : BitVec s}
    (hfree : free base [(31, 1), (p, k), (q, j), (r, l), (d, s)] = true)
    (h : ∀ w, m = bit w 31 → x = fld w p k → y = fld w q j → z = fld w r l → u = fld w d s →
      (∀ lo n, outside lo n [(31, 1), (p, k), (q, j), (r, l), (d, s)] = true → num w lo n = num base lo n) → parse w = some i) :
    parse (pk base [mk m, sv x p, sv y q, sv z r, sv u d]) = some i :=
  parse_word [⟨k, x, p⟩, ⟨j, y, q⟩, ⟨l, z, r⟩, ⟨s, u, d⟩] hfree fun w hm hr => h w hm
    (hr.field ⟨k, x, p⟩ (by simp))
    (hr.field ⟨j, y, q⟩ (by simp))
    (hr.field ⟨l, z, r⟩ (by simp))
    (hr.field ⟨s, u, d⟩ (by simp))
    fun _ _ => hr.rest

theorem parse_five {k p j q l r s d t o : Nat} {x : BitVec k} {y : BitVec j} {z : BitVec l} {u : BitVec s} {v : BitVec t}
    (hfree : free base [(31, 1), (p, k), (q, j), (r, l), (d, s), (o, t)] = true)
    (h : ∀ w, m = bit w 31 → x = fld w p k → y = fld w q j → z = fld w r l → u = fld w d s → v = fld w o t →
      (∀ lo n, outside lo n [(31, 1), (p, k), (q, j), (r, l), (d, s), (o, t)] = true → num w lo n = num base lo n) → parse w = some i) :
    parse (pk base [mk m, sv x p, sv y q, sv z r, sv u d, sv v o]) = some i :=
  parse_word [⟨k, x, p⟩, ⟨j, y, q⟩, ⟨l, z, r⟩, ⟨s, u, d⟩, ⟨t, v, o⟩] hfree fun w hm hr => h w hm
    (hr.field ⟨k, x, p⟩ (by simp))
    (hr.field ⟨j, y, q⟩ (by simp))
    (hr.field ⟨l, z, r⟩ (by simp))
    (hr.field ⟨s, u, d⟩ (by simp))
    (hr.field ⟨t, v, o⟩ (by simp))
    fun _ _ => hr.rest

end Words

theorem sb_eq (b : Bool) (lo : Nat) : sb b lo = sv (BitVec.ofBool b) lo := (place_flag b lo).symm

theorem code_eq (r : RM) (lo : Nat) : r.code * 2 ^ lo = sv (BitVec.ofNat 3 r.code) lo := by cases r <;> rfl

theorem eq_bit {b : Bool} {w lo : Nat} (h : BitVec.ofBool b = fld w lo 1) : b = bit w lo := ofBool_inj (h.trans (bit_eq_fld w lo).symm)

theorem num_eq_toNat {k : Nat} {x : BitVec k} {w lo : Nat} (h : x = fld w lo k) : num w lo k = x.toNat := by
  rw [h, fld, BitVec.toNat_ofNat, num]

theorem ofCode_num {r : RM} {w lo : Nat} (h : BitVec.ofNat 3 r.code = fld w lo 3) : RM.ofCode (num w lo 3) = some r := by
  rw [num_eq_toNat h]
  cases r <;> rfl

/-- The rounding mode of arithmetic is part of what names the instruction. -/
theorem pk_swap (base a c : Nat) (l : List Nat) : pk base (a :: c :: l) = pk (base + c) (a :: l) := by
  suffices h : pk base l + c = pk (base + c) l from congrArg (· + a) h
  induction l with
  | nil => rfl
  | cons x l ih => rw [pk, pk, ← ih, Nat.add_right_comm]

section Majors

variable {w : Nat}

theorem parse_03 (h : num w 25 6 = 3) : parse w = parse03 w := by
  rw [parse, h]
  rfl

theorem parse_04 (h : num w 25 6 = 4) : parse w = parse04 w := by
  rw [parse, h]
  rfl

theorem parse_05 (h : num w 25 6 = 5) : parse w = parse05 w := by
  rw [parse, h]
  rfl

theorem parse_06 (h : num w 25 6 = 6) : parse w = parse06 w := by
  rw [parse, h]
  rfl

theorem parse_07 (h : num w 25 6 = 7) : parse w = parse07 w := by
  rw [parse, h]
  rfl

theorem parse_08 (h : num w 25 6 = 8) : parse w = parse08 w := by
  rw [parse, h]
  rfl

theorem parse_09 (h : num w 25 6 = 9) : parse w = parse09 w := by
  rw [parse, h]
  rfl

theorem parse_0A (h : num w 25 6 = 10) : parse w = parse0A w := by
  rw [parse, h]
  rfl

theorem parse_0B (h : num w 25 6 = 11) : parse w = parse0B w := by
  rw [parse, h]
  rfl

theorem parse_0C (h : num w 25 6 = 12) : parse w = parse0C w := by
  rw [parse, h]
  rfl

theorem parse_0D (h : num w 25 6 = 13) : parse w = parse0D w := by
  rw [parse, h]
  rfl

theorem parse_0E (h : num w 25 6 = 14) : parse w = parse0E w := by
  rw [parse, h]
  rfl

theorem parse_10 (h : num w 25 6 = 16) : parse w = parse10 w := by
  rw [parse, h]
  rfl

theorem parse_11 (h : num w 25 6 = 17) : parse w = parse11 w := by
  rw [parse, h]
  rfl

theorem parse_12 (h : num w 25 6 = 18) : parse w = parse12 w := by
  rw [parse, h]
  rfl

theorem parse_13 (h : num w 25 6 = 19) : parse w = parse13 w := by
  rw [parse, h]
  rfl

theorem parse_14 (h : num w 25 6 = 20) : parse w = parse14 w := by
  rw [parse, h]
  rfl

theorem parse_15 (h : num w 25 6 = 21) : parse w = parse15 w := by
  rw [parse, h]
  rfl

theorem parse_16 (h : num w 25 6 = 22) : parse w = parse16 w := by
  rw [parse, h]
  rfl

theorem parse_17 (h : num w 25 6 = 23) : parse w = parse17 w := by
  rw [parse, h]
  rfl

theorem parse_1D (h : num w 25 6 = 29) : parse w = parse1D w := by
  rw [parse, h]
  rfl

theorem parse_1E (h : num w 25 6 = 30) : parse w = parse1E w := by
  rw [parse, h]
  rfl

theorem parse_1F (h : num w 25 6 = 31) : parse w = parse1F w := by
  rw [parse, h]
  rfl

theorem parse_shfl (h : num w 25 6 = 15) :
    parse w = some (.shfl (bit w 31) (fld w 18 7) (fld w 11 7) (fld w 4 7) (fld w 0 4)) := by
  rw [parse, h]
  rfl

/-- The majors 0x18 to 0x1C carry the rounding mode (05 R181). -/
theorem parse_arith {r : RM} {base : Nat} (h : num w 25 6 = num (base + r.code * 2 ^ 25) 25 6) (hbase : base / 2 ^ 25 = 24) :
    parse w = parseFp r w := by
  rw [num, num, Nat.add_mul_div_right _ _ (Nat.two_pow_pos 25), hbase] at h
  rw [parse, num, h]
  cases r <;> rfl

theorem parse_fused (h : 32 ≤ num w 25 6) : parse w = parseFused w := by
  unfold parse
  split
  case h_32 => rw [if_pos h]
  all_goals omega

end Majors

/-- The first two words carry no mark. -/
theorem parse_hint (stall : BitVec 4) (wmask : BitVec 16) (seten : Bool) (slot : BitVec 4) :
    parse (pk 0x02000000 [sv stall 21, sv wmask 5, sb seten 4, sv slot 0]) = some (.hint stall wmask seten slot) := by
  have hr : Reads 0x02000000 _ [⟨4, stall, 21⟩, ⟨16, wmask, 5⟩, ⟨1, BitVec.ofBool seten, 4⟩, ⟨4, slot, 0⟩] :=
    reads_pk (show free 0x02000000 [(21, 4), (5, 16), (4, 1), (0, 4)] = true from rfl)
  rw [sb_eq]
  refine (?_ : ∀ w, Reads 0x02000000 w _ → parse w = _) _ hr
  intro w hr
  have hrest : ∀ lo n, outside lo n [(21, 4), (5, 16), (4, 1), (0, 4)] = true → num w lo n = num 0x02000000 lo n :=
    fun _ _ => hr.rest
  rw [parse, hrest 25 6 rfl, show bit w 31 = (num w 31 1 == 1) from rfl, hrest 31 1 rfl,
    show stall = fld w 21 4 from hr.field ⟨4, stall, 21⟩ (by simp),
    show wmask = fld w 5 16 from hr.field ⟨16, wmask, 5⟩ (by simp), eq_bit (hr.field ⟨1, BitVec.ofBool seten, 4⟩ (by simp)),
    show slot = fld w 0 4 from hr.field ⟨4, slot, 0⟩ (by simp)]
  rfl

theorem parse_wimm (p : BitVec 25) : parse (pk 0x04000000 [sv p 0]) = some (.wimm p) := by
  have hr : Reads 0x04000000 _ [⟨25, p, 0⟩] := reads_pk (show free 0x04000000 [(0, 25)] = true from rfl)
  refine (?_ : ∀ w, Reads 0x04000000 w _ → parse w = _) _ hr
  intro w hr
  have hrest : ∀ lo n, outside lo n [(0, 25)] = true → num w lo n = num 0x04000000 lo n := fun _ _ => hr.rest
  rw [parse, hrest 25 6 rfl, show bit w 31 = (num w 31 1 == 1) from rfl, hrest 31 1 rfl,
    show p = fld w 0 25 from hr.field ⟨25, p, 0⟩ (by simp)]
  rfl

/-- The codes of `trap` are those that no return of a handler takes. -/
theorem parse_trap (m : Bool) (c : BitVec 8) (hc : 4 < c.toNat) :
    parse (pk 0x0BA00000 [mk m, sv c 0]) = some (.trap m c) := by
  refine parse_one rfl fun w hm hx hrest => ?_
  have hcode : num w 0 8 = c.toNat := num_eq_toNat hx
  have hhigh : num w 8 13 = 0 := hrest 8 13 rfl
  have hall : num w 0 21 = c.toNat := by
    simp only [num] at hcode hhigh ⊢
    omega
  rw [parse_05 (hrest 25 6 rfl), parse05, hrest 21 4 rfl, hall, hhigh, hm, ← hx]
  obtain ⟨j, hj⟩ := Nat.exists_eq_add_of_lt hc
  rw [hj, Nat.add_comm 4 j]
  rfl

theorem parse_encode (i : Instr) (n : Nat) (hw : i.wf = true) (h : encode i = some n) : parse n = some i := by
  cases i <;> cases h
  case hint => exact parse_hint _ _ _ _
  case wimm => exact parse_wimm _
  case trap c => exact parse_trap _ c (of_decide_eq_true hw)
  case shfl =>
    refine parse_four rfl fun w hm hx hy hz hu hrest => ?_
    rw [parse_shfl (hrest 25 6 rfl), hm, hx, hy, hz, hu]
  case faddF32 _ r _ _ _ | fsubF32 _ r _ _ _ | fmulF32 _ r _ _ _ | fdivF32 _ r _ _ _ | fexpiF32 _ r _ _ _ =>
    rw [pk_swap]
    cases r <;> refine parse_three rfl fun w hm hx hy hz hrest => ?_
    all_goals
      rw [parse_arith (hrest 25 6 rfl) rfl, parseFp, hrest 0 4 rfl, hm, hx, hy, hz]
      rfl
  case fsqrtF32 _ r _ _ =>
    rw [pk_swap]
    cases r <;> refine parse_two rfl fun w hm hx hy hrest => ?_
    all_goals
      rw [parse_arith (hrest 25 6 rfl) rfl, parseFp, hrest 0 4 rfl, hrest 4 7 rfl, hm, hx, hy]
      rfl
  case ffmaF32 _ r _ _ _ _ | ffmsF32 _ r _ _ _ _ | fnmaF32 _ r _ _ _ _ | fnmsF32 _ r _ _ _ _ =>
    rw [pk_swap]
    cases r <;> refine parse_four rfl fun w hm hx hy hz hu hrest => ?_
    all_goals
      rw [parse_fused (hrest 25 6 rfl ▸ of_decide_eq_true rfl), parseFused, hrest 25 3 rfl, hrest 28 2 rfl, hm, hx, hy, hz, hu]
      rfl
  case sadd | ssub | smul | smulhI64 | smulhN64 | sand | sor | sxor | sshl | sshr | ssar | sminI64 | sminN64 | smaxI64 |
      smaxN64 | sceq | scltI64 | scltN64 | scleI64 | scleN64 | sldN32 | sldN64 | sstN32 | sstN64 | sldSN32 | sstSN32 =>
    rw [sb_eq]
    refine parse_four rfl fun w hm hx hy hz hu hrest => ?_
    rw [parse_03 (hrest 25 6 rfl), parse03, hrest 8 5 rfl, hm, hx, hy, eq_bit hz, hu]
    rfl
  case smov =>
    rw [sb_eq]
    refine parse_three rfl fun w hm hx hy hz hrest => ?_
    rw [parse_03 (hrest 25 6 rfl), parse03, hrest 8 5 rfl, hrest 13 6 rfl, hm, hx, eq_bit hy, hz]
    rfl
  case rdsrScalar | xacqNb | sadr =>
    refine parse_two rfl fun w hm hx hy hrest => ?_
    rw [parse_04 (hrest 25 6 rfl), parse04, hrest 8 5 rfl, hrest 7 1 rfl, hrest 13 6 rfl, hm, hx, hy]
    rfl
  case wrsr =>
    refine parse_two rfl fun w hm hx hy hrest => ?_
    rw [parse_04 (hrest 25 6 rfl), parse04, hrest 8 5 rfl, hrest 7 1 rfl, hrest 19 6 rfl, hm, hx, hy]
    rfl
  case getw | emsave | emif | emelse =>
    refine parse_one rfl fun w hm hx hrest => ?_
    rw [parse_04 (hrest 25 6 rfl), parse04, hrest 8 5 rfl, hrest 0 8 rfl, hrest 13 6 rfl, hm, hx]
    rfl
  case setw =>
    rw [sb_eq]
    refine parse_three rfl fun w hm hx hy hz hrest => ?_
    rw [parse_04 (hrest 25 6 rfl), parse04, hrest 8 5 rfl, hrest 19 6 rfl, hm, hx, eq_bit hy, hz]
    rfl
  case xacq | xrel =>
    refine parse_one rfl fun w hm hx hrest => ?_
    rw [parse_04 (hrest 25 6 rfl), parse04, hrest 8 5 rfl, hrest 7 1 rfl, hrest 13 12 rfl, hm, hx]
    rfl
  case modeTriple | modeSingle =>
    refine parse_marked rfl fun w hm hrest => ?_
    rw [parse_04 (hrest 25 6 rfl), parse04, hrest 8 5 rfl, hrest 0 8 rfl, hrest 13 12 rfl, hm]
    rfl
  case fqryDevice | fqryNumeric | fqryPlacement =>
    refine parse_two rfl fun w hm hx hy hrest => ?_
    rw [parse_04 (hrest 25 6 rfl), parse04, hrest 8 5 rfl, hrest 0 8 rfl, hm, hx, hy]
    rfl
  case smplStart | smplStop | smplFlush | emset | emand | emandn | emor =>
    refine parse_one rfl fun w hm hx hrest => ?_
    rw [parse_04 (hrest 25 6 rfl), parse04, hrest 8 5 rfl, hrest 0 8 rfl, hrest 19 6 rfl, hm, hx]
    rfl
  case br | brc | brnc | brany | brall | call =>
    refine parse_one rfl fun w hm hx hrest => ?_
    rw [parse_05 (hrest 25 6 rfl), parse05, hrest 21 4 rfl, hm, hx]
    rfl
  case callr | jmpr =>
    refine parse_one rfl fun w hm hx hrest => ?_
    rw [parse_05 (hrest 25 6 rfl), parse05, hrest 21 4 rfl, hrest 0 14 rfl, hm, hx]
    rfl
  case ret | exit | rcb | yield | handlerReturn | handlerSaved | handlerEndWave | handlerRefuseReslice | handlerEndContext |
      nop =>
    refine parse_marked rfl fun w hm hrest => ?_
    rw [parse_05 (hrest 25 6 rfl), parse05, hrest 21 4 rfl, hrest 0 21 rfl, hm]
    rfl
  case block =>
    refine parse_one rfl fun w hm hx hrest => ?_
    rw [parse_05 (hrest 25 6 rfl), parse05, hrest 21 4 rfl, hrest 20 1 rfl, hm, hx]
    rfl
  case bar | barArr =>
    refine parse_two rfl fun w hm hx hy hrest => ?_
    rw [parse_06 (hrest 25 6 rfl), parse06, hrest 21 4 rfl, hm, hx, hy]
    rfl
  case tbar | tbarArr =>
    refine parse_one rfl fun w hm hx hrest => ?_
    rw [parse_06 (hrest 25 6 rfl), parse06, hrest 21 4 rfl, hrest 0 18 rfl, hm, hx]
    rfl
  case waitgen =>
    refine parse_two rfl fun w hm hx hy hrest => ?_
    rw [parse_06 (hrest 25 6 rfl), parse06, hrest 21 4 rfl, hrest 0 9 rfl, hm, hx, hy]
    rfl
  case waitc =>
    refine parse_two rfl fun w hm hx hy hrest => ?_
    rw [parse_06 (hrest 25 6 rfl), parse06, hrest 21 4 rfl, hrest 6 13 rfl, hm, hx, hy]
    rfl
  case fenceW =>
    refine parse_marked rfl fun w hm hrest => ?_
    rw [parse_06 (hrest 25 6 rfl), parse06, hrest 21 4 rfl, hrest 0 21 rfl, hm]
    rfl
  case addN32 | subN32 | mulN32 | mulhI32 | mulhN32 | andB32 | orB32 | xorB32 | shlB32 | shrB32 | sarB32 | minI32 | minN32 |
      maxI32 | maxN32 | addsI32 =>
    refine parse_three rfl fun w hm hx hy hz hrest => ?_
    rw [parse_07 (hrest 25 6 rfl), parse07, hrest 0 4 rfl, hm, hx, hy, hz]
    rfl
  case addN32Imm | andB32Imm | orB32Imm | xorB32Imm | shlB32Imm | shrB32Imm | sarB32Imm | rsubN32 | minI32Imm | maxI32Imm |
      addN64Imm =>
    refine parse_three rfl fun w hm hx hy hz hrest => ?_
    rw [parse_08 (hrest 25 6 rfl), parse08, hrest 7 4 rfl, hm, hx, hy, hz]
    rfl
  case movB32 | movB64 | rdsrVector =>
    refine parse_two rfl fun w hm hx hy hrest => ?_
    rw [parse_08 (hrest 25 6 rfl), parse08, hrest 7 4 rfl, hrest 11 7 rfl, hm, hx, hy]
    rfl
  case addN64 | subN64 | mulN64 | andB64 | orB64 | xorB64 | shlB64 | shrB64 | sarB64 | bfeN32 | bfeI32 | subsI32 | mulwN32
      =>
    refine parse_three rfl fun w hm hx hy hz hrest => ?_
    rw [parse_09 (hrest 25 6 rfl), parse09, hrest 0 4 rfl, hm, hx, hy, hz]
    rfl
  case popcB32 | clzB32 | brevB32 =>
    refine parse_two rfl fun w hm hx hy hrest => ?_
    rw [parse_09 (hrest 25 6 rfl), parse09, hrest 0 4 rfl, hrest 4 7 rfl, hm, hx, hy]
    rfl
  case ceqN32 | cneN32 | cltI32 | cleI32 | cltN32 | cleN32 | ceqN64 | cltI64 | cltN64 =>
    refine parse_two rfl fun w hm hx hy hrest => ?_
    rw [parse_0A (hrest 25 6 rfl), parse0A, hrest 0 4 rfl, hrest 18 7 rfl, hm, hx, hy]
    rfl
  case selB32 | selB64 =>
    refine parse_three rfl fun w hm hx hy hz hrest => ?_
    rw [parse_0A (hrest 25 6 rfl), parse0A, hrest 0 4 rfl, hm, hx, hy, hz]
    rfl
  case fceqF32 | fcneF32 | fcltF32 | fcleF32 | fcgtF32 | fcgeF32 | fcunF32 | fcordF32 =>
    refine parse_two rfl fun w hm hx hy hrest => ?_
    rw [parse_0B (hrest 25 6 rfl), parse0B, hrest 0 4 rfl, hrest 18 7 rfl, hm, hx, hy]
    rfl
  case fminF32 | fmaxF32 | fcopysignF32 =>
    refine parse_three rfl fun w hm hx hy hz hrest => ?_
    rw [parse_0B (hrest 25 6 rfl), parse0B, hrest 0 4 rfl, hm, hx, hy, hz]
    rfl
  case fabsF32 | fnegF32 | fclassF32 =>
    refine parse_two rfl fun w hm hx hy hrest => ?_
    rw [parse_0B (hrest 25 6 rfl), parse0B, hrest 0 4 rfl, hrest 4 7 rfl, hm, hx, hy]
    rfl
  case fexfF32 | flog2F32 | frcpF32 | frsqrtF32 | frintF32 =>
    rw [code_eq]
    refine parse_three rfl fun w hm hx hy hz hrest => ?_
    rw [parse_0C (hrest 25 6 rfl), parse0C, hrest 0 4 rfl, hrest 7 4 rfl, hm, hx, hy, ofCode_num hz]
    rfl
  case cvtF32I32 | cvtF32N32 | cvtI32F32 | cvtN32F32 | cvtF16F32 | cvtBf16F32 | cvtF32I64 | cvtI64F32 =>
    rw [code_eq]
    refine parse_three rfl fun w hm hx hy hz hrest => ?_
    rw [parse_0D (hrest 25 6 rfl), parse0D, hrest 0 4 rfl, hrest 7 4 rfl, hm, hx, hy, ofCode_num hz]
    rfl
  case cvtE4m3F32 | cvtE5m2F32 =>
    rw [sb_eq]
    rw [code_eq]
    refine parse_four rfl fun w hm hx hy hz hu hrest => ?_
    rw [parse_0D (hrest 25 6 rfl), parse0D, hrest 0 4 rfl, hrest 8 3 rfl, hm, hx, hy, eq_bit hz, ofCode_num hu]
    rfl
  case cvtF32F16 | cvtF32Bf16 | cvtF32E4m3 | cvtF32E5m2 | pack6 =>
    refine parse_two rfl fun w hm hx hy hrest => ?_
    rw [parse_0D (hrest 25 6 rfl), parse0D, hrest 0 4 rfl, hrest 4 7 rfl, hm, hx, hy]
    rfl
  case unpack6 =>
    rw [sb_eq]
    refine parse_three rfl fun w hm hx hy hz hrest => ?_
    rw [parse_0D (hrest 25 6 rfl), parse0D, hrest 0 4 rfl, hrest 5 6 rfl, hm, hx, hy, eq_bit hz]
    rfl
  case fdig | fmean =>
    refine parse_two rfl fun w hm hx hy hrest => ?_
    rw [parse_0E (hrest 25 6 rfl), parse0E, hrest 0 4 rfl, hrest 4 7 rfl, hm, hx, hy]
    rfl
  case sibget | sibset | krnd =>
    refine parse_three rfl fun w hm hx hy hz hrest => ?_
    rw [parse_0E (hrest 25 6 rfl), parse0E, hrest 0 4 rfl, hrest 6 5 rfl, hm, hx, hy, hz]
    rfl
  case act | mseaMax | mseaAcc =>
    refine parse_three rfl fun w hm hx hy hz hrest => ?_
    rw [parse_0E (hrest 25 6 rfl), parse0E, hrest 0 4 rfl, hm, hx, hy, hz]
    rfl
  case voteAny | voteAll | voteBallot | matchN32 | matchN64 | redOF32 | redAddN32 | redMinI32 | redMaxI32 | redMinN32 |
      redMaxN32 =>
    refine parse_three rfl fun w hm hx hy hz hrest => ?_
    rw [parse_10 (hrest 25 6 rfl), parse10, hrest 0 4 rfl, hrest 8 3 rfl, hm, hx, hy, hz]
    rfl
  case vtos =>
    refine parse_three rfl fun w hm hx hy hz hrest => ?_
    rw [parse_10 (hrest 25 6 rfl), parse10, hrest 0 4 rfl, hrest 8 3 rfl, hrest 22 3 rfl, hm, hx, hy, hz]
    rfl
  case ldGN8 | ldGI8 | ldGN16 | ldGI16 | ldGN32 | ldGF32 | ldGF16 | ldGBf16 | ldGN64 =>
    refine parse_three rfl fun w hm hx hy hz hrest => ?_
    rw [parse_11 (hrest 25 6 rfl), parse11, hrest 7 4 rfl, hm, hx, hy, hz]
    rfl
  case stGN8 | stGN16 | stGN32 | stGF32 | stGF16 | stGBf16 | stGN64 =>
    refine parse_three rfl fun w hm hx hy hz hrest => ?_
    rw [parse_12 (hrest 25 6 rfl), parse12, hrest 7 4 rfl, hm, hx, hy, hz]
    rfl
  case ldSN8 | ldSI8 | ldSN16 | ldSI16 | ldSN32 | ldSF32 | ldSF16 | ldSBf16 | ldSN64 =>
    refine parse_three rfl fun w hm hx hy hz hrest => ?_
    rw [parse_13 (hrest 25 6 rfl), parse13, hrest 7 4 rfl, hm, hx, hy, hz]
    rfl
  case stSN8 | stSN16 | stSN32 | stSF32 | stSF16 | stSBf16 | stSN64 =>
    refine parse_three rfl fun w hm hx hy hz hrest => ?_
    rw [parse_14 (hrest 25 6 rfl), parse14, hrest 7 4 rfl, hm, hx, hy, hz]
    rfl
  case atomGAddN32 | atomGAddN64 | atomGAddF32 | atomGMinI32 | atomGMinN32 | atomGMaxI32 | atomGMaxN32 | atomGAndB32 |
      atomGOrB32 | atomGXorB32 | atomGExchN32 | atomGExchN64 | atomGCasN32 | atomGCasN64 =>
    refine parse_three rfl fun w hm hx hy hz hrest => ?_
    rw [parse_15 (hrest 25 6 rfl), parse15, hrest 0 4 rfl, hm, hx, hy, hz]
    rfl
  case atomnGAddN32 | atomnGAddN64 | atomnGAddF32 | atomnGMinI32 | atomnGMinN32 | atomnGMaxI32 | atomnGMaxN32 | atomnGAndB32
      | atomnGOrB32 | atomnGXorB32 =>
    refine parse_two rfl fun w hm hx hy hrest => ?_
    rw [parse_16 (hrest 25 6 rfl), parse16, hrest 0 4 rfl, hrest 18 7 rfl, hm, hx, hy]
    rfl
  case atomSAddN32 | atomSAddN64 | atomSAddF32 | atomSMinI32 | atomSMinN32 | atomSMaxI32 | atomSMaxN32 | atomSAndB32 |
      atomSOrB32 | atomSXorB32 | atomSExchN32 | atomSExchN64 | atomSCasN32 | atomSCasN64 =>
    refine parse_three rfl fun w hm hx hy hz hrest => ?_
    rw [parse_17 (hrest 25 6 rfl), parse17, hrest 0 4 rfl, hm, hx, hy, hz]
    rfl
  case ldD =>
    refine parse_two rfl fun w hm hx hy hrest => ?_
    rw [parse_1D (hrest 25 6 rfl), parse1D, hrest 0 4 rfl, hrest 4 7 rfl, hm, hx, hy]
    rfl
  case stD =>
    refine parse_three rfl fun w hm hx hy hz hrest => ?_
    rw [parse_1D (hrest 25 6 rfl), parse1D, hrest 0 4 rfl, hrest 22 3 rfl, hm, hx, hy, hz]
    rfl
  case dadd | armS =>
    refine parse_two rfl fun w hm hx hy hrest => ?_
    rw [parse_1D (hrest 25 6 rfl), parse1D, hrest 0 4 rfl, hrest 18 7 rfl, hm, hx, hy]
    rfl
  case dcls =>
    refine parse_two rfl fun w hm hx hy hrest => ?_
    rw [parse_1D (hrest 25 6 rfl), parse1D, hrest 0 4 rfl, hrest 4 7 rfl, hrest 22 3 rfl, hm, hx, hy]
    rfl
  case vpin | prefG =>
    refine parse_one rfl fun w hm hx hrest => ?_
    rw [parse_1D (hrest 25 6 rfl), parse1D, hrest 0 4 rfl, hrest 4 7 rfl, hrest 18 7 rfl, hm, hx]
    rfl
  case vunpin =>
    refine parse_marked rfl fun w hm hrest => ?_
    rw [parse_1D (hrest 25 6 rfl), parse1D, hrest 0 4 rfl, hrest 4 21 rfl, hm]
    rfl
  case vread =>
    refine parse_one rfl fun w hm hx hrest => ?_
    rw [parse_1D (hrest 25 6 rfl), parse1D, hrest 0 4 rfl, hrest 4 14 rfl, hm, hx]
    rfl
  case tdesc | mma | mmaSc | mmaPn =>
    rw [sb_eq, sb_eq]
    refine parse_five rfl fun w hm hx hy hz hu hv hrest => ?_
    rw [parse_1E (hrest 25 6 rfl), parse1E, hrest 21 4 rfl, hrest 2 1 rfl, hm, hx, hy, hz, eq_bit hu, eq_bit hv]
    rfl
  case mload | tturn =>
    refine parse_two rfl fun w hm hx hy hrest => ?_
    rw [parse_1E (hrest 25 6 rfl), parse1E, hrest 21 4 rfl, hrest 0 9 rfl, hm, hx, hy]
    rfl
  case mstore =>
    rw [sb_eq]
    refine parse_two rfl fun w hm hx hy hrest => ?_
    rw [parse_1E (hrest 25 6 rfl), parse1E, hrest 21 4 rfl, hrest 1 14 rfl, hm, hx, eq_bit hy]
    rfl
  case ecopy =>
    refine parse_four rfl fun w hm hx hy hz hu hrest => ?_
    rw [parse_1F (hrest 25 6 rfl), parse1F, hrest 21 4 rfl, hrest 2 1 rfl, hm, hx, hy, hz, hu]
    rfl
  case egath | escat =>
    refine parse_three rfl fun w hm hx hy hz hrest => ?_
    rw [parse_1F (hrest 25 6 rfl), parse1F, hrest 21 4 rfl, hrest 0 3 rfl, hm, hx, hy, hz]
    rfl
  case ecoll =>
    refine parse_four rfl fun w hm hx hy hz hu hrest => ?_
    rw [parse_1F (hrest 25 6 rfl), parse1F, hrest 21 4 rfl, hm, hx, hy, hz, hu]
    rfl
  case publish =>
    refine parse_one rfl fun w hm hx hrest => ?_
    rw [parse_1F (hrest 25 6 rfl), parse1F, hrest 21 4 rfl, hrest 0 15 rfl, hm, hx]
    rfl
  case eseqMilepost | eseqLast | ewait =>
    refine parse_two rfl fun w hm hx hy hrest => ?_
    rw [parse_1F (hrest 25 6 rfl), parse1F, hrest 21 4 rfl, hrest 3 12 rfl, hm, hx, hy]
    rfl
  case optstep =>
    refine parse_two rfl fun w hm hx hy hrest => ?_
    rw [parse_1F (hrest 25 6 rfl), parse1F, hrest 21 4 rfl, hrest 0 9 rfl, hm, hx, hy]
    rfl
  case dsweep =>
    refine parse_two rfl fun w hm hx hy hrest => ?_
    rw [parse_1F (hrest 25 6 rfl), parse1F, hrest 21 4 rfl, hrest 2 13 rfl, hm, hx, hy]
    rfl

section
open Sys2Proof.Laws.WordFits

/-- The word of each row has 32 bits, row by row of the table. -/
theorem encode_lt (i : Instr) : Statement i :=
  i.casesOn hint wimm sadd ssub smul smulhI64 smulhN64 sand sor sxor sshl sshr ssar sminI64 sminN64 smaxI64 smaxN64 smov sceq
    scltI64 scltN64 scleI64 scleN64 sldN32 sldN64 sstN32 sstN64 sldSN32 sstSN32 rdsrScalar wrsr getw setw xacq xacqNb xrel
    modeTriple modeSingle fqryDevice fqryNumeric fqryPlacement smplStart smplStop smplFlush emsave emset emand emandn emor
    emif emelse sadr br brc brnc brany brall call callr ret jmpr exit rcb block yield trap handlerReturn handlerSaved
    handlerEndWave handlerRefuseReslice handlerEndContext nop bar barArr tbar tbarArr waitgen waitc fenceW addN32 subN32
    mulN32 mulhI32 mulhN32 andB32 orB32 xorB32 shlB32 shrB32 sarB32 minI32 minN32 maxI32 maxN32 addsI32 addN32Imm andB32Imm
    orB32Imm xorB32Imm shlB32Imm shrB32Imm sarB32Imm movB32 rsubN32 minI32Imm maxI32Imm addN64Imm movB64 rdsrVector addN64
    subN64 mulN64 andB64 orB64 xorB64 shlB64 shrB64 sarB64 popcB32 clzB32 brevB32 bfeN32 bfeI32 subsI32 mulwN32 ceqN32 cneN32
    cltI32 cleI32 cltN32 cleN32 ceqN64 cltI64 cltN64 selB32 selB64 fceqF32 fcneF32 fcltF32 fcleF32 fcgtF32 fcgeF32 fcunF32
    fcordF32 fminF32 fmaxF32 fabsF32 fnegF32 fcopysignF32 fclassF32 fexfF32 flog2F32 frcpF32 frsqrtF32 frintF32 cvtF32I32
    cvtF32N32 cvtI32F32 cvtN32F32 cvtF16F32 cvtBf16F32 cvtE4m3F32 cvtE5m2F32 cvtF32F16 cvtF32Bf16 cvtF32E4m3 cvtF32E5m2
    cvtF32I64 cvtI64F32 pack6 unpack6 fdig fmean sibget sibset krnd act mseaMax mseaAcc shfl voteAny voteAll voteBallot
    matchN32 matchN64 redOF32 redAddN32 redMinI32 redMaxI32 redMinN32 redMaxN32 vtos ldGN8 ldGI8 ldGN16 ldGI16 ldGN32 ldGF32
    ldGF16 ldGBf16 ldGN64 stGN8 stGN16 stGN32 stGF32 stGF16 stGBf16 stGN64 ldSN8 ldSI8 ldSN16 ldSI16 ldSN32 ldSF32 ldSF16
    ldSBf16 ldSN64 stSN8 stSN16 stSN32 stSF32 stSF16 stSBf16 stSN64 atomGAddN32 atomGAddN64 atomGAddF32 atomGMinI32
    atomGMinN32 atomGMaxI32 atomGMaxN32 atomGAndB32 atomGOrB32 atomGXorB32 atomGExchN32 atomGExchN64 atomGCasN32 atomGCasN64
    atomnGAddN32 atomnGAddN64 atomnGAddF32 atomnGMinI32 atomnGMinN32 atomnGMaxI32 atomnGMaxN32 atomnGAndB32 atomnGOrB32
    atomnGXorB32 atomSAddN32 atomSAddN64 atomSAddF32 atomSMinI32 atomSMinN32 atomSMaxI32 atomSMaxN32 atomSAndB32 atomSOrB32
    atomSXorB32 atomSExchN32 atomSExchN64 atomSCasN32 atomSCasN64 faddF32 fsubF32 fmulF32 fdivF32 fsqrtF32 fexpiF32 ffmaF32
    ffmsF32 fnmaF32 fnmsF32 ldD stD dadd dcls armS vpin vunpin vread prefG tdesc mload tturn mma mmaSc mmaPn mstore ecopy
    egath escat ecoll publish eseqMilepost eseqLast ewait optstep dsweep barrierArrive treeBarrierPhaseComplete waveSlotFree
    resultArrival storePerformed atomicPerformed writeMadeVisible xacqGrant deadlockTrap vpinPin vunpinRelease
    engineCommandBegin arrive pointsThrow milepostWrite followOnIssue matrixQueueStart matrixInstructionComplete
    activationTableSwitch collectiveExecute publishSwitch trapEntry saveLimitExpiry preemptionHandlerStart waveLeavesCore
    unitResume resumeRelease codeSwapRetire sampleTake junctionClaim stealRequest stealReply unitPlacement dispatch
    priorityAging preemptionDecision timeLimitExpiry launchComplete serialisedReexecutionEnd tlbFill invalidateDone
    heldFaultOpen shardedOwnerAccess shardedOwnerAnswer lineEvictionError scrubPass predictiveWindow doorbellWrite
    registerWrite launch contextCreate contextEnd preempt invalidate faultResolve codeSwap decayTableReload rangeCreate
    rangeDestroy shardSet collectiveGroup partition selfTest selfTestDone trunkConfigure attest powerLimit errorRecord
    predictiveThresholds trunkFlitReceive linkDown exchangeTick tickLoss coldReset deviceReset partitionReset wipeComplete
    thermalRequest thermalWithdraw lcbufWrite lcApply lcDiscard clockLower clockRaise linkRetrain pcieAtomicop
    instructionFetch
end

theorem decode_of_parse {i : Instr} {n : Nat} (hw : i.wf = true) (h : parse n = some i) : decode n = .ok i := by
  rw [decode, h]
  exact if_pos hw

/-- Settles O28: what the parser reads of an assembled word is the instruction, and it is well formed. -/
theorem decodingInvertsEncoding : Obligations.DecodingInvertsEncoding := fun i n hw h =>
  ⟨encode_lt i n h, decode_of_parse hw (parse_encode i n hw h)⟩

end Sys2Proof.Proofs.Codec
end

section
/-! PROOFS. What a cold reset leaves (15 R454), and the words of the manual. -/

set_option Elab.async false -- one proof at a time: the check bounds memory

namespace Sys2Proof.Proofs.Reset

open Sys2Proof Sys2Proof.Machine Sys2Proof.Laws

/-- Settles O30: reset leaves no byte at all. -/
theorem memoryIsCanonicalAfterReset : Obligations.MemoryIsCanonicalAfterReset := ⟨wf_reset, wf_nil⟩

theorem dieByte_reset (d a : Nat) : dieByte State.reset d a = 0#8 := by
  rw [dieByte]
  split <;> rfl

theorem funcs_reset {fn : Nat} (h : fn < 9) : mget State.reset.funcs fn = some Func.init := by
  interval_cases fn <;> rfl

theorem queue_init {q : Queue} (h : q ∈ Func.init.queues) : q = Queue.init := List.eq_of_mem_replicate h

/-- Settles O25: every map of the reset state is empty, and its functions are as they are made. -/
theorem theDeviceAfterReset : Obligations.TheDeviceAfterReset := by
  refine ⟨fun d a => ⟨dieByte_reset d a, rfl⟩, rfl, rfl, rfl, rfl, rfl, rfl, rfl, rfl, rfl, fun _ => ⟨rfl, rfl, rfl⟩, fun _ => rfl,
    fun fn hfn => ⟨Func.init, funcs_reset hfn, rfl, rfl, rfl, fun q hq => ?_⟩⟩
  rw [queue_init hq]
  exact ⟨rfl, rfl, rfl, rfl, rfl⟩

/-- A well-formed instruction is read back from its word. -/
theorem decode_word {i : Instr} {n : Nat} (hw : i.wf = true) (h : encode i = some n) : decode n = .ok i :=
  (Codec.decodingInvertsEncoding i n hw h).2

/-- Settles O27: each word is the encoding of its instruction. -/
theorem wordsOfTheManualDecode : Obligations.WordsOfTheManualDecode :=
  ⟨decode_word rfl rfl, decode_word rfl rfl, decode_word rfl rfl, decode_word rfl rfl, decode_word rfl rfl, decode_word rfl rfl,
    decode_word rfl rfl⟩

end Sys2Proof.Proofs.Reset
end

section
/-! SUPPORT. The rows of a table, and the instructions that it leaves out. -/

set_option Elab.async false -- one proof at a time: the check bounds memory

namespace Sys2Proof.Proofs

open Sys2Proof Sys2Proof.Terms

/-- An instruction without a row in a table is none of its words. -/
theorem none_ne_some {α : Type} {a : α} {P : Prop} (h : none = some a) : P := nomatch h

end Sys2Proof.Proofs
end

section
/-! SUPPORT. Changes that a word makes to its packed threads before they pass it, and traps that become pending. -/

set_option Elab.async false -- one proof at a time: the check bounds memory

namespace Sys2Proof.Proofs.Packed

open Sys2Proof Sys2Proof.Machine Sys2Proof.Terms Sys2Proof.Laws

/-- A thread that differs in the cycles from which its registers may be read, and in nothing that a statement names. -/
def Alike (t u : Thread) : Prop := u = { t with dues := u.dues, clobbered := u.clobbered }

variable {s : State} {w v : Wave} {F : Nat → Thread → Thread}

theorem Alike.passed {t u : Thread} (h : Alike t u) (n : Nat) (bank : Nat) (ends : Bool) :
    PassedThread s ends n t (u.retire s.cycle bank ends (s.cur.addr + 4)) := by
  have hretired := retire_retired s.cycle bank ends (s.cur.addr + 4) u
  obtain ⟨hsame, hvalues⟩ := retire_same s.cycle bank ends (s.cur.addr + 4) u
  rw [h] at hretired hsame hvalues ⊢
  exact ⟨hretired, hsame, hvalues⟩

theorem thread_onTids (hv : v.threads = Machine.onTids s.cur.tids F 0 w.threads) (n : Nat) :
    v.thread n = (w.thread n).map fun t => if n ∈ s.cur.tids then F n t else t := by
  simp [Wave.thread, hv, onTids_getElem?]

theorem live_onTids (hv : v.threads = Machine.onTids s.cur.tids F 0 w.threads) (hF : ∀ n t, Alike t (F n t)) (n : Nat) :
    ((v.thread n).map (·.live)).getD false = ((w.thread n).map (·.live)).getD false := by
  rw [thread_onTids hv]
  cases w.thread n with
  | none => rfl
  | some t =>
    simp only [Option.map_some, Option.getD_some]
    split
    · rw [hF n t]; rfl
    · rfl

/-- Packed threads that a word has changed in `Alike` ways pass it as they were. -/
theorem passAll_onTids (f : Form) (hv : v.threads = Machine.onTids s.cur.tids F 0 w.threads) (hF : ∀ n t, Alike t (F n t)) :
    Threads s w (passAll s v s.cur f) (PassedThread s f.last) ∧
      passAll s v s.cur f =
        { v with threads := (passAll s v s.cur f).threads, runx := v.runx || spills s w f.last } := by
  constructor
  · refine threads_of_onTids
      (F := fun n t => (F n t).retire s.cycle (actBank s v.core v.cid) f.last (s.cur.addr + 4)) ?_
      fun n t _ _ => (hF n t).passed n _ _
    show Machine.onTids _ _ 0 v.threads = _
    rw [hv, onTids_onTids]
  · have hspill := spill_of_onTids f.last hv fun n t => by rw [hF n t]
    rw [← hspill]
    rfl

theorem alike_refl (t : Thread) : Alike t t := rfl

theorem onTids_self (n : Nat) (l : List Thread) : Machine.onTids s.cur.tids (fun _ t => t) n l = l := by
  induction l generalizing n with
  | nil => rfl
  | cons t l ih => simp [Machine.onTids, ih]

/-- A wave with the same threads passes the word as it stands. -/
theorem passAll_same (f : Form) (hv : v.threads = w.threads) :
    Threads s w (passAll s v s.cur f) (PassedThread s f.last) ∧
      passAll s v s.cur f =
        { v with threads := (passAll s v s.cur f).threads, runx := v.runx || spills s w f.last } :=
  passAll_onTids f (F := fun _ t => t) (by rw [hv, onTids_self]) fun _ t => alike_refl t

theorem mget_setW_same (s : State) (k : Nat) (w : Wave) : mget (setW s k w).waves k = some w := by
  simp [setW]

/-- A thread of a wave that is not exited shows that the wave has one. -/
theorem any_live {n : Nat} {t : Thread} (ht : w.thread n = some t) (hlive : t.live = true) :
    w.threads.any (·.live) = true :=
  List.any_eq_true.mpr ⟨t, List.mem_of_getElem? ht, hlive⟩

theorem any_live_of_active (h : w.actives s.cur.tids ≠ []) : w.threads.any (·.live) = true := by
  obtain ⟨n, hn⟩ := List.exists_mem_of_ne_nil _ h
  obtain ⟨-, t, ht, hlive⟩ := actives_thread hn
  exact any_live ht hlive

/-- At user level a cause that a live wave meets becomes pending. -/
theorem meetCause_user {k : Nat} (c : Cause) (hw : mget s.waves k = some w) (hu : w.priv = none)
    (hlive : w.threads.any (·.live) = true) :
    meetCause s k c = setW s k { w with causes := w.causes ++ [c] } := by
  simp [meetCause, addCause, hw, hu, hlive]

theorem meetCause_setW (s : State) {k : Nat} (c : Cause) (hu : w.priv = none) (hlive : w.threads.any (·.live) = true) :
    meetCause (setW s k w) k c = setW s k { w with causes := w.causes ++ [c] } := by
  rw [meetCause_user c (mget_setW_same s k w) hu hlive, setW_setW]

/-- In a handler it is a handler fault. -/
theorem meetCause_handler {k : Nat} (c : Cause) (hw : mget s.waves k = some w) (hp : w.priv.isSome = true) :
    meetCause s k c = handlerFault s k c := by
  simp [meetCause, hw, hp]

end Sys2Proof.Proofs.Packed
end

section
/-! SUPPORT. Results that meet an enabled instability condition in a handler (03 R112; 12 R375): the wave has its results, and a
handler fault follows. -/

set_option Elab.async false -- one proof at a time: the check bounds memory

namespace Sys2Proof.Proofs.Unstable

open Sys2Proof Sys2Proof.Machine Sys2Proof.Terms Sys2Proof.Laws Sys2Proof.Proofs.Packed

section Trap

variable {s u : State} {w v : Wave} {comp : Wave → Nat → Thread → VRes} {r : VecForm}

/-- The check after the results meets exactly the cause that the form's trap names. -/
theorem instability_meets (k : Nat) (hw : mget u.waves k = some v) (hctl : v.nctl = w.nctl)
    (hflags : ∀ n t, (comp w n t).flags = (r.result s w n t).2) :
    instability u k s.cur (laneResults w s.cur.tids comp) = (r.trap s w).foldl (fun u c => meetCause u k c) u := by
  have hof : ∀ n, (((w.thread n).map (comp w n)).getD ⟨[], 0⟩).flags =
      ((w.thread n).map (fun t => (r.result s w n t).2)).getD 0 := by
    intro n
    cases w.thread n with
    | none => rfl
    | some t => exact hflags n t
  simp only [instability, hw, laneResults_eq, List.filter_map, List.map_map, allFlags, List.foldl_map, Function.comp_def, hof, hctl,
    List.map_id', VecForm.trap]
  split
  · rfl
  · rfl

/-- In a handler that cause is a handler fault. -/
theorem instability_handler {k : Nat} {c : Cause} (hw : mget u.waves k = some v) (hctl : v.nctl = w.nctl)
    (hpriv : v.priv.isSome = true) (hflags : ∀ n t, (comp w n t).flags = (r.result s w n t).2) (hc : c ∈ r.trap s w) :
    instability u k s.cur (laneResults w s.cur.tids comp) = handlerFault u k c := by
  have hone : r.trap s w = [c] := by
    simp only [VecForm.trap] at hc ⊢
    split at hc
    · cases hc
    · rw [List.mem_singleton.mp hc, if_neg ‹_›]
  rw [instability_meets k hw hctl hflags, hone]
  exact meetCause_handler c hw hpriv

end Trap

section Results

variable {f : Form} {d : Spec} {wide : Bool} {lat rc : Nat} {comp : Wave → Nat → Thread → VRes} {s : State} {w : Wave} {n : Nat}
  {t : Thread} {r : VecForm}

theorem result_active (hn : n ∈ w.actives s.cur.tids) (ht : w.thread n = some t) :
    mget (laneResults w s.cur.tids comp) n = some (comp w n t) := by
  rw [mget_laneResults, if_pos hn, ht, Option.map_some]

theorem result_idle (hn : n ∉ w.actives s.cur.tids) : mget (laneResults w s.cur.tids comp) n = none := by
  rw [mget_laneResults, if_neg hn]

theorem allFlags_form (hr : ∀ n t, r.result s w n t = ((comp w n t).vals, (comp w n t).flags)) :
    allFlags (laneResults w s.cur.tids comp) = r.flags s w := by
  rw [allFlags_laneResults s w s.cur.tids fun _ => comp]
  simp only [VecForm.flags, hr]

/-- A packed thread with its result at once, before it passes the word. -/
def taken (lat : Nat) (d : Spec) (wide : Bool) (rc : Nat) (res : FMap VRes) (n : Nat) (t : Thread) : Thread :=
  match mget res n with
  | some r => { t.writeD lat d wide r.vals with opidx := t.opidx + BitVec.ofNat 64 rc }
  | none => pushWin undefWin t

/-- A packed thread that is owed its result, before it passes the word. -/
def awaiting (d : Spec) (wide : Bool) (rc : Nat) (res : FMap VRes) (n : Nat) (t : Thread) : Thread :=
  match mget res n with
  | some _ => { t.owe (some d) wide with opidx := t.opidx + BitVec.ofNat 64 rc }
  | none => pushWin undefWin t

/-- What receiving or being owed a result leaves of a thread. -/
def Keeps (t u : Thread) : Prop := SameThread t u ∧ u.runCount = t.runCount ∧ u.clock = t.clock

theorem pushWin_keeps (e : WinEntry) (t : Thread) : Keeps t (pushWin e t) := by simp [Keeps, pushWin, SameThread, SameBody]

theorem taken_keeps (res : FMap VRes) : Keeps t (taken lat d wide rc res n t) ∧ (taken lat d wide rc res n t).owed = t.owed := by
  unfold taken
  split
  case h_1 x _ =>
    obtain ⟨hsame, howed, -, hcount, hclock, -⟩ := writeD_same lat d wide x.vals t
    exact ⟨⟨hsame, hcount, hclock⟩, howed⟩
  case h_2 => exact ⟨pushWin_keeps undefWin t, rfl⟩

theorem owe_same (t : Thread) (d : Spec) (wide : Bool) :
    Keeps t (t.owe (some d) wide) ∧ (t.owe (some d) wide).regs = t.regs ∧
      (t.owe (some d) wide).win = (undefWin :: t.win).take 8 ∧ (t.owe (some d) wide).owed = owedKeys d wide ++ t.owed := by
  unfold Thread.owe owedKeys Keeps
  by_cases hd : d.toNat < 0x68
  · have hd' : ¬0x68 ≤ d.toNat := by omega
    cases wide <;> simp [hd, hd', pushWin, SameThread, SameBody]
  · have hd' : 0x68 ≤ d.toNat := by omega
    simp [hd, hd', pushWin, SameThread, SameBody]

theorem awaiting_keeps (res : FMap VRes) :
    Keeps t (awaiting d wide rc res n t) ∧ (awaiting d wide rc res n t).regs = t.regs ∧
      (awaiting d wide rc res n t).win = (undefWin :: t.win).take 8 := by
  unfold awaiting
  split
  case h_1 =>
    obtain ⟨hkeeps, hregs, hwin, -⟩ := owe_same t d wide
    exact ⟨hkeeps, hregs, hwin⟩
  case h_2 => exact ⟨pushWin_keeps undefWin t, rfl, rfl⟩

theorem Keeps.retired {u : Thread} (h : Keeps t u) (bank : Nat) (ends : Bool) :
    Retired (s.cycle + 2) ends (s.cur.addr + 4) t (u.retire s.cycle bank ends (s.cur.addr + 4)) := by
  have hretired := retire_retired s.cycle bank ends (s.cur.addr + 4) u
  simpa only [Retired, h.2.1, h.2.2] using hretired

theorem taken_thread (bank : Nat) (hl : ∀ n t, (comp w n t).vals.length ≤ 3)
    (hf : r.marked = f.last ∧ r.dest = d ∧ r.wide = wide ∧ r.lat = lat ∧ r.count = rc)
    (hr : ∀ n t, r.result s w n t = ((comp w n t).vals, (comp w n t).flags)) (ht : w.thread n = some t) :
    VecThread s w r n t
      ((taken lat d wide rc (laneResults w s.cur.tids comp) n t).retire s.cycle bank f.last (s.cur.addr + 4)) := by
  obtain ⟨hmarked, rfl, rfl, rfl, rfl⟩ := hf
  obtain ⟨hkeeps, howed⟩ := taken_keeps (t := t) (n := n) (lat := r.lat) (d := r.dest) (wide := r.wide) (rc := r.count)
    (laneResults w s.cur.tids comp)
  obtain ⟨hsame, hregs, hopidx, howes, hwin⟩ := retire_same s.cycle bank f.last (s.cur.addr + 4)
    (taken r.lat r.dest r.wide r.count (laneResults w s.cur.tids comp) n t)
  refine ⟨by rw [hmarked]; exact hkeeps.retired bank f.last, sameThread_trans hkeeps.1 hsame, howes.trans howed, ?_⟩
  split
  case isTrue hn =>
    have htaken : taken r.lat r.dest r.wide r.count (laneResults w s.cur.tids comp) n t =
        { t.writeD r.lat r.dest r.wide (comp w n t).vals with opidx := t.opidx + BitVec.ofNat 64 r.count } := by
      simp only [taken, result_active hn ht]
    obtain ⟨-, -, -, -, -, hfirst⟩ := writeD_same r.lat r.dest r.wide (comp w n t).vals t
    rw [hr]
    refine ⟨by rw [hopidx, htaken], fun key => ?_, ?_⟩
    · rw [cell, hregs, htaken]
      exact cell_writeD r.lat r.dest r.wide (comp w n t).vals t key (hl n t)
    · rw [hwin, htaken]
      exact congrArg _ hfirst
  case isFalse hn =>
    have htaken : taken r.lat r.dest r.wide r.count (laneResults w s.cur.tids comp) n t = pushWin undefWin t := by
      simp only [taken, result_idle hn]
    exact ⟨by rw [hopidx, htaken]; rfl, by rw [hregs, htaken]; rfl, by rw [hwin, htaken]; rfl⟩

theorem awaiting_thread (bank : Nat) (hf : r.marked = f.last ∧ r.dest = d ∧ r.wide = wide ∧ r.count = rc) (ht : w.thread n = some t) :
    LongThread s w r n t
      ((awaiting d wide rc (laneResults w s.cur.tids comp) n t).retire s.cycle bank f.last (s.cur.addr + 4)) := by
  obtain ⟨hmarked, rfl, rfl, rfl⟩ := hf
  obtain ⟨hkeeps, hregs, hwin⟩ := awaiting_keeps (t := t) (n := n) (d := r.dest) (wide := r.wide) (rc := r.count)
    (laneResults w s.cur.tids comp)
  obtain ⟨hsame, hregs', hopidx', howed', hwin'⟩ := retire_same s.cycle bank f.last (s.cur.addr + 4)
    (awaiting r.dest r.wide r.count (laneResults w s.cur.tids comp) n t)
  refine ⟨by rw [hmarked]; exact hkeeps.retired bank f.last, sameThread_trans hkeeps.1 hsame, hregs'.trans hregs, by rw [hwin', hwin], ?_⟩
  split
  case isTrue hn =>
    have hawaits : awaiting r.dest r.wide r.count (laneResults w s.cur.tids comp) n t =
        { t.owe (some r.dest) r.wide with opidx := t.opidx + BitVec.ofNat 64 r.count } := by
      simp only [awaiting, result_active hn ht]
    exact ⟨by rw [hopidx', hawaits], by rw [howed', hawaits]; exact (owe_same t r.dest r.wide).2.2.2⟩
  case isFalse hn =>
    have hawaits : awaiting r.dest r.wide r.count (laneResults w s.cur.tids comp) n t = pushWin undefWin t := by
      simp only [awaiting, result_idle hn]
    exact ⟨by rw [hopidx', hawaits]; rfl, by rw [howed', hawaits]; rfl⟩

end Results

section Waves

variable {f : Form} {d : Spec} {wide : Bool} {lat rc : Nat} {comp : Wave → Nat → Thread → VRes} {s : State} {w : Wave} {r : VecForm}

/-- The wave with its results at once. -/
def vecWave (f : Form) (d : Spec) (wide : Bool) (lat rc : Nat) (comp : Wave → Nat → Thread → VRes) (s : State) (w : Wave) : Wave :=
  let res := laneResults w s.cur.tids comp
  passAll s ((w.onTids s.cur.tids (taken lat d wide rc res)).flag (allFlags res)) s.cur f

theorem vecBody_eq (comp : State → Wave → Nat → Thread → VRes) :
    vecBody f d wide lat rc comp s s.cur.wave w s.cur =
      instability (setW s s.cur.wave (vecWave f d wide lat rc (comp s) s w)) s.cur.wave s.cur (laneResults w s.cur.tids (comp s)) :=
  rfl

theorem vecWave_effect (hl : ∀ n t, (comp w n t).vals.length ≤ 3)
    (hf : r.marked = f.last ∧ r.dest = d ∧ r.wide = wide ∧ r.lat = lat ∧ r.count = rc)
    (hr : ∀ n t, r.result s w n t = ((comp w n t).vals, (comp w n t).flags)) :
    VecEffect s w { vecWave f d wide lat rc comp s w with causes := w.causes ++ r.trap s w } r := by
  let g := taken lat d wide rc (laneResults w s.cur.tids comp)
  have hthreads : (vecWave f d wide lat rc comp s w).threads = Machine.onTids s.cur.tids
      (fun n t => (g n t).retire s.cycle (actBank s w.core w.cid) f.last (s.cur.addr + 4)) 0 w.threads := by
    show Machine.onTids _ _ 0 (Machine.onTids s.cur.tids g 0 w.threads) = _
    rw [onTids_onTids]
    rfl
  have hspill := spill_of_onTids (s := s) (w := w) (v := w.onTids s.cur.tids g) f.last rfl
    fun n t => (taken_keeps _).1.2.1
  refine ⟨threads_of_onTids hthreads fun n t _ ht => taken_thread _ hl hf hr ht, ?_⟩
  rw [hf.1, ← hspill, ← allFlags_form hr]
  rfl

/-- The wave that is owed its results. -/
def longWave (f : Form) (d : Spec) (wide : Bool) (rc : Nat) (comp : Wave → Nat → Thread → VRes) (s : State) (w : Wave) : Wave :=
  let res := laneResults w s.cur.tids comp
  let v := w.onTids s.cur.tids (awaiting d wide rc res)
  let v :=
    if res.isEmpty then v
    else addAccess v (resultAccess s v s.cur (longDest d wide) (allFlags res) (res.map (fun r => (r.1, r.2.vals))))
  passAll s v s.cur f

theorem longBody_eq (comp : State → Wave → Nat → Thread → VRes) :
    longBody f d wide rc comp s s.cur.wave w s.cur =
      instability (setW (numbered s 1) s.cur.wave (longWave f d wide rc (comp s) s w)) s.cur.wave s.cur
        (laneResults w s.cur.tids (comp s)) :=
  rfl

/-- The access that carries the results is the form's. -/
theorem longWave_access (v : Wave) (hv : v.priv = w.priv ∧ v.accs = w.accs) (hd : r.dest = d ∧ r.wide = wide)
    (hr : ∀ n t, r.result s w n t = ((comp w n t).vals, (comp w n t).flags)) :
    (if (laneResults w s.cur.tids comp).isEmpty then v
      else addAccess v (resultAccess s v s.cur (longDest d wide) (allFlags (laneResults w s.cur.tids comp))
        ((laneResults w s.cur.tids comp).map (fun r => (r.1, r.2.vals))))) =
      { v with accs := w.accs ++ r.access s w } := by
  obtain ⟨rfl, rfl⟩ := hd
  have hdest : longDest r.dest r.wide = if 0x68 ≤ r.dest.toNat then none else some (4 * r.dest.toNat, r.wide) := by
    unfold longDest destKey
    by_cases hd : r.dest.toNat < 0x68
    · rw [if_pos hd, if_neg (by omega)]
    · rw [if_neg hd, if_pos (by omega)]
  rw [allFlags_form hr, hdest, laneResults_eq, VecForm.access, ← hv.2]
  by_cases hactive : w.actives s.cur.tids = []
  · rw [if_pos (by simp [hactive]), if_pos hactive, List.append_nil]
  · have hlanes : ((w.actives s.cur.tids).map fun n => (n, ((w.thread n).map (comp w n)).getD ⟨[], 0⟩)).map
          (fun r => (r.1, r.2.vals)) =
        (w.actives s.cur.tids).map fun n => (n, ((w.thread n).map (fun t => (r.result s w n t).1)).getD []) := by
      rw [List.map_map]
      refine List.map_congr_left fun n _ => ?_
      simp only [Function.comp_apply, hr]
      cases w.thread n <;> rfl
    rw [if_neg (by simp [hactive]), if_neg hactive, hlanes, addAccess, resultAccess, List.map_map, hv.1]
    rfl

theorem longWave_effect (hf : r.marked = f.last ∧ r.dest = d ∧ r.wide = wide ∧ r.count = rc)
    (hr : ∀ n t, r.result s w n t = ((comp w n t).vals, (comp w n t).flags)) :
    LongEffect s w { longWave f d wide rc comp s w with causes := w.causes ++ r.trap s w } r ∧
      (longWave f d wide rc comp s w).priv = w.priv ∧ (longWave f d wide rc comp s w).nctl = w.nctl ∧
      (longWave f d wide rc comp s w).causes = w.causes := by
  let g := awaiting d wide rc (laneResults w s.cur.tids comp)
  have hwave : longWave f d wide rc comp s w =
      passAll s { w.onTids s.cur.tids g with accs := w.accs ++ r.access s w } s.cur f :=
    congrArg (passAll s · s.cur f) (longWave_access (w.onTids s.cur.tids g) ⟨rfl, rfl⟩ ⟨hf.2.1, hf.2.2.1⟩ hr)
  rw [hwave]
  have hthreads : (passAll s { w.onTids s.cur.tids g with accs := w.accs ++ r.access s w } s.cur f).threads =
      Machine.onTids s.cur.tids
        (fun n t => (g n t).retire s.cycle (actBank s w.core w.cid) f.last (s.cur.addr + 4)) 0 w.threads := by
    show Machine.onTids _ _ 0 (Machine.onTids s.cur.tids g 0 w.threads) = _
    rw [onTids_onTids]
    rfl
  have hspill := spill_of_onTids (s := s) (w := w) (v := w.onTids s.cur.tids g) f.last rfl
    fun n t => (awaiting_keeps _).1.2.1
  refine ⟨⟨threads_of_onTids hthreads fun n t _ ht => awaiting_thread _ hf ht, ?_⟩, rfl, rfl, rfl⟩
  rw [hf.1, ← hspill]
  rfl

/-- A fixed-latency word in a handler that meets an enabled condition. -/
theorem runVec_unstable {comp : State → Wave → Nat → Thread → VRes} (h : Runs s w f.specs f.wimm f.user)
    (hf : r.marked = f.last ∧ r.dest = d ∧ r.wide = wide ∧ r.lat = lat ∧ r.count = rc)
    (hr : ∀ s w n t, r.result s w n t = ((comp s w n t).vals, (comp s w n t).flags))
    (hl : ∀ n t, (r.result s w n t).1.length ≤ 3) (hpriv : w.priv.isSome = true) :
    ∃ w', VecEffect s w { w' with causes := w.causes ++ r.trap s w } r ∧ w'.causes = w.causes ∧
      ∀ c ∈ r.trap s w, runVec f d wide lat rc comp s =
        .next (settled (handlerFault (setW s s.cur.wave w') s.cur.wave c) s.cur.wave) := by
  refine ⟨vecWave f d wide lat rc (comp s) s w, vecWave_effect (fun n t => ?_) hf (hr s w), rfl, fun c hc => ?_⟩
  · have hlen := hl n t
    rwa [hr] at hlen
  · have hlevel : (vecWave f d wide lat rc (comp s) s w).priv.isSome = true := hpriv
    have hctl : (vecWave f d wide lat rc (comp s) s w).nctl = w.nctl := rfl
    rw [runVec, runWord_next h, vecBody_eq,
      instability_handler (mget_setW_same s _ (vecWave f d wide lat rc (comp s) s w)) hctl hlevel (fun n t => by rw [hr]) hc]

/-- A long-latency word in a handler that meets one: the results are on their way. -/
theorem runLong_unstable {comp : State → Wave → Nat → Thread → VRes} (h : Runs s w f.specs f.wimm f.user)
    (hf : r.marked = f.last ∧ r.dest = d ∧ r.wide = wide ∧ r.count = rc)
    (hr : ∀ s w n t, r.result s w n t = ((comp s w n t).vals, (comp s w n t).flags)) (hpriv : w.priv.isSome = true) :
    ∃ w', LongEffect s w { w' with causes := w.causes ++ r.trap s w } r ∧ w'.causes = w.causes ∧
      ∀ c ∈ r.trap s w, runLong f d wide rc comp s =
        .next (settled (handlerFault (setW (numbered s 1) s.cur.wave w') s.cur.wave c) s.cur.wave) := by
  obtain ⟨heffect, hlevel, hctl, hcauses⟩ := longWave_effect (comp := comp s) hf (hr s w)
  refine ⟨longWave f d wide rc (comp s) s w, heffect, hcauses, fun c hc => ?_⟩
  rw [runLong, runWord_next h, longBody_eq,
    instability_handler (mget_setW_same (numbered s 1) _ (longWave f d wide rc (comp s) s w)) hctl (by rw [hlevel]; exact hpriv) (fun n t => by rw [hr]) hc]

end Waves

end Sys2Proof.Proofs.Unstable
end

section
/-! SUPPORT. What stores of a context leave as it was: everything but memory, what stands beside its bytes, and the copies of old bytes
that a context keeps. -/

set_option Elab.async false -- one proof at a time: the check bounds memory

namespace Sys2Proof.Proofs.Frames

open Sys2Proof Sys2Proof.Machine

/-- The state without its memories, the notes about their bytes, the contexts, and the model's own counters. -/
def apart (s : State) : State :=
  { s with
    mem := [], hostMem := [], poison := [], latent := [], tags := [], vis := [], dclk := [], contexts := [], nextId := 0,
    freeCount := 0 }

variable {s : State} {cid core : Nat} {bs : List Byte}

@[simp] theorem apart_writeHomeList (l : List (Nat × Byte)) : apart (writeHomeList s l) = apart s := rfl

@[simp] theorem apart_writeDieList (d : Nat) (l : List (Nat × Byte)) : apart (writeDieList s d l) = apart s := rfl

@[simp] theorem apart_tagWrite (ps : List (Nat × Nat)) : apart (tagWrite s cid core ps) = apart s := rfl

@[simp] theorem apart_putHost (l : List (Nat × Byte)) : apart (putHost s cid l) = apart s := rfl

@[simp] theorem apart_nextFree : apart (nextFree s) = apart s := rfl

@[simp] theorem apart_poisonGranule (g : Nat) : apart (poisonGranule s g) = apart s := by
  unfold poisonGranule
  split
  · rfl
  · rfl

@[simp] theorem apart_putUser (home : Bool) (pas : List Nat) : apart (putUser s cid core home pas bs) = apart s := by
  unfold putUser
  split
  · rfl
  · rfl

/-- The bytes of a device page, stored or refused. -/
theorem apart_userStore (va : Nat) (home : Bool) : apart (userStore s cid core va bs home).1 = apart s := by
  unfold userStore
  dsimp only
  split
  case h_1 | h_2 =>
    split
    · rfl
    · split
      · exact apart_poisonGranule _
      · exact apart_putUser home _
  case h_3 | h_4 | h_5 => rfl

@[simp] theorem apart_tryStore (va : Nat) : apart (tryStore s cid core va bs) = apart s := apart_userStore va true

/-- Every field that stays apart is the same. -/
theorem waves_of_apart {t : State} (h : apart t = apart s) : t.waves = s.waves := by
  have hwaves := congrArg State.waves h
  exact hwaves

end Sys2Proof.Proofs.Frames
end

section
/-! PROOFS. Integer, bit and select words (07 R254, R255, R257): each operation on numbers is the one on bit vectors. -/

set_option Elab.async false -- one proof at a time: the check bounds memory

namespace Sys2Proof.Proofs.Ints

open Sys2Proof Sys2Proof.Machine Sys2Proof.Terms Sys2Proof.Laws

theorem wrap_lt (n : Nat) (i : Int) : wrap n i < 2 ^ n := by rw [wrap_eq]; exact BitVec.isLt _

theorem ofNat_toNat_of_lt {n x : Nat} (h : x < 2 ^ n) : (BitVec.ofNat n x).toNat = x := by rw [BitVec.toNat_ofNat, Nat.mod_eq_of_lt h]

theorem mulhN_eq {x y : Nat} (hx : x < 2 ^ 32) (hy : y < 2 ^ 32) :
    x * y / 2 ^ 32 = (BitVec.ofNat 32 ((BitVec.ofNat 32 x).toNat * (BitVec.ofNat 32 y).toNat / 2 ^ 32)).toNat := by
  rw [ofNat_toNat_of_lt hx, ofNat_toNat_of_lt hy, ofNat_toNat_of_lt]
  exact Nat.div_lt_of_lt_mul (Nat.mul_lt_mul'' hx hy)

/-- A shift takes the low bits of its count, which are those of the count as a bit vector. -/
theorem count_eq {y : Nat} (hy : y < 2 ^ 32) : (BitVec.ofNat 32 y).toNat % 32 = y % 32 := by rw [ofNat_toNat_of_lt hy]

theorem clamp_eq (i : Int) : clamp32 i = (clampS i).toNat := wrap_eq 32 _

theorem leadZeros_eq {x : Nat} (hx : x < 2 ^ 32) :
    leadZeros x = (if BitVec.ofNat 32 x = 0#32 then 32#32 else BitVec.ofNat 32 (31 - (BitVec.ofNat 32 x).toNat.log2)).toNat := by
  have hzero : BitVec.ofNat 32 x = 0#32 ↔ x = 0 := by
    rw [← BitVec.toNat_inj, ofNat_toNat_of_lt hx]; rfl
  by_cases h : x = 0
  · simp [leadZeros, h]
  · rw [if_neg (mt hzero.mp h), ofNat_toNat_of_lt hx, ofNat_toNat_of_lt (by omega)]
    simp [leadZeros, h]

theorem popCount_ofNat (x : Nat) :
    popCount x = (BitVec.ofNat 32 ((List.range 32).filter (BitVec.ofNat 32 x).getLsbD).length).toNat := by
  rw [popCount_eq, ofNat_toNat_of_lt]
  exact (List.length_filter_le _ _).trans_lt (by simp)

/-- The width of the field of `bfe` (07 R255), from the number and from the bit vector. -/
theorem fieldWidth_eq {y : Nat} (hy : y < 2 ^ 32) :
    min (bitsAt y 8 6) 32 = min ((BitVec.ofNat 32 y).extractLsb' 8 6).toNat 32 := by
  rw [BitVec.extractLsb'_toNat, ofNat_toNat_of_lt hy, Nat.shiftRight_eq_div_pow, bitsAt]

theorem bitsAt_eq_extract {w x : Nat} (lo n : Nat) (hx : x < 2 ^ w) : bitsAt x lo n = ((BitVec.ofNat w x).extractLsb' lo n).toNat := by
  rw [BitVec.extractLsb'_toNat, ofNat_toNat_of_lt hx, Nat.shiftRight_eq_div_pow, bitsAt]

theorem bfeN_eq {x y : Nat} (hx : x < 2 ^ 32) (hy : y < 2 ^ 32) :
    bitField false x y = ((field ((BitVec.ofNat 32 x).setWidth 64) (BitVec.ofNat 32 y)).2.setWidth 32).toNat := by
  have hx' : x < 2 ^ 64 := hx.trans (by decide)
  have hext : (BitVec.ofNat 32 x).setWidth 64 = BitVec.ofNat 64 x :=
    BitVec.eq_of_toNat_eq (by rw [BitVec.toNat_setWidth, ofNat_toNat_of_lt hx, BitVec.toNat_ofNat])
  rw [hext]
  simp only [bitField, field, BitVec.toNat_setWidth_of_le (Nat.min_le_right _ _), fieldWidth_eq hy, count_eq hy, ← bitsAt_eq_extract _ _ hx', Bool.false_eq_true, if_false]
  split
  case isTrue hzero => rw [beq_iff_eq.mp hzero]; exact (Nat.mod_one _).symm
  case isFalse => rfl

theorem bfeI_eq {x y : Nat} (hy : y < 2 ^ 32) :
    bitField true x y = ((field ((BitVec.ofNat 32 x).signExtend 64) (BitVec.ofNat 32 y)).2.signExtend 32).toNat := by
  have hext : sext 32 64 x = ((BitVec.ofNat 32 x).signExtend 64).toNat := sext_eq (by decide) x
  simp only [bitField, field, fieldWidth_eq hy, count_eq hy, hext, if_true]
  rw [bitsAt_eq_extract _ _ (BitVec.isLt _), BitVec.ofNat_toNat, BitVec.setWidth_eq]
  generalize hw : min ((BitVec.ofNat 32 y).extractLsb' 8 6).toNat 32 = n
  rcases Nat.eq_zero_or_pos n with rfl | hn
  · simp [BitVec.eq_nil (BitVec.extractLsb' _ 0 _)]
  · rw [if_neg (by simp; omega), sext_eq hn, BitVec.ofNat_toNat, BitVec.setWidth_eq]

section Forms

variable {m : Bool} {d a b : Spec} {i : BitVec 7} {op : Nat → Nat → Nat} {s : State} {w : Wave} {r : VecForm}

theorem v32_effect {f : W32 → W32 → W32} (hr : v32 m d a b f = some r) (h : Runs s w r.names r.wimm false)
    (hf : ∀ x y, x < 2 ^ 32 → y < 2 ^ 32 → op x y = (f (BitVec.ofNat 32 x) (BitVec.ofNat 32 y)).toNat) :
    ∃ w', VecEffect s w w' r ∧ run32 m d a b op s = .next (settled (setW s s.cur.wave w') s.cur.wave) := by
  cases hr
  exact run32_effect h hf

/-- Words of one operand read register 0 for the other, which every wave holds. -/
theorem v32u_effect {f : W32 → W32} (hr : v32u m d a f = some r) (h : Runs s w r.names r.wimm false)
    (hf : ∀ x y, x < 2 ^ 32 → op x y = (f (BitVec.ofNat 32 x)).toNat) :
    ∃ w', VecEffect s w w' r ∧ run32 m d a 0x00#7 op s = .next (settled (setW s s.cur.wave w') s.cur.wave) := by
  cases hr
  exact run32_effect (f := fun x _ => f x) (runs_zero h) fun x y hx _ => hf x y hx

theorem v32i_effect {f : W32 → W32 → W32} (hr : v32i m d a i f = some r) (h : Runs s w r.names r.wimm false)
    (hf : ∀ x y, x < 2 ^ 32 → y < 2 ^ 32 → op x y = (f (BitVec.ofNat 32 x) (BitVec.ofNat 32 y)).toNat) :
    ∃ w', VecEffect s w w' r ∧ run32Imm m d a i op s = .next (settled (setW s s.cur.wave w') s.cur.wave) := by
  cases hr
  exact run32Imm_effect h hf

theorem v64_effect {f : W64 → W64 → W64} (hr : v64 m d a b f = some r) (h : Runs s w r.names r.wimm false)
    (hf : ∀ x y, x < 2 ^ 64 → y < 2 ^ 64 → op x y = (f (BitVec.ofNat 64 x) (BitVec.ofNat 64 y)).toNat) :
    ∃ w', VecEffect s w w' r ∧ run64 m d a b true op s = .next (settled (setW s s.cur.wave w') s.cur.wave) := by
  cases hr
  exact run64_effect h hf

theorem v64s_effect {f : W64 → Nat → W64} (hr : v64s m d a b f = some r) (h : Runs s w r.names r.wimm false)
    (hf : ∀ x y, x < 2 ^ 64 → op x y = (f (BitVec.ofNat 64 x) (y % 64)).toNat) :
    ∃ w', VecEffect s w w' r ∧ run64 m d a b false op s = .next (settled (setW s s.cur.wave w') s.cur.wave) := by
  cases hr
  exact shift64_effect h hf

/-- A select takes one operand or the other of each sibling (07 R257). -/
theorem choose_effect {wide : Bool} (hr : choose m d a b wide = some r) (h : Runs s w r.names r.wimm false) :
    ∃ w', VecEffect s w w' r ∧ runSel m d a b wide s = .next (settled (setW s s.cur.wave w') s.cur.wave) := by
  cases hr
  have heffect := plainVec_effect (f := Form.v3 m [d, a, b]) (d := d) (wide := wide) (lat := 2) (rc := 0) (names := [d, a, b])
    (imm := false) (comp := fun s w n t => perSibling a b wide wide (fun x y => if cmBit s w n then x else y) s w n t) h
    (fun _ _ _ _ => rfl)
  rwa [v3_last] at heffect

theorem movB64_effect (h : Runs s w [d] true false) :
    ∃ w', VecEffect s w w' ⟨m, d, [d], true, true, 2, 0, fun s w _ _ => each w fun _ => (imm64 s.cur.wimm i).toNat⟩ ∧
      execMovB64 m d i s = .next (settled (setW s s.cur.wave w') s.cur.wave) := by
  have heffect := plainVec_effect (f := Form.vi m [d]) (d := d) (wide := true) (lat := 2) (rc := 0) (names := [d]) (imm := true)
    (comp := perSiblingImm 0x00#7 true i fun _ y => y) (vals := fun s _ _ _ _ => (imm64 s.cur.wimm i).toNat) h
    fun s w n t => by simp only [perSiblingImm, if_true, viImm64]
  rwa [vi_last] at heffect

theorem addN64Imm_effect (h : Runs s w [d, a] true false) :
    ∃ w', VecEffect s w w' ⟨m, d, [d, a], true, true, 6, 0,
        fun s w n t => each w fun k => (rd64 s w n t k 1 a + imm64 s.cur.wimm i).toNat⟩ ∧
      execAddN64Imm m d a i s = .next (settled (setW s s.cur.wave w') s.cur.wave) := by
  have heffect := plainVec_effect (f := Form.vi m [d, a]) (d := d) (wide := true) (lat := 6) (rc := 0) (names := [d, a]) (imm := true)
    (comp := perSiblingImm a true i (addW 64)) (vals := fun s w n t k => (rd64 s w n t k 1 a + imm64 s.cur.wimm i).toNat) h
    fun s w n t => by
      simp only [perSiblingImm, if_true, viImm64, addW_eq, rd64, BitVec.ofNat_toNat, BitVec.setWidth_eq]
  rwa [vi_last] at heffect

theorem mulwN32_effect (h : Runs s w [d, a, b] false false) :
    ∃ w', VecEffect s w w' ⟨m, d, [d, a, b], true, false, 6, 0,
        fun s w n t => each w fun k => (rd32 s w n t k 1 a).toNat * (rd32 s w n t k 2 b).toNat⟩ ∧
      execMulwN32 m d a b s = .next (settled (setW s s.cur.wave w') s.cur.wave) := by
  have heffect := plainVec_effect (f := Form.v3 m [d, a, b]) (d := d) (wide := true) (lat := 6) (rc := 0) (names := [d, a, b])
    (imm := false) (comp := perSibling a b false false fun x y => x * y)
    (vals := fun s w n t k => (rd32 s w n t k 1 a).toNat * (rd32 s w n t k 2 b).toNat) h
    fun s w n t => by simp only [perSibling, rd32, ofNat_toNat_of_lt (read32 ..)]
  rwa [v3_last] at heffect

end Forms

/-- Settles O3: word by word, the operation on numbers is the table's on bit vectors. -/
theorem integerWordsWriteTheirResult : Obligations.IntegerWordsWriteTheirResult := by
  intro i s w r hr h
  cases i
  case addN32 => dsimp only [intForm] at hr; exact v32_effect hr h fun x y _ _ => addW_eq 32 x y
  case subN32 => dsimp only [intForm] at hr; exact v32_effect hr h fun x y _ hy => subW_eq hy
  case mulN32 => dsimp only [intForm] at hr; exact v32_effect hr h fun x y _ _ => mulW_eq 32 x y
  case mulhI32 =>
    dsimp only [intForm] at hr
    exact v32_effect hr h fun x y _ _ => by rw [wrap_eq, sgn_eq (by decide), sgn_eq (by decide)]
  case mulhN32 => dsimp only [intForm] at hr; exact v32_effect hr h fun x y hx hy => mulhN_eq hx hy
  case andB32 => dsimp only [intForm] at hr; exact v32_effect hr h fun x y hx hy => and_eq hx hy
  case orB32 => dsimp only [intForm] at hr; exact v32_effect hr h fun x y hx hy => or_eq hx hy
  case xorB32 => dsimp only [intForm] at hr; exact v32_effect hr h fun x y hx hy => xor_eq hx hy
  case shlB32 => dsimp only [intForm] at hr; exact v32_effect hr h fun x y _ hy => by rw [count_eq hy, shlW_eq]
  case shrB32 => dsimp only [intForm] at hr; exact v32_effect hr h fun x y hx hy => by rw [count_eq hy, shr_eq _ hx]
  case sarB32 => dsimp only [intForm] at hr; exact v32_effect hr h fun x y _ hy => by rw [count_eq hy, sarW_eq _ (by decide)]
  case minI32 => dsimp only [intForm] at hr; exact v32_effect hr h fun x y hx hy => minS_eq (by decide) hx hy
  case minN32 => dsimp only [intForm] at hr; exact v32_effect hr h fun x y hx hy => minU_eq hx hy
  case maxI32 => dsimp only [intForm] at hr; exact v32_effect hr h fun x y hx hy => maxS_eq (by decide) hx hy
  case maxN32 => dsimp only [intForm] at hr; exact v32_effect hr h fun x y hx hy => maxU_eq hx hy
  case addsI32 =>
    dsimp only [intForm] at hr
    exact v32_effect hr h fun x y _ _ => by rw [clamp_eq, sgn_eq (by decide), sgn_eq (by decide)]
  case subsI32 =>
    dsimp only [intForm] at hr
    exact v32_effect hr h fun x y _ _ => by rw [clamp_eq, sgn_eq (by decide), sgn_eq (by decide)]
  case addN32Imm => dsimp only [intForm] at hr; exact v32i_effect hr h fun x y _ _ => addW_eq 32 x y
  case andB32Imm => dsimp only [intForm] at hr; exact v32i_effect hr h fun x y hx hy => and_eq hx hy
  case orB32Imm => dsimp only [intForm] at hr; exact v32i_effect hr h fun x y hx hy => or_eq hx hy
  case xorB32Imm => dsimp only [intForm] at hr; exact v32i_effect hr h fun x y hx hy => xor_eq hx hy
  case shlB32Imm => dsimp only [intForm] at hr; exact v32i_effect hr h fun x y _ hy => by rw [count_eq hy, shlW_eq]
  case shrB32Imm => dsimp only [intForm] at hr; exact v32i_effect hr h fun x y hx hy => by rw [count_eq hy, shr_eq _ hx]
  case sarB32Imm =>
    dsimp only [intForm] at hr
    exact v32i_effect hr h fun x y _ hy => by rw [count_eq hy, sarW_eq _ (by decide)]
  case rsubN32 => dsimp only [intForm] at hr; exact v32i_effect hr h fun x y hx _ => subW_eq hx
  case minI32Imm => dsimp only [intForm] at hr; exact v32i_effect hr h fun x y hx hy => minS_eq (by decide) hx hy
  case maxI32Imm => dsimp only [intForm] at hr; exact v32i_effect hr h fun x y hx hy => maxS_eq (by decide) hx hy
  case movB32 => dsimp only [intForm] at hr; exact v32i_effect hr h fun x y _ hy => (ofNat_toNat_of_lt hy).symm
  case movB64 => cases hr; exact movB64_effect h
  case addN64Imm => cases hr; exact addN64Imm_effect h
  case addN64 => dsimp only [intForm] at hr; exact v64_effect hr h fun x y _ _ => addW_eq 64 x y
  case subN64 => dsimp only [intForm] at hr; exact v64_effect hr h fun x y _ hy => subW_eq hy
  case mulN64 => dsimp only [intForm] at hr; exact v64_effect hr h fun x y _ _ => mulW_eq 64 x y
  case andB64 => dsimp only [intForm] at hr; exact v64_effect hr h fun x y hx hy => and_eq hx hy
  case orB64 => dsimp only [intForm] at hr; exact v64_effect hr h fun x y hx hy => or_eq hx hy
  case xorB64 => dsimp only [intForm] at hr; exact v64_effect hr h fun x y hx hy => xor_eq hx hy
  case shlB64 => dsimp only [intForm] at hr; exact v64s_effect hr h fun x y _ => shlW_eq 64 x _
  case shrB64 => dsimp only [intForm] at hr; exact v64s_effect hr h fun x y hx => shr_eq _ hx
  case sarB64 => dsimp only [intForm] at hr; exact v64s_effect hr h fun x y _ => sarW_eq _ (by decide)
  case popcB32 => dsimp only [intForm] at hr; exact v32u_effect hr h fun x _ _ => popCount_ofNat x
  case clzB32 => dsimp only [intForm] at hr; exact v32u_effect hr h fun x _ hx => leadZeros_eq hx
  case brevB32 => dsimp only [intForm] at hr; exact v32u_effect hr h fun _ _ _ => rfl
  case bfeN32 => dsimp only [intForm] at hr; exact v32_effect hr h fun x y hx hy => bfeN_eq hx hy
  case bfeI32 => dsimp only [intForm] at hr; exact v32_effect hr h fun x y _ hy => bfeI_eq hy
  case mulwN32 => cases hr; exact mulwN32_effect h
  case selB32 => dsimp only [intForm] at hr; exact choose_effect hr h
  case selB64 => dsimp only [intForm] at hr; exact choose_effect hr h
  all_goals exact none_ne_some hr

end Sys2Proof.Proofs.Ints
end

section
/-! PROOFS. Words with a result in a scalar register (06 R206, R207, R211, R212, R215, R231), and mask words (06 R215). -/

set_option Elab.async false -- one proof at a time: the check bounds memory

namespace Sys2Proof.Proofs.Scalars

open Sys2Proof Sys2Proof.Machine Sys2Proof.Terms Sys2Proof.Laws

section Forms

variable {m i : Bool} {d a : SReg} {x : BitVec 7} {s : State} {w : Wave}

theorem sc_effect {op : W64 → W64 → W64} {r : ScalForm} (hr : sc m d a i x op = some r) (h : Runs s w [] r.wimm false) :
    ∃ w', ScalEffect s w w' r ∧ scalArith m d a i x op s = .next (settled (setW s s.cur.wave w') s.cur.wave) := by
  cases hr
  obtain ⟨w', hnext, heffect⟩ := scalArith_effect (m := m) (d := d) (a := a) (x := x) (op := op) h
  simp only [scX_eq] at heffect
  exact ⟨w', heffect, hnext⟩

theorem smov_effect (h : Runs s w [] i false) :
    ∃ w', ScalEffect s w w' ⟨m, i, false, d, fun s w => scalX s w i x⟩ ∧
      execSmov m d i x s = .next (settled (setW s s.cur.wave w') s.cur.wave) := by
  obtain ⟨w', hnext, heffect⟩ := runScal_value (f := Form.sc m i) (always := false) (d := d) (lat := 2) (wimm := i)
    (val := fun s w => scalX s w i x) (act := fun s w e => writeScal w e.tids d.toNat 2 (scX s w e 2 i x)) h
    (by simp only [scX_eq])
  rw [sc_last] at heffect
  exact ⟨w', heffect, hnext⟩

theorem sadr_effect (h : Runs s w [] true false) :
    ∃ w', ScalEffect s w w' ⟨m, true, false, d, fun s _ => s.cur.addr + imm64 s.cur.wimm x⟩ ∧
      execSadr m d x s = .next (settled (setW s s.cur.wave w') s.cur.wave) := by
  obtain ⟨w', hnext, heffect⟩ := runScal_value (f := Form.sc m true) (always := false) (d := d) (lat := 2) (wimm := true)
    (val := fun s _ => s.cur.addr + imm64 s.cur.wimm x)
    (act := fun _ w e => writeScal w e.tids d.toNat 2 (e.addr + BitVec.ofNat 64 (scImm e.wimm x))) h
    (by simp only [scImm_eq])
  rw [sc_last] at heffect
  exact ⟨w', heffect, hnext⟩

theorem emsave_effect (h : Runs s w [] false false) :
    ∃ w', ScalEffect s w w' ⟨m, false, true, d, fun _ w => w.em⟩ ∧
      execEmsave m d s = .next (settled (setW s s.cur.wave w') s.cur.wave) := by
  obtain ⟨w', hnext, heffect⟩ := runScal_value (f := Form.sc0 m) (always := true) (d := d) (lat := 2) (wimm := false)
    (val := fun _ w => w.em) (act := fun _ w e => writeScal w e.tids d.toNat 2 w.em) h rfl
  rw [sc0_last] at heffect
  exact ⟨w', heffect, hnext⟩

theorem getw_effect (h : Runs s w [] false false) :
    ∃ w', ScalEffect s w w' ⟨m, false, false, d, fun _ w => BitVec.ofNat 64 w.grant⟩ ∧
      execGetw m d s = .next (settled (setW s s.cur.wave w') s.cur.wave) := by
  obtain ⟨w', hleaves, heffect⟩ := Getw.getw_scalEffect (m := m) (d := d) h
  exact ⟨w', heffect, hleaves⟩

/-- The value that a scalar `rdsr` gives its register: what sibling 0 of the lowest packed thread reads (06 R212). -/
def rdsrValue (d : SReg) (n : BitVec 7) (s : State) (w : Wave) : W64 :=
  ((w.thread (lget 0 s.cur.tids 0)).map (fun t => BitVec.ofNat 64 (srRead s w 0 t n.toNat))).getD (scal w d.toNat)

/-- The privilege trap of `rdsr` and `wrsr`: a register marked P, user level, a thread active (02 R73). -/
theorem barred_iff {n : BitVec 7} :
    (srPriv n.toNat && w.priv.isNone && !(w.actives s.cur.tids).isEmpty) = true ↔ denied s w n := by
  simp [denied, and_assoc]

theorem rdsr_effect {n : BitVec 7} (h : Runs s w [] false false) (hread : ¬denied s w n) :
    ∃ w', ScalEffect s w w' ⟨m, false, false, d, rdsrValue d n⟩ ∧
      execRdsrScalar m d n s = .next (settled (setW s s.cur.wave w') s.cur.wave) := by
  have hnext : execRdsrScalar m d n s = _ := runWord_next h
  rw [if_neg (mt barred_iff.mp hread)] at hnext
  rw [hnext]
  cases ht : w.thread (lget 0 s.cur.tids 0) with
  | some t =>
    obtain ⟨w', hscal, heffect⟩ := runScal_value (f := Form.sc0 m) (always := false) (d := d) (lat := 2) (wimm := false)
      (val := rdsrValue d n) (act := fun s w e => match w.thread (lget 0 e.tids 0) with
        | some t => writeScal w e.tids d.toNat 2 (BitVec.ofNat 64 (srRead s w 0 t n.toNat))
        | none => w) h (by simp [rdsrValue, ht])
    rw [sc0_last] at heffect
    exact ⟨w', heffect, (runWord_next h).symm.trans hscal⟩
  | none =>
    obtain ⟨hthreads, hframe⟩ := passAll_effect s w (Form.sc0 m)
    rw [sc0_last] at hthreads hframe
    refine ⟨passAll s w s.cur (Form.sc0 m), ⟨hthreads, fun j => ?_, hframe⟩, ?_⟩
    · split
      case isTrue hj => rw [hj.2]; simp [rdsrValue, ht]; rfl
      case isFalse => rfl
    · simp [scalBody, ht]

end Forms

/-- Settles O1: word by word, the model's operation is the table's. -/
theorem scalarWordsWriteTheirResult : Obligations.ScalarWordsWriteTheirResult := by
  intro i s w r hr h
  cases i
  case smov => cases hr; exact smov_effect h
  case sadr => cases hr; exact sadr_effect h
  case getw => cases hr; exact getw_effect h
  case emsave => cases hr; exact emsave_effect h
  case rdsrScalar m d n =>
    dsimp only [scalForm] at hr
    split at hr
    case isTrue => cases hr
    case isFalse hread =>
      cases hr
      exact rdsr_effect h (by simpa [denied, and_assoc] using hread)
  case sadd | ssub | smul | smulhI64 | smulhN64 | sand | sor | sxor | sshl | sshr | ssar | sminI64 | sminN64 | smaxI64 | smaxN64
      | sceq | scltI64 | scltN64 | scleI64 | scleN64 =>
    dsimp only [scalForm] at hr
    obtain ⟨w', heffect, hnext⟩ := sc_effect hr h
    exact ⟨w', heffect, hnext⟩
  all_goals exact none_ne_some hr

end Sys2Proof.Proofs.Scalars
end

section
/-! PROOFS. Words that write the execution mask (06 R215) and special registers (02 R72-R77; 06 R213, R214). -/

set_option Elab.async false -- one proof at a time: the check bounds memory

namespace Sys2Proof.Proofs.Masks

open Sys2Proof Sys2Proof.Machine Sys2Proof.Terms Sys2Proof.Laws Sys2Proof.Proofs.Packed

section Bits

variable {s : State} {w v : Wave} {F : Nat → Thread → Thread}

theorem packedMask_getLsbD (s : State) (w : Wave) {n : Nat} (hn : n < 64) :
    (packedMask w s.cur.tids).getLsbD n = packed s w n := by
  rw [packedMask, maskOf_getLsbD _ _ hn, Bool.eq_iff_iff]
  simp [packed]

theorem packed_onTids (hv : v.threads = Machine.onTids s.cur.tids F 0 w.threads) (hF : ∀ n t, Alike t (F n t)) (n : Nat) :
    packed s v n = packed s w n := by
  rw [packed, packed, live_onTids hv hF]

/-- Bits under the mask come from the new value. -/
theorem merge_getLsbD (old new p : W64) (n : Nat) (hn : n < 64) :
    ((old &&& ~~~p) ||| (new &&& p)).getLsbD n = if p.getLsbD n then new.getLsbD n else old.getLsbD n := by
  simp only [BitVec.getLsbD_or, BitVec.getLsbD_and, BitVec.getLsbD_not, hn, decide_true, Bool.true_and]
  cases p.getLsbD n <;> simp

theorem setEm_getLsbD (s : State) (w : Wave) (x : W64) {n : Nat} (hn : n < 64) :
    (setEm w s.cur.tids x).em.getLsbD n = if packed s w n then x.getLsbD n else w.em.getLsbD n := by
  rw [← packedMask_getLsbD s w hn]
  exact merge_getLsbD _ _ _ _ hn

theorem setCm_getLsbD (s : State) (w : Wave) (x : W64) {n : Nat} (hn : n < 64) :
    (setCm w s.cur.tids x).cm.getLsbD n = if packed s w n then x.getLsbD n else w.cm.getLsbD n := by
  rw [← packedMask_getLsbD s w hn]
  exact merge_getLsbD _ _ _ _ hn

end Bits

section Mask

variable {m : Bool} {d : SReg} {s : State} {w : Wave} {mask : State → Wave → W64}

/-- A word that writes `em` and nothing else. -/
theorem setEm_effect (h : Runs s w [] false false) :
    ∃ w', MaskEffect s w w' ⟨m, none, mask⟩ ∧
      runScal (Form.sc0 m) true (fun s w _ => setEm w s.cur.tids (mask s w)) s =
        .next (settled (setW s s.cur.wave w') s.cur.wave) := by
  obtain ⟨hthreads, hframe⟩ := passAll_same (s := s) (w := w) (v := setEm w s.cur.tids (mask s w)) (Form.sc0 m) rfl
  rw [sc0_last] at hthreads hframe
  exact ⟨_, ⟨hthreads, fun n hn => setEm_getLsbD s w _ hn, fun _ => rfl, hframe⟩, runWord_next h⟩

/-- `emif` also keeps the mask as it was, in S(SD) (06 R215). -/
theorem emif_effect (h : Runs s w [] false false) :
    ∃ w', MaskEffect s w w' ⟨m, some d, fun s w => w.em &&& cmMask s w⟩ ∧
      execEmif m d s = .next (settled (setW s s.cur.wave w') s.cur.wave) := by
  let F (_ : Nat) (t : Thread) : Thread := { t with
    dues := mset t.dues (scalKey d.toNat) (t.clock + 2),
    clobbered := if t.owed.contains (scalKey d.toNat) then scalKey d.toNat :: t.clobbered else t.clobbered }
  have hsaved : (writeScal w s.cur.tids d.toNat 2 w.em).threads = Machine.onTids s.cur.tids F 0 w.threads := rfl
  obtain ⟨hthreads, hframe⟩ := passAll_onTids
    (v := setEm (writeScal w s.cur.tids d.toNat 2 w.em) s.cur.tids (w.em &&& cmMask s w)) (Form.sc0 m) hsaved fun _ _ => rfl
  rw [sc0_last] at hthreads hframe
  refine ⟨_, ⟨hthreads, fun n hn => ?_, fun j => ?_, hframe⟩, runWord_next h⟩
  · have hbit := setEm_getLsbD s (writeScal w s.cur.tids d.toNat 2 w.em) (w.em &&& cmMask s w) hn
    rwa [packed_onTids hsaved fun _ _ => rfl] at hbit
  · have hread := zget_zset 0#64 w.scal d.toNat j w.em
    simp only [Option.map_some, Option.some.injEq, @eq_comm _ d.toNat j]
    exact hread

end Mask

/-- Settles O8: a word writes the bits of its packed threads by `setEm`; `emif` saves the mask beside. -/
theorem maskWordsWriteTheExecutionMask : Obligations.MaskWordsWriteTheExecutionMask := by
  intro i s w r hr h
  cases i
  case emset | emand | emandn | emor | emelse => cases hr; exact setEm_effect h
  case emif => cases hr; exact emif_effect h
  all_goals exact none_ne_some hr

end Sys2Proof.Proofs.Masks
end

section
/-! PROOFS. Special registers: vector reads, writes, and the privilege trap (02 R72-R77; 06 R213, R214; 08 R311). -/

set_option Elab.async false -- one proof at a time: the check bounds memory

namespace Sys2Proof.Proofs.Special

open Sys2Proof Sys2Proof.Machine Sys2Proof.Terms Sys2Proof.Laws Sys2Proof.Proofs.Packed Sys2Proof.Proofs.Masks
  Sys2Proof.Proofs.Scalars

section Control

variable {old new : W32}

theorem bits2_lt (v lo : Nat) : bitsAt v lo 2 < 4 := Nat.mod_lt _ (by decide)

/-- The rounding field of a written control word: reserved codes keep the old one (02 R77). -/
def roundField (old new : W32) : Nat := if 2 ≤ bitsAt new.toNat 8 2 then ncRstream old else bitsAt new.toNat 8 2

theorem roundField_lt : roundField old new < 4 := by
  unfold roundField
  split
  · exact bits2_lt _ _
  · exact bits2_lt _ _

theorem writeNctl_eq : writeNctl old new = BitVec.ofNat 32 (new.toNat % 256) ||| BitVec.ofNat 32 (roundField old new * 256) := by
  simp only [writeNctl, roundField]
  split
  · rfl
  · rfl

theorem writeNctl_getLsbD (i : Nat) :
    (writeNctl old new).getLsbD i =
      (decide (i < 8) && new.getLsbD i || (decide (8 ≤ i) && decide (i < 32) && (roundField old new).testBit (i - 8))) := by
  rw [writeNctl_eq, BitVec.getLsbD_or, BitVec.getLsbD_ofNat, BitVec.getLsbD_ofNat, show 256 = 2 ^ 8 from rfl,
    Nat.testBit_mod_two_pow, Nat.testBit_mul_two_pow, BitVec.testBit_toNat]
  rcases Nat.lt_or_ge i 8 with hi | hi
  · simp [hi, Nat.not_le.mpr hi, show i < 32 by omega]
  · simp [hi, Nat.not_lt.mpr hi]

theorem writeNctl_low {i : Nat} (hi : i < 8) : (writeNctl old new).getLsbD i = new.getLsbD i := by
  simp [writeNctl_getLsbD, hi, Nat.not_le.mpr hi]

theorem writeNctl_high {i : Nat} (hi : 10 ≤ i) : (writeNctl old new).getLsbD i = false := by
  have hbit : (roundField old new).testBit (i - 8) = false :=
    Nat.testBit_lt_two_pow (roundField_lt.trans_le (Nat.pow_le_pow_right (n := 2) (by decide) (show 2 ≤ i - 8 by omega)))
  simp [writeNctl_getLsbD, show ¬i < 8 by omega, hbit]

theorem extract_eq_bitsAt (x : W32) : x.extractLsb' 8 2 = BitVec.ofNat 2 (bitsAt x.toNat 8 2) :=
  BitVec.eq_of_toNat_eq (by
    rw [BitVec.extractLsb'_toNat, BitVec.toNat_ofNat, bitsAt, Nat.mod_mod, Nat.shiftRight_eq_div_pow])

theorem writeNctl_round : (writeNctl old new).extractLsb' 8 2 = BitVec.ofNat 2 (roundField old new) := by
  apply BitVec.eq_of_getLsbD_eq
  intro i hi
  have hrange : i < 32 - 8 := by omega
  rw [BitVec.getLsbD_extractLsb', writeNctl_getLsbD, BitVec.getLsbD_ofNat]
  simp [hi, show 8 + i < 32 by omega]

/-- Bit 9 says whether the written code is a reserved one. -/
theorem reserved_iff : 2 ≤ bitsAt new.toNat 8 2 ↔ new.getLsbD 9 = true := by
  rw [BitVec.getLsbD, Nat.testBit_eq_decide_div_mod_eq, decide_eq_true_iff, bitsAt]
  omega

theorem writeNctl_round_eq (v : W64) :
    (writeNctl old (v.setWidth 32)).extractLsb' 8 2 =
      if v.getLsbD 9 then old.extractLsb' 8 2 else v.extractLsb' 8 2 := by
  have hbit : (v.setWidth 32).getLsbD 9 = v.getLsbD 9 := by simp
  rw [writeNctl_round, ← hbit]
  unfold roundField
  split
  case isTrue hreserved => rw [if_pos (reserved_iff.mp hreserved), extract_eq_bitsAt, ncRstream]
  case isFalse hreserved =>
    rw [if_neg (mt reserved_iff.mpr hreserved), ← extract_eq_bitsAt]
    apply BitVec.eq_of_getLsbD_eq
    intro i hi
    simp [hi, show 8 + i < 32 by omega]

end Control

section Write

variable {m : Bool} {n : Nat} {s : State} {w v : Wave} {x : W64}

/-- Wave `v` is wave `w` after the write of `x` to special register `n`, its threads not yet past the word. -/
structure Wrote (s : State) (w v : Wave) (n : Nat) (x : W64) : Prop where
  threads : ∃ F, v.threads = Machine.onTids s.cur.tids F 0 w.threads ∧ ∀ i t, Alike t (F i t)
  em : ∀ i < 64, v.em.getLsbD i = if n = 0x10 ∧ packed s w i = true then x.getLsbD i else w.em.getLsbD i
  cm : ∀ i < 64, v.cm.getLsbD i = if n = 0x11 ∧ packed s w i = true then x.getLsbD i else w.cm.getLsbD i
  runx : v.runx = if w.actives s.cur.tids ≠ [] ∧ n = 0x18 ∧ x.getLsbD 8 = true then false else w.runx
  aflag : v.aflag = if w.actives s.cur.tids ≠ [] ∧ n = 0x19 then w.aflag &&& ~~~(x.setWidth 32) else w.aflag
  nctl : v.nctl = if w.actives s.cur.tids ≠ [] ∧ n = 0x1A then writeNctl w.nctl (x.setWidth 32) else w.nctl
  frame : v = { w with threads := v.threads, em := v.em, cm := v.cm, runx := v.runx, aflag := v.aflag, nctl := v.nctl }

/-- The threads then pass the word. -/
theorem Wrote.effect (h : Wrote s w v n x) : WrsrEffect s w (passAll s v s.cur (Form.sc0 m)) m n x := by
  obtain ⟨⟨F, hthreads, hF⟩, hem, hcm, hrunx, haflag, hnctl, hframe⟩ := h
  obtain ⟨hpass, hrest⟩ := passAll_onTids (Form.sc0 m) hthreads hF
  rw [sc0_last] at hpass hrest
  generalize passAll s v s.cur (Form.sc0 m) = w' at hpass hrest
  have hv : w'.em = v.em ∧ w'.cm = v.cm ∧ w'.runx = (v.runx || spills s w m) ∧ w'.aflag = v.aflag ∧ w'.nctl = v.nctl := by
    rw [hrest]; exact ⟨rfl, rfl, rfl, rfl, rfl⟩
  obtain ⟨hem', hcm', hrunx', haflag', hnctl'⟩ := hv
  refine ⟨hpass, by rwa [hem'], by rwa [hcm'], by rw [hrunx', hrunx], haflag'.trans haflag, ?_, ?_⟩
  · rw [hnctl', hnctl]
    split
    · exact ⟨fun i hi => (writeNctl_low hi).trans (by simp; omega), fun i hi => writeNctl_high hi, writeNctl_round_eq x⟩
    · rfl
  · rw [hem', hcm', hrunx', haflag', hnctl', hrest, hframe]

theorem same_threads (h : v.threads = w.threads) :
    ∃ F, v.threads = Machine.onTids s.cur.tids F 0 w.threads ∧ ∀ i t, Alike t (F i t) :=
  ⟨fun _ t => t, by rw [h, onTids_self], fun _ t => alike_refl t⟩

/-- A register that takes no write of the word, or a write with no thread active. -/
theorem wrote_nothing (hem : n ≠ 0x10) (hcm : n ≠ 0x11)
    (h : w.actives s.cur.tids = [] ∨ (n ≠ 0x18 ∧ n ≠ 0x19 ∧ n ≠ 0x1A)) : Wrote s w w n x where
  threads := same_threads rfl
  em _ _ := by rw [if_neg fun hn => hem hn.1]
  cm _ _ := by rw [if_neg fun hn => hcm hn.1]
  runx := by rw [if_neg fun hn => h.elim hn.1 fun hno => hno.1 hn.2.1]
  aflag := by rw [if_neg fun hn => h.elim hn.1 fun hno => hno.2.1 hn.2]
  nctl := by rw [if_neg fun hn => h.elim hn.1 fun hno => hno.2.2 hn.2]
  frame := rfl

theorem wrote_em : Wrote s w (setEm w s.cur.tids x) 0x10 x where
  threads := same_threads rfl
  em i hi := by simpa using setEm_getLsbD s w x hi
  cm i hi := by simp [setEm]
  runx := by simp [setEm]
  aflag := by simp [setEm]
  nctl := by simp [setEm]
  frame := rfl

theorem wrote_cm : Wrote s w (setCm w s.cur.tids x) 0x11 x where
  threads := ⟨fun _ t => { t with dues := mdel t.dues cmKey }, rfl, fun _ _ => rfl⟩
  em i hi := by simp [setCm, Wave.onTids]
  cm i hi := by simpa using setCm_getLsbD s w x hi
  runx := by simp [setCm, Wave.onTids]
  aflag := by simp [setCm, Wave.onTids]
  nctl := by simp [setCm, Wave.onTids]
  frame := rfl

theorem wrote_runx (hon : w.actives s.cur.tids ≠ []) : Wrote s w { w with runx := w.runx && !x.getLsbD 8 } 0x18 x where
  threads := same_threads rfl
  em i hi := by simp
  cm i hi := by simp
  runx := by cases x.getLsbD 8 <;> simp [hon]
  aflag := by simp
  nctl := by simp
  frame := rfl

theorem wrote_aflag (hon : w.actives s.cur.tids ≠ []) :
    Wrote s w { w with aflag := w1c w.aflag (x.setWidth 32) } 0x19 x where
  threads := same_threads rfl
  em i hi := by simp
  cm i hi := by simp
  runx := by simp
  aflag := by rw [if_pos ⟨hon, rfl⟩]; rfl
  nctl := by simp
  frame := rfl

theorem wrote_nctl (hon : w.actives s.cur.tids ≠ []) :
    Wrote s w { w with nctl := writeNctl w.nctl (x.setWidth 32) } 0x1A x where
  threads := same_threads rfl
  em i hi := by simp
  cm i hi := by simp
  runx := by simp
  aflag := by simp
  nctl := by rw [if_pos ⟨hon, rfl⟩]
  frame := rfl

/-- A write with a thread active, or of a mask, is the register's (02 R73-R77). -/
theorem srWrite_wrote (h : n = 0x10 ∨ n = 0x11 ∨ w.actives s.cur.tids ≠ []) : Wrote s w (srWrite w s.cur.tids n x) n x := by
  unfold srWrite
  simp only [beq_iff_eq]
  split
  case isTrue hn => subst hn; exact wrote_em
  case isFalse hem =>
    split
    case isTrue hn => subst hn; exact wrote_cm
    case isFalse hcm =>
      have hon := (h.resolve_left hem).resolve_left hcm
      split
      case isTrue hn => subst hn; exact wrote_runx hon
      case isFalse hrunx =>
        split
        case isTrue hn => subst hn; exact wrote_aflag hon
        case isFalse haflag =>
          split
          case isTrue hn => subst hn; exact wrote_nctl hon
          case isFalse hnctl => exact wrote_nothing hem hcm (.inr ⟨hrunx, haflag, hnctl⟩)

/-- The word of `wrsr`, the privilege trap aside. -/
theorem scalBody_wrote (s' : State) (hs : s'.cycle = s.cycle ∧ s'.cur = s.cur ∧ actBank s' = actBank s) (n : BitVec 7) :
    ∃ w', WrsrEffect s w w' m n.toNat x ∧
      scalBody (Form.sc0 m) (n == 0x10#7 || n == 0x11#7) (fun _ w e => srWrite w e.tids n.toNat x) s' s.cur.wave w s.cur =
        setW s' s.cur.wave w' := by
  have hpass (v : Wave) : passAll s' v s.cur (Form.sc0 m) = passAll s v s.cur (Form.sc0 m) := by
    simp only [passAll, hs]
  have hmask : (n == 0x10#7 || n == 0x11#7) = true ↔ n.toNat = 0x10 ∨ n.toNat = 0x11 := by
    simp [← BitVec.toNat_inj]
  have hon : (!(w.actives s.cur.tids).isEmpty) = true ↔ w.actives s.cur.tids ≠ [] := by simp
  rw [scalBody]
  split
  case isTrue hact =>
    rw [Bool.or_eq_true, hmask, hon, or_assoc] at hact
    exact ⟨_, (srWrite_wrote hact).effect, by rw [← hpass]⟩
  case isFalse hact =>
    rw [Bool.or_eq_true, hmask, hon, or_assoc] at hact
    simp only [not_or, not_not] at hact
    exact ⟨_, (wrote_nothing hact.1 hact.2.1 (.inl hact.2.2)).effect, by rw [← hpass]⟩

end Write

section Words

variable {m : Bool} {a d : SReg} {n : BitVec 7} {s : State} {w : Wave}

theorem wrsr_effect (h : Runs s w [] false false) (hfree : ¬denied s w n) :
    ∃ w', WrsrEffect s w w' m n.toNat (readScal s w s.cur.tids 1 a.toNat) ∧
      execWrsr m a n s = .next (settled (setW
        (if n = 0x14 ∧ w.actives s.cur.tids ≠ [] ∧ w.priv.isSome = true then
          { s with gsteps := zset 0#64 s.gsteps (partOf s w.cid) (readScal s w s.cur.tids 1 a.toNat) }
        else s) s.cur.wave w') s.cur.wave) := by
  have hnext : execWrsr m a n s = _ := runWord_next h
  rw [if_neg (mt barred_iff.mp hfree)] at hnext
  have hstep : (if (n == 0x14#7 && !(w.actives s.cur.tids).isEmpty) = true then
        writeGstep s w (readScal s w s.cur.tids 1 a.toNat) else s) =
      if n = 0x14 ∧ w.actives s.cur.tids ≠ [] ∧ w.priv.isSome = true then
        { s with gsteps := zset 0#64 s.gsteps (partOf s w.cid) (readScal s w s.cur.tids 1 a.toNat) }
      else s := by
    simp only [writeGstep, Bool.and_eq_true, beq_iff_eq, Bool.not_eq_true', List.isEmpty_eq_false_iff, ite_and, ne_eq]
    rfl
  rw [hstep] at hnext
  obtain ⟨w', heffect, hbody⟩ := scalBody_wrote (m := m) (w := w) (x := readScal s w s.cur.tids 1 a.toNat)
    (if n = 0x14 ∧ w.actives s.cur.tids ≠ [] ∧ w.priv.isSome = true then
      { s with gsteps := zset 0#64 s.gsteps (partOf s w.cid) (readScal s w s.cur.tids 1 a.toNat) } else s)
    (by split <;> exact ⟨rfl, rfl, rfl⟩) n
  exact ⟨w', heffect, by rw [hnext, hbody]⟩

theorem privTrap_user (hw : mget s.waves s.cur.wave = some w) (h : denied s w n) :
    privTrap s s.cur.wave s.cur n.toNat = setW s s.cur.wave
      { w with causes := w.causes ++ [⟨cPrivilege, s.cur.addr, BitVec.ofNat 64 n.toNat, 0#32, 0, maskOf s.cur.tids⟩] } :=
  meetCause_user _ hw h.2.1 (any_live_of_active h.2.2)

/-- `Runs` with no specifier named fits a word whose register is not looked at because the privilege trap comes first (12 R377). -/
theorem rdsrVector_specs (hw : mget s.waves s.cur.wave = some w) :
    (srPriv n.toNat && ((mget s.waves s.cur.wave).map (fun w => w.priv.isNone)).getD false) = (srPriv n.toNat && w.priv.isNone) := by
  rw [hw]; rfl

/-- One value for each sibling. -/
theorem sibs_map_const (w : Wave) (x : Nat) : (w.sibs.map fun _ => x) = List.replicate w.nsib x := by
  rw [List.map_const']
  congr 1
  unfold Wave.sibs Wave.nsib
  split <;> rfl

theorem rdsrVector_effect {d : Spec} (h : Runs s w [d] false false) (hfree : ¬denied s w n) :
    ∃ w', VecEffect s w w'
        ⟨m, d, [d], sr64 n, false, 2, 0, fun s w i t => (w.sibs.map fun _ => srRead s w i t n.toNat, 0)⟩ ∧
      execRdsrVector m d n s = .next (settled (setW s s.cur.wave w') s.cur.wave) := by
  obtain ⟨hw, hwimm, hpriv, hheld⟩ := h
  let f := Form.v3 m (if (srPriv n.toNat && w.priv.isNone) = true then [] else [d])
  have hruns : Runs s w f.specs f.wimm f.user := by
    refine ⟨hw, hwimm, hpriv, hheld.imp id fun hheld p hp => hheld p ?_⟩
    have hsub : f.specs ⊆ [d] := by
      show (if _ then [] else [d]) ⊆ [d]
      split
      · exact List.nil_subset _
      · exact List.Subset.refl _
    exact hsub hp
  obtain ⟨w', hvec, heffect⟩ := runVec_form (f := f) (d := d) (wide := sr64 n) (lat := 2) (rc := 0)
    (comp := fun s w i t => ⟨List.replicate w.nsib (srRead s w i t n.toNat), 0⟩)
    (r := ⟨m, d, [d], sr64 n, false, 2, 0, fun s w i t => (w.sibs.map fun _ => srRead s w i t n.toNat, 0)⟩) hruns
    ⟨(v3_last m _).symm, rfl, rfl, rfl, rfl⟩ (fun s w i t => by simp only [sibs_map_const]) (fun i t => by simp)
    (.inr (trap_nil fun _ _ => rfl))
  refine ⟨w', heffect, ?_⟩
  rw [← hvec, runVec, runWord_next hruns, execRdsrVector, rdsrVector_specs hw, runWord_next hruns,
    if_neg (mt barred_iff.mp hfree)]

theorem rdsrVector_denied {d : Spec} (h : Runs s w [] false false) (hbar : denied s w n) :
    execRdsrVector m d n s = .next (settled (privTrap s s.cur.wave s.cur n.toNat) s.cur.wave) := by
  have hpriv : (srPriv n.toNat && w.priv.isNone) = true := by simp [hbar.1, hbar.2.1]
  rw [execRdsrVector, rdsrVector_specs h.1, if_pos hpriv, runWord_next (f := Form.v3 m []) h, if_pos (barred_iff.mpr hbar)]

theorem rdsrScalar_denied (h : Runs s w [] false false) (hbar : denied s w n) :
    execRdsrScalar m a n s = .next (settled (privTrap s s.cur.wave s.cur n.toNat) s.cur.wave) := by
  rw [execRdsrScalar, runWord_next (f := Form.sc0 m) h, if_pos (barred_iff.mpr hbar)]

theorem wrsr_denied (h : Runs s w [] false false) (hbar : denied s w n) :
    execWrsr m a n s = .next (settled (privTrap s s.cur.wave s.cur n.toNat) s.cur.wave) := by
  rw [execWrsr, runWord_next (f := Form.sc0 m) h, if_pos (barred_iff.mpr hbar)]

theorem vread_effect {d : Spec} (h : Runs s w [d] false false) :
    ∃ w', VecEffect s w w' ⟨m, d, [d], false, false, 2, 0, fun _ w _ _ => (w.sibs.map fun _ => w.pver, 0)⟩ ∧
      execVread m d s = .next (settled (setW s s.cur.wave w') s.cur.wave) := by
  obtain ⟨w', hvec, heffect⟩ := runVec_form (f := Form.v3 m [d]) (d := d) (wide := false) (lat := 2) (rc := 0)
    (comp := fun _ w _ _ => ⟨w.sibs.map fun _ => w.pver, 0⟩)
    (r := ⟨m, d, [d], false, false, 2, 0, fun _ w _ _ => (w.sibs.map fun _ => w.pver, 0)⟩) h
    ⟨(v3_last m _).symm, rfl, rfl, rfl, rfl⟩ (fun _ _ _ _ => rfl) (fun _ _ => by simp) (.inr (trap_nil fun _ _ => rfl))
  exact ⟨w', heffect, hvec⟩

end Words

/-- Settles O7: a read's value and a write's effect come from the register's own rule; the trap comes before either. -/
theorem specialRegistersAreReadAndWritten : Obligations.SpecialRegistersAreReadAndWritten := by
  refine ⟨fun i s w r hr h hfree => ?_, fun m a n s w h hfree => ?_, fun i n s w hi h hbar => ?_⟩
  · cases i
    case rdsrVector => cases hr; exact rdsrVector_effect h (hfree _ _ _ rfl)
    case vread => cases hr; exact vread_effect h
    all_goals exact none_ne_some hr
  · exact wrsr_effect h hfree
  · have htrap := privTrap_user h.1 hbar
    rw [Leaves, ← htrap]
    obtain ⟨m, d, a, rfl | rfl | rfl⟩ := hi
    · exact rdsrScalar_denied h hbar
    · exact rdsrVector_denied h hbar
    · exact wrsr_denied h hbar

end Sys2Proof.Proofs.Special
end

section
/-! PROOFS. Floating-point words of fixed latency (07 R250, R251, R258-R264, R267-R273): the model works on the list of an operand's
siblings, the table on one sibling at a time. -/

set_option Elab.async false -- one proof at a time: the check bounds memory

namespace Sys2Proof.Proofs.Floats

open Sys2Proof Sys2Proof.Machine Sys2Proof.Terms Sys2Proof.Laws Sys2Proof.Proofs.Unstable

section Siblings

variable {s : State} {w : Wave} {n : Nat} {t : Thread}

theorem enumFrom_sibs {α : Type} (f : Nat → α) : enumFrom 0 (w.sibs.map f) = w.sibs.map fun k => (k, f k) := by
  unfold Wave.sibs
  split
  · rfl
  · rfl

theorem zipWith_sibs {α β γ : Type} (op : α → β → γ) (f : Nat → α) (g : Nat → β) :
    List.zipWith op (w.sibs.map f) (w.sibs.map g) = w.sibs.map fun k => op (f k) (g k) := by
  rw [List.zipWith_map_left, List.zipWith_map_right, List.zipWith_self]

theorem exact2_sibs (op : FV → FV → Exact) (f g : Nat → Nat) :
    exact2 op (w.sibs.map f) (w.sibs.map g) = w.sibs.map fun k => op (fdec fp32 (f k)) (fdec fp32 (g k)) :=
  zipWith_sibs _ f g

/-- Each sibling rounds by itself (07 R251). -/
theorem rounded_sibs (f : Fmt) (sat : Bool) (rm : Option RM) (ex : Nat → Exact) :
    rounded f sat rm s w t (w.sibs.map ex) = gather (w.sibs.map (rounds s w t rm f sat ex)) := by
  rw [rounded, enumFrom_sibs, List.map_map]
  rfl

/-- The table's results are those of the siblings together. -/
theorem outs_gather (f : Nat → FRes) (extra : Nat) :
    outs w f extra = ((gather (w.sibs.map f)).vals, (gather (w.sibs.map f)).flags ||| inTriple w extra) := by
  rw [outs, gather, List.map_map]
  rfl

theorem inTriple_zero (w : Wave) : inTriple w 0 = 0 := ite_self 0

theorem outs_plain (f : Nat → FRes) :
    outs w f 0 = ((gather (w.sibs.map f)).vals, (gather (w.sibs.map f)).flags) := by
  rw [outs_gather, inTriple_zero, Nat.or_zero]

theorem outs_length (f : Nat → FRes) (extra : Nat) : (outs w f extra).1.length ≤ 3 := by simp [outs]

end Siblings

section Bits

/-- A flipped sign bit (07 R263). -/
theorem flip_eq {x : Nat} (hx : x < 2 ^ 32) :
    (BitVec.ofNat 32 x ^^^ 0x80000000#32).toNat = (x + 2 ^ 31) % 2 ^ 32 := by
  rw [BitVec.toNat_xor, BitVec.toNat_ofNat, BitVec.toNat_ofNat, Nat.mod_eq_of_lt hx]
  have hlow : (x ^^^ 2 ^ 31) % 2 ^ 31 = x % 2 ^ 31 := by rw [Nat.xor_mod_two_pow]; simp
  have hhigh : (x ^^^ 2 ^ 31) / 2 ^ 31 = x / 2 ^ 31 ^^^ 1 := by rw [Nat.xor_div_two_pow]; simp
  rw [show 2147483648 % 2 ^ 32 = 2 ^ 31 by decide]
  have hbit : x / 2 ^ 31 = 0 ∨ x / 2 ^ 31 = 1 := by omega
  rcases hbit with hbit | hbit
  · rw [hbit] at hhigh
    simp only [Nat.zero_xor] at hhigh
    omega
  · rw [hbit] at hhigh
    simp only [Nat.xor_self] at hhigh
    omega

/-- The magnitude of one value under the sign of another (07 R263). -/
theorem copysign_eq (x y : Nat) :
    ((BitVec.ofNat 32 x &&& 0x7FFFFFFF#32) ||| (BitVec.ofNat 32 y &&& 0x80000000#32)).toNat =
      x % 2 ^ 31 + bitsAt y 31 1 * 2 ^ 31 := by
  have hmag : (BitVec.ofNat 32 x &&& 0x7FFFFFFF#32).toNat = x % 2 ^ 31 := by
    rw [BitVec.toNat_and, BitVec.toNat_ofNat, show (0x7FFFFFFF#32).toNat = 2 ^ 31 - 1 from rfl,
      Nat.and_two_pow_sub_one_eq_mod, Nat.mod_mod_of_dvd _ (by decide)]
  have hsign : (BitVec.ofNat 32 y &&& 0x80000000#32).toNat = 2 ^ 31 * bitsAt y 31 1 := by
    rw [BitVec.toNat_and, BitVec.toNat_ofNat, show (0x80000000#32).toNat = 2 ^ 31 from rfl, Nat.and_two_pow, Nat.testBit_mod_two_pow,
      decide_eq_true (by decide : 31 < 32), Bool.true_and, Nat.toNat_testBit, bitsAt, pow_one, Nat.mul_comm]
  rw [BitVec.toNat_or, hmag, hsign, Nat.or_comm, ← Nat.two_pow_add_eq_or_of_lt (Nat.mod_lt _ (by decide))]
  ring

/-- Appended fields do not overlap. -/
theorem append_toNat {m n : Nat} (x : BitVec m) (y : BitVec n) : (x ++ y).toNat = x.toNat * 2 ^ n + y.toNat := by
  rw [BitVec.toNat_append, ← Nat.shiftLeft_add_eq_or_of_lt y.isLt, Nat.shiftLeft_eq]

theorem six_toNat (x : Nat) : (BitVec.ofNat 6 x).toNat = x % 2 ^ 6 := BitVec.toNat_ofNat x 6

theorem pack6_eq (x : Nat) :
    ((BitVec.ofNat 6 (x / 2 ^ 24)) ++ (BitVec.ofNat 6 (x / 2 ^ 16)) ++ (BitVec.ofNat 6 (x / 2 ^ 8)) ++
      (BitVec.ofNat 6 x)).toNat = pack6 x := by
  simp only [append_toNat, six_toNat, pack6, bitsAt]
  omega

/-- One element of a group of four (07 R271). -/
theorem element_eq (signed : Bool) (x i : Nat) :
    (if signed then (BitVec.ofNat 6 (x / 2 ^ (6 * i))).signExtend 8 else (BitVec.ofNat 6 (x / 2 ^ (6 * i))).setWidth 8 : Byte).toNat =
      if signed then sext 6 8 (bitsAt x (6 * i) 6) else bitsAt x (6 * i) 6 := by
  cases signed
  · simp only [Bool.false_eq_true, if_false, BitVec.toNat_setWidth, six_toNat, bitsAt]
    omega
  · simp only [if_true, sext_eq (by decide : 0 < 6), bitsAt]
    congr 2
    exact BitVec.eq_of_toNat_eq (by simp)

theorem unpack6_eq (signed : Bool) (x : Nat) :
    let e (i : Nat) : Byte :=
      if signed then (BitVec.ofNat 6 (x / 2 ^ (6 * i))).signExtend 8 else (BitVec.ofNat 6 (x / 2 ^ (6 * i))).setWidth 8
    (e 3 ++ e 2 ++ e 1 ++ e 0).toNat = unpack6 signed x := by
  simp only [append_toNat, element_eq, unpack6]
  omega

end Bits

/-- What the statement says of a word of the table, for its outcome `o`: completed, or in a handler a handler fault after it. -/
def Completes (o : Out) (s : State) (w : Wave) (r : VecForm) : Prop :=
  (w.priv = none ∨ r.trap s w = [] → ∃ w', VecEffect s w w' r ∧ o = .next (settled (setW s s.cur.wave w') s.cur.wave)) ∧
  (w.priv.isSome = true →
    ∃ w', VecEffect s w { w' with causes := w.causes ++ r.trap s w } r ∧ w'.causes = w.causes ∧
      ∀ c ∈ r.trap s w, o = .next (settled (handlerFault (setW s s.cur.wave w') s.cur.wave c) s.cur.wave))

section Forms

variable {m : Bool} {rm : RM} {d a b : Spec} {s : State} {w : Wave} {r : VecForm} {wide : Bool}

theorem runVec_completes {f : Form} {lat rc : Nat} {comp : State → Wave → Nat → Thread → VRes} (h : Runs s w f.specs f.wimm f.user)
    (hf : r.marked = f.last ∧ r.dest = d ∧ r.wide = wide ∧ r.lat = lat ∧ r.count = rc)
    (hr : ∀ s w n t, r.result s w n t = ((comp s w n t).vals, (comp s w n t).flags))
    (hl : ∀ n t, (r.result s w n t).1.length ≤ 3) : Completes (runVec f d wide lat rc comp s) s w r := by
  refine ⟨fun hp => ?_, fun hpriv => runVec_unstable h hf hr hl hpriv⟩
  obtain ⟨w', hnext, heffect⟩ := runVec_form h hf hr hl hp
  exact ⟨w', heffect, hnext⟩

/-- A word in the V3 format: the table's results are the model's. -/
theorem v3_completes {names : List Spec} {lat rc : Nat} {comp : State → Wave → Nat → Thread → VRes}
    {result : State → Wave → Nat → Thread → List Nat × Nat} (h : Runs s w names false false)
    (hr : ∀ s w n t, result s w n t = ((comp s w n t).vals, (comp s w n t).flags))
    (hl : ∀ n t, (result s w n t).1.length ≤ 3) :
    Completes (runVec (Form.v3 m names) d wide lat rc comp s) s w ⟨m, d, names, wide, false, lat, rc, result⟩ :=
  runVec_completes (f := Form.v3 m names) h ⟨(v3_last m names).symm, rfl, rfl, rfl, rfl⟩ hr hl

theorem sum_completes {op : FV → FV → Exact}
    (hr : sumForm m rm d [a, b] (fun s w n t => [all s w n t 1 a, all s w n t 2 b])
      (fun s w n t k => op (fval s w n t 1 a k) (fval s w n t 2 b k)) = some r)
    (h : Runs s w r.names r.wimm false) : Completes (runSum m rm d a b op s) s w r := by
  cases hr
  refine v3_completes h (fun s w n t => ?_) fun n t => outs_length _ _
  simp only [operand, exact2_sibs, rounded_sibs, outs_gather, gather, List.map_map]
  rfl

theorem fused_completes {c : BitVec 4} {np nc : Bool} (hr : fmaForm m rm d a b c np nc = some r) (h : Runs s w r.names r.wimm false) :
    Completes (runFused m rm d a b c np nc s) s w r := by
  cases hr
  refine v3_completes h (fun s w n t => ?_) fun n t => outs_length _ _
  simp only [operand, zipWith_sibs, rounded_sibs, outs_gather, gather, List.map_map]
  rfl

theorem bits2_completes {op op' : Nat → Nat → FRes} (hr : bits2 m d a b op' = some r) (h : Runs s w r.names r.wimm false)
    (hop : ∀ x y, op x y = op' x y) : Completes (runBits2 m d a b op s) s w r := by
  cases hr
  obtain rfl : op = op' := funext fun x => funext (hop x)
  refine v3_completes h (fun s w n t => ?_) fun n t => outs_length _ _
  simp only [operand, zipWith_sibs, outs_plain, fbits]

theorem bits1_completes {lat : Nat} {op op' : Nat → FRes} (hr : bits1 m d a lat op' = some r) (h : Runs s w r.names r.wimm false)
    (hop : ∀ x < 2 ^ 32, op x = op' x) : Completes (runBits1 m d a lat op s) s w r := by
  cases hr
  refine v3_completes h (fun s w n t => ?_) fun n t => outs_length _ _
  have hlist : (operand s w n t 1 a).map op = w.sibs.map fun k => op' (fbits s w n t 1 a k) := by
    rw [operand, List.map_map]
    exact List.map_congr_left fun k _ => hop _ (readOp_lt s w n t k 1 a false)
  rw [hlist, outs_plain]

theorem cvt_completes {f : Fmt} {sat : Bool} {src src' : Nat → Exact} (hr : cvtForm m d a wide f sat rm src' = some r)
    (h : Runs s w r.names r.wimm false) (hsrc : ∀ x, src x = src' x) : Completes (runCvt m d a wide f sat rm src s) s w r := by
  cases hr
  obtain rfl : src = src' := funext hsrc
  refine v3_completes h (fun s w n t => ?_) fun n t => outs_length _ _
  rw [rounded_sibs, outs_plain]

theorem cvtSigned_completes {n : Nat} (hn : 0 < n)
    (hr : cvtForm m d a wide fp32 false rm (fun x => exOfZ (BitVec.ofNat n x).toInt) = some r) (h : Runs s w r.names r.wimm false) :
    Completes (runCvt m d a wide fp32 false rm (fun x => exOfZ (sgn n x)) s) s w r :=
  cvt_completes hr h fun x => congrArg exOfZ (sgn_eq hn x)

/-- One value for every sibling, from the siblings of the operand (07 R272). -/
theorem uniform_completes {op : State → Wave → List Nat → Nat} {f : State → Wave → Nat → Thread → Nat}
    (hr : uniform m d a f = some r) (h : Runs s w r.names r.wimm false)
    (hop : ∀ s w n t, op s w (operand s w n t 1 a) = f s w n t) : Completes (runSib m d a op s) s w r := by
  cases hr
  exact v3_completes h (fun s w n t => by simp only [hop]) fun n t => by simp

theorem fmul_completes (h : Runs s w [d, a, b] false false) :
    Completes (execFmulF32 m rm d a b s) s w ⟨m, d, [d, a, b], false, false, 6, 1, fun s w n t =>
      outs w (rounds s w t (some rm) fp32 false fun k => fmul (fval s w n t 1 a k) (fval s w n t 2 b k)) 0⟩ :=
  v3_completes h (fun s w n t => by simp only [operand, exact2_sibs, rounded_sibs, outs_plain, fval, fbits]) fun n t => outs_length _ _

theorem fexpi_completes (h : Runs s w [d, a, b] false false) :
    Completes (execFexpiF32 m rm d a b s) s w ⟨m, d, [d, a, b], false, false, 6, 1, fun s w n t =>
      outs w (rounds s w t (some rm) fp32 false fun k =>
        fexpi (fval s w n t 1 a k) (BitVec.ofNat 32 (fbits s w n t 2 b k)).toInt) 0⟩ :=
  v3_completes h
    (fun s w n t => by
      simp only [operand, zipWith_sibs, rounded_sibs, outs_plain, fval, fbits, sgn_eq (by decide : 0 < 32)])
    fun n t => outs_length _ _

theorem frint_completes (h : Runs s w [d, a] false false) :
    Completes (execFrintF32 m d a rm s) s w ⟨m, d, [d, a], false, false, 6, 1, fun s w n t =>
      outs w (fun k => frint (ruleAt s w t (some rm) k) (fbits s w n t 1 a k)) 0⟩ :=
  v3_completes h (fun s w n t => by simp only [operand, enumFrom_sibs, List.map_map, outs_plain, fbits]; rfl)
    fun n t => outs_length _ _

theorem ite_not_swap (b : Bool) (x : Nat) : (if (!b) = true then x else 0) = if b = true then 0 else x := by cases b <;> rfl

theorem all_alike (x y z : Int) : [x, y, z].all (fun i => i == [x, y, z].headD 0) = (x == y && x == z) := by
  rw [Bool.eq_iff_iff]
  simp [@eq_comm _ x]

/-- The value that is converted, and whether the siblings convert alike (03 R113). -/
theorem toInt_completes {lo hi : Int} (hr : intCvt m d a wide rm lo hi = some r) (h : Runs s w r.names r.wimm false) :
    Completes (runToInt m d a wide rm lo hi s) s w r := by
  cases hr
  refine v3_completes h (fun s w n t => ?_) fun n t => by simp
  cases htriple : w.triple
  · simp [operand, Wave.sibs, htriple, inTriple, wrap_eq, fval, fbits]
  · simp only [operand, Wave.sibs, htriple, if_true, List.map_cons, List.map_nil, all_alike, inTriple, wrap_eq, fval, fbits,
      Bool.true_and, ite_not_swap]

theorem sibset_completes {k : BitVec 2} (h : Runs s w [d, a] false false) :
    Completes (execSibset m d a k s) s w ⟨m, d, [d, a], false, false, 6, 0, fun s w n t =>
      (w.sibs.map fun j =>
        if j = k.toNat then readOp s w n t 0 1 a false else t.reg true (freeOp s n j 8) d.toNat j, 0)⟩ :=
  v3_completes h (fun s w n t => by simp only [beq_iff_eq]) fun n t => by simp

theorem krnd_completes {word : BitVec 2} (h : Runs s w [d, a] false false) :
    Completes (execKrnd m d a word s) s w ⟨m, d, [d, a], false, false, 6, 0, fun s w n t =>
      (w.sibs.map fun _ => lget 0 (rsg (seedOf s w).toNat 0xC000000000000000 (readOp s w n t 0 1 a true)) word.toNat, 0)⟩ :=
  v3_completes h (fun s w n t => rfl) fun n t => by simp

end Forms

section Values

variable {a : Spec} {s : State} {w : Wave} {n : Nat} {t : Thread}

theorem fmean_value :
    (if w.triple then fmean fp32 (three (operand s w n t 1 a)).1 (three (operand s w n t 1 a)).2.1 (three (operand s w n t 1 a)).2.2
      else (operand s w n t 1 a).headD 0) =
    if w.triple then fmean fp32 (fval s w n t 1 a 0) (fval s w n t 1 a 1) (fval s w n t 1 a 2) else fbits s w n t 1 a 0 := by
  cases htriple : w.triple
  · simp [operand, Wave.sibs, htriple, fbits]
  · simp [operand, Wave.sibs, htriple, fval, fbits, three]

theorem sibget_value (k : BitVec 2) :
    lget 0 (operand s w n t 1 a) (if w.triple then k.toNat else 0) =
      if w.triple then (if k.toNat < 3 then fbits s w n t 1 a k.toNat else 0) else fbits s w n t 1 a 0 := by
  cases htriple : w.triple
  · simp [operand, Wave.sibs, htriple, fbits, lget]
  · have hk : k.toNat = 0 ∨ k.toNat = 1 ∨ k.toNat = 2 ∨ k.toNat = 3 := by have := k.isLt; omega
    rcases hk with hk | hk | hk | hk <;> simp [operand, Wave.sibs, htriple, fbits, lget, hk]

end Values

theorem floatWord {i : Instr} {s : State} {w : Wave} {r : VecForm} (hr : floatForm i = some r) (h : Runs s w r.names r.wimm false) :
    Completes (exec i s) s w r := by
  cases i
  case faddF32 | fsubF32 => dsimp only [floatForm] at hr; exact sum_completes hr h
  case fmulF32 => cases hr; exact fmul_completes h
  case fexpiF32 => cases hr; exact fexpi_completes h
  case ffmaF32 | ffmsF32 | fnmaF32 | fnmsF32 => dsimp only [floatForm] at hr; exact fused_completes hr h
  case fminF32 | fmaxF32 => dsimp only [floatForm] at hr; exact bits2_completes hr h fun _ _ => rfl
  case fabsF32 => dsimp only [floatForm] at hr; exact bits1_completes hr h fun _ _ => rfl
  case fnegF32 => dsimp only [floatForm] at hr; exact bits1_completes hr h fun x hx => by rw [flip_eq hx]
  case fcopysignF32 => dsimp only [floatForm] at hr; exact bits2_completes hr h fun x y => by rw [copysign_eq]
  case fclassF32 => dsimp only [floatForm] at hr; exact bits1_completes hr h fun _ _ => rfl
  case frintF32 => cases hr; exact frint_completes h
  case cvtF32I32 | cvtF32I64 => dsimp only [floatForm] at hr; dsimp only [exec]; exact cvtSigned_completes (by decide) hr h
  case cvtF32N32 | cvtF16F32 | cvtBf16F32 | cvtE4m3F32 | cvtE5m2F32 =>
    dsimp only [floatForm] at hr
    dsimp only [exec]; exact cvt_completes hr h fun _ => rfl
  case cvtF32F16 | cvtF32Bf16 | cvtF32E4m3 | cvtF32E5m2 =>
    dsimp only [floatForm] at hr
    exact bits1_completes hr h fun _ _ => rfl
  case cvtI32F32 | cvtN32F32 | cvtI64F32 => dsimp only [floatForm] at hr; exact toInt_completes hr h
  case pack6 => dsimp only [floatForm] at hr; exact bits1_completes hr h fun x _ => by rw [pack6_eq]
  case unpack6 => dsimp only [floatForm] at hr; exact bits1_completes hr h fun x _ => by rw [unpack6_eq]
  case fdig => dsimp only [floatForm] at hr; dsimp only [exec]; exact uniform_completes hr h fun _ _ _ _ => rfl
  case fmean => dsimp only [floatForm] at hr; dsimp only [exec]; exact uniform_completes hr h fun _ _ _ _ => fmean_value
  case sibget => dsimp only [floatForm] at hr; dsimp only [exec]; exact uniform_completes hr h fun _ _ _ _ => sibget_value _
  case sibset => cases hr; exact sibset_completes h
  case krnd => cases hr; exact krnd_completes h
  all_goals exact none_ne_some hr

/-- Settles O4: word by word, the results of the siblings are the table's. -/
theorem floatWordsWriteTheirResult : Obligations.FloatWordsWriteTheirResult :=
  ⟨fun _ _ _ _ hr h hp => (floatWord hr h).1 hp, fun _ _ _ _ hr h hpriv _ => (floatWord hr h).2 hpriv⟩

end Sys2Proof.Proofs.Floats
end

section
/-! PROOFS. Words whose results arrive later: long-latency floating-point words (07 R252, R258, R265, R266, R277, R278) and
cross-thread words (07 R279-R281). -/

set_option Elab.async false -- one proof at a time: the check bounds memory

namespace Sys2Proof.Proofs.Cross

open Sys2Proof Sys2Proof.Machine Sys2Proof.Terms Sys2Proof.Laws Sys2Proof.Proofs.Unstable Sys2Proof.Proofs.Floats

/-- What the statement says of a long-latency word for its outcome `o`: its result is on its way, in a handler perhaps with a
handler fault. -/
def Sends (o : Out) (s : State) (w : Wave) (r : VecForm) : Prop :=
  (w.priv = none ∨ r.trap s w = [] →
    ∃ w', LongEffect s w w' r ∧ o = .next (settled (setW (numbered s 1) s.cur.wave w') s.cur.wave)) ∧
  (w.priv.isSome = true →
    ∃ w', LongEffect s w { w' with causes := w.causes ++ r.trap s w } r ∧ w'.causes = w.causes ∧
      ∀ c ∈ r.trap s w, o = .next (settled (handlerFault (setW (numbered s 1) s.cur.wave w') s.cur.wave c) s.cur.wave))

section Members

variable {s : State} {w : Wave} {mask : BitVec 4} {i k : Nat} {a : Spec} {wide : Bool}

theorem readAt_eq : readAt s w i k a wide = opOf s w i k a wide := by
  unfold readAt opOf
  cases w.thread i <;> rfl

theorem opOf_lt : opOf s w i k a wide < if wide then 2 ^ 64 else 2 ^ 32 := by
  unfold opOf
  cases w.thread i with
  | none => cases wide <;> exact Nat.two_pow_pos _
  | some t => exact readOp_lt s w i t k 1 a wide

theorem votes_eq : votes s w a i = (opOf s w i 0 a false != 0) := by rw [votes, readAt_eq]

theorem named_eq : (members s w mask).named = Terms.membersOf s w mask := rfl

theorem absent_eq : (if (members s w mask).absent then flABSM else 0) = absm s w mask := rfl

theorem named_contains : (members s w mask).named.contains i = member s w mask i := by
  rw [named_eq, Terms.membersOf, member, Bool.eq_iff_iff]
  simp

/-- The mask of the members that satisfy a predicate. -/
theorem ballot_votes : (namedMask (members s w mask) (votes s w a)).toNat = ballot s w mask fun i => opOf s w i 0 a false != 0 := by
  rw [funext fun i => votes_eq (s := s) (w := w) (a := a) (i := i)]
  rfl

theorem ballot_match (n : Nat) :
    (namedMask (members s w mask) fun i => readAt s w i 0 a wide == readAt s w n 0 a wide).toNat =
      ballot s w mask fun i => opOf s w i 0 a wide == opOf s w n 0 a wide := by
  simp only [readAt_eq]
  rfl

theorem any_vote : bnat ((members s w mask).named.any (votes s w a)) =
    if ∃ i ∈ Terms.membersOf s w mask, opOf s w i 0 a false ≠ 0 then 1 else 0 := by
  have hiff : (members s w mask).named.any (votes s w a) = true ↔ ∃ i ∈ Terms.membersOf s w mask, opOf s w i 0 a false ≠ 0 := by
    simp [named_eq, votes_eq]
  unfold bnat
  exact if_congr hiff rfl rfl

theorem all_vote : bnat ((members s w mask).named.all (votes s w a)) =
    if ∀ i ∈ Terms.membersOf s w mask, opOf s w i 0 a false ≠ 0 then 1 else 0 := by
  have hiff : (members s w mask).named.all (votes s w a) = true ↔ ∀ i ∈ Terms.membersOf s w mask, opOf s w i 0 a false ≠ 0 := by
    simp [named_eq, votes_eq]
  unfold bnat
  exact if_congr hiff rfl rfl

/-- A reduction of numbers below 2^32 is the one of the bit vectors. -/
theorem foldl_words {op : Nat → Nat → Nat} {f : W32 → W32 → W32} (g : Nat → Nat) (l : List Nat)
    (hop : ∀ x y, x < 2 ^ 32 → y < 2 ^ 32 → op x y = (f (BitVec.ofNat 32 x) (BitVec.ofNat 32 y)).toNat) (hg : ∀ i, g i < 2 ^ 32) (z : W32) :
    l.foldl (fun x i => op x (g i)) z.toNat = (l.foldl (fun x i => f x (BitVec.ofNat 32 (g i))) z).toNat := by
  induction l generalizing z with
  | nil => rfl
  | cons i l ih => rw [List.foldl_cons, List.foldl_cons, hop _ _ z.isLt (hg i), BitVec.ofNat_toNat, BitVec.setWidth_eq, ih]

end Members

section Forms

variable {m : Bool} {rm : RM} {d a b : Spec} {mask : BitVec 4} {s : State} {w : Wave} {r : VecForm} {wide : Bool}

/-- A word in the V3 format whose results the table gives. -/
theorem v3_sends {names : List Spec} {rc : Nat} {comp : State → Wave → Nat → Thread → VRes}
    {result : State → Wave → Nat → Thread → List Nat × Nat} (h : Runs s w names false false)
    (hr : ∀ s w n t, result s w n t = ((comp s w n t).vals, (comp s w n t).flags)) :
    Sends (runLong (Form.v3 m names) d wide rc comp s) s w ⟨m, d, names, wide, false, 0, rc, result⟩ := by
  have hf : m = (Form.v3 m names).last ∧ d = d ∧ wide = wide ∧ rc = rc := ⟨(v3_last m names).symm, rfl, rfl, rfl⟩
  refine ⟨fun hp => ?_, fun hpriv => runLong_unstable (f := Form.v3 m names) h hf hr hpriv⟩
  obtain ⟨w', hnext, heffect⟩ := runLong_effect (f := Form.v3 m names) h hf hr hp
  exact ⟨w', heffect, hnext⟩

theorem fdiv_sends (h : Runs s w [d, a, b] false false) :
    Sends (execFdivF32 m rm d a b s) s w ⟨m, d, [d, a, b], false, false, 0, 1, fun s w n t =>
      outs w (rounds s w t (some rm) fp32 false fun k => fdiv (fval s w n t 1 a k) (fval s w n t 2 b k))
        (idivCond (all s w n t 2 b))⟩ :=
  v3_sends h fun s w n t => by simp only [operand, exact2_sibs, rounded_sibs, outs_gather]; rfl

theorem root_sends {op : FV → Exact} (hr : longFloat.root m rm d a op = some r) (h : Runs s w r.names r.wimm false) :
    Sends (runSpecial m d a rm true op s) s w r := by
  cases hr
  exact v3_sends h fun s w n t => by simp only [operand, List.map_map, rounded_sibs, outs_gather]; rfl

theorem fsqrt_sends (hr : longFloat.root m rm d a fsqrt = some r) (h : Runs s w r.names r.wimm false) :
    Sends (execFsqrtF32 m rm d a s) s w r := by
  cases hr
  exact v3_sends h fun s w n t => by simp only [operand, List.map_map, rounded_sibs, outs_gather]; rfl

theorem plain_sends {op : FV → Exact} (hr : longFloat.plain m rm d a op = some r) (h : Runs s w r.names r.wimm false) :
    Sends (runSpecial m d a rm false op s) s w r := by
  cases hr
  exact v3_sends h fun s w n t => by simp only [operand, List.map_map, rounded_sibs, outs_gather]; rfl

theorem act_sends (h : Runs s w [d, a, b] false false) :
    Sends (execAct m d a b s) s w ⟨m, d, [d, a, b], false, false, 0, 1, fun s w n t =>
      outs w (fun k =>
        actEval (ruleAt s w t none k)
          (actRecord (actBytes s w.core w.cid (t.bank s w)) (readOp s w n t 0 2 b false % 4)) (fbits s w n t 1 a k)) 0⟩ :=
  v3_sends h fun s w n t => by simp only [operand, enumFrom_sibs, List.map_map, outs_plain]; rfl

theorem pair_sends {isMax : Bool} (hr : longFloat.pair m d a b isMax = some r) (h : Runs s w r.names r.wimm false) :
    Sends (runMsea isMax m d a b s) s w r := by
  cases hr
  exact v3_sends h fun s w n t => by rw [outs_plain]

/-- Each sibling of each active thread receives the table's value; a named thread that is absent raises ABSM (07 R279). -/
theorem cross_sends {names : List Spec} {op : State → Wave → Members → Nat → Thread → VRes}
    {f : State → Wave → Nat → Thread → Nat → Nat} (hr : cross m d names wide mask f = some r) (h : Runs s w r.names r.wimm false)
    (hop : ∀ s w n t, op s w (members s w mask) n t = ⟨w.sibs.map (f s w n t), 0⟩) :
    Sends (runCross m d names wide mask op s) s w r := by
  cases hr
  exact v3_sends h fun s w n t => by simp only [hop, Nat.zero_or, absent_eq]

theorem match_sends
    (hr : cross m d [a] true mask
      (fun s w n _ _ => ballot s w mask fun i => opOf s w i 0 a wide == opOf s w n 0 a wide) = some r)
    (h : Runs s w r.names r.wimm false) : Sends (runMatch m d a wide mask s) s w r :=
  cross_sends hr h fun s w n t => by rw [sameAll, ballot_match]

theorem red_sends {z : W32} {z' : Nat} {op : Nat → Nat → Nat} {f : W32 → W32 → W32} (hr : crossForm.red m d a mask z f = some r)
    (h : Runs s w r.names r.wimm false) (hz : z' = z.toNat)
    (hop : ∀ x y, x < 2 ^ 32 → y < 2 ^ 32 → op x y = (f (BitVec.ofNat 32 x) (BitVec.ofNat 32 y)).toNat) :
    Sends (runRed m d a mask z' op s) s w r := by
  subst hz
  refine cross_sends hr h fun s w n t => ?_
  simp only [readAt_eq, named_eq, foldl_words (fun i => opOf s w i _ a false) _ hop fun i => opOf_lt]

theorem redOF32_sends (h : Runs s w [d, a] false false) :
    Sends (execRedOF32 m d a mask s) s w ⟨m, d, [d, a], false, false, 0, 0, fun s w _ _ =>
      let r := outs w (fun k => orderedSum ((span 0 64).map fun i =>
        if member s w mask i then opOf s w i k a false else 0x80000000)) 0
      (r.1, r.2 ||| absm s w mask)⟩ :=
  v3_sends h fun s w n t => by simp only [named_contains, readAt_eq, absent_eq, outs_plain]

end Forms

theorem longWord {i : Instr} {s : State} {w : Wave} {r : VecForm} (hr : longFloat i = some r) (h : Runs s w r.names r.wimm false) :
    Sends (exec i s) s w r := by
  cases i
  case fdivF32 => cases hr; exact fdiv_sends h
  case fsqrtF32 => dsimp only [longFloat] at hr; exact fsqrt_sends hr h
  case frcpF32 | frsqrtF32 => dsimp only [longFloat] at hr; dsimp only [exec]; exact root_sends hr h
  case fexfF32 | flog2F32 => dsimp only [longFloat] at hr; dsimp only [exec]; exact plain_sends hr h
  case act => cases hr; exact act_sends h
  case mseaMax | mseaAcc => dsimp only [longFloat] at hr; dsimp only [exec]; exact pair_sends hr h
  all_goals exact none_ne_some hr

theorem crossWord {i : Instr} {s : State} {w : Wave} {r : VecForm} (hr : crossForm i = some r) (h : Runs s w r.names r.wimm false) :
    Sends (exec i s) s w r := by
  cases i
  case shfl =>
    dsimp only [crossForm] at hr
    dsimp only [exec]
    exact cross_sends hr h fun s w n t => by simp only [named_contains, readAt_eq]
  case voteAny =>
    dsimp only [crossForm] at hr
    dsimp only [exec]; exact cross_sends hr h fun s w n t => by rw [sameAll, any_vote]
  case voteAll =>
    dsimp only [crossForm] at hr
    dsimp only [exec]; exact cross_sends hr h fun s w n t => by rw [sameAll, all_vote]
  case voteBallot =>
    dsimp only [crossForm] at hr
    split at hr
    case isTrue hvec =>
      dsimp only [exec, execVoteBallot]
      rw [if_pos hvec]
      exact cross_sends hr h fun s w n t => by rw [sameAll, ballot_votes]
    case isFalse => cases hr
  case matchN32 | matchN64 => dsimp only [crossForm] at hr; dsimp only [exec]; exact match_sends hr h
  case redOF32 => cases hr; exact redOF32_sends h
  case redAddN32 => dsimp only [crossForm] at hr; dsimp only [exec]; exact red_sends hr h rfl fun x y _ _ => addW_eq 32 x y
  case redMinI32 =>
    dsimp only [crossForm] at hr
    dsimp only [exec]; exact red_sends hr h rfl fun x y hx hy => minS_eq (by decide) hx hy
  case redMaxI32 =>
    dsimp only [crossForm] at hr
    dsimp only [exec]; exact red_sends hr h rfl fun x y hx hy => maxS_eq (by decide) hx hy
  case redMinN32 => dsimp only [crossForm] at hr; dsimp only [exec]; exact red_sends hr h rfl fun x y hx hy => minU_eq hx hy
  case redMaxN32 => dsimp only [crossForm] at hr; dsimp only [exec]; exact red_sends hr h rfl fun x y hx hy => maxU_eq hx hy
  all_goals exact none_ne_some hr

end Sys2Proof.Proofs.Cross
end

section
/-! PROOFS. Register blocks: XACQ and XREL (02 R66-R69; 06 R233). -/

set_option Elab.async false -- one proof at a time: the check bounds memory

namespace Sys2Proof.Proofs.Blocks

open Sys2Proof Sys2Proof.Machine Sys2Proof.Terms Sys2Proof.Laws Sys2Proof.Proofs.Packed

section Registers

variable {w : Wave} {n : Nat}

theorem zget_filter {α : Type} (d : α) (p : Nat → Bool) (m : FMap α) (key : Nat) :
    zget d (m.filter fun e => p e.1) key = if p key then zget d m key else d := by
  induction m with
  | nil => simp [zget, mget]
  | cons e m ih =>
    unfold zget at ih ⊢
    by_cases hkey : key = e.1
    · subst hkey
      by_cases hp : p e.1 = true
      · simp [hp, mget]
      · rw [if_neg hp] at ih ⊢
        rw [List.filter_cons, if_neg hp]
        exact ih
    · by_cases hp : p e.1 = true
      · simpa [hp, mget, hkey] using ih
      · rw [List.filter_cons, if_neg hp]
        simpa [mget, hkey] using ih

theorem zget_dropBlocks (regs : FMap Cell) (key : Nat) :
    zget (Cell.val 0#32) (dropBlocks n regs) key =
      if 32 * (n + 1) ≤ key / 4 ∧ key / 4 < 0x60 then Cell.val 0#32 else zget (Cell.val 0#32) regs key := by
  have hfilter := zget_filter (Cell.val 0#32) (fun k => decide (k / 4 < 32 * (n + 1)) || decide (0x60 ≤ k / 4)) regs key
  rw [dropBlocks, hfilter]
  by_cases hkept : key / 4 < 32 * (n + 1) ∨ 0x60 ≤ key / 4
  · rw [if_pos (by simpa using hkept), if_neg (by omega)]
  · rw [if_neg (by simpa using hkept), if_pos (by omega)]

/-- The registers of blocks newly held read zero (02 R67). -/
theorem dropBlocks_kept (h : w.xblk < n) (regs : FMap Cell) : keptRegs w n regs (dropBlocks w.xblk regs) := by
  intro key
  rw [zget_dropBlocks]
  simp only [h, true_and, and_comm]

theorem same_kept (h : n ≤ w.xblk) (regs : FMap Cell) : keptRegs w n regs regs := by
  intro key
  rw [if_neg (by omega)]

/-- No register changes below the blocks that are given up, nor outside the blocks (02 R68). -/
theorem dropBlocks_below (regs : FMap Cell) (key : Nat) (hkey : 0x60 ≤ key / 4 ∨ key / 4 < 32 * (n + 1)) :
    zget (Cell.val 0#32) (dropBlocks n regs) key = zget (Cell.val 0#32) regs key := by
  rw [zget_dropBlocks, if_neg (by omega)]

theorem thread_mapThreads (w : Wave) (f : Thread → Thread) (i : Nat) : (w.mapThreads f).thread i = (w.thread i).map f := by
  simp [Wave.mapThreads, Wave.thread]

end Registers

section Words

variable {m : Bool} {c : BitVec 7} {s : State} {w : Wave}

theorem canAcquire_eq (s : State) (w : Wave) (n : Nat) : canAcquire s w n = supplies s w n := by
  unfold canAcquire supplies laneRegs quadFree
  cases quadReqs s w.core (w.slot % 4) <;> simp

theorem spills_mapThreads (ends : Bool) (f : Thread → Thread) (hf : ∀ t, (f t).runCount = t.runCount) :
    (w.mapThreads f).numbered.any (fun p => s.cur.tids.contains p.1 && p.2.overruns ends) = spills s w ends := by
  refine spills_congr ends (by simp [Wave.mapThreads]) fun n t u ht hu => ?_
  rw [thread_mapThreads, hu] at ht
  rw [← Option.some.inj ht, hf]

/-- A packed thread whose registers alone have changed passes a word. -/
theorem retire_passed (bank : Nat) (ends : Bool) (i : Nat) (t : Thread) :
    PassedThread s ends i t (t.retire s.cycle bank ends (s.cur.addr + 4)) :=
  ⟨retire_retired .., retire_same ..⟩

theorem holdBlocks_effect (f : Form) {n : Nat} (hn : w.xblk < n) :
    GainEffect s w (holdBlocks n (passAll s w s.cur f)) f.last n := by
  refine ⟨by simp [holdBlocks, Wave.mapThreads, passAll, Wave.retire], fun i t ht => ?_, ?_⟩
  · have hthread : (holdBlocks n (passAll s w s.cur f)).thread i = some (if s.cur.tids.contains i then
        ({ t with regs := dropBlocks w.xblk t.regs } : Thread).retire s.cycle (actBank s w.core w.cid) f.last (s.cur.addr + 4)
        else { t with regs := dropBlocks w.xblk t.regs }) := by
      show ((passAll s w s.cur f).mapThreads fun t => { t with regs := dropBlocks w.xblk t.regs }).thread i = _
      rw [thread_mapThreads, passAll_thread, ht, Option.map_some, Option.map_some]
      split
      · rfl
      · rfl
    refine ⟨_, dropBlocks w.xblk t.regs, hthread, dropBlocks_kept hn t.regs, ?_⟩
    by_cases hi : i ∈ s.cur.tids
    · rw [if_pos hi, if_pos (by simpa using hi)]
      exact retire_passed _ f.last i { t with regs := dropBlocks w.xblk t.regs }
    · rw [if_neg hi, if_neg (by simpa using hi)]
  · have hpass := passAll_eq s w f
    rw [hpass]
    rfl

theorem dropBlocks_effect (f : Form) {n : Nat} :
    DropEffect s w (passAll s { w.mapThreads (fun t => { t with regs := dropBlocks n t.regs }) with xblk := n } s.cur f) f.last n := by
  refine ⟨by simp [Wave.mapThreads, passAll, Wave.retire], fun i t ht => ?_, ?_⟩
  · have hdropped : (w.mapThreads fun t => { t with regs := dropBlocks n t.regs }).thread i =
        some { t with regs := dropBlocks n t.regs } := by rw [thread_mapThreads, ht, Option.map_some]
    have hthread : (passAll s { w.mapThreads (fun t => { t with regs := dropBlocks n t.regs }) with xblk := n } s.cur f).thread i =
        some (if s.cur.tids.contains i then
          ({ t with regs := dropBlocks n t.regs } : Thread).retire s.cycle (actBank s w.core w.cid) f.last (s.cur.addr + 4)
          else { t with regs := dropBlocks n t.regs }) :=
      (passAll_thread ..).trans (congrArg _ hdropped)
    refine ⟨_, dropBlocks n t.regs, hthread, fun key hkey => dropBlocks_below t.regs key hkey, ?_⟩
    by_cases hi : i ∈ s.cur.tids
    · rw [if_pos hi, if_pos (by simpa using hi)]
      exact retire_passed _ f.last i { t with regs := dropBlocks n t.regs }
    · rw [if_neg hi, if_neg (by simpa using hi)]
  · have hspill := spills_mapThreads (s := s) (w := w) f.last (fun t => { t with regs := dropBlocks n t.regs }) fun _ => rfl
    rw [← hspill]
    rfl

/-- The form of the blocking XACQ. -/
theorem xacq_last (m : Bool) : ((Form.sc0 m).ending.userOnly).last = true := by simp

theorem xacq_next (h : Runs s w [] false true) : execXacq m c s = .next (settled
    (if w.actives s.cur.tids = [] ∨ c.toNat ≤ w.xblk then setW s s.cur.wave (passAll s w s.cur (Form.sc0 m).ending.userOnly)
    else if supplies s w c.toNat = true then
      setW s s.cur.wave (holdBlocks c.toNat (passAll s w s.cur (Form.sc0 m).ending.userOnly))
    else addRequest (setW s s.cur.wave
      ((w.retire s.cycle (actBank s w.core w.cid) s.cur.tids true fun _ => s.cur.addr).onTids s.cur.tids
        fun _ t => { t with st := .waiting, hold := .xacq c.toNat })) s.cur.wave c.toNat) s.cur.wave) := by
  have hnext : execXacq m c s = _ := runWord_next (f := (Form.sc0 m).ending.userOnly) h
  simpa only [canAcquire_eq, Bool.or_eq_true, decide_eq_true_iff, List.isEmpty_iff] using hnext

/-- The wave joins the requests of its core, once (02 R69). -/
theorem addRequest_setW (k n : Nat) (v : Wave) : addRequest (setW s k v) k n =
    { setW s k v with cores := mset s.cores v.core { getC s v.core with
      reqs := if (k, n) ∈ (getC s v.core).reqs then (getC s v.core).reqs else (getC s v.core).reqs ++ [(k, n)] } } := by
  simp only [addRequest, mget_setW_same, List.contains_iff_mem]
  rfl

theorem xrel_next (h : Runs s w [] false true) : execXrel m c s = .next (settled
    (setW s s.cur.wave (passAll s
      (if w.actives s.cur.tids ≠ [] ∧ c.toNat < w.xblk then
        { w.mapThreads (fun t => { t with regs := dropBlocks c.toNat t.regs }) with xblk := c.toNat }
      else w) s.cur (Form.sc0 m).userOnly)) s.cur.wave) := by
  have hnext : execXrel m c s = _ := runWord_next (f := (Form.sc0 m).userOnly) h
  rw [hnext, scalBody]
  simp only [Bool.false_or, Bool.not_eq_true', List.isEmpty_eq_false_iff, ite_and]

end Words

/-- Settles O16: the branches of `execXacq` and `execXrel` are the statement's cases. -/
theorem xacqAcquiresOrWaitsAndXrelReleases : Obligations.XacqAcquiresOrWaitsAndXrelReleases := by
  refine ⟨fun m c s w h => ⟨fun hpass => ?_, fun hon hlack hsup => ?_, fun hon hlack hsup => ?_⟩,
    fun m c s w h => ⟨fun hpass => ?_, fun hon hless => ?_⟩⟩
  · have hnext := xacq_next (m := m) (c := c) h
    rw [if_pos hpass] at hnext
    exact ⟨_, by simpa using passAll_effect s w (Form.sc0 m).ending.userOnly, hnext⟩
  · have hnext := xacq_next (m := m) (c := c) h
    rw [if_neg (by simp [hon, hlack]), if_pos hsup] at hnext
    exact ⟨_, by simpa using holdBlocks_effect (s := s) (Form.sc0 m).ending.userOnly hlack, hnext⟩
  · have hnext := xacq_next (m := m) (c := c) h
    rw [if_neg (by simp [hon, hlack]), if_neg (by simp [hsup]), addRequest_setW] at hnext
    exact ⟨_, _, retire_stands s w (waitXacq c.toNat) s.cur.addr rfl, rfl, hnext⟩
  · have hnext := xrel_next (m := m) (c := c) h
    rw [if_neg (by rintro ⟨hon, hless⟩; exact hpass.elim hon fun hle => absurd hless (by omega))] at hnext
    exact ⟨_, by simpa using passAll_effect s w (Form.sc0 m).userOnly, hnext⟩
  · have hnext := xrel_next (m := m) (c := c) h
    rw [if_pos ⟨hon, hless⟩] at hnext
    exact ⟨_, by simpa using dropBlocks_effect (s := s) (w := w) (n := c.toNat) (Form.sc0 m).userOnly, hnext⟩

end Sys2Proof.Proofs.Blocks
end

section
/-! PROOFS. Scalar results that arrive later: a ballot into a scalar register, `vtos`, and the non-blocking XACQ (02 R67; 07 R281,
R282). -/

set_option Elab.async false -- one proof at a time: the check bounds memory

namespace Sys2Proof.Proofs.Late

open Sys2Proof Sys2Proof.Machine Sys2Proof.Terms Sys2Proof.Laws Sys2Proof.Proofs.Packed Sys2Proof.Proofs.Blocks
  Sys2Proof.Proofs.Cross

section Owing

variable {s : State} {w : Wave} {f : Form} {r : LateForm} {g : FMap Cell → FMap Cell}

/-- The result of a late form, on its way. -/
def lateAccess (s : State) (w : Wave) (r : LateForm) : Access :=
  { id := s.nextId, op := .result (r.flags s w),
    lanes := ((r.value s w).map fun v => (⟨lget 0 s.cur.tids 0, 0, .single 0, [v.toNat]⟩ : Lane)).toList,
    dest := some (1024 + r.dest, true), addr := s.cur.addr, word := s.cur.word, after := [], performed := true,
    user := w.priv.isNone, folds := [], slot := none }

/-- The wave with other registers and blocks, owed the result. -/
def owing (s : State) (w : Wave) (r : LateForm) (g : FMap Cell → FMap Cell) : Wave :=
  (addAccess { w.mapThreads (fun t => { t with regs := g t.regs }) with xblk := r.blocks s w } (lateAccess s w r)).oweScal
    s.cur.tids r.dest

theorem owing_thread (i : Nat) {t : Thread} (ht : w.thread i = some t) :
    (owing s w r g).thread i = some (if s.cur.tids.contains i then
      { t with regs := g t.regs, owed := scalKey r.dest :: t.owed } else { t with regs := g t.regs }) := by
  have hmap : (w.mapThreads fun t => { t with regs := g t.regs }).thread i = some { t with regs := g t.regs } := by
    rw [thread_mapThreads, ht, Option.map_some]
  have howed := thread_onTids (s := s) (w := w.mapThreads fun t => { t with regs := g t.regs }) (v := owing s w r g)
    (F := fun _ t => { t with owed := scalKey r.dest :: t.owed }) rfl i
  rw [howed, hmap, Option.map_some]
  simp only [List.contains_iff_mem]

theorem owing_effect (hm : r.marked = f.last) (hg : ∀ regs, keptRegs w (r.blocks s w) regs (g regs)) :
    LateEffect s w (passAll s (owing s w r g) s.cur f) r := by
  refine ⟨by simp [owing, addAccess, Wave.oweScal, Wave.mapThreads, passAll, Wave.retire], fun i t ht => ?_, ?_⟩
  · have hthread := passAll_thread s (owing s w r g) s.cur f i
    rw [owing_thread i ht, Option.map_some] at hthread
    refine ⟨_, hthread, g t.regs, hg t.regs, ?_⟩
    by_cases hi : i ∈ s.cur.tids
    · have hcontains : s.cur.tids.contains i = true := by simpa using hi
      rw [if_pos hi, if_pos hcontains, if_pos hcontains]
      let u : Thread := { t with regs := g t.regs, owed := scalKey r.dest :: t.owed }
      have hretired := retire_retired s.cycle (actBank s w.core w.cid) f.last (s.cur.addr + 4) u
      obtain ⟨hsame, hregs, hopidx, howed, hwin⟩ := retire_same s.cycle (actBank s w.core w.cid) f.last (s.cur.addr + 4) u
      exact ⟨⟨by rw [hm]; exact hretired, hregs, hopidx, howed, hwin⟩, hsame⟩
    · have hcontains : ¬s.cur.tids.contains i = true := by simpa using hi
      rw [if_neg hi, if_neg hcontains, if_neg hcontains]
  · have hspill : (owing s w r g).numbered.any (fun p => s.cur.tids.contains p.1 && p.2.overruns f.last) = spills s w f.last := by
      refine spills_congr f.last (by simp [owing, addAccess, Wave.oweScal, Wave.mapThreads]) fun i a t ha ht => ?_
      rw [owing_thread i ht, Option.some.injEq] at ha
      rw [← ha]
      split
      · rfl
      · rfl
    rw [hm, ← hspill]
    rfl

theorem same_threads (w : Wave) : w.mapThreads (fun t => { t with regs := id t.regs }) = w := by
  simp [Wave.mapThreads]

/-- A request that is not met, or asks for no more, changes no count. -/
theorem blocks_same {c : Nat} {got : Bool} (h : ¬(got = true ∧ w.xblk < c)) : (if got then max w.xblk c else w.xblk) = w.xblk := by
  split
  case isTrue hgot => rw [Nat.max_eq_left]; simpa [hgot] using h
  case isFalse => rfl

/-- The blocks held after a non-blocking XACQ. -/
theorem hold_eq (c : Nat) (got : Bool) :
    (if (got && decide (w.xblk < c)) = true then holdBlocks c w else w) =
      { w.mapThreads (fun t => { t with regs := (if got = true ∧ w.xblk < c then dropBlocks w.xblk else id) t.regs }) with
        xblk := if got then max w.xblk c else w.xblk } := by
  by_cases hgot : got = true ∧ w.xblk < c
  · obtain ⟨rfl, hlack⟩ := hgot
    rw [if_pos (by simp [hlack]), if_pos rfl, Nat.max_eq_right (Nat.le_of_lt hlack)]
    simp only [hlack, and_self, if_true]
    rfl
  · rw [if_neg (by simpa using hgot), blocks_same hgot]
    simp only [if_neg hgot, same_threads]

theorem hold_kept (c : Nat) (got : Bool) (regs : FMap Cell) :
    keptRegs w (if got then max w.xblk c else w.xblk) regs ((if got = true ∧ w.xblk < c then dropBlocks w.xblk else id) regs) := by
  by_cases hgot : got = true ∧ w.xblk < c
  · rw [if_pos hgot, if_pos hgot.1, Nat.max_eq_right (Nat.le_of_lt hgot.2)]
    exact dropBlocks_kept hgot.2 regs
  · rw [if_neg hgot, blocks_same hgot]
    exact same_kept (Nat.le_refl _) regs

end Owing

section Words

variable {m : Bool} {a : Spec} {s : State} {w : Wave} {r : LateForm}

/-- A wave-wide result that is owed to a scalar register. -/
theorem scalResult_effect {d : Nat} {op : State → Wave → Option W64 × Nat} (h : Runs s w [a] false false)
    (hon : w.actives s.cur.tids ≠ []) (hop : op s w = (r.value s w, r.flags s w)) (hd : r.dest = d) (hm : r.marked = m)
    (hb : r.blocks s w = w.xblk) :
    ∃ w', LateEffect s w w' r ∧ runWord (Form.v3 m [a]) (scalResultBody (Form.v3 m [a]) d op) s =
      .next (settled (setW (numbered s 1) s.cur.wave w') s.cur.wave) := by
  refine ⟨passAll s (owing s w r id) s.cur (Form.v3 m [a]), owing_effect (hm.trans (v3_last m [a]).symm)
    fun regs => same_kept (Nat.le_of_eq hb) regs, ?_⟩
  have hwave : (addAccess w (lateAccess s w r)).oweScal s.cur.tids d = owing s w r id := by
    unfold owing
    rw [same_threads, hb, hd]
  rw [runWord_next h, scalResultBody, if_neg (by simpa using hon), ← hwave, hop, lateAccess, hd]
  cases r.value s w <;> rfl

theorem ballot_effect {d : Spec} {mask : BitVec 4} (h : Runs s w [a] false false) (hon : w.actives s.cur.tids ≠ [])
    (hd : ¬d.toNat < 0x70) :
    ∃ w', LateEffect s w w'
        ⟨m, false, [a], d.toNat - 0x70, fun s w => absm s w mask,
          fun s w => some (BitVec.ofNat 64 (ballot s w mask fun i => opOf s w i 0 a false != 0)), fun _ w => w.xblk⟩ ∧
      execVoteBallot m d a mask s = .next (settled (setW (numbered s 1) s.cur.wave w') s.cur.wave) := by
  rw [execVoteBallot, if_neg hd]
  refine scalResult_effect h hon ?_ rfl rfl rfl
  show (some (namedMask (members s w mask) (votes s w a)), absm s w mask) = _
  simp only [← ballot_votes, BitVec.ofNat_toNat, BitVec.setWidth_eq]

theorem vtos_effect {d b : BitVec 4} (h : Runs s w [a] false false) (hon : w.actives s.cur.tids ≠ [])
    (hr : lateForm (.vtos m d a b) = some r) :
    ∃ w', LateEffect s w w' r ∧
      execVtos m d a b s = .next (settled (setW (numbered s 1) s.cur.wave w') s.cur.wave) := by
  cases hr
  refine scalResult_effect h hon ?_ rfl rfl rfl
  simp only [BitVec.toNat_setWidth, List.contains_iff_mem, readAt_eq]
  split
  · rfl
  · rfl

theorem xacqNb_effect {d : SReg} {c : BitVec 7} (h : Runs s w [] false true) (hon : w.actives s.cur.tids ≠ [])
    (hr : lateForm (.xacqNb m d c) = some r) :
    ∃ w', LateEffect s w w' r ∧
      execXacqNb m d c s = .next (settled (setW (numbered s 1) s.cur.wave w') s.cur.wave) := by
  cases hr
  refine ⟨_, owing_effect (f := (Form.sc0 m).userOnly) (by simp)
    (hold_kept c.toNat (decide (c.toNat ≤ w.xblk) || supplies s w c.toNat)), ?_⟩
  have hnext : execXacqNb m d c s = _ := runWord_next (f := (Form.sc0 m).userOnly) h
  rw [if_neg (by simpa using hon)] at hnext
  simp only [canAcquire_eq, hold_eq] at hnext
  rw [hnext]
  have hvalue : bnat (decide (c.toNat ≤ w.xblk) || supplies s w c.toNat) =
      (truth (decide (c.toNat ≤ w.xblk) || supplies s w c.toNat)).toNat := by
    cases (decide (c.toNat ≤ w.xblk) || supplies s w c.toNat) <;> rfl
  rw [hvalue]
  rfl

end Words

theorem lateWord {i : Instr} {s : State} {w : Wave} {r : LateForm} (hr : lateForm i = some r) (h : Runs s w r.names false r.user)
    (hon : w.actives s.cur.tids ≠ []) :
    ∃ w', LateEffect s w w' r ∧ exec i s = .next (settled (setW (numbered s 1) s.cur.wave w') s.cur.wave) := by
  cases i
  case voteBallot =>
    dsimp only [lateForm] at hr
    split at hr
    case isTrue hd => cases hr; exact ballot_effect h hon (Nat.not_lt.mpr hd)
    case isFalse => cases hr
  case vtos => cases hr; exact vtos_effect h hon rfl
  case xacqNb => cases hr; exact xacqNb_effect h hon rfl
  all_goals exact none_ne_some hr

/-- Settles O5: the result stands in an access on its way, and its registers are owed. -/
theorem lateResultsAreOnTheirWay : Obligations.LateResultsAreOnTheirWay :=
  ⟨fun _ _ _ _ hr h hpriv _ => (longWord hr h).2 hpriv,
    fun _ _ _ _ hr h hp => hr.elim (fun hr => (longWord hr h).1 hp) fun hr => (crossWord hr h).1 hp,
    fun _ _ _ _ hr h hon => lateWord hr h hon⟩

end Sys2Proof.Proofs.Late
end

section
/-! PROOFS. Compares (07 R256, R261), and the handler fault of an enabled condition that one meets in a handler (12 R375). -/

set_option Elab.async false -- one proof at a time: the check bounds memory

namespace Sys2Proof.Proofs.Conditions

open Sys2Proof Sys2Proof.Machine Sys2Proof.Terms Sys2Proof.Laws Sys2Proof.Proofs.Packed Sys2Proof.Proofs.Unstable
  Sys2Proof.Proofs.Floats

section Effect

variable {f : Form} {lat : Nat} {comp : Wave → Nat → Thread → VRes} {s : State} {w : Wave} {r : CmForm}

/-- A change of some of the packed threads, as a change of all of them. -/
theorem onTids_subset {l : List Nat} (F : Nat → Thread → Thread) (hl : ∀ n ∈ l, n ∈ s.cur.tids) (k : Nat) (ts : List Thread) :
    Machine.onTids l F k ts = Machine.onTids s.cur.tids (fun n t => if n ∈ l then F n t else t) k ts := by
  induction ts generalizing k with
  | nil => rfl
  | cons t ts ih =>
    rw [Machine.onTids, Machine.onTids, ih]
    by_cases hk : k ∈ l
    · simp [hk, hl k hk]
    · simp [hk]

/-- The condition bits after a compare. -/
def cmBits (comp : Wave → Nat → Thread → VRes) (s : State) (w : Wave) : W64 :=
  let res := laneResults w s.cur.tids comp
  (w.cm &&& ~~~maskOf (res.map (·.1))) ||| maskOf ((res.filter (fun r => r.2.vals == [1])).map (·.1))

/-- The wave with its condition bits. -/
def cmWave (f : Form) (lat : Nat) (comp : Wave → Nat → Thread → VRes) (s : State) (w : Wave) : Wave :=
  let res := laneResults w s.cur.tids comp
  passAll s ((({ w with cm := cmBits comp s w } : Wave).onTids (res.map (·.1))
    (fun _ t => t.noteWrite lat cmKey)).flag (allFlags res)) s.cur f

theorem cmBody_eq (comp : State → Wave → Nat → Thread → VRes) :
    cmBody f lat comp s s.cur.wave w s.cur =
      instability (setW s s.cur.wave (cmWave f lat (comp s) s w)) s.cur.wave s.cur (laneResults w s.cur.tids (comp s)) :=
  rfl

theorem laneResults_names : (laneResults w s.cur.tids comp).map (·.1) = w.actives s.cur.tids := by
  rw [laneResults_eq, List.map_map]
  exact List.map_id _

/-- The threads whose relation holds. -/
theorem ones_names (hr : ∀ n t, comp w n t = ⟨[bnat (r.holds s w n t).1], (r.holds s w n t).2⟩) :
    ((laneResults w s.cur.tids comp).filter (fun r => r.2.vals == [1])).map (·.1) =
      (w.actives s.cur.tids).filter fun n => ((w.thread n).map (fun t => (r.holds s w n t).1)).getD false := by
  have hvals : ∀ n, ((((w.thread n).map (comp w n)).getD ⟨[], 0⟩).vals == [1]) =
      ((w.thread n).map (fun t => (r.holds s w n t).1)).getD false := by
    intro n
    cases w.thread n with
    | none => rfl
    | some t =>
      simp only [Option.map_some, Option.getD_some, hr]
      cases (r.holds s w n t).1 <;> rfl
  rw [laneResults_eq, List.filter_map, List.map_map]
  simp only [Function.comp_def, hvals, List.map_id']

theorem cmBits_getLsbD (hr : ∀ n t, comp w n t = ⟨[bnat (r.holds s w n t).1], (r.holds s w n t).2⟩) {n : Nat} (hn : n < 64) :
    (cmBits comp s w).getLsbD n =
      if n ∈ w.actives s.cur.tids then ((w.thread n).map (fun t => (r.holds s w n t).1)).getD false else w.cm.getLsbD n := by
  rw [cmBits, laneResults_names, ones_names hr, BitVec.getLsbD_or, BitVec.getLsbD_and, BitVec.getLsbD_not, maskOf_getLsbD _ _ hn,
    maskOf_getLsbD _ _ hn, Bool.eq_iff_iff]
  by_cases ha : n ∈ w.actives s.cur.tids
  · simp [ha, hn]
  · simp [ha, hn]

/-- The results of a compare as those of a form, which the trap is stated for. -/
def flagForm (r : CmForm) : VecForm :=
  ⟨r.marked, 0x00#7, [], false, false, 0, 0, fun s w n t => ([], (r.holds s w n t).2)⟩

theorem allFlags_cm (hr : ∀ n t, comp w n t = ⟨[bnat (r.holds s w n t).1], (r.holds s w n t).2⟩) :
    allFlags (laneResults w s.cur.tids comp) = r.flags s w := by
  rw [allFlags_laneResults s w s.cur.tids fun _ => comp]
  simp only [CmForm.flags, hr]

theorem cmWave_effect (hm : r.marked = f.last)
    (hr : ∀ n t, comp w n t = ⟨[bnat (r.holds s w n t).1], (r.holds s w n t).2⟩) :
    CmEffect s w { cmWave f lat comp s w with causes := w.causes ++ r.trap s w } r := by
  let F (n : Nat) (t : Thread) : Thread := if n ∈ w.actives s.cur.tids then t.noteWrite lat cmKey else t
  have hF : ∀ n t, Alike t (F n t) := by
    intro n t
    show Alike t (if _ then _ else _)
    split
    · rfl
    · rfl
  let v : Wave := (({ w with cm := cmBits comp s w } : Wave).onTids ((laneResults w s.cur.tids comp).map (·.1))
    (fun _ t => t.noteWrite lat cmKey)).flag (allFlags (laneResults w s.cur.tids comp))
  have hv : v.threads = Machine.onTids s.cur.tids F 0 w.threads := by
    show Machine.onTids _ _ 0 w.threads = _
    rw [laneResults_names]
    exact onTids_subset _ (fun n hn => (actives_thread hn).1) 0 w.threads
  obtain ⟨hthreads, hframe⟩ := passAll_onTids f hv hF
  refine ⟨hm ▸ hthreads, fun n hn => cmBits_getLsbD hr hn, ?_⟩
  rw [hm, ← allFlags_cm hr]
  exact congrArg (fun v : Wave => { v with causes := w.causes ++ r.trap s w }) hframe

end Effect

/-- What the statement says of a compare for its outcome `o`. -/
def Compares (o : Out) (s : State) (w : Wave) (r : CmForm) : Prop :=
  (w.priv = none ∨ r.trap s w = [] → ∃ w', CmEffect s w w' r ∧ o = .next (settled (setW s s.cur.wave w') s.cur.wave)) ∧
  (w.priv.isSome = true →
    ∃ w', CmEffect s w { w' with causes := w.causes ++ r.trap s w } r ∧ w'.causes = w.causes ∧
      ∀ c ∈ r.trap s w, o = .next (settled (handlerFault (setW s s.cur.wave w') s.cur.wave c) s.cur.wave))

section Forms

variable {m : Bool} {a b : Spec} {s : State} {w : Wave} {r : CmForm}

theorem runCm_compares {lat : Nat} {comp : State → Wave → Nat → Thread → VRes} {names : List Spec}
    {holds : State → Wave → Nat → Thread → Bool × Nat} (h : Runs s w names false false)
    (hr : ∀ s w n t, comp s w n t = ⟨[bnat (holds s w n t).1], (holds s w n t).2⟩) :
    Compares (runCm (Form.v3 m names) lat comp s) s w ⟨m, names, holds⟩ := by
  have hm : m = (Form.v3 m names).last := (v3_last m names).symm
  refine ⟨fun hp => ?_, fun hpriv => ?_⟩
  · obtain ⟨w', hnext, heffect⟩ := runCm_effect (f := Form.v3 m names) (lat := lat) (r := ⟨m, names, holds⟩) h hm hr hp
    exact ⟨w', heffect, hnext⟩
  · let v := cmWave (Form.v3 m names) lat (comp s) s w
    have hlevel : v.priv.isSome = true := hpriv
    have hctl : v.nctl = w.nctl := rfl
    refine ⟨v, cmWave_effect hm (hr s w), rfl, fun c hc => ?_⟩
    rw [runCm, runWord_next (f := Form.v3 m names) h, cmBody_eq,
      instability_handler (r := flagForm ⟨m, names, holds⟩) (mget_setW_same s _ v) hctl hlevel (fun n t => by rw [hr]; rfl) hc]

theorem cmp32_compares {op : Nat → Nat → Bool} {rel : W32 → W32 → Bool} (hr : cmp32 m a b rel = some r)
    (h : Runs s w r.names false false)
    (hop : ∀ x y, x < 2 ^ 32 → y < 2 ^ 32 → op x y = rel (BitVec.ofNat 32 x) (BitVec.ofNat 32 y)) :
    Compares (runCmp m a b false op s) s w r := by
  cases hr
  exact runCm_compares h fun s w n t => by
    rw [hop _ _ (readOp_lt s w n t 0 1 a false) (readOp_lt s w n t 0 2 b false)]
    rfl

theorem cmp64_compares {op : Nat → Nat → Bool} {rel : W64 → W64 → Bool} (hr : cmp64 m a b rel = some r)
    (h : Runs s w r.names false false)
    (hop : ∀ x y, x < 2 ^ 64 → y < 2 ^ 64 → op x y = rel (BitVec.ofNat 64 x) (BitVec.ofNat 64 y)) :
    Compares (runCmp m a b true op s) s w r := by
  cases hr
  exact runCm_compares h fun s w n t => by
    rw [hop _ _ (readOp_lt s w n t 0 1 a true) (readOp_lt s w n t 0 2 b true)]
    rfl

/-- Majority and disagreement of the siblings' outcomes (03 R110). -/
theorem majority_eq (l : List Bool) : majority l = decide (l.length < 2 * l.count true) := by
  have hcount : l.count true = (l.filter id).length := by
    rw [List.count_eq_countP, List.countP_eq_length_filter]
    congr 2
    funext x
    cases x <;> rfl
  rw [majority, hcount]

theorem split_eq (l : List Bool) : split l = (l.contains true && l.contains false) := by
  rw [split, Bool.eq_iff_iff]
  simp

theorem fcmp_compares {rel : FV → FV → Bool} (hr : fcmp m a b rel = some r) (h : Runs s w r.names false false) :
    Compares (runFcmp m a b rel s) s w r := by
  cases hr
  refine runCm_compares h fun s w n t => ?_
  simp only [operand, zipWith_sibs, List.map_map, List.foldl_map, majority_eq, split_eq, inTriple, Bool.and_assoc, fval, fbits]
  cases w.triple <;> rfl

end Forms

theorem compareWord {i : Instr} {s : State} {w : Wave} {r : CmForm} (hr : cmForm i = some r) (h : Runs s w r.names false false) :
    Compares (exec i s) s w r := by
  cases i
  case ceqN32 => dsimp only [cmForm] at hr; dsimp only [exec]; exact cmp32_compares hr h fun x y hx hy => nat_eq hx hy
  case cneN32 =>
    dsimp only [cmForm] at hr
    dsimp only [exec]; exact cmp32_compares hr h fun x y hx hy => congrArg not (nat_eq hx hy)
  case cltI32 => dsimp only [cmForm] at hr; dsimp only [exec]; exact cmp32_compares hr h fun x y _ _ => sgn_lt (by decide) x y
  case cleI32 => dsimp only [cmForm] at hr; dsimp only [exec]; exact cmp32_compares hr h fun x y _ _ => sgn_le (by decide) x y
  case cltN32 => dsimp only [cmForm] at hr; dsimp only [exec]; exact cmp32_compares hr h fun x y hx hy => nat_lt hx hy
  case cleN32 => dsimp only [cmForm] at hr; dsimp only [exec]; exact cmp32_compares hr h fun x y hx hy => nat_le hx hy
  case ceqN64 => dsimp only [cmForm] at hr; dsimp only [exec]; exact cmp64_compares hr h fun x y hx hy => nat_eq hx hy
  case cltI64 => dsimp only [cmForm] at hr; dsimp only [exec]; exact cmp64_compares hr h fun x y _ _ => sgn_lt (by decide) x y
  case cltN64 => dsimp only [cmForm] at hr; dsimp only [exec]; exact cmp64_compares hr h fun x y hx hy => nat_lt hx hy
  case fceqF32 | fcneF32 | fcltF32 | fcleF32 | fcgtF32 | fcgeF32 | fcunF32 | fcordF32 =>
    dsimp only [cmForm] at hr
    dsimp only [exec]; exact fcmp_compares hr h
  all_goals exact none_ne_some hr

/-- Settles O6: word by word, the relation on numbers is the table's. -/
theorem comparesWriteTheConditionBits : Obligations.ComparesWriteTheConditionBits :=
  ⟨fun _ _ _ _ hr h hp => (compareWord hr h).1 hp, fun _ _ _ _ hr h hpriv _ => (compareWord hr h).2 hpriv⟩

end Sys2Proof.Proofs.Conditions
end

section
/-! PROOFS. Branches (06 R217-R220; 05 R178). -/

set_option Elab.async false -- one proof at a time: the check bounds memory

namespace Sys2Proof.Proofs.Course

open Sys2Proof Sys2Proof.Machine Sys2Proof.Terms Sys2Proof.Laws Sys2Proof.Proofs.Packed

section Stray

variable {s : State} {w w' : Wave} {r : BranchForm}

theorem strays_eq (s : State) (w : Wave) (r : BranchForm) :
    (s.cur.tids.filter (r.take s w)).filter (fun n => offCourse (destination s w r n)) = straying s w r := by
  rw [List.filter_filter, straying]
  refine List.filter_congr fun n _ => ?_
  rw [offCourse_bits, Bool.and_comm]

theorem effect_live (h : BranchEffect s w w' r) (hlive : ∃ j t, w.thread j = some t ∧ t.live = true) :
    w'.threads.any (·.live) = true := by
  obtain ⟨j, t, ht, hlive⟩ := hlive
  obtain ⟨t', ht', hthread⟩ := h.1.2 j t ht
  refine any_live ht' ?_
  by_cases hj : j ∈ s.cur.tids
  · rw [if_pos hj] at hthread
    obtain ⟨⟨-, hst, -⟩, -⟩ := hthread
    rwa [Thread.live, hst]
  · rw [if_neg hj] at hthread
    rwa [hthread]

/-- What the statement says of a branch for its outcome `o`. -/
def Branches (o : Out) (s : State) (w : Wave) (r : BranchForm) : Prop :=
  ∃ w', BranchEffect s w w' r ∧ (straying s w r = [] → o = .next (settled (setW s s.cur.wave w') s.cur.wave)) ∧
    ∀ n l, straying s w r = n :: l →
      (w.priv = none → (∃ j t, w.thread j = some t ∧ t.live = true) →
        o = .next (settled (setW s s.cur.wave
          { w' with causes := w.causes ++ [⟨cFetch, destination s w r n, 0#64, 0#32, 0, maskOf (n :: l)⟩] }) s.cur.wave)) ∧
      (w.priv ≠ none →
        o = .next (settled (handlerFault (setW s s.cur.wave w') s.cur.wave
          ⟨cFetch, destination s w r n, 0#64, 0#32, 0, maskOf (n :: l)⟩) s.cur.wave))

/-- A branch takes place, and then meets the trap of its stray threads (06 R219). -/
theorem branchBody_branches {f : Form} {target : State → Wave → Exec → Nat → Thread → W64} (h : Runs s w f.specs f.wimm f.user)
    (hl : f.last = true) (ht : ∀ n t, target s w s.cur n t = r.target s w n t) :
    Branches (runWord f (branchBody f r.link r.take target) s) s w r := by
  obtain ⟨w', hnext, heffect⟩ := branch_effect h hl ht
  have hframe : w'.priv = w.priv ∧ w'.causes = w.causes := by rw [heffect.2]; exact ⟨rfl, rfl⟩
  refine ⟨w', heffect, fun hstray => ?_, fun n l hstray => ⟨fun huser hlive => ?_, fun hpriv => ?_⟩⟩
  · rw [hnext, astray, strays_eq, hstray]
  · rw [hnext, astray, strays_eq, hstray]
    rw [← hframe.2, ← meetCause_setW s _ (hframe.1.trans huser) (effect_live heffect hlive)]
  · rw [hnext, astray, strays_eq, hstray]
    have hlevel : w'.priv.isSome = true := by rw [hframe.1]; exact Option.isSome_iff_ne_none.mpr hpriv
    rw [← meetCause_handler _ (mget_setW_same s _ w') hlevel]

end Stray

section Forms

variable {s : State} {w : Wave} {off : BitVec 21} {p : Spec}

theorem relative_eq (n : Nat) (t : Thread) :
    s.cur.addr + BitVec.ofInt 64 (4 * brOff s.cur.wimm off) = relative off s w n t := by
  unfold relative brOff
  rw [BitVec.ofInt_mul]
  cases s.cur.wimm with
  | none => rw [sgn_toNat (by decide)]; rfl
  | some p => dsimp only; rw [sgn_eq (by decide)]; rfl

theorem runBranch_branches {link : Bool} {take take' : State → Wave → Nat → Bool} (h : Runs s w [] true false)
    (htake : ∀ s w n, take s w n = take' s w n) :
    Branches (runBranch link take off s) s w ⟨[], true, link, take', relative off⟩ := by
  obtain rfl : take = take' := funext fun s => funext fun w => funext (htake s w)
  exact branchBody_branches (f := Form.ct true) (r := ⟨[], true, link, take, relative off⟩) h rfl fun n t => relative_eq (w := w) n t

theorem runJump_branches {link : Bool} {names : List Spec} (h : Runs s w names false false) :
    Branches (runJump link names p s) s w ⟨names, false, link, fun _ w n => w.em.getLsbD n, fromReg p⟩ :=
  branchBody_branches (f := { Form.ct false with specs := names }) (r := ⟨names, false, link, fun _ w n => w.em.getLsbD n, fromReg p⟩)
    h rfl fun _ _ => rfl

end Forms

theorem branchWord {i : Instr} {s : State} {w : Wave} {r : BranchForm} (hr : branchForm i = some r)
    (h : Runs s w r.names r.wimm false) : Branches (exec i s) s w r := by
  cases i
  case br | brc | brnc | call => cases hr; exact runBranch_branches h fun _ _ _ => rfl
  case brany => cases hr; exact runBranch_branches h fun s w _ => by simp [bne, beq_eq_decide]
  case brall => cases hr; exact runBranch_branches h fun s w _ => by rw [beq_eq_decide]
  case callr | ret | jmpr => cases hr; exact runJump_branches h
  all_goals exact none_ne_some hr

/-- Settles O9: the branch takes place; then `astray` meets the trap of the threads that no word can be fetched for. -/
theorem branchesMoveThreads : Obligations.BranchesMoveThreads :=
  fun _ _ _ _ hr h => branchWord hr h

end Sys2Proof.Proofs.Course
end

section
/-! PROOFS. Words at which threads stand or that they only pass, `trap`, `setw` and barrier words (06 R222-R234; 08 R306-R312; 12
R372). -/

set_option Elab.async false -- one proof at a time: the check bounds memory

namespace Sys2Proof.Proofs.Stands

open Sys2Proof Sys2Proof.Machine Sys2Proof.Terms Sys2Proof.Laws Sys2Proof.Proofs.Packed

section Stand

variable {f : Form} {s : State} {w : Wave} {r : StandForm}

/-- What the statement says of such a word for its outcome `o`. -/
def Rests (o : Out) (s : State) (w : Wave) (r : StandForm) : Prop :=
  ∃ w', StandEffect s w w' r ∧ o = .next (settled (setW s s.cur.wave w') s.cur.wave)

theorem standAt_rests {hold : Hold} {user : Bool} (h : Runs s w f.specs f.wimm f.user) :
    Rests (runWord f (standAt hold) s) s w ⟨true, user, [], true, .atRcb, hold⟩ := by
  obtain ⟨w', hnext, heffect⟩ := standAt_effect (hd := hold) (user := user) h
  exact ⟨w', heffect, hnext⟩

/-- A word whose body leaves its threads standing at the following one. -/
theorem pass_rests {body : State → Nat → Wave → Exec → State} {st : TState} {hold : Hold} {ends user : Bool}
    (h : Runs s w f.specs f.wimm f.user) (hends : f.last = ends)
    (hbody : body s s.cur.wave w s.cur =
      setW s s.cur.wave ((passAll s w s.cur f).onTids s.cur.tids fun _ t => { t with st := st, hold := hold })) :
    Rests (runWord f body s) s w ⟨ends, user, [], false, st, hold⟩ := by
  subst hends
  exact ⟨_, pass_stands s w, by rw [runWord_next h, hbody]⟩

/-- A handler exit (12 R372). -/
theorem leave_rests {m : Bool} {c : Nat} (hr : standForm.leave w c = some r) (h : Runs s w r.names false r.user) :
    Rests (runWord ⟨m, false, [], false, false⟩ (trapBody ⟨m, false, [], false, false⟩ c) s) s w r := by
  unfold standForm.leave at hr
  split at hr
  case isTrue hpriv =>
    cases hr
    refine ⟨_, retire_stands s w ⟨true, false, [], true, .atRcb, .leave c⟩ s.cur.addr rfl, ?_⟩
    rw [runWord_next h, trapBody, if_pos hpriv]
    rfl
  case isFalse => cases hr

/-- An offset that lies in the share passes its check. -/
theorem checkShare_inShare {n off : Nat} (h : inShare s w n off = true) : ∃ pl, checkShare s w n off = .ok pl := by
  simp only [inShare, Bool.and_eq_true, decide_eq_true_iff, beq_iff_eq] at h
  refine ⟨.scratch w.unit off, ?_⟩
  simp only [checkShare, Int.toNat_natCast]
  rw [if_neg (by simp; omega), if_neg (by simp [h.2])]

theorem scal32_eq (port : Nat) (x : SReg) : (readScal s w s.cur.tids port x.toNat).toNat % 2 ^ 32 = scal32 s w port x :=
  (BitVec.toNat_setWidth ..).symm

theorem waitgen_rests {m : Bool} {off g : SReg} (h : Runs s w [] false true) (hin : inShare s w 16 (scal32 s w 1 off) = true) :
    Rests (execWaitgen m off g s) s w ⟨true, true, [], false, .waiting, .gen (scal32 s w 1 off) (scal32 s w 2 g)⟩ := by
  obtain ⟨pl, hpl⟩ := checkShare_inShare hin
  refine pass_rests (f := (Form.ct false).userOnly) h rfl ?_
  simp only [scal32_eq, hpl]

theorem fenceW_rests {m : Bool} (h : Runs s w [] false false) (hids : ¬fenceIds w s.cur.tids = []) :
    Rests (execFenceW m s) s w ⟨m, false, [], false, .awaiting, .fence (fenceIds w s.cur.tids)⟩ := by
  refine pass_rests (f := ⟨m, false, [], false, false⟩) h (by simp) ?_
  rw [if_neg (by simpa using hids)]

theorem vunpin_rests {m : Bool} (h : Runs s w [] false true) (hon : ¬w.actives s.cur.tids = []) :
    Rests (execVunpin m s) s w ⟨m, true, [], false, .awaiting, .vunpin⟩ := by
  refine pass_rests (f := (Form.v3 m []).userOnly) h (by simp) ?_
  rw [if_neg (by simpa using hon)]

end Stand

theorem standWord {i : Instr} {s : State} {w : Wave} {r : StandForm} (hr : standForm s w i = some r)
    (h : Runs s w r.names false r.user) : Rests (exec i s) s w r := by
  cases i
  case rcb => cases hr; exact standAt_rests (f := Form.ct false) h
  case modeTriple m | modeSingle m => cases hr; exact standAt_rests (f := (Form.sc0 m).ending.userOnly) h
  case handlerReturn | handlerSaved | handlerEndWave | handlerRefuseReslice | handlerEndContext | trap =>
    dsimp only [standForm] at hr
    dsimp only [exec]; exact leave_rests hr h
  case block | waitc => cases hr; exact pass_rests (f := Form.ct false) h rfl rfl
  case waitgen m off g =>
    dsimp only [standForm] at hr
    split at hr
    case isTrue hin => cases hr; exact waitgen_rests (m := m) h hin
    case isFalse => cases hr
  case fenceW =>
    dsimp only [standForm] at hr
    split at hr
    case isTrue => cases hr
    case isFalse hids => cases hr; exact fenceW_rests h hids
  case vunpin =>
    dsimp only [standForm] at hr
    split at hr
    case isTrue => cases hr
    case isFalse hon => cases hr; exact vunpin_rests h hon
  all_goals exact none_ne_some hr

/-- Settles O10: each word leaves its threads standing, and does nothing else. -/
theorem threadsStandAtWaitingWords : Obligations.ThreadsStandAtWaitingWords :=
  fun _ _ _ _ hr h => standWord hr h

section Pass

variable {f : Form} {s : State} {w : Wave} {ends user : Bool}

/-- A word whose threads only pass it. -/
theorem body_passes {body : State → Nat → Wave → Exec → State} (h : Runs s w f.specs f.wimm f.user) (hends : f.last = ends)
    (hbody : body s s.cur.wave w s.cur = setW s s.cur.wave (passAll s w s.cur f)) :
    ∃ w', PassEffect s w w' ends ∧ runWord f body s = .next (settled (setW s s.cur.wave w') s.cur.wave) := by
  subst hends
  exact ⟨_, passAll_effect s w f, by rw [runWord_next h, hbody]⟩

theorem vpin_passes {m : Bool} {a : Spec} (h : Runs s w [] false true) (hoff : w.actives s.cur.tids = []) :
    ∃ w', PassEffect s w w' m ∧ execVpin m a s = .next (settled (setW s s.cur.wave w') s.cur.wave) := by
  have hruns : Runs s w [a] false true := ⟨h.1, h.2.1, h.2.2.1, .inl hoff⟩
  refine body_passes (f := (Form.v3 m [a]).userOnly) hruns (by simp) ?_
  simp only [hoff, List.head?_nil, Option.bind_none]

theorem passWord {i : Instr} (hr : passForm s w i = some (ends, user)) (h : Runs s w [] false user) :
    ∃ w', PassEffect s w w' ends ∧ exec i s = .next (settled (setW s s.cur.wave w') s.cur.wave) := by
  cases i
  case nop => cases hr; exact body_passes (f := ⟨ends, false, [], false, false⟩) h (by simp) rfl
  case prefG => cases hr; exact body_passes (f := Form.v3 ends []) h (by simp) rfl
  case fenceW =>
    dsimp only [passForm] at hr
    split at hr
    case isTrue hids =>
      cases hr
      refine body_passes (f := ⟨ends, false, [], false, false⟩) h (by simp) ?_
      rw [if_pos (by simpa using hids)]
    case isFalse => cases hr
  case vunpin =>
    dsimp only [passForm] at hr
    split at hr
    case isTrue hoff =>
      cases hr
      refine body_passes (f := (Form.v3 ends []).userOnly) h (by simp) ?_
      rw [if_pos (by simpa using hoff)]
    case isFalse => cases hr
  case vpin =>
    dsimp only [passForm] at hr
    split at hr
    case isTrue hoff => cases hr; exact vpin_passes h hoff
    case isFalse => cases hr
  all_goals exact none_ne_some hr

theorem yield_next {m : Bool} (h : Runs s w [] false true) :
    ∃ w', PassEffect s w { w' with yielded := w.yielded } true ∧ w'.yielded = true ∧
      execYield m s =
        .next (settled
          (if w.det && w.sidings.isEmpty && w.held.isEmpty && w.reads.isEmpty then
              giveUp (setW s s.cur.wave w') w.core w.launch (gtid0 s w)
            else setW s s.cur.wave w') s.cur.wave) := by
  refine ⟨{ passAll s w s.cur (Form.ct false).userOnly with yielded := true }, ?_, rfl,
    runWord_next (f := (Form.ct false).userOnly) h⟩
  exact passAll_effect s w (Form.ct false).userOnly

end Pass

/-- Settles O11: the bodies of these words are `passAll`; `yield` notes itself beside. -/
theorem passedWordsAndYield : Obligations.PassedWordsAndYield :=
  ⟨fun _ _ _ _ _ hr h => passWord hr h, fun m _ _ h => yield_next (m := m) h⟩

section Setw

variable {m i : Bool} {a : SReg} {x : BitVec 7} {s : State} {w : Wave}

/-- The value that `setw` asks for. -/
def asked (s : State) (w : Wave) (i : Bool) (a : SReg) (x : BitVec 7) : W64 :=
  if i then imm64 s.cur.wimm x else readScal s w s.cur.tids 1 a.toNat

theorem setw_next (h : Runs s w [] i true) : execSetw m a i x s = .next (settled
    (if ((asked s w i a x).toNat < 8 ∨ 64 < (asked s w i a x).toNat) ∧ (i = true ∨ w.actives s.cur.tids ≠ []) then
      illegalAt s s.cur.wave s.cur.addr s.cur.word s.cur.tids
    else if w.actives s.cur.tids = [] then setW s s.cur.wave (passAll s w s.cur (Form.sc m i).ending.userOnly)
    else
      setW { s with
        units := mmod s.units w.unit (fun u =>
          if u.reqBy.1 = s.cycle ∧ w.wlog < u.reqBy.2 then u
          else { u with req := max (asked s w i a x).toNat (leastGrant (e2Of s w)), reqBy := (s.cycle, w.wlog) }) }
        s.cur.wave (passAll s w s.cur (Form.sc m i).ending.userOnly)) s.cur.wave) := by
  have hnext : execSetw m a i x s = _ := runWord_next (f := (Form.sc m i).ending.userOnly) h
  simp only [scImm_eq, Bool.and_eq_true, Bool.or_eq_true, decide_eq_true_iff, List.isEmpty_iff, Bool.not_eq_true',
    List.isEmpty_eq_false_iff, beq_iff_eq] at hnext
  exact hnext

theorem setw_last : (Form.sc m i).ending.userOnly.last = true := by simp

end Setw

/-- Settles O15: the range, the activity and the order in a cycle are the branches of `execSetw`. -/
theorem setwSetsTheRequest : Obligations.SetwSetsTheRequest := by
  intro m a i x s w h
  have hnext := setw_next (m := m) (a := a) (x := x) h
  have hpass := passAll_effect s w (Form.sc m i).ending.userOnly
  rw [setw_last] at hpass
  refine ⟨fun hoff hrange => ?_, fun hon hlow hhigh => ?_, fun hon hrange => ?_⟩
  · have hgood : ¬(((asked s w i a x).toNat < 8 ∨ 64 < (asked s w i a x).toNat) ∧ (i = true ∨ w.actives s.cur.tids ≠ [])) := by
      rintro ⟨hout, hi⟩
      have hi := hi.resolve_right (not_not.mpr hoff)
      have hin := hrange hi
      exact absurd hout (by rw [asked]; omega)
    rw [if_neg hgood, if_pos hoff] at hnext
    exact ⟨_, hpass, hnext⟩
  · have hgood : ¬(((asked s w i a x).toNat < 8 ∨ 64 < (asked s w i a x).toNat) ∧ (i = true ∨ w.actives s.cur.tids ≠ [])) := by
      rintro ⟨hout, -⟩
      exact absurd hout (by rw [asked]; omega)
    rw [if_neg hgood, if_neg hon] at hnext
    exact ⟨_, hpass, hnext⟩
  · rw [if_pos ⟨hrange, hon.symm⟩] at hnext
    exact hnext

section Barrier

variable {s : State} {w w' : Wave} {r : BarForm}

/-- The model's test whether the barrier exists. -/
def found (s : State) (w : Wave) (r : BarForm) : Bool :=
  if r.tree then ((mget s.launches w.launch).bind (fun l => platTier l r.num)).isSome
  else decide (r.num < ((mget s.units w.unit).map (·.nbars)).getD 0)

theorem found_iff : found s w r = true ↔ r.exists_ s w := by
  unfold found BarForm.exists_
  split
  · rw [Option.isSome_iff_exists]
    simp only [Option.bind_eq_some_iff]
    exact exists_comm.trans (by simp only [exists_and_left])
  · cases mget s.units w.unit with
    | none => simp
    | some u => simp

/-- Arrivals wait while an access is not performed. -/
theorem countArrivals_unperformed {k : Nat} (h : w.unperformed = true) : countArrivals (setW s k w) k = setW s k w := by
  rw [countArrivals, mget_setW_same]
  simp only [h, if_true]

theorem bar_rests (h : Runs s w [] false true) (hin : r.exists_ s w) :
    ∃ w', StandEffect s w w' r.stand ∧
      runBar r.tree r.num r.count r.wait s = .next (settled (countArrivals (setW s s.cur.wave w') s.cur.wave) s.cur.wave) ∧
      (w.unperformed = true → runBar r.tree r.num r.count r.wait s = .next (settled (setW s s.cur.wave w') s.cur.wave)) := by
  have hnext : runBar r.tree r.num r.count r.wait s = _ := runWord_next (f := (Form.ct false).userOnly) h
  have hfound : ¬(!found s w r) = true := by simpa using found_iff.mpr hin
  have hstand := pass_stands (f := Form.ct false) (st := .awaiting) (hd := .arrive r.tree r.num r.count r.wait) (user := true) s w
  refine ⟨_, hstand, hnext.trans (by rw [barBody]; exact congrArg _ (congrArg (settled · _) (if_neg hfound))), fun hwait => ?_⟩
  have hsame := countArrivals_unperformed (s := s) (k := s.cur.wave) (w := (passAll s w s.cur (Form.ct false)).onTids s.cur.tids
    fun _ t => { t with st := .awaiting, hold := .arrive r.tree r.num r.count r.wait }) hwait
  rw [← hsame]
  exact hnext.trans (by rw [barBody]; exact congrArg _ (congrArg (settled · _) (if_neg hfound)))

theorem bar_traps (h : Runs s w [] false true) (hout : ¬r.exists_ s w) (huser : w.priv = none)
    (hlive : ∃ n t, w.thread n = some t ∧ t.live = true) :
    runBar r.tree r.num r.count r.wait s = .next (settled (setW s s.cur.wave { w with
      causes := w.causes ++ [⟨cBarrier, s.cur.addr, BitVec.ofNat 64 r.num, 0#32, 0, maskOf s.cur.tids⟩] }) s.cur.wave) := by
  have hnext : runBar r.tree r.num r.count r.wait s = _ := runWord_next (f := (Form.ct false).userOnly) h
  have hfound : (!found s w r) = true := by simpa using mt found_iff.mp hout
  obtain ⟨n, t, ht, hlive⟩ := hlive
  rw [← meetCause_user _ h.1 huser (any_live ht hlive)]
  exact hnext.trans (by rw [barBody]; exact congrArg _ (congrArg (settled · _) (if_pos hfound)))

theorem bar_exec {i : Instr} (hr : barForm i = some r) : exec i s = runBar r.tree r.num r.count r.wait s := by
  cases i
  case bar | barArr | tbar | tbarArr => cases hr; rfl
  all_goals exact none_ne_some hr

end Barrier

/-- Settles O14: the barrier that exists takes the threads up; the other is a trap. -/
theorem barrierWordsBringThreadsToTheBarrier : Obligations.BarrierWordsBringThreadsToTheBarrier := by
  intro i s w r hr h
  simp only [Leaves, bar_exec hr]
  exact ⟨fun hin => bar_rests h hin, fun hout huser hlive => bar_traps h hout huser hlive⟩

end Sys2Proof.Proofs.Stands
end

section
/-! PROOFS. `exit`, and what the last exit of a wave gives back (06 R216, R221; 02 R68, R93). -/

set_option Elab.async false -- one proof at a time: the check bounds memory

namespace Sys2Proof.Proofs.Exit

open Sys2Proof Sys2Proof.Machine Sys2Proof.Terms Sys2Proof.Laws Sys2Proof.Proofs.Packed Sys2Proof.Proofs.Frames

section Threads

variable {s : State} {w : Wave} {k n : Nat} {t : Thread} {tids : List Nat}

/-- A thread that exits. -/
def gone (t : Thread) : Thread :=
  { t with
    st := .exited, hold := .none, hint := none, wimm := none, hnAddr := none, marking := false, inRun := false, runCount := 0 }

/-- The wave whose threads have exited, its results not yet dropped. -/
def left (w : Wave) (tids : List Nat) : Wave :=
  let v := w.onTids tids (fun _ t => gone t)
  { v with
    em := w.em &&& ~~~maskOf tids, cm := w.cm &&& ~~~maskOf tids,
    apw := w.apw.filter (fun a => !(tids.any (fun i => ((v.thread i).map (·.lidx)) == some a.lidx))) }

theorem exitThreads_eq (hw : mget s.waves k = some w) :
    exitThreads s k tids = closeBars (endWave (setW s k (dropResults (left w tids))) k) w.unit := by
  rw [exitThreads, hw]
  rfl

theorem left_thread (ht : w.thread n = some t) :
    (dropResults (left w tids)).thread n = some (if n ∈ tids then gone t else t) := by
  have hthread := thread_onTids w tids (fun _ t => gone t) n
  rw [ht, Option.map_some] at hthread
  simp only [List.contains_iff_mem] at hthread
  exact hthread

theorem left_length : (dropResults (left w tids)).threads.length = w.threads.length := by
  simp [dropResults, left]

theorem left_thread_of (ht : (dropResults (left w tids)).thread n = some t) :
    ∃ t₀, w.thread n = some t₀ ∧ t = if n ∈ tids then gone t₀ else t₀ := by
  cases h₀ : w.thread n with
  | none =>
    have hthread := thread_onTids w tids (fun _ t => gone t) n
    rw [h₀, Option.map_none] at hthread
    exact absurd (ht.symm.trans hthread) (by simp)
  | some t₀ => exact ⟨t₀, rfl, Option.some.inj (ht.symm.trans (left_thread h₀))⟩

theorem left_bit (m : W64) (hn : n < 64) : (m &&& ~~~maskOf tids).getLsbD n = (m.getLsbD n && !tids.contains n) := by
  rw [BitVec.getLsbD_and, BitVec.getLsbD_not, maskOf_getLsbD _ _ hn, decide_eq_true hn, Bool.true_and]

/-- A result that no live thread is owed any more loses its destination, and nothing else. -/
theorem dropResults_ids (w : Wave) : (dropResults w).accs.map (·.id) = w.accs.map (·.id) := by
  rw [dropResults, List.map_map]
  refine List.map_congr_left fun a _ => ?_
  simp only [Function.comp_apply]
  split
  · rfl
  · rfl

end Threads

section Wave

variable {s : State} {w v : Wave} {k : Nat} {tids : List Nat}

theorem closeBars_keeps (s : State) (u : Nat) : (closeBars s u).waves = s.waves ∧ (closeBars s u).mem = s.mem := by
  unfold closeBars
  split
  · exact ⟨rfl, rfl⟩
  · exact ⟨rfl, rfl⟩

/-- While a thread of the wave lives, the wave does not end. -/
theorem endWave_alive (hv : mget s.waves k = some v) (hlive : v.threads.any (·.live) = true) : endWave s k = s := by
  rw [endWave, hv]
  simp only [hlive, if_true]

/-- Accesses after a change that touches no more than their lanes and destinations. -/
def AccsKept (l l' : List Access) : Prop :=
  ∃ f : Access → Access, l' = l.map f ∧ (∀ a, (f a).id = a.id) ∧ ∀ a, a.dest = none → (f a).dest = none

theorem AccsKept.same (l : List Access) : AccsKept l l := ⟨id, by simp, fun _ => rfl, fun _ h => h⟩

theorem mget_mapWaves (f : Wave → Wave) (m : FMap Wave) (hm : mget m k = some v) :
    mget (m.map fun e => (e.1, f e.2)) k = some (f v) := by
  induction m with
  | nil => cases hm
  | cons e m ih =>
    rw [List.map_cons, mget]
    rw [mget] at hm
    split
    case isTrue hk => rw [if_pos hk] at hm; rw [Option.some.inj hm]
    case isFalse hk => rw [if_neg hk] at hm; exact ih hm

/-- A wave with some of its accesses empty. -/
def silence (q : Access → Bool) (w : Wave) : Wave :=
  { w with accs := w.accs.map fun a => if q a then { a with lanes := [] } else a }

theorem silence_kept (q : Access → Bool) (w : Wave) : AccsKept w.accs (silence q w).accs := by
  refine ⟨fun a => if q a then { a with lanes := [] } else a, rfl, fun a => ?_, fun a ha => ?_⟩
  · dsimp only
    split
    · rfl
    · rfl
  · dsimp only
    split
    · exact ha
    · exact ha

/-- A record write of the sampler makes older ones empty, and changes nothing else of a wave. -/
theorem supersede_waves (core : Nat) (rec' : W64) :
    ∃ q, (supersede s core rec').waves = s.waves.map fun e => if e.2.core == core then (e.1, silence q e.2) else e :=
  ⟨_, rfl⟩

theorem supersede_wave (core : Nat) (rec' : W64) (hv : mget s.waves k = some v) :
    ∃ l, AccsKept v.accs l ∧ mget (supersede s core rec').waves k = some { v with accs := l } := by
  obtain ⟨q, hq⟩ := supersede_waves (s := s) core rec'
  have hmap : (supersede s core rec').waves = s.waves.map fun e => (e.1, if e.2.core == core then silence q e.2 else e.2) := by
    rw [hq]
    refine List.map_congr_left fun e _ => ?_
    split
    · rfl
    · rfl
  rw [hmap, mget_mapWaves (fun w => if w.core == core then silence q w else w) s.waves hv]
  split
  · exact ⟨_, silence_kept q v, rfl⟩
  · exact ⟨v.accs, .same v.accs, rfl⟩

theorem stopSampler_wave (core cid : Nat) (hv : mget s.waves k = some v) :
    ∃ l, AccsKept v.accs l ∧ mget (stopSampler s core cid).waves k = some { v with accs := l } := by
  unfold stopSampler
  split
  · exact ⟨v.accs, .same v.accs, hv⟩
  · split
    case isFalse => exact ⟨v.accs, .same v.accs, hv⟩
    case isTrue m _ _ =>
      have hwaves : (samplerReport s core m 0).waves = (supersede s core m.recAddr).waves :=
        waves_of_apart ((apart_tryStore _).trans (apart_tryStore _))
      rw [modC_waves, hwaves]
      exact supersede_wave core m.recAddr hv

/-- The last exit: what the wave still holds goes (06 R221; 02 R68, R93). -/
theorem endWave_over (hv : mget s.waves k = some v) (hover : v.threads.any (·.live) = false) :
    ∃ w', mget (endWave s k).waves k = some w' ∧ w'.threads = v.threads ∧ w'.xblk = 0 ∧ w'.pin = none ∧ w'.apw = [] ∧
      (∀ a ∈ w'.accs, a.dest = none) ∧ w'.accs.map (·.id) = v.accs.map (·.id) ∧ w'.ldq = v.ldq ∧ w'.stq = v.stq ∧
      w'.enq = v.enq := by
  let u : Wave :=
    { v with
      xblk := 0, pin := none, apw := [], causes := [], cmdErrs := [], sidings := [], held := [], reads := [], parked := false, priv := none,
      accs := v.accs.map (fun a => { a with dest := none }) }
  have hend : (endWave s k).waves = (stopSampler (modC (setW (owedCauses s v) k u) v.core
      (fun c => { c with reqs := c.reqs.filter (fun r => r.1 != k) })) v.core v.cid).waves := by
    rw [endWave, hv]
    simp only [hover]
    rfl
  obtain ⟨l, ⟨f, rfl, hid, hdest⟩, hl⟩ := stopSampler_wave (s := modC (setW (owedCauses s v) k u) v.core
    (fun c => { c with reqs := c.reqs.filter (fun r => r.1 != k) })) v.core v.cid (mget_setW_same (owedCauses s v) k u)
  rw [hend]
  refine ⟨_, hl, rfl, rfl, rfl, rfl, fun a ha => ?_, ?_, rfl, rfl, rfl⟩
  · simp only [u, List.map_map, List.mem_map, Function.comp_apply] at ha
    obtain ⟨b, -, rfl⟩ := ha
    exact hdest _ rfl
  · simp only [u, List.map_map]
    exact List.map_congr_left fun a _ => hid _

end Wave

section Last

variable {s : State} {w : Wave} {k : Nat} {tids : List Nat}

theorem exit_partial (hw : mget s.waves k = some w) (hlives : ∃ n t, w.thread n = some t ∧ t.live = true ∧ n ∉ tids) :
    mget (exitThreads s k tids).waves k = some (dropResults (left w tids)) ∧ (exitThreads s k tids).mem = s.mem := by
  obtain ⟨n, t, ht, hlive, hn⟩ := hlives
  have hleft := left_thread (tids := tids) ht
  rw [if_neg hn] at hleft
  have halive := any_live hleft hlive
  obtain ⟨hwaves, hmem⟩ := closeBars_keeps (setW s k (dropResults (left w tids))) w.unit
  rw [exitThreads_eq hw, endWave_alive (mget_setW_same s k _) halive]
  exact ⟨by rw [hwaves]; exact mget_setW_same s k _, hmem⟩

theorem left_over (hall : ∀ n t, w.thread n = some t → t.live = true → n ∈ tids) :
    (dropResults (left w tids)).threads.any (·.live) = false := by
  rw [List.any_eq_false]
  intro t ht
  obtain ⟨n, hn⟩ := List.getElem?_of_mem ht
  obtain ⟨t₀, ht₀, rfl⟩ := left_thread_of hn
  split
  case isTrue => simp [gone, Thread.live]
  case isFalse hout => exact fun hlive => hout (hall n t₀ ht₀ hlive)

end Last

/-- Settles O13: `exitThreads` marks the threads, and `endWave` gives back what the wave holds only when none lives. -/
theorem exitEndsThreadsAndWaves : Obligations.ExitEndsThreadsAndWaves := by
  refine ⟨fun m s w h => ?_, fun s k w tids hw hlives => ?_, fun s k w tids hw hall => ?_⟩
  · exact ⟨_, passAll_effect s w (Form.ct false).userOnly, runWord_next (f := (Form.ct false).userOnly) h⟩
  · obtain ⟨hleft, hmem⟩ := exit_partial hw hlives
    refine ⟨_, hleft, left_length, fun n t ht => ⟨_, left_thread ht, ?_⟩, fun n hn => ⟨left_bit w.em hn, left_bit w.cm hn⟩,
      rfl, rfl, rfl, rfl, rfl, dropResults_ids (left w tids), hmem⟩
    split
    · exact ⟨rfl, rfl, rfl⟩
    · rfl
  · obtain ⟨w', hw', hthreads, hxblk, hpin, hapw, hdest, hids, hldq, hstq, henq⟩ :=
      endWave_over (s := setW s k (dropResults (left w tids))) (mget_setW_same s k _) (left_over hall)
    refine ⟨w', ?_, fun n t ht => ?_, hxblk, hpin, hapw, hdest, hids.trans (dropResults_ids (left w tids)), hldq, hstq, henq⟩
    · rw [exitThreads_eq hw, (closeBars_keeps _ _).1]
      exact hw'
    · have hleft : (dropResults (left w tids)).thread n = some t := by rw [Wave.thread, ← hthreads]; exact ht
      obtain ⟨t₀, ht₀, rfl⟩ := left_thread_of hleft
      split
      case isTrue => rfl
      case isFalse hout => simpa [Thread.live] using mt (hall n t₀ ht₀) hout

end Sys2Proof.Proofs.Exit
end

section
/-! PROOFS. The checks before any effect of a word: register blocks and the privilege of a handler (02 R70; 12 R374, R375, R377), and
`trap` (06 R225). -/

set_option Elab.async false -- one proof at a time: the check bounds memory

namespace Sys2Proof.Proofs.Traps

open Sys2Proof Sys2Proof.Machine Sys2Proof.Terms Sys2Proof.Laws Sys2Proof.Proofs.Packed Sys2Proof.Proofs.Stands
  Sys2Proof.Proofs.Special

section Checks

variable {i : Instr} {s : State} {w : Wave} {names : List Spec} {wimm : Bool}

/-- Instruction `i` is a word of the checks of `attempt`, with these names, wide immediate and privilege. -/
def Checked (i : Instr) (s : State) (w : Wave) (names : List Spec) (wimm : Bool) : Prop :=
  ∃ f body, exec i s = runWord f body s ∧ f.wimm = wimm ∧ (f.user = true → forbidden i = true) ∧
    f.specs.find? (fun p => w.lacks p) = names.find? (fun p => w.lacks p)

/-- Register 0 stands in the block that every wave holds. -/
theorem zero_held (w : Wave) : w.lacks 0x00#7 = false := by
  simp [Wave.lacks]

theorem checked_of_row {f : Form} {body : State → Nat → Wave → Exec → State} (hexec : exec i s = runWord f body s)
    (hrow : namesOf s w i = some (f.specs, f.wimm)) (huser : f.user = true → forbidden i = true)
    (hn : namesOf s w i = some (names, wimm)) : Checked i s w names wimm := by
  cases hrow.symm.trans hn
  exact ⟨f, body, hexec, rfl, huser, rfl⟩

/-- Every word that names registers makes the checks of `attempt` on them. A register that user level may not read is not looked
at: the privilege trap comes before the register block (12 R377). -/
theorem checked_of_namesOf {p : Spec} (hn : namesOf s w i = some (names, wimm)) (hw : mget s.waves s.cur.wave = some w)
    (hfree : ∀ m d n, i = .rdsrVector m d n → ¬(srPriv n.toNat = true ∧ w.priv.isNone = true))
    (hlack : names.find? (fun p => w.lacks p) = some p) : Checked i s w names wimm := by
  cases i
  case voteBallot m d a mask =>
    by_cases hd : d.toNat < 0x70
    · have hform : crossForm (.voteBallot m d a mask) = _ := if_pos hd
      rw [namesOf, hform] at hn
      cases hn
      exact ⟨Form.v3 m [d, a], _, if_pos hd, rfl, fun h => h, rfl⟩
    · have hcross : crossForm (.voteBallot m d a mask) = _ := if_neg hd
      have hlate : lateForm (.voteBallot m d a mask) = _ := if_pos (Nat.le_of_not_lt hd)
      rw [namesOf, hcross, hlate] at hn
      cases hn
      exact ⟨Form.v3 m [a], _, if_neg hd, rfl, fun h => h, rfl⟩
  case handlerReturn | handlerSaved | handlerEndWave | handlerRefuseReslice | handlerEndContext | trap =>
    obtain ⟨r, hr, hnames⟩ := Option.map_eq_some_iff.mp (show (standForm.leave w _).map _ = some _ from hn)
    unfold standForm.leave at hr
    split at hr <;> cases hr
    cases hnames
    cases hlack
  case waitgen | fenceW | vunpin =>
    obtain ⟨r, hr, hnames⟩ := Option.map_eq_some_iff.mp (show (standForm s w _).map _ = some _ from hn)
    dsimp only [standForm] at hr
    split at hr <;> cases hr
    cases hnames
    cases hlack
  all_goals try exact none_ne_some hn
  case rdsrVector m d n =>
    cases hn
    refine ⟨_, _, rfl, rfl, fun h => h, ?_⟩
    rw [rdsrVector_specs hw, if_neg (by simpa using hfree m d n rfl)]
    rfl
  case popcB32 | clzB32 | brevB32 =>
    cases hn
    exact ⟨_, _, rfl, rfl, fun h => h, by simp [Form.v3, List.find?, zero_held]⟩
  case armS | xacqNb => exact checked_of_row rfl rfl (fun _ => rfl) hn
  case rcb | modeTriple | modeSingle | block | waitc => cases hn; cases hlack
  all_goals exact checked_of_row rfl rfl (fun h => h) hn

/-- The first register of a block not held stops such a word, and the trap of that register is met. -/
theorem exec_lacking {p : Spec} (hcheck : Checked i s w names wimm) (hw : mget s.waves s.cur.wave = some w)
    (hwimm : s.cur.wimm.isSome = true → wimm = true) (hpriv : w.priv.isSome = true → forbidden i = false)
    (hon : w.actives s.cur.tids ≠ []) (hlack : names.find? (fun p => w.lacks p) = some p) :
    exec i s = .next (settled (meetCause s s.cur.wave
      ⟨cBlock, s.cur.addr, BitVec.ofNat 64 p.toNat, 0#32, 0, maskOf s.cur.tids⟩) s.cur.wave) := by
  obtain ⟨f, body, hexec, rfl, huser, hfind⟩ := hcheck
  have h1 : (s.cur.wimm.isSome && !f.wimm) = false := by
    cases hs : s.cur.wimm.isSome
    · rfl
    · rw [hwimm hs]; rfl
  have h2 : (w.priv.isSome && f.user) = false := by
    cases hs : f.user
    · simp
    · cases hp : w.priv.isSome
      · rfl
      · exact absurd (hpriv hp) (by simp [huser hs])
  rw [hexec, runWord, hw]
  simp [attempt, h1, h2, hon, hfind, hlack]

/-- A word that is forbidden to a handler is a handler fault there. -/
theorem exec_forbidden (hf : forbidden i = true) (hw : mget s.waves s.cur.wave = some w) (hwimm : s.cur.wimm = none)
    (hpriv : w.priv.isSome = true) : exec i s = .next (settled (handlerFault s s.cur.wave (noCause s)) s.cur.wave) := by
  have hword : ∃ f body, exec i s = runWord f body s ∧ f.user = true := by
    cases i
    case exit | setw | yield | xacq | xacqNb | xrel | modeTriple | modeSingle | bar | barArr | tbar | tbarArr | waitgen | smplStart |
        smplStop | smplFlush | armS | vpin | vunpin | tdesc | mload | tturn | mma | mmaSc | mmaPn | mstore | ecopy | egath | escat |
        ecoll | publish | eseqMilepost | eseqLast | ewait | optstep | dsweep =>
      exact ⟨_, _, rfl, rfl⟩
    all_goals exact absurd hf Bool.false_ne_true
  obtain ⟨f, body, hexec, huser⟩ := hword
  rw [hexec, runWord, hw]
  simp [attempt, hwimm, hpriv, huser]

end Checks

section Trap

variable {i : Instr} {s : State} {w : Wave} {m : Bool} {c : Nat}

/-- Active threads that pass a word are not exited. -/
theorem any_live_passAll (f : Form) (hon : w.actives s.cur.tids ≠ []) : (passAll s w s.cur f).threads.any (·.live) = true := by
  obtain ⟨n, hn⟩ := List.exists_mem_of_ne_nil _ hon
  obtain ⟨-, t, ht, hlive⟩ := actives_thread hn
  refine any_live (n := n) (by rw [passAll_thread, ht]; rfl) ?_
  split
  · exact hlive
  · exact hlive

theorem addCause_setW (s : State) {k : Nat} (c : Cause) (hlive : w.threads.any (·.live) = true) :
    addCause (setW s k w) k c = setW s k { w with causes := w.causes ++ [c] } := by
  simp [addCause, hlive]

/-- `trap` at user level: the threads pass it, and an active one makes the software trap pending. -/
theorem trap_next (h : Runs s w [] false false) (huser : w.priv = none) :
    ∃ w', PassEffect s w w' m ∧
      runWord ⟨m, false, [], false, false⟩ (trapBody ⟨m, false, [], false, false⟩ c) s =
        .next (settled (setW s s.cur.wave { w' with
          causes := w.causes ++
            if w.actives s.cur.tids = [] then []
            else [⟨cSoftware, s.cur.addr + 4, 0#64, 0#32, c, maskOf (w.actives s.cur.tids)⟩] }) s.cur.wave) := by
  let f : Form := ⟨m, false, [], false, false⟩
  have hpass := passAll_effect s w f
  refine ⟨_, by simpa [f] using hpass, ?_⟩
  rw [runWord_next (f := f) h, trapBody, if_neg (by simp [huser])]
  by_cases hon : w.actives s.cur.tids = []
  · rw [if_pos hon, List.append_nil, if_pos (by simp [hon])]
    rfl
  · rw [if_neg hon, if_neg (by simpa using hon)]
    exact congrArg (fun s => Host.Outcome.next (settled s _)) (addCause_setW s _ (any_live_passAll f hon))

theorem trapWord (hr : trapCode i = some (m, c)) :
    exec i s = runWord ⟨m, false, [], false, false⟩ (trapBody ⟨m, false, [], false, false⟩ c) s := by
  cases i
  case trap | handlerReturn | handlerSaved | handlerEndWave | handlerRefuseReslice | handlerEndContext => cases hr; rfl
  all_goals exact none_ne_some hr

end Trap

/-- Settles O12: the checks of `attempt`, in their order, and the body of `trap`. -/
theorem trapRaisesTheSoftwareTrap : Obligations.TrapRaisesTheSoftwareTrap := by
  refine ⟨fun i s w names wimm p hn hw hwimm hpriv hfree hon hlack => ?_, fun i s w hf hw hwimm hpriv => ?_, ?_⟩
  · have hbar : ∀ m d n, i = .rdsrVector m d n → ¬(srPriv n.toNat = true ∧ w.priv.isNone = true) := by
      rintro m d n rfl ⟨hp, hu⟩
      exact hfree m d n rfl ⟨hp, by simpa using hu, hon⟩
    have hnext := exec_lacking (checked_of_namesOf hn hw hbar hlack) hw hwimm hpriv hon hlack
    refine ⟨fun huser => ?_, fun hp => ?_⟩
    · rw [Leaves, hnext, meetCause_user _ hw huser (any_live_of_active hon)]
    · rw [hnext, meetCause_handler _ hw hp]
  · exact exec_forbidden hf hw hwimm hpriv
  · intro i m c s w hr h huser
    simp only [Leaves, trapWord hr]
    exact trap_next h huser

end Sys2Proof.Proofs.Traps
end

section
/-! SUPPORT. Per-lane memory words: the address and the data that the statements give a thread are those of the model, and the
outcomes of the checks (08 R285-R290). -/

set_option Elab.async false -- one proof at a time: the check bounds memory

namespace Sys2Proof.Proofs.Lanes

open Sys2Proof Sys2Proof.Machine Sys2Proof.Terms Sys2Proof.Laws Sys2Proof.Proofs.Packed

section Words

variable {share : Bool} {ty c : Nat} {m : Bool} {d a b : Spec} {imm : BitVec 7} {r : MemForm}

/-- A word is the per-lane memory word of its row of the table. -/
def Lanewise (word : State → Out) (r : MemForm) : Prop :=
  ∃ f, (∀ s, word s = runMem f r.op r.addr r.data s) ∧ f.last = r.marked ∧ f.specs = r.names ∧ f.wimm = r.wimm ∧ f.user = r.user

theorem viOff_eq (wimm : Option Nat) (imm : BitVec 7) (size : Nat) :
    viOff wimm imm size = match wimm with
      | some p => (BitVec.ofNat 32 (p * 128 + imm.toNat)).toInt
      | none => imm.toInt * size := by
  cases wimm with
  | none => rw [viOff, sgn_toNat (by decide)]
  | some p => rw [viOff, sgn_eq (by decide)]

theorem viAddr_global (a : Spec) (imm : BitVec 7) (size : Nat) : viAddr a false imm size = gAddr a imm size := by
  funext s w n t
  rw [gAddr, viOff_eq]
  rfl

theorem viAddr_share (a : Spec) (imm : BitVec 7) (size : Nat) : viAddr a true imm size = sAddr a imm size := by
  funext s w n t
  rw [sAddr, viOff_eq]
  rfl

theorem bytesOfType_eq (h : ty < 9) : bytesOfType ty = tySize ty := by
  revert ty
  decide

/-- The first sibling always is. -/
theorem sibs_head (w : Wave) (f : Nat → Nat) : (w.sibs.map f).headD 0 = f 0 := by
  unfold Wave.sibs
  split <;> rfl

theorem storeData_eq (ty : Nat) (d : Spec) : storeData ty d = fun s w n t pl =>
    if isAperture pl then [readOp s w n t 0 2 d (ty == 8)]
    else passStore ty (placeClass s pl) (w.sibs.map fun k => readOp s w n t k 2 d (ty == 8)) := by
  funext s w n t pl
  simp only [storeData, sibs_head]

theorem meanOf_eq (s : State) (w : Wave) (n : Nat) (t : Thread) (b : Spec) : meanOperand s w n t b = meanOf s w n t b := by
  unfold meanOperand meanOf Wave.sibs
  cases w.triple <;> rfl

theorem atomData_eq (f : Nat) (b : Spec) : atomData f b = atomOperand f b := by
  funext s w n t pl
  simp only [atomData, meanOf_eq, atomWide]
  by_cases h2 : f = 2
  · subst h2; rfl
  by_cases h12 : f = 12
  · subst h12; rfl
  by_cases h13 : f = 13
  · subst h13; rfl
  by_cases h1 : f = 1
  · subst h1; rfl
  by_cases h11 : f = 11
  · subst h11; rfl
  have hnarrow : (f == 1 || f == 11 || f == 13) = false := by simp [h1, h11, h13]
  simp [atomOperand, h2, h12, h13, hnarrow]

theorem lanewise_ldG (h : ty < 9) (hr : ldForm false ty m d a imm = some r) : Lanewise (runLdG ty m d a imm) r := by
  cases hr
  refine ⟨Form.vi m [d, a], fun s => ?_, by simp [Form.vi], rfl, rfl, rfl⟩
  rw [viAddr_global, bytesOfType_eq h]
  rfl

theorem lanewise_ldS (h : ty < 9) (hr : ldForm true ty m d a imm = some r) : Lanewise (runLdS ty m d a imm) r := by
  cases hr
  refine ⟨Form.vi m [d, a], fun s => ?_, by simp [Form.vi], rfl, rfl, rfl⟩
  rw [viAddr_share, bytesOfType_eq h]
  rfl

theorem lanewise_stG (h : ty < 9) (hr : stForm false ty m d a imm = some r) : Lanewise (runStG ty m d a imm) r := by
  cases hr
  refine ⟨Form.vi m [d, a], fun s => ?_, by simp [Form.vi], rfl, rfl, rfl⟩
  rw [viAddr_global, bytesOfType_eq h, ← storeData_eq]
  rfl

theorem lanewise_stS (h : ty < 9) (hr : stForm true ty m d a imm = some r) : Lanewise (runStS ty m d a imm) r := by
  cases hr
  refine ⟨Form.vi m [d, a], fun s => ?_, by simp [Form.vi], rfl, rfl, rfl⟩
  rw [viAddr_share, bytesOfType_eq h, ← storeData_eq]
  rfl

theorem lanewise_atom (hr : atomForm share c m (some d) a b = some r) : Lanewise (runAtom share c m d a b) r := by
  cases hr
  refine ⟨Form.v3 m [d, a, b], fun s => ?_, by simp, rfl, rfl, rfl⟩
  rw [← atomData_eq]
  cases share <;> rfl

theorem lanewise_atomn (hr : atomForm false c m none a b = some r) : Lanewise (runAtomn c m a b) r := by
  cases hr
  refine ⟨Form.v3 m [a, b], fun s => ?_, by simp, rfl, rfl, rfl⟩
  rw [← atomData_eq]
  rfl

end Words

theorem laneWord {i : Instr} {r : MemForm} (hr : memForm i = some r) : Lanewise (exec i) r := by
  cases i
  case ldGN8 | ldGI8 | ldGN16 | ldGI16 | ldGN32 | ldGF32 | ldGF16 | ldGBf16 | ldGN64 =>
    dsimp only [memForm] at hr
    exact lanewise_ldG (by decide) hr
  case ldSN8 | ldSI8 | ldSN16 | ldSI16 | ldSN32 | ldSF32 | ldSF16 | ldSBf16 | ldSN64 =>
    dsimp only [memForm] at hr
    exact lanewise_ldS (by decide) hr
  case stGN8 | stGN16 | stGN32 | stGF32 | stGF16 | stGBf16 | stGN64 =>
    dsimp only [memForm] at hr
    exact lanewise_stG (by decide) hr
  case stSN8 | stSN16 | stSN32 | stSF32 | stSF16 | stSBf16 | stSN64 =>
    dsimp only [memForm] at hr
    exact lanewise_stS (by decide) hr
  case ldD m d a => cases hr; exact ⟨Form.v3 m [d, a], fun s => rfl, by simp, rfl, rfl, rfl⟩
  case stD m c a b =>
    cases hr
    refine ⟨Form.v3 m [a, b], fun s => ?_, by simp, rfl, rfl, rfl⟩
    have hword : exec (.stD m c a b) s = execStD m c a b s := rfl
    rw [hword, execStD]
    simp only [meanOf_eq]
    rfl
  case dadd m a b =>
    cases hr
    refine ⟨Form.v3 m [a, b], fun s => ?_, by simp, rfl, rfl, rfl⟩
    have hword : exec (.dadd m a b) s = execDadd m a b s := rfl
    rw [hword, execDadd]
    simp only [meanOf_eq]
    rfl
  case dcls m c a => cases hr; exact ⟨Form.v3 m [a], fun s => rfl, by simp, rfl, rfl, rfl⟩
  case armS m a b => cases hr; exact ⟨(Form.v3 m [a, b]).userOnly, fun s => rfl, by simp, rfl, rfl, rfl⟩
  case atomnGAddN32 | atomnGAddN64 | atomnGAddF32 | atomnGMinI32 | atomnGMinN32 | atomnGMaxI32 | atomnGMaxN32 | atomnGAndB32
      | atomnGOrB32 | atomnGXorB32 => dsimp only [memForm] at hr; exact lanewise_atomn hr
  case atomGAddN32 | atomGAddN64 | atomGAddF32 | atomGMinI32 | atomGMinN32 | atomGMaxI32 | atomGMaxN32 | atomGAndB32
      | atomGOrB32 | atomGXorB32 | atomGExchN32 | atomGExchN64 | atomGCasN32 | atomGCasN64 =>
    dsimp only [memForm] at hr
    exact lanewise_atom hr
  case atomSAddN32 | atomSAddN64 | atomSAddF32 | atomSMinI32 | atomSMinN32 | atomSMaxI32 | atomSMaxN32 | atomSAndB32
      | atomSOrB32 | atomSXorB32 | atomSExchN32 | atomSExchN64 | atomSCasN32 | atomSCasN64 =>
    dsimp only [memForm] at hr
    exact lanewise_atom hr
  all_goals exact none_ne_some hr

end Sys2Proof.Proofs.Lanes
end

section
/-! PROOFS. Per-lane memory words: the access that they put on its way, the siding of the threads that meet a fault, and their traps
(08 R285-R290; 01 R34, R35; 14 R435). -/

set_option Elab.async false -- one proof at a time: the check bounds memory

namespace Sys2Proof.Proofs.Accesses

open Sys2Proof Sys2Proof.Machine Sys2Proof.Terms Sys2Proof.Laws Sys2Proof.Proofs.Packed Sys2Proof.Proofs.Lanes

section Verdicts

variable (r : MemForm) (s : State) (w : Wave)

/-- What the checks say of the active packed threads. -/
def verdicts : List (Nat × Int × Verdict) := (activeThreads s w).map fun p => (p.1, r.addr s w p.1 p.2, r.check s w p.1 p.2)

theorem verdicts_eq : ((w.actives s.cur.tids).filterMap fun n =>
    (w.thread n).map fun t => (n, r.addr s w n t, r.op.check s w (r.addr s w n t))) = verdicts r s w := by
  simp only [verdicts, activeThreads, List.map_filterMap, Option.map_map]
  rfl

theorem codedOf_verdicts : codedOf (verdicts r s w) = (r.coded s w).map fun x => (x.1, r.addr s w x.1 x.2.1, x.2.2) := by
  unfold codedOf verdicts MemForm.coded
  rw [List.filterMap_map, List.map_filterMap]
  refine congrArg (List.filterMap · _) (funext fun p => ?_)
  simp only [Function.comp_apply]
  cases r.check s w p.1 p.2 <;> rfl

theorem violOf_verdicts : violOf (verdicts r s w) = r.violations s w := by
  unfold violOf verdicts MemForm.violations
  rw [List.filterMap_map]
  refine congrArg (List.filterMap · _) (funext fun p => ?_)
  simp only [Function.comp_apply]
  cases r.check s w p.1 p.2 <;> rfl

theorem transOf_verdicts : transOf (verdicts r s w) = r.faults s w := by
  unfold transOf verdicts MemForm.faults
  rw [List.filterMap_map]
  refine congrArg (List.filterMap · _) (funext fun p => ?_)
  simp only [Function.comp_apply]
  cases r.check s w p.1 p.2 <;> rfl

theorem placesOf_verdicts (away : Bool) : (placesOf (verdicts r s w)).filter (fun p => isRemote p.2.2 == away) =
    (r.placed s w away).map fun p => (p.1, r.addr s w p.1 p.2.1, p.2.2) := by
  unfold placesOf verdicts MemForm.placed
  rw [List.filterMap_map, List.map_filterMap, List.filter_filterMap]
  refine congrArg (List.filterMap · _) (funext fun p => ?_)
  simp only [Function.comp_apply]
  cases r.check s w p.1 p.2 with
  | ok pl => by_cases h : isRemote pl = away <;> simp [h]
  | _ => rfl

end Verdicts

section Step

variable (r : MemForm) (s : State) (w : Wave)

/-- The threads for which the word is complete. -/
def passing : List Nat :=
  s.cur.tids.filter fun n => !((r.faults s w).map (·.1)).contains n && !(r.placed s w true).any (fun p => p.1 == n)

/-- A register result is owed where the thread has an access; every window is shifted. -/
def owing (n : Nat) (t : Thread) : Thread :=
  match r.op.dest with
  | none => t
  | some d => if (r.placed s w false).any (fun p => p.1 == n) then t.owe (some d.1) d.2 else pushWin undefWin t

/-- The wave with what its threads are owed. -/
def owes (v : Wave) : Wave :=
  match r.op.dest with
  | none => v
  | some d =>
    v.onTids (passing r s w) fun n t =>
      if (r.placed s w false).any (fun p => p.1 == n) then t.owe (some d.1) d.2 else pushWin undefWin t

theorem onTids_same (tids : List Nat) (k : Nat) (l : List Thread) : Machine.onTids tids (fun _ t => t) k l = l := by
  induction l generalizing k with
  | nil => rfl
  | cons t l ih => simp [Machine.onTids, ih]

theorem owes_eq (v : Wave) : owes r s w v = v.onTids (passing r s w) (owing r s w) := by
  unfold owes owing Wave.onTids
  cases r.op.dest with
  | none => simp only [onTids_same]
  | some d => rfl

/-- A section of its own begins after the word. -/
def sectioned (n : Nat) (t : Thread) : Thread :=
  if r.op.own then t.openSection (s.nextId + 1) w.xblk (w.em.getLsbD n) (w.cm.getLsbD n) t.pc else t

/-- A thread that passes the word. -/
def passStep (n : Nat) (t : Thread) : Thread :=
  sectioned r s w n ((owing r s w n t).retire s.cycle (actBank s w.core w.cid) r.marked (s.cur.addr + 4))

/-- The wave with the access on its way. -/
def entered : Wave :=
  if (r.placed s w false).isEmpty then w
  else launchAccess s w r.op.loads r.op.stores { r.accessOf s w s.nextId (r.placed s w false) with after := [] }

/-- The wave whose threads have passed the word. -/
def passedWave : Wave :=
  let v := (owes r s w (entered r s w)).retire s.cycle (actBank s w.core w.cid) (passing r s w) r.marked fun _ => s.cur.addr + 4
  if r.op.own then v.openSections (s.nextId + 1) (passing r s w) else v

/-- The wave after it. -/
def partWave : Wave :=
  if (r.placed s w true).isEmpty then passedWave r s w
  else
    (passedWave r s w).hold (farCode s)
      (heldOf s w r.op r.marked s.cur.addr { r.accessOf s w (s.nextId + 1) (r.placed s w true) with after := [] })

variable {r s w}

theorem placed_thread {away : Bool} {p : Nat × Thread × Place} (hp : p ∈ r.placed s w away) :
    p.1 ∈ w.actives s.cur.tids ∧ w.thread p.1 = some p.2.1 ∧ r.check s w p.1 p.2.1 = .ok p.2.2 ∧ isRemote p.2.2 = away := by
  simp only [MemForm.placed, List.mem_filterMap] at hp
  obtain ⟨q, hq, hp⟩ := hp
  have hq := mem_activeThreads.mp hq
  cases hc : r.check s w q.1 q.2 with
  | ok pl =>
    rw [hc] at hp
    by_cases hrem : isRemote pl = away
    · simp only [hrem, if_true, Option.some.injEq] at hp
      subst hp
      exact ⟨hq.1, hq.2, hc, hrem⟩
    · simp [hrem] at hp
  | _ => rw [hc] at hp; cases hp

theorem lanes_eq (away : Bool) :
    ((r.placed s w away).map fun p => (p.1, r.addr s w p.1 p.2.1, p.2.2)).filterMap (fun p =>
      (w.thread p.1).map fun t => (⟨p.1, wrap 64 p.2.1, p.2.2, r.data s w p.1 t p.2.2⟩ : Lane)) =
    (r.placed s w away).map fun p =>
      ⟨p.1, (BitVec.ofInt 64 (r.addr s w p.1 p.2.1)).toNat, p.2.2, r.data s w p.1 p.2.1 p.2.2⟩ := by
  rw [List.filterMap_map]
  refine filterMap_some _ _ _ fun p hp => ?_
  obtain ⟨-, hthread, -⟩ := placed_thread hp
  simp only [Function.comp_apply, hthread, Option.map_some]
  rfl

theorem dest_eq : (r.op.dest.bind fun d => longDest d.1 d.2) =
    r.op.dest.bind fun d => if 0x68 ≤ d.1.toNat then none else some (4 * d.1.toNat, d.2) := by
  congr 1
  funext d
  unfold longDest destKey
  by_cases hd : d.1.toNat < 0x68
  · simp [hd, show ¬ 0x68 ≤ d.1.toNat by omega]
  · simp [hd, show 0x68 ≤ d.1.toNat by omega]

/-- A word of which no active thread fails a coded check or violates its partition. -/
theorem memBody_goes {f : Form} (hmark : f.last = r.marked) (hcoded : r.coded s w = []) (hviol : r.violations s w = []) :
    memBody f r.op r.addr r.data s s.cur.wave w s.cur =
      if !(r.faults s w).isEmpty && w.priv.isSome then handlerFault s s.cur.wave (noCause s)
      else if ((r.faults s w).map (·.1)).isEmpty then
        setW (numbered s (if (r.placed s w true).isEmpty then 1 else 2)) s.cur.wave (partWave r s w)
      else
        toSiding (setW (numbered s (if (r.placed s w true).isEmpty then 1 else 2)) s.cur.wave (partWave r s w)) s.cur.wave
          (needKinds r.op.need + kLane) r.op.own (r.faults s w) ((r.faults s w).map (·.1)) := by
  have hfar := placesOf_verdicts r s w true
  have hnear := placesOf_verdicts r s w false
  simp only [beq_true, beq_false] at hfar hnear
  unfold memBody
  simp only [verdicts_eq, codedOf_verdicts, violOf_verdicts, transOf_verdicts, hfar, hnear, hcoded, hviol, List.map_nil, lanes_eq,
    dest_eq, hmark, List.isEmpty_map, List.any_map]
  rfl

/-- A change of some of the packed threads is one of the packed threads. -/
theorem onTids_within {some_ tids : List Nat} (h : ∀ n ∈ some_, n ∈ tids) (F : Nat → Thread → Thread) (k : Nat) (l : List Thread) :
    Machine.onTids some_ F k l = Machine.onTids tids (fun n t => if n ∈ some_ then F n t else t) k l := by
  induction l generalizing k with
  | nil => rfl
  | cons t l ih =>
    by_cases hk : k ∈ some_
    · simp [Machine.onTids, ih, hk, h k hk]
    · simp [Machine.onTids, ih, hk]

theorem near_packed {away : Bool} {n : Nat} (h : n ∈ (r.placed s w away).map (·.1)) : n ∈ s.cur.tids := by
  obtain ⟨p, hp, rfl⟩ := List.mem_map.mp h
  exact (actives_thread (placed_thread hp).1).1

/-- A thread with its share of what the digests are still to take up. -/
def noted (g : Nat → List Fold) (n : Nat) (t : Thread) : Thread := { t with folds := t.folds ++ g n }

theorem entered_eq : ∃ g : Nat → List Fold, (∀ n, n ∉ (r.placed s w false).map (·.1) → g n = []) ∧
    entered r s w = { w with
      threads := Machine.onTids s.cur.tids (noted g) 0 w.threads,
      accs := w.accs ++ if r.placed s w false = [] then [] else [r.accessOf s w s.nextId (r.placed s w false)],
      ldq := w.ldq ++ if r.placed s w false = [] then [] else List.replicate r.op.loads (s.nextId, false),
      stq := w.stq ++ if r.placed s w false = [] then [] else List.replicate r.op.stores (s.nextId, false) } := by
  by_cases hnear : r.placed s w false = []
  · refine ⟨fun _ => [], fun _ _ => rfl, ?_⟩
    have hnote : noted (fun _ => []) = fun _ t => t := by funext n t; simp [noted]
    simp [entered, hnear, hnote, onTids_same]
  · let a := r.accessOf s w s.nextId (r.placed s w false)
    obtain ⟨g, hg⟩ := noteFolds_eq s (addAccess w a) a ((r.placed s w false).map (·.1)) fun n hn => by
      simpa [a, MemForm.accessOf] using hn
    refine ⟨fun n => if n ∈ (r.placed s w false).map (·.1) then g n else [], fun n hn => if_neg hn, ?_⟩
    have hlaunch : entered r s w = launchAccess s w r.op.loads r.op.stores { a with after := [] } := by
      simp [entered, hnear, a]
    have hthreads : Machine.onTids ((r.placed s w false).map (·.1)) (fun n t => { t with folds := t.folds ++ g n }) 0 w.threads =
        Machine.onTids s.cur.tids (noted fun n => if n ∈ (r.placed s w false).map (·.1) then g n else []) 0 w.threads := by
      rw [onTids_within fun n hn => near_packed hn]
      congr 1
      funext n t
      by_cases hn : n ∈ (r.placed s w false).map (·.1)
      · simp only [noted, hn, if_true]
      · simp only [noted, hn, if_false, List.append_nil]
    have hsent : launchAccess s w r.op.loads r.op.stores { a with after := [] } =
        let v := noteFolds s (addAccess w a) a
        { v with
          ldq := v.ldq ++ List.replicate r.op.loads (s.nextId, false),
          stq := v.stq ++ List.replicate r.op.stores (s.nextId, false) } := rfl
    rw [hlaunch, ← hthreads, if_neg hnear, if_neg hnear, if_neg hnear, hsent, hg]
    rfl

/-- The threads after the word. -/
def afterStep (r : MemForm) (s : State) (w : Wave) (g : Nat → List Fold) (n : Nat) (t : Thread) : Thread :=
  let t := noted g n t
  let t := if n ∈ passing r s w then passStep r s w n t else t
  if n ∈ (r.placed s w true).map (·.1) then { t with wake := farWake, wakeCode := farCode s } else t

theorem passedWave_threads
    (hsame : (entered r s w).xblk = w.xblk ∧ (entered r s w).em = w.em ∧ (entered r s w).cm = w.cm) :
    (passedWave r s w).threads = Machine.onTids (passing r s w) (passStep r s w) 0 (entered r s w).threads := by
  obtain ⟨hxblk, hem, hcm⟩ := hsame
  let G (n : Nat) (t : Thread) : Thread :=
    (owing r s w n t).retire s.cycle (actBank s w.core w.cid) r.marked (s.cur.addr + 4)
  obtain ⟨v, hv⟩ : ∃ v, v = (owes r s w (entered r s w)).retire s.cycle (actBank s w.core w.cid) (passing r s w) r.marked
      fun _ => s.cur.addr + 4 := ⟨_, rfl⟩
  have hwave : passedWave r s w = if r.op.own then v.openSections (s.nextId + 1) (passing r s w) else v := by rw [hv]; rfl
  rw [owes_eq] at hv
  have hretire : v.threads = Machine.onTids (passing r s w) G 0 (entered r s w).threads := by
    rw [hv]
    exact onTids_onTids ..
  have hkeep : v.xblk = w.xblk ∧ v.em = w.em ∧ v.cm = w.cm := by
    rw [hv, ← hxblk, ← hem, ← hcm]
    exact ⟨rfl, rfl, rfl⟩
  clear hv
  obtain ⟨hxblk, hem, hcm⟩ := hkeep
  rw [hwave]
  cases hown : r.op.own
  · have hstep : passStep r s w = G := by
      funext n t
      simp [passStep, sectioned, hown, G]
    rw [hstep]
    exact hretire
  · have hstep : passStep r s w = fun n t =>
        (G n t).openSection (s.nextId + 1) w.xblk (w.em.getLsbD n) (w.cm.getLsbD n) (G n t).pc := by
      funext n t
      simp only [passStep, sectioned, hown, if_true, G]
    have hopen : (v.openSections (s.nextId + 1) (passing r s w)).threads = Machine.onTids (passing r s w)
        (fun n t => t.openSection (s.nextId + 1) v.xblk (v.em.getLsbD n) (v.cm.getLsbD n) t.pc) 0 v.threads := rfl
    rw [if_pos rfl, hopen, hretire, onTids_onTids, hstep, hxblk, hem, hcm]

theorem partWave_eq : partWave r s w = if (r.placed s w true).isEmpty then passedWave r s w
    else (passedWave r s w).hold (farCode s)
      (heldOf s w r.op r.marked s.cur.addr { r.accessOf s w (s.nextId + 1) (r.placed s w true) with after := [] }) := rfl

theorem partWave_threads {g : Nat → List Fold}
    (hg : (entered r s w).threads = Machine.onTids s.cur.tids (noted g) 0 w.threads)
    (hsame : (entered r s w).xblk = w.xblk ∧ (entered r s w).em = w.em ∧ (entered r s w).cm = w.cm) :
    (partWave r s w).threads = Machine.onTids s.cur.tids (afterStep r s w g) 0 w.threads := by
  have hpass : ∀ n ∈ passing r s w, n ∈ s.cur.tids := fun n hn => (List.mem_filter.mp hn).1
  have hfar : ∀ n ∈ (r.placed s w true).map (·.1), n ∈ s.cur.tids := fun n hn => near_packed hn
  have hpassed := passedWave_threads hsame
  rw [hg, onTids_within hpass, onTids_onTids] at hpassed
  rw [partWave_eq]
  by_cases hnone : r.placed s w true = []
  · rw [if_pos (by simp [hnone]), hpassed]
    congr 1
    funext n t
    simp [afterStep, hnone]
  · rw [if_neg (by simpa using hnone)]
    have hheld : ((passedWave r s w).hold (farCode s) (heldOf s w r.op r.marked s.cur.addr
        { r.accessOf s w (s.nextId + 1) (r.placed s w true) with after := [] })).threads =
        Machine.onTids ((r.placed s w true).map (·.1)) (fun _ t => { t with wake := farWake, wakeCode := farCode s }) 0
          (passedWave r s w).threads := by
      simp only [Wave.hold, Wave.onTids, heldOf, MemForm.accessOf, List.map_map]
      rfl
    rw [hheld, hpassed, onTids_within hfar, onTids_onTids]
    rfl

theorem placed_of_check {away : Bool} {n : Nat} {t : Thread} {pl : Place} (hn : (n, t) ∈ activeThreads s w)
    (hc : r.check s w n t = .ok pl) (hrem : isRemote pl = away) : n ∈ (r.placed s w away).map (·.1) := by
  refine List.mem_map.mpr ⟨(n, t, pl), ?_, rfl⟩
  rw [MemForm.placed, List.mem_filterMap]
  exact ⟨(n, t), hn, by simp only [hc, hrem, if_true]⟩

theorem faults_of_check {n c : Nat} {t : Thread} (hn : (n, t) ∈ activeThreads s w) (hc : r.check s w n t = .trans c) :
    n ∈ (r.faults s w).map (·.1) := by
  refine List.mem_map.mpr ⟨(n, (BitVec.ofInt 64 (r.addr s w n t)).toNat, c), ?_, rfl⟩
  rw [MemForm.faults, List.mem_filterMap]
  exact ⟨(n, t), hn, by simp only [hc]⟩

theorem mem_passing {n : Nat} : n ∈ passing r s w ↔
    n ∈ s.cur.tids ∧ n ∉ (r.faults s w).map (·.1) ∧ n ∉ (r.placed s w true).map (·.1) := by
  simp only [passing, List.mem_filter, Bool.and_eq_true, Bool.not_eq_true', List.contains_eq_mem, decide_eq_false_iff_not,
    List.any_eq_false, beq_iff_eq, List.mem_map, not_exists, not_and]

theorem near_iff {n : Nat} (hgoes : r.Goes s w) (hn : n ∈ passing r s w) :
    ((r.placed s w false).any fun p => p.1 == n) = true ↔ n ∈ w.actives s.cur.tids := by
  obtain ⟨-, hfault, hfar⟩ := mem_passing.mp hn
  rw [List.any_eq_true]
  constructor
  · rintro ⟨p, hp, hpn⟩
    rw [← beq_iff_eq.mp hpn]
    exact (placed_thread hp).1
  · intro hactive
    obtain ⟨-, t, ht, -⟩ := actives_thread hactive
    have hthread := (mem_activeThreads (p := (n, t))).mpr ⟨hactive, ht⟩
    obtain ⟨pl, hok⟩ | ⟨c, htrans⟩ := hgoes _ hthread
    · cases hrem : isRemote pl with
      | true => exact absurd (placed_of_check hthread hok hrem) hfar
      | false =>
        obtain ⟨p, hp, hpn⟩ := List.mem_map.mp (placed_of_check hthread hok hrem)
        exact ⟨p, hp, by simpa using hpn⟩
    · exact absurd (faults_of_check hthread htrans) hfault

/-- What `MemThread` says of the registers owed and of the window. -/
theorem owing_dest {n : Nat} {t : Thread} (hnear : ((r.placed s w false).any fun p => p.1 == n) = true ↔ n ∈ w.actives s.cur.tids) :
    owing r s w n t = { t with owed := (owing r s w n t).owed, win := (owing r s w n t).win } ∧
    match r.op.dest with
      | none => (owing r s w n t).owed = t.owed ∧ (owing r s w n t).win = t.win
      | some d =>
        (owing r s w n t).owed = (if n ∈ w.actives s.cur.tids then owedKeys d.1 d.2 else []) ++ t.owed ∧
          (owing r s w n t).win = (undefWin :: t.win).take 8 := by
  unfold owing
  cases r.op.dest with
  | none => exact ⟨rfl, rfl, rfl⟩
  | some d =>
    by_cases hn : n ∈ w.actives s.cur.tids
    · simp only [hnear.mpr hn, hn, if_true]
      unfold Thread.owe owedKeys
      by_cases hd : d.1.toNat < 0x68
      · have hd' : ¬0x68 ≤ d.1.toNat := by omega
        cases hw : d.2 <;> simp [hd, hd', pushWin]
      · have hd' : 0x68 ≤ d.1.toNat := by omega
        simp [hd, hd', pushWin]
    · have hoff := mt hnear.mp hn
      simp only [hoff, hn, if_false]
      exact ⟨rfl, rfl, rfl⟩

theorem memThread_passStep {n : Nat} (t : Thread) (g : Nat → List Fold) (hgoes : r.Goes s w) (hn : n ∈ passing r s w) :
    MemThread s w r n t (passStep r s w n (noted g n t)) := by
  obtain ⟨hsame, hdest⟩ := owing_dest (t := noted g n t) (near_iff hgoes hn)
  have hretired := retire_retired s.cycle (actBank s w.core w.cid) r.marked (s.cur.addr + 4) (owing r s w n (noted g n t))
  unfold MemThread passStep sectioned
  generalize owing r s w n (noted g n t) = u at *
  obtain ⟨o, l, rfl⟩ : ∃ o l, u = { noted g n t with owed := o, win := l } := ⟨_, _, hsame⟩
  cases hown : r.op.own
  all_goals
    refine ⟨hretired, rfl, rfl, rfl, rfl, rfl, rfl, ⟨g n, rfl⟩, rfl, rfl, ?_, rfl⟩
    cases hd : r.op.dest with
    | none =>
      rw [hd] at hdest
      obtain ⟨howed, hwin⟩ := hdest
      have hwin : l = t.win := hwin
      subst hwin
      exact ⟨howed, rfl⟩
    | some d =>
      rw [hd] at hdest
      obtain ⟨howed, hwin⟩ := hdest
      have hwin : l = (undefWin :: t.win).take 8 := hwin
      subst hwin
      exact ⟨howed, rfl⟩

theorem owing_runCount (n : Nat) (t : Thread) : (owing r s w n t).runCount = t.runCount := by
  unfold owing
  cases r.op.dest with
  | none => rfl
  | some d =>
    dsimp only
    split
    · unfold Thread.owe
      by_cases hd : d.1.toNat < 0x68 <;> simp [hd, pushWin]
    · rfl

theorem runx_passed {g : Nat → List Fold} (hg : (entered r s w).threads = Machine.onTids s.cur.tids (noted g) 0 w.threads)
    (hrunx : (entered r s w).runx = w.runx) :
    (passedWave r s w).runx =
      (w.runx || w.numbered.any fun p => (passing r s w).contains p.1 && (!r.marked && p.2.runCount + 1 == 24)) := by
  have hretire : (passedWave r s w).runx = ((entered r s w).runx || ((entered r s w).onTids (passing r s w) (owing r s w)).numbered.any
      fun p => (passing r s w).contains p.1 && p.2.overruns r.marked) := by
    unfold passedWave
    rw [owes_eq]
    cases r.op.own <;> rfl
  rw [hretire, hrunx]
  congr 1
  have hthread (n : Nat) : ((entered r s w).onTids (passing r s w) (owing r s w)).thread n =
      (w.thread n).map fun t =>
        if (passing r s w).contains n then owing r s w n (if s.cur.tids.contains n then noted g n t else t)
        else if s.cur.tids.contains n then noted g n t else t := by
    simp only [Wave.thread, Wave.onTids, onTids_getElem?, hg, Option.map_map, Nat.zero_add]
    rfl
  refine any_enumFrom_congr 0 (by simp [Wave.onTids, hg]) fun n a b ha hb => ?_
  have ha := (hthread n).symm.trans ha
  rw [show w.thread n = some b from hb, Option.map_some, Option.some.injEq] at ha
  subst ha
  simp only [Nat.zero_add]
  by_cases hn : n ∈ passing r s w
  · simp only [List.contains_eq_mem, hn, decide_true, if_true, Bool.true_and, Thread.overruns, owing_runCount]
    split <;> rfl
  · simp only [List.contains_eq_mem, hn, decide_false, Bool.false_and]

theorem mem_faults {n : Nat} (h : n ∈ (r.faults s w).map (·.1)) : ∃ t c, w.thread n = some t ∧ r.check s w n t = .trans c := by
  obtain ⟨f, hf, rfl⟩ := List.mem_map.mp h
  simp only [MemForm.faults, List.mem_filterMap] at hf
  obtain ⟨p, hp, hf⟩ := hf
  have hp := mem_activeThreads.mp hp
  cases hc : r.check s w p.1 p.2 with
  | trans c =>
    rw [hc] at hf
    simp only [Option.some.injEq] at hf
    subst hf
    exact ⟨p.2, c, hp.2, hc⟩
  | _ => rw [hc] at hf; cases hf

/-- A thread's place is one, and it is no fault. -/
theorem placed_faults {away : Bool} {n : Nat} (h : n ∈ (r.placed s w away).map (·.1)) : n ∉ (r.faults s w).map (·.1) := by
  intro hfault
  obtain ⟨t, c, ht, htrans⟩ := mem_faults hfault
  obtain ⟨p, hp, rfl⟩ := List.mem_map.mp h
  obtain ⟨-, hp, hok, -⟩ := placed_thread hp
  rw [ht, Option.some.injEq] at hp
  rw [hp, hok] at htrans
  cases htrans

theorem near_far {n : Nat} (h : n ∈ (r.placed s w true).map (·.1)) : n ∉ (r.placed s w false).map (·.1) := by
  intro hnear
  obtain ⟨p, hp, rfl⟩ := List.mem_map.mp h
  obtain ⟨q, hq, hpq⟩ := List.mem_map.mp hnear
  obtain ⟨-, hp, hpok, hpaway⟩ := placed_thread hp
  obtain ⟨-, hq, hqok, hqaway⟩ := placed_thread hq
  rw [hpq, hp, Option.some.injEq] at hq
  rw [hpq, ← hq, hpok, Verdict.ok.injEq] at hqok
  rw [← hqok, hpaway] at hqaway
  cases hqaway

theorem noted_nil {g : Nat → List Fold} {n : Nat} (h : g n = []) (t : Thread) : noted g n t = t := by
  simp [noted, h]

theorem passedWave_eq : passedWave r s w =
    { entered r s w with threads := (passedWave r s w).threads, runx := (passedWave r s w).runx } := by
  obtain ⟨v, hv⟩ : ∃ v, v = owes r s w (entered r s w) := ⟨_, rfl⟩
  have hwave : passedWave r s w =
      if r.op.own then
        (v.retire s.cycle (actBank s w.core w.cid) (passing r s w) r.marked fun _ => s.cur.addr + 4).openSections (s.nextId + 1)
          (passing r s w)
      else v.retire s.cycle (actBank s w.core w.cid) (passing r s w) r.marked fun _ => s.cur.addr + 4 := by rw [hv]; rfl
  have hkeep : v = { entered r s w with threads := v.threads } := by
    rw [hv, owes_eq]
    rfl
  have hsame (l : List Thread) (x : Bool) : ({ v with threads := l, runx := x } : Wave) =
      { entered r s w with threads := l, runx := x } :=
    congrArg (fun v : Wave => { v with threads := l, runx := x }) hkeep
  rw [← hsame, hwave]
  cases r.op.own <;> rfl

/-- The word as its threads wait for an owner at it. -/
def heldWord (r : MemForm) (s : State) (w : Wave) : Held :=
  { addr := s.cur.addr, accs := [r.accessOf s w (s.nextId + 1) (r.placed s w true)], got := [],
    tids := (r.placed s w true).map (·.1), dest := r.op.dest, scal := none, kinds := needKinds r.op.need + kLane,
    own := r.op.own, last := r.marked }

theorem heldOf_eq : heldOf s w r.op r.marked s.cur.addr { r.accessOf s w (s.nextId + 1) (r.placed s w true) with after := [] } =
    heldWord r s w := by
  simp only [heldOf, heldWord, MemForm.accessOf, List.map_map]
  rfl

theorem partWave_effect (hgoes : r.Goes s w) : PartEffect s w (partWave r s w) r := by
  obtain ⟨g, hnone, hg⟩ := entered_eq (r := r) (s := s) (w := w)
  have hthreads := partWave_threads (g := g) (by rw [hg]) (by rw [hg]; exact ⟨rfl, rfl, rfl⟩)
  have hrunx := runx_passed (g := g) (by rw [hg]) (by rw [hg])
  refine ⟨threads_of_onTids hthreads fun n t hn ht => ?_, ?_⟩
  · dsimp only [afterStep]
    by_cases hfault : n ∈ (r.faults s w).map (·.1)
    · have hfar : n ∉ (r.placed s w true).map (·.1) := fun h => placed_faults h hfault
      have hnear : n ∉ (r.placed s w false).map (·.1) := fun h => placed_faults h hfault
      have hpass : n ∉ passing r s w := fun h => (mem_passing.mp h).2.1 hfault
      rw [if_pos hfault, if_neg hpass, if_neg hfar, noted_nil (hnone n hnear)]
    · rw [if_neg hfault]
      by_cases hfar : n ∈ (r.placed s w true).map (·.1)
      · have hpass : n ∉ passing r s w := fun h => (mem_passing.mp h).2.2 hfar
        rw [if_pos (by simpa using hfar), if_neg hpass, if_pos hfar, noted_nil (hnone n (near_far hfar))]
      · have hpass : n ∈ passing r s w := mem_passing.mpr ⟨hn, hfault, hfar⟩
        rw [if_neg (by simpa using hfar), if_pos hpass, if_neg hfar]
        exact memThread_passStep t g hgoes hpass
  · have hpassed := passedWave_eq (r := r) (s := s) (w := w)
    rw [hg, hrunx] at hpassed
    have hcontains : (fun p : Nat × Thread => (passing r s w).contains p.1 && (!r.marked && p.2.runCount + 1 == 24)) =
        fun p => (s.cur.tids.contains p.1 && !((r.faults s w).map (·.1)).contains p.1 &&
          !(r.placed s w true).any fun q => q.1 == p.1) && (!r.marked && p.2.runCount + 1 == 24) := by
      funext p
      congr 1
      rw [Bool.eq_iff_iff, List.contains_iff_mem, mem_passing]
      simp only [Bool.and_eq_true, Bool.not_eq_true', List.contains_eq_mem, decide_eq_true_iff, decide_eq_false_iff_not,
        List.any_eq_false, beq_iff_eq, List.mem_map, not_exists, not_and, and_assoc]
    rw [hcontains] at hpassed
    by_cases hfar : r.placed s w true = []
    · have hsame : partWave r s w = passedWave r s w := by rw [partWave_eq, if_pos (by simp [hfar])]
      rw [hsame, if_pos hfar, List.append_nil]
      exact hpassed
    · have hwave : partWave r s w = { passedWave r s w with
          threads := (partWave r s w).threads, held := (passedWave r s w).held ++ [heldWord r s w] } := by
        rw [partWave_eq, if_neg (by simpa using hfar), ← heldOf_eq]
        rfl
      rw [if_neg hfar]
      exact hwave.trans (congrArg (fun v : Wave =>
        { v with threads := (partWave r s w).threads, held := v.held ++ [heldWord r s w] }) hpassed)

end Step

end Sys2Proof.Proofs.Accesses
end

section
/-! PROOFS. The siding of threads whose access meets a fault in translation, and the per-lane memory words as they are stated (01 R34,
R35; 08 R285-R301; 14 R419). -/

set_option Elab.async false -- one proof at a time: the check bounds memory

namespace Sys2Proof.Proofs.Siding

open Sys2Proof Sys2Proof.Machine Sys2Proof.Terms Sys2Proof.Laws Sys2Proof.Proofs.Packed Sys2Proof.Proofs.Lanes
  Sys2Proof.Proofs.Accesses

section Record

variable {s : State}

@[simp] theorem sysWrite_waves (a : Nat) (bs : List Byte) : (sysWrite s a bs).waves = s.waves := by
  unfold sysWrite
  split <;> rfl

@[simp] theorem event_waves (fn kind unit info : Nat) : (event s fn kind unit info).waves = s.waves := by
  unfold event
  generalize numBytes 16 = put
  split
  · rfl
  · extract_lets src seq f' n drop
    clear_value src seq f' n
    split
    · rfl
    · rw [sysWrite_waves]

theorem writeHome_waves (a : Nat) (bs : List Byte) : (writeHome s a bs).waves = s.waves := rfl

theorem mergeFault_waves (p : Partition) (seq va reason kind : Nat) (first : Bool) :
    (mergeFault s p seq va reason kind first).waves = s.waves := by
  simp only [mergeFault, writeRec, writeHome_waves]

theorem openRecord_waves (part : Nat) (p : Partition) (cid va reason kind : Nat) :
    (openRecord s part p cid va reason kind).waves = s.waves := by
  obtain ⟨v, parts, hopen⟩ : ∃ v parts, openRecord s part p cid va reason kind =
      event { writeRec s p p.seqNext v with parts := parts } (fnOfPart part) 1 uSignalbox p.seqNext := ⟨_, _, rfl⟩
  rw [hopen, event_waves]
  rfl

theorem holdFault_waves (part : Nat) (p : Partition) (cid va reason kind src : Nat) :
    (holdFault s part p cid va reason kind src).1.waves = s.waves := by
  simp only [holdFault, apply_ite State.waves, event_waves, ite_self]

@[simp] theorem regFault_waves (cid va reason kind src : Nat) (has : List Nat) :
    (regFault s cid va reason kind src has).1.waves = s.waves := by
  simp only [regFault]
  split
  · rfl
  · split
    · rw [holdFault_waves]
    · split
      · rw [mergeFault_waves]
      · split
        · rw [openRecord_waves]
        · rw [holdFault_waves]

/-- Faults are registered without a wave being changed, each page once. -/
theorem regPages_waves (cid kind src : Nat) (done : List FPage) (l : List (Nat × Nat)) :
    (regPages cid kind src s done l).1.waves = s.waves := by
  induction l generalizing s done with
  | nil => rfl
  | cons x l ih =>
    simp only [regPages]
    split
    · exact ih ..
    · exact (ih ..).trans (regFault_waves ..)

/-- Dropping what came before leaves the distinct items. -/
theorem eraseDups_seen {l done : List Nat} {x : Nat} (h : x ∈ done) : (done ++ x :: l).eraseDups = (done ++ l).eraseDups := by
  rw [List.eraseDups_append, List.eraseDups_append]
  simp [List.removeAll, h]

theorem regPages_pages (cid kind src : Nat) (done : List FPage) (l : List (Nat × Nat)) :
    ((regPages cid kind src s done l).2.map fun f : FPage => f.va).eraseDups =
      ((done.map fun f : FPage => f.va) ++ l.map fun f : Nat × Nat => f.1 / 32768 * 32768).eraseDups := by
  induction l generalizing s done with
  | nil => simp [regPages]
  | cons x l ih =>
    simp only [regPages]
    split
    case isTrue hseen =>
      obtain ⟨f, hf, hva⟩ := List.any_eq_true.mp hseen
      rw [ih, List.map_cons, eraseDups_seen]
      exact List.mem_map.mpr ⟨f, hf, by simpa using hva⟩
    case isFalse => rw [ih, List.map_append, List.append_assoc]; rfl

end Record

section Form

variable {s : State} {k kind : Nat} {own : Bool} {faults : List (Nat × Nat × Nat)} {tids : List Nat} {w : Wave}

/-- A thread in the siding. -/
def sided (s : State) (w : Wave) (own : Bool) (n : Nat) (t : Thread) : Thread :=
  { t with
    st := .inSiding, hold := .none, siding := freeSiding w, opened := own || t.opened,
    sec := if own then
        ⟨t.stand, t.opidx, 0xFFFFF, true, t.regs, w.em.getLsbD n, w.cm.getLsbD n, t.digest, s.nextId, t.folds, w.xblk⟩
      else t.sec }

theorem formSiding_next (hw : mget s.waves k = some w) : ∃ pages,
    mget (formSiding s k kind faults tids).waves k = some { w with
      threads := Machine.onTids tids (fun _ t => { t with st := .inSiding, hold := .none, siding := freeSiding w }) 0 w.threads,
      sidings := addSiding ⟨freeSiding w, tids, pages⟩ w.sidings } ∧
    (pages.map fun f : FPage => f.va).eraseDups = (faults.map fun f : Nat × Nat × Nat => f.2.1 / 32768 * 32768).eraseDups := by
  refine ⟨(regPages w.cid kind w.core s [] (faults.map fun f => (f.2.1, f.2.2))).2, ?_, ?_⟩
  · simp only [formSiding, hw, mget_setW_same]
    rfl
  · rw [regPages_pages, List.map_map]
    rfl

theorem toSiding_next (hw : mget s.waves k = some w) : ∃ pages,
    mget (toSiding s k kind own faults tids).waves k = some { w with
      threads := Machine.onTids tids (sided s w own) 0 w.threads,
      sidings := addSiding ⟨freeSiding w, tids, pages⟩ w.sidings } ∧
    (pages.map fun f : FPage => f.va).eraseDups = (faults.map fun f : Nat × Nat × Nat => f.2.1 / 32768 * 32768).eraseDups := by
  cases own
  · obtain ⟨pages, hnext, hpages⟩ := formSiding_next (kind := kind) (faults := faults) (tids := tids) hw
    exact ⟨pages, hnext, hpages⟩
  · have hopen : mget (modW s k fun w => w.onTids tids fun n t =>
        t.openSection s.nextId w.xblk (w.em.getLsbD n) (w.cm.getLsbD n) t.stand).waves k =
        some (w.onTids tids fun n t => t.openSection s.nextId w.xblk (w.em.getLsbD n) (w.cm.getLsbD n) t.stand) := by
      rw [modW, mmod, hw, mget_mset_same]
    obtain ⟨pages, hnext, hpages⟩ := formSiding_next (kind := kind) (faults := faults) (tids := tids) hopen
    refine ⟨pages, hnext.trans ?_, hpages⟩
    simp only [Wave.onTids, onTids_onTids]
    rfl

theorem sided_threads {v : Wave} (hv : v.threads = Machine.onTids tids (sided s w own) 0 w.threads) (n : Nat) (t : Thread)
    (ht : w.thread n = some t) : ∃ t', v.thread n = some t' ∧ if n ∈ tids then t' = sided s w own n t else t' = t := by
  refine ⟨if n ∈ tids then sided s w own n t else t, ?_, by split <;> rfl⟩
  simp only [Wave.thread, hv, onTids_getElem?, Nat.zero_add, List.contains_eq_mem, decide_eq_true_iff] at ht ⊢
  rw [ht]
  rfl

end Form

section Word

variable {i : Instr} {s : State} {w : Wave} {r : MemForm}

theorem word_next (hr : memForm i = some r) (h : Runs s w r.names r.wimm r.user) : ∃ f : Form, f.last = r.marked ∧
    exec i s = .next (settled (memBody f r.op r.addr r.data s s.cur.wave w s.cur) s.cur.wave) := by
  obtain ⟨f, hexec, hlast, hspecs, hwimm, huser⟩ := laneWord hr
  rw [← hspecs, ← hwimm, ← huser] at h
  exact ⟨f, hlast, (hexec s).trans (runWord_next h)⟩

theorem goes_coded (h : r.Goes s w) : r.coded s w = [] := by
  refine List.filterMap_eq_nil_iff.mpr fun p hp => ?_
  obtain ⟨pl, hok⟩ | ⟨c, htrans⟩ := h p hp
  · simp only [hok]
  · simp only [htrans]

theorem goes_violations (h : r.Goes s w) : r.violations s w = [] := by
  refine List.filterMap_eq_nil_iff.mpr fun p hp => ?_
  obtain ⟨pl, hok⟩ | ⟨c, htrans⟩ := h p hp
  · simp only [hok]
  · simp only [htrans]

theorem word_goes (hr : memForm i = some r) (h : Runs s w r.names r.wimm r.user) (hgoes : r.Goes s w)
    (huser : w.priv = none ∨ r.faults s w = []) :
    exec i s = .next (settled
      (if r.faults s w = [] then
        setW (numbered s (if r.placed s w true = [] then 1 else 2)) s.cur.wave (partWave r s w)
       else
        toSiding (setW (numbered s (if r.placed s w true = [] then 1 else 2)) s.cur.wave (partWave r s w)) s.cur.wave
          (needKinds r.op.need + kLane) r.op.own (r.faults s w) ((r.faults s w).map (·.1))) s.cur.wave) := by
  obtain ⟨f, hlast, hexec⟩ := word_next hr h
  rw [hexec, memBody_goes hlast (goes_coded hgoes) (goes_violations hgoes)]
  have hgo : ¬(!(r.faults s w).isEmpty && w.priv.isSome) = true := by
    obtain hu | hnone := huser
    · simp [hu]
    · simp [hnone]
  rw [if_neg hgo]
  simp only [List.isEmpty_map, List.isEmpty_iff]

theorem word_fault (hr : memForm i = some r) (h : Runs s w r.names r.wimm r.user) (hgoes : r.Goes s w)
    (hpriv : w.priv.isSome = true) (hfault : r.faults s w ≠ []) :
    exec i s = .next (settled (handlerFault s s.cur.wave (noCause s)) s.cur.wave) := by
  obtain ⟨f, hlast, hexec⟩ := word_next hr h
  rw [hexec, memBody_goes hlast (goes_coded hgoes) (goes_violations hgoes), if_pos (by simp [hpriv, hfault])]

theorem word_violates {va pa : Nat} {rest : List (Nat × Nat)} (hr : memForm i = some r) (h : Runs s w r.names r.wimm r.user)
    (hcoded : r.coded s w = []) (hviol : r.violations s w = (va, pa) :: rest) :
    exec i s = .next (settled (freezeWave s s.cur.wave s.cur.first va pa) s.cur.wave) := by
  obtain ⟨f, -, hexec⟩ := word_next hr h
  rw [hexec]
  simp only [memBody, Accesses.verdicts_eq, codedOf_verdicts, violOf_verdicts, hcoded, hviol, List.map_nil]

theorem word_coded {n c : Nat} {t : Thread} {rest : List (Nat × Thread × Nat)} (hr : memForm i = some r)
    (h : Runs s w r.names r.wimm r.user) (hcoded : r.coded s w = (n, t, c) :: rest) :
    exec i s = .next (settled (meetCause s s.cur.wave
      ⟨cMemory, s.cur.first, BitVec.ofInt 64 (r.addr s w n t), 0#32, c, maskOf (n :: rest.map (·.1))⟩) s.cur.wave) := by
  obtain ⟨f, -, hexec⟩ := word_next hr h
  rw [hexec]
  simp only [memBody, Accesses.verdicts_eq, codedOf_verdicts, hcoded, List.map_cons, List.map_map]
  have haddr : BitVec.ofNat 64 (wrap 64 (r.addr s w n t)) = BitVec.ofInt 64 (r.addr s w n t) := by
    show BitVec.ofNat 64 (BitVec.ofInt 64 (r.addr s w n t)).toNat = _
    rw [BitVec.ofNat_toNat, BitVec.setWidth_eq]
  rw [accessTrap, haddr]
  rfl

/-- A thread that fails a check is active. -/
theorem coded_active {n c : Nat} {t : Thread} {rest : List (Nat × Thread × Nat)} (hcoded : r.coded s w = (n, t, c) :: rest) :
    w.actives s.cur.tids ≠ [] := by
  intro hoff
  simp [MemForm.coded, activeThreads_nil.mpr hoff] at hcoded

end Word

/-- Settles O17: the branches of `memBody`, and what `toSiding` makes of the wave. -/
theorem memoryWordsIssueTheirAccessOrTrap : Obligations.MemoryWordsIssueTheirAccessOrTrap := by
  refine ⟨fun i s w r at_ hr h hpass => ?_, fun i s w r hr h hgoes => ⟨fun huser => ?_, fun hpriv hfault => ?_⟩,
    fun i s w r va pa rest hr h hcoded hviol => word_violates hr h hcoded hviol, fun i s w r n c t rest hr h hcoded => ?_,
    fun s k kind own faults tids w hw => ?_⟩
  · obtain ⟨f, hexec, hlast, hspecs, hwimm, huser⟩ := laneWord hr
    rw [← hspecs, ← hwimm, ← huser] at h
    obtain ⟨w', hnext, heffect⟩ := runMem_effect h hlast.symm rfl (fun _ _ => rfl) (fun _ _ _ => rfl) hpass
    exact ⟨w', heffect, (hexec s).trans hnext⟩
  · exact ⟨_, partWave_effect hgoes, word_goes hr h hgoes huser⟩
  · exact word_fault hr h hgoes hpriv hfault
  · have hnext := word_coded hr h hcoded
    refine ⟨fun huser => ?_, fun hpriv => ?_⟩
    · rw [Leaves, hnext, meetCause_user _ h.1 huser (any_live_of_active (coded_active hcoded))]
    · rw [hnext, meetCause_handler _ h.1 hpriv]
  · obtain ⟨pages, hnext, hpages⟩ := toSiding_next (kind := kind) (own := own) (faults := faults) (tids := tids) hw
    exact ⟨_, pages, hnext, by simp, rfl, hpages, fun n t ht => sided_threads rfl n t ht, rfl⟩


end Sys2Proof.Proofs.Siding
end

section
/-! PROOFS. A scalar load whose page is not mapped, with a word at hand that is not its own (05 R172; 06 R209; 08 R301). -/

set_option Elab.async false -- one proof at a time: the check bounds memory

namespace Sys2Proof.Proofs.ScalarFault

open Sys2Proof Sys2Proof.Machine Sys2Proof.Terms

/-- A wave of eight threads at user level. -/
def lone : Wave := startWave 0 0 1 0 0 0 8 0 2 0 0#32 false false false (fun _ => 0#64) 0x1000000#64

/-- A device with one wave, whose context maps nothing, and a word at hand whose class is that of the engine words. -/
def alien : State :=
  { State.reset with
    waves := [(0, lone)], cur := ⟨0, 0x1000000#64, 0x1000000#64, [0, 1, 2, 3, 4, 5, 6, 7], 2 ^ 31 - 1, none, none⟩ }

/-- `sld.n64` at address 0. -/
def load : Instr := .sldN64 false 0 0 true 0

def loadForm : ScalMem := ⟨false, true, false, true, 8, 0, 0, 0⟩

theorem load_runs : Runs alien lone [] true false :=
  ⟨rfl, fun _ => rfl, fun _ => rfl, .inr (by simp)⟩

theorem load_unmapped : loadForm.check alien lone = .trans 1 := rfl

/-- The first thread of the wave stands in a section that began with the word at hand. -/
def ownSection (o : Out) : Option Bool :=
  match o with
  | .next s => ((mget s.waves 0).bind (·.thread 0)).map (·.opened)
  | _ => none

theorem load_sections : ownSection (exec load alien) = some true := rfl

theorem stated_keeps : ownSection (.next (settled (toSiding alien 0 (needKinds .read + kScalar) false
    [(lget 0 alien.cur.tids 0, loadForm.addr alien lone, 1)] alien.cur.tids) 0)) = some false := rfl

/-- Refutes O18: the third clause leaves the word at hand free. Where its class is that of a word that forms a section of its own, the
siding that `scalarMem` forms opens one, and the stated one does not. -/
theorem not_scalarAccessesAndQueries : ¬Obligations.ScalarAccessesAndQueries := by
  rintro ⟨-, -, hfails⟩
  obtain ⟨-, htrans, -⟩ := hfails load alien lone .read (loadForm.addr alien lone) (loadForm.check alien lone)
    (.inl ⟨loadForm, rfl, load_runs, rfl, rfl, rfl⟩) (by decide)
  obtain ⟨hnext, -⟩ := htrans 1 load_unmapped
  have hsame := congrArg ownSection (hnext rfl)
  rw [load_sections] at hsame
  exact absurd (hsame.trans stated_keeps) (by decide)

end Sys2Proof.Proofs.ScalarFault
end

section
/-! PROOFS. What a wave takes up by itself: nothing where its threads are Ready or Exited; switch markers (02 R83, R93). -/

set_option Elab.async false -- one proof at a time: the check bounds memory

namespace Sys2Proof.Proofs.Quiet

open Sys2Proof Sys2Proof.Machine Sys2Proof.Terms Sys2Proof.Laws Sys2Proof.Proofs.Packed

/-- No thread waits for anything. -/
def Resting (w : Wave) : Prop := ∀ t ∈ w.threads, t.st = .ready ∨ t.st = .exited

section Steps

variable {s : State} {k : Nat} {w : Wave}

theorem modW_setW (f : Wave → Wave) : modW (setW s k w) k f = setW s k (f w) := by
  have hget : mget (mset s.waves k w) k = some w := mget_mset_same ..
  simp only [modW, setW, mmod, hget, mset_mset]

theorem mapThreads_self {f : Thread → Thread} (h : ∀ t ∈ w.threads, f t = t) : w.mapThreads f = w := by
  have hmap : w.threads.map f = w.threads := (List.map_congr_left h).trans (List.map_id _)
  rw [Wave.mapThreads, hmap]

theorem resting_awaits (h : Resting w) : releaseAwaits (setW s k w) k = setW s k w := by
  unfold releaseAwaits
  rw [modW_setW, mapThreads_self]
  intro t ht
  have hover : awaitOver w t = false := by
    obtain hst | hst := h t ht <;> simp [awaitOver, hst]
  rw [hover, if_neg (by decide)]

theorem resting_waits (h : Resting w) : releaseWaits (setW s k w) k = setW s k w := by
  unfold releaseWaits
  rw [modW_setW]
  by_cases hp : w.priv.isSome = true
  · rw [if_pos hp]
  · rw [if_neg hp, mapThreads_self]
    intro t ht
    have hover : waitOver (setW s k w) w t = false := by
      obtain hst | hst := h t ht <;> simp [waitOver, hst]
    rw [hover, if_neg (by decide)]

theorem resting_bars (h : Resting w) (hphase : NoPhaseOver s w.unit) : releaseBars (setW s k w) k = setW s k w := by
  unfold releaseBars
  rw [mget_setW_same]
  cases hu : mget s.units w.unit with
  | none => simp [hu]
  | some u =>
    simp only [Option.bind_some, setW_units, hu, Option.map_some]
    have hmap : (setW s k w).waves.map (fun e =>
        if e.2.unit == w.unit && e.2.priv.isNone then
          (e.1, e.2.mapThreads fun t => if t.barDone (setW s k w).cycle u then t.awake (setW s k w).cycle else t)
        else e) = (setW s k w).waves := by
      refine (List.map_congr_left fun e he => ?_).trans (List.map_id _)
      split
      case isTrue hunit =>
        simp only [Bool.and_eq_true, beq_iff_eq, Option.isNone_iff_eq_none] at hunit
        obtain ⟨hunit, hpriv⟩ := hunit
        rw [mapThreads_self]
        · rfl
        · intro t ht
          have hdone : t.barDone s.cycle u = false := by
            obtain rfl | he := mem_mset he
            · obtain hst | hst := h t ht <;> simp [Thread.barDone, hst]
            · exact hphase u hu e he hunit hpriv t ht
          rw [setW_cycle, hdone, if_neg (by decide)]
      case isFalse => rfl
    rw [hmap]
    rfl

/-- Threads that rest are not at a reconvergence barrier. -/
theorem resting_atRcb (h : Resting w) {l : List (Nat × Thread)} (hl : ∀ p ∈ l, p.2 ∈ w.threads) : allAtRcb l = false := by
  unfold allAtRcb
  cases l with
  | nil => rfl
  | cons p l =>
    obtain hst | hst := h p.2 (hl p List.mem_cons_self) <;> simp [hst]

theorem numbered_mem {p : Nat × Thread} (hp : p ∈ w.numbered) : p.2 ∈ w.threads := by
  obtain ⟨i, hi⟩ := List.mem_iff_getElem?.mp hp
  rw [Wave.numbered, enumFrom_getElem?, Option.map_eq_some_iff] at hi
  obtain ⟨t, ht, rfl⟩ := hi
  exact List.mem_of_getElem? ht

theorem groups_mem {g : List (Nat × Thread)} (hg : g ∈ w.groups) {p : Nat × Thread} (hp : p ∈ g) : p.2 ∈ w.threads := by
  unfold Wave.groups at hg
  simp only at hg
  split at hg
  · rw [List.mem_singleton.mp hg] at hp
    exact numbered_mem (List.mem_filter.mp hp).1
  · obtain ⟨v, -, rfl⟩ := List.mem_map.mp hg
    exact numbered_mem (List.mem_filter.mp (List.mem_filter.mp hp).1).1

theorem resting_rcb (h : Resting w) : releaseRcb (setW s k w) k = setW s k w := by
  have hnone : w.joined = [] := by
    refine List.filter_eq_nil_iff.mpr fun g hg => ?_
    simp [resting_atRcb h fun p hp => groups_mem hg hp]
  unfold releaseRcb
  rw [modW_setW]
  simp [hnone]

theorem resting_mismatch (h : Resting w) : raiseMismatch (setW s k w) k = setW s k w := by
  have hnone : w.mismatch = none := by
    refine List.find?_eq_none.mpr fun g hg => ?_
    simp [resting_atRcb h fun p hp => groups_mem hg hp]
  simp only [raiseMismatch, mget_setW_same, hnone]

theorem resting_join (h : Resting w) : passJoin (setW s k w) k = setW s k w := by
  have hat : allAtRcb (w.numbered.filter (·.2.live)) = false :=
    resting_atRcb h fun p hp => numbered_mem (List.mem_filter.mp hp).1
  simp [passJoin, hat]

theorem user_leaves (hu : w.priv = none) : leaveHandler (setW s k w) k = setW s k w := by
  simp only [leaveHandler, mget_setW_same, hu]

theorem no_cause (hcauses : w.causes = []) : takeTrap (setW s k w) k = setW s k w := by
  have hfirst (l : List Nat) : firstCause [] l = none := by
    induction l with
    | nil => rfl
    | cons c l ih => simpa [firstCause] using ih
  simp [takeTrap, hcauses, hfirst]

theorem free_order (hdet : w.det = false) : afterDet (setW s k w) k = setW s k w := by
  simp [afterDet, hdet]

/-- Once its markers are done, a wave whose threads rest stays as it is. -/
theorem conclude_resting {v : Wave} (hmark : finishMarkers (setW s k w) k = setW s k v) (h : Resting v) (hu : v.priv = none)
    (hcauses : v.causes = []) (hdet : v.det = false) (hphase : NoPhaseOver s v.unit) : conclude (setW s k w) k = setW s k v := by
  simp only [conclude, advanceStart, hmark, resting_awaits h, resting_bars h hphase, resting_waits h, resting_rcb h, resting_join h,
    resting_mismatch h, user_leaves hu, no_cause hcauses, free_order hdet]

end Steps

section Markers

variable {s : State} {k : Nat} {w : Wave}

theorem parked_self {b : Bool} (h : w.parked = b) : { w with parked := b } = w := by
  subst h
  rfl

theorem finishMarkers_unmarked (h : ∀ t ∈ w.threads, t.marking = false) :
    finishMarkers (setW s k w) k = setW s k { w with parked := w.parked && w.owes } := by
  have hnone : w.threads.any (fun t => t.marking && t.live && t.st != .inSiding) = false :=
    List.any_eq_false.mpr fun t ht => by simp [h t ht]
  simp only [finishMarkers, mget_setW_same, hnone, Bool.not_false, if_true]
  cases hp : w.parked
  · rw [Bool.false_and, if_neg (by decide), Bool.false_and, parked_self hp]
  · cases w.owes
    · simp only [Bool.not_false, Bool.and_self, if_true, Bool.and_false, setW_setW]
    · simp only [Bool.not_true, Bool.and_false, Bool.false_eq_true, if_false, Bool.and_self, parked_self hp]

theorem settled_quiet (h : Resting w) (hmark : ∀ t ∈ w.threads, t.marking = false) (hu : w.priv = none) (hcauses : w.causes = [])
    (hdet : w.det = false) (hphase : NoPhaseOver s w.unit) :
    settled (setW s k w) k = nextFree (setW s k { w with parked := w.parked && w.owes }) := by
  rw [settled, conclude_resting (finishMarkers_unmarked hmark) h hu hcauses hdet hphase]

/-- Threads of a wave that stand at a marker. -/
def atMarker (t : Thread) : Bool := t.marking && t.live && t.st != .inSiding

/-- What the markers of a wave leave. -/
def unmarked (s : State) (w : Wave) : Wave :=
  { w with
    parked := false, threads := w.threads.mapIdx (fun n t => if atMarker t then passMarker s.cycle w n t else t),
    apw := w.apw.filter (fun a => !((w.threads.filter atMarker).map (·.lidx)).contains a.lidx),
    causes := w.causes ++ w.cmdErrs, cmdErrs := [] }

theorem finishMarkers_marked (h : w.threads.any atMarker = true) :
    finishMarkers (setW s k w) k = setW s k (if w.owes then { w with parked := true } else unmarked s w) := by
  have hany : w.threads.any (fun t => t.marking && t.live && t.st != .inSiding) = true := h
  simp only [finishMarkers, mget_setW_same, hany, Bool.not_true, Bool.false_eq_true, if_false]
  cases w.owes
  · simp only [Bool.false_eq_true, if_false, setW_setW]
    rfl
  · simp only [if_true, setW_setW]

theorem resting_marker (h : Resting w) {t : Thread} (ht : t ∈ w.threads) : atMarker t = (t.marking && t.live) := by
  obtain hst | hst := h t ht <;> simp [atMarker, hst]

/-- A thread that holds nothing passes its marker. -/
theorem passMarker_free {t : Thread} {n : Nat} (h : t.hold = .none) : passMarker s.cycle w n t =
    { applyAp w t with
      marking := false, owed := [], clobbered := [], wake := max t.wake (s.cycle + 1),
      sec := if t.opened then { t.sec with regs := (applyAp w t).regs } else t.sec } := by
  simp only [passMarker, applyAp, h]

end Markers

/-- Settles O32: a wave that waits for nothing stays, and one at a switch marker parks or passes it. -/
theorem settledWavesAndSwitchMarkers : Obligations.SettledWavesAndSwitchMarkers := by
  refine ⟨fun s k w h hu hcauses hdet hphase => ?_, fun s k w h hu hcauses herrs hdet hphase hmark => ?_⟩
  · exact settled_quiet (fun t ht => (h t ht).1) (fun t ht => (h t ht).2) hu hcauses hdet hphase
  have hrest : Resting w := fun t ht => (h t ht).1
  have hany : w.threads.any atMarker = true := by
    obtain ⟨t, ht, hm, hl⟩ := hmark
    exact List.any_eq_true.mpr ⟨t, ht, by rw [resting_marker hrest ht, hm, hl]; rfl⟩
  have hfinish := finishMarkers_marked (s := s) (k := k) hany
  refine ⟨fun howes => ?_, fun howes => ?_⟩
  · rw [howes, if_pos rfl] at hfinish
    rw [settled, conclude_resting hfinish hrest hu hcauses hdet hphase]
  · rw [howes, if_neg (by decide)] at hfinish
    have hpass (n : Nat) (t : Thread) (ht : w.thread n = some t) : (unmarked s w).thread n = some
        (if t.marking = true ∧ t.live = true then
          { applyAp w t with
            marking := false, owed := [], clobbered := [], wake := max t.wake (s.cycle + 1),
            sec := if t.opened then { t.sec with regs := (applyAp w t).regs } else t.sec }
        else t) := by
      have hmem : t ∈ w.threads := List.mem_of_getElem? ht
      have hthread : w.threads[n]? = some t := ht
      simp only [unmarked, Wave.thread, List.getElem?_mapIdx, hthread, Option.map_some, resting_marker hrest hmem,
        passMarker_free (h t hmem).2, Bool.and_eq_true]
    have hstill : Resting (unmarked s w) := by
      intro t' ht'
      obtain ⟨n, hn⟩ := List.mem_iff_getElem?.mp ht'
      have hlen : n < w.threads.length := by
        have := (List.getElem?_eq_some_iff.mp hn).1
        simpa [unmarked] using this
      have hthread : w.thread n = some w.threads[n] := List.getElem?_eq_getElem hlen
      have hsame := (hpass n _ hthread).symm.trans hn
      rw [Option.some.injEq] at hsame
      rw [← hsame]
      have hst := hrest _ (List.getElem_mem hlen)
      split
      · exact hst
      · exact hst
    have hnone : (unmarked s w).causes = [] := by simp [unmarked, hcauses, herrs]
    refine ⟨unmarked s w, ?_, by simp [unmarked], hpass, ?_⟩
    · rw [settled, conclude_resting hfinish hstill hu hnone hdet hphase]
    · have hdone (a : ApWrite) : (!((w.threads.filter atMarker).map (·.lidx)).contains a.lidx) =
          !(w.threads.any fun t => t.marking && t.live && t.lidx == a.lidx) := by
        congr 1
        rw [Bool.eq_iff_iff, List.contains_iff_mem, List.any_eq_true, List.mem_map]
        refine exists_congr fun t => ?_
        rw [List.mem_filter, and_assoc]
        refine and_congr_right fun ht => ?_
        rw [resting_marker hrest ht, Bool.and_eq_true (t.marking && t.live), beq_iff_eq]
      simp only [unmarked, hdone, hcauses, herrs, List.append_nil]

end Sys2Proof.Proofs.Quiet
end

section
/-! PROOFS. The record write of a sampler stop, behind a store of the wave to the same bytes (04 R154; 06 R247). -/

set_option Elab.async false -- one proof at a time: the check bounds memory

namespace Sys2Proof.Proofs.SamplerStop

open Sys2Proof Sys2Proof.Machine Sys2Proof.Terms Sys2Proof.Laws Sys2Proof.Proofs.Quiet

/-- A store to the word of the record that the stop will write, not performed yet. -/
def pendingStore : Access :=
  { id := 7, op := .store 8, lanes := [⟨0, 0x400008, .single 0x400008, [1]⟩], dest := none, addr := 0x1000000#64, word := 0,
    after := [], performed := false, user := true, folds := [], slot := none }

def sampler : Sampler :=
  { cid := 1, unit := 0, wlog := 0, recAddr := 0x400000#64, buf := 0x500000#64, cap := 4, period := 100, allWaves := false,
    start := 0, k := 0, nwr := 0, ndrop := 0, pending := [] }

/-- A wave of eight threads at user level, with the store outstanding. -/
def stopping : Wave :=
  { startWave 0 0 1 0 0 0 8 0 2 0 0#32 false false false (fun _ => 0#64) 0x1000000#64 with
    accs := [pendingStore], stq := [(7, false)] }

/-- The loaded device, its core sampled. -/
def device : State :=
  { loaded State.reset with
    cores := [(0, { Core.init with owner := some 0, sampler := some sampler })], waves := [(0, stopping)],
    cur := ⟨0, 0x1000000#64, 0x1000000#64, [0, 1, 2, 3, 4, 5, 6, 7], 0, none, none⟩ }

/-- `smpl 1`. -/
def stop : Instr := .smplStop false 0

/-- What each access of the wave waits for. -/
def orders (o : Out) : Option (List (List Nat)) :=
  match o with
  | .next s => (mget s.waves 0).map fun w => w.accs.map (·.after)
  | _ => none

theorem stop_orders : orders (exec stop device) = some [[], [7]] := rfl

theorem stop_runs : Runs device stopping [] false true := 
  ⟨rfl, by decide, by decide, Or.inr (by simp)⟩

/-- The device with its core no longer sampled. -/
def stopped : State :=
  let t := flushSamples device 0
  { t with cores := mset t.cores 0 { getC t 0 with sampler := none } }

/-- A wave after a stop as it is stated: the record write waits for nothing. -/
theorem stated_orders {s : State} {v : Wave} {a : Access} (hwaves : s.waves = device.waves)
    (h : WaveAccEffect device stopping v false a 0 1) (ha : a.after = []) :
    orders (.next (settled (setW s 0 v) 0)) = some [[], []] := by
  obtain ⟨⟨hlen, hthreads⟩, hv⟩ := h
  have hstart : ∀ t ∈ stopping.threads, t.st = .ready ∧ t.hold = .none ∧ t.runCount = 0 := by decide
  have hafter (t' : Thread) (ht' : t' ∈ v.threads) : t'.st = .ready ∧ t'.marking = false := by
    obtain ⟨n, hn⟩ := List.mem_iff_getElem?.mp ht'
    have hlt : n < 8 := by
      have := (List.getElem?_eq_some_iff.mp hn).1
      rw [hlen] at this
      exact this
    obtain ⟨t, ht⟩ : ∃ t, stopping.thread n = some t := ⟨_, List.getElem?_eq_getElem hlt⟩
    obtain ⟨u, hu, heffect⟩ := hthreads n t ht
    have hpacked : n ∈ device.cur.tids := by
      show n ∈ [0, 1, 2, 3, 4, 5, 6, 7]
      simp only [List.mem_cons, List.not_mem_nil, or_false]
      omega
    rw [if_pos hpacked] at heffect
    obtain ⟨⟨hretired, -⟩, ⟨-, hst, -⟩, -⟩ := heffect
    obtain ⟨hready, -, hcount⟩ := hstart t (List.mem_of_getElem? ht)
    rw [show v.thread n = some t' from hn, Option.some.injEq] at hu
    subst hu
    obtain ⟨-, -, -, -, -, hmarking, -⟩ := hretired
    exact ⟨hst.trans hready, hmarking.trans (by rw [hcount]; rfl)⟩
  have hphase : NoPhaseOver s v.unit := by
    intro u hu e he _ _ t ht
    rw [hwaves] at he
    rw [List.mem_singleton.mp he] at ht
    simp [Thread.barDone, (hstart t ht).1]
  rw [settled_quiet (fun t ht => .inl (hafter t ht).1) (fun t ht => (hafter t ht).2) (by rw [hv]; rfl) (by rw [hv]; rfl)
    (by rw [hv]; rfl) hphase]
  simp only [orders, nextFree_waves, setW_waves, mget_mset_same, Option.map_some]
  rw [hv]
  simp [stopping, pendingStore, ha]

/-- Refutes O19: the record write of a stop is ordered after the store to its bytes, and the stated one after nothing. -/
theorem not_samplerWordsAndVpin : ¬Obligations.SamplerWordsAndVpin := by
  rintro ⟨⟨-, hstop⟩, -⟩
  obtain ⟨-, hstop⟩ := hstop false true 0 stop device stopping rfl stop_runs (by decide)
  obtain ⟨v, heffect, hnext⟩ := hstop sampler sampler (flushSamples device 0) rfl rfl rfl rfl
  have hsame := congrArg orders hnext
  rw [stop_orders, if_pos rfl] at hsame
  have hstated := stated_orders (s := numbered stopped 1) rfl heffect rfl
  exact absurd (hsame.trans hstated) (by decide)

end Sys2Proof.Proofs.SamplerStop
end

section
/-! SUPPORT. The bodies of matrix and engine words (09 R315-R317, R337). -/

set_option Elab.async false -- one proof at a time: the check bounds memory

namespace Sys2Proof.Proofs.Commands

open Sys2Proof Sys2Proof.Machine Sys2Proof.Terms Sys2Proof.Laws Sys2Proof.Proofs Sys2Proof.Proofs.Codec

variable {i : Instr} {s : State} {w : Wave} {r : MatForm}

/-- Bits of a word apart from its fields name the instruction. -/
theorem num_base {base lo n : Nat} {m : Bool} {fs : List Field} {ps : List (Nat × Nat)} (hps : fs.map Field.range = ps)
    (hfree : free base ((31, 1) :: ps) = true) (hout : outside lo n ((31, 1) :: ps) = true) :
    num (pk base (mk m :: fs.map Field.place)) lo n = num base lo n := by
  subst hps
  rw [marked_eq]
  exact (reads_pk (fs := flag m 31 :: fs) hfree).rest hout

/-- The queue of a matrix instruction, by its minor opcode (09 R317). -/
def queueOf (minor : Nat) : Nat := if minor == 6 then 2 else if decide (3 ≤ minor) then 1 else 0

/-- The body of a matrix instruction, and the queue that its word asks for. -/
theorem matWord (hr : matForm i = some r) :
    exec i s = runWord (engineForm r.marked) (matrixBody (engineForm r.marked) r.x r.y r.z r.counted) s ∧
      (wordIs s i → queueOf (wFc s.cur.word) = r.queue) := by
  have hminor {base : Nat} {m : Bool} {fs : List Field} {ps : List (Nat × Nat)} (hps : fs.map Field.range = ps)
      (hfree : free base ((31, 1) :: ps) = true) (hout : outside 21 4 ((31, 1) :: ps) = true)
      (hi : some (pk base (mk m :: fs.map Field.place)) = some s.cur.word) : wFc s.cur.word = num base 21 4 := by
    rw [← Option.some.inj hi]
    exact num_base hps hfree hout
  cases i
  case mload m x y | tturn m x y =>
    cases hr
    exact ⟨rfl, fun hi => congrArg queueOf (hminor (fs := [⟨6, x, 15⟩, ⟨6, y, 9⟩]) (ps := [(15, 6), (9, 6)]) rfl rfl rfl hi)⟩
  case mma m x y z narrow clear | mmaSc m x y z narrow clear | mmaPn m x y z narrow clear =>
    cases hr
    refine ⟨rfl, fun hi => ?_⟩
    have hi : some (pk _ [mk m, sv x 15, sv y 9, sv z 3, sb narrow 1, sb clear 0]) = some s.cur.word := hi
    rw [sb_eq, sb_eq] at hi
    exact congrArg queueOf (hminor
      (fs := [⟨6, x, 15⟩, ⟨6, y, 9⟩, ⟨6, z, 3⟩, ⟨1, BitVec.ofBool narrow, 1⟩, ⟨1, BitVec.ofBool clear, 0⟩])
      (ps := [(15, 6), (9, 6), (3, 6), (1, 1), (0, 1)]) rfl rfl rfl hi)
  case mstore m x sat =>
    cases hr
    refine ⟨rfl, fun hi => ?_⟩
    have hi : some (pk _ [mk m, sv x 15, sb sat 0]) = some s.cur.word := hi
    rw [sb_eq] at hi
    exact congrArg queueOf (hminor (fs := [⟨6, x, 15⟩, ⟨1, BitVec.ofBool sat, 0⟩]) (ps := [(15, 6), (0, 1)]) rfl rfl rfl hi)
  all_goals exact none_ne_some hr

/-- The body of an engine word; only an `ecopy` with a third operand other than 0 reads a follow-on. -/
theorem engWord {r : EngForm} (hr : engForm i = some r) :
    ∃ more, exec i s = runWord (engineForm r.marked) (engineBody (engineForm r.marked) r.eng r.x r.y r.z more) s ∧
      (((∃ m x y z e, i = .ecopy m x y z e) → engOp s w 3 r.z = 0#64) → ∀ q x y k e,
        more q x y (engOp s w 3 r.z) s k w e = appendCmd (engineForm r.marked) r.eng q x y (engOp s w 3 r.z) none s k w e) := by
  cases i
  case ecopy m x y z e =>
    cases hr
    refine ⟨copyIssue (engineForm m) e.toNat, rfl, fun hz _ _ _ _ _ => if_pos ?_⟩
    rw [hz ⟨_, _, _, _, _, rfl⟩]
    rfl
  case egath | escat | ecoll | optstep | dsweep =>
    cases hr
    exact ⟨_, rfl, fun _ _ _ _ _ _ => rfl⟩
  all_goals exact none_ne_some hr

end Sys2Proof.Proofs.Commands
end

section
/-! PROOFS. MM and EN words close the section of their packed threads; `publish`, `eseq`, `ewait`, and words that no thread is active at
(02 R86, R87; 06 R202; 09 R316, R344-R346). -/

set_option Elab.async false -- one proof at a time: the check bounds memory

namespace Sys2Proof.Proofs.Sections

open Sys2Proof Sys2Proof.Machine Sys2Proof.Terms Sys2Proof.Laws Sys2Proof.Proofs.Packed Sys2Proof.Proofs.Accesses
  Sys2Proof.Proofs.Commands

section Close

variable {s : State} {w v : Wave} {f : Form} {keys : List Nat} {F : Nat → Thread → Thread}

/-- A thread that is owed `keys` more, and whose digest may take something up. -/
def Owed (keys : List Nat) (t u : Thread) : Prop := u = { t with owed := keys ++ t.owed, digest := u.digest, folds := u.folds }

theorem owed_self (t : Thread) : Owed [] t t := rfl

/-- What a thread is after an MM or EN word that found it as `u`. -/
def closeStep (s : State) (w : Wave) (f : Form) (born n : Nat) (u : Thread) : Thread :=
  (u.retire s.cycle (actBank s w.core w.cid) f.last (s.cur.addr + 4)).openSection born w.xblk (w.em.getLsbD n) (w.cm.getLsbD n)
    (s.cur.addr + 4)

theorem closeStep_section {t u : Thread} (h : Owed keys t u) (born n : Nat) :
    SectionThread s w f.last keys born n t (closeStep s w f born n u) := by
  have hretired := retire_retired s.cycle (actBank s w.core w.cid) f.last (s.cur.addr + 4) u
  rw [h] at hretired ⊢
  exact ⟨⟨hretired, rfl, rfl, rfl, rfl⟩, rfl, rfl, rfl, rfl, rfl, rfl⟩

/-- Before the word closes its section the wave has its threads changed as `F` says, and the same core, context, blocks and masks. -/
structure Entered (s : State) (w v : Wave) (F : Nat → Thread → Thread) : Prop where
  threads : v.threads = Machine.onTids s.cur.tids F 0 w.threads
  keep : v.core = w.core ∧ v.cid = w.cid ∧ v.xblk = w.xblk ∧ v.em = w.em ∧ v.cm = w.cm

theorem passEngine_threads (h : Entered s w v F) (born : Nat) :
    (passEngine s v s.cur f born).threads = Machine.onTids s.cur.tids (fun n t => closeStep s w f born n (F n t)) 0 w.threads := by
  obtain ⟨hcore, hcid, hxblk, hem, hcm⟩ := h.keep
  have hopen : (passEngine s v s.cur f born).threads = Machine.onTids s.cur.tids
      (fun n t => t.openSection born v.xblk (v.em.getLsbD n) (v.cm.getLsbD n) t.pc) 0
      (Machine.onTids s.cur.tids (fun _ t => t.retire s.cycle (actBank s v.core v.cid) f.last (s.cur.addr + 4)) 0 v.threads) := rfl
  rw [hopen, onTids_onTids, h.threads, onTids_onTids, hcore, hcid, hxblk, hem, hcm]
  rfl

/-- Its packed threads pass the word, and a new section begins for them. -/
theorem passEngine_section (h : Entered s w v F) (hF : ∀ n t, Owed keys t (F n t)) (born : Nat) :
    Threads s w (passEngine s v s.cur f born) (SectionThread s w f.last keys born) ∧
      passEngine s v s.cur f born =
        { v with threads := (passEngine s v s.cur f born).threads, runx := v.runx || spills s w f.last } := by
  refine ⟨threads_of_onTids (passEngine_threads h born) fun n t _ _ => closeStep_section (hF n t) born n, ?_⟩
  have hspill := spill_of_onTids f.last h.threads fun n t => by rw [hF n t]
  rw [← hspill]
  rfl

/-- The same, where no digest takes anything up. -/
theorem passEngine_closed (h : Entered s w v F) (hF : ∀ n t, F n t = { t with owed := keys ++ t.owed }) (born : Nat) :
    ClosedEffect s w (passEngine s v s.cur f born) f.last keys born := by
  refine threads_of_onTids (passEngine_threads h born) fun n t _ _ => ⟨closeStep_section ?_ born n, ?_⟩
  · rw [hF]; rfl
  · rw [hF]; exact ⟨rfl, rfl⟩

/-- The wave as it stands, but for what is no thread's. -/
theorem entered_same (hthreads : v.threads = w.threads)
    (hkeep : v.core = w.core ∧ v.cid = w.cid ∧ v.xblk = w.xblk ∧ v.em = w.em ∧ v.cm = w.cm) : Entered s w v fun _ t => t :=
  ⟨by rw [hthreads, onTids_same], hkeep⟩

/-- A section that only closes. -/
theorem passEngine_idle (s : State) (w : Wave) (f : Form) :
    ClosedEffect s w (passEngine s w s.cur f s.nextId) f.last [] s.nextId ∧
      passEngine s w s.cur f s.nextId =
        { w with threads := (passEngine s w s.cur f s.nextId).threads, runx := w.runx || spills s w f.last } := by
  have h : Entered s w w fun _ t => t := entered_same rfl ⟨rfl, rfl, rfl, rfl, rfl⟩
  exact ⟨passEngine_closed h (fun _ _ => rfl) _, (passEngine_section (keys := []) h (fun _ t => owed_self t) _).2⟩

end Close

section Late

variable {s : State} {w : Wave} {m : Bool} {x : SReg}

/-- The wave owed a scalar register by an access. -/
def lateWave (s : State) (w : Wave) (a : Access) (x : SReg) : Wave := (addAccess w a).oweScal s.cur.tids x.toNat

theorem lateWave_entered (a : Access) (x : SReg) :
    Entered s w (lateWave s w a x) fun _ t => { t with owed := [1024 + x.toNat] ++ t.owed } :=
  ⟨rfl, rfl, rfl, rfl, rfl, rfl⟩

/-- A word that passes a wave so owed. -/
theorem late_closes {v : Wave} (a : Access) (born : Nat) (f : Form) (hthreads : v.threads = (lateWave s w a x).threads)
    (hkeep : v.core = w.core ∧ v.cid = w.cid ∧ v.xblk = w.xblk ∧ v.em = w.em ∧ v.cm = w.cm) :
    ClosedEffect s w (passEngine s v s.cur f born) f.last [1024 + x.toNat] born ∧
      passEngine s v s.cur f born =
        { v with threads := (passEngine s v s.cur f born).threads, runx := v.runx || spills s w f.last } := by
  have h : Entered s w v fun _ t => { t with owed := [1024 + x.toNat] ++ t.owed } :=
    ⟨hthreads.trans (lateWave_entered a x).threads, hkeep⟩
  exact ⟨passEngine_closed h (fun _ _ => rfl) born, (passEngine_section h (fun _ _ => rfl) born).2⟩

theorem publish_owned (h : Runs s w [] false true) (hon : w.actives s.cur.tids ≠ []) (howns : ownsGroup s w.cid = true) :
    ∃ w', ClosedEffect s w w' m [1024 + x.toNat] (s.nextId + 1) ∧
      w' = { w with
        threads := w'.threads, runx := w.runx || spills s w m, enq := w.enq ++ [(s.nextId, false)],
        accs := w.accs ++ [{ scalarLater s w x 0#64 with
          op := .publish, lanes := [⟨lget 0 s.cur.tids 0, 0, .single 0, []⟩], performed := false, user := true }] } ∧
      Leaves (.publish m x) s (numbered s 1) w' := by
  let a : Access := { scalarLater s w x 0#64 with
    op := .publish, lanes := [⟨lget 0 s.cur.tids 0, 0, .single 0, []⟩], performed := false, user := true }
  obtain ⟨hclosed, hwave⟩ := late_closes (s := s) (w := w) (x := x) (v := { lateWave s w a x with enq := w.enq ++ [(s.nextId, false)] }) a
    (s.nextId + 1) (engineForm m) rfl ⟨rfl, rfl, rfl, rfl, rfl⟩
  rw [engineForm_last] at hclosed hwave
  refine ⟨_, hclosed, hwave, ?_⟩
  have hnext : exec (.publish m x) s = _ := runWord_next (f := engineForm m) h
  rw [Leaves, hnext, publishBody, if_neg (by simpa using hon), if_neg (by simp [howns])]
  rfl

theorem publish_refused (h : Runs s w [] false true) (hon : w.actives s.cur.tids ≠ []) (howns : ownsGroup s w.cid = false) :
    ∃ w', ClosedEffect s w w' m [1024 + x.toNat] (s.nextId + 1) ∧
      w' = { w with
        threads := w'.threads, runx := w.runx || spills s w m, accs := w.accs ++ [scalarLater s w x 0#64],
        cmdErrs := w.cmdErrs ++ [noteError s none 7] } ∧
      Leaves (.publish m x) s (numbered s 1) w' := by
  obtain ⟨hclosed, hwave⟩ := late_closes (s := s) (w := w) (x := x)
    (v := { lateWave s w (scalarLater s w x 0#64) x with cmdErrs := w.cmdErrs ++ [noteError s none 7] }) (scalarLater s w x 0#64)
    (s.nextId + 1) (engineForm m) rfl ⟨rfl, rfl, rfl, rfl, rfl⟩
  rw [engineForm_last] at hclosed hwave
  refine ⟨_, hclosed, hwave, ?_⟩
  have hnext : exec (.publish m x) s = _ := runWord_next (f := engineForm m) h
  rw [Leaves, hnext, publishBody, if_neg (by simpa using hon), if_pos (by simp [howns])]
  rfl

/-- What `eseq` answers. -/
def eseqValue (w : Wave) (last : Bool) (eng : Nat) (q : Consist) : W64 :=
  if last then (mget w.lastSeq (conOf (dieOf w.core) eng)).getD 0#64
  else BitVec.ofNat 64 (conTag (conOf (dieOf w.core) eng) * 2 ^ 62 + q.milepost % 2 ^ 62)

theorem eseqWord (last : Bool) (e : BitVec 3) : exec (if last then .eseqLast m x e else .eseqMilepost m x e) s =
    runWord (engineForm m) (eseqBody (engineForm m) x e.toNat last) s := by
  cases last <;> rfl

theorem eseq_effect {last : Bool} {e : BitVec 3} {q : Consist} (h : Runs s w [] false true) (hon : w.actives s.cur.tids ≠ [])
    (hq : consistOf s w.cid (dieOf w.core) e.toNat = some q) :
    ∃ w', ClosedEffect s w w' m [1024 + x.toNat] (s.nextId + 1) ∧
      w' = { w with
        threads := w'.threads, runx := w.runx || spills s w m,
        accs := w.accs ++ [scalarLater s w x (eseqValue w last e.toNat q)] } ∧
      Leaves (if last then .eseqLast m x e else .eseqMilepost m x e) s (numbered s 1) w' := by
  obtain ⟨hclosed, hwave⟩ := late_closes (s := s) (w := w) (x := x) (scalarLater s w x (eseqValue w last e.toNat q))
    (s.nextId + 1) (engineForm m) rfl ⟨rfl, rfl, rfl, rfl, rfl⟩
  rw [engineForm_last] at hclosed hwave
  refine ⟨_, hclosed, hwave, ?_⟩
  rw [Leaves, eseqWord, runWord_next (f := engineForm m) h, eseqBody, if_neg (by simpa using hon)]
  simp only [hq]
  rfl

theorem ewait_effect {e : BitVec 3} {q : Consist} (h : Runs s w [] false true) (hon : w.actives s.cur.tids ≠ []) {v die : Nat}
    (hv : v = (readScal s w s.cur.tids 1 x.toNat).toNat) (hdie : die = if e.toNat < 5 then v / 2 ^ 62 else 0)
    (hq : consistOf s w.cid die e.toNat = some q) :
    ∃ w' w'', ClosedEffect s w w' true [] s.nextId ∧
      w' = { w with threads := w'.threads, runx := w.runx || spills s w true } ∧
      w'' = w'.onTids s.cur.tids (fun _ t => { t with
        st := .waiting, hold := .milepost (conOf die e.toNat) (v % 2 ^ 62), sec := { t.sec with entry := s.cur.first } }) ∧
      Leaves (.ewait m x e) s s (if v % 2 ^ 62 ≤ q.milepost then w' else w'') := by
  subst hv hdie
  obtain ⟨hclosed, hwave⟩ := passEngine_idle s w (engineForm m).ending
  rw [show (engineForm m).ending.last = true by simp] at hclosed hwave
  refine ⟨_, _, hclosed, hwave, rfl, ?_⟩
  have hnext : exec (.ewait m x e) s = _ := runWord_next (f := (engineForm m).ending) h
  rw [Leaves, hnext, ewaitBody, if_neg (by simpa using hon)]
  simp only [hq]
  split
  · rfl
  · rfl

end Late

/-- Settles O22: the bodies of the three words, each of which closes its section. -/
theorem publishEseqEwait : Obligations.PublishEseqEwait :=
  ⟨fun _ _ _ _ h hon => ⟨publish_owned h hon, publish_refused h hon⟩, fun _ _ _ _ _ _ _ h hon hq => eseq_effect h hon hq,
    fun _ _ _ _ _ _ h hon hq => ewait_effect h hon rfl rfl hq⟩

section Idle

variable {i : Instr} {s : State} {w : Wave} {m imm user : Bool}

/-- A word that its wave only passes while no thread is active. -/
theorem body_idle {f : Form} {body : State → Nat → Wave → Exec → State} (hoff : w.actives s.cur.tids = []) (hi : f.wimm = imm)
    (hu : f.user = user) (hm : f.last = m) (h : Runs s w [] imm user)
    (hbody : body s s.cur.wave w s.cur = setW s s.cur.wave (passAll s w s.cur f)) :
    ∃ w', PassEffect s w w' m ∧ runWord f body s = .next (settled (setW s s.cur.wave w') s.cur.wave) := by
  obtain ⟨hw, hwimm, hpriv, -⟩ := h
  subst hi hu hm
  exact ⟨_, passAll_effect s w f, by rw [runWord_next ⟨hw, hwimm, hpriv, .inl hoff⟩, hbody]⟩

/-- The same for a word that closes its section. -/
theorem engine_idle {f : Form} {body : State → Nat → Wave → Exec → State} (hf : f.specs = [] ∧ f.wimm = false ∧ f.user = true)
    (hm : f.last = m) (h : Runs s w [] false true)
    (hbody : body s s.cur.wave w s.cur = setW s s.cur.wave (passEngine s w s.cur f s.nextId)) :
    ∃ w', ClosedEffect s w w' m [] s.nextId ∧ w' = { w with threads := w'.threads, runx := w.runx || spills s w m } ∧
      runWord f body s = .next (settled (setW s s.cur.wave w') s.cur.wave) := by
  obtain ⟨hspecs, hwimm, huser⟩ := hf
  subst hm
  obtain ⟨hclosed, hwave⟩ := passEngine_idle s w f
  refine ⟨_, hclosed, hwave, ?_⟩
  rw [runWord_next (by rw [hspecs, hwimm, huser]; exact h), hbody]

theorem scalMem_idle {r : ScalMem} (hr : scalMem i = some r) (hoff : w.actives s.cur.tids = []) (h : Runs s w [] r.imm false) :
    ∃ w', PassEffect s w w' r.marked ∧ Leaves i s s w' := by
  cases i
  case sldN32 | sldN64 | sstN32 | sstN64 | sldSN32 | sstSN32 =>
    cases hr
    refine body_idle (f := Form.sc _ _) hoff rfl rfl (by simp) h ?_
    rw [scalAccess, if_pos (by simp [hoff])]
  all_goals exact none_ne_some hr

theorem query_idle {r : QueryForm} (hr : queryForm i = some r) (hoff : w.actives s.cur.tids = []) (h : Runs s w [] false false) :
    ∃ w', PassEffect s w w' r.marked ∧ Leaves i s s w' := by
  cases i
  case fqryDevice | fqryNumeric | fqryPlacement =>
    cases hr
    refine body_idle (f := Form.sc0 _) hoff rfl rfl (by simp) h ?_
    rw [fqryBody, if_pos (by simp [hoff])]
  all_goals exact none_ne_some hr

theorem late_idle {r : LateForm} (hr : lateForm i = some r) (hoff : w.actives s.cur.tids = []) (h : Runs s w [] false r.user) :
    ∃ w', PassEffect s w w' r.marked ∧ Leaves i s s w' := by
  cases i
  case voteBallot m d a mask =>
    dsimp only [lateForm] at hr
    split at hr
    case isTrue hd =>
      cases hr
      have hword : exec (.voteBallot m d a mask) s = _ := if_neg (by omega)
      simp only [Leaves, hword]
      refine body_idle (f := Form.v3 m [a]) hoff rfl rfl (by simp) h ?_
      rw [scalResultBody, if_pos (by simp [hoff])]
    case isFalse => cases hr
  case vtos m d a b =>
    cases hr
    refine body_idle (f := Form.v3 m [a]) hoff rfl rfl (by simp) h ?_
    rw [scalResultBody, if_pos (by simp [hoff])]
  case xacqNb m d c =>
    cases hr
    refine body_idle (f := (Form.sc0 m).userOnly) hoff rfl rfl (by simp) h ?_
    rw [if_pos (by simp [hoff])]
  all_goals exact none_ne_some hr

theorem sampler_idle {a : SReg} (hi : i = .smplStart m a ∨ i = .smplStop m a ∨ i = .smplFlush m a)
    (hoff : w.actives s.cur.tids = []) (h : Runs s w [] false true) : ∃ w', PassEffect s w w' m ∧ Leaves i s s w' := by
  have hstop (act : Nat) : ∃ w', PassEffect s w w' m ∧
      runSmpl m act s = .next (settled (setW s s.cur.wave w') s.cur.wave) := by
    refine body_idle (f := (Form.sc0 m).userOnly) hoff rfl rfl (by simp) h ?_
    dsimp only
    split
    · rfl
    · rw [if_pos (by simp [hoff])]
  obtain rfl | rfl | rfl := hi
  · refine body_idle (f := (Form.sc0 m).userOnly) hoff rfl rfl (by simp) h ?_
    rw [if_pos (by simp [hoff])]
  · exact hstop 1
  · exact hstop 2

theorem mat_idle {r : MatForm} (hr : matForm i = some r) (hoff : w.actives s.cur.tids = []) (h : Runs s w [] false true) :
    ∃ w', ClosedEffect s w w' r.marked [] s.nextId ∧
      w' = { w with threads := w'.threads, runx := w.runx || spills s w r.marked } ∧ Leaves i s s w' := by
  simp only [Leaves, (matWord (s := s) hr).1]
  exact engine_idle (f := engineForm _) ⟨rfl, rfl, rfl⟩ (engineForm_last _) h (if_pos (by simp [hoff]))

theorem eng_idle {r : EngForm} (hr : engForm i = some r) (hoff : w.actives s.cur.tids = []) (h : Runs s w [] false true) :
    ∃ w', ClosedEffect s w w' r.marked [] s.nextId ∧
      w' = { w with threads := w'.threads, runx := w.runx || spills s w r.marked } ∧ Leaves i s s w' := by
  obtain ⟨more, hexec, -⟩ := engWord (s := s) (w := w) hr
  simp only [Leaves, hexec]
  exact engine_idle (f := engineForm _) ⟨rfl, rfl, rfl⟩ (engineForm_last _) h (if_pos (by simp [hoff]))

end Idle

/-- Settles O23: each body first asks whether a thread is active. -/
theorem wordsThatNoThreadIsActiveAt : Obligations.WordsThatNoThreadIsActiveAt := by
  refine ⟨fun i s w m imm user hoff h hi => ?_, fun i s w m hoff h hi => ?_⟩
  · obtain ⟨r, hr, rfl, rfl, rfl⟩ | ⟨r, hr, rfl, rfl, rfl⟩ | ⟨a, hi, rfl, rfl⟩ | ⟨r, hr, rfl, rfl, rfl⟩ := hi
    · exact scalMem_idle hr hoff h
    · exact query_idle hr hoff h
    · exact sampler_idle hi hoff h
    · exact late_idle hr hoff h
  · obtain ⟨r, hr, rfl⟩ | ⟨r, hr, rfl⟩ | ⟨x, rfl⟩ | ⟨x, e, rfl | rfl⟩ | ⟨m', x, e, rfl, rfl⟩ | ⟨x, y, z, o, b, rfl⟩ := hi
    · exact mat_idle hr hoff h
    · exact eng_idle hr hoff h
    · refine engine_idle (f := engineForm m) ⟨rfl, rfl, rfl⟩ (engineForm_last m) h ?_
      rw [publishBody, if_pos (by simp [hoff])]
    · refine engine_idle (f := engineForm m) ⟨rfl, rfl, rfl⟩ (engineForm_last m) h ?_
      rw [eseqBody, if_pos (by simp [hoff])]
    · refine engine_idle (f := engineForm m) ⟨rfl, rfl, rfl⟩ (engineForm_last m) h ?_
      rw [eseqBody, if_pos (by simp [hoff])]
    · refine engine_idle (f := (engineForm m').ending) ⟨rfl, rfl, rfl⟩ (by simp) h ?_
      rw [ewaitBody, if_pos (by simp [hoff])]
    · refine engine_idle (f := engineForm m) ⟨rfl, rfl, rfl⟩ (engineForm_last m) h ?_
      rw [tdescBody, if_pos (by simp [hoff])]

end Sys2Proof.Proofs.Sections
end

section
/-! PROOFS. HN words stay pending in the threads that they are packed with (05 R176-R179). -/

set_option Elab.async false -- one proof at a time: the check bounds memory

namespace Sys2Proof.Proofs.Pending

open Sys2Proof Sys2Proof.Machine Sys2Proof.Terms Sys2Proof.Laws

variable {s : State} {w : Wave} {payload stall : Nat}

/-- What an HN word puts into a thread. -/
def noted (isHint : Bool) (payload : Nat) (t : Thread) : Thread :=
  if isHint then { t with hint := some payload } else { t with wimm := some payload }

theorem noted_retireHn (isHint : Bool) (t : Thread) (cycle bank : Nat) (addr : W64) :
    let t' := noted isHint payload (t.retireHn cycle bank stall addr)
    t'.hint = (noted isHint payload t).hint ∧ t'.wimm = (noted isHint payload t).wimm ∧ t'.hnAddr = some (t.hnAddr.getD addr) ∧
      t'.pc = addr + 4 ∧ t'.clock = t.clock + 2 + stall ∧ t'.wake = cycle + 2 + stall ∧
      t'.marking = (t.runCount + 1 == 24) ∧ t'.inRun = !(t.runCount + 1 == 24) ∧
      t'.runCount = (if t.runCount + 1 = 24 then 0 else t.runCount + 1) ∧ SameThread t t' ∧ SameValues t t' := by
  cases isHint <;> simp [noted, Thread.retireHn, Thread.retire, SameThread, SameBody, SameValues]

/-- An HN word of a kind of which none is pending stays pending. -/
theorem hn_pends {isHint : Bool} {note : Thread → Thread} (h : Runs s w [] true false) (hnote : note = noted isHint payload)
    (hfree : (if isHint then s.cur.hint else s.cur.wimm) = none) :
    ∃ w', HnEffect s w w' (if w.ilk then 0 else stall) note ∧
      runHn isHint payload stall s = .next (settled (setW s s.cur.wave w') s.cur.wave) := by
  subst hnote
  let F (_ : Nat) (t : Thread) : Thread :=
    noted isHint payload (t.retireHn s.cycle (actBank s w.core w.cid) (if w.ilk then 0 else stall) s.cur.addr)
  refine ⟨{ w.onTids s.cur.tids F with runx := w.runx || spills s w false },
    ⟨threads_of_onTids rfl fun n t _ _ => noted_retireHn isHint t _ _ _, rfl⟩, ?_⟩
  have hpending : (if isHint then s.cur.hint.isSome else s.cur.wimm.isSome) = false := by
    cases isHint <;> simpa using hfree
  rw [runHn, runWord_next h, hnBody, if_neg (by simp [hpending])]
  rfl

/-- A second one of its kind is an illegal instruction. -/
theorem hn_twice {isHint : Bool} (h : Runs s w [] true false)
    (hpending : (if isHint then s.cur.hint.isSome else s.cur.wimm.isSome) = true) :
    runHn isHint payload stall s =
      .next (settled (illegalAt s s.cur.wave s.cur.addr s.cur.word s.cur.tids) s.cur.wave) := by
  rw [runHn, runWord_next h, hnBody, if_pos hpending]

/-- Settles O24: both words are one body, and the immediate has no stall count. -/
theorem hnWordsStayPending : Obligations.HnWordsStayPending := by
  refine ⟨fun stall wmask seten slot s w h => ⟨fun hfree => ?_, fun hpending => ?_⟩,
    fun p s w h => ⟨fun hfree => ?_, fun hpending => ?_⟩⟩
  · exact hn_pends (isHint := true) h rfl hfree
  · exact hn_twice (isHint := true) h hpending
  · obtain ⟨w', heffect, hleaves⟩ := hn_pends (isHint := false) (stall := 0) h rfl hfree
    exact ⟨w', by rwa [ite_self] at heffect, hleaves⟩
  · exact hn_twice (isHint := false) h hpending

end Sys2Proof.Proofs.Pending
end

section
/-! PROOFS. Matrix and engine words join their queues (09 R315-R324, R335-R339). -/

set_option Elab.async false -- one proof at a time: the check bounds memory

namespace Sys2Proof.Proofs.Engines

open Sys2Proof Sys2Proof.Machine Sys2Proof.Terms Sys2Proof.Laws Sys2Proof.Proofs Sys2Proof.Proofs.Packed Sys2Proof.Proofs.Accesses
  Sys2Proof.Proofs.Sections Sys2Proof.Proofs.Commands

section Queues

variable {i : Instr} {s : State} {w : Wave} {r : MatForm}

/-- A queue takes the command up at its end, numbered. -/
theorem accept_enqueues (s : State) (core : Nat) (c : Cmd) :
    ∃ x, Enqueued (getC s core) x (queueOf c.minor) { c with seq := BitVec.ofNat 64 (getC s core).accepted } ∧
      accept s core c = { s with cores := mset s.cores core x } := by
  refine ⟨_, ?_, rfl⟩
  have hminor : Cmd.minor { c with seq := BitVec.ofNat 64 (getC s core).accepted } = c.minor := rfl
  simp only [Enqueued, queueOf, hminor]
  split
  · simp
  · split <;> simp

theorem mat_queues (hr : matForm i = some r) (hi : wordIs s i) (h : Runs s w [] false true) (hon : w.actives s.cur.tids ≠ [])
    (hown : holdsMatrix s w = true) : ∃ w' x,
      IssueEffect s w w' r.marked [] (s.nextId + 1) r.counted (raised w s.cur.hint) ∧
        Enqueued (getC s w.core) x r.queue (matCmd s w r) ∧
        exec i s =
          .next (settled { setW (numbered s 1) s.cur.wave w' with cores := mset s.cores w.core x } s.cur.wave) := by
  obtain ⟨hexec, hqueue⟩ := matWord (s := s) hr
  let u : Wave := w.raiseSlot (raisedSlot w s.cur.hint)
  let v : Wave := if r.counted then { u with enq := u.enq ++ [(s.nextId, false)] } else u
  have hv : v = { w with slots := raised w s.cur.hint, enq := w.enq ++ if r.counted then [(s.nextId, false)] else [] } := by
    cases hslot : raisedSlot w s.cur.hint <;> cases hcount : r.counted <;> simp [v, u, hslot, hcount, raised, Wave.raiseSlot]
  have hcore : v.core = w.core := by rw [hv]
  have hentered : Entered s w v fun _ t => t := entered_same (by rw [hv]) (by rw [hv]; exact ⟨rfl, rfl, rfl, rfl, rfl⟩)
  obtain ⟨hthreads, hwave⟩ := passEngine_section (f := engineForm r.marked) (keys := []) hentered (fun _ t => owed_self t) (s.nextId + 1)
  rw [engineForm_last] at hthreads hwave
  obtain ⟨x, hx, haccept⟩ := accept_enqueues (setW (numbered s 1) s.cur.wave (passEngine s v s.cur (engineForm r.marked) (s.nextId + 1)))
    v.core { newCmd s w s.cur 0#64 (readScal s w s.cur.tids 1 r.x.toNat)
      (readScal s w s.cur.tids 2 r.y.toNat) (readScal s w s.cur.tids 3 r.z.toNat)
      (if r.counted then some s.nextId else none) with slotSet := raisedSlot w s.cur.hint }
  refine ⟨passEngine s v s.cur (engineForm r.marked) (s.nextId + 1), x, ⟨hthreads, ?_, ?_⟩, ?_, ?_⟩
  · rw [hwave, hv]
  · rw [hwave, hv]
  · rw [hcore] at hx
    rw [← hqueue hi]
    exact hx
  · rw [hexec, runWord_next h, matrixBody, if_neg (by simpa using hon), if_neg (by simp [hown])]
    exact (congrArg (fun s => Host.Outcome.next (settled s _)) haccept).trans (by rw [hcore]; rfl)

/-- Without the unit the matrix trap becomes pending. -/
theorem mat_refused (hr : matForm i = some r) (h : Runs s w [] false true) (hon : w.actives s.cur.tids ≠ [])
    (hown : holdsMatrix s w = false) (huser : w.priv = none) :
    Leaves i s s { w with causes := w.causes ++ [⟨cMatrix, s.cur.addr, 0#64, 0#32, 0, maskOf s.cur.tids⟩] } := by
  rw [Leaves, (matWord (s := s) hr).1, runWord_next h, matrixBody, if_neg (by simpa using hon), if_pos (by simp [hown]), matrixTrap,
    meetCause_user _ h.1 huser (any_live_of_active hon)]

end Queues

section Access

variable {s : State} {w u : Wave}

theorem head_packed (hon : w.actives s.cur.tids ≠ []) : lget 0 s.cur.tids 0 ∈ s.cur.tids := by
  obtain ⟨n, hn⟩ := List.exists_mem_of_ne_nil _ hon
  cases htids : s.cur.tids with
  | nil => exact absurd (actives_thread hn).1 (by simp [htids])
  | cons t ts => exact List.mem_cons_self

/-- An access of packed threads that is put on its way, field by field. -/
theorem launchAccess_eq (s : State) (u : Wave) (loads stores : Nat) (a : Access)
    (hpacked : ∀ n ∈ a.folds ++ a.lanes.map (·.tid), n ∈ s.cur.tids) :
    ∃ g : Nat → List Fold, launchAccess s u loads stores a =
      { u with
        threads := Machine.onTids s.cur.tids (fun n t => { t with folds := t.folds ++ g n }) 0 u.threads,
        accs := u.accs ++ [{ a with after := earlier s u a }],
        ldq := u.ldq ++ List.replicate loads (a.id, false), stq := u.stq ++ List.replicate stores (a.id, false) } := by
  let b : Access := { a with after := earlier s u a }
  obtain ⟨g, hg⟩ := noteFolds_eq s (addAccess u b) b s.cur.tids hpacked
  refine ⟨g, ?_⟩
  have hlaunch : launchAccess s u loads stores a =
      { noteFolds s (addAccess u b) b with
        ldq := (noteFolds s (addAccess u b) b).ldq ++ List.replicate loads (a.id, false),
        stq := (noteFolds s (addAccess u b) b).stq ++ List.replicate stores (a.id, false) } := rfl
  rw [hlaunch, hg]
  rfl

end Access

section Engine

variable {i : Instr} {s : State} {w : Wave} {r : EngForm} {q : Consist}

/-- The digests of the active threads take the command up; the others stay. -/
theorem foldCommand_eq (s : State) (u : Wave) (id : Nat) (x y z : W64) :
    ∃ F : Nat → Thread → Thread, (∀ n t, Owed [] t (F n t)) ∧ (keepsDigest s u = false → F = fun _ t => t) ∧
      foldCommand s u s.cur id x y z = { u with threads := Machine.onTids s.cur.tids F 0 u.threads } := by
  cases hkeeps : keepsDigest s u
  case false =>
    refine ⟨fun _ t => t, fun _ _ => rfl, fun _ => rfl, ?_⟩
    rw [foldCommand, if_pos (by simp [hkeeps]), onTids_same]
  case true =>
    let G (_ : Nat) (t : Thread) : Thread :=
      let r := settleFolds t.digest (t.folds ++ [⟨id, 1, [[x.toNat, y.toNat, z.toNat, s.cur.word % 2 ^ 31]]⟩])
      { t with digest := r.1, folds := r.2 }
    refine ⟨fun n t => if n ∈ u.actives s.cur.tids then G n t else t, fun n t => ?_, fun h => Bool.noConfusion h, ?_⟩
    · by_cases hn : n ∈ u.actives s.cur.tids
      · simp only [hn, if_true]; rfl
      · simp only [hn, if_false]; rfl
    · rw [foldCommand, if_neg (by simp [hkeeps])]
      exact congrArg (fun l => { u with threads := l }) (onTids_within (fun n hn => (actives_thread hn).1) G 0 u.threads)

/-- Slots raised before a command is appended, and the waits that lower them. -/
def readied (s : State) (u : Wave) (con : Nat) (q : Consist) (follow : Option Nat) : Wave :=
  let slot := raisedSlot u s.cur.hint
  let fslot := follow.bind (fun v => raisedSlot u (some (foHint v)))
  let count := q.tail + 1
  { u with
    slots := ((u.raiseSlot slot).raiseSlot fslot).slots, enq := u.enq ++ [(s.nextId, false)],
    slotWaits := u.slotWaits ++ (slot.map fun i => (i, con, count, false)).toList ++
      (fslot.map fun i => (i, con, count, true)).toList,
    lastSeq := mset u.lastSeq con (BitVec.ofNat 64 (conTag con * 2 ^ 62 + count % 2 ^ 62)) }

/-- What appending a command does to the wave, and to the consist. -/
theorem appendCmd_appends (s : State) (u : Wave) (m : Bool) (eng : Nat) (q : Consist) (x y z : W64) (follow : Option Nat) :
    let con := conOf (dieOf u.core) eng
    ∃ w', AppendEffect s u w' m con q follow ∧
      appendCmd (engineForm m) eng q x y z follow s s.cur.wave u s.cur = appended s w' con q
        { newCmd s u s.cur (BitVec.ofNat 64 (conTag con * 2 ^ 62 + (q.tail + 1) % 2 ^ 62)) x y z (some s.nextId) with
          follow := follow } := by
  intro con
  obtain ⟨F, howed, hidle, hfold⟩ := foldCommand_eq s (readied s u con q follow) s.nextId x y z
  obtain ⟨v, hv⟩ : ∃ v, v = foldCommand s (readied s u con q follow) s.cur s.nextId x y z := ⟨_, rfl⟩
  rw [← hv] at hfold
  have hentered : Entered s u v F := by
    rw [hfold]
    exact ⟨rfl, rfl, rfl, rfl, rfl, rfl⟩
  obtain ⟨hthreads, hwave⟩ := passEngine_section (f := engineForm m) (keys := []) hentered howed (s.nextId + 1)
  rw [engineForm_last] at hthreads hwave
  refine ⟨passEngine s v s.cur (engineForm m) (s.nextId + 1), ⟨hthreads, fun hkeeps => ?_, hwave.trans (by rw [hfold]; rfl)⟩, ?_⟩
  · cases hidle hkeeps
    have hclosed := passEngine_closed (f := engineForm m) (keys := []) hentered (fun _ _ => rfl) (s.nextId + 1)
    refine ⟨hclosed.1, fun n t ht => ?_⟩
    obtain ⟨t', ht', heffect⟩ := hclosed.2 n t ht
    refine ⟨t', ht', ?_⟩
    split at heffect
    case isTrue hn => rw [if_pos hn]; exact heffect.2
    case isFalse hn => rw [if_neg hn]; exact heffect
  · have hcid : (passEngine s v s.cur (engineForm m) (s.nextId + 1)).cid = v.cid := by rw [hwave]
    simp only [appended, hcid]
    rw [hv, readied, appendCmd]
    cases hslot : raisedSlot u s.cur.hint <;> cases hfollow : follow.bind fun v => raisedSlot u (some (foHint v))
    all_goals
      simp only [Option.map, Option.toList, List.append_nil]
      rfl

theorem eng_appends (hr : engForm i = some r) (h : Runs s w [] false true) (hon : w.actives s.cur.tids ≠ [])
    (hq : consistOf s w.cid (dieOf w.core) r.eng = some q) (hz : (∃ m x y z e, i = .ecopy m x y z e) → engOp s w 3 r.z = 0#64) :
    let con := conOf (dieOf w.core) r.eng
    ∃ w', AppendEffect s w w' r.marked con q none ∧
      exec i s = .next (settled (appended s w' con q (engCmd s w r con q)) s.cur.wave) := by
  obtain ⟨more, hexec, hmore⟩ := engWord (s := s) (w := w) hr
  obtain ⟨w', heffect, happend⟩ := appendCmd_appends s w r.marked r.eng q (engOp s w 1 r.x) (engOp s w 2 r.y) (engOp s w 3 r.z) none
  refine ⟨w', heffect, ?_⟩
  rw [hexec, runWord_next h, engineBody, if_neg (by simpa using hon)]
  simp only [hq]
  exact congrArg (fun s => Host.Outcome.next (settled s _)) ((hmore hz ..).trans happend)

theorem eng_refused (hr : engForm i = some r) (h : Runs s w [] false true) (hon : w.actives s.cur.tids ≠ [])
    (hq : consistOf s w.cid (dieOf w.core) r.eng = none) :
    ∃ w', ClosedEffect s w w' r.marked [] s.nextId ∧
      w' = { w with
        threads := w'.threads, runx := w.runx || spills s w r.marked,
        cmdErrs := w.cmdErrs ++ [noteError s (some (conOf (dieOf w.core) r.eng)) 1] } ∧
      Leaves i s s w' := by
  obtain ⟨more, hexec, -⟩ := engWord (s := s) (w := w) hr
  let v := issueError w s.cur (some (conOf (dieOf w.core) r.eng)) 1
  have hentered : Entered s w v fun _ t => t := entered_same rfl ⟨rfl, rfl, rfl, rfl, rfl⟩
  have hclosed := passEngine_closed (f := engineForm r.marked) (keys := []) hentered (fun _ _ => rfl) s.nextId
  have hwave := (passEngine_section (f := engineForm r.marked) (keys := []) hentered (fun _ t => owed_self t) s.nextId).2
  rw [engineForm_last] at hclosed hwave
  refine ⟨_, hclosed, hwave, ?_⟩
  rw [Leaves, hexec, runWord_next h, engineBody, if_neg (by simpa using hon)]
  simp only [hq]
  rfl

theorem ecopy_follows {m : Bool} {x y z : SReg} {e : BitVec 2} {pl : Place} {v : Nat} (hr : engForm (.ecopy m x y z e) = some r)
    (h : Runs s w [] false true) (hon : w.actives s.cur.tids ≠ []) (hq : consistOf s w.cid (dieOf w.core) r.eng = some q)
    (hz : engOp s w 3 r.z ≠ 0#64) (hcheck : checkGlobal s w .read .scalar 32 32 (engOp s w 3 r.z).toNat = .ok pl)
    (hgood : badGranule s pl 32 (engOp s w 3 r.z).toNat = none)
    (hrec : recordAt s w (engOp s w 3 r.z).toNat 32 1 pl = some v) :
    let con := conOf (dieOf w.core) r.eng
    ∃ w', AppendEffect s (w.dropRead (engOp s w 3 r.z).toNat 1) w' m con q (some (v % 2 ^ 256)) ∧
      exec (.ecopy m x y z e) s =
        .next (settled (appended s w' con q { engCmd s w r con q with follow := some (v % 2 ^ 256) }) s.cur.wave) := by
  cases hr
  obtain ⟨w', heffect, happend⟩ := appendCmd_appends s (w.dropRead (engOp s w 3 z).toNat 1) m e.toNat q (engOp s w 1 x)
    (engOp s w 2 y) (engOp s w 3 z) (some (v % 2 ^ 256))
  refine ⟨w', heffect, ?_⟩
  have hnext : exec (.ecopy m x y z e) s = _ := runWord_next (f := engineForm m) h
  rw [hnext, engineBody, if_neg (by simpa using hon)]
  simp only [hq]
  refine congrArg (fun s => Host.Outcome.next (settled s _)) (Eq.trans ?_ happend)
  change copyIssue (engineForm m) e.toNat q (engOp s w 1 x) (engOp s w 2 y) (engOp s w 3 z) s s.cur.wave w s.cur = _
  rw [copyIssue, if_neg (by simpa using hz)]
  simp only [scalarMem, hcheck, hgood, hrec]

end Engine

theorem tst_base (base orig : Bool) : tst (bnat base + 2 * bnat orig) 0 = base := by
  cases base <;> cases orig <;> rfl

theorem tdesc_sends {m orig base : Bool} {x y z : SReg} {s : State} {w : Wave} {pl : Place} {v' va yv zv : Nat}
    (h : Runs s w [] false true) (hon : w.actives s.cur.tids ≠ [])
    (hva : va = (readScal s w s.cur.tids 1 x.toNat).toNat) (hyv : yv = (readScal s w s.cur.tids 2 y.toNat).toNat)
    (hzv : zv = (readScal s w s.cur.tids 3 z.toNat).toNat)
    (hcheck : checkGlobal s w .both .scalar 64 64 va = .ok pl) (hnear : isRemote pl = false)
    (hrec : recordAt s w va 64 2 pl = some v')
    (hbase : (tensorRec v').space ≠ 0 ∨ (tensorRec v').fmt = 0x20 ∨
      (unwalked s w.cid (if base then yv else (tensorRec v').base) = false ∧
        ∃ p, translate s w.cid (tlbOf s w) w.priv.isSome .read (if base then yv else (tensorRec v').base) = .page p)) :
    ∃ w', Threads s w w' (SectionThread s w m [] (s.nextId + 1)) ∧
      w' = { w with
        threads := w'.threads, runx := w.runx || spills s w m, slots := raised w s.cur.hint,
        ldq := w.ldq ++ [(s.nextId, false)], stq := w.stq ++ [(s.nextId, false)], reads := (w.dropRead va 2).reads,
        accs := w.accs ++ [Terms.ordered s w
          { waveAcc s w (.tdesc (bnat base + 2 * bnat orig)) va pl [yv, zv] none with
            slot := raisedSlot w s.cur.hint, after := [] }] } ∧
      Leaves (.tdesc m x y z orig base) s (numbered s 1) w' := by
  let a : Access := { waveAccess s w s.cur (.tdesc (bnat base + 2 * bnat orig)) va pl [yv, zv] none with
    slot := raisedSlot w s.cur.hint }
  obtain ⟨g, hg⟩ := launchAccess_eq s (w.dropRead va 2) 1 1 a fun n hn => by
    rcases List.mem_append.mp hn with hn | hn
    · exact (actives_thread hn).1
    · exact List.mem_singleton.mp hn ▸ head_packed hon
  obtain ⟨v, hv⟩ : ∃ v, v = (launchAccess s (w.dropRead va 2) 1 1 a).raiseSlot (raisedSlot w s.cur.hint) := ⟨_, rfl⟩
  have hfields : v = { w with
      threads := Machine.onTids s.cur.tids (fun n t => { t with folds := t.folds ++ g n }) 0 w.threads,
      slots := raised w s.cur.hint, ldq := w.ldq ++ [(s.nextId, false)], stq := w.stq ++ [(s.nextId, false)],
      reads := (w.dropRead va 2).reads, accs := w.accs ++ [{ a with after := earlier s w a }] } := by
    rw [hv, hg]
    cases hslot : raisedSlot w s.cur.hint <;> simp only [raised, hslot] <;> rfl
  have hentered : Entered s w v fun n t => { t with folds := t.folds ++ g n } := by
    rw [hfields]
    exact ⟨rfl, rfl, rfl, rfl, rfl, rfl⟩
  obtain ⟨hthreads, hwave⟩ := passEngine_section (f := engineForm m) (keys := []) hentered (fun _ _ => rfl) (s.nextId + 1)
  rw [engineForm_last] at hthreads hwave
  refine ⟨passEngine s v s.cur (engineForm m) (s.nextId + 1), hthreads, hwave.trans (by rw [hfields]; rfl), ?_⟩
  have hnext : exec (.tdesc m x y z orig base) s = _ := runWord_next (f := engineForm m) h
  rw [Leaves, hnext, tdescBody, if_neg (by simpa using hon), ← hva, ← hyv, ← hzv]
  simp only [scalarMem, hcheck, hrec, hnear, tst_base, Bool.false_eq_true, if_false]
  rw [hv]
  split
  case isTrue => rfl
  case isFalse hraw =>
    obtain hspace | hfmt | ⟨hwalked, p, hpage⟩ := hbase
    · exact absurd hraw (by simp [hspace])
    · exact absurd hraw (by simp [hfmt])
    · have hlow : ¬2 ^ 56 ≤ if base then yv else (tensorRec v').base := by
        simp only [unwalked, Bool.or_eq_false_iff, decide_eq_false_iff_not] at hwalked
        exact hwalked.1
      rw [if_neg hlow, hwalked, if_neg Bool.false_ne_true, hpage]
      rfl

/-- Settles O20: a matrix word is accepted by the queue that its minor opcode names; `tdesc` is one access. -/
theorem matrixWordsAndTdesc : Obligations.MatrixWordsAndTdesc :=
  ⟨fun _ _ _ _ hr hi h hon => ⟨mat_queues hr hi h hon, mat_refused hr h hon⟩,
    fun _ _ _ _ _ _ _ _ _ _ h hon hcheck hnear hrec hbase => tdesc_sends h hon rfl rfl rfl hcheck hnear hrec hbase⟩

/-- Settles O21: an engine word appends its command, an `ecopy` with its follow-on. -/
theorem engineWordsAppendTheirCommand : Obligations.EngineWordsAppendTheirCommand :=
  ⟨fun _ _ _ _ _ hr h hon hq hz => eng_appends hr h hon hq hz,
    fun _ _ _ _ _ _ _ _ _ _ _ hr h hon hq hz hcheck hgood hrec => ecopy_follows hr h hon hq hz hcheck hgood hrec,
    fun _ _ _ _ hr h hon hq => eng_refused hr h hon hq⟩

end Sys2Proof.Proofs.Engines
end

section
/-! PROOFS. How the operations on waves, accesses, faults and units keep memory canonical (log 3). Each function of the model that writes
memory does so through the writers of `Laws`; the lemmas follow the branches of the definitions, in the order of the model. -/

set_option Elab.async false -- one proof at a time: the check bounds memory

namespace Sys2Proof.Proofs.Keeps

open Sys2Proof Sys2Proof.Machine Sys2Proof.Laws

/-- Every state that the answer to a request leaves has canonical memory. -/
inductive AnswerOk : Answer → Prop
  | complete {n : Nat} {t : State} (h : MemoryOk t) : AnswerOk (.complete n t)
  | later {t : State} (h : MemoryOk t) : AnswerOk (.later t)
  | status {n : Nat} : AnswerOk (.status n)
  | wait : AnswerOk .wait
  | viol {pa : Nat} : AnswerOk (.viol pa)

/-- A state that may be there has canonical memory. -/
inductive OptionOk : Option State → Prop
  | some {t : State} (h : MemoryOk t) : OptionOk (some t)
  | none : OptionOk none

/-- A step of a command that is not stopped leaves canonical memory. -/
inductive ResultOk : Except Stop (State × Cmd) → Prop
  | ok {r : State × Cmd} (h : MemoryOk r.1) : ResultOk (.ok r)
  | error {e : Stop} : ResultOk (.error e)

theorem memoryOk_ite {b : Prop} [Decidable b] {x y : State} (hx : MemoryOk x) (hy : MemoryOk y) : MemoryOk (if b then x else y) := by
  split
  · exact hx
  · exact hy

theorem memoryOk_fst_ite {α : Type} {b : Prop} [Decidable b] {x y : State × α} (hx : MemoryOk x.1) (hy : MemoryOk y.1) :
    MemoryOk (if b then x else y).1 := by
  split
  · exact hx
  · exact hy

theorem OptionOk.getD {o : Option State} {s : State} (ho : OptionOk o) (h : MemoryOk s) : MemoryOk (o.getD s) := by
  cases ho with
  | some ht => exact ht
  | none => exact h

theorem OptionOk.map {α : Type} {o : Option α} {f : α → State} (hf : ∀ a, MemoryOk (f a)) : OptionOk (o.map f) := by
  cases o with
  | none => exact .none
  | some a => exact .some (hf a)

theorem OptionOk.bind {o : Option State} {f : State → Option State} (ho : OptionOk o) (hf : ∀ t, MemoryOk t → OptionOk (f t)) :
    OptionOk (o.bind f) := by
  cases ho with
  | some ht => exact hf _ ht
  | none => exact .none

theorem memoryOk_showOn {s : State} {d : Nat} {v : VWrite} (h : MemoryOk s) : MemoryOk (showOn s d v) := h

theorem memoryOk_nextFree {s : State} (h : MemoryOk s) : MemoryOk (nextFree s) := h

theorem memoryOk_modW {s : State} {k : Nat} {f : Wave → Wave} (h : MemoryOk s) : MemoryOk (modW s k f) := h

theorem memoryOk_setW {s : State} {k : Nat} {w : Wave} (h : MemoryOk s) : MemoryOk (setW s k w) := h

theorem memoryOk_modU {s : State} {u : Nat} {f : LUnit → LUnit} (h : MemoryOk s) : MemoryOk (modU s u f) := h

theorem memoryOk_modC {s : State} {c : Nat} {f : Core → Core} (h : MemoryOk s) : MemoryOk (modC s c f) := h

theorem memoryOk_modX {s : State} {c : Nat} {f : Context → Context} (h : MemoryOk s) : MemoryOk (modX s c f) := h

theorem memoryOk_modL {s : State} {l : Nat} {f : Launch → Launch} (h : MemoryOk s) : MemoryOk (modL s l f) := h

theorem memoryOk_keepOld {s : State} {cid : Nat} {l : List (Nat × Byte)} (h : MemoryOk s) : MemoryOk (keepOld s cid l) := by
  unfold keepOld
  exact memoryOk_modX h

theorem memoryOk_keepStale {s : State} {cid : Nat} {ps : List (Nat × Nat)} (h : MemoryOk s)
    : MemoryOk (keepStale s cid ps) := by
  unfold keepStale
  exact memoryOk_keepOld h

theorem memoryOk_flushSamples {s : State} {core : Nat} (h : MemoryOk s) : MemoryOk (flushSamples s core) := by
  unfold flushSamples
  split
  · exact h
  · refine foldl_keeps (P := MemoryOk) (fun s v hs => ?_) _ h
    dsimp only
    have hstore : ∀ (b : Prop) [Decidable b] cid va bs, MemoryOk (if b then (s, false) else userStore s cid core va bs true).1 :=
      fun b _ cid va bs => by
        split
        · exact hs
        · exact memoryOk_userStore _ _ _ _ _ hs
    split
    · next t heq =>
      have hok : MemoryOk (t, false).1 := heq ▸ hstore _ _ _ _
      exact hok
    · next t heq =>
      have hok : MemoryOk (t, true).1 := heq ▸ hstore _ _ _ _
      exact hok

theorem memoryOk_supersede {s : State} {core : Nat} {rec' : W64} (h : MemoryOk s) : MemoryOk (supersede s core rec') := h

theorem memoryOk_samplerReport {s : State} {core : Nat} {m : Sampler} {stat : Nat} (h : MemoryOk s)
    : MemoryOk (samplerReport s core m stat) := by
  unfold samplerReport
  exact memoryOk_tryStore _ _ _ _ (memoryOk_tryStore _ _ _ _ (memoryOk_supersede h))

theorem memoryOk_violEvent {s : State} {cid pa : Nat} (h : MemoryOk s) : MemoryOk (violEvent s cid pa) := by
  unfold violEvent
  exact memoryOk_event _ _ _ _ h

theorem memoryOk_ringWrite {s : State} {cid va : Nat} {bs : List Byte} (h : MemoryOk s) : MemoryOk (ringWrite s cid va bs) := by
  unfold ringWrite
  split
  · exact memoryOk_devError _ _ _ _ _ h
  · exact memoryOk_violEvent h
  · exact memoryOk_sbPut _ _ h

theorem memoryOk_ringEntry {s : State} {cid addr info0 info1 cause sub eng ord wlog core slot : Nat} (h : MemoryOk s)
    : MemoryOk (ringEntry s cid addr info0 info1 cause sub eng ord wlog core slot) := by
  unfold ringEntry
  split
  · exact h
  · exact memoryOk_ringWrite (memoryOk_ringWrite (memoryOk_modX h))

theorem memoryOk_violEntry {s : State} {cid : Nat} {x2 : W64} {va pa ord wlog core slot : Nat} (h : MemoryOk s)
    : MemoryOk (violEntry s cid x2 va pa ord wlog core slot) := by
  unfold violEntry
  exact memoryOk_violEvent (memoryOk_ringEntry h)

theorem memoryOk_sbWrite {s : State} {cid va : Nat} {bs : List Byte} {unit : Nat} (h : MemoryOk s)
    : MemoryOk (sbWrite s cid va bs unit) := by
  unfold sbWrite
  split
  · exact memoryOk_devError _ _ _ _ _ h
  · exact memoryOk_violEntry h
  · exact memoryOk_sbPut _ _ h

theorem memoryOk_engineWrite {s : State} {con va : Nat} {bs : List Byte} {unit : Nat} {c : Cmd} (h : MemoryOk s)
    : MemoryOk (engineWrite s con va bs unit c) := by
  unfold engineWrite
  split
  · exact memoryOk_modX (memoryOk_violEntry h)
  · exact memoryOk_sbWrite h

theorem memoryOk_completeReq {s : State} {cpl tag status : Nat} (h : MemoryOk s) : MemoryOk (completeReq s cpl tag status) := by
  unfold completeReq
  exact memoryOk_sysWrite _ _ h

theorem memoryOk_finishRequest {s : State} {fn queue status : Nat} (h : MemoryOk s)
    : MemoryOk (finishRequest s fn queue status) := by
  unfold finishRequest
  split
  · exact h
  · dsimp only
    split
    · exact h
    · split
      · exact memoryOk_ite (memoryOk_completeReq h) (memoryOk_freezeFn _ _ h)
      · exact memoryOk_ite (memoryOk_completeReq h) (memoryOk_freezeFn _ _ h)

theorem memoryOk_freezeWave {s : State} {k : Nat} {x2 : W64} {va pa : Nat} (h : MemoryOk s)
    : MemoryOk (freezeWave s k x2 va pa) := by
  unfold freezeWave
  split
  · exact h
  · exact memoryOk_violEntry (memoryOk_setW h)

theorem memoryOk_writeRec {s : State} {p : Machine.Partition} {seq v : Nat} (h : MemoryOk s)
    : MemoryOk (writeRec s p seq v) := by
  unfold writeRec
  exact memoryOk_writeHome _ _ h

theorem memoryOk_openRecord {s : State} {part : Nat} {p : Machine.Partition} {cid va reason kind : Nat} (h : MemoryOk s) :
    MemoryOk (openRecord s part p cid va reason kind) :=
  let rec' := freshRec p.seqNext cid (va / 2 ^ 21 * 2 ^ 21) (va / 32768 % 64) reason kind
  let p' : Machine.Partition := { p with seqNext := p.seqNext + 1, recs := (p.seqNext, cid, va / 2 ^ 21 * 2 ^ 21) :: p.recs }
  have opened : ∀ t, MemoryOk t → MemoryOk (event { t with parts := mset t.parts part p' } (fnOfPart part) 1 uSignalbox p.seqNext) :=
    fun t ht => memoryOk_event _ _ _ _ (memoryOk_same (s := t) rfl rfl ht)
  opened (writeRec s p p.seqNext rec') (memoryOk_writeRec h)

theorem memoryOk_holdFault {s : State} {part : Nat} {p : Machine.Partition} {cid va reason kind src : Nat} (h : MemoryOk s)
    : MemoryOk (holdFault s part p cid va reason kind src).1 := by
  unfold holdFault
  exact memoryOk_ite h (memoryOk_event _ _ _ _ h)

theorem memoryOk_mergeFault {s : State} {p : Machine.Partition} {seq va reason kind : Nat} {first : Bool} (h : MemoryOk s)
    : MemoryOk (mergeFault s p seq va reason kind first) := by
  unfold mergeFault
  exact memoryOk_writeRec h

theorem memoryOk_regFault {s : State} {cid va reason kind src : Nat} {has : List Nat} (h : MemoryOk s)
    : MemoryOk (regFault s cid va reason kind src has).1 := by
  unfold regFault
  dsimp only
  split
  · exact h
  · refine memoryOk_fst_ite (memoryOk_holdFault h) ?_
    split
    · exact memoryOk_mergeFault h
    · exact memoryOk_fst_ite (memoryOk_openRecord h) (memoryOk_holdFault h)

theorem memoryOk_regPages {s : State} {cid kind src : Nat} {done : List FPage} {l : List (Nat × Nat)} (h : MemoryOk s) :
    MemoryOk (regPages cid kind src s done l).1 := by
  induction l generalizing s done with
  | nil => exact h
  | cons x l ih =>
    unfold regPages
    split
    · exact ih h
    · exact ih (memoryOk_regFault h)

theorem memoryOk_formSiding {s : State} {k kind : Nat} {faults : List (Nat × Nat × Nat)} {tids : List Nat} (h : MemoryOk s)
    : MemoryOk (formSiding s k kind faults tids) := by
  unfold formSiding
  split
  · exact h
  · exact memoryOk_setW (memoryOk_regPages h)

theorem memoryOk_closeBars {s : State} {u : Nat} (h : MemoryOk s) : MemoryOk (closeBars s u) := by
  unfold closeBars
  split
  · exact h
  · exact memoryOk_modU h

theorem memoryOk_arriveNamed {s : State} {k n count : Nat} {wait : Bool} {tids : List Nat} (h : MemoryOk s)
    : MemoryOk (arriveNamed s k n count wait tids) := by
  unfold arriveNamed
  split
  · exact h
  · split
    · exact h
    · exact memoryOk_setW (memoryOk_modU h)

theorem memoryOk_arriveTree {s : State} {k plat : Nat} {wait : Bool} {tids : List Nat} (h : MemoryOk s)
    : MemoryOk (arriveTree s k plat wait tids) := by
  unfold arriveTree
  split
  · exact h
  · split
    · exact h
    · split
      · exact h
      · exact memoryOk_setW (memoryOk_modL h)

theorem memoryOk_stopSampler {s : State} {core cid : Nat} (h : MemoryOk s) : MemoryOk (stopSampler s core cid) := by
  unfold stopSampler
  split
  · exact h
  · exact memoryOk_ite (memoryOk_modC (memoryOk_samplerReport h)) h

theorem memoryOk_ringOf {s : State} {cid ord wlog core slot : Nat} {c : Cause} (h : MemoryOk s)
    : MemoryOk (ringOf s cid ord wlog core slot c) := by
  unfold ringOf
  exact memoryOk_ringEntry h

theorem memoryOk_ringOwed {s : State} {cid ord wlog core slot : Nat} {causes cmdErrs : List Cause} (h : MemoryOk s)
    : MemoryOk (ringOwed s cid ord wlog core slot causes cmdErrs) := by
  unfold ringOwed
  exact foldl_keeps (P := MemoryOk) (fun s a hs => memoryOk_ringOf hs) _ h

theorem memoryOk_owedCauses {s : State} {w : Wave} (h : MemoryOk s) : MemoryOk (owedCauses s w) := by
  unfold owedCauses
  exact memoryOk_ringOwed h

theorem memoryOk_sweepRanges {s : State} (h : MemoryOk s) : MemoryOk (sweepRanges s) := h

theorem memoryOk_endWave {s : State} {k : Nat} (h : MemoryOk s) : MemoryOk (endWave s k) := by
  unfold endWave
  split
  · exact h
  · exact memoryOk_ite h (memoryOk_sweepRanges (memoryOk_stopSampler (memoryOk_modC (memoryOk_setW (memoryOk_owedCauses h)))))

theorem memoryOk_exitThreads {s : State} {k : Nat} {tids : List Nat} (h : MemoryOk s) : MemoryOk (exitThreads s k tids) := by
  unfold exitThreads
  split
  · exact h
  · exact memoryOk_closeBars (memoryOk_endWave (memoryOk_setW h))

theorem memoryOk_cancelWave {s : State} {k : Nat} (h : MemoryOk s) : MemoryOk (cancelWave s k) := by
  unfold cancelWave
  split
  · exact h
  · exact memoryOk_exitThreads (memoryOk_setW h)

theorem memoryOk_takePlatforms {s : State} {n : Nat} (h : MemoryOk s) : MemoryOk (takePlatforms s n) := by
  unfold takePlatforms
  split
  · exact h
  · exact memoryOk_ite (memoryOk_modL h) h

theorem memoryOk_grantPlatforms {s : State} (h : MemoryOk s) : MemoryOk (grantPlatforms s) := by
  unfold grantPlatforms
  exact foldl_keeps (P := MemoryOk) (fun s a hs => memoryOk_takePlatforms hs) _ h

theorem memoryOk_writeCompletion {s : State} {l : Launch} {status err dsub : Nat} {dig : W64} (h : MemoryOk s)
    : MemoryOk (writeCompletion s l status err dsub dig) := by
  unfold writeCompletion
  exact memoryOk_sbWrite h

theorem memoryOk_endLaunch {s : State} {n status dsub : Nat} {dig : W64} (h : MemoryOk s)
    : MemoryOk (endLaunch s n status dsub dig) := by
  unfold endLaunch
  exact memoryOk_grantPlatforms (memoryOk_modL h)

theorem memoryOk_closeLaunch {s : State} {n status dsub : Nat} {dig : W64} (h : MemoryOk s)
    : MemoryOk (closeLaunch s n status dsub dig) := by
  unfold closeLaunch
  split
  · exact h
  · exact memoryOk_grantPlatforms (memoryOk_modL (memoryOk_event _ _ _ _ (memoryOk_writeCompletion h)))

theorem memoryOk_finishUnit {s : State} {u : Nat} (h : MemoryOk s) : MemoryOk (finishUnit s u) := by
  unfold finishUnit
  split
  · exact h
  · exact memoryOk_ite h (memoryOk_modL (memoryOk_modC (memoryOk_modU h)))

theorem memoryOk_requeue {s : State} {u : Nat} (h : MemoryOk s) : MemoryOk (requeue s u) := by
  unfold requeue
  split
  · exact h
  · exact memoryOk_modL h

theorem memoryOk_ringSaved {s : State} {e : Nat × LUnit} (h : MemoryOk s) : MemoryOk (ringSaved s e) := by
  unfold ringSaved
  exact foldl_keeps (P := MemoryOk) (fun s a hs => memoryOk_ringOwed hs) _ h

theorem memoryOk_cancelLaunch {s : State} {n : Nat} (h : MemoryOk s) : MemoryOk (cancelLaunch s n) := by
  unfold cancelLaunch
  refine foldl_keeps (P := MemoryOk) (fun s a hs => memoryOk_finishUnit hs) _ ?_
  refine foldl_keeps (P := MemoryOk) (fun s a hs => memoryOk_cancelWave hs) _ ?_
  exact foldl_keeps (P := MemoryOk) (fun s a hs => memoryOk_ringSaved hs) _ h

theorem memoryOk_retireRec {s : State} {p : Machine.Partition} {seq : Nat} (h : MemoryOk s) : MemoryOk (retireRec s p seq) := by
  unfold retireRec
  exact memoryOk_ite (memoryOk_writeRec h) h

theorem memoryOk_countEverywhere {s : State} {id : Nat} (h : MemoryOk s) : MemoryOk (countEverywhere s id) := h

theorem memoryOk_pageErrors {s : State} {con : Option Nat} {l : List Cmd} (h : MemoryOk s) : MemoryOk (pageErrors s con l) := by
  unfold pageErrors
  exact foldl_keeps (P := MemoryOk) (fun s a hs => memoryOk_ringEntry hs) _ h

theorem memoryOk_endCommands {s : State} {cid : Nat} {c : Context} (h : MemoryOk s) : MemoryOk (endCommands s cid c) := by
  unfold endCommands
  refine foldl_keeps (P := MemoryOk) (fun s a hs => memoryOk_countEverywhere hs) _ ?_
  exact memoryOk_pageErrors (foldl_keeps (P := MemoryOk) (fun s a hs => memoryOk_pageErrors hs) _ h)

theorem memoryOk_endTags {s : State} {cid part : Nat} (h : MemoryOk s) : MemoryOk (endTags s cid part) := h

theorem memoryOk_endContext {s : State} {cid : Nat} {who : Option (Wave × Cause)} (h : MemoryOk s)
    : MemoryOk (endContext s cid who) := by
  unfold endContext
  split
  · exact h
  · refine memoryOk_ite h ?_
    refine memoryOk_sweepRanges ?_
    split
    · refine memoryOk_endCommands ?_
      refine memoryOk_modX ?_
      refine foldl_keeps (P := MemoryOk) (fun s a hs => ?_) _ ?_
      · split
        · exact memoryOk_endLaunch (memoryOk_cancelLaunch hs)
        · exact hs
      · split
        · exact h
        · exact memoryOk_ringEntry h
    · refine foldl_keeps (P := MemoryOk) (fun s a hs => memoryOk_retireRec hs) _ ?_
      refine memoryOk_endCommands ?_
      refine memoryOk_modX ?_
      refine foldl_keeps (P := MemoryOk) (fun s a hs => ?_) _ ?_
      · split
        · exact memoryOk_endLaunch (memoryOk_cancelLaunch hs)
        · exact hs
      · split
        · exact h
        · exact memoryOk_ringEntry h

theorem memoryOk_handlerFault {s : State} {k : Nat} {c : Cause} (h : MemoryOk s) : MemoryOk (handlerFault s k c) := by
  unfold handlerFault
  split
  · exact h
  · exact memoryOk_endContext h

theorem memoryOk_addCause {s : State} {k : Nat} {c : Cause} (h : MemoryOk s) : MemoryOk (addCause s k c) := by
  unfold addCause
  split
  · exact h
  · exact memoryOk_ite (memoryOk_setW h) (memoryOk_ringOf h)

theorem memoryOk_meetCause {s : State} {k : Nat} {c : Cause} (h : MemoryOk s) : MemoryOk (meetCause s k c) := by
  unfold meetCause
  split
  · exact h
  · exact memoryOk_ite (memoryOk_handlerFault h) (memoryOk_addCause h)

theorem memoryOk_enterTrap {s : State} {k : Nat} {c : Cause} {srcw : Nat} (h : MemoryOk s)
    : MemoryOk (enterTrap s k c srcw) := by
  unfold enterTrap
  split
  · exact h
  · split
    · exact h
    · dsimp only
      split
      · exact memoryOk_setW (foldl_keeps (P := MemoryOk) (fun s a hs => memoryOk_writeFrame _ _ hs) _ h)
      · exact memoryOk_freezeWave (memoryOk_setW h)
      · exact memoryOk_endContext h

theorem memoryOk_takeTrap {s : State} {k : Nat} (h : MemoryOk s) : MemoryOk (takeTrap s k) := by
  unfold takeTrap
  split
  · exact h
  · refine memoryOk_ite h ?_
    split
    · exact h
    · exact memoryOk_enterTrap h

theorem memoryOk_finishMarkers {s : State} {k : Nat} (h : MemoryOk s) : MemoryOk (finishMarkers s k) := by
  unfold finishMarkers
  split
  · exact h
  · exact memoryOk_ite (memoryOk_ite (memoryOk_setW h) h) (memoryOk_ite (memoryOk_setW h) (memoryOk_setW h))

theorem memoryOk_releaseAwaits {s : State} {k : Nat} (h : MemoryOk s) : MemoryOk (releaseAwaits s k) := by
  unfold releaseAwaits
  exact memoryOk_modW h

theorem memoryOk_releaseWaits {s : State} {k : Nat} (h : MemoryOk s) : MemoryOk (releaseWaits s k) := by
  unfold releaseWaits
  exact memoryOk_modW h

theorem memoryOk_releaseBars {s : State} {k : Nat} (h : MemoryOk s) : MemoryOk (releaseBars s k) := by
  unfold releaseBars
  split
  · exact h
  · exact h

theorem memoryOk_releaseRcb {s : State} {k : Nat} (h : MemoryOk s) : MemoryOk (releaseRcb s k) := by
  unfold releaseRcb
  exact memoryOk_modW h

theorem memoryOk_raiseMismatch {s : State} {k : Nat} (h : MemoryOk s) : MemoryOk (raiseMismatch s k) := by
  unfold raiseMismatch
  split
  · exact h
  · split
    · exact h
    · exact memoryOk_ite (memoryOk_handlerFault h) (memoryOk_ite h (memoryOk_addCause h))

theorem memoryOk_dropRequest {s : State} {k : Nat} (h : MemoryOk s) : MemoryOk (dropRequest s k) := by
  unfold dropRequest
  split
  · exact h
  · exact memoryOk_modC h

theorem memoryOk_addRequest {s : State} {k n : Nat} (h : MemoryOk s) : MemoryOk (addRequest s k n) := by
  unfold addRequest
  split
  · exact h
  · exact memoryOk_modC h

theorem memoryOk_passJoin {s : State} {k : Nat} (h : MemoryOk s) : MemoryOk (passJoin s k) := by
  unfold passJoin
  split
  · exact h
  · refine memoryOk_ite h ?_
    split
    · refine memoryOk_ite (memoryOk_setW h) ?_
      exact memoryOk_ite (memoryOk_setW h) (memoryOk_ite (memoryOk_setW h) (memoryOk_addRequest (memoryOk_setW h)))
    · exact h

theorem memoryOk_returnTrap {s : State} {k : Nat} (h : MemoryOk s) : MemoryOk (returnTrap s k) := by
  unfold returnTrap
  split
  · exact h
  · split
    · exact h
    · split
      · exact memoryOk_ite (memoryOk_endContext h) (memoryOk_ite (memoryOk_cancelWave (memoryOk_setW h)) (memoryOk_setW h))
      · exact memoryOk_freezeWave h
      · exact memoryOk_endContext h

theorem memoryOk_refuseReslice {s : State} {u : Nat} (h : MemoryOk s) : MemoryOk (refuseReslice s u) := by
  unfold refuseReslice
  exact memoryOk_requeue (memoryOk_modU (memoryOk_modC h))

theorem memoryOk_leaveHandler {s : State} {k : Nat} (h : MemoryOk s) : MemoryOk (leaveHandler s k) := by
  unfold leaveHandler
  split
  · exact h
  · split
    · exact h
    · refine memoryOk_ite h ?_
      split
      · refine memoryOk_ite (memoryOk_returnTrap h) ?_
        refine memoryOk_ite h ?_
        refine memoryOk_ite h ?_
        refine memoryOk_ite (memoryOk_cancelWave h) ?_
        exact memoryOk_ite (memoryOk_refuseReslice h) (memoryOk_ite (memoryOk_endContext h) (memoryOk_handlerFault h))
      · exact h

theorem memoryOk_giveUp {s : State} {core launch g : Nat} (h : MemoryOk s) : MemoryOk (giveUp s core launch g) := by
  unfold giveUp
  exact memoryOk_modC h

theorem memoryOk_settleDet {s : State} {core launch : Nat} (h : MemoryOk s) : MemoryOk (settleDet s core launch) := by
  unfold settleDet
  split
  · exact h
  · exact memoryOk_ite h (memoryOk_giveUp h)

theorem memoryOk_afterDet {s : State} {k : Nat} (h : MemoryOk s) : MemoryOk (afterDet s k) := by
  unfold afterDet
  split
  · exact h
  · exact memoryOk_ite (memoryOk_settleDet h) h

theorem memoryOk_advanceStart {s : State} {k : Nat} (h : MemoryOk s) : MemoryOk (advanceStart s k) := by
  unfold advanceStart
  refine memoryOk_takeTrap ?_
  refine memoryOk_raiseMismatch ?_
  refine memoryOk_releaseWaits ?_
  refine memoryOk_leaveHandler ?_
  refine memoryOk_raiseMismatch ?_
  refine memoryOk_passJoin ?_
  exact memoryOk_releaseRcb (memoryOk_releaseWaits (memoryOk_releaseBars (memoryOk_releaseAwaits (memoryOk_finishMarkers h))))

theorem memoryOk_conclude {s : State} {k : Nat} (h : MemoryOk s) : MemoryOk (conclude s k) := by
  unfold conclude
  exact memoryOk_afterDet (memoryOk_advanceStart h)

theorem memoryOk_settled {s : State} {k : Nat} (h : MemoryOk s) : MemoryOk (settled s k) := by
  unfold settled
  exact memoryOk_nextFree (memoryOk_conclude h)

theorem memoryOk_concludeAll {s : State} {ks : List Nat} (h : MemoryOk s) : MemoryOk (concludeAll s ks) := by
  unfold concludeAll
  refine foldl_keeps (P := MemoryOk) (fun s a hs => memoryOk_afterDet hs) _ ?_
  exact foldl_keeps (P := MemoryOk) (fun s a hs => memoryOk_advanceStart hs) _ h

theorem memoryOk_illegalAt {s : State} {k : Nat} {addr : W64} {word : Nat} {tids : List Nat} (h : MemoryOk s)
    : MemoryOk (illegalAt s k addr word tids) := by
  unfold illegalAt
  split
  · exact h
  · exact memoryOk_meetCause (memoryOk_setW h)

theorem memoryOk_attempt {f : Form} {body : State → Nat → Wave → Exec → State} {s : State} {w : Wave}
    (hbody : ∀ k w e, MemoryOk (body s k w e)) (h : MemoryOk s) : MemoryOk (attempt f body s w) := by
  unfold attempt
  dsimp only
  split
  · exact memoryOk_illegalAt h
  · split
    · exact memoryOk_handlerFault h
    · split
      · exact memoryOk_meetCause h
      · exact hbody _ _ _

theorem memoryOk_instability {s : State} {k : Nat} {e : Exec} {res : FMap VRes} (h : MemoryOk s)
    : MemoryOk (instability s k e res) := by
  unfold instability
  split
  · exact h
  · exact memoryOk_ite h (memoryOk_meetCause h)

theorem memoryOk_vecBody {f : Form} {d : Spec} {wide : Bool} {lat rc : Nat} {comp : State → Wave → Nat → Thread → VRes}
    {s : State} {k : Nat} {w : Wave} {e : Exec} (h : MemoryOk s) : MemoryOk (vecBody f d wide lat rc comp s k w e) := by
  unfold vecBody
  exact memoryOk_instability (memoryOk_setW h)

theorem memoryOk_longBody {f : Form} {d : Spec} {wide : Bool} {rc : Nat} {comp : State → Wave → Nat → Thread → VRes} {s : State}
    {k : Nat} {w : Wave} {e : Exec} (h : MemoryOk s) : MemoryOk (longBody f d wide rc comp s k w e) := by
  unfold longBody
  exact memoryOk_instability (memoryOk_setW h)

theorem memoryOk_cmBody {f : Form} {lat : Nat} {comp : State → Wave → Nat → Thread → VRes} {s : State} {k : Nat} {w : Wave}
    {e : Exec} (h : MemoryOk s) : MemoryOk (cmBody f lat comp s k w e) := by
  unfold cmBody
  exact memoryOk_instability (memoryOk_setW h)

theorem memoryOk_scalBody {f : Form} {always : Bool} {act : State → Wave → Exec → Wave} {s : State} {k : Nat} {w : Wave}
    {e : Exec} (h : MemoryOk s) : MemoryOk (scalBody f always act s k w e) := by
  unfold scalBody
  exact memoryOk_setW h

theorem memoryOk_hnBody {isHint : Bool} {payload stall : Nat} {s : State} {k : Nat} {w : Wave} {e : Exec} (h : MemoryOk s)
    : MemoryOk (hnBody isHint payload stall s k w e) := by
  unfold hnBody
  exact memoryOk_ite (memoryOk_illegalAt h) (memoryOk_setW h)

theorem memoryOk_scalResultBody {f : Form} {d : Nat} {op : State → Wave → Option W64 × Nat} {s : State} {k : Nat} {w : Wave}
    {e : Exec} (h : MemoryOk s) : MemoryOk (scalResultBody f d op s k w e) := by
  unfold scalResultBody
  exact memoryOk_ite (memoryOk_setW h) (memoryOk_setW h)

theorem memoryOk_toSiding {s : State} {k kind : Nat} {own : Bool} {faults : List (Nat × Nat × Nat)} {tids : List Nat}
    (h : MemoryOk s) : MemoryOk (toSiding s k kind own faults tids) := by
  unfold toSiding
  exact memoryOk_formSiding (memoryOk_ite (memoryOk_modW h) h)

theorem memoryOk_accessTrap {s : State} {k : Nat} {e : Exec} {code addr : Nat} {who : List Nat} (h : MemoryOk s)
    : MemoryOk (accessTrap s k e code addr who) := by
  unfold accessTrap
  exact memoryOk_meetCause h

theorem memoryOk_landHeld {s : State} {k : Nat} {w : Wave} {x3 : Held} (h : MemoryOk s) : MemoryOk (landHeld s k w x3) := by
  unfold landHeld
  exact memoryOk_ite (memoryOk_handlerFault h) (memoryOk_ite (memoryOk_setW h) (memoryOk_toSiding (memoryOk_setW h)))

theorem memoryOk_memBody {f : Form} {m : MemOp} {addr : State → Wave → Nat → Thread → Int}
    {data : State → Wave → Nat → Thread → Place → List Nat} {s : State} {k : Nat} {w : Wave} {e : Exec} (h : MemoryOk s) :
    MemoryOk (memBody f m addr data s k w e) := by
  unfold memBody
  extract_lets vs
  split
  · exact memoryOk_accessTrap h
  · exact memoryOk_freezeWave h
  · exact memoryOk_ite (memoryOk_handlerFault h) (memoryOk_ite h (memoryOk_toSiding h))

theorem memoryOk_scalarMem {s : State} {k : Nat} {w : Wave} {e : Exec} {need : Need} {addr : Nat} {v : Verdict} {go : Place → State}
    (hgo : ∀ pl, MemoryOk (go pl)) (h : MemoryOk s) : MemoryOk (scalarMem s k w e need addr v go) := by
  unfold scalarMem
  split
  · exact memoryOk_accessTrap h
  · exact memoryOk_freezeWave h
  · split
    · exact memoryOk_handlerFault h
    · exact memoryOk_toSiding h
  · exact hgo _

theorem memoryOk_scalAccess {f : Form} {share load : Bool} {ty : Nat} {d a : SReg} {i : Bool} {x : BitVec 7} {s : State} {k : Nat}
    {w : Wave} {e : Exec} (h : MemoryOk s) : MemoryOk (scalAccess f share load ty d a i x s k w e) := by
  unfold scalAccess
  split
  · exact h
  · refine memoryOk_scalarMem (fun pl => ?_) h
    dsimp only
    split
    · split
      · exact h
      · exact h
    · split
      · exact h
      · exact h

theorem memoryOk_fqryBody {f : Form} {n : Nat} {rec' : State → Wave → Nat} {d a : SReg} {s : State} {k : Nat} {w : Wave} {e : Exec}
    (h : MemoryOk s) : MemoryOk (fqryBody f n rec' d a s k w e) := by
  unfold fqryBody
  split
  · exact h
  · refine memoryOk_scalarMem (fun pl => ?_) h
    dsimp only
    split
    · exact h
    · exact h

theorem memoryOk_putArrival {s : State} {u off target count gen : Nat} (h : MemoryOk s)
    : MemoryOk (putArrival s u off target count gen) := by
  unfold putArrival
  exact memoryOk_putShare _ _ _ h

theorem memoryOk_arriveWord {s : State} {u off n : Nat} (h : MemoryOk s) : MemoryOk (arriveWord s u off n) := by
  unfold arriveWord
  exact memoryOk_putArrival h

theorem memoryOk_armWord {s : State} {u off target : Nat} (h : MemoryOk s) : MemoryOk (armWord s u off target) := by
  unfold armWord
  exact memoryOk_putArrival h

theorem memoryOk_chargeMemory {s : State} {cid : Nat} {x2 : W64} {va g sub ord wlog core slot : Nat} (h : MemoryOk s)
    : MemoryOk (chargeMemory s cid x2 va g sub ord wlog core slot) := by
  unfold chargeMemory
  exact memoryOk_ite (memoryOk_devError _ _ _ _ _ h) (memoryOk_ringEntry h)

theorem memoryOk_chargeError {s : State} {w : Wave} {x2 : W64} {va g sub : Nat} (h : MemoryOk s)
    : MemoryOk (chargeError s w x2 va g sub) := by
  unfold chargeError
  exact memoryOk_chargeMemory h

theorem memoryOk_reportBad {s : State} {k : Nat} {x2 : Access} {bad : Bad} (h : MemoryOk s)
    : MemoryOk (reportBad s k x2 bad) := by
  unfold reportBad
  split
  · exact h
  · split
    · exact h
    · refine memoryOk_ite ?_ ?_
      · refine memoryOk_handlerFault ?_
        exact foldl_keeps (P := MemoryOk) (fun s a hs => memoryOk_chargeError (memoryOk_poisonGranule _ hs)) _ h
      · refine memoryOk_ite ?_ ?_
        · refine memoryOk_addCause ?_
          exact foldl_keeps (P := MemoryOk) (fun s a hs => memoryOk_chargeError (memoryOk_poisonGranule _ hs)) _ h
        · exact foldl_keeps (P := MemoryOk) (fun s a hs => memoryOk_chargeError (memoryOk_poisonGranule _ hs)) _ h

theorem memoryOk_afterShare {s : State} {k : Nat} {x2 : Access} (h : MemoryOk s) : MemoryOk (afterShare s k x2) := by
  unfold afterShare
  split
  · exact h
  · exact memoryOk_ite (memoryOk_concludeAll h) h

theorem memoryOk_resultArrival {s : State} {k id : Nat} (h : MemoryOk s) : MemoryOk (resultArrival s k id) := by
  unfold resultArrival
  split
  · exact h
  · split
    · exact h
    · split
      · exact h
      · exact memoryOk_conclude (memoryOk_reportBad (memoryOk_setW h))

theorem memoryOk_bindLane {s : State} {k id tid : Nat} (h : MemoryOk s) : MemoryOk (bindLane s k id tid) := by
  unfold bindLane
  split
  · exact h
  · split
    · exact h
    · exact memoryOk_ite h (memoryOk_setW h)

theorem memoryOk_performLane {d : Nat} {w : Wave} {x2 : Access} {s : State} {l : Lane} (h : MemoryOk s)
    : MemoryOk (performLane d w x2 s l).1 := by
  unfold performLane
  split
  · exact memoryOk_storeAt _ _ _ _ _ _ h
  · split
    · exact h
    · exact memoryOk_storeAt _ _ _ _ _ _ h
  · split
    · exact memoryOk_armWord h
    · exact h
  · split
    · exact h
    · exact memoryOk_storeAt _ _ _ _ _ _ h

theorem memoryOk_performLanes {d : Nat} {w : Wave} {x : Access} {bad : Bad} {s : State} {fl : Nat} {l : List Lane} (h : MemoryOk s) :
    MemoryOk (performLanes d w x bad s fl l).1 := by
  induction l generalizing s fl with
  | nil => exact h
  | cons lane l ih =>
    unfold performLanes
    split
    · exact ih h
    · exact ih (memoryOk_performLane h)

theorem memoryOk_samplerOp {s : State} {w : Wave} {x2 : Access} {act : Nat} {bad : Bad} (h : MemoryOk s)
    : MemoryOk (samplerOp s w x2 act bad) := by
  unfold samplerOp
  refine memoryOk_ite ?_ ?_
  · exact memoryOk_ite (memoryOk_userStore _ _ _ _ _ h) (memoryOk_stopSampler (memoryOk_modC (memoryOk_userStore _ _ _ _ _ h)))
  · split
    · exact h
    · exact memoryOk_tryStore _ _ _ _ (memoryOk_tryStore _ _ _ _ h)

theorem memoryOk_tdescPerformed {s : State} {w : Wave} {mods : Nat} {l : Lane} (h : MemoryOk s) : MemoryOk (tdescPerformed s w mods l) := by
  unfold tdescPerformed
  extract_lets d v0 v1 z v2 r ord unit err cls v3 t
  have ht : MemoryOk t := memoryOk_tagWrite _ _ _ h
  split
  · exact memoryOk_writeDie _ _ _ ht
  · exact memoryOk_writeDieList _ _ ht
  · exact memoryOk_putHost _ _ ht
  · exact ht

theorem memoryOk_storePerformed {s : State} {k id : Nat} (h : MemoryOk s) : MemoryOk (storePerformed s k id) := by
  unfold storePerformed
  split
  · exact h
  · split
    · exact h
    · refine memoryOk_ite h ?_
      split
      · exact memoryOk_ite h (memoryOk_conclude (memoryOk_reportBad (memoryOk_modW (memoryOk_samplerOp h))))
      · refine memoryOk_conclude ?_
        refine memoryOk_reportBad ?_
        exact memoryOk_modW (memoryOk_ite (foldl_keeps (P := MemoryOk) (fun s a hs => memoryOk_tdescPerformed hs) _ h) h)
      · exact memoryOk_conclude (memoryOk_afterShare (memoryOk_reportBad (memoryOk_modW (memoryOk_performLanes h))))

theorem memoryOk_atomicLane {d : Nat} {w : Wave} {x2 : Access} {bad : Bad} {s : State} {l : Lane} (h : MemoryOk s)
    : MemoryOk (atomicLane d w x2 bad s l).1 := by
  unfold atomicLane
  exact memoryOk_fst_ite h (memoryOk_performLane h)

theorem memoryOk_atomicLanes {d : Nat} {w : Wave} {x : Access} {bad : Bad} {s : State} {l : List Lane} (h : MemoryOk s) :
    MemoryOk (atomicLanes d w x bad s l).1 := by
  induction l generalizing s with
  | nil => exact h
  | cons lane l ih => exact ih (memoryOk_atomicLane h)

theorem memoryOk_atomicPerformed {s : State} {k id : Nat} (h : MemoryOk s) : MemoryOk (atomicPerformed s k id) := by
  unfold atomicPerformed
  split
  · exact h
  · split
    · exact h
    · refine memoryOk_ite h ?_
      exact memoryOk_conclude (memoryOk_afterShare (memoryOk_reportBad (memoryOk_modW (memoryOk_atomicLanes h))))

theorem memoryOk_writeMadeVisible {s : State} {d id : Nat} (h : MemoryOk s) : MemoryOk (writeMadeVisible s d id) := by
  unfold writeMadeVisible
  split
  · exact h
  · exact memoryOk_ite (memoryOk_showOn h) h

theorem memoryOk_performReports {s : State} {core : Nat} (h : MemoryOk s) : MemoryOk (performReports s core) := by
  unfold performReports
  exact foldl_keeps (P := MemoryOk) (fun s a hs => memoryOk_storePerformed hs) _ h

end Sys2Proof.Proofs.Keeps
end

section
/-! PROOFS. How the operations on commands, engines, placement and tables keep memory canonical (log 3). Each function of the model that writes
memory does so through the writers of `Laws`; the lemmas follow the branches of the definitions, in the order of the model. -/

set_option Elab.async false -- one proof at a time: the check bounds memory

namespace Sys2Proof.Proofs.Keeps

open Sys2Proof Sys2Proof.Machine Sys2Proof.Laws

theorem memoryOk_privTrap {s : State} {k : Nat} {e : Exec} {n : Nat} (h : MemoryOk s) : MemoryOk (privTrap s k e n) := by
  unfold privTrap
  exact memoryOk_meetCause h

theorem memoryOk_writeGstep {s : State} {w : Wave} {v : W64} (h : MemoryOk s) : MemoryOk (writeGstep s w v) := by
  unfold writeGstep
  exact memoryOk_ite h h

theorem memoryOk_astray {s : State} {k : Nat} {next : Nat → W64} {tids : List Nat} (h : MemoryOk s)
    : MemoryOk (astray s k next tids) := by
  unfold astray
  split
  · exact h
  · exact memoryOk_meetCause h

theorem memoryOk_branchBody {f : Form} {link : Bool} {take : State → Wave → Nat → Bool}
    {target : State → Wave → Exec → Nat → Thread → W64} {s : State} {k : Nat} {w : Wave} {e : Exec} (h : MemoryOk s)
    : MemoryOk (branchBody f link take target s k w e) := by
  unfold branchBody
  exact memoryOk_astray (memoryOk_setW h)

theorem memoryOk_standAt {x0 : Hold} {s : State} {k : Nat} {w : Wave} {e : Exec} (h : MemoryOk s)
    : MemoryOk (standAt x0 s k w e) := by
  unfold standAt
  exact memoryOk_setW h

theorem memoryOk_trapBody {f : Form} {code : Nat} {s : State} {k : Nat} {w : Wave} {e : Exec} (h : MemoryOk s)
    : MemoryOk (trapBody f code s k w e) := by
  unfold trapBody
  exact memoryOk_ite (memoryOk_standAt h) (memoryOk_ite (memoryOk_setW h) (memoryOk_addCause (memoryOk_setW h)))

theorem memoryOk_countArrivals {s : State} {k : Nat} (h : MemoryOk s) : MemoryOk (countArrivals s k) := by
  unfold countArrivals
  split
  · exact h
  · refine memoryOk_ite h ?_
    dsimp only
    split
    · exact h
    · split
      · exact memoryOk_arriveTree (memoryOk_setW h)
      · exact memoryOk_arriveNamed (memoryOk_setW h)
      · exact memoryOk_setW h

theorem memoryOk_barBody {tree : Bool} {n count : Nat} {wait : Bool} {s : State} {k : Nat} {w : Wave} {e : Exec}
    (h : MemoryOk s) : MemoryOk (barBody tree n count wait s k w e) := by
  unfold barBody
  exact memoryOk_ite (memoryOk_meetCause h) (memoryOk_countArrivals (memoryOk_setW h))

theorem memoryOk_askFar {s : State} {k va kind : Nat} {tids : List Nat} (h : MemoryOk s)
    : MemoryOk (askFar s k va kind tids) := by
  unfold askFar
  exact memoryOk_modW h

theorem memoryOk_fetchFails {s : State} {k : Nat} {pc : W64} {tids : List Nat} {f : Fetched} (h : MemoryOk s)
    : MemoryOk (fetchFails s k pc tids f) := by
  unfold fetchFails
  split
  · exact h
  · split
    · exact h
    · exact memoryOk_askFar h
    · exact memoryOk_meetCause h
    · exact memoryOk_freezeWave h
    · exact memoryOk_ite (memoryOk_handlerFault h) (memoryOk_formSiding h)

theorem memoryOk_missFetch {s : State} {core quad : Nat} (h : MemoryOk s) : MemoryOk (missFetch s core quad) := by
  unfold missFetch
  split
  · exact h
  · exact memoryOk_modW h

theorem memoryOk_yieldAway {core quad n : Nat} {s : State} (h : MemoryOk s) : MemoryOk (yieldAway core quad n s) := by
  induction n generalizing s with
  | zero => exact h
  | succ n ih =>
    unfold yieldAway
    split
    · split
      · exact ih (memoryOk_askFar h)
      · exact h
    · exact h

theorem memoryOk_thisCycle {s : State} {core quad : Nat} (h : MemoryOk s) : MemoryOk (thisCycle s core quad) := by
  unfold thisCycle
  exact memoryOk_yieldAway (foldl_keeps (P := MemoryOk) (fun s a hs => memoryOk_missFetch hs) _ h)

theorem memoryOk_afterSelect {s : State} {k : Nat} {w : Wave} {g : Machine.Group} {wide : Bool} (h : MemoryOk s)
    : MemoryOk (afterSelect s k w g wide) := by
  unfold afterSelect
  exact memoryOk_modC h

theorem memoryOk_treePhase {s : State} {n plat unit : Nat} (h : MemoryOk s) : MemoryOk (treePhase s n plat unit) := by
  unfold treePhase
  split
  · exact h
  · split
    · exact h
    · dsimp only
      split
      · exact h
      · exact memoryOk_ite h (memoryOk_concludeAll (memoryOk_modL h))

theorem memoryOk_removeWave {s : State} {k : Nat} (h : MemoryOk s) : MemoryOk (removeWave s k) := by
  unfold removeWave
  split
  · exact h
  · exact memoryOk_ite (memoryOk_settleDet (memoryOk_finishUnit (memoryOk_modU h))) (memoryOk_finishUnit (memoryOk_modU h))

theorem memoryOk_waveSlotFree {s : State} {k : Nat} (h : MemoryOk s) : MemoryOk (waveSlotFree s k) := by
  unfold waveSlotFree
  split
  · exact h
  · exact memoryOk_ite h (memoryOk_removeWave h)

theorem memoryOk_meetRequests {s : State} {k : Nat} {w : Wave} (h : MemoryOk s) : MemoryOk (meetRequests s k w) := by
  unfold meetRequests
  exact memoryOk_conclude (memoryOk_modC (memoryOk_setW h))

theorem memoryOk_xacqGrant {s : State} {core quad : Nat} (h : MemoryOk s) : MemoryOk (xacqGrant s core quad) := by
  unfold xacqGrant
  split
  · exact h
  · split
    · exact memoryOk_modC h
    · refine memoryOk_ite ?_ ?_
      · exact memoryOk_ite (memoryOk_conclude (memoryOk_dropRequest (memoryOk_setW h))) h
      · exact memoryOk_ite (memoryOk_meetRequests h) (memoryOk_ite (memoryOk_meetRequests h) h)

theorem memoryOk_deadTrap {s : State} {k : Nat} (h : MemoryOk s) : MemoryOk (deadTrap s k) := by
  unfold deadTrap
  split
  · exact h
  · exact memoryOk_ite h (memoryOk_conclude (memoryOk_addCause (memoryOk_dropRequest (memoryOk_setW h))))

theorem memoryOk_deadlockTrap {s : State} {core : Nat} (h : MemoryOk s) : MemoryOk (deadlockTrap s core) := by
  unfold deadlockTrap
  exact memoryOk_ite h (foldl_keeps (P := MemoryOk) (fun s a hs => memoryOk_deadTrap hs) _ (memoryOk_modC h))

theorem memoryOk_pinNow {s : State} {k : Nat} {vpin : Bool} (h : MemoryOk s) : MemoryOk (pinNow s k vpin) := by
  unfold pinNow
  split
  · exact h
  · split
    · dsimp only
      split
      · exact h
      · exact h
    · split
      · dsimp only
        split
        · exact h
        · exact memoryOk_conclude (memoryOk_sweepRanges (memoryOk_setW h))
      · dsimp only
        split
        · exact h
        · exact memoryOk_conclude (memoryOk_sweepRanges (memoryOk_setW h))

theorem memoryOk_saveLimit {s : State} {k : Nat} (h : MemoryOk s) : MemoryOk (saveLimit s k) := by
  unfold saveLimit
  split
  · exact h
  · split
    · exact memoryOk_ite (memoryOk_handlerFault h) h
    · exact h

theorem memoryOk_instructionFetch {s : State} {k tid : Nat} (h : MemoryOk s) : MemoryOk (instructionFetch s k tid) := by
  unfold instructionFetch
  split
  · exact h
  · split
    · exact h
    · refine memoryOk_ite h ?_
      split
      · exact h
      · exact memoryOk_conclude (memoryOk_fetchFails h)

theorem memoryOk_sampleTake {s : State} {core : Nat} (h : MemoryOk s) : MemoryOk (sampleTake s core) := by
  unfold sampleTake
  split
  · exact h
  · exact memoryOk_ite h (memoryOk_modC h)

theorem memoryOk_modSaved {s : State} {c : Cmd} {f : SavedWave → SavedWave} (h : MemoryOk s) : MemoryOk (modSaved s c f) := by
  unfold modSaved
  exact memoryOk_modU h

theorem memoryOk_raiseIn {s : State} {c : Cmd} {cause : Cause} {eng : Nat} (h : MemoryOk s)
    : MemoryOk (raiseIn s c cause eng) := by
  unfold raiseIn
  split
  · split
    · exact memoryOk_ite (memoryOk_setW (memoryOk_modSaved h)) (memoryOk_ringEntry h)
    · exact memoryOk_modSaved h
  · split
    · exact memoryOk_ite (memoryOk_setW h) (memoryOk_ringEntry h)
    · exact memoryOk_ringEntry h

theorem memoryOk_cmdError {s : State} {ring : Nat} {c : Cmd} {code : Nat} (h : MemoryOk s)
    : MemoryOk (cmdError s ring c code) := by
  unfold cmdError
  exact memoryOk_raiseIn h

theorem memoryOk_cmdFlags {s : State} {c : Cmd} {f : Nat} (h : MemoryOk s) : MemoryOk (cmdFlags s c f) := by
  unfold cmdFlags
  split
  · dsimp only
    split
    · exact memoryOk_ite (memoryOk_setW (memoryOk_modU h)) (memoryOk_modU h)
    · exact memoryOk_modU h
  · dsimp only
    split
    · exact memoryOk_ite (memoryOk_setW h) h
    · exact h

theorem memoryOk_clearWaits {s : State} {cid con count : Nat} {follow : Bool} (h : MemoryOk s)
    : MemoryOk (clearWaits s cid con count follow) := h

theorem memoryOk_putHead {s : State} {cid ring : Nat} {c : Cmd} (h : MemoryOk s) : MemoryOk (putHead s cid ring c) := by
  unfold putHead
  exact memoryOk_ite (memoryOk_modC h) (memoryOk_modX h)

theorem memoryOk_throwBytes {s : State} {c : Cmd} {vas : FMap Nat} {bs : FMap Byte} (h : MemoryOk s)
    : MemoryOk (throwBytes s c vas bs) := by
  unfold throwBytes
  dsimp only
  split
  · refine memoryOk_addCause ?_
    refine foldl_keeps (P := MemoryOk) (fun s a hs => ?_) _ ?_
    · exact memoryOk_chargeMemory (memoryOk_poisonGranule _ hs)
    · exact memoryOk_writeHomeList _ (memoryOk_tagWrite _ _ _ h)
  · refine foldl_keeps (P := MemoryOk) (fun s a hs => ?_) _ ?_
    · exact memoryOk_chargeMemory (memoryOk_poisonGranule _ hs)
    · exact memoryOk_writeHomeList _ (memoryOk_tagWrite _ _ _ h)

theorem memoryOk_applyBatch {s : State} {c : Cmd} {p : Plan} {b : Batch} (h : MemoryOk s) : MemoryOk (applyBatch s c p b) := by
  unfold applyBatch
  refine memoryOk_ite (memoryOk_putHost _ _ (memoryOk_throwBytes h)) ?_
  refine memoryOk_ite ?_ ?_
  · exact memoryOk_modU (memoryOk_putHost _ _ (memoryOk_throwBytes h))
  · refine memoryOk_ite ?_ ?_
    · exact memoryOk_modC (memoryOk_putHost _ _ (memoryOk_throwBytes h))
    · exact memoryOk_modC (memoryOk_putHost _ _ (memoryOk_throwBytes h))

theorem memoryOk_refuse {s : State} {ring : Nat} {c : Cmd} {code : Nat} (h : MemoryOk s)
    : MemoryOk (refuse s ring c code).1 := by
  unfold refuse
  exact memoryOk_cmdError h

theorem memoryOk_deniedError {s : State} {c : Cmd} {code va : Nat} (h : MemoryOk s) : MemoryOk (deniedError s c code va).1 := by
  unfold deniedError
  exact memoryOk_raiseIn h

theorem memoryOk_chooseStaging {s : State} {c : Cmd} {l : List Nat} (h : MemoryOk s) : MemoryOk (chooseStaging s c l).1 := by
  induction l generalizing s with
  | nil => exact h
  | cons v l ih =>
    unfold chooseStaging
    split
    · exact h
    · split
      · exact h
      · split
        · exact ih h
        · split
          · exact h
          · dsimp only
            split
            · exact h
            · refine ih ?_
              exact h

theorem memoryOk_stopCmd {s : State} {ring : Nat} {c : Cmd} {x3 : Stop} (h : MemoryOk s)
    : MemoryOk (stopCmd s ring c x3).1 := by
  unfold stopCmd
  split
  · exact memoryOk_fst_ite h (memoryOk_regFault h)
  · split
    · exact memoryOk_freezeWave h
    · exact memoryOk_violEntry h
  · exact memoryOk_refuse h
  · exact memoryOk_refuse (memoryOk_chargeMemory (memoryOk_poisonGranule _ h))
  · exact h
  · exact memoryOk_deniedError h
  · dsimp only
    split
    · exact memoryOk_refuse h
    · exact memoryOk_chooseStaging h

theorem memoryOk_walkPage {ring : Nat} {r : State × Cmd} {e : Nat} (h : MemoryOk r.1) : MemoryOk (walkPage ring r e).1 := by
  unfold walkPage
  dsimp only
  split
  · exact h
  · split
    · exact memoryOk_regFault h
    · exact memoryOk_stopCmd h
    · exact h

theorem memoryOk_walkAhead {s : State} {ring : Nat} {c : Cmd} {dst src : List Nat} (h : MemoryOk s) :
    MemoryOk (walkAhead s ring c dst src).1 :=
  foldl_keeps (P := fun r : State × Cmd => MemoryOk r.1) (fun _ _ hr => memoryOk_walkPage hr) _ h

theorem memoryOk_startWork {s : State} {ring : Nat} {c : Cmd} {p : Plan} (h : MemoryOk s)
    : MemoryOk (startWork s ring c p).1 := by
  unfold startWork
  dsimp only
  split
  · exact memoryOk_deniedError h
  · split
    · exact memoryOk_refuse h
    · exact memoryOk_walkAhead (memoryOk_chooseStaging h)

theorem memoryOk_beginMatrix {s : State} {ring : Nat} {c : Cmd} (h : MemoryOk s) : MemoryOk (beginMatrix s ring c).1 := by
  unfold beginMatrix
  split
  · exact memoryOk_stopCmd h
  · refine memoryOk_fst_ite (memoryOk_refuse h) ?_
    exact memoryOk_fst_ite h (memoryOk_fst_ite (memoryOk_startWork h) (memoryOk_startWork h))

theorem memoryOk_walkRecords {s : State} {ring : Nat} {c : Cmd} {dst src : List TRec} (h : MemoryOk s)
    : MemoryOk (walkRecords s ring c dst src).1 := by
  unfold walkRecords
  exact memoryOk_walkAhead h

theorem memoryOk_settleBegin {s : State} {ring : Nat} {c : Cmd} (h : MemoryOk s) : MemoryOk (settleBegin s ring c).1 := memoryOk_startWork h

theorem memoryOk_beginCopy {s : State} {ring : Nat} {c : Cmd} (h : MemoryOk s) : MemoryOk (beginCopy s ring c).1 := by
  unfold beginCopy
  split
  · exact memoryOk_stopCmd h
  · refine memoryOk_fst_ite (memoryOk_refuse h) ?_
    refine memoryOk_fst_ite ?_ (memoryOk_settleBegin h)
    refine memoryOk_fst_ite h ?_
    refine memoryOk_fst_ite ?_ ?_
    · exact foldl_keeps (P := fun r : State × _ => MemoryOk r.1) (fun r a hr => memoryOk_walkPage hr) _ h
    · split
      · exact memoryOk_stopCmd (foldl_keeps (P := fun r : State × _ => MemoryOk r.1) (fun r a hr => memoryOk_walkPage hr) _ h)
      · refine memoryOk_fst_ite ?_ ?_
        · exact foldl_keeps (P := fun r : State × _ => MemoryOk r.1) (fun r a hr => memoryOk_walkPage hr) _ h
        · exact memoryOk_refuse (foldl_keeps (P := fun r : State × _ => MemoryOk r.1) (fun r a hr => memoryOk_walkPage hr) _ h)

theorem memoryOk_beginGather {s : State} {ring : Nat} {c : Cmd} (h : MemoryOk s) : MemoryOk (beginGather s ring c).1 := by
  unfold beginGather
  split
  · exact memoryOk_stopCmd h
  · extract_lets a b i table packed bad shape fmt codes c'
    refine memoryOk_fst_ite (memoryOk_refuse h) ?_
    have hwalk : ∀ (m : Bool) d d' a a', MemoryOk (if m then walkRecords s ring c' d a else walkRecords s ring c' d' a').1 :=
      fun _ _ _ _ _ => memoryOk_fst_ite (memoryOk_walkRecords h) (memoryOk_walkRecords h)
    refine memoryOk_fst_ite (hwalk _ _ _ _ _) ?_
    split
    · exact memoryOk_stopCmd (hwalk _ _ _ _ _)
    · exact memoryOk_settleBegin (hwalk _ _ _ _ _)

theorem memoryOk_beginColl {s : State} {ring : Nat} {c : Cmd} (h : MemoryOk s) : MemoryOk (beginColl s ring c).1 := by
  have hwalk : ∀ c d a, MemoryOk (walkRecords s ring c d a).1 := fun _ _ _ => memoryOk_walkRecords h
  unfold beginColl
  split
  · exact memoryOk_stopCmd h
  · refine memoryOk_fst_ite (memoryOk_refuse h) (memoryOk_fst_ite (hwalk _ _ _) ?_)
    dsimp only
    split
    · exact memoryOk_stopCmd (hwalk _ _ _)
    · refine memoryOk_fst_ite (memoryOk_settleBegin (hwalk _ _ _)) ?_
      exact memoryOk_same rfl rfl (memoryOk_settleBegin (hwalk _ _ _))

theorem memoryOk_walkMore {s : State} {ring : Nat} {c : Cmd} (h : MemoryOk s) : MemoryOk (walkMore s ring c).1 := by
  unfold walkMore
  exact memoryOk_fst_ite h (memoryOk_fst_ite (memoryOk_walkAhead h) (memoryOk_walkAhead h))

theorem memoryOk_andWalk {ring : Nat} {r : State × Cmd} (h : MemoryOk r.1) : MemoryOk (andWalk ring r).1 := memoryOk_walkMore h

theorem memoryOk_beginOpt {s : State} {ring : Nat} {c : Cmd} (h : MemoryOk s) : MemoryOk (beginOpt s ring c).1 := by
  unfold beginOpt
  split
  · exact memoryOk_stopCmd h
  · extract_lets addrs
    split
    · exact memoryOk_stopCmd h
    · extract_lets r bad len same shape fmt cls codes c'
      refine memoryOk_fst_ite (memoryOk_refuse h) ?_
      have hwalk : ∀ b : Bool, MemoryOk (if b then (s, c') else walkRecords s ring c' [] [r 3, r 4]).1 :=
        fun _ => memoryOk_fst_ite h (memoryOk_walkRecords h)
      refine memoryOk_fst_ite (hwalk _) ?_
      split
      · exact memoryOk_stopCmd (hwalk _)
      · split
        · exact memoryOk_deniedError (hwalk _)
        · extract_lets q
          have hq : MemoryOk q.1 := memoryOk_chooseStaging (hwalk _)
          split
          · exact memoryOk_refuse (hwalk _)
          · exact hq

theorem memoryOk_beginSweep {s : State} {ring : Nat} {c : Cmd} (h : MemoryOk s) : MemoryOk (beginSweep s ring c).1 := by
  unfold beginSweep
  split
  · exact memoryOk_stopCmd h
  · refine memoryOk_fst_ite (memoryOk_refuse h) ?_
    refine memoryOk_fst_ite (memoryOk_refuse h) ?_
    split
    · exact memoryOk_deniedError h
    · exact h

theorem memoryOk_put {p : WordSpot} {va n v : Nat} {r : State × Cmd} (h : MemoryOk r.1) : MemoryOk (p.put va n v r).1 := by
  unfold WordSpot.put
  split
  · exact memoryOk_writeHome _ _ (memoryOk_tagWrite _ _ _ h)
  · exact h
  · exact h

theorem memoryOk_optStep {s : State} {ring : Nat} {c : Cmd} {row g : Nat × Nat} (h : MemoryOk s)
    : ResultOk (optStep s ring c row g) := by
  unfold optStep
  dsimp only
  split
  · exact .error
  · exact .error
  · split
    · exact .error
    · split
      · exact .ok h
      · exact .ok (memoryOk_put (memoryOk_put (memoryOk_put h)))

theorem memoryOk_optEnd {s : State} {ring : Nat} {c : Cmd} (h : MemoryOk s) : ResultOk (optEnd s ring c) := by
  unfold optEnd
  split
  · exact .error
  · dsimp only
    split
    · exact .error
    · exact .ok (memoryOk_applyBatch h)

theorem memoryOk_sweepStep {s : State} {ring : Nat} {c : Cmd} {x3 : Nat} (h : MemoryOk s)
    : ResultOk (sweepStep s ring c x3) := by
  unfold sweepStep
  split
  · exact .error
  · split
    · exact .ok h
    · dsimp only
      split
      · exact .ok h
      · exact .ok (memoryOk_put h)

theorem memoryOk_runSteps {α : Type} {f : State → Cmd → α → Except Stop (State × Cmd)} {ring : Nat} {s : State} {c : Cmd} {l : List α}
    (hf : ∀ s c x, MemoryOk s → ResultOk (f s c x)) (h : MemoryOk s) : MemoryOk (runSteps f ring s c l).1 := by
  induction l generalizing s c with
  | nil => exact h
  | cons x l ih =>
    unfold runSteps
    split
    · exact memoryOk_stopCmd h
    · next r hr =>
      have hok := hf s c x h
      rw [hr] at hok
      cases hok with
      | ok ht => exact ih ht

theorem memoryOk_goOn {s : State} {ring : Nat} {c : Cmd} (h : MemoryOk s) : MemoryOk (goOn s ring c).1 := by
  unfold goOn
  split
  · exact h
  · split
    · have hopt : ∀ l, MemoryOk (runSteps (fun s c (p : (Nat × Nat) × (Nat × Nat)) =>
          if (tensorRec (lget 0 c.recs 0)).vrows ≤ p.1.1 then .ok (s, { c with doneW := c.doneW + 1 }) else optStep s ring c p.1 p.2)
            ring s c l).1 := fun l => memoryOk_runSteps (fun s c p hs => by
        split
        · exact .ok hs
        · exact memoryOk_optStep hs) h
      dsimp only
      split
      · exact memoryOk_runSteps (fun s c _ hs => memoryOk_optEnd hs) (hopt _)
      · exact hopt _
    · exact memoryOk_runSteps (fun s c a hs => memoryOk_sweepStep hs) h

theorem memoryOk_beginEngine {s : State} {ring : Nat} {c : Cmd} (h : MemoryOk s) : MemoryOk (beginEngine s ring c).1 := by
  unfold beginEngine
  split
  · exact memoryOk_beginCopy h
  · exact memoryOk_beginGather h
  · exact memoryOk_beginGather h
  · exact memoryOk_beginColl h
  · exact memoryOk_fst_ite (memoryOk_andWalk (memoryOk_goOn (memoryOk_beginOpt h))) (memoryOk_beginOpt h)
  · exact memoryOk_fst_ite (memoryOk_andWalk (memoryOk_goOn (memoryOk_beginSweep h))) (memoryOk_beginSweep h)

theorem memoryOk_engineBegin {s : State} {cid ring : Nat} (h : MemoryOk s) : MemoryOk (engineBegin s cid ring) := by
  unfold engineBegin
  split
  · exact h
  · refine memoryOk_ite h ?_
    refine memoryOk_ite ?_ ?_
    · exact memoryOk_concludeAll (memoryOk_putHead (memoryOk_beginEngine h))
    · exact memoryOk_ite (memoryOk_concludeAll (memoryOk_putHead (memoryOk_andWalk (memoryOk_goOn h)))) h

theorem memoryOk_pointsThrow {s : State} {cid ring : Nat} (h : MemoryOk s) : MemoryOk (pointsThrow s cid ring) := by
  unfold pointsThrow
  split
  · exact h
  · split
    · exact h
    · refine memoryOk_ite h ?_
      dsimp only
      split
      · exact memoryOk_concludeAll (memoryOk_putHead (memoryOk_stopCmd h))
      · exact memoryOk_concludeAll (memoryOk_putHead (memoryOk_andWalk (memoryOk_applyBatch h)))

theorem memoryOk_landWorks {s : State} {cid ring : Nat} {c : Cmd} {p : Plan} {ws : List Work} (h : MemoryOk s)
    : MemoryOk (landWorks s cid ring c p ws) := by
  unfold landWorks
  refine memoryOk_concludeAll ?_
  exact memoryOk_concludeAll (memoryOk_arriveWord (memoryOk_putHead (memoryOk_andWalk (memoryOk_applyBatch h))))

theorem memoryOk_arriveLanding {s : State} {cid ring n : Nat} (h : MemoryOk s) : MemoryOk (arriveLanding s cid ring n) := by
  unfold arriveLanding
  split
  · exact h
  · refine memoryOk_ite h ?_
    refine memoryOk_ite h ?_
    dsimp only
    split
    · exact memoryOk_landWorks h
    · exact memoryOk_ite (memoryOk_concludeAll (memoryOk_putHead (memoryOk_stopCmd h))) (memoryOk_landWorks h)

theorem memoryOk_accept {s : State} {core : Nat} {c : Cmd} (h : MemoryOk s) : MemoryOk (accept s core c) := by
  unfold accept
  exact memoryOk_modC h

theorem memoryOk_matrixTrap {s : State} {k : Nat} {e : Exec} (h : MemoryOk s) : MemoryOk (matrixTrap s k e) := by
  unfold matrixTrap
  exact memoryOk_meetCause h

theorem memoryOk_matrixBody {f : Form} {x y z : SReg} {counted : Bool} {s : State} {k : Nat} {w : Wave} {e : Exec}
    (h : MemoryOk s) : MemoryOk (matrixBody f x y z counted s k w e) := by
  unfold matrixBody
  exact memoryOk_ite (memoryOk_setW h) (memoryOk_ite (memoryOk_matrixTrap h) (memoryOk_accept (memoryOk_setW h)))

theorem memoryOk_tdescBody {f : Form} {x y z : SReg} {mods : Nat} {s : State} {k : Nat} {w : Wave} {e : Exec} (h : MemoryOk s) :
    MemoryOk (tdescBody f x y z mods s k w e) := by
  unfold tdescBody
  split
  · exact h
  · dsimp only
    refine memoryOk_scalarMem (fun pl => ?_) h
    have hgo : ∀ (s' : State) v v', s'.mem = s.mem → s'.hostMem = s.hostMem →
        MemoryOk (if isRemote pl then setW s' k v else setW s' k v') := fun s' v v' hm hh => by
      split
      · exact memoryOk_setW (memoryOk_same hm hh h)
      · exact memoryOk_setW (memoryOk_same hm hh h)
    split
    · exact memoryOk_askFar h
    · next v _ =>
      generalize (if tst mods 0 then _ else (tensorRec v).base) = base
      split
      · exact hgo _ _ _ rfl rfl
      · split
        · exact memoryOk_accessTrap h
        · split
          · exact memoryOk_accessTrap h
          · split
            · exact hgo _ _ _ rfl rfl
            · exact memoryOk_toSiding h
            · exact memoryOk_freezeWave h

theorem memoryOk_appendCmd {f : Form} {eng : Nat} {q : Consist} {x y z : W64} {follow : Option Nat} {s : State} {k : Nat}
    {w : Wave} {e : Exec} (h : MemoryOk s) : MemoryOk (appendCmd f eng q x y z follow s k w e) := by
  unfold appendCmd
  exact memoryOk_engineWrite (memoryOk_modX (memoryOk_setW h))

theorem memoryOk_engineBody {f : Form} {eng : Nat} {x y z : SReg} {more : Consist → W64 → W64 → W64 → State → Nat → Wave → Exec → State}
    {s : State} {k : Nat} {w : Wave} {e : Exec} (hmore : ∀ q a b c, MemoryOk (more q a b c s k w e)) (h : MemoryOk s) :
    MemoryOk (engineBody f eng x y z more s k w e) := by
  unfold engineBody
  dsimp only
  split
  · exact h
  · split
    · exact h
    · exact hmore _ _ _ _

theorem memoryOk_copyIssue {f : Form} {eng : Nat} {q : Consist} {x y z : W64} {s : State} {k : Nat} {w : Wave} {e : Exec}
    (h : MemoryOk s) : MemoryOk (copyIssue f eng q x y z s k w e) := by
  unfold copyIssue
  split
  · exact memoryOk_appendCmd h
  · refine memoryOk_scalarMem (fun pl => ?_) h
    split
    · exact memoryOk_appendCmd (memoryOk_addCause (memoryOk_chargeError (memoryOk_poisonGranule _ h)))
    · split
      · exact memoryOk_askFar h
      · exact memoryOk_appendCmd h

theorem memoryOk_publishBody {f : Form} {x : SReg} {s : State} {k : Nat} {w : Wave} {e : Exec} (h : MemoryOk s)
    : MemoryOk (publishBody f x s k w e) := by
  unfold publishBody
  exact memoryOk_ite (memoryOk_setW h) (memoryOk_ite (memoryOk_setW h) (memoryOk_setW h))

theorem memoryOk_eseqBody {f : Form} {x : SReg} {eng : Nat} {last : Bool} {s : State} {k : Nat} {w : Wave} {e : Exec}
    (h : MemoryOk s) : MemoryOk (eseqBody f x eng last s k w e) := by
  unfold eseqBody
  refine memoryOk_ite (memoryOk_setW h) ?_
  split
  · exact memoryOk_setW h
  · exact memoryOk_setW h

theorem memoryOk_ewaitBody {f : Form} {x : SReg} {eng : Nat} {s : State} {k : Nat} {w : Wave} {e : Exec} (h : MemoryOk s)
    : MemoryOk (ewaitBody f x eng s k w e) := by
  unfold ewaitBody
  refine memoryOk_ite (memoryOk_setW h) ?_
  split
  · dsimp only
    split
    · exact memoryOk_setW h
    · exact memoryOk_ite (memoryOk_setW h) (memoryOk_setW h)
  · dsimp only
    split
    · exact memoryOk_setW h
    · exact memoryOk_ite (memoryOk_setW h) (memoryOk_setW h)

theorem memoryOk_engineWriteLong {s : State} {con va : Nat} {bs : List Byte} {unit : Nat} {c : Cmd} (h : MemoryOk s) :
    MemoryOk (engineWriteLong s con va bs unit c) :=
  foldl_keeps (P := fun r : State × List Byte => MemoryOk r.1) (fun _ _ hr => memoryOk_engineWrite hr) _ h

theorem memoryOk_writeImage {s : State} {cid va n : Nat} {img : FMap Byte} (h : MemoryOk s)
    : MemoryOk (writeImage s cid va n img) := by
  unfold writeImage
  refine foldl_keeps (P := MemoryOk) (fun s a hs => ?_) _ h
  split
  · exact foldl_keeps (P := MemoryOk) (fun s a hs => memoryOk_putImage _ _ _ _ hs) _ hs
  · exact memoryOk_devError _ _ _ _ _ hs
  · exact memoryOk_violEntry hs
  · exact memoryOk_sbPut _ _ hs

theorem memoryOk_readConsists {s : State} {cid : Nat} (h : MemoryOk s) : MemoryOk (readConsists s cid) := by
  unfold readConsists
  split
  · exact h
  · split
    · exact h
    · exact memoryOk_modX h

theorem memoryOk_refreshContext {s : State} {cid : Nat} (h : MemoryOk s) : MemoryOk (refreshContext s cid) := by
  unfold refreshContext
  split
  · exact h
  · split
    · exact h
    · exact memoryOk_readConsists (memoryOk_ite (memoryOk_modX h) h)

theorem memoryOk_fillTable {s : State} {core cid : Nat} (h : MemoryOk s) : MemoryOk (fillTable s core cid) := by
  unfold fillTable
  exact memoryOk_ite h (memoryOk_modC h)

theorem memoryOk_showShadow {s : State} {c : Cmd} (h : MemoryOk s) : MemoryOk (showShadow s c) := by
  unfold showShadow
  exact memoryOk_throwBytes (foldl_keeps (P := MemoryOk) (fun s a hs => memoryOk_inherit _ _ hs) _ h)

theorem memoryOk_finishTable {s : State} {con : Nat} {c : Cmd} (h : MemoryOk s) : MemoryOk (finishTable s con c) := by
  unfold finishTable
  split
  · exact h
  · dsimp only
    split
    · exact memoryOk_modX h
    · exact memoryOk_engineWriteLong (memoryOk_modX h)

theorem memoryOk_milepost {s : State} {cid con : Nat} (h : MemoryOk s) : MemoryOk (milepost s cid con) := by
  unfold milepost
  split
  · next c q _ _ =>
    refine memoryOk_ite h ?_
    extract_lets count shown table popped stat word noted flagged counted cleared sent
    have htable : MemoryOk table := memoryOk_ite (memoryOk_finishTable (memoryOk_showShadow h)) (memoryOk_showShadow h)
    have hword : MemoryOk word := memoryOk_engineWrite (memoryOk_engineWrite (memoryOk_modX htable))
    have hflagged : MemoryOk flagged := memoryOk_cmdFlags (memoryOk_ite (memoryOk_cmdError hword) hword)
    have hcounted : MemoryOk counted := by
      unfold counted
      split
      · exact memoryOk_countEverywhere hflagged
      · exact hflagged
    have hcleared : MemoryOk cleared := memoryOk_clearWaits hcounted
    exact memoryOk_concludeAll (memoryOk_ite hcleared (memoryOk_clearWaits hcleared))
  · exact h

theorem memoryOk_countFollow {s : State} {c : Cmd} {id : Nat} (h : MemoryOk s) : MemoryOk (countFollow s c id) := by
  unfold countFollow
  split
  · exact memoryOk_setW h
  · exact memoryOk_modSaved h

theorem memoryOk_followOn {s : State} {cid con : Nat} (h : MemoryOk s) : MemoryOk (followOn s cid con) := by
  unfold followOn
  split
  · exact h
  · split
    · exact h
    · refine memoryOk_ite h ?_
      refine memoryOk_ite ?_ ?_
      · exact memoryOk_concludeAll (memoryOk_putHead (memoryOk_cmdError h))
      · exact memoryOk_ite h (memoryOk_accept (memoryOk_putHead (memoryOk_ite (memoryOk_countFollow h) h)))

theorem memoryOk_putQueue {s : State} {core queue : Nat} {l : List Cmd} (h : MemoryOk s)
    : MemoryOk (putQueue s core queue l) := by
  unfold putQueue
  exact memoryOk_modC h

theorem memoryOk_stage {s : State} {ring : Nat} {c : Cmd} (h : MemoryOk s) : MemoryOk (stage s ring c).1 := by
  unfold stage
  refine memoryOk_andWalk ?_
  split
  · exact memoryOk_stopCmd (memoryOk_applyBatch h)
  · exact memoryOk_applyBatch h

theorem memoryOk_queueStart {s : State} {core queue : Nat} (h : MemoryOk s) : MemoryOk (queueStart s core queue) := by
  unfold queueStart
  dsimp only
  split
  · exact h
  · refine memoryOk_ite h ?_
    refine memoryOk_concludeAll ?_
    refine memoryOk_putQueue ?_
    refine memoryOk_fst_ite ?_ (memoryOk_fst_ite h (memoryOk_beginMatrix h))
    exact memoryOk_stage (memoryOk_fst_ite h (memoryOk_beginMatrix h))

theorem memoryOk_lowerOwn {s : State} {c : Cmd} (h : MemoryOk s) : MemoryOk (lowerOwn s c) := by
  unfold lowerOwn
  split
  · exact memoryOk_setW h
  · exact h

theorem memoryOk_matrixComplete {s : State} {core queue : Nat} (h : MemoryOk s) : MemoryOk (matrixComplete s core queue) := by
  unfold matrixComplete
  split
  · exact h
  · refine memoryOk_ite h ?_
    refine memoryOk_concludeAll ?_
    split
    · refine memoryOk_clearWaits ?_
      split
      · exact memoryOk_countEverywhere (memoryOk_cmdFlags (memoryOk_putQueue (memoryOk_showShadow h)))
      · exact memoryOk_cmdFlags (memoryOk_putQueue (memoryOk_showShadow h))
    · refine memoryOk_lowerOwn ?_
      split
      · exact memoryOk_countEverywhere (memoryOk_cmdFlags (memoryOk_putQueue (memoryOk_showShadow h)))
      · exact memoryOk_cmdFlags (memoryOk_putQueue (memoryOk_showShadow h))

theorem memoryOk_tableSwitch {s : State} {cid ring core : Nat} (h : MemoryOk s) : MemoryOk (tableSwitch s cid ring core) := by
  unfold tableSwitch
  split
  · split
    · exact h
    · exact memoryOk_ite h (memoryOk_modC h)
  · exact h

theorem memoryOk_collGive {part group cseq : Nat} {agree : Bool} {datas : List (List Nat)} {s : State} {x : Coll}
    (h : MemoryOk s) : MemoryOk (collGive part group cseq agree datas s x) := by
  unfold collGive
  split
  · exact h
  · exact memoryOk_ite h (memoryOk_ite (memoryOk_putHead h) (memoryOk_putHead (memoryOk_refuse h)))

theorem memoryOk_collectiveRun {s : State} {part group cseq : Nat} (h : MemoryOk s)
    : MemoryOk (collectiveRun s part group cseq) := by
  unfold collectiveRun
  dsimp only
  split
  · exact memoryOk_ite h (memoryOk_concludeAll (foldl_keeps (P := MemoryOk) (fun s a hs => memoryOk_collGive hs) _ h))
  · exact h

theorem memoryOk_switchGroup {s : State} {owner : Nat} (h : MemoryOk s) : MemoryOk (switchGroup s owner).1 := by
  unfold switchGroup
  refine foldl_keeps (P := MemoryOk) (fun s a hs => ?_) _ h
  exact memoryOk_ite (foldl_keeps (P := MemoryOk) (fun s a hs => memoryOk_inherit _ _ hs) _ hs) hs

theorem memoryOk_publishAnswer {s : State} {k id v : Nat} (h : MemoryOk s) : MemoryOk (publishAnswer s k id v) := by
  unfold publishAnswer
  exact memoryOk_conclude (memoryOk_countEverywhere (memoryOk_modW h))

theorem memoryOk_publishSwitch {s : State} {k id : Nat} (h : MemoryOk s) : MemoryOk (publishSwitch s k id) := by
  unfold publishSwitch
  split
  · exact memoryOk_ite h (memoryOk_ite (memoryOk_publishAnswer h) (memoryOk_publishAnswer (memoryOk_switchGroup h)))
  · exact h

end Sys2Proof.Proofs.Keeps
end

section
/-! PROOFS. What the operations of the schedulers, of fault service and of the host keep memory canonical (log 3). Each function of the model that writes
memory does so through the writers of `Laws`; the lemmas follow the branches of the definitions, in the order of the model. -/

set_option Elab.async false -- one proof at a time: the check bounds memory

namespace Sys2Proof.Proofs.Keeps

open Sys2Proof Sys2Proof.Machine Sys2Proof.Laws

theorem memoryOk_popQueue {s : State} {n j : Nat} (h : MemoryOk s) : MemoryOk (popQueue s n j) := by
  unfold popQueue
  exact memoryOk_modL h

theorem memoryOk_claimHead {s : State} {n j : Nat} {l : Launch} (h : MemoryOk s) : MemoryOk (claimHead s n j l) := by
  unfold claimHead
  split
  · exact h
  · refine memoryOk_ite ?_ ?_
    · exact foldl_keeps (P := MemoryOk) (fun s a hs => memoryOk_modU hs) _ (memoryOk_modL h)
    · refine foldl_keeps (P := MemoryOk) (fun s a hs => ?_) _ (memoryOk_popQueue h)
      exact hs

theorem memoryOk_junctionClaim {s : State} {j n : Nat} (h : MemoryOk s) : MemoryOk (junctionClaim s j n) := by
  unfold junctionClaim
  split
  · exact h
  · exact memoryOk_ite h (memoryOk_claimHead h)

theorem memoryOk_stealRequest {s : State} {j n : Nat} (h : MemoryOk s) : MemoryOk (stealRequest s j n) := by
  unfold stealRequest
  split
  · exact h
  · exact memoryOk_ite h (memoryOk_modL h)

theorem memoryOk_stealReply {s : State} {victim j n : Nat} (h : MemoryOk s) : MemoryOk (stealReply s victim j n) := by
  unfold stealReply
  split
  · exact h
  · split
    · exact h
    · refine memoryOk_ite h ?_
      dsimp only
      split
      · exact memoryOk_modL h
      · exact memoryOk_modL h

theorem memoryOk_settlePlaced {n : Nat} {s : State} {u : Nat} {p : Placed} {st : UState}
    {bind : LUnit → Nat × Nat → Machine.Bind} (h : MemoryOk s) : MemoryOk (settlePlaced n s u p st bind) := by
  unfold settlePlaced
  dsimp only
  split
  · exact memoryOk_modU h
  · exact memoryOk_modL h

theorem memoryOk_retireRefused {s : State} {u : Nat} (h : MemoryOk s) : MemoryOk (retireRefused s u) := by
  unfold retireRefused
  split
  · exact h
  · exact memoryOk_ite h (memoryOk_modU h)

theorem memoryOk_clearRefused {s : State} {u : Nat} (h : MemoryOk s) : MemoryOk (clearRefused s u) := by
  unfold clearRefused
  exact memoryOk_finishUnit h

theorem memoryOk_unitPlacement {s : State} {j n : Nat} (h : MemoryOk s) : MemoryOk (unitPlacement s j n) := by
  unfold unitPlacement
  split
  · exact h
  · refine memoryOk_ite ?_ ?_
    · refine foldl_keeps (P := MemoryOk) (fun s a hs => ?_) _ h
      split
      · exact memoryOk_retireRefused hs
      · exact memoryOk_clearRefused hs
    · refine memoryOk_ite h ?_
      split
      · exact h
      · exact memoryOk_modL (foldl_keeps (P := MemoryOk) (fun s a hs => memoryOk_settlePlaced hs) _ h)

theorem memoryOk_settleResumed {n : Nat} {l : Launch} {s : State} {u : Nat} {p : Placed} (h : MemoryOk s)
    : MemoryOk (settleResumed n l s u p) := by
  unfold settleResumed
  split
  · exact h
  · exact memoryOk_modU (memoryOk_settlePlaced h)

theorem memoryOk_unitResume {s : State} {u : Nat} (h : MemoryOk s) : MemoryOk (unitResume s u) := by
  unfold unitResume
  split
  · exact h
  · split
    · exact h
    · refine memoryOk_ite (memoryOk_retireRefused h) ?_
      refine memoryOk_ite h ?_
      split
      · exact h
      · refine memoryOk_ite h ?_
        refine memoryOk_modL ?_
        exact foldl_keeps (P := MemoryOk) (fun s a hs => memoryOk_settleResumed hs) _ (memoryOk_refreshContext h)

theorem memoryOk_chargeUnit {s : State} {b : Machine.Bind} {again : Bool} (h : MemoryOk s)
    : MemoryOk (chargeUnit s b again) := by
  unfold chargeUnit
  split
  · exact h
  · exact memoryOk_ite h (memoryOk_ite (memoryOk_modU h) (memoryOk_modC (memoryOk_modU h)))

theorem memoryOk_dispatch {s : State} {key : Nat} (h : MemoryOk s) : MemoryOk (dispatch s key) := by
  unfold dispatch
  split
  · exact h
  · split
    · refine memoryOk_ite h ?_
      refine memoryOk_ite h ?_
      refine memoryOk_ite ?_ ?_
      · exact memoryOk_cancelWave (memoryOk_setW (memoryOk_fillTable (memoryOk_chargeUnit h)))
      · refine memoryOk_ite ?_ ?_
        · exact memoryOk_afterDet (memoryOk_setW (memoryOk_fillTable (memoryOk_chargeUnit h)))
        · split
          · exact memoryOk_fillTable (memoryOk_chargeUnit h)
          · exact memoryOk_afterDet (memoryOk_enterTrap (memoryOk_setW (memoryOk_fillTable (memoryOk_chargeUnit h))))
    · exact h

theorem memoryOk_priorityAging {s : State} {n : Nat} (h : MemoryOk s) : MemoryOk (priorityAging s n) := by
  unfold priorityAging
  exact memoryOk_modL h

theorem memoryOk_requestUnit {s : State} {u : Nat} (h : MemoryOk s) : MemoryOk (requestUnit s u) := by
  unfold requestUnit
  split
  · exact h
  · exact memoryOk_ite h h

theorem memoryOk_preemptionDecision {s : State} {n : Nat} (h : MemoryOk s) : MemoryOk (preemptionDecision s n) := by
  unfold preemptionDecision
  split
  · exact h
  · refine memoryOk_ite h ?_
    split
    · exact h
    · exact foldl_keeps (P := MemoryOk) (fun s a hs => memoryOk_requestUnit hs) _ h

theorem memoryOk_digestEntry {s : State} {l : Launch} {free serial : W64} {sub : Nat} (h : MemoryOk s)
    : MemoryOk (digestEntry s l free serial sub) := by
  unfold digestEntry
  exact memoryOk_ringEntry h

theorem memoryOk_timeLimit {s : State} {n : Nat} (h : MemoryOk s) : MemoryOk (timeLimit s n) := by
  unfold timeLimit
  split
  · exact h
  · refine memoryOk_ite h ?_
    split
    · exact memoryOk_endLaunch (memoryOk_cancelLaunch h)
    · exact memoryOk_endLaunch (memoryOk_digestEntry (memoryOk_cancelLaunch h))

theorem memoryOk_serialise {s : State} {n : Nat} {free : W64} (h : MemoryOk s) : MemoryOk (serialise s n free) := by
  unfold serialise
  exact memoryOk_modL h

theorem memoryOk_launchComplete {s : State} {n : Nat} (h : MemoryOk s) : MemoryOk (launchComplete s n) := by
  unfold launchComplete
  split
  · exact h
  · split
    · exact memoryOk_ite h (memoryOk_closeLaunch h)
    · refine memoryOk_ite h ?_
      exact memoryOk_ite (memoryOk_closeLaunch h) (memoryOk_ite (memoryOk_closeLaunch h) (memoryOk_serialise h))
    · exact h

theorem memoryOk_serialEnd {s : State} {n : Nat} (h : MemoryOk s) : MemoryOk (serialEnd s n) := by
  unfold serialEnd
  split
  · exact h
  · split
    · exact h
    · exact memoryOk_ite h (memoryOk_closeLaunch (memoryOk_digestEntry h))

theorem memoryOk_startSave {s : State} {k : Nat} (h : MemoryOk s) : MemoryOk (startSave s k) := by
  unfold startSave
  split
  · exact h
  · exact memoryOk_enterTrap (memoryOk_modC (memoryOk_setW h))

theorem memoryOk_preemptSampler {s : State} {core cid : Nat} (h : MemoryOk s) : MemoryOk (preemptSampler s core cid) := by
  unfold preemptSampler
  split
  · exact h
  · exact memoryOk_ite h (memoryOk_modC (memoryOk_samplerReport (memoryOk_flushSamples h)))

theorem memoryOk_handlersStart {s : State} {u : Nat} (h : MemoryOk s) : MemoryOk (handlersStart s u) := by
  unfold handlersStart
  split
  · exact h
  · refine memoryOk_ite h ?_
    refine foldl_keeps (P := MemoryOk) (fun s a hs => memoryOk_startSave hs) _ ?_
    exact memoryOk_ite (memoryOk_writeImage (memoryOk_modU (memoryOk_preemptSampler h))) (memoryOk_preemptSampler h)

theorem memoryOk_unitLeaves {s : State} {u : Nat} (h : MemoryOk s) : MemoryOk (unitLeaves s u) := by
  unfold unitLeaves
  split
  · exact h
  · refine memoryOk_ite h ?_
    refine memoryOk_ite ?_ ?_
    · exact memoryOk_settleDet (memoryOk_requeue (memoryOk_modC (memoryOk_modU h)))
    · exact memoryOk_requeue (memoryOk_modC (memoryOk_modU h))

theorem memoryOk_waveLeaves {s : State} {k : Nat} (h : MemoryOk s) : MemoryOk (waveLeaves s k) := by
  unfold waveLeaves
  split
  · exact h
  · exact memoryOk_ite h (memoryOk_unitLeaves h)

theorem memoryOk_resumeRelease {s : State} {u : Nat} (h : MemoryOk s) : MemoryOk (resumeRelease s u) := by
  unfold resumeRelease
  split
  · exact h
  · refine memoryOk_ite h ?_
    refine memoryOk_ite (memoryOk_refuseReslice h) ?_
    refine memoryOk_concludeAll ?_
    refine foldl_keeps (P := MemoryOk) (fun s a hs => memoryOk_modW hs) _ ?_
    exact foldl_keeps (P := MemoryOk) (fun s a hs => memoryOk_returnTrap hs) _ (memoryOk_modU h)

theorem memoryOk_unmapPage {s : State} {cid : Nat} {c : Context} {page : Nat} (h : MemoryOk s)
    : MemoryOk (unmapPage s cid c page) := by
  unfold unmapPage
  split
  · exact h
  · exact memoryOk_ite (memoryOk_writeHome _ _ h) h

theorem memoryOk_codeRetire {s : State} {cid epoch : Nat} (h : MemoryOk s) : MemoryOk (codeRetire s cid epoch) := by
  unfold codeRetire
  split
  · exact h
  · split
    · exact h
    · refine memoryOk_ite h ?_
      exact memoryOk_finishRequest (memoryOk_modX (foldl_keeps (P := MemoryOk) (fun s a hs => memoryOk_unmapPage hs) _ h))

theorem memoryOk_tlbFill {s : State} {tlb cid va : Nat} (h : MemoryOk s) : MemoryOk (tlbFill s tlb cid va) := by
  unfold tlbFill
  split
  · exact h
  · refine memoryOk_ite h ?_
    split
    · split
      · exact memoryOk_modC h
      · exact h
    · split
      · exact h
      · exact h

theorem memoryOk_invalidateDone {s : State} {id : Nat} (h : MemoryOk s) : MemoryOk (invalidateDone s id) := by
  unfold invalidateDone
  split
  · exact h
  · exact memoryOk_ite h (memoryOk_finishRequest (memoryOk_sysWrite _ _ h))

theorem memoryOk_renameAll {s : State} {old new : Nat} (h : MemoryOk s) : MemoryOk (renameAll s old new) := h

theorem memoryOk_heldOpen {s : State} {part : Nat} (h : MemoryOk s) : MemoryOk (heldOpen s part) := by
  unfold heldOpen
  split
  · exact h
  · split
    · exact h
    · split
      · exact memoryOk_renameAll (memoryOk_mergeFault h)
      · exact memoryOk_ite (memoryOk_renameAll (memoryOk_openRecord h)) h

theorem memoryOk_sharedWrite {s : State} {mcid : Nat} {k : Shared} {l : Lane} (h : MemoryOk s) : MemoryOk (sharedWrite s mcid k l) := by
  unfold sharedWrite
  extract_lets put op v
  have hput : ∀ data, MemoryOk (put s data) := fun data => by
    have htag := memoryOk_tagWrite mcid k.core (devPieces s l.place k.size l.va) h
    unfold put
    split
    · exact memoryOk_writeHome _ _ htag
    · exact foldl_keeps (P := MemoryOk) (fun _ _ hs => memoryOk_writeHome _ _ hs) _ htag
    · exact memoryOk_writeHome _ _ htag
    · exact htag
  refine memoryOk_ite (hput _) (memoryOk_ite (hput _) (memoryOk_ite ?_ h))
  exact memoryOk_ite h (memoryOk_ite (hput _) (hput _))

theorem memoryOk_takeInbox {s : State} {msg : List Nat} (h : MemoryOk s) : OptionOk (takeInbox s msg) :=
  OptionOk.map fun _ => h

theorem memoryOk_ownerAccess {s : State} {mcid va ssn kind data : Nat} (h : MemoryOk s)
    : OptionOk (ownerAccess s mcid va ssn kind data) := by
  unfold ownerAccess
  dsimp only
  split
  · exact .some (memoryOk_devError _ _ _ _ _ h)
  · split
    · exact .none
    · split
      · exact .some (memoryOk_poisonGranule _ h)
      · exact .some (memoryOk_sharedWrite h)

theorem memoryOk_ownerTurn {s : State} {dev mcid va ssn kind data : Nat} (h : MemoryOk s) :
    MemoryOk (ownerTurn s dev mcid va ssn kind data) :=
  OptionOk.getD ((memoryOk_takeInbox h).bind fun _ ht => memoryOk_ownerAccess ht) h

theorem memoryOk_laneAnswer {s : State} {came : Bool} {k id tid ok data : Nat} (h : MemoryOk s)
    : OptionOk (laneAnswer s came k id tid ok data) := by
  unfold laneAnswer
  split
  · exact .some h
  · split
    · exact .some h
    · split
      · split
        · exact .some h
        · split
          · exact .none
          · exact .some (memoryOk_ite (memoryOk_conclude (memoryOk_landHeld (memoryOk_setW h))) (memoryOk_setW h))
      · exact .some h

theorem memoryOk_farWriteBad {s : State} {c : Cmd} {va g : Nat} (h : MemoryOk s) : MemoryOk (farWriteBad s c va g) := by
  unfold farWriteBad
  dsimp only
  split
  · exact memoryOk_addCause (memoryOk_chargeMemory h)
  · exact memoryOk_chargeMemory h

theorem memoryOk_commandAnswer {s : State} {came : Bool} {ring : Nat} {c : Cmd} {key ok data : Nat} (h : MemoryOk s) :
    ∀ r, commandAnswer s came ring c key ok data = some r → MemoryOk r.1 := by
  intro r hr
  unfold commandAnswer at hr
  dsimp only at hr
  split at hr
  · cases hr
    exact h
  · split at hr
    · cases hr
      exact h
    · split at hr
      · cases hr
        exact h
      · split at hr
        · cases hr
        · have hr := Option.some.inj hr
          subst hr
          split
          · exact h
          · split
            · split
              · exact memoryOk_farWriteBad h
              · exact memoryOk_stopCmd h
            · exact memoryOk_regFault h

theorem memoryOk_readAnswer {s : State} {came : Bool} {k va kind ok data : Nat} (h : MemoryOk s) :
    MemoryOk (readAnswer s came k va kind ok data) := by
  unfold readAnswer
  split
  · exact h
  · extract_lets asked outcome
    clear_value asked outcome
    split
    · extract_lets others up
      refine memoryOk_ite (memoryOk_ite h ?_) (memoryOk_ite (memoryOk_handlerFault h) (memoryOk_toSiding h))
      exact memoryOk_addCause (memoryOk_chargeError h)
    · exact h

theorem memoryOk_ownerAnswer {s : State} {came : Bool} {wave id tid ok data : Nat} (h : MemoryOk s) :
    OptionOk (ownerAnswer s came wave id tid ok data) := by
  unfold ownerAnswer
  split
  · split
    · exact memoryOk_laneAnswer h
    · exact .some (memoryOk_conclude (memoryOk_readAnswer h))
  · dsimp only
    split
    · split
      · exact .some h
      · next c _ =>
        cases hc : commandAnswer s came _ c id ok data with
        | none => exact .none
        | some r => exact .some (memoryOk_concludeAll (memoryOk_putHead (memoryOk_commandAnswer h _ hc)))
    · split
      · exact .some h
      · next c l _ =>
        cases hc : commandAnswer s came _ c id ok data with
        | none => exact .none
        | some r => exact .some (memoryOk_putQueue (memoryOk_commandAnswer h _ hc))

theorem memoryOk_answerTurn {s : State} {wave id tid ok data : Nat} (h : MemoryOk s) : MemoryOk (answerTurn s wave id tid ok data) := by
  have hin := memoryOk_takeInbox (msg := [5, wave, id, tid, ok, data]) h
  unfold answerTurn
  split
  · next t ht =>
    rw [ht] at hin
    cases hin with
    | some hok => exact (memoryOk_ownerAnswer hok).getD h
  · split
    · exact (memoryOk_ownerAnswer h).getD h
    · exact h

theorem memoryOk_evictedGranule {cid core : Nat} {s : State} {g : Nat} (h : MemoryOk s)
    : MemoryOk (evictedGranule cid core s g) := by
  unfold evictedGranule
  refine memoryOk_ite ?_ (memoryOk_ringEntry (memoryOk_poisonGranule _ h))
  exact memoryOk_devError _ _ _ _ _ (memoryOk_poisonGranule _ h)

theorem memoryOk_evictLine {s : State} {bad : List Nat} {line : Nat} (h : MemoryOk s) : MemoryOk (evictLine s bad line) := by
  unfold evictLine
  split
  · exact h
  · exact foldl_keeps (P := MemoryOk) (fun s a hs => memoryOk_evictedGranule hs) _ h

theorem memoryOk_lineEviction {s : State} {g : Nat} (h : MemoryOk s) : MemoryOk (lineEviction s g) := by
  unfold lineEviction
  exact memoryOk_ite (memoryOk_evictLine h) (memoryOk_ite (memoryOk_evictLine h) h)

theorem memoryOk_countEvents {s : State} {key n : Nat} (h : MemoryOk s) : MemoryOk (countEvents s key n) := by
  unfold countEvents
  exact memoryOk_ite (memoryOk_devError _ _ _ _ _ (memoryOk_event _ _ _ _ h)) h

theorem memoryOk_endWindow {s : State} {win : Nat} (h : MemoryOk s) : MemoryOk (endWindow s win) := h

theorem memoryOk_scrubFound {s : State} {g : Nat} (h : MemoryOk s) : MemoryOk (scrubFound s g) := by
  unfold scrubFound
  exact memoryOk_ite (memoryOk_devError _ _ _ _ _ (memoryOk_poisonGranule _ h)) h

theorem memoryOk_scrubPass {s : State} {pile g unit n : Nat} (h : MemoryOk s) : MemoryOk (scrubPass s pile g unit n) := by
  unfold scrubPass
  refine memoryOk_ite ?_ ?_
  · refine memoryOk_endWindow ?_
    refine memoryOk_ite ?_ (memoryOk_scrubFound h)
    refine memoryOk_ite (memoryOk_countEvents (memoryOk_scrubFound h)) ?_
    exact memoryOk_countEvents (memoryOk_countEvents (memoryOk_scrubFound h))
  · refine memoryOk_ite ?_ (memoryOk_scrubFound h)
    refine memoryOk_ite (memoryOk_countEvents (memoryOk_scrubFound h)) ?_
    exact memoryOk_countEvents (memoryOk_countEvents (memoryOk_scrubFound h))

theorem memoryOk_predictiveWindow {s : State} {unit n : Nat} (h : MemoryOk s) : MemoryOk (predictiveWindow s unit n) := by
  unfold predictiveWindow
  exact memoryOk_ite (memoryOk_ite h (memoryOk_countEvents h)) (memoryOk_endWindow (memoryOk_ite h (memoryOk_countEvents h)))

theorem memoryOk_putHostQueue {s : State} {fn queue : Nat} {q : Queue} (h : MemoryOk s)
    : MemoryOk (putHostQueue s fn queue q) := h

theorem memoryOk_doorbell {s : State} {fn queue value : Nat} {relaxed : Bool} (h : MemoryOk s)
    : MemoryOk (doorbell s fn queue value relaxed) := by
  unfold doorbell
  split
  · exact h
  · split
    · exact h
    · refine memoryOk_ite h ?_
      exact memoryOk_ite (memoryOk_devError _ _ _ _ _ h) (memoryOk_ite (memoryOk_putHostQueue h) (memoryOk_putHostQueue h))

theorem memoryOk_barWrite {s : State} {fn reg value : Nat} (h : MemoryOk s) : MemoryOk (barWrite s fn reg value) := by
  unfold barWrite
  split
  · exact h
  · split
    · exact h
    · refine memoryOk_ite h ?_
      refine memoryOk_ite (memoryOk_ite h (memoryOk_putHostQueue h)) ?_
      exact memoryOk_ite (memoryOk_ite h h) (memoryOk_ite (memoryOk_ite h (memoryOk_putHostQueue h)) h)

theorem memoryOk_portWrite {s : State} {reg value : Nat} (h : MemoryOk s) : MemoryOk (portWrite s reg value) := h

theorem memoryOk_takeReq {s : State} {fn queue v : Nat} (h : MemoryOk s) : MemoryOk (takeReq s fn queue v) := by
  unfold takeReq
  split
  · exact h
  · exact memoryOk_putHostQueue h

theorem memoryOk_settle {s : State} {fn queue v : Nat} {a : Answer} (h : MemoryOk s) (ha : AnswerOk a) :
    MemoryOk (settle s fn queue v a) := by
  cases ha with
  | complete ht => exact memoryOk_finishRequest (memoryOk_takeReq ht)
  | status => exact memoryOk_finishRequest (memoryOk_takeReq h)
  | later ht => exact memoryOk_takeReq ht
  | wait => exact h
  | viol => exact memoryOk_freezeFn _ _ h

theorem answerOk_answerTo {k : Kind} {s : State} {r : Req} (hk : ∀ v, AnswerOk (k.act s r v)) : AnswerOk (answerTo k s r) := by
  unfold answerTo
  split
  · exact .status
  · split
    · exact .status
    · exact .viol
    · split
      · exact .status
      · exact hk _

theorem memoryOk_takeUp {k : Kind} {s : State} {fn queue : Nat} (hk : ∀ r v, AnswerOk (k.act s r v)) (h : MemoryOk s) :
    MemoryOk (takeUp k s fn queue) := by
  unfold takeUp
  split
  · exact h
  · split
    · exact h
    · dsimp only
      split
      · exact memoryOk_freezeFn _ _ h
      · split
        · exact h
        · split
          · exact memoryOk_settle h (answerOk_answerTo (hk _))
          · exact h

theorem memoryOk_goOnReq {k : Kind} {done : State → Req → Bool} {s : State} {fn queue : Nat}
    (hk : ∀ r v, AnswerOk (k.act s r v)) (h : MemoryOk s) : MemoryOk (goOnReq k done s fn queue) := by
  unfold goOnReq
  split
  · exact h
  · split
    · exact memoryOk_takeUp hk h
    · split
      · exact memoryOk_finishRequest h
      · exact h

theorem memoryOk_acceptLaunch {s : State} {l : Launch} (h : MemoryOk s) : MemoryOk (acceptLaunch s l) := by
  unfold acceptLaunch
  exact memoryOk_grantPlatforms h

theorem memoryOk_launchAct {s : State} {r : Req} {v : Nat} (h : MemoryOk s) : AnswerOk (launchAct s r v) := by
  unfold launchAct
  split
  · exact .status
  · dsimp only
    split
    · exact .complete (memoryOk_acceptLaunch h)
    · exact .complete (memoryOk_writeCompletion h)

theorem memoryOk_writeEpoch {s : State} {c : Context} (h : MemoryOk s) : MemoryOk (writeEpoch s c) := by
  unfold writeEpoch
  exact memoryOk_sysWrite _ _ h

theorem memoryOk_loadGammas {s : State} {cid : Nat} (h : MemoryOk s) : MemoryOk (loadGammas s cid) := by
  unfold loadGammas
  split
  · exact h
  · exact memoryOk_modX h

theorem memoryOk_createAct {s : State} {r : Req} {v : Nat} (h : MemoryOk s) : AnswerOk (createAct s r v) := by
  unfold createAct
  dsimp only
  split
  · exact .status
  · exact .complete (memoryOk_readConsists (memoryOk_loadGammas (memoryOk_writeEpoch h)))

theorem memoryOk_dropTlb {s : State} {out : TlbEnt → Bool} (h : MemoryOk s) : MemoryOk (dropTlb s out) := h

theorem memoryOk_invalAct {s : State} {r : Req} {v : Nat} (h : MemoryOk s) : AnswerOk (invalAct s r v) := by
  unfold invalAct
  split
  · exact .viol
  · exact .later h

theorem memoryOk_resolveCmd {v : Resolve} {s : State} {ring : Nat} {c : Cmd} (h : MemoryOk s)
    : MemoryOk (resolveCmd v s ring c).1 := by
  unfold resolveCmd
  dsimp only
  split
  · exact h
  · exact memoryOk_fst_ite (memoryOk_refuse h) (memoryOk_fst_ite h h)

theorem memoryOk_resolveCmds {v : Resolve} {cid ring : Nat} {s : State} {l : List Cmd} (h : MemoryOk s) :
    MemoryOk (resolveCmds v cid ring s l).1 := by
  induction l generalizing s with
  | nil => exact h
  | cons c l ih =>
    refine ih ?_
    split
    · exact memoryOk_resolveCmd h
    · exact h

theorem memoryOk_resolveConsists {v : Resolve} {s : State} {cid : Nat} (h : MemoryOk s)
    : MemoryOk (resolveConsists v s cid) := by
  unfold resolveConsists
  split
  · exact h
  · exact foldl_keeps (P := MemoryOk) (fun s a hs => memoryOk_modX (memoryOk_resolveCmds hs)) _ h

theorem memoryOk_resolveMatrix {v : Resolve} {cid : Nat} {s : State} (h : MemoryOk s) : MemoryOk (resolveMatrix v cid s) := by
  unfold resolveMatrix
  refine foldl_keeps (P := MemoryOk) (fun s a hs => ?_) _ h
  exact foldl_keeps (P := MemoryOk) (fun s a hs => memoryOk_putQueue (memoryOk_resolveCmds hs)) _ hs

theorem memoryOk_cancelParty {s : State} {k : Nat} (h : MemoryOk s) : MemoryOk (cancelParty s k) := by
  unfold cancelParty
  split
  · exact h
  · split
    · exact memoryOk_cancelWave h
    · exact memoryOk_setW h

theorem memoryOk_applyResolve {s : State} {cid : Nat} {v : Resolve} (h : MemoryOk s) : MemoryOk (applyResolve s cid v) := by
  unfold applyResolve
  refine memoryOk_concludeAll ?_
  refine memoryOk_resolveMatrix ?_
  exact memoryOk_resolveConsists (foldl_keeps (P := MemoryOk) (fun s a hs => memoryOk_cancelParty hs) _ h)

theorem memoryOk_resolveAct {s : State} {r : Req} {v : Nat} (h : MemoryOk s) : AnswerOk (resolveAct s r v) := by
  have closed : ∀ (t : State) (b : Bool) (f : FMap Machine.Partition → FMap Machine.Partition), MemoryOk t →
      AnswerOk (.complete 1 (if b then { t with parts := f t.parts } else t)) := fun t b f ht => by
    refine .complete ?_
    split
    · exact memoryOk_same rfl rfl ht
    · exact ht
  unfold resolveAct
  extract_lets part
  split
  · exact .status
  · next p _ =>
    extract_lets w
    split
    · exact .status
    · exact closed _ _ (fun m => mmod m part (fun p => { p with recs := p.recs.filter (fun x => x.1 != r.arg) }))
        (memoryOk_writeRec (memoryOk_applyResolve h))

theorem memoryOk_swapAct {s : State} {r : Req} {v : Nat} (h : MemoryOk s) : AnswerOk (swapAct s r v) := by
  unfold swapAct
  split
  · exact .status
  · split
    · exact .wait
    · exact .later (memoryOk_writeEpoch h)

theorem memoryOk_rangeCreateAct {s : State} {r : Req} {v : Nat} (h : MemoryOk s) : AnswerOk (rangeCreateAct s r v) := by
  unfold rangeCreateAct
  dsimp only
  split
  · exact .status
  · exact .complete h

theorem memoryOk_rangeDestroyAct {s : State} {r : Req} {x : Nat} (h : MemoryOk s) : AnswerOk (rangeDestroyAct s r x) := by
  unfold rangeDestroyAct
  dsimp only
  split
  · exact .status
  · split
    · exact .status
    · split
      · exact .status
      · split
        · exact .status
        · split
          · exact .later h
          · exact .complete h

theorem memoryOk_goOnDestroy {k : Kind} {s : State} {fn queue : Nat} (hk : ∀ r v, AnswerOk (k.act s r v)) (h : MemoryOk s) :
    MemoryOk (goOnDestroy k s fn queue) := by
  unfold goOnDestroy
  split
  · exact memoryOk_takeUp hk h
  · dsimp only
    split
    · refine memoryOk_finishRequest ?_
      exact h
    · exact h

theorem memoryOk_shardAct {s : State} {r : Req} {v : Nat} (h : MemoryOk s) : AnswerOk (shardAct s r v) := by
  unfold shardAct
  dsimp only
  split
  · exact .status
  · exact .complete h

theorem memoryOk_groupAct {s : State} {r : Req} {v : Nat} (h : MemoryOk s) : AnswerOk (groupAct s r v) := by
  unfold groupAct
  dsimp only
  split
  · exact .status
  · exact .complete h

theorem memoryOk_wipeCore {s : State} {c : Nat} (h : MemoryOk s) : MemoryOk (wipeCore s c) := h

theorem memoryOk_partitionAct {s : State} {r : Req} {v : Nat} (h : MemoryOk s) : AnswerOk (partitionAct s r v) := by
  unfold partitionAct
  dsimp only
  split
  · exact .status
  · refine .complete ?_
    refine foldl_keeps (P := MemoryOk) (fun s a hs => memoryOk_wipeStretch _ hs) _ ?_
    exact foldl_keeps (P := MemoryOk) (fun s a hs => memoryOk_wipeCore hs) _ h

theorem memoryOk_dropSlice {s : State} {u : Nat} (h : MemoryOk s) : MemoryOk (dropSlice s u) := by
  unfold dropSlice
  exact foldl_keeps (P := MemoryOk) (fun s a hs => memoryOk_evictLine hs) _ h

theorem memoryOk_testUnit {s : State} {u : Nat} {ok : Bool} (h : MemoryOk s) : MemoryOk (testUnit s u ok) := by
  unfold testUnit
  refine memoryOk_ite ?_ ?_
  · split
    · exact memoryOk_ite (memoryOk_dropSlice h) h
    · exact memoryOk_ite (memoryOk_wipeCore h) (memoryOk_modC h)
  · refine memoryOk_devError _ _ _ _ _ ?_
    split
    · exact memoryOk_ite (memoryOk_dropSlice h) h
    · exact memoryOk_ite (memoryOk_wipeCore h) (memoryOk_modC h)

theorem memoryOk_selfTestDone {s : State} {pass : Nat} (h : MemoryOk s) : MemoryOk (selfTestDone s pass) := by
  unfold selfTestDone
  split
  · exact h
  · refine memoryOk_ite h ?_
    exact memoryOk_event _ _ _ _ (memoryOk_finishRequest (foldl_keeps (P := MemoryOk) (fun s a hs => memoryOk_testUnit hs) _ h))

theorem memoryOk_trunkAct {s : State} {x : Req} {v : Nat} (h : MemoryOk s) : AnswerOk (trunkAct s x v) := by
  unfold trunkAct
  dsimp only
  split
  · exact .status
  · exact .complete h

theorem memoryOk_attestAct {s : State} {r : Req} {v : Nat} (h : MemoryOk s) : AnswerOk (attestAct s r v) := by
  unfold attestAct
  split
  · exact .status
  · dsimp only
    split
    · exact .viol
    · exact .complete (memoryOk_sysWrite _ _ h)

theorem memoryOk_setErrorRecord {s : State} {v : Nat} (h : MemoryOk s) : MemoryOk (setErrorRecord s v) := by
  unfold setErrorRecord
  exact memoryOk_ite h (memoryOk_writeHome _ _ h)

theorem memoryOk_farJoin {s : State} {part group cseq rank head : Nat} {data : List Nat} (h : MemoryOk s)
    : MemoryOk (farJoin s part group cseq rank head data) := by
  unfold farJoin
  split
  · exact h
  · exact memoryOk_ite h h

theorem memoryOk_farDigest {s : State} {launch ord digest : Nat} (h : MemoryOk s)
    : MemoryOk (farDigest s launch ord digest) := by
  unfold farDigest
  exact memoryOk_modL h

theorem memoryOk_farArrive {s : State} {launch plat unit gtid : Nat} (h : MemoryOk s)
    : MemoryOk (farArrive s launch plat unit gtid) := by
  unfold farArrive
  exact memoryOk_modL h

theorem memoryOk_farExit {s : State} {launch gtid : Nat} (h : MemoryOk s) : MemoryOk (farExit s launch gtid) := by
  unfold farExit
  exact memoryOk_modL h

theorem memoryOk_deliver {s : State} {flow : Nat} {body : List Nat} (h : MemoryOk s) : MemoryOk (deliver s flow body) := by
  unfold deliver
  split
  · exact memoryOk_farJoin h
  · exact memoryOk_farDigest h
  · exact memoryOk_farArrive h
  · exact memoryOk_farExit h
  · exact h
  · exact h
  · exact h

theorem memoryOk_drainFlow {flow n : Nat} {s : State} (h : MemoryOk s) : MemoryOk (drainFlow flow n s) := by
  induction n generalizing s with
  | zero => exact h
  | succ n ih =>
    unfold drainFlow
    dsimp only
    split
    · exact h
    · refine ih (memoryOk_deliver ?_)
      exact h

theorem memoryOk_takeFlit {s : State} {flow seq : Nat} {body : List Nat} (h : MemoryOk s)
    : MemoryOk (takeFlit s flow seq body) := by
  unfold takeFlit
  exact memoryOk_ite h (memoryOk_drainFlow h)

theorem memoryOk_flitReceive {s : State} {link flow seq : Nat} {ok : Bool} {body : List Nat} (h : MemoryOk s)
    : MemoryOk (flitReceive s link flow seq ok body) := by
  unfold flitReceive
  exact memoryOk_ite h (memoryOk_ite (memoryOk_takeFlit h) (memoryOk_countEvents h))

theorem memoryOk_linkFail {s : State} {link : Nat} (h : MemoryOk s) : MemoryOk (linkFail s link) := by
  unfold linkFail
  exact memoryOk_ite h (memoryOk_devError _ _ _ _ _ h)

theorem memoryOk_retrain {s : State} {unit n : Nat} (h : MemoryOk s) : MemoryOk (retrain s unit n) := by
  unfold retrain
  exact memoryOk_ite (memoryOk_ite (memoryOk_devError _ _ _ _ _ (memoryOk_event _ _ _ _ h)) h) h

theorem memoryOk_tickLoss {s : State} (h : MemoryOk s) : MemoryOk (tickLoss s) := by
  unfold tickLoss
  exact memoryOk_ite h (memoryOk_devError _ _ _ _ _ h)

theorem memoryOk_wipeDevice {s : State} {m : Mgmt} (h : MemoryOk s) : MemoryOk (wipeDevice s m) := ⟨wf_reset, h.2⟩

theorem memoryOk_coldReset {s : State} {ok : Bool} (h : MemoryOk s) : MemoryOk (coldReset s ok) := by
  unfold coldReset
  exact memoryOk_wipeDevice h

theorem memoryOk_closeEnding {s : State} {n : Nat} (h : MemoryOk s) : MemoryOk (closeEnding s n) := by
  unfold closeEnding
  split
  · exact h
  · split
    · exact memoryOk_closeLaunch h
    · exact h

theorem memoryOk_partitionReset {s : State} {part : Nat} (h : MemoryOk s) : MemoryOk (partitionReset s part) := by
  unfold partitionReset
  split
  · exact h
  · refine foldl_keeps (P := MemoryOk) (fun s a hs => memoryOk_wipeStretch _ hs) _ ?_
    refine foldl_keeps (P := MemoryOk) (fun s a hs => memoryOk_wipeCore hs) _ ?_
    refine foldl_keeps (P := MemoryOk) (fun s a hs => memoryOk_closeEnding hs) _ ?_
    exact foldl_keeps (P := MemoryOk) (fun s a hs => memoryOk_modX (memoryOk_endContext hs)) _ h

theorem memoryOk_wipeComplete {s : State} (h : MemoryOk s) : MemoryOk (wipeComplete s) := by
  unfold wipeComplete
  exact memoryOk_ite h h

theorem memoryOk_clockLower {s : State} (h : MemoryOk s) : MemoryOk (clockLower s) := by
  unfold clockLower
  exact memoryOk_ite h h

theorem memoryOk_clockRaise {s : State} (h : MemoryOk s) : MemoryOk (clockRaise s) := by
  unfold clockRaise
  exact memoryOk_ite h h

theorem memoryOk_lcApply {s : State} (h : MemoryOk s) : MemoryOk (lcApply s) := by
  unfold lcApply
  exact memoryOk_ite (memoryOk_wipeDevice h) h

theorem memoryOk_pcieAtomic {s : State} {fn addr op size operand : Nat} (h : MemoryOk s)
    : MemoryOk (pcieAtomic s fn addr op size operand) := by
  unfold pcieAtomic
  split
  · exact h
  · refine memoryOk_ite h ?_
    refine memoryOk_ite (memoryOk_freezeFn _ _ h) ?_
    refine memoryOk_ite h ?_
    split
    · exact memoryOk_poisonGranule _ h
    · exact memoryOk_writeHome _ _ h

theorem memoryOk_countDead {s : State} (h : MemoryOk s) : MemoryOk (countDead s) := by
  unfold countDead
  exact foldl_keeps (P := MemoryOk) (fun s a hs => memoryOk_ite hs (memoryOk_modC hs)) _ h

theorem memoryOk_passCycle {s : State} (h : MemoryOk s) : MemoryOk (passCycle s) := by
  unfold passCycle
  exact memoryOk_countDead (foldl_keeps (P := MemoryOk) (fun s a hs => memoryOk_flushSamples hs) _ h)

end Sys2Proof.Proofs.Keeps
end

section
/-! PROOFS. Every step goes on (15 R451: nothing stops the device but a fatal error, which the quadrants observe), and none of them
spoils the canonical form of memory (log 3): first the kinds of requests, then every instruction, then what a step picks. -/

set_option Elab.async false -- one proof at a time: the check bounds memory

namespace Sys2Proof.Proofs.Steps

open Sys2Proof Sys2Proof.Machine Sys2Proof.Laws Sys2Proof.Proofs.Keeps

section Kinds

variable {s : State}

theorem answerOk_ite {b : Prop} [Decidable b] {x y : Answer} (hx : AnswerOk x) (hy : AnswerOk y) : AnswerOk (if b then x else y) := by
  split
  · exact hx
  · exact hy

theorem answerOk_launchKind (h : MemoryOk s) (r : Req) (v : Nat) : AnswerOk (launchKind.act s r v) := memoryOk_launchAct h

theorem answerOk_createKind (h : MemoryOk s) (r : Req) (v : Nat) : AnswerOk (createKind.act s r v) :=
  answerOk_ite .status (memoryOk_createAct h)

theorem answerOk_endKind (h : MemoryOk s) (r : Req) (v : Nat) : AnswerOk (endKind.act s r v) :=
  answerOk_ite .status (.later (memoryOk_endContext h))

theorem answerOk_preemptKind (h : MemoryOk s) (r : Req) (v : Nat) : AnswerOk (preemptKind.act s r v) :=
  answerOk_ite .status (answerOk_ite .wait (.later (foldl_keeps (P := MemoryOk) (fun _ _ hs => memoryOk_requestUnit hs) _ h)))

theorem answerOk_invalKind (h : MemoryOk s) (r : Req) (v : Nat) : AnswerOk (invalKind.act s r v) := memoryOk_invalAct h

theorem answerOk_resolveKind (h : MemoryOk s) (r : Req) (v : Nat) : AnswerOk (resolveKind.act s r v) := memoryOk_resolveAct (v := v) h

theorem answerOk_swapKind (h : MemoryOk s) (r : Req) (v : Nat) : AnswerOk (swapKind.act s r v) := memoryOk_swapAct h

theorem answerOk_reloadKind (h : MemoryOk s) (r : Req) (v : Nat) : AnswerOk (reloadKind.act s r v) :=
  answerOk_ite .status (.complete (memoryOk_loadGammas h))

theorem answerOk_rangeCreateKind (h : MemoryOk s) (r : Req) (v : Nat) : AnswerOk (rangeCreateKind.act s r v) :=
  memoryOk_rangeCreateAct h

theorem answerOk_rangeDestroyKind (h : MemoryOk s) (r : Req) (v : Nat) : AnswerOk (rangeDestroyKind.act s r v) :=
  memoryOk_rangeDestroyAct (x := v) h

theorem answerOk_shardKind (h : MemoryOk s) (r : Req) (v : Nat) : AnswerOk (shardKind.act s r v) := memoryOk_shardAct h

theorem answerOk_groupKind (h : MemoryOk s) (r : Req) (v : Nat) : AnswerOk (Machine.groupKind.act s r v) := memoryOk_groupAct h

theorem answerOk_partitionKind (h : MemoryOk s) (r : Req) (v : Nat) : AnswerOk (partitionKind.act s r v) :=
  memoryOk_partitionAct h

theorem answerOk_selfTestKind (h : MemoryOk s) (r : Req) (v : Nat) : AnswerOk (selfTestKind.act s r v) := .later h

theorem answerOk_trunkKind (h : MemoryOk s) (r : Req) (v : Nat) : AnswerOk (trunkKind.act s r v) := memoryOk_trunkAct (x := r) h

theorem answerOk_attestKind (h : MemoryOk s) (r : Req) (v : Nat) : AnswerOk (attestKind.act s r v) :=
  answerOk_ite .wait (memoryOk_attestAct h)

theorem answerOk_powerKind (h : MemoryOk s) (r : Req) (v : Nat) : AnswerOk (powerKind.act s r v) := .complete h

theorem answerOk_errorRecordKind (h : MemoryOk s) (r : Req) (v : Nat) : AnswerOk (errorRecordKind.act s r v) :=
  answerOk_ite (.complete (memoryOk_setErrorRecord h)) .status

theorem answerOk_thresholdsKind (h : MemoryOk s) (r : Req) (v : Nat) : AnswerOk (thresholdsKind.act s r v) :=
  answerOk_ite (.complete h) .status

end Kinds

/-- An instruction goes on, and memory stays canonical; or it is a word where no wave is at hand. -/
def Completes (s : State) (event : Bool) (o : Out) : Prop :=
  (∃ t, o = .next t ∧ (MemoryOk s → MemoryOk t)) ∨ (o = .fault .noExecution ∧ event = false ∧ mget s.waves s.cur.wave = none)

section Words

variable {s t : State}

theorem completes_event {event : Bool} (ht : MemoryOk s → MemoryOk t) : Completes s event (.next t) := .inl ⟨t, rfl, ht⟩

theorem completes_word {f : Form} {body : State → Nat → Wave → Exec → State}
    (hbody : ∀ k w e, MemoryOk s → MemoryOk (body s k w e)) : Completes s false (runWord f body s) := by
  unfold runWord
  split
  · next hnone => exact .inr ⟨rfl, rfl, hnone⟩
  · exact .inl ⟨_, rfl, fun h => memoryOk_settled (memoryOk_attempt (fun k w e => hbody k w e h) h)⟩

theorem completes_voteBallot {m : Bool} {d a : Spec} {mask : BitVec 4} : Completes s false (execVoteBallot m d a mask s) := by
  unfold execVoteBallot
  split
  · exact completes_word fun _ _ _ h => memoryOk_longBody h
  · exact completes_word fun _ _ _ h => memoryOk_scalResultBody h

/-- The start of a sampler enters its access and performs it where nothing is in its way (06 R241-R243). -/
theorem memoryOk_startSampler {k core id n : Nat} {b : Bool} {v v' : Wave} (h : MemoryOk s) :
    MemoryOk (if b then setW { s with nextId := n } k v
      else storePerformed (performReports (setW { s with nextId := n } k v') core) k id) :=
  memoryOk_ite h (memoryOk_storePerformed (memoryOk_performReports h))

/-- Every instruction completes: by its kind of word, or as the step of the device that it is. -/
theorem exec_completes (i : Instr) (s : State) : Completes s i.isEvent (exec i s) := by
  cases i
  case hint | wimm =>
    exact completes_word fun _ _ _ h => memoryOk_hnBody h
  case sadd | ssub | smul | smulhI64 | smulhN64 | sand | sor | sxor | sshl | sshr | ssar | sminI64 | sminN64 | smaxI64 | smaxN64
    | smov | sceq | scltI64 | scltN64 | scleI64 | scleN64 | getw | xrel | emsave | emset | emand | emandn | emor | emif | emelse
    | sadr =>
    exact completes_word fun _ _ _ h => memoryOk_scalBody h
  case sldN32 | sldN64 | sstN32 | sstN64 | sldSN32 | sstSN32 =>
    exact completes_word fun _ _ _ h => memoryOk_scalAccess h
  case rdsrScalar =>
    exact completes_word fun _ _ _ h => memoryOk_ite (memoryOk_privTrap h) (memoryOk_scalBody h)
  case wrsr =>
    exact completes_word fun _ _ _ h => memoryOk_ite (memoryOk_privTrap h) (memoryOk_scalBody (memoryOk_ite (memoryOk_writeGstep h) h))
  case setw =>
    exact completes_word fun _ _ _ h => memoryOk_ite (memoryOk_illegalAt h) (memoryOk_ite (memoryOk_setW h) (memoryOk_setW (memoryOk_modU h)))
  case xacq =>
    exact completes_word fun _ _ _ h => memoryOk_ite (memoryOk_setW h) (memoryOk_ite (memoryOk_setW h) (memoryOk_addRequest (memoryOk_setW h)))
  case xacqNb | fenceW | vunpin =>
    exact completes_word fun _ _ _ h => memoryOk_ite (memoryOk_setW h) (memoryOk_setW h)
  case modeTriple | modeSingle | rcb =>
    exact completes_word fun _ _ _ h => memoryOk_standAt h
  case fqryDevice | fqryNumeric | fqryPlacement =>
    exact completes_word fun _ _ _ h => memoryOk_fqryBody h
  case smplStart =>
    exact completes_word fun _ _ _ h => memoryOk_ite (memoryOk_setW h) (memoryOk_scalarMem (fun _ => memoryOk_startSampler h) h)
  case smplStop | smplFlush =>
    refine completes_word fun _ _ _ h => ?_
    split
    · exact memoryOk_setW h
    · exact memoryOk_ite (memoryOk_setW h) (memoryOk_setW (memoryOk_ite (memoryOk_modC (memoryOk_flushSamples h)) (memoryOk_flushSamples h)))
  case br | brc | brnc | brany | brall | call | callr | ret | jmpr =>
    exact completes_word fun _ _ _ h => memoryOk_branchBody h
  case exit =>
    exact completes_word fun _ _ _ h => memoryOk_exitThreads (memoryOk_setW h)
  case block | nop | waitc | prefG =>
    exact completes_word fun _ _ _ h => memoryOk_setW h
  case yield =>
    exact completes_word fun _ _ _ h => memoryOk_ite (memoryOk_giveUp (memoryOk_setW h)) (memoryOk_setW h)
  case trap | handlerReturn | handlerSaved | handlerEndWave | handlerRefuseReslice | handlerEndContext =>
    exact completes_word fun _ _ _ h => memoryOk_trapBody h
  case bar | barArr | tbar | tbarArr =>
    exact completes_word fun _ _ _ h => memoryOk_barBody h
  case waitgen =>
    refine completes_word fun _ _ _ h => ?_
    dsimp only
    split
    · exact memoryOk_accessTrap h
    · exact memoryOk_setW h
  case addN32 | subN32 | mulN32 | mulhI32 | mulhN32 | andB32 | orB32 | xorB32 | shlB32 | shrB32 | sarB32 | minI32 | minN32
    | maxI32 | maxN32 | addsI32 | addN32Imm | andB32Imm | orB32Imm | xorB32Imm | shlB32Imm | shrB32Imm | sarB32Imm | movB32
    | rsubN32 | minI32Imm | maxI32Imm | addN64Imm | movB64 | addN64 | subN64 | mulN64 | andB64 | orB64 | xorB64 | shlB64 | shrB64
    | sarB64 | popcB32 | clzB32 | brevB32 | bfeN32 | bfeI32 | subsI32 | mulwN32 | selB32 | selB64 | fminF32 | fmaxF32 | fabsF32
    | fnegF32 | fcopysignF32 | fclassF32 | frintF32 | cvtF32I32 | cvtF32N32 | cvtI32F32 | cvtN32F32 | cvtF16F32 | cvtBf16F32
    | cvtE4m3F32 | cvtE5m2F32 | cvtF32F16 | cvtF32Bf16 | cvtF32E4m3 | cvtF32E5m2 | cvtF32I64 | cvtI64F32 | pack6 | unpack6 | fdig
    | fmean | sibget | sibset | krnd | faddF32 | fsubF32 | fmulF32 | fexpiF32 | ffmaF32 | ffmsF32 | fnmaF32 | fnmsF32 | vread =>
    exact completes_word fun _ _ _ h => memoryOk_vecBody h
  case rdsrVector =>
    exact completes_word fun _ _ _ h => memoryOk_ite (memoryOk_privTrap h) (memoryOk_vecBody h)
  case ceqN32 | cneN32 | cltI32 | cleI32 | cltN32 | cleN32 | ceqN64 | cltI64 | cltN64 | fceqF32 | fcneF32 | fcltF32 | fcleF32
    | fcgtF32 | fcgeF32 | fcunF32 | fcordF32 =>
    exact completes_word fun _ _ _ h => memoryOk_cmBody h
  case fexfF32 | flog2F32 | frcpF32 | frsqrtF32 | act | mseaMax | mseaAcc | shfl | voteAny | voteAll | matchN32 | matchN64
    | redOF32 | redAddN32 | redMinI32 | redMaxI32 | redMinN32 | redMaxN32 | fdivF32 | fsqrtF32 =>
    exact completes_word fun _ _ _ h => memoryOk_longBody h
  case voteBallot m d a mask => exact completes_voteBallot
  case vtos =>
    exact completes_word fun _ _ _ h => memoryOk_scalResultBody h
  case ldGN8 | ldGI8 | ldGN16 | ldGI16 | ldGN32 | ldGF32 | ldGF16 | ldGBf16 | ldGN64 | stGN8 | stGN16 | stGN32 | stGF32 | stGF16
    | stGBf16 | stGN64 | ldSN8 | ldSI8 | ldSN16 | ldSI16 | ldSN32 | ldSF32 | ldSF16 | ldSBf16 | ldSN64 | stSN8 | stSN16 | stSN32
    | stSF32 | stSF16 | stSBf16 | stSN64 | atomGAddN32 | atomGAddN64 | atomGAddF32 | atomGMinI32 | atomGMinN32 | atomGMaxI32
    | atomGMaxN32 | atomGAndB32 | atomGOrB32 | atomGXorB32 | atomGExchN32 | atomGExchN64 | atomGCasN32 | atomGCasN64
    | atomnGAddN32 | atomnGAddN64 | atomnGAddF32 | atomnGMinI32 | atomnGMinN32 | atomnGMaxI32 | atomnGMaxN32 | atomnGAndB32
    | atomnGOrB32 | atomnGXorB32 | atomSAddN32 | atomSAddN64 | atomSAddF32 | atomSMinI32 | atomSMinN32 | atomSMaxI32 | atomSMaxN32
    | atomSAndB32 | atomSOrB32 | atomSXorB32 | atomSExchN32 | atomSExchN64 | atomSCasN32 | atomSCasN64 | ldD | stD | dadd | dcls
    | armS =>
    exact completes_word fun _ _ _ h => memoryOk_memBody h
  case vpin =>
    refine completes_word fun _ _ _ h => ?_
    split
    · exact memoryOk_setW h
    · dsimp only
      split
      · exact memoryOk_accessTrap h
      · exact memoryOk_freezeWave h
      · exact memoryOk_toSiding h
      · exact memoryOk_setW h
  case tdesc =>
    exact completes_word fun _ _ _ h => memoryOk_tdescBody h
  case mload | tturn | mma | mmaSc | mmaPn | mstore =>
    exact completes_word fun _ _ _ h => memoryOk_matrixBody h
  case ecopy =>
    exact completes_word fun _ _ _ h => memoryOk_engineBody (fun _ _ _ _ => memoryOk_copyIssue h) h
  case egath | escat | ecoll | optstep | dsweep =>
    exact completes_word fun _ _ _ h => memoryOk_engineBody (fun _ _ _ _ => memoryOk_appendCmd h) h
  case publish =>
    exact completes_word fun _ _ _ h => memoryOk_publishBody h
  case eseqMilepost | eseqLast =>
    exact completes_word fun _ _ _ h => memoryOk_eseqBody h
  case ewait =>
    exact completes_word fun _ _ _ h => memoryOk_ewaitBody h
  case barrierArrive => exact completes_event fun h => memoryOk_nextFree (memoryOk_concludeAll (memoryOk_countArrivals h))
  case treeBarrierPhaseComplete => exact completes_event fun h => memoryOk_nextFree (memoryOk_treePhase h)
  case waveSlotFree => exact completes_event fun h => memoryOk_nextFree (memoryOk_waveSlotFree h)
  case resultArrival => exact completes_event fun h => memoryOk_nextFree (memoryOk_ite (memoryOk_resultArrival h) (memoryOk_bindLane h))
  case storePerformed => exact completes_event fun h => memoryOk_nextFree (memoryOk_storePerformed h)
  case atomicPerformed => exact completes_event fun h => memoryOk_nextFree (memoryOk_atomicPerformed h)
  case writeMadeVisible => exact completes_event fun h => memoryOk_nextFree (memoryOk_writeMadeVisible h)
  case xacqGrant => exact completes_event fun h => memoryOk_nextFree (memoryOk_xacqGrant h)
  case deadlockTrap => exact completes_event fun h => memoryOk_nextFree (memoryOk_deadlockTrap h)
  case vpinPin | vunpinRelease => exact completes_event fun h => memoryOk_nextFree (memoryOk_pinNow h)
  case engineCommandBegin => exact completes_event fun h => memoryOk_nextFree (memoryOk_engineBegin h)
  case arrive => exact completes_event fun h => memoryOk_nextFree (memoryOk_arriveLanding h)
  case pointsThrow => exact completes_event fun h => memoryOk_nextFree (memoryOk_pointsThrow h)
  case milepostWrite => exact completes_event fun h => memoryOk_nextFree (memoryOk_milepost h)
  case followOnIssue => exact completes_event fun h => memoryOk_nextFree (memoryOk_followOn h)
  case matrixQueueStart => exact completes_event fun h => memoryOk_nextFree (memoryOk_queueStart h)
  case matrixInstructionComplete => exact completes_event fun h => memoryOk_nextFree (memoryOk_matrixComplete h)
  case activationTableSwitch => exact completes_event fun h => memoryOk_nextFree (memoryOk_tableSwitch h)
  case collectiveExecute => exact completes_event fun h => memoryOk_nextFree (memoryOk_collectiveRun h)
  case publishSwitch => exact completes_event fun h => memoryOk_nextFree (memoryOk_publishSwitch h)
  case trapEntry => exact completes_event fun h => memoryOk_settled h
  case saveLimitExpiry => exact completes_event fun h => memoryOk_nextFree (memoryOk_saveLimit h)
  case preemptionHandlerStart => exact completes_event fun h => memoryOk_nextFree (memoryOk_handlersStart h)
  case waveLeavesCore => exact completes_event fun h => memoryOk_nextFree (memoryOk_waveLeaves h)
  case unitResume => exact completes_event fun h => memoryOk_nextFree (memoryOk_unitResume h)
  case resumeRelease => exact completes_event fun h => memoryOk_nextFree (memoryOk_resumeRelease h)
  case codeSwapRetire => exact completes_event fun h => memoryOk_nextFree (memoryOk_codeRetire h)
  case sampleTake => exact completes_event fun h => memoryOk_nextFree (memoryOk_sampleTake h)
  case junctionClaim => exact completes_event fun h => memoryOk_nextFree (memoryOk_junctionClaim h)
  case stealRequest => exact completes_event fun h => memoryOk_nextFree (memoryOk_stealRequest h)
  case stealReply => exact completes_event fun h => memoryOk_nextFree (memoryOk_stealReply h)
  case unitPlacement => exact completes_event fun h => memoryOk_nextFree (memoryOk_unitPlacement h)
  case dispatch => exact completes_event fun h => memoryOk_nextFree (memoryOk_dispatch h)
  case priorityAging => exact completes_event fun h => memoryOk_nextFree (memoryOk_priorityAging h)
  case preemptionDecision => exact completes_event fun h => memoryOk_nextFree (memoryOk_preemptionDecision h)
  case timeLimitExpiry => exact completes_event fun h => memoryOk_nextFree (memoryOk_timeLimit h)
  case launchComplete => exact completes_event fun h => memoryOk_nextFree (memoryOk_launchComplete h)
  case serialisedReexecutionEnd => exact completes_event fun h => memoryOk_nextFree (memoryOk_serialEnd h)
  case tlbFill => exact completes_event fun h => memoryOk_nextFree (memoryOk_tlbFill h)
  case invalidateDone => exact completes_event fun h => memoryOk_nextFree (memoryOk_invalidateDone h)
  case heldFaultOpen => exact completes_event fun h => memoryOk_nextFree (memoryOk_heldOpen h)
  case shardedOwnerAccess => exact completes_event fun h => memoryOk_nextFree (memoryOk_ownerTurn h)
  case shardedOwnerAnswer => exact completes_event fun h => memoryOk_nextFree (memoryOk_answerTurn h)
  case lineEvictionError => exact completes_event fun h => memoryOk_nextFree (memoryOk_lineEviction h)
  case scrubPass => exact completes_event fun h => memoryOk_nextFree (memoryOk_scrubPass h)
  case predictiveWindow => exact completes_event fun h => memoryOk_nextFree (memoryOk_ite h (memoryOk_predictiveWindow h))
  case doorbellWrite => exact completes_event fun h => memoryOk_nextFree (memoryOk_doorbell h)
  case registerWrite => exact completes_event fun h => memoryOk_nextFree (memoryOk_ite (memoryOk_portWrite h) (memoryOk_barWrite h))
  case launch => exact completes_event fun h => memoryOk_nextFree (memoryOk_takeUp (answerOk_launchKind h) h)
  case contextCreate => exact completes_event fun h => memoryOk_nextFree (memoryOk_takeUp (answerOk_createKind h) h)
  case contextEnd => exact completes_event fun h => memoryOk_nextFree (memoryOk_goOnReq (answerOk_endKind h) h)
  case preempt => exact completes_event fun h => memoryOk_nextFree (memoryOk_goOnReq (answerOk_preemptKind h) h)
  case invalidate => exact completes_event fun h => memoryOk_nextFree (memoryOk_takeUp (answerOk_invalKind h) h)
  case faultResolve => exact completes_event fun h => memoryOk_nextFree (memoryOk_takeUp (answerOk_resolveKind h) h)
  case codeSwap => exact completes_event fun h => memoryOk_nextFree (memoryOk_takeUp (answerOk_swapKind h) h)
  case decayTableReload => exact completes_event fun h => memoryOk_nextFree (memoryOk_takeUp (answerOk_reloadKind h) h)
  case rangeCreate => exact completes_event fun h => memoryOk_nextFree (memoryOk_takeUp (answerOk_rangeCreateKind h) h)
  case rangeDestroy => exact completes_event fun h => memoryOk_nextFree (memoryOk_goOnDestroy (answerOk_rangeDestroyKind h) h)
  case shardSet => exact completes_event fun h => memoryOk_nextFree (memoryOk_takeUp (answerOk_shardKind h) h)
  case collectiveGroup => exact completes_event fun h => memoryOk_nextFree (memoryOk_takeUp (answerOk_groupKind h) h)
  case partition => exact completes_event fun h => memoryOk_nextFree (memoryOk_takeUp (answerOk_partitionKind h) h)
  case selfTest => exact completes_event fun h => memoryOk_nextFree (memoryOk_ite h (memoryOk_takeUp (answerOk_selfTestKind h) h))
  case selfTestDone => exact completes_event fun h => memoryOk_nextFree (memoryOk_selfTestDone h)
  case trunkConfigure => exact completes_event fun h => memoryOk_nextFree (memoryOk_takeUp (answerOk_trunkKind h) h)
  case attest => exact completes_event fun h => memoryOk_nextFree (memoryOk_takeUp (answerOk_attestKind h) h)
  case powerLimit => exact completes_event fun h => memoryOk_nextFree (memoryOk_takeUp (answerOk_powerKind h) h)
  case errorRecord => exact completes_event fun h => memoryOk_nextFree (memoryOk_takeUp (answerOk_errorRecordKind h) h)
  case predictiveThresholds => exact completes_event fun h => memoryOk_nextFree (memoryOk_takeUp (answerOk_thresholdsKind h) h)
  case trunkFlitReceive => exact completes_event fun h => memoryOk_nextFree (memoryOk_flitReceive h)
  case linkDown => exact completes_event fun h => memoryOk_nextFree (memoryOk_linkFail h)
  case exchangeTick | thermalRequest | thermalWithdraw | lcbufWrite | lcDiscard => exact completes_event fun h => memoryOk_nextFree h
  case tickLoss => exact completes_event fun h => memoryOk_nextFree (memoryOk_tickLoss h)
  case coldReset => exact completes_event fun h => memoryOk_nextFree (memoryOk_coldReset h)
  case deviceReset => exact completes_event fun h => memoryOk_nextFree (memoryOk_ite h (memoryOk_wipeDevice h))
  case partitionReset => exact completes_event fun h => memoryOk_nextFree (memoryOk_ite (memoryOk_partitionReset h) h)
  case wipeComplete => exact completes_event fun h => memoryOk_nextFree (memoryOk_wipeComplete h)
  case lcApply => exact completes_event fun h => memoryOk_nextFree (memoryOk_ite h (memoryOk_lcApply h))
  case clockLower => exact completes_event fun h => memoryOk_nextFree (memoryOk_clockLower h)
  case clockRaise => exact completes_event fun h => memoryOk_nextFree (memoryOk_clockRaise h)
  case linkRetrain => exact completes_event fun h => memoryOk_nextFree (memoryOk_retrain h)
  case pcieAtomicop => exact completes_event fun h => memoryOk_nextFree (memoryOk_pcieAtomic h)
  case instructionFetch => exact completes_event fun h => memoryOk_nextFree (memoryOk_instructionFetch h)

end Words

section Events

/-- What has no encoding is a step of the device. -/
theorem isEvent_of_encode_isNone {i : Instr} : (encode i).isNone = true → i.isEvent = true := by
  cases i
  case barrierArrive | treeBarrierPhaseComplete | waveSlotFree | resultArrival | storePerformed | atomicPerformed
    | writeMadeVisible | xacqGrant | deadlockTrap | vpinPin | vunpinRelease | engineCommandBegin | arrive | pointsThrow
    | milepostWrite | followOnIssue | matrixQueueStart | matrixInstructionComplete | activationTableSwitch | collectiveExecute
    | publishSwitch | trapEntry | saveLimitExpiry | preemptionHandlerStart | waveLeavesCore | unitResume | resumeRelease
    | codeSwapRetire | sampleTake | junctionClaim | stealRequest | stealReply | unitPlacement | dispatch | priorityAging
    | preemptionDecision | timeLimitExpiry | launchComplete | serialisedReexecutionEnd | tlbFill | invalidateDone
    | heldFaultOpen | shardedOwnerAccess | shardedOwnerAnswer | lineEvictionError | scrubPass | predictiveWindow | doorbellWrite
    | registerWrite | launch | contextCreate | contextEnd | preempt | invalidate | faultResolve | codeSwap | decayTableReload
    | rangeCreate | rangeDestroy | shardSet | collectiveGroup | partition | selfTest | selfTestDone | trunkConfigure | attest
    | powerLimit | errorRecord | predictiveThresholds | trunkFlitReceive | linkDown | exchangeTick | tickLoss | coldReset
    | deviceReset | partitionReset | wipeComplete | thermalRequest | thermalWithdraw | lcbufWrite | lcApply | lcDiscard
    | clockLower | clockRaise | linkRetrain | pcieAtomicop | instructionFetch => exact fun _ => rfl
  all_goals exact fun h => absurd h Bool.false_ne_true

/-- A list of offers holds steps of the device only. -/
def Events (l : List Offer) : Prop := ∀ o ∈ l, o.1.isEvent = true

theorem Events.nil : Events [] := fun _ h => nomatch h

theorem Events.cons {o : Offer} {l : List Offer} (ho : o.1.isEvent = true) (hl : Events l) : Events (o :: l) :=
  List.forall_mem_cons.mpr ⟨ho, hl⟩

theorem Events.append {l l' : List Offer} (h : Events l) (h' : Events l') : Events (l ++ l') :=
  List.forall_mem_append.mpr ⟨h, h'⟩

theorem Events.map {α : Type} {f : α → Offer} {l : List α} (h : ∀ a, (f a).1.isEvent = true) : Events (l.map f) := by
  intro o ho
  obtain ⟨a, -, rfl⟩ := List.mem_map.mp ho
  exact h a

theorem Events.flatMap {α : Type} {f : α → List Offer} {l : List α} (h : ∀ a, Events (f a)) : Events (l.flatMap f) := by
  intro o ho
  obtain ⟨a, -, hmem⟩ := List.mem_flatMap.mp ho
  exact h a o hmem

theorem Events.ite {b : Prop} [Decidable b] {l l' : List Offer} (h : Events l) (h' : Events l') : Events (if b then l else l') := by
  split
  · exact h
  · exact h'

variable {s : State}

theorem memoryOffers_events : Events (memoryOffers s) :=
  .append (.flatMap fun _ => .map fun _ => rfl)
    (.flatMap fun _ => .flatMap fun _ => .cons rfl (.cons rfl (.cons rfl (.cons rfl .nil))))

theorem waveOffers_events : Events (waveOffers s) :=
  .append (.append
    (.flatMap fun _ => .cons rfl (.cons rfl (.cons rfl (.cons rfl (.cons rfl (.cons rfl (.cons rfl .nil)))))))
    (.flatMap fun _ => .map fun _ => rfl)) (.flatMap fun _ => .cons rfl (.map fun _ => rfl))

theorem engineOffers_events : Events (engineOffers s) :=
  .append (.append (.append
    (.flatMap fun _ => .flatMap fun _ => .ite .nil (.append (.append
      (.cons rfl (.cons rfl (.cons rfl (.cons rfl .nil)))) (.map fun _ => rfl)) (.cons rfl .nil)))
    (.flatMap fun _ => .flatMap fun _ => .cons rfl (.cons rfl .nil)))
    (.flatMap fun _ => .flatMap fun _ => .cons rfl (.cons rfl .nil))) (.map fun _ => rfl)

theorem schedOffers_events : Events (schedOffers s) :=
  .append (.append (.append (.append (.append
    (.flatMap fun _ => .cons rfl (.cons rfl (.cons rfl .nil)))
    (.flatMap fun _ => .cons rfl (.cons rfl (.cons rfl (.cons rfl (.cons rfl .nil))))))
    (.map fun _ => rfl))
    (.flatMap fun _ => .flatMap fun _ => .cons rfl (.cons rfl .nil)))
    (.flatMap fun _ => .flatMap fun _ => .cons rfl (.map fun _ => rfl)))
    (.flatMap fun _ => .map fun _ => rfl)

theorem requestOffers_events : Events (requestOffers s) :=
  .flatMap fun _ => .flatMap fun _ => .ite .nil (by
    repeat refine .cons rfl ?_
    exact .nil)

theorem trunkOffers_events : Events (trunkOffers s) := by
  refine .append (.flatMap fun e => ?_) (.flatMap fun _ => .flatMap fun _ => .map fun _ => rfl)
  split
  · exact .cons rfl .nil
  · exact .cons rfl .nil
  · exact .nil

theorem otherOffers_events : Events (otherOffers s) :=
  .append (.append (.map fun _ => rfl) (.map fun _ => rfl)) (.cons rfl (.cons rfl (.cons rfl .nil)))

theorem nextEvent_isEvent {i : Instr} (h : nextEvent s = some i) : i.isEvent = true := by
  obtain ⟨o, hfind, rfl⟩ := Option.map_eq_some_iff.mp h
  exact Events.append (.append (.append (.append (.append (.append memoryOffers_events waveOffers_events) engineOffers_events)
    schedOffers_events) requestOffers_events) trunkOffers_events) otherOffers_events o (List.mem_of_find?_eq_some hfind)

end Events

section Picks

variable {s : State}

theorem mget_map_isSome {α : Type} {m : FMap α} {k : Nat} {f : Nat × α → Nat × α} (hf : ∀ e, (f e).1 = e.1)
    (h : (mget m k).isSome = true) : (mget (m.map f) k).isSome = true := by
  induction m with
  | nil => cases h
  | cons e m ih =>
    obtain ⟨a, v⟩ := e
    have ha : (f (a, v)).1 = a := hf _
    simp only [List.map_cons, mget, ha] at h ⊢
    split
    · rfl
    · next hne =>
      rw [if_neg hne] at h
      exact ih h

theorem afterSelect_wave (s : State) (k : Nat) (w : Wave) (g : Group) (wide : Bool) :
    ((mget (afterSelect s k w g wide).waves k).isSome) = true := by
  unfold afterSelect
  refine mget_map_isSome (fun e => ?_) ?_
  · split <;> rfl
  · simp [setW]

/-- What a step picks goes on: a step of the device, a word of a wave that is there, or a state that the device takes up by itself;
and canonical memory stays so. -/
inductive PickOk (s : State) : Pick → Prop
  | event {i : Instr} {t : State} (hi : i.isEvent = true) (h : MemoryOk s → MemoryOk t) : PickOk s (.run i t)
  | word {i : Instr} {t : State} (hw : (mget t.waves t.cur.wave).isSome = true) (h : MemoryOk s → MemoryOk t) : PickOk s (.run i t)
  | idle {t : State} (h : MemoryOk s → MemoryOk t) : PickOk s (.idle t)

theorem issuePick_ok {a : State} {core quad : Nat} (ha : MemoryOk s → MemoryOk a) : PickOk s (issuePick a core quad) := by
  have hsel : ∀ k w g wide, MemoryOk s → MemoryOk (afterSelect a k w g wide) := fun _ _ _ _ h => memoryOk_afterSelect (ha h)
  unfold issuePick
  split
  · exact .idle ha
  · next k w g _ =>
    dsimp only
    split
    · next n _ =>
      split
      · have hwave := afterSelect_wave a k (w.dropRead g.addr.toNat 0) g (waveWide n)
        exact .word hwave fun h => hsel k (w.dropRead g.addr.toNat 0) g (waveWide n) h
      · exact .idle fun h => memoryOk_settled (memoryOk_illegalAt (hsel k (w.dropRead g.addr.toNat 0) g (waveWide n) h))
    · exact .idle fun h => memoryOk_askFar (ha h)
    · exact .idle fun h => memoryOk_settled (memoryOk_fetchFails (hsel _ _ _ _ h))

theorem defaultPick_ok : PickOk s (defaultPick s) := by
  unfold defaultPick
  split
  · exact issuePick_ok id
  · split
    · next hi => exact .event (nextEvent_isEvent hi) id
    · exact .idle memoryOk_passCycle

theorem tickPick_ok {l : List Choice} : PickOk s (tickPick s l) := by
  unfold tickPick
  split
  · exact issuePick_ok id
  · exact .idle fun h => memoryOk_passCycle h

theorem pick_ok : PickOk s (pick s) := by
  unfold pick
  split
  · exact .event rfl id
  · split
    · exact defaultPick_ok
    · exact issuePick_ok id
    · split
      · next hi => exact .event (isEvent_of_encode_isNone hi) id
      · exact .idle id
    · exact .idle fun h => memoryOk_missFetch h
    · exact tickPick_ok

/-- Every step goes on, and canonical memory stays so. -/
theorem step_completes (s : State) : ∃ t, step s = .next t ∧ (MemoryOk s → MemoryOk t) := by
  have hpick := pick_ok (s := s)
  unfold step
  revert hpick
  generalize pick s = p
  intro hpick
  cases hpick with
  | @event i t hi h =>
    obtain ⟨u, hu, hmem⟩ | ⟨-, hword, -⟩ := exec_completes i t
    · exact ⟨u, hu, hmem ∘ h⟩
    · exact absurd hi (by simp [hword])
  | @word i t hw h =>
    obtain ⟨u, hu, hmem⟩ | ⟨-, -, hnone⟩ := exec_completes i t
    · exact ⟨u, hu, hmem ∘ h⟩
    · exact absurd hw (by simp [hnone])
  | @idle t h => exact ⟨t, rfl, h⟩

/-- Settles O29: each step of the model writes memory through the writers that keep its form. -/
theorem stepsKeepMemoryCanonical : Obligations.StepsKeepMemoryCanonical := by
  intro s t h hstep
  obtain ⟨u, hu, hmem⟩ := step_completes s
  rw [hu] at hstep
  cases hstep
  exact hmem h

/-- Settles O31: a word runs where its wave is at hand, and a step of the device always. -/
theorem theDeviceAlwaysGoesOn : Obligations.TheDeviceAlwaysGoesOn := by
  refine ⟨fun i s => ?_, fun s => ?_⟩
  · obtain ⟨t, ht, -⟩ | hfault := exec_completes i s
    · exact .inl ⟨t, ht⟩
    · exact .inr hfault
  · obtain ⟨t, ht, -⟩ := step_completes s
    exact ⟨t, ht⟩

end Picks

end Sys2Proof.Proofs.Steps
end

section
/-! PROOFS. What a step picks (13 R404; logs 1 and 15). -/

set_option Elab.async false -- one proof at a time: the check bounds memory

namespace Sys2Proof.Proofs.Picks

open Sys2Proof Sys2Proof.Machine

variable {s a : State} {core quad k n : Nat} {w : Wave} {g : Group} {l : List Choice}

/-- The step that issues in a quadrant: by the agenda, or by the default order. -/
theorem pick_issues (hturn : sampleTurn s = none)
    (hissue : (s.agenda = .issue core quad :: l ∧ a = { s with agenda := l }) ∨
      (s.agenda = [] ∧ nextQuad s = some (core, quad) ∧ a = s)) : pick s = issuePick a core quad := by
  unfold pick
  rw [hturn]
  obtain ⟨hagenda, rfl⟩ | ⟨hagenda, hquad, rfl⟩ := hissue
  · simp only [hagenda]
  · simp only [hagenda, defaultPick, hquad]

/-- The state in which the word of a selected group runs. -/
def atHand (a : State) (k : Nat) (w : Wave) (g : Group) (n : Nat) : State :=
  { afterSelect a k (w.dropRead g.addr.toNat 0) g (waveWide n) with
    cur := ⟨k, g.addr, g.first, ascending w.threads.length g.tids, n, g.hint, g.wimm⟩ }

theorem issuePick_runs {i : Instr} (hsel : selected a core quad = some (k, w, g)) (hword : g.word = .word n)
    (hi : decode n = .ok i) : issuePick a core quad = .run i (atHand a k w g n) := by
  unfold issuePick
  rw [hsel]
  simp only [hword, hi]
  rfl

theorem issuePick_illegal {e : DecodeErr} (hsel : selected a core quad = some (k, w, g)) (hword : g.word = .word n)
    (he : decode n = .error e) : issuePick a core quad =
      .idle (settled (illegalAt (atHand a k w g n) k g.addr n (ascending w.threads.length g.tids)) k) := by
  unfold issuePick
  rw [hsel]
  simp only [hword, he]
  rfl

/-- Settles O26: the four ways in which a step goes on. -/
theorem stepRunsTheDecodedInstruction : Obligations.StepRunsTheDecodedInstruction := by
  refine ⟨fun s a core quad k n w g l hturn hissue hsel hword => ?_, fun s core hturn => ?_,
    fun s i l hturn hagenda henc => ?_, fun s l hturn hagenda hquad => ?_⟩
  · refine ⟨fun i hi => ?_, fun e he => ?_⟩
    · unfold step
      rw [pick_issues hturn hissue, issuePick_runs hsel hword hi]
      rfl
    · unfold step
      rw [pick_issues hturn hissue, issuePick_illegal hsel hword he]
      rfl
  · unfold step pick
    simp only [hturn]
  · unfold step pick
    simp only [hturn, hagenda, henc, Option.isNone_none, if_true]
  · unfold step pick
    simp only [hturn, hagenda, tickPick, hquad]

end Sys2Proof.Proofs.Picks
end

section
/-! PROOFS. What memory reads after a write (04 R159, R160, R165), and waves that issue nothing (01 R35; 02 R83; 14 R427). -/

set_option Elab.async false -- one proof at a time: the check bounds memory

namespace Sys2Proof.Proofs.Reads

open Sys2Proof Sys2Proof.Machine Sys2Proof.Laws

variable {s : State} {pa a d e n : Nat} {bs : List Byte}

theorem homeByte_writeHome (s : State) (pa a : Nat) (bs : List Byte) :
    homeByte (writeHome s pa bs) a = if pa ≤ a then bs[a - pa]?.getD (homeByte s a) else homeByte s a :=
  zget_putBytes _ _ _ _

theorem homeByte_writeDie (s : State) (d pa a : Nat) (bs : List Byte) :
    homeByte (writeDie s d pa bs) a = if pa ≤ a then bs[a - pa]?.getD (homeByte s a) else homeByte s a :=
  zget_putBytes _ _ _ _

theorem mget_filter_key {α : Type} (p : Nat → Bool) (m : FMap α) (k : Nat) :
    mget (m.filter (fun e => p e.1)) k = if p k then mget m k else none := by
  induction m with
  | nil => simp [mget]
  | cons e m ih =>
    obtain ⟨b, v⟩ := e
    by_cases hk : k = b
    · subst hk
      by_cases hp : p k <;> simp [mget, hp, ih]
    · by_cases hp : p b <;> simp [mget, hp, ih, hk]

/-- What no die has seen of bytes that a home write supersedes is gone; of other bytes it stays. -/
theorem unseenByte_superseded (d a : Nat) (p : Nat → Bool) (l : List VWrite) :
    unseenByte d a (l.map (fun v => { v with bytes := v.bytes.filter (fun e => p e.1) })) = if p a then unseenByte d a l else none := by
  induction l with
  | nil => simp [unseenByte]
  | cons v l ih =>
    simp only [List.map_cons, unseenByte, mget_filter_key, ih]
    by_cases hp : p a <;> simp [hp]

theorem dieByte_writeHome (s : State) (pa a d : Nat) (bs : List Byte) :
    dieByte (writeHome s pa bs) d a = if pa ≤ a then bs[a - pa]?.getD (dieByte s d a) else dieByte s d a := by
  have hun := unseenByte_superseded d a (fun k => decide (k < pa) || decide (pa + bs.length ≤ k)) s.vis
  unfold dieByte
  rw [homeByte_writeHome]
  by_cases hd : d < 4
  · simp only [if_pos hd]
    rw [show unseenByte d a (writeHome s pa bs).vis = _ from hun]
    by_cases hlo : pa ≤ a
    · by_cases hhi : a - pa < bs.length
      · have hin : (decide (a < pa) || decide (pa + bs.length ≤ a)) = false := by simp; omega
        simp [hin, hlo, List.getElem?_eq_getElem hhi]
      · have hout : (decide (a < pa) || decide (pa + bs.length ≤ a)) = true := by simp; omega
        simp [hout, hlo, List.getElem?_eq_none (Nat.le_of_not_lt hhi)]
    · have hout : (decide (a < pa) || decide (pa + bs.length ≤ a)) = true := by simp; omega
      simp [hout, hlo]
  · simp only [if_neg hd]

theorem dieBytes_eq_of_getElem? {l : List Byte} (h : ∀ i, i < l.length → dieByte s d (pa + i) = l[i]?.getD 0) :
    dieBytes s d pa l.length = l := by
  induction l generalizing pa with
  | nil => rfl
  | cons b l ih =>
    have h0 := h 0 (by simp)
    have hl := ih (pa := pa + 1) fun i hi => by
      have := h (i + 1) (by simpa using hi)
      rw [show pa + (i + 1) = pa + 1 + i by omega] at this
      simpa using this
    simpa [dieBytes, hl] using h0

theorem dieBytes_writeHome (s : State) (pa d : Nat) (bs : List Byte) : dieBytes (writeHome s pa bs) d pa bs.length = bs :=
  dieBytes_eq_of_getElem? fun i hi => by
    rw [dieByte_writeHome, if_pos (Nat.le_add_right _ _), Nat.add_sub_cancel_left]
    simp [List.getElem?_eq_getElem hi]

/-- The write that a die adds hides nothing from that die, and from another one only what was unseen before. -/
theorem unseenByte_append (d a : Nat) (l : List VWrite) (v : VWrite) :
    unseenByte d a (l ++ [v]) = (unseenByte d a l).or (if v.seen.contains d then none else mget v.bytes a) := by
  induction l with
  | nil => simp only [List.nil_append, unseenByte]; split <;> simp; split <;> simp_all
  | cons u l ih =>
    simp only [List.cons_append, unseenByte, ih]
    split
    · rfl
    · split <;> simp

theorem mget_place_homeBytes (s : State) (pa a n : Nat) :
    mget (place pa (homeBytes s pa n)) a = if pa ≤ a ∧ a < pa + n then some (homeByte s a) else none := by
  induction n generalizing pa with
  | zero => rw [if_neg (by omega)]; rfl
  | succ n ih =>
    simp only [homeBytes, place, mget, ih]
    by_cases ha : a = pa
    · subst ha
      simp
    · rw [if_neg (by simpa using ha)]
      exact if_congr (by omega) rfl rfl

theorem dieByte_writeDie_own (hd : d < 4) (hun : unseenByte d a s.vis = none) :
    dieByte (writeDie s d pa bs) d a = homeByte (writeDie s d pa bs) a := by
  have happ : unseenByte d a (writeDie s d pa bs).vis = none := by
    unfold writeDie
    rw [unseenByte_append, hun]
    simp
  rw [dieByte, if_pos hd, happ]
  rfl

theorem dieByte_writeDie_other (he : e < 4) (hne : e ≠ d) : dieByte (writeDie s d pa bs) e a = dieByte s e a := by
  have happ : unseenByte e a (writeDie s d pa bs).vis =
      (unseenByte e a s.vis).or (if pa ≤ a ∧ a < pa + bs.length then some (homeByte s a) else none) := by
    unfold writeDie
    rw [unseenByte_append]
    simp [hne, mget_place_homeBytes]
  rw [dieByte, if_pos he, happ, homeByte_writeDie, dieByte, if_pos he]
  cases unseenByte e a s.vis with
  | some b => simp
  | none =>
    by_cases hin : pa ≤ a ∧ a < pa + bs.length
    · simp [hin]
    · by_cases hlo : pa ≤ a
      · have hhi : bs.length ≤ a - pa := by omega
        simp [hlo, List.getElem?_eq_none hhi, show ¬a < pa + bs.length by omega]
      · simp [hlo]

/-- Settles O36. -/
theorem readsAfterWrites : Obligations.ReadsAfterWrites :=
  ⟨fun s pa a d bs => dieByte_writeHome s pa a d bs,
    fun s pa a d bs hd => ⟨homeByte_writeDie s d pa a bs, fun hun => dieByte_writeDie_own hd hun,
      fun _ he hne => dieByte_writeDie_other he hne⟩,
    fun s pa bs d => dieBytes_writeHome s pa d bs⟩

theorem stopped_of_crowded {w : Wave} (hfifth : ∃ f ∈ w.sidings, f.num = 4)
    (hkeep : w.priv = none ∨ ∀ f ∈ w.sidings, f.num ≠ 4 → f.over = false) : w.crowded = true := by
  obtain ⟨f, hf, hnum⟩ := hfifth
  have hany : w.sidings.any (fun f => f.num == 4) = true := List.any_eq_true.mpr ⟨f, hf, by simp [hnum]⟩
  have hnone : (w.priv.isSome && w.sidings.any (fun f => f.num != 4 && f.over)) = false := by
    obtain hpriv | hover := hkeep
    · simp [hpriv]
    · have : w.sidings.any (fun f => f.num != 4 && f.over) = false := by
        simp only [List.any_eq_false, Bool.and_eq_true, bne_iff_ne, ne_eq, not_and, Bool.not_eq_true]
        exact hover
      simp [this]
  unfold Wave.crowded
  rw [hany, hnone]
  rfl

theorem eligible_of_halted {w : Wave} {k : Nat}
    (h : w.crowded = true ∨ w.parked = true ∨ w.frozen = true ∨ (w.priv = none ∧ w.causes ≠ [])) : eligible s k w = none := by
  have hstop : ∀ p, Wave.stopped { w with pre := p } = true := fun p => by
    obtain h | h | h | ⟨hpriv, hcauses⟩ := h
    · have : Wave.crowded { w with pre := p } = true := h
      simp [Wave.stopped, this]
    · simp [Wave.stopped, h]
    · simp [Wave.stopped, h]
    · simp [Wave.stopped, hpriv, hcauses]
  have hown : w.stopped = true := hstop w.pre
  unfold eligible
  simp [hown, hstop .none]

/-- Settles O39. -/
theorem wavesThatIssueNothing : Obligations.WavesThatIssueNothing := by
  refine fun s k w => ⟨fun h => ?_, fun hfatal core quad => ?_⟩
  · obtain ⟨hfifth, hkeep⟩ | h := h
    · exact eligible_of_halted (.inl (stopped_of_crowded hfifth hkeep))
    · exact eligible_of_halted (.inr h)
  · simp [selected, hfatal]

end Sys2Proof.Proofs.Reads
end

section
/-! PROOFS. The return of a handler (12 R372, R373). -/

set_option Elab.async false -- one proof at a time: the check bounds memory

namespace Sys2Proof.Proofs.Return

open Sys2Proof Sys2Proof.Machine Sys2Proof.Terms Sys2Proof.Laws

section Maps

variable {α β : Type} [DecidableEq α] {z v : α} {key : β → Nat} {val : β → α} {l : List β} {m : FMap α} {k : Nat}

theorem zget_foldl_other (h : ∀ e ∈ l, key e ≠ k) : zget z (l.foldl (fun m e => zset z m (key e) (val e)) m) k = zget z m k := by
  induction l generalizing m with
  | nil => rfl
  | cons e l ih =>
    rw [List.foldl_cons, ih fun e he => h e (List.mem_cons_of_mem _ he), zget_zset_ne z m _ (Ne.symm (h e List.mem_cons_self))]

theorem zget_foldl_last (hex : ∃ e ∈ l, key e = k) (h : ∀ e ∈ l, key e = k → val e = v) :
    zget z (l.foldl (fun m e => zset z m (key e) (val e)) m) k = v := by
  induction l generalizing m with
  | nil =>
    obtain ⟨e, he, -⟩ := hex
    cases he
  | cons e l ih =>
    rw [List.foldl_cons]
    by_cases hl : ∃ e ∈ l, key e = k
    · exact ih hl fun e he => h e (List.mem_cons_of_mem _ he)
    · obtain ⟨x, hx, hk⟩ := hex
      obtain rfl | hx := List.mem_cons.mp hx
      · rw [zget_foldl_other fun y hy hyk => hl ⟨y, hy, hyk⟩, hk, zget_zset_same]
        exact h x List.mem_cons_self hk
      · exact absurd ⟨x, hx, hk⟩ hl

end Maps

theorem eraseDups_const {α : Type} [BEq α] [LawfulBEq α] {l : List α} {a : α} (h : ∀ x ∈ l, x = a) (hne : l ≠ []) :
    l.eraseDups = [a] := by
  cases l with
  | nil => exact absurd rfl hne
  | cons x l =>
    have hx : x = a := h x List.mem_cons_self
    have hfilter : l.filter (fun b => !b == x) = [] :=
      List.filter_eq_nil_iff.mpr fun b hb => by simp [hx, h b (List.mem_cons_of_mem _ hb)]
    rw [List.eraseDups_cons, hfilter, hx]
    rfl

variable {s : State} {k pa : Nat} {w : Wave} {p : Priv}

theorem thread_of_numbered {q : Nat × Thread} (hq : q ∈ w.numbered) : w.thread q.1 = some q.2 := by
  obtain ⟨i, hi⟩ := List.mem_iff_getElem?.mp hq
  rw [Wave.numbered, enumFrom_getElem?, Option.map_eq_some_iff] at hi
  obtain ⟨t, ht, rfl⟩ := hi
  simpa [Wave.thread] using ht

theorem numbered_of_thread {n : Nat} {t : Thread} (ht : w.thread n = some t) : (n, t) ∈ w.numbered := by
  refine List.mem_iff_getElem?.mpr ⟨n, ?_⟩
  rw [Wave.numbered, enumFrom_getElem?, show w.threads[n]? = some t from ht]
  simp

/-- Every live thread at one handler exit: the exit is taken. -/
theorem leaveHandler_returns {pc : W64} (hw : mget s.waves k = some w) (hp : w.priv = some p) (howes : w.owes = false)
    (hlo : 1 ≤ p.cause.code) (hhi : p.cause.code ≤ 13)
    (hat : ∀ t ∈ w.threads, t.live = true → t.st = .atRcb ∧ t.hold = .leave 0 ∧ t.pc = pc) (hex : ∃ t ∈ w.threads, t.live = true) :
    leaveHandler s k = returnTrap s k := by
  have hlive : ∀ q ∈ w.numbered.filter (·.2.live), q.2.st = .atRcb ∧ q.2.hold = .leave 0 ∧ q.2.pc = pc := fun q hq =>
    hat q.2 (List.mem_of_getElem? (thread_of_numbered (List.mem_filter.mp hq).1)) (List.mem_filter.mp hq).2
  obtain ⟨t, ht, htl⟩ := hex
  obtain ⟨n, hn⟩ := List.mem_iff_getElem?.mp ht
  have hmem : (n, t) ∈ w.numbered.filter (·.2.live) := List.mem_filter.mpr ⟨numbered_of_thread hn, htl⟩
  have hne : w.numbered.filter (·.2.live) ≠ [] := List.ne_nil_of_mem hmem
  have hall : allAtRcb (w.numbered.filter (·.2.live)) = true := by
    simp only [allAtRcb, Bool.and_eq_true, Bool.not_eq_true', List.isEmpty_eq_false_iff, List.all_eq_true]
    exact ⟨hne, fun q hq => by simp [(hlive q hq).1]⟩
  have hpcs : rcbPcs (w.numbered.filter (·.2.live)) = [pc] := eraseDups_const (fun x hx => by
    obtain ⟨q, hq, rfl⟩ := List.mem_map.mp hx
    exact (hlive q hq).2.2) (by simpa using hne)
  obtain ⟨q, hhead⟩ : ∃ q, (w.numbered.filter (·.2.live)).head? = some q := Option.isSome_iff_exists.mp (by simpa using hne)
  have hhold : q.2.hold = .leave 0 := (hlive q (List.mem_of_head? hhead)).2.1
  unfold leaveHandler
  simp [hw, hp, hall, hpcs, howes, hhead, hhold, hlo, hhi]

/-- A thread as the return of a handler leaves it, but for the two causes whose records move threads. -/
def restored (cycle r : Nat) (copies : List (Nat × Nat)) (kept t : Thread) : Thread :=
  if !kept.live then t
  else
    { t with
      pc := BitVec.ofNat 64 (bitsAt r 192 64)
      regs := copies.foldl (fun m p =>
        (span 0 4).foldl (fun m j =>
          zset (Cell.val 0#32) m (4 * (0x60 + j) + p.1) (.val (BitVec.ofNat 32 (bitsAt p.2 (32 * j) 32)))) m) t.regs
      hint := none, wimm := none, hnAddr := none, inRun := false, runCount := 0, win := [], marking := false, wake := cycle + 2,
      wakeCode := 3, siding := kept.siding, st := kept.st, hold := kept.hold, opidx := kept.opidx, sec := kept.sec,
      afresh := kept.afresh }

theorem returnThread_eq {code cycle r : Nat} {copies : List (Nat × Nat)} {all : List Thread} {kept t : Thread}
    (hm : code ≠ cMismatch) (hr : code ≤ 13) : returnThread code cycle r copies all kept t = restored cycle r copies kept t := by
  have hr : code ≠ cResume := fun h => absurd hr (h ▸ by decide)
  simp [returnThread, restored, hm, hr]

theorem recordOk_of_state {code e2 r : Nat} {t : Thread} (hm : code ≠ cMismatch) (hr : code ≤ 13)
    (h : t.live = false ↔ bitsAt r 40 4 = 5) : recordOk code e2 r t = true := by
  have hr : code ≠ cResume := fun h => absurd hr (h ▸ by decide)
  unfold recordOk
  by_cases h5 : bitsAt r 40 4 = 5
  · simp [h5, h.mpr h5]
  · simp [h5, hm, hr, show t.live = true by simpa [h5] using h]

section Registers

variable {f : Nat → Nat} {kept t : Thread} {cycle r key : Nat}

/-- The copies that a frame keeps of the operand registers of a thread's siblings. -/
abbrev copiesOf (w : Wave) (f : Nat → Nat) : List (Nat × Nat) := w.sibs.map fun j => (j, f j)

/-- The writes of a return to a thread's registers: sibling and operand register. -/
def spots (w : Wave) : List (Nat × Nat) := w.sibs.flatMap fun i => (span 0 4).map fun j => (i, j)

theorem mem_spots {e : Nat × Nat} : e ∈ spots w ↔ e.1 ∈ w.sibs ∧ e.2 < 4 := by
  obtain ⟨i, j⟩ := e
  simp only [spots, List.mem_flatMap, List.mem_map, mem_span, Prod.mk.injEq]
  constructor
  · rintro ⟨_, hi, _, ⟨-, hj⟩, rfl, rfl⟩
    exact ⟨hi, by omega⟩
  · rintro ⟨hi, hj⟩
    exact ⟨i, hi, j, ⟨by omega, by omega⟩, rfl, rfl⟩

theorem lt_of_sibs {i : Nat} (hi : i ∈ w.sibs) : i < 3 := by
  unfold Wave.sibs at hi
  split at hi
  · simp at hi; omega
  · simp at hi; omega

theorem regs_restored (hl : kept.live = true) : (restored cycle r (copiesOf w f) kept t).regs =
    (spots w).foldl (fun m e => zset (Cell.val 0#32) m (4 * (0x60 + e.2) + e.1) (.val (BitVec.ofNat 32 (bitsAt (f e.1) (32 * e.2) 32)))) t.regs := by
  simp only [restored, hl, spots, Bool.not_true, Bool.false_eq_true, if_false, List.foldl_flatMap, List.foldl_map, copiesOf]

theorem cell_restored_other (hl : kept.live = true) (hkey : 4 * 0x64 ≤ key ∨ key < 4 * 0x60) :
    cell (restored cycle r (copiesOf w f) kept t) key = cell t key := by
  unfold cell
  rw [regs_restored hl]
  exact zget_foldl_other fun e he => by
    have hi := lt_of_sibs (mem_spots.mp he).1
    have hj := (mem_spots.mp he).2
    omega

theorem cell_restored_operand (hl : kept.live = true) {i j : Nat} (hi : i ∈ w.sibs) (hj : j < 4) :
    cell (restored cycle r (copiesOf w f) kept t) (4 * (0x60 + j) + i) = .val (BitVec.ofNat 32 (bitsAt (f i) (32 * j) 32)) := by
  unfold cell
  rw [regs_restored hl]
  refine zget_foldl_last ⟨(i, j), mem_spots.mpr ⟨hi, hj⟩, rfl⟩ fun e he hkey => ?_
  have hlt := lt_of_sibs hi
  have hlt' := lt_of_sibs (mem_spots.mp he).1
  obtain ⟨a, b⟩ := e
  obtain ⟨rfl, rfl⟩ : a = i ∧ b = j := by
    dsimp only at hkey hlt'
    constructor <;> omega
  rfl

end Registers

/-- The threads as the hardware kept them, each with its record in the frame. -/
def records (s : State) (w : Wave) (p : Priv) (pa : Nat) : List (Nat × Thread × Nat) :=
  p.kept.mapIdx fun i t => (i, t, frameNat s w.core pa (0x100 + 32 * i) 32)

/-- The mask that the records of live threads hold in one of their bits. -/
def maskBack (s : State) (w : Wave) (p : Priv) (pa bit : Nat) : W64 :=
  maskOf ((((records s w p pa).filter (fun e => e.2.1.live)).filter (fun e => tst e.2.2 bit)).map (·.1))

/-- The wave that a return leaves (12 R372), before sidings that ended meanwhile are freed. -/
def returned (s : State) (w : Wave) (p : Priv) (pa : Nat) : Wave :=
  { w with
    threads := w.threads.mapIdx fun i t =>
      match (records s w p pa)[i]? with
      | none => t
      | some e =>
        returnThread p.cause.code s.cycle e.2.2 (copiesOf w fun j => frameNat s w.core pa (0x900 + 48 * i + 16 * j) 16) p.kept e.2.1 t
    em := maskBack s w p pa 36
    cm := maskBack s w p pa 35
    scal := (span 0 8).foldl (fun m j => zset 0#64 m j (BitVec.ofNat 64 (frameNat s w.core pa (0x40 + 8 * j) 8))) w.scal
    aflag := BitVec.ofNat 32 (bitsAt (frameNat s w.core pa 0 64) 256 15) ||| p.late
    nctl := writeNctl w.nctl (BitVec.ofNat 32 (bitsAt (frameNat s w.core pa 0 64) 224 32))
    epoch := returnEpoch s w (bitsAt (frameNat s w.core pa 0 64) 160 32)
    priv := none
    parked := false }

theorem returnTrap_eq {more : List Nat} (hw : mget s.waves k = some w) (hp : w.priv = some p)
    (hm : p.cause.code ≠ cMismatch) (hhi : p.cause.code ≤ 13) (hplace : sbPlace s w.cid p.frame.toNat 8192 .read = .dev (pa :: more))
    (hstate : ∀ n t, p.kept[n]? = some t → (t.live = false ↔ bitsAt (frameNat s w.core pa (0x100 + 32 * n) 32) 40 4 = 5)) :
    returnTrap s k =
      (let a := setW s k ((returned s w p pa).freeSidings s.cycle)
       if p.ended then cancelWave a k else a) := by
  have hall : (records s w p pa).all (fun e => recordOk p.cause.code (e2Of s w) e.2.2 e.2.1) = true :=
    List.all_eq_true.mpr fun e he => by
      obtain ⟨n, hn, rfl⟩ := List.mem_mapIdx.mp he
      exact recordOk_of_state hm hhi (hstate n _ (List.getElem?_eq_getElem hn))
  unfold records at hall
  unfold returnTrap
  simp only [hw, hp, hplace, hall, Bool.not_true, Bool.false_eq_true, if_false]
  rfl

variable {n : Nat} {t kept : Thread}

theorem thread_returned (hm : p.cause.code ≠ cMismatch) (hhi : p.cause.code ≤ 13) (ht : w.thread n = some t)
    (hk : p.kept[n]? = some kept) :
    (returned s w p pa).thread n = some (restored s.cycle (frameNat s w.core pa (0x100 + 32 * n) 32)
      (copiesOf w fun j => frameNat s w.core pa (0x900 + 48 * n + 16 * j) 16) kept t) := by
  have hrec : (records s w p pa)[n]? = some (n, kept, frameNat s w.core pa (0x100 + 32 * n) 32) := by
    rw [records, List.getElem?_mapIdx, hk]
    rfl
  rw [Wave.thread, returned, List.getElem?_mapIdx, show w.threads[n]? = some t from ht]
  simp only [Option.map_some, hrec, returnThread_eq hm hhi]

theorem bit_returned {bit : Nat} (hn : n < 64) : (maskBack s w p pa bit).getLsbD n =
    (((p.kept[n]?).map (·.live)).getD false && tst (frameNat s w.core pa (0x100 + 32 * n) 32) bit) := by
  rw [maskBack, maskOf_getLsbD _ _ hn]
  cases hk : p.kept[n]? with
  | none =>
    simp only [Option.map_none, Option.getD_none, Bool.false_and, Bool.eq_false_iff, ne_eq, List.contains_iff_mem]
    intro hmem
    obtain ⟨e, he, rfl⟩ := List.mem_map.mp hmem
    obtain ⟨i, hi, rfl⟩ := List.mem_mapIdx.mp (List.mem_filter.mp (List.mem_filter.mp he).1).1
    rw [List.getElem?_eq_getElem hi] at hk
    cases hk
  | some kept =>
    rw [Bool.eq_iff_iff]
    simp only [List.contains_iff_mem, List.mem_map, List.mem_filter, Option.map_some, Option.getD_some, Bool.and_eq_true]
    constructor
    · rintro ⟨e, ⟨⟨he, hl⟩, hb⟩, rfl⟩
      obtain ⟨i, hi, rfl⟩ := List.mem_mapIdx.mp he
      rw [List.getElem?_eq_getElem hi] at hk
      cases hk
      exact ⟨hl, hb⟩
    · rintro ⟨hl, hb⟩
      obtain ⟨hi, rfl⟩ := List.getElem?_eq_some_iff.mp hk
      exact ⟨_, ⟨⟨List.mem_mapIdx.mpr ⟨n, hi, rfl⟩, hl⟩, hb⟩, rfl⟩

theorem scal_returned {j : Nat} : zget 0#64 (returned s w p pa).scal j =
    if j < 8 then BitVec.ofNat 64 (frameNat s w.core pa (0x40 + 8 * j) 8) else zget 0#64 w.scal j := by
  have hscal : (returned s w p pa).scal = (span 0 8).foldl
      (fun m j => zset 0#64 m j (BitVec.ofNat 64 (frameNat s w.core pa (0x40 + 8 * j) 8))) w.scal := by
    unfold returned
    with_reducible rfl
  rw [hscal]
  split
  · next hj =>
    exact zget_foldl_last (key := fun i : Nat => i) (val := fun i => BitVec.ofNat 64 (frameNat s w.core pa (0x40 + 8 * i) 8))
      ⟨j, mem_span.mpr ⟨by omega, by omega⟩, rfl⟩ fun e _ he => by rw [he]
  · next hj =>
    exact zget_foldl_other (key := fun i : Nat => i) (val := fun i => BitVec.ofNat 64 (frameNat s w.core pa (0x40 + 8 * i) 8))
      fun e he hej => hj (by have := mem_span.mp he; omega)

/-- Settles O35: the records of the frame say of each live thread where it goes on, and no other thread moves. -/
theorem handlerReturnRestoresTheWave : Obligations.HandlerReturnRestoresTheWave := by
  intro s k pa more w p pc hw hp howes hlo hhi hm hlen hat hex hplace rd hstate
  refine ⟨returned s w p pa, ?_, ?_, ?_, fun n hn => ⟨bit_returned hn, bit_returned hn⟩, fun j hj => ?_, fun j hj => ?_, ?_, ?_, ?_⟩
  · rw [leaveHandler_returns hw hp howes hlo hhi hat hex, returnTrap_eq hw hp hm hhi hplace hstate]
  · simp [returned]
  · intro n t kept ht hk
    refine ⟨_, thread_returned hm hhi ht hk, ?_⟩
    by_cases hl : kept.live = true
    · rw [if_pos hl]
      have hcells := fun key h => cell_restored_other (w := w) (f := fun j => rd (0x900 + 48 * n + 16 * j) 16)
        (cycle := s.cycle) (r := rd (0x100 + 32 * n) 32) (t := t) (key := key) hl h
      have hops := fun j hj i hi => cell_restored_operand (w := w) (f := fun j => rd (0x900 + 48 * n + 16 * j) 16)
        (cycle := s.cycle) (r := rd (0x100 + 32 * n) 32) (t := t) (i := i) (j := j) hl hi hj
      refine ⟨?_, ?_, ?_, ?_, ?_, ?_, ?_, ?_, ?_, ?_, ?_, hcells, hops⟩ <;> simp [restored, hl, rd]
    · rw [if_neg hl]
      simp [restored, hl]
  · rw [scal_returned, if_pos hj]
  · rw [scal_returned, if_neg (by omega)]
  · unfold returned
    with_reducible rfl
  · unfold returned
    with_reducible rfl
  · unfold returned
    with_reducible rfl

end Sys2Proof.Proofs.Return
end

section
/-! PROOFS. Trap entry: the frame that it writes (12 R369-R373), and the handler's start (12 R371). -/

set_option Elab.async false -- one proof at a time: the check bounds memory

namespace Sys2Proof.Proofs.Entry

open Sys2Proof Sys2Proof.Machine Sys2Proof.Terms Sys2Proof.Laws Sys2Proof.Proofs Sys2Proof.Proofs.Reads Sys2Proof.Proofs.Quiet
  Sys2Proof.Proofs.Return Sys2Proof.Proofs.Packed

section Fields

/-- A field of a frame: offset, length in bytes, value. -/
abbrev Field := Nat × Nat × Nat

/-- The field holds the byte at offset `a` of its frame. -/
def Covers (f : Field) (a : Nat) : Prop := f.1 ≤ a ∧ a < f.1 + f.2.1

/-- The byte that the field has at offset `a`. -/
def fieldByte (f : Field) (a : Nat) : Byte := (bytesOf f.2.1 f.2.2)[a - f.1]?.getD 0#8

/-- One field written at `pa`. -/
def putField (pa : Nat) (m : FMap Byte) (f : Field) : FMap Byte := if f.2.2 == 0 then m else putBytes m (pa + f.1) (bytesOf f.2.1 f.2.2)

variable {pa a : Nat} {m : FMap Byte} {f : Field} {fs : List Field}

theorem bytesOf_length (n v : Nat) : (bytesOf n v).length = n := by
  induction n generalizing v with
  | zero => rfl
  | succ n ih => exact congrArg Nat.succ (ih _)

theorem ofBytes_bytesOf_mod (n v : Nat) : ofBytes (bytesOf n v) = v % 256 ^ n := by
  induction n generalizing v with
  | zero => simp [bytesOf, ofBytes, Nat.mod_one]
  | succ n ih =>
    rw [bytesOf, ofBytes, ih, BitVec.toNat_ofNat, Nat.pow_succ' (m := 256) (n := n)]
    exact (Nat.mod_mul (x := v) (a := 256) (b := 256 ^ n)).symm

theorem bytesOf_zero (n : Nat) : bytesOf n 0 = List.replicate n 0#8 := by
  induction n with
  | zero => rfl
  | succ n ih => simp [bytesOf, ih, List.replicate_succ]

theorem zget_putField_of_not (h : ¬Covers f a) : zget 0#8 (putField pa m f) (pa + a) = zget 0#8 m (pa + a) := by
  unfold putField
  split
  · rfl
  · rw [zget_putBytes]
    split
    · next hle =>
      have hlen : (bytesOf f.2.1 f.2.2).length ≤ pa + a - (pa + f.1) := by
        rw [bytesOf_length]
        unfold Covers at h
        omega
      rw [List.getElem?_eq_none hlen]
      rfl
    · rfl

theorem zget_putField_of_covers (h : Covers f a) (hz : zget 0#8 m (pa + a) = 0#8 ∨ zget 0#8 m (pa + a) = fieldByte f a) :
    zget 0#8 (putField pa m f) (pa + a) = fieldByte f a := by
  obtain ⟨hlo, hhi⟩ := h
  have hlt : a - f.1 < (bytesOf f.2.1 f.2.2).length := by
    rw [bytesOf_length]
    omega
  unfold putField
  split
  · next hv =>
    obtain hz | hz := hz
    · rw [hz, fieldByte, eq_of_beq hv, bytesOf_zero]
      cases h : (List.replicate f.2.1 0#8)[a - f.1]? with
      | none => rfl
      | some b => exact (List.eq_of_mem_replicate (List.mem_of_getElem? h)).symm
    · exact hz
  · rw [zget_putBytes, if_pos (by omega), show pa + a - (pa + f.1) = a - f.1 by omega, fieldByte]
    rw [List.getElem?_eq_getElem hlt]
    rfl

theorem zget_putFields_of_not (h : ∀ f ∈ fs, ¬Covers f a) : zget 0#8 (fs.foldl (putField pa) m) (pa + a) = zget 0#8 m (pa + a) := by
  induction fs generalizing m with
  | nil => rfl
  | cons f l ih => rw [List.foldl_cons, ih fun g hg => h g (List.mem_cons_of_mem _ hg), zget_putField_of_not (h f List.mem_cons_self)]

/-- A byte that one field alone covers reads as that field says. -/
theorem zget_putFields (hc : Covers f a) (honly : ∀ g ∈ fs, Covers g a → g = f)
    (h : zget 0#8 m (pa + a) = fieldByte f a ∨ (f ∈ fs ∧ zget 0#8 m (pa + a) = 0#8)) :
    zget 0#8 (fs.foldl (putField pa) m) (pa + a) = fieldByte f a := by
  induction fs generalizing m with
  | nil =>
    obtain h | ⟨h, -⟩ := h
    · exact h
    · cases h
  | cons g l ih =>
    have hl : ∀ g ∈ l, Covers g a → g = f := fun x hx => honly x (List.mem_cons_of_mem _ hx)
    by_cases hg : Covers g a
    · obtain rfl := honly g List.mem_cons_self hg
      refine ih hl (.inl (zget_putField_of_covers hg ?_))
      obtain h | ⟨-, h⟩ := h
      · exact .inr h
      · exact .inl h
    · refine ih hl ?_
      rw [zget_putField_of_not hg]
      obtain h | ⟨hmem, h⟩ := h
      · exact .inl h
      · obtain rfl | hmem := List.mem_cons.mp hmem
        · exact absurd hc hg
        · exact .inr ⟨hmem, h⟩

end Fields

section Frame

variable {s : State} {pa a d : Nat} {f : Field} {fs : List Field}

theorem writeFrame_mem : (writeFrame s pa fs).mem = fs.foldl (putField pa) (clearRange (pa + 0x100) 0x1400 (clearRange pa 0x80 s.mem)) := rfl

theorem dieByte_writeFrame_outside (hin : ∀ f ∈ fs, f.1 + f.2.1 ≤ 0x1500) (ha : a < pa ∨ pa + 0x1500 ≤ a) :
    dieByte (writeFrame s pa fs) d a = dieByte s d a := by
  have hhome : homeByte (writeFrame s pa fs) a = homeByte s a := by
    unfold homeByte
    rw [writeFrame_mem]
    have hcleared : zget 0#8 (clearRange (pa + 0x100) 0x1400 (clearRange pa 0x80 s.mem)) a = zget 0#8 s.mem a := by
      unfold zget
      rw [mget_clearRange, mget_clearRange, if_neg (by omega), if_neg (by omega)]
    rw [← hcleared]
    generalize clearRange _ _ _ = m
    clear hcleared
    induction fs generalizing m with
    | nil => rfl
    | cons f l ih =>
      rw [List.foldl_cons, ih fun g hg => hin g (List.mem_cons_of_mem _ hg)]
      have hf := hin f List.mem_cons_self
      unfold putField
      split
      · rfl
      · rw [zget_putBytes]
        split
        · rw [List.getElem?_eq_none (by rw [bytesOf_length]; omega)]
          rfl
        · rfl
  have hvis := unseenByte_superseded d a (fun k => decide (k < pa) || decide (pa + 0x1500 ≤ k)) s.vis
  rw [if_pos (by simpa using ha)] at hvis
  unfold dieByte
  rw [hhome, show unseenByte d a (writeFrame s pa fs).vis = _ from hvis]

theorem dieByte_writeFrame (hf : f ∈ fs) (hc : Covers f a) (honly : ∀ g ∈ fs, Covers g a → g = f)
    (ha : a < 0x80 ∨ (0x100 ≤ a ∧ a < 0x1500)) : dieByte (writeFrame s pa fs) d (pa + a) = fieldByte f a := by
  have hhome : homeByte (writeFrame s pa fs) (pa + a) = fieldByte f a := by
    refine zget_putFields hc honly (.inr ⟨hf, ?_⟩)
    unfold zget
    rw [mget_clearRange, mget_clearRange]
    obtain ha | ha := ha
    · rw [if_neg (by omega), if_pos (by omega)]
      rfl
    · rw [if_pos (by omega)]
      rfl
  have hvis := unseenByte_superseded d (pa + a) (fun k => decide (k < pa) || decide (pa + 0x1500 ≤ k)) s.vis
  rw [if_neg (by simp; omega)] at hvis
  unfold dieByte
  rw [hhome, show unseenByte d (pa + a) (writeFrame s pa fs).vis = _ from hvis]
  simp

/-- A field that shares no byte with another one reads back, as every die sees it (log 7). -/
theorem field_writeFrame {o n v : Nat} (hf : (o, n, v) ∈ fs) (honly : ∀ g ∈ fs, ∀ a, Covers g a → o ≤ a → a < o + n → g = (o, n, v))
    (ha : o + n ≤ 0x80 ∨ (0x100 ≤ o ∧ o + n ≤ 0x1500)) :
    ofBytes (dieBytes (writeFrame s pa fs) d (pa + o) n) = v % 256 ^ n := by
  have hbytes : dieBytes (writeFrame s pa fs) d (pa + o) (bytesOf n v).length = bytesOf n v :=
    dieBytes_eq_of_getElem? fun i hi => by
      rw [bytesOf_length] at hi
      rw [Nat.add_assoc, dieByte_writeFrame hf (a := o + i) ⟨by omega, by show o + i < o + n; omega⟩
        (fun g hg hc => honly g hg _ hc (by omega) (by omega)) (by omega), fieldByte, show o + i - o = i by omega]
      rfl
  rw [bytesOf_length] at hbytes
  rw [hbytes, ofBytes_bytesOf_mod]

end Frame

section Layout

variable {s : State} {w : Wave} {c : Cause} {srcw pend : Nat} {g : Field}

/-- The record of a thread as a field. -/
def recordField (w : Wave) (c : Cause) (n : Nat) (t : Thread) : Field :=
  (0x100 + 32 * n, 32, threadRecord (w.active n) (w.cm.getLsbD n) (c.code == cPreempt) t)

/-- The layout of a frame (12 R369): the header, the scalars, the records, and the copies. -/
theorem mem_frameFields (hg : g ∈ frameFields s w c srcw pend) :
    g = (0, 64, frameHeader w c srcw pend) ∨ (∃ j < 8, g = (0x40 + 8 * j, 8, (zget 0#64 w.scal j).toNat)) ∨
      ∃ n t, w.thread n = some t ∧ (g = recordField w c n t ∨ ∃ i < 3, ∃ v, g = (0x900 + 48 * n + 16 * i, 16, v)) := by
  unfold frameFields at hg
  obtain rfl | hg := List.mem_cons.mp hg
  · exact .inl rfl
  · obtain hg | hg := List.mem_append.mp hg
    · obtain ⟨j, hj, rfl⟩ := List.mem_map.mp hg
      have := mem_span.mp hj
      exact .inr (.inl ⟨j, by omega, rfl⟩)
    · obtain ⟨q, hq, hg⟩ := List.mem_flatMap.mp hg
      refine .inr (.inr ⟨q.1, q.2, thread_of_numbered hq, ?_⟩)
      obtain rfl | hg := List.mem_cons.mp hg
      · exact .inl rfl
      · split at hg
        · obtain ⟨i, hi, rfl⟩ := List.mem_map.mp hg
          exact .inr ⟨i, lt_of_sibs hi, _, rfl⟩
        · cases hg

theorem header_mem : (0, 64, frameHeader w c srcw pend) ∈ frameFields s w c srcw pend := List.mem_cons_self

theorem scalar_mem {j : Nat} (hj : j < 8) : (0x40 + 8 * j, 8, (zget 0#64 w.scal j).toNat) ∈ frameFields s w c srcw pend :=
  List.mem_cons_of_mem _ (List.mem_append_left _ (List.mem_map.mpr ⟨j, mem_span.mpr ⟨by omega, by omega⟩, rfl⟩))

theorem record_mem {n : Nat} {t : Thread} (ht : w.thread n = some t) : recordField w c n t ∈ frameFields s w c srcw pend :=
  List.mem_cons_of_mem _ (List.mem_append_right _ (List.mem_flatMap.mpr ⟨(n, t), numbered_of_thread ht, List.mem_cons_self⟩))

theorem header_alone {a : Nat} (hg : g ∈ frameFields s w c srcw pend) (hc : Covers g a) (ha : a < 0 + 64) :
    g = (0, 64, frameHeader w c srcw pend) := by
  obtain rfl | ⟨j, hj, rfl⟩ | ⟨n, t, ht, rfl | ⟨i, hi, v, rfl⟩⟩ := mem_frameFields hg
  · rfl
  all_goals
    obtain ⟨hlo, -⟩ := hc
    simp only [recordField] at hlo
    omega

theorem scalar_alone {a j : Nat} (hj : j < 8) (hg : g ∈ frameFields s w c srcw pend) (hc : Covers g a) (hlo : 0x40 + 8 * j ≤ a)
    (hhi : a < 0x40 + 8 * j + 8) : g = (0x40 + 8 * j, 8, (zget 0#64 w.scal j).toNat) := by
  obtain ⟨hglo, hghi⟩ := hc
  obtain rfl | ⟨i, hi, rfl⟩ | ⟨n, t, ht, rfl | ⟨i, hi, v, rfl⟩⟩ := mem_frameFields hg
  · simp only at hghi
    omega
  · obtain rfl : i = j := by
      simp only at hglo hghi
      omega
    rfl
  all_goals
    simp only [recordField] at hglo
    omega

variable (hlen : w.threads.length ≤ 64)
include hlen

theorem lt_of_thread {n : Nat} {t : Thread} (ht : w.thread n = some t) : n < 64 :=
  Nat.lt_of_lt_of_le (List.getElem?_eq_some_iff.mp ht).1 hlen

theorem frameFields_inside (hg : g ∈ frameFields s w c srcw pend) : g.1 + g.2.1 ≤ 0x1500 := by
  obtain rfl | ⟨j, hj, rfl⟩ | ⟨n, t, ht, rfl | ⟨i, hi, v, rfl⟩⟩ := mem_frameFields hg
  · exact (by decide : 0 + 64 ≤ 0x1500)
  · show 0x40 + 8 * j + 8 ≤ 0x1500
    omega
  · have := lt_of_thread hlen ht
    show 0x100 + 32 * n + 32 ≤ 0x1500
    omega
  · have := lt_of_thread hlen ht
    show 0x900 + 48 * n + 16 * i + 16 ≤ 0x1500
    omega

theorem record_alone {a n : Nat} {t : Thread} (ht : w.thread n = some t) (hg : g ∈ frameFields s w c srcw pend) (hc : Covers g a)
    (hlo : 0x100 + 32 * n ≤ a) (hhi : a < 0x100 + 32 * n + 32) : g = recordField w c n t := by
  have hn := lt_of_thread hlen ht
  obtain ⟨hglo, hghi⟩ := hc
  obtain rfl | ⟨i, hi, rfl⟩ | ⟨m, u, hu, rfl | ⟨i, hi, v, rfl⟩⟩ := mem_frameFields hg
  · simp only at hghi
    omega
  · simp only at hghi
    omega
  · obtain rfl : m = n := by
      simp only [recordField] at hglo hghi
      omega
    cases hu.symm.trans ht
    rfl
  · simp only at hglo
    omega

end Layout

section Taking

variable {s : State} {k pa : Nat} {w : Wave} {x : Context} {c : Cause}

/-- The wave with the cause that it takes gone from its list. -/
def taking (w : Wave) (c : Cause) : Wave := { w with causes := dropOne c w.causes }

/-- The state that trap entry leaves. -/
def entered (s : State) (k pa : Nat) (w : Wave) (x : Context) (c : Cause) : State :=
  setW (writeFrame s pa (frameFields s (taking w c) c 0 (pendMask (taking w c).causes (w.pre == .requested)))) k
    (handlerStart (writeFrame s pa (frameFields s (taking w c) c 0 (pendMask (taking w c).causes (w.pre == .requested)))) x (taking w c) c
      (frameAddr x w) 0)

theorem takeTrap_eq (hw : mget s.waves k = some w) (hu : w.priv = none) (hfrozen : w.frozen = false) (howes : w.owes = false)
    (hheld : w.held = []) (hpre : w.pre ≠ .saved) (hc : firstCause w.causes trapOrder = some c) (hx : mget s.contexts w.cid = some x)
    (hplace : sbPlace s w.cid (frameAddr x w) 8192 .write = .dev [pa]) : takeTrap s k = entered s k pa w x c := by
  have hpre' : (w.pre == .saved) = false := by simpa using hpre
  have htake : takeTrap s k = enterTrap s k c 0 := by simp [takeTrap, hw, hu, hfrozen, howes, hheld, hpre', hc]
  have hplace' : sbPlace s (taking w c).cid (frameAddr x (taking w c)) 8192 .write = .dev [pa] := hplace
  unfold taking at hplace'
  rw [htake]
  unfold enterTrap
  simp only [hw, hx, hplace', List.foldl_cons, List.foldl_nil]
  rfl

/-- The state with the frame written. -/
abbrev framed (s : State) (pa : Nat) (w : Wave) (c : Cause) : State :=
  writeFrame s pa (frameFields s (taking w c) c 0 (pendMask (taking w c).causes (w.pre == .requested)))

theorem entered_setW : entered (setW s k w) k pa w x c = entered s k pa w x c := by
  have hframed : framed (setW s k w) pa w c = setW (framed s pa w c) k w := rfl
  have hstart : handlerStart (setW (framed s pa w c) k w) x (taking w c) c (frameAddr x w) 0 =
      handlerStart (framed s pa w c) x (taking w c) c (frameAddr x w) 0 := rfl
  show setW (framed (setW s k w) pa w c) k (handlerStart (framed (setW s k w) pa w c) x (taking w c) c (frameAddr x w) 0) = _
  rw [hframed, hstart, setW_setW]
  rfl

/-- A wave that waits for nothing but its trap takes it in the step that is its entry. -/
theorem settled_entry (h : Resting w) (hmark : ∀ t ∈ w.threads, t.marking = false) (hpark : w.parked = false) (hdet : w.det = false)
    (hphase : NoPhaseOver s w.unit) (hw : mget s.waves k = some w) (hu : w.priv = none)
    (htake : takeTrap (setW s k w) k = entered s k pa w x c) : settled s k = nextFree (entered s k pa w x c) := by
  have hnone : w.threads.any (fun t => t.marking && t.live && t.st != .inSiding) = false :=
    List.any_eq_false.mpr fun t ht => by simp [hmark t ht]
  have hfinish : finishMarkers s k = s := by simp [finishMarkers, hw, hnone, hpark]
  have hawaits : releaseAwaits s k = setW s k w := by
    have hsame : releaseAwaits s k = releaseAwaits (setW s k w) k := by
      simp [releaseAwaits, modW, mmod, hw, setW, mset_mset]
    rw [hsame, resting_awaits h]
  have horder : afterDet (entered s k pa w x c) k = entered s k pa w x c := free_order hdet
  rw [settled, conclude, advanceStart, hfinish, hawaits]
  simp only [resting_bars h hphase, resting_waits h, resting_rcb h, resting_join h, resting_mismatch h, user_leaves hu, htake, horder]

end Taking

section Start

variable {s : State} {w : Wave} {x : Context} {c : Cause} {fa n : Nat}

theorem scal_start {j : Nat} : zget 0#64 (handlerStart s x w c fa 0).scal j =
    if j = 0 then BitVec.ofNat 64 fa else if j = 1 then BitVec.ofNat 64 c.code
    else if j = 2 then BitVec.ofNat 64
      ((((mget s.launches w.launch).map (·.savebase)).getD 0 + ordOf s w * ((mget s.launches w.launch).map (·.ustride)).getD 0) % 2 ^ 64)
    else if j = 3 then 0#64 else zget 0#64 w.scal j := by
  simp only [handlerStart, zget_zset]
  by_cases h3 : j = 3
  · subst h3
    rfl
  · simp only [h3, if_false]
    by_cases h2 : j = 2
    · subst h2
      rfl
    · simp only [h2, if_false]
      by_cases h1 : j = 1
      · subst h1
        rfl
      · simp only [h1, if_false]

theorem em_start (hn : n < 64) : (handlerStart s x w c fa 0).em.getLsbD n = ((w.thread n).map (·.live)).getD false := by
  have hem : (handlerStart s x w c fa 0).em = maskOf w.liveTids := rfl
  rw [hem, maskOf_getLsbD _ _ hn, Bool.eq_iff_iff, List.contains_iff_mem]
  simp only [Wave.liveTids, List.mem_map, List.mem_filter]
  constructor
  · rintro ⟨q, ⟨hq, hl⟩, rfl⟩
    simp [thread_of_numbered hq, hl]
  · intro h
    cases ht : w.thread n with
    | none => simp [ht] at h
    | some t => exact ⟨(n, t), ⟨numbered_of_thread ht, by simpa [ht] using h⟩, rfl⟩

theorem thread_start {t : Thread} (ht : w.thread n = some t) : (handlerStart s x w c fa 0).thread n = some (if t.live then
    { t with
      st := .ready, hold := .none, pc := x.vbase + BitVec.ofNat 64 (256 * c.code), hint := none, wimm := none,
      hnAddr := none, inRun := false, runCount := 0, win := [], marking := false, wake := s.cycle + 2, wakeCode := 3 }
    else t) := by
  rw [Wave.thread, handlerStart, List.getElem?_map, show w.threads[n]? = some t from ht]
  rfl

end Start

section Reading

variable {s : State} {k pa d : Nat} {w : Wave} {x : Context} {c : Cause}

theorem dieBytes_setW {a n : Nat} : dieBytes (setW s k w) d a n = dieBytes s d a n := by
  induction n generalizing a with
  | zero => rfl
  | succ n ih => rw [dieBytes, ih]; rfl

theorem pow_bytes (n : Nat) : 256 ^ n = 2 ^ (8 * n) := (Nat.pow_mul 2 8 n).symm

theorem header_reads : ofBytes (dieBytes (entered s k pa w x c) d pa 64) =
    frameHeader (taking w c) c 0 (pendMask (taking w c).causes (w.pre == .requested)) % 2 ^ 512 := by
  have h := field_writeFrame (s := s) (pa := pa) (d := d) (o := 0)
    (header_mem (s := s) (w := taking w c) (c := c) (srcw := 0) (pend := pendMask (taking w c).causes (w.pre == .requested)))
    (fun g hg a hc _ ha => header_alone hg hc ha) (by omega)
  rw [Nat.add_zero, pow_bytes, show 8 * 64 = 512 from rfl] at h
  rw [entered, dieBytes_setW]
  exact h

theorem scalar_reads {j : Nat} (hj : j < 8) :
    ofBytes (dieBytes (entered s k pa w x c) d (pa + 0x40 + 8 * j) 8) = (zget 0#64 w.scal j).toNat := by
  have h := field_writeFrame (s := s) (pa := pa) (d := d)
    (scalar_mem (s := s) (w := taking w c) (c := c) (srcw := 0) (pend := pendMask (taking w c).causes (w.pre == .requested)) hj)
    (fun g hg a hc hlo hhi => scalar_alone hj hg hc hlo hhi) (by omega)
  rw [← Nat.add_assoc] at h
  rw [entered, dieBytes_setW]
  exact h.trans (Nat.mod_eq_of_lt (BitVec.isLt _))

theorem record_reads {n : Nat} {t : Thread} (hlen : w.threads.length ≤ 64) (ht : w.thread n = some t) :
    ofBytes (dieBytes (entered s k pa w x c) d (pa + 0x100 + 32 * n) 32) =
      threadRecord (w.active n) (w.cm.getLsbD n) (c.code == cPreempt) t % 2 ^ 256 := by
  have hlen' : (taking w c).threads.length ≤ 64 := hlen
  have hn := lt_of_thread hlen ht
  have h := field_writeFrame (s := s) (pa := pa) (d := d)
    (record_mem (s := s) (w := taking w c) (c := c) (srcw := 0) (pend := pendMask (taking w c).causes (w.pre == .requested)) ht)
    (fun g hg a hc hlo hhi => record_alone hlen' ht hg hc hlo hhi) (by omega)
  rw [← Nat.add_assoc, pow_bytes] at h
  rw [entered, dieBytes_setW]
  exact h

end Reading

/-- Settles O34: the frame holds its fields, each alone in its bytes, and the wave starts in its handler. -/
theorem trapEntrySavesTheWaveAndStartsTheHandler : Obligations.TrapEntrySavesTheWaveAndStartsTheHandler := by
  intro s k pa w x c hw hu hfrozen howes hheld hpre hlen hc hx hplace fa left
  have hlen' : (taking w c).threads.length ≤ 64 := hlen
  have htake := takeTrap_eq hw hu hfrozen howes hheld hpre hc hx hplace
  refine ⟨entered s k pa w x c, handlerStart (framed s pa w c) x (taking w c) c fa 0, htake, ?_, fun a ha d => ?_,
    fun d => header_reads, fun d j hj => scalar_reads hj, fun d n th hth => record_reads hlen hth, ?_, ?_, fun n th hth => ?_,
    fun n hn => em_start hn, ?_, ?_, ?_, fun l hl => ?_, ?_, fun j hj => ?_, ?_, fun hrest hdet hpark hphase => ?_⟩
  · rfl
  · exact dieByte_writeFrame_outside (fun f hf => frameFields_inside hlen' hf) ha
  · exact ⟨_, rfl, rfl, rfl, rfl, rfl, rfl⟩
  · exact List.length_map ..
  · refine ⟨_, thread_start hth, ?_, ?_⟩
    · split <;> rfl
    · split
      · exact ⟨rfl, rfl, rfl, rfl, rfl, rfl, rfl⟩
      · rfl
  · rfl
  · rw [scal_start]
    rfl
  · rw [scal_start]
    rfl
  · have hl' : mget (framed s pa w c).launches (taking w c).launch = some l := hl
    have hord : ordOf (framed s pa w c) (taking w c) = ordOf s w := rfl
    rw [scal_start, hl', hord]
    exact BitVec.eq_of_toNat_eq (by simp)
  · rw [scal_start]
    rfl
  · rw [scal_start, if_neg (by omega), if_neg (by omega), if_neg (by omega), if_neg (by omega)]
    rfl
  · rfl
  · have hentry : takeTrap (setW s k w) k = entered s k pa w x c := by
      rw [takeTrap_eq (mget_setW_same s k w) hu hfrozen howes hheld hpre hc hx hplace, entered_setW]
    have hsettled := settled_entry (fun t ht => (hrest t ht).1) (fun t ht => (hrest t ht).2) hpark hdet hphase hw hu hentry
    exact congrArg Host.Outcome.next hsettled

end Sys2Proof.Proofs.Entry
end

section
/-! PROOFS. Reconvergence barriers: cohorts released, and mismatches (01 R32, R33, R54; 12 R368). -/

set_option Elab.async false -- one proof at a time: the check bounds memory

namespace Sys2Proof.Proofs.Reconverge

open Sys2Proof Sys2Proof.Machine Sys2Proof.Terms Sys2Proof.Laws Sys2Proof.Proofs Sys2Proof.Proofs.Quiet Sys2Proof.Proofs.Return
  Sys2Proof.Proofs.Packed

section Calm

variable {s : State} {k : Nat} {w : Wave}

/-- No thread waits for anything but a reconvergence barrier. -/
def Calm (w : Wave) : Prop := ∀ t ∈ w.threads, t.st = .ready ∨ t.st = .exited ∨ t.st = .atRcb

theorem calm_awaits (h : Calm w) : releaseAwaits (setW s k w) k = setW s k w := by
  unfold releaseAwaits
  rw [modW_setW, mapThreads_self]
  intro t ht
  have hover : awaitOver w t = false := by
    obtain hst | hst | hst := h t ht <;> simp [awaitOver, hst]
  rw [hover, if_neg (by decide)]

theorem calm_waits (h : Calm w) : releaseWaits (setW s k w) k = setW s k w := by
  unfold releaseWaits
  rw [modW_setW]
  by_cases hp : w.priv.isSome = true
  · rw [if_pos hp]
  · rw [if_neg hp, mapThreads_self]
    intro t ht
    have hover : waitOver (setW s k w) w t = false := by
      obtain hst | hst | hst := h t ht <;> simp [waitOver, hst]
    rw [hover, if_neg (by decide)]

theorem calm_bars (h : Calm w) (hphase : NoPhaseOver s w.unit) : releaseBars (setW s k w) k = setW s k w := by
  unfold releaseBars
  rw [mget_setW_same]
  cases hu : mget s.units w.unit with
  | none => simp [hu]
  | some u =>
    simp only [Option.bind_some, setW_units, hu, Option.map_some]
    have hmap : (setW s k w).waves.map (fun e =>
        if e.2.unit == w.unit && e.2.priv.isNone then
          (e.1, e.2.mapThreads fun t => if t.barDone (setW s k w).cycle u then t.awake (setW s k w).cycle else t)
        else e) = (setW s k w).waves := by
      refine (List.map_congr_left fun e he => ?_).trans (List.map_id _)
      split
      case isTrue hunit =>
        simp only [Bool.and_eq_true, beq_iff_eq, Option.isNone_iff_eq_none] at hunit
        obtain ⟨hunit, hpriv⟩ := hunit
        rw [mapThreads_self]
        · rfl
        · intro t ht
          have hdone : t.barDone s.cycle u = false := by
            obtain rfl | he := mem_mset he
            · obtain hst | hst | hst := h t ht <;> simp [Thread.barDone, hst]
            · exact hphase u hu e he hunit hpriv t ht
          rw [setW_cycle, hdone, if_neg (by decide)]
      case isFalse => rfl
    rw [hmap]
    rfl

theorem finishMarkers_owing (hw : mget s.waves k = some w) (hmark : ∀ t ∈ w.threads, t.marking = false) (howes : w.owes = true) :
    finishMarkers s k = s := by
  have hnone : w.threads.any (fun t => t.marking && t.live && t.st != .inSiding) = false :=
    List.any_eq_false.mpr fun t ht => by simp [hmark t ht]
  simp [finishMarkers, hw, hnone, howes]

theorem releaseAwaits_present (hw : mget s.waves k = some w) : releaseAwaits s k = releaseAwaits (setW s k w) k := by
  simp [releaseAwaits, modW, mmod, hw, setW, mset_mset]

end Calm

section Cohorts

variable {w : Wave} {c n : Nat} {t : Thread}

/-- The live threads of a cohort, with their tids. -/
def members (w : Wave) (c : Nat) : List (Nat × Thread) := (w.numbered.filter (·.2.live)).filter (fun p => p.2.cohort == c)

theorem mem_members {p : Nat × Thread} : p ∈ members w c ↔ w.thread p.1 = some p.2 ∧ p.2.live = true ∧ p.2.cohort = c := by
  simp only [members, List.mem_filter, beq_iff_eq, and_assoc]
  exact and_congr_left fun _ => ⟨thread_of_numbered, numbered_of_thread⟩

theorem mem_groups (hu : w.priv = none) {g : List (Nat × Thread)} :
    g ∈ w.groups ↔ ∃ t ∈ w.threads, t.live = true ∧ g = members w t.cohort := by
  simp only [Wave.groups, hu, Option.isSome_none, Bool.false_eq_true, if_false, List.mem_map, List.mem_eraseDups]
  constructor
  · rintro ⟨v, ⟨p, hp, rfl⟩, rfl⟩
    exact ⟨p.2, numbered_mem (List.mem_filter.mp hp).1, (List.mem_filter.mp hp).2, rfl⟩
  · rintro ⟨t, ht, hl, rfl⟩
    obtain ⟨i, hi⟩ := List.mem_iff_getElem?.mp ht
    exact ⟨t.cohort, ⟨(i, t), List.mem_filter.mpr ⟨numbered_of_thread hi, hl⟩, rfl⟩, rfl⟩

/-- The threads of cohort `c` all stand at reconvergence barriers, the other live threads are Ready. -/
def Gathered (w : Wave) (c : Nat) : Prop :=
  ∀ t ∈ w.threads, t.live = true → if t.cohort = c then t.st = .atRcb ∧ t.hold = .join none else t.st = .ready

theorem calm_of_gathered (h : Gathered w c) : Calm w := by
  intro t ht
  by_cases hl : t.live = true
  · have := h t ht hl
    split at this
    · exact .inr (.inr this.1)
    · exact .inl this
  · exact .inr (.inl (by simpa [Thread.live] using hl))

theorem mem_threads_of_members {p : Nat × Thread} (hp : p ∈ members w c) : p.2 ∈ w.threads :=
  List.mem_of_getElem? (mem_members.mp hp).1

/-- The cohort whose threads all stand at barriers. -/
theorem gathered_of_atRcb (h : Gathered w c) (ht : t ∈ w.threads) (hl : t.live = true) (hat : allAtRcb (members w t.cohort) = true) :
    t.cohort = c := by
  obtain ⟨i, hi⟩ := List.mem_iff_getElem?.mp ht
  have hmem : (i, t) ∈ members w t.cohort := mem_members.mpr ⟨hi, hl, rfl⟩
  have hst : t.st = .atRcb := by
    simp only [allAtRcb, Bool.and_eq_true, List.all_eq_true, beq_iff_eq] at hat
    exact hat.2 _ hmem
  by_contra hne
  have := h t ht hl
  rw [if_neg hne, hst] at this
  cases this

theorem allAtRcb_members (h : Gathered w c) (hex : ∃ t ∈ w.threads, t.live = true ∧ t.cohort = c) : allAtRcb (members w c) = true := by
  obtain ⟨t, ht, hl, hc⟩ := hex
  obtain ⟨i, hi⟩ := List.mem_iff_getElem?.mp ht
  simp only [allAtRcb, Bool.and_eq_true, Bool.not_eq_true', List.isEmpty_eq_false_iff, List.all_eq_true, beq_iff_eq]
  have hmem : (i, t) ∈ members w c := mem_members.mpr ⟨hi, hl, hc⟩
  refine ⟨List.ne_nil_of_mem hmem, fun p hp => ?_⟩
  obtain ⟨hp1, hp2, hp3⟩ := mem_members.mp hp
  have := h p.2 (List.mem_of_getElem? hp1) hp2
  rw [if_pos hp3] at this
  exact this.1

theorem holds_members (h : Gathered w c) {p : Nat × Thread} (hp : p ∈ members w c) : p.2.hold = .join none := by
  obtain ⟨hp1, hp2, hp3⟩ := mem_members.mp hp
  have := h p.2 (List.mem_of_getElem? hp1) hp2
  rw [if_pos hp3] at this
  exact this.2

theorem rcbPcs_single {l : List (Nat × Thread)} {pc : W64} (h : ∀ p ∈ l, p.2.pc = pc) (hne : l ≠ []) : rcbPcs l = [pc] :=
  eraseDups_const (fun x hx => by
    obtain ⟨q, hq, rfl⟩ := List.mem_map.mp hx
    exact h q hq) (by simpa using hne)

end Cohorts

section Release

variable {s : State} {k c : Nat} {w : Wave} {pc : W64}

/-- The tids that `releaseRcb` lets go. -/
def released (w : Wave) : List Nat := w.joined.flatMap (fun g => g.map (·.1))

theorem mem_released (hu : w.priv = none) (h : Gathered w c) (hpc : ∀ t ∈ w.threads, t.live = true → t.cohort = c → t.pc = pc)
    (hex : ∃ t ∈ w.threads, t.live = true ∧ t.cohort = c) {n : Nat} :
    n ∈ released w ↔ ∃ t, w.thread n = some t ∧ t.live = true ∧ t.cohort = c := by
  have hjoined : members w c ∈ w.joined := by
    obtain ⟨t, ht, hl, hc⟩ := hex
    have hone : rcbPcs (members w c) = [pc] := rcbPcs_single
      (fun p hp => hpc p.2 (mem_threads_of_members hp) (mem_members.mp hp).2.1 (mem_members.mp hp).2.2)
      (by
        have hat := allAtRcb_members h ⟨t, ht, hl, hc⟩
        intro hnil
        simp [hnil, allAtRcb] at hat)
    refine List.mem_filter.mpr ⟨(mem_groups hu).mpr ⟨t, ht, hl, by rw [hc]⟩, ?_⟩
    simp only [allAtRcb_members h ⟨t, ht, hl, hc⟩, hone, List.length_singleton, beq_self_eq_true, Bool.true_and, List.all_eq_true,
      beq_iff_eq]
    exact fun p hp => holds_members h hp
  simp only [released, List.mem_flatMap, List.mem_map]
  constructor
  · rintro ⟨g, hg, p, hp, rfl⟩
    obtain ⟨hgroup, hpred⟩ := List.mem_filter.mp hg
    obtain ⟨t, ht, hl, rfl⟩ := (mem_groups hu).mp hgroup
    simp only [Bool.and_eq_true] at hpred
    have hc := gathered_of_atRcb h ht hl hpred.1.1
    rw [hc] at hp
    exact ⟨p.2, mem_members.mp hp⟩
  · rintro ⟨t, ht⟩
    exact ⟨_, hjoined, (n, t), mem_members.mpr ht, rfl⟩

open Classical in
/-- What the release of a cohort leaves of a wave. -/
noncomputable def rejoined (s : State) (w : Wave) (c : Nat) : Wave :=
  if ∀ t ∈ w.threads, t.live = true → t.cohort = c then (w.onTids (released w) (fun _ t => t.passRcb s.cycle)).oneCohort
  else w.onTids (released w) (fun _ t => t.passRcb s.cycle)

/-- A cohort that stands at one barrier goes on; the wave has one cohort again when that was all of it. -/
theorem releaseRcb_gathered (hu : w.priv = none) (h : Gathered w c)
    (hpc : ∀ t ∈ w.threads, t.live = true → t.cohort = c → t.pc = pc) (hex : ∃ t ∈ w.threads, t.live = true ∧ t.cohort = c) :
    releaseRcb (setW s k w) k = setW s k (rejoined s w c) := by
  classical
  have hmem := fun n => mem_released hu h hpc hex (n := n)
  obtain ⟨t, ht, hl, hc⟩ := hex
  obtain ⟨i, hi⟩ := List.mem_iff_getElem?.mp ht
  have hne : (released w).isEmpty = false := by
    simpa using List.ne_nil_of_mem ((hmem i).mpr ⟨t, hi, hl, hc⟩)
  have hwhole : (w.liveTids.all (released w).contains && (rcbPcs (w.numbered.filter (·.2.live))).length == 1) =
      decide (∀ t ∈ w.threads, t.live = true → t.cohort = c) := by
    rw [Bool.eq_iff_iff, decide_eq_true_iff]
    constructor
    · intro hall u hu' hlu
      simp only [Bool.and_eq_true, List.all_eq_true] at hall
      obtain ⟨j, hj⟩ := List.mem_iff_getElem?.mp hu'
      have hjmem : j ∈ w.liveTids := List.mem_map.mpr ⟨(j, u), List.mem_filter.mpr ⟨numbered_of_thread hj, hlu⟩, rfl⟩
      obtain ⟨v, hv, -, hvc⟩ := (hmem j).mp (List.contains_iff_mem.mp (hall.1 j hjmem))
      cases (show some v = some u from hv.symm.trans hj)
      exact hvc
    · intro hall
      have hone : rcbPcs (w.numbered.filter (·.2.live)) = [pc] := rcbPcs_single
        (fun p hp => by
          have hp' := numbered_mem (List.mem_filter.mp hp).1
          exact hpc p.2 hp' (List.mem_filter.mp hp).2 (hall p.2 hp' (List.mem_filter.mp hp).2))
        (List.ne_nil_of_mem (List.mem_filter.mpr ⟨numbered_of_thread hi, hl⟩))
      simp only [hone, List.length_singleton, beq_self_eq_true, Bool.and_true, List.all_eq_true]
      intro j hj
      obtain ⟨p, hp, rfl⟩ := List.mem_map.mp hj
      have hp' := numbered_mem (List.mem_filter.mp hp).1
      exact List.contains_iff_mem.mpr ((hmem p.1).mpr
        ⟨p.2, thread_of_numbered (List.mem_filter.mp hp).1, (List.mem_filter.mp hp).2, hall p.2 hp' (List.mem_filter.mp hp).2⟩)
  unfold releaseRcb
  rw [modW_setW]
  unfold released at hne hwhole
  have hpriv : (w.onTids (w.joined.flatMap fun g => g.map (·.1)) fun _ t => t.passRcb s.cycle).priv.isNone = true := by
    show w.priv.isNone = true
    rw [hu]
    rfl
  simp only [hne, Bool.false_eq_true, if_false, hwhole, setW_cycle, hpriv, Bool.and_true, decide_eq_true_eq]
  rfl

end Release

section Outcome

variable {s : State} {k c : Nat} {w : Wave} {pc : W64}

open Classical in
theorem thread_rejoined {n : Nat} {t : Thread} (ht : w.thread n = some t) : (rejoined s w c).thread n = some
    (let u := if (released w).contains n then t.passRcb s.cycle else t
     if ∀ t ∈ w.threads, t.live = true → t.cohort = c then { u with cohort := w.wlog * w.grant } else u) := by
  have hon := thread_onTids w (released w) (fun _ t => t.passRcb s.cycle) n
  rw [ht] at hon
  unfold rejoined
  split
  · have hmap : ∀ v : Wave, v.oneCohort.thread n = (v.thread n).map fun t => { t with cohort := v.wlog * v.grant } :=
      fun v => List.getElem?_map ..
    rw [hmap, hon]
    rfl
  · rw [hon]
    rfl

theorem rejoined_eq : ∃ ts, ts.length = w.threads.length ∧ rejoined s w c = { w with threads := ts } := by
  unfold rejoined
  split
  · exact ⟨_, (List.length_map _).trans (onTids_threads_length ..), rfl⟩
  · exact ⟨_, by simp, rfl⟩

theorem contains_released (hu : w.priv = none) (h : Gathered w c) (hpc : ∀ t ∈ w.threads, t.live = true → t.cohort = c → t.pc = pc)
    (hex : ∃ t ∈ w.threads, t.live = true ∧ t.cohort = c) {n : Nat} {t : Thread} (ht : w.thread n = some t) :
    (released w).contains n = true ↔ t.live = true ∧ t.cohort = c := by
  rw [List.contains_iff_mem, mem_released hu h hpc hex]
  constructor
  · rintro ⟨u, hu, hl⟩
    cases (show some u = some t from hu.symm.trans ht)
    exact hl
  · intro hl
    exact ⟨t, ht, hl⟩

open Classical in
theorem thread_gathered (hu : w.priv = none) (h : Gathered w c) (hpc : ∀ t ∈ w.threads, t.live = true → t.cohort = c → t.pc = pc)
    (hex : ∃ t ∈ w.threads, t.live = true ∧ t.cohort = c) {n : Nat} {t : Thread} (ht : w.thread n = some t) :
    (rejoined s w c).thread n = some
      (let u := if t.live = true ∧ t.cohort = c then t.passRcb s.cycle else t
       if ∀ t ∈ w.threads, t.live = true → t.cohort = c then { u with cohort := w.wlog * w.grant } else u) := by
  have hin := contains_released hu h hpc hex ht
  rw [thread_rejoined ht]
  by_cases hr : t.live = true ∧ t.cohort = c
  · simp only [hin.mpr hr, if_true, if_pos hr]
  · simp only [mt hin.mp hr, Bool.false_eq_true, if_false, if_neg hr]

theorem rejoined_rests (hu : w.priv = none) (h : Gathered w c) (hpc : ∀ t ∈ w.threads, t.live = true → t.cohort = c → t.pc = pc)
    (hex : ∃ t ∈ w.threads, t.live = true ∧ t.cohort = c) : Resting (rejoined s w c) := by
  intro t' ht'
  obtain ⟨n, hn⟩ := List.mem_iff_getElem?.mp ht'
  obtain ⟨ts, hlen, heq⟩ := rejoined_eq (s := s) (w := w) (c := c)
  obtain ⟨t, ht⟩ : ∃ t, w.thread n = some t := by
    have hlt : n < w.threads.length := by
      rw [← hlen]
      exact (List.getElem?_eq_some_iff.mp (by simpa [heq] using hn)).1
    exact ⟨_, List.getElem?_eq_getElem hlt⟩
  have hst : t'.st = (if (released w).contains n then t.passRcb s.cycle else t).st := by
    have hthread := thread_rejoined (s := s) (c := c) ht
    rw [show (rejoined s w c).thread n = some t' from hn] at hthread
    rw [Option.some.inj hthread]
    dsimp only
    split <;> rfl
  have hmem := List.mem_of_getElem? ht
  rw [hst]
  by_cases hr : (released w).contains n = true
  · rw [if_pos hr]
    exact .inl rfl
  · rw [if_neg hr]
    have hr' := mt (contains_released hu h hpc hex ht).mpr hr
    by_cases hl : t.live = true
    · have := h t hmem hl
      rw [if_neg fun hc => hr' ⟨hl, hc⟩] at this
      exact .inl this
    · exact .inr (by simpa [Thread.live] using hl)

/-- A cohort gathered at one barrier is released, and the wave then waits for nothing. -/
theorem conclude_gathered {v : Wave} (hmark : finishMarkers (setW s k v) k = setW s k w) (hu : w.priv = none) (hcauses : w.causes = [])
    (hdet : w.det = false) (hphase : NoPhaseOver s w.unit) (h : Gathered w c)
    (hpc : ∀ t ∈ w.threads, t.live = true → t.cohort = c → t.pc = pc) (hex : ∃ t ∈ w.threads, t.live = true ∧ t.cohort = c) :
    conclude (setW s k v) k = setW s k (rejoined s w c) := by
  have hcalm := calm_of_gathered h
  have hrest := rejoined_rests (s := s) hu h hpc hex
  have hrelease := releaseRcb_gathered (s := s) (k := k) hu h hpc hex
  obtain ⟨ts, -, heq⟩ := rejoined_eq (s := s) (w := w) (c := c)
  generalize rejoined s w c = u at hrest hrelease heq
  have huu : u.priv = none := by rw [heq]; exact hu
  have huc : u.causes = [] := by rw [heq]; exact hcauses
  have hud : u.det = false := by rw [heq]; exact hdet
  simp only [conclude, advanceStart, hmark, calm_awaits hcalm, calm_bars hcalm hphase, calm_waits hcalm, hrelease, resting_join hrest,
    resting_mismatch hrest, user_leaves huu, resting_waits hrest, no_cause huc, free_order hud]

end Outcome

section Mismatch

variable {s : State} {k c : Nat} {w : Wave}

theorem leastPc_mem {l : List W64} (hne : l ≠ []) : leastPc l ∈ l ∧ ∀ a ∈ l, leastPc l ≤ a := by
  induction l with
  | nil => exact absurd rfl hne
  | cons a l ih =>
    cases l with
    | nil => simp [leastPc]
    | cons b l =>
      obtain ⟨hmem, hle⟩ := ih (by simp)
      rw [leastPc.eq_3 a (b :: l) (fun h => by cases h)]
      split
      · next hab =>
        refine ⟨List.mem_cons_self, fun x hx => ?_⟩
        obtain rfl | hx := List.mem_cons.mp hx
        · exact BitVec.le_refl _
        · exact BitVec.le_trans hab (hle x hx)
      · next hab =>
        refine ⟨List.mem_cons_of_mem _ hmem, fun x hx => ?_⟩
        obtain rfl | hx := List.mem_cons.mp hx
        · exact BitVec.le_of_lt (BitVec.not_le.mp hab)
        · exact hle x hx

theorem two_le_of_distinct {l : List W64} {a b : W64} (ha : a ∈ l) (hb : b ∈ l) (hne : a ≠ b) : 2 ≤ l.eraseDups.length := by
  have ha := List.mem_eraseDups.mpr ha
  have hb := List.mem_eraseDups.mpr hb
  match h : l.eraseDups with
  | [] => simp [h] at ha
  | [x] =>
    rw [h] at ha hb
    exact absurd ((List.mem_singleton.mp ha).trans (List.mem_singleton.mp hb).symm) hne
  | _ :: _ :: _ => simp

/-- The cause that a mismatch of a cohort raises (12 R368). -/
def mismatchCause (w : Wave) (c : Nat) : Cause :=
  ⟨cMismatch, 0#64, leastPc (rcbPcs (members w c)), BitVec.ofNat 32 (rcbPcs (members w c)).length, 0,
    maskOf ((members w c).map (·.1))⟩

theorem joined_nil (hu : w.priv = none) (h : Gathered w c) (htwo : 2 ≤ (rcbPcs (members w c)).length) : w.joined = [] := by
  refine List.filter_eq_nil_iff.mpr fun g hg => ?_
  obtain ⟨t, ht, hl, rfl⟩ := (mem_groups hu).mp hg
  intro hall
  simp only [Bool.and_eq_true, beq_iff_eq] at hall
  have hone := hall.1.2
  rw [gathered_of_atRcb h ht hl hall.1.1] at hone
  omega

theorem mismatch_eq (hu : w.priv = none) (h : Gathered w c) (hex : ∃ t ∈ w.threads, t.live = true ∧ t.cohort = c)
    (htwo : 2 ≤ (rcbPcs (members w c)).length) : w.mismatch = some (members w c) := by
  have hat := allAtRcb_members h hex
  obtain ⟨t, ht, hl, hc⟩ := hex
  have hmem : members w c ∈ w.groups := (mem_groups hu).mpr ⟨t, ht, hl, by rw [hc]⟩
  obtain ⟨g, hg⟩ : ∃ g, w.mismatch = some g := Option.isSome_iff_exists.mp
    (List.find?_isSome.mpr ⟨_, hmem, by simp [hat, htwo]⟩)
  obtain ⟨u, hu', hlu, rfl⟩ := (mem_groups hu).mp (List.mem_of_find?_eq_some hg)
  have hpred := List.find?_some hg
  simp only [Bool.and_eq_true] at hpred
  rw [hg, gathered_of_atRcb h hu' hlu hpred.1]

theorem raiseMismatch_pending {g : List (Nat × Thread)} (hu : w.priv = none) (hmis : w.mismatch = some g)
    (hin : w.causes.any (fun c => c.code == cMismatch) = true) : raiseMismatch (setW s k w) k = setW s k w := by
  simp [raiseMismatch, hu, hmis, hin]

theorem takeTrap_owing (howes : w.owes = true) : takeTrap (setW s k w) k = setW s k w := by
  simp [takeTrap, howes]

/-- A mismatch becomes pending; the wave, which is still owed a result, does not take it yet. -/
theorem conclude_mismatch (hw : mget s.waves k = some w) (hu : w.priv = none) (hcauses : w.causes = []) (hdet : w.det = false)
    (howes : w.owes = true) (hphase : NoPhaseOver s w.unit) (hmark : ∀ t ∈ w.threads, t.marking = false) (h : Gathered w c)
    (hex : ∃ t ∈ w.threads, t.live = true ∧ t.cohort = c) (htwo : 2 ≤ (rcbPcs (members w c)).length) :
    conclude s k = setW s k { w with causes := [mismatchCause w c] } := by
  have hcalm := calm_of_gathered h
  have hcalm' : Calm { w with causes := [mismatchCause w c] } := hcalm
  have hmis := mismatch_eq hu h hex htwo
  have hany : w.threads.any (·.live) = true := by
    obtain ⟨t, ht, hl, -⟩ := hex
    exact List.any_eq_true.mpr ⟨t, ht, hl⟩
  have hrcb : releaseRcb (setW s k w) k = setW s k w := by
    unfold releaseRcb
    rw [modW_setW]
    simp [joined_nil hu h htwo]
  have hjoin : passJoin (setW s k w) k = setW s k w := by
    unfold passJoin
    simp only [mget_setW_same, hu, Option.isSome_none, Bool.false_or]
    split
    · rfl
    · next hall =>
      have hhold : ∀ p ∈ w.numbered.filter (·.2.live), p.2.hold = .join none := fun p hp => by
        have hmem := numbered_mem (List.mem_filter.mp hp).1
        have hst : p.2.st = .atRcb := by
          simp only [Bool.or_eq_true, Bool.not_eq_true', not_or, Bool.not_eq_false, allAtRcb, Bool.and_eq_true, List.all_eq_true,
            beq_iff_eq] at hall
          exact hall.1.2 p hp
        have := h p.2 hmem (List.mem_filter.mp hp).2
        split at this
        · exact this.2
        · rw [hst] at this
          cases this
      cases hhead : (w.numbered.filter (·.2.live)).head? with
      | none => rfl
      | some p =>
        have := hhold p (List.mem_of_head? hhead)
        simp [this]
  have hraise : raiseMismatch (setW s k w) k = setW s k { w with causes := [mismatchCause w c] } := by
    unfold raiseMismatch addCause
    simp only [mget_setW_same, hmis, hu, hcauses, hany, Option.isSome_none, Bool.false_eq_true, if_false, List.any_nil, if_true,
      List.nil_append, setW_setW]
    rfl
  have hagain : raiseMismatch (setW s k { w with causes := [mismatchCause w c] }) k = setW s k { w with causes := [mismatchCause w c] } :=
    raiseMismatch_pending hu hmis rfl
  have htake : takeTrap (setW s k { w with causes := [mismatchCause w c] }) k = setW s k { w with causes := [mismatchCause w c] } :=
    takeTrap_owing howes
  have hleave : leaveHandler (setW s k { w with causes := [mismatchCause w c] }) k = setW s k { w with causes := [mismatchCause w c] } :=
    user_leaves hu
  have horder : afterDet (setW s k { w with causes := [mismatchCause w c] }) k = setW s k { w with causes := [mismatchCause w c] } :=
    free_order hdet
  rw [conclude, advanceStart, finishMarkers_owing hw hmark howes, releaseAwaits_present hw]
  simp only [calm_awaits hcalm, calm_bars hcalm hphase, calm_waits hcalm, hrcb, hjoin, hraise, hleave, calm_waits hcalm', hagain,
    htake, horder]

end Mismatch

theorem numbered_snd (l : List Thread) (p : Thread → Bool) (n : Nat) :
    ((enumFrom n l).filter (fun e => p e.2)).map (·.2) = l.filter p := by
  induction l generalizing n with
  | nil => rfl
  | cons t l ih => by_cases h : p t <;> simp [enumFrom, h, ih]

/-- Settles O33: a cohort at one barrier goes on, one at several is a mismatch. -/
theorem rcbReleasesOrMismatches : Obligations.RcbReleasesOrMismatches := by
  refine ⟨?_, ?_⟩
  · intro s k c w pc hu hcauses hdet hphase hat hex whole
    have hg : Gathered { w with parked := w.parked && w.owes } c := fun t ht hl => by
      have := (hat t ht).2 hl
      split at this
      · next hc => rw [if_pos hc]; exact ⟨this.1, this.2.1⟩
      · next hc => rw [if_neg hc]; exact this
    have hpc : ∀ t ∈ w.threads, t.live = true → t.cohort = c → t.pc = pc := fun t ht hl hc => by
      have := (hat t ht).2 hl
      rw [if_pos hc] at this
      exact this.2.2
    have hmark := finishMarkers_unmarked (s := s) (k := k) fun t ht => (hat t ht).1
    have hconclude := conclude_gathered hmark hu hcauses hdet hphase hg hpc hex
    obtain ⟨ts, hlen, heq⟩ := rejoined_eq (s := s) (w := { w with parked := w.parked && w.owes }) (c := c)
    refine ⟨_, by rw [settled, hconclude], by rw [heq], by rw [heq]; exact hlen, fun n t ht => ?_⟩
    refine ⟨_, thread_gathered (s := s) (w := { w with parked := w.parked && w.owes }) hu hg hpc hex ht, fun hw => ?_, fun hw => ?_, ?_⟩
    · dsimp only
      rw [if_pos hw]
    · dsimp only
      rw [if_neg hw]
      split <;> rfl
    · have hpct : t.live = true ∧ t.cohort = c → t.pc = pc := fun ⟨hl, hc⟩ => hpc t (List.mem_of_getElem? ht) hl hc
      by_cases hr : t.live = true ∧ t.cohort = c
      · simp only [if_pos hr, ← hpct hr]
        split <;> rfl
      · simp only [if_neg hr]
        split <;> rfl
  · intro s k c w hw hu hcauses hdet howes hphase hat hex
    obtain ⟨t, ht, u, hu', hlt, hlu, hct, hcu, hne⟩ := hex
    have hg : Gathered w c := fun t ht => (hat t ht).2
    obtain ⟨i, hi⟩ := List.mem_iff_getElem?.mp ht
    obtain ⟨j, hj⟩ := List.mem_iff_getElem?.mp hu'
    have hti : (i, t) ∈ members w c := mem_members.mpr ⟨hi, hlt, hct⟩
    have huj : (j, u) ∈ members w c := mem_members.mpr ⟨hj, hlu, hcu⟩
    have htwo : 2 ≤ (rcbPcs (members w c)).length :=
      two_le_of_distinct (List.mem_map.mpr ⟨_, hti, rfl⟩) (List.mem_map.mpr ⟨_, huj, rfl⟩) hne
    have hpcs : rcbPcs (members w c) ≠ [] := fun h => by simp [h] at htwo
    obtain ⟨hleast, hle⟩ := leastPc_mem hpcs
    have hflat : members w c = w.numbered.filter (fun p => p.2.live && p.2.cohort == c) := by
      simp only [members, List.filter_filter, Bool.and_comm]
    have hthreads : (members w c).map (fun p => p.2.pc) = (w.threads.filter (fun t => t.live && t.cohort == c)).map (·.pc) := by
      rw [hflat, ← numbered_snd w.threads (fun t => t.live && t.cohort == c) 0, List.map_map]
      rfl
    refine ⟨mismatchCause w c, rfl, rfl, ?_, fun v hv hl hc => ?_, ?_, ?_, rfl, ?_⟩
    · obtain ⟨p, hp, hpc⟩ := List.mem_map.mp (List.mem_eraseDups.mp hleast)
      obtain ⟨hp1, hp2, hp3⟩ := mem_members.mp hp
      exact ⟨p.2, List.mem_of_getElem? hp1, hp2, hp3, hpc⟩
    · obtain ⟨m, hm⟩ := List.mem_iff_getElem?.mp hv
      have hmem : (m, v) ∈ members w c := mem_members.mpr ⟨hm, hl, hc⟩
      exact hle _ (List.mem_eraseDups.mpr (List.mem_map.mpr ⟨_, hmem, rfl⟩))
    · rw [← hthreads]
      rfl
    · rw [← hflat]
      rfl
    · rw [settled, conclude_mismatch hw hu hcauses hdet howes hphase (fun t ht => (hat t ht).1) hg ⟨t, ht, hlt, hct⟩ htwo]

end Sys2Proof.Proofs.Reconverge
end

section

/-! PROOFS: barriers, ended waves, register requests and pins. -/

namespace Sys2Proof.Proofs.Barriers
open Sys2Proof Sys2Proof.Machine Sys2Proof.Terms Sys2Proof.Laws Sys2Proof.Proofs Sys2Proof.Proofs.Quiet Sys2Proof.Proofs.Return Sys2Proof.Proofs.Packed

variable {s : State} {k : Nat} {w : Wave}

theorem mmod_present {α : Type} {m : FMap α} {k : Nat} {v : α} (h : mget m k = some v) (f : α → α) : mmod m k f = mset m k (f v) := by
  simp only [mmod, h]

/-- The threads of a wave that a condition picks out all stand as it says, the first of them included. -/
theorem head_thread {p : Thread → Bool} {who : List Nat} (hwho : who = (w.numbered.filter (fun e => p e.2)).map (·.1)) (hne : who ≠ []) :
    ∃ t, who.head?.bind w.thread = some t ∧ t ∈ w.threads ∧ p t = true := by
  obtain ⟨q, l, hl⟩ : ∃ q l, w.numbered.filter (fun e => p e.2) = q :: l := by
    cases h : w.numbered.filter (fun e => p e.2) with
    | nil => exact absurd (by rw [hwho, h]; rfl) hne
    | cons q l => exact ⟨q, l, rfl⟩
  obtain ⟨hq, hp⟩ := List.mem_filter.mp (hl ▸ List.mem_cons_self : q ∈ w.numbered.filter fun e => p e.2)
  have ht := thread_of_numbered hq
  exact ⟨q.2, by rw [hwho, hl]; exact ht, List.mem_of_getElem? ht, hp⟩

theorem filter_numbered_congr {p q : Thread → Bool} (h : ∀ t ∈ w.threads, p t = q t) :
    w.numbered.filter (fun e => p e.2) = w.numbered.filter (fun e => q e.2) :=
  List.filter_congr fun _ he => h _ (List.mem_of_getElem? (thread_of_numbered he))

/-! ## Named barriers (06 R229) -/

/-- A thread's arrival has yet to count. -/
def arriving (t : Thread) : Bool := match t.hold with
  | .arrive _ _ _ _ => true
  | _ => false

theorem arriveNamed_unit {n count : Nat} {wait : Bool} {tids : List Nat} (hw : mget s.waves k = some w) :
    ((mget (arriveNamed s k n count wait tids).waves k).map (·.unit)).getD 0 = w.unit := by
  simp only [arriveNamed, hw]
  split
  · rw [hw]; rfl
  · simp only [setW, mget_mset_same]
    split <;> rfl

theorem countArrivals_named {n count : Nat} {wait : Bool} {who : List Nat} (hw : mget s.waves k = some w) (hperf : w.unperformed = false)
    (hwho : who = (w.numbered.filter (fun p => p.2.hold == .arrive false n count wait)).map (·.1)) (hne : who ≠ [])
    (hall : ∀ t ∈ w.threads, ∀ tr m c wt, t.hold = .arrive tr m c wt → tr = false ∧ m = n ∧ c = count ∧ wt = wait) :
    countArrivals s k = arriveNamed (setW s k (w.openSections s.nextId who)) k n count wait who := by
  have hsame : ∀ t ∈ w.threads, arriving t = (t.hold == .arrive false n count wait) := fun t ht => by
    unfold arriving
    split
    · next tr m c wt h =>
      obtain ⟨rfl, rfl, rfl, rfl⟩ := hall t ht tr m c wt h
      rw [h]
      exact (beq_self_eq_true _).symm
    · next h =>
      refine (beq_eq_false_iff_ne.mpr fun he => ?_).symm
      exact h _ _ _ _ he
  have hwho' : who = (w.numbered.filter (fun p => arriving p.2)).map (·.1) := by rw [hwho, filter_numbered_congr hsame]
  obtain ⟨t, hhead, ht, harr⟩ := head_thread hwho' hne
  have hhold : t.hold = .arrive false n count wait := by
    rw [hsame t ht] at harr
    exact eq_of_beq harr
  unfold countArrivals
  simp (config := { zeta := false }) only [hw, hperf, Bool.false_eq_true, if_false]
  extract_lets who'
  have hsub : who' = who := hwho'.symm
  clear_value who'
  subst hsub
  rw [hhead]
  simp only [hhold]
  rfl

theorem barrierArrive_completes {n count : Nat} {wait : Bool} {who : List Nat} (hw : mget s.waves k = some w)
    (hperf : w.unperformed = false)
    (hwho : who = (w.numbered.filter (fun p => p.2.hold == .arrive false n count wait)).map (·.1)) (hne : who ≠ [])
    (hall : ∀ t ∈ w.threads, ∀ tr m c wt, t.hold = .arrive tr m c wt → tr = false ∧ m = n ∧ c = count ∧ wt = wait) :
    let a := arriveNamed (setW s k (w.openSections s.nextId who)) k n count wait who
    exec (.barrierArrive k) s = .next (nextFree (concludeAll a (k :: (unitWaves a w.unit).filter (· != k)))) := by
  have hexec : exec (.barrierArrive k) s = execBarrierArrive k s := rfl
  have hunit := arriveNamed_unit (s := setW s k (w.openSections s.nextId who)) (n := n) (count := count) (wait := wait) (tids := who)
    (mget_mset_same ..)
  intro a
  rw [hexec, execBarrierArrive, countArrivals_named hw hperf hwho hne hall]
  simp only [hunit]
  rfl

/-- 01 R37: an arrival that agrees with the count of the barrier. -/
theorem arrive_agrees (live count : Nat) (b : Bar) (h : b.count = none ∨ b.count = some count) :
    let full := if count = 0 then live ≤ b.arrived + 1 else count ≤ b.arrived + 1
    Bar.arrive live count b =
      (if full then ⟨b.phase + 1, none, 0, b.since⟩ else ⟨b.phase, some count, b.arrived + 1, b.since⟩, false) := by
  have hfull : Bar.full live { b with count := some count, arrived := b.arrived + 1 } =
      decide (if count = 0 then live ≤ b.arrived + 1 else count ≤ b.arrived + 1) := by
    cases count with
    | zero => simp [Bar.full]
    | succ n => simp [Bar.full]
  obtain h | h := h <;> simp [Bar.arrive, h, hfull, Bar.next]

/-! ## Tree barriers and ended waves (01 R38; 06 R221) -/

theorem treePhase_completes {n plat unit tier : Nat} {l : Launch} {b : TreeBar} (hl : mget s.launches n = some l)
    (htier : platTier l plat = some tier) (hb : mget l.trees (plat + 8 * unit) = some b) (hfull : treeFull s n l tier unit b = true)
    (hshown : scopeShown s n l tier b = true) (hcycle : s.cycle ≠ b.since) :
    let left := b.arrived.filterMap (fun e => if e.2 ≤ 1 then none else some (e.1, e.2 - 1))
    let b' : TreeBar := ⟨b.phase + 1, left, b.since, if left = [] then [] else b.dies⟩
    let a : State := { s with launches := mset s.launches n { l with trees := mset l.trees (plat + 8 * unit) b' } }
    exec (.treeBarrierPhaseComplete n plat unit) s = .next (nextFree (concludeAll a (launchWaves s n))) := by
  have hexec : exec (.treeBarrierPhaseComplete n plat unit) s = .next (nextFree (treePhase s n plat unit)) := rfl
  intro left b' a
  have hphase : treePhase s n plat unit = concludeAll a (launchWaves s n) := by
    have hc : (s.cycle == b.since) = false := beq_eq_false_iff_ne.mpr hcycle
    simp only [treePhase, hl, htier, hb, hfull, hshown, hc, modL, mmod_present hl, List.isEmpty_iff]
    rfl
  rw [hexec, hphase]

theorem not_live_of_exited (hex : ∀ t ∈ w.threads, t.st = .exited) : w.threads.any (·.live) = false :=
  List.any_eq_false.mpr fun t ht => by simp [Thread.live, hex t ht]

theorem waveSlotFree_ended (hw : mget s.waves k = some w) (hex : ∀ t ∈ w.threads, t.st = .exited) (hdet : w.det = false)
    (hld : w.ldq = []) (hst : w.stq = []) (hen : w.enq = []) :
    waveSlotFree s k = finishUnit
      { s with
        waves := mdel s.waves k, binds := mmod s.binds k (fun b => { b with state := 0 }),
        units := mmod s.units w.unit
          (fun u => { u with gone := w.threads.foldl (fun m t => mset m t.lidx t.digest) u.gone }) } w.unit := by
  simp only [waveSlotFree, hw, not_live_of_exited hex, hld, hst, hen, removeWave, hdet]
  rfl

theorem waveSlotFree_waits (hw : mget s.waves k = some w)
    (h : (∃ t ∈ w.threads, t.live = true) ∨ w.ldq ≠ [] ∨ w.stq ≠ [] ∨ w.enq ≠ []) : waveSlotFree s k = s := by
  have hcond : (w.threads.any (·.live) || !w.ldq.isEmpty || !w.stq.isEmpty || !w.enq.isEmpty) = true := by
    simp only [Bool.or_eq_true, List.any_eq_true, Bool.not_eq_true', List.isEmpty_eq_false_iff, or_assoc]
    exact h
  simp only [waveSlotFree, hw, hcond, if_true]

/-- Settles O40: arrivals count, phases complete, ended waves leave. -/
theorem barriersCompleteAndEndedWavesLeave : Obligations.BarriersCompleteAndEndedWavesLeave := by
  refine ⟨?_, arrive_agrees, ?_, ?_, ?_⟩
  · intro s k n count w wait who hw hperf hwho hne hall
    exact barrierArrive_completes hw hperf hwho hne hall
  · intro s n plat unit tier l b hl htier hb hfull hshown hcycle
    exact treePhase_completes hl htier hb hfull hshown hcycle
  · intro s k w hw hex hdet hld hst hen
    have hexec : exec (.waveSlotFree k) s = .next (nextFree (waveSlotFree s k)) := rfl
    rw [hexec, waveSlotFree_ended hw hex hdet hld hst hen]
  · intro s k w hw h
    have hexec : exec (.waveSlotFree k) s = .next (nextFree (waveSlotFree s k)) := rfl
    rw [hexec, waveSlotFree_waits hw h]

end Sys2Proof.Proofs.Barriers
end

section

/-! PROOFS: requests for registers that are met, deadlocks, and pins (02 R66-R71; 08 R308, R310). -/

namespace Sys2Proof.Proofs.Requests
open Sys2Proof Sys2Proof.Machine Sys2Proof.Terms Sys2Proof.Laws Sys2Proof.Proofs Sys2Proof.Proofs.Quiet Sys2Proof.Proofs.Return
  Sys2Proof.Proofs.Packed Sys2Proof.Proofs.Barriers

variable {s : State} {k : Nat} {w : Wave}

theorem firstRequest_head {core quad n : Nat} {rest : List (Nat × Nat)} (hreqs : quadReqs s core quad = (k, n) :: rest)
    (hw : mget s.waves k = some w) (hdet : w.det = false) : firstRequest s core quad = some (k, n) := by
  simp only [firstRequest, hreqs, hw, hdet]
  rfl

theorem xacqGrant_blocks {core quad n : Nat} {rest : List (Nat × Nat)} (hreqs : quadReqs s core quad = (k, n) :: rest) (hn : n ≠ 4)
    (hw : mget s.waves k = some w) (hdet : w.det = false)
    (hfree : n ≤ w.xblk ∨ laneRegs w.grant w.triple (n - w.xblk) ≤ quadFree s core quad) :
    xacqGrant s core quad = meetRequests s k (if w.xblk < n then holdBlocks n w else w) := by
  simp only [xacqGrant, firstRequest_head hreqs hw hdet, hw, beq_eq_false_iff_ne.mpr hn, Bool.false_eq_true, if_false]
  by_cases hle : n ≤ w.xblk
  · rw [if_pos hle, if_neg (Nat.not_lt.mpr hle)]
  · rw [if_neg hle, if_pos (hfree.resolve_left hle), if_pos (Nat.lt_of_not_le hle)]

theorem xblk_held (n : Nat) (w : Wave) : (if w.xblk < n then holdBlocks n w else w).xblk = max n w.xblk := by
  split
  · next h => exact (Nat.max_eq_left h.le).symm
  · next h => exact (Nat.max_eq_right (Nat.not_lt.mp h)).symm

theorem core_held (n : Nat) (w : Wave) : (if w.xblk < n then holdBlocks n w else w).core = w.core := by
  split <;> rfl

theorem priv_held (n : Nat) (w : Wave) : (if w.xblk < n then holdBlocks n w else w).priv = w.priv := by
  split <;> rfl

theorem meetRequests_held (n : Nat) (w : Wave) :
    let m := max n w.xblk
    let w' : Wave :=
      { (if w.xblk < n then holdBlocks n w else w).mapThreads (Thread.passXacq s.cycle m) with
        priv := w.priv.map (fun p => { p with kept := p.kept.map (Thread.meetXacq m) }) }
    let x := getC s w.core
    meetRequests s k (if w.xblk < n then holdBlocks n w else w) = conclude
      { setW s k w' with
        cores := mset s.cores w.core { x with reqs := x.reqs.filter (fun r => !(r.1 == k && r.2 != 4 && decide (r.2 ≤ m))) } } k := by
  have hx := xblk_held n w
  have hc := core_held n w
  have hp := priv_held n w
  generalize (if w.xblk < n then holdBlocks n w else w) = v at hx hc hp
  rw [← hx, ← hc, ← hp]
  rfl

theorem xacqGrant_recharge {core quad : Nat} {rest : List (Nat × Nat)} (hreqs : quadReqs s core quad = (k, 4) :: rest)
    (hw : mget s.waves k = some w) (hdet : w.det = false) (hpriv : w.priv = none)
    (hfree : 64 * w.grant * (w.xblk + 1) ≤ quadFree s core quad) :
    xacqGrant s core quad = conclude (dropRequest (setW s k (switchMode s.nextId s.cycle true w)) k) k := by
  simp only [xacqGrant, firstRequest_head hreqs hw hdet, hw, hpriv, Option.isNone_none, Bool.true_and, decide_eq_true hfree, if_true,
    beq_self_eq_true]

/-! ## Deadlocks (02 R71) -/

theorem deadlockTrap_ripe {core : Nat} (hdead : deadlocked s core = true) (hripe : 1024 ≤ (getC s core).deadCycles) :
    deadlockTrap s core = ((s.waves.filter (fun e => e.2.core == core)).map (·.1)).foldl deadTrap
      { s with cores := mset s.cores core { getC s core with deadCycles := 0 } } := by
  simp only [deadlockTrap, hdead, decide_eq_false (Nat.not_lt.mpr hripe), Bool.not_true, Bool.or_self, Bool.false_eq_true, if_false]
  rfl

theorem deadlockTrap_early {core : Nat} (h : deadlocked s core = false ∨ (getC s core).deadCycles < 1024) :
    deadlockTrap s core = s := by
  obtain h | h := h
  · simp only [deadlockTrap, h, Bool.not_false, Bool.true_or, if_true]
  · simp only [deadlockTrap, decide_eq_true h, Bool.or_true, if_true]

theorem deadTrap_stuck {who : List Nat} (hw : mget s.waves k = some w)
    (hwho : who = (w.numbered.filter (fun p => p.2.stuck)).map (·.1)) (hne : who ≠ []) :
    let w' := w.mapThreads (fun t => match t.hold with
      | .xacq _ => { t with st := .ready, hold := .none }
      | .recharge _ => { t with st := .ready, hold := .none }
      | _ => t)
    deadTrap s k = conclude (addCause (dropRequest (setW s k w') k) k ⟨cDeadlock, 0#64, 0#64, 0#32, 0, maskOf who⟩) k := by
  subst hwho
  intro w'
  simp only [deadTrap, hw, List.isEmpty_eq_false_iff.mpr hne, Bool.false_eq_true, if_false]
  rfl

/-! ## Pins (08 R308, R310) -/

/-- A thread waits at a `vpin` (or, with `false`, a `vunpin`). -/
def pinning (vpin : Bool) (t : Thread) : Bool := match t.hold with
  | .vpin _ => vpin
  | .vunpin => !vpin
  | _ => false

theorem pinNow_eq {vpin : Bool} {who : List Nat} {t : Thread} (hw : mget s.waves k = some w)
    (hwho : who = (w.numbered.filter (fun p => pinning vpin p.2)).map (·.1)) (hhead : who.head?.bind w.thread = some t) (hld : w.ldq = []) :
    pinNow s k vpin =
      (let pin : Option Pin := match t.hold with
        | .vpin o => some ⟨o, groupVersion s o⟩
        | _ => none
      let w' : Wave := { w.onTids who (fun _ t => { t with st := .ready, hold := .none, wake := max t.wake (s.cycle + 1) }) with pin := pin }
      conclude (sweepRanges (setW s k (if vpin then w'.openSections s.nextId who else w'))) k) := by
  unfold pinNow
  simp (config := { zeta := false }) only [hw]
  extract_lets is who'
  have hsub : who' = who := hwho.symm
  clear_value who'
  subst hsub
  rw [hhead]
  simp only [hld, List.isEmpty_nil, Bool.not_true, Bool.false_eq_true, if_false]
  rfl

theorem pinNow_vpin {o : Nat} {who : List Nat} (hw : mget s.waves k = some w)
    (hwho : who = (w.numbered.filter (fun p => p.2.hold == .vpin o)).map (·.1)) (hne : who ≠ []) (hld : w.ldq = [])
    (hall : ∀ t ∈ w.threads, ∀ o', t.hold = .vpin o' → o' = o) :
    pinNow s k true = conclude (sweepRanges (setW s k
      (Wave.openSections { w.onTids who (fun _ t =>
          { t with st := .ready, hold := .none, wake := max t.wake (s.cycle + 1) }) with
        pin := some ⟨o, groupVersion s o⟩ } s.nextId who))) k := by
  obtain ⟨t, hhead, -, hhold⟩ := head_thread (p := fun t => t.hold == .vpin o) hwho hne
  have hsame : ∀ t ∈ w.threads, pinning true t = (t.hold == .vpin o) := fun t ht => by
    unfold pinning
    split
    · next o' h => rw [h, hall t ht o' h, beq_self_eq_true]
    · next h => rw [h]; rfl
    · next h _ => exact (beq_eq_false_iff_ne.mpr (h o)).symm
  have hwho' : who = (w.numbered.filter (fun p => pinning true p.2)).map (·.1) := by rw [hwho, filter_numbered_congr hsame]
  rw [pinNow_eq hw hwho' hhead hld, eq_of_beq hhold]
  rfl

theorem pinNow_vunpin {who : List Nat} (hw : mget s.waves k = some w)
    (hwho : who = (w.numbered.filter (fun p => p.2.hold == .vunpin)).map (·.1)) (hne : who ≠ []) (hld : w.ldq = []) :
    pinNow s k false = conclude (sweepRanges (setW s k
      { w.onTids who (fun _ t => { t with st := .ready, hold := .none, wake := max t.wake (s.cycle + 1) }) with pin := none })) k := by
  obtain ⟨t, hhead, -, hhold⟩ := head_thread (p := fun t => t.hold == .vunpin) hwho hne
  have hsame : ∀ t ∈ w.threads, pinning false t = (t.hold == .vunpin) := fun t _ => by
    unfold pinning
    split
    · next o' h => rw [h]; rfl
    · next h => rw [h]; rfl
    · next h => exact (beq_eq_false_iff_ne.mpr h).symm
  have hwho' : who = (w.numbered.filter (fun p => pinning false p.2)).map (·.1) := by rw [hwho, filter_numbered_congr hsame]
  rw [pinNow_eq hw hwho' hhead hld, eq_of_beq hhold]
  rfl

/-- Settles O41: requests are met in their order, deadlocks trap, pins are taken and released. -/
theorem requestsPinsAndDeadlocks : Obligations.RequestsPinsAndDeadlocks := by
  refine ⟨?_, ?_, ?_, ?_, ?_, ?_, ?_⟩
  · intro s core quad k n rest w hreqs hn hw hdet hfree
    have hexec : exec (.xacqGrant core quad) s = .next (nextFree (xacqGrant s core quad)) := rfl
    intro m w' x
    rw [hexec, xacqGrant_blocks hreqs hn hw hdet hfree, meetRequests_held]
  · intro s core quad k rest w hreqs hw hdet hpriv hfree
    have hexec : exec (.xacqGrant core quad) s = .next (nextFree (xacqGrant s core quad)) := rfl
    rw [hexec, xacqGrant_recharge hreqs hw hdet hpriv hfree]
  · intro s core hdead hripe
    have hexec : exec (.deadlockTrap core) s = .next (nextFree (deadlockTrap s core)) := rfl
    rw [hexec, deadlockTrap_ripe hdead hripe]
  · intro s core h
    have hexec : exec (.deadlockTrap core) s = .next (nextFree (deadlockTrap s core)) := rfl
    rw [hexec, deadlockTrap_early h]
  · intro s k w who hw hwho hne
    exact deadTrap_stuck hw hwho hne
  · intro s k o w who hw hwho hne hld hall
    have hexec : exec (.vpinPin k) s = .next (nextFree (pinNow s k true)) := rfl
    rw [hexec, pinNow_vpin hw hwho hne hld hall]
  · intro s k w who hw hwho hne hld
    have hexec : exec (.vunpinRelease k) s = .next (nextFree (pinNow s k false)) := rfl
    rw [hexec, pinNow_vunpin hw hwho hne hld]

end Sys2Proof.Proofs.Requests
end

section

/-! PROOFS: save limits, samples and instruction fetches (06 R244-R246; 12 R375; 14 R420). -/

namespace Sys2Proof.Proofs.Samples
open Sys2Proof Sys2Proof.Machine Sys2Proof.Terms Sys2Proof.Laws Sys2Proof.Proofs Sys2Proof.Proofs.Quiet Sys2Proof.Proofs.Return
  Sys2Proof.Proofs.Packed Sys2Proof.Proofs.Barriers

variable {s : State} {k : Nat} {w : Wave}

theorem saveLimit_eq {p : Priv} {x : Context} (hw : mget s.waves k = some w) (hp : w.priv = some p)
    (hx : mget s.contexts w.cid = some x) (hcode : p.cause.code = cPreempt) (hpre : w.pre ≠ .saved) (hlim : x.savelim ≠ 0) :
    saveLimit s k = if 1024 * x.savelim < s.cycle - p.since then
      endContext s w.cid (some (w, ⟨cPreempt, 0#64, 0#64, 0#32, 0, 0#64⟩)) else s := by
  have hpre' : (w.pre != .saved) = true := bne_iff_ne.mpr hpre
  have hlim' : (x.savelim != 0) = true := bne_iff_ne.mpr hlim
  simp only [saveLimit, hw, hp, hx, hcode, hpre', hlim', handlerFault, beq_self_eq_true, Bool.true_and, decide_eq_true_eq]

theorem sampleTake_eq {core : Nat} {m : Sampler} (hm : (getC s core).sampler = some m) :
    sampleTake s core = if m.start + (m.k + 1) * m.period ≤ s.cycle then
        { s with cores := mset s.cores core { getC s core with
            sampler := some { m with
              k := m.k + 1, pending := m.pending ++ (sampledWaves s core m).filterMap (sampleOf s ((m.k + 1) * m.period)) } } }
      else s := by
  simp only [sampleTake, sampleDue, hm, Bool.not_eq_true', decide_eq_false_iff_not, ite_not]
  split
  · rfl
  · rfl

/-! ## Samples (06 R244, R245) -/

theorem sampleOf_live {cyc tid : Nat} {t : Thread} (hfind : w.scan.find? (fun p => p.2.live) = some (tid, t)) :
    sampleOf s cyc (k, w) = some (t.pc.toNat * 2 ^ 64 + cyc % 2 ^ 32 * 2 ^ 32 + sampleReason s k w tid t * 2 ^ 24 + w.slot * 2 ^ 16 +
      (if w.parked || w.pausing then 0 else (w.threads.filter (fun t => t.st == .ready)).length) * 2 ^ 8) := by
  simp only [sampleOf, hfind, Option.map_some]

theorem sampleOf_dead {cyc : Nat} (hdead : ∀ t ∈ w.threads, t.live = false) : sampleOf s cyc (k, w) = none := by
  have hfind : w.scan.find? (fun p => p.2.live) = none := by
    refine List.find?_eq_none.mpr fun p hp => ?_
    have hp : p ∈ w.numbered := by
      obtain h | h := List.mem_append.mp hp
      · exact List.mem_of_mem_drop h
      · exact List.mem_of_mem_take h
    rw [hdead _ (numbered_mem hp)]
    exact Bool.false_ne_true
  simp only [sampleOf, hfind, Option.map_none]

/-- One pending sample is written, or dropped. -/
def flushOne (m : Sampler) (core : Nat) (s : State) (v : Nat) : State :=
  let set (s : State) (f : Sampler → Sampler) : State := modC s core (fun c => { c with sampler := c.sampler.map f })
  let n := (((getC s core).sampler).map (·.nwr)).getD 0
  match if m.cap ≤ n then (s, false) else userStore s m.cid core ((m.buf.toNat + 16 * n) % 2 ^ 64) (numBytes 16 v) true with
  | (s, false) => set s (fun x => { x with ndrop := min (2 ^ 32 - 1) (x.ndrop + 1) })
  | (s, true) => set s (fun x => { x with nwr := x.nwr + 1 })

theorem flushSamples_eq {core : Nat} {m : Sampler} (hm : (getC s core).sampler = some m) :
    flushSamples s core = m.pending.foldl (flushOne m core)
      { s with cores := mset s.cores core { getC s core with sampler := some { m with pending := [] } } } := by
  unfold flushSamples
  rw [hm]
  rfl

theorem flushOne_eq {a : State} {core v : Nat} {m x : Sampler} (hx : (getC a core).sampler = some x) :
    let stored := if x.nwr < m.cap then userStore a m.cid core ((m.buf.toNat + 16 * x.nwr) % 2 ^ 64) (numBytes 16 v) true else (a, false)
    flushOne m core a v =
      { stored.1 with cores := mset stored.1.cores core { getC stored.1 core with
          sampler := (getC stored.1 core).sampler.map fun x =>
            if stored.2 then { x with nwr := x.nwr + 1 } else { x with ndrop := min (2 ^ 32 - 1) (x.ndrop + 1) } } } := by
  intro stored
  have hstored : (if m.cap ≤ x.nwr then (a, false)
      else userStore a m.cid core ((m.buf.toNat + 16 * x.nwr) % 2 ^ 64) (numBytes 16 v) true) = stored := by
    by_cases h : m.cap ≤ x.nwr
    · simp only [stored, if_pos h, if_neg (Nat.not_lt.mpr h)]
    · simp only [stored, if_neg h, if_pos (Nat.not_le.mp h)]
  simp only [flushOne, hx, Option.map_some, Option.getD_some, hstored]
  clear_value stored
  obtain ⟨b, written⟩ := stored
  cases written <;> rfl

theorem flushSamples_one {a : State} {core v : Nat} {m : Sampler} (hm : (getC s core).sampler = some m) (hv : m.pending = [v])
    (ha : a = { s with cores := mset s.cores core { getC s core with sampler := some { m with pending := [] } } }) :
    let stored := if m.nwr < m.cap then userStore a m.cid core ((m.buf.toNat + 16 * m.nwr) % 2 ^ 64) (numBytes 16 v) true else (a, false)
    flushSamples s core =
      { stored.1 with cores := mset stored.1.cores core { getC stored.1 core with
          sampler := (getC stored.1 core).sampler.map fun x =>
            if stored.2 then { x with nwr := x.nwr + 1 } else { x with ndrop := min (2 ^ 32 - 1) (x.ndrop + 1) } } } := by
  have hx : (getC a core).sampler = some { m with pending := [] } := by
    rw [ha, getC, mget_mset_same]
    rfl
  rw [flushSamples_eq hm, hv, List.foldl_cons, List.foldl_nil, ← ha]
  have hone := flushOne_eq (m := m) (v := v) hx
  exact hone

theorem fetch_misplaced {pc : W64} (h : pc.toNat % 4 ≠ 0 ∨ 2 ^ 56 ≤ pc.toNat) : fetch s w pc = .trap := by
  have hcond : (pc.toNat % 4 != 0 || decide (2 ^ 56 ≤ pc.toNat)) = true := by
    simpa only [Bool.or_eq_true, bne_iff_ne, decide_eq_true_eq] using h
  simp only [fetch, hcond, if_true]

/-! ## Fetches (14 R420) -/

/-- The threads that fetch together with `t`. -/
def fetchingWith (w : Wave) (t : Thread) : List Nat := (w.numbered.filter (fun p => p.2.st == .ready && t.like p.2)).map (·.1)

theorem instructionFetch_fails {tid : Nat} {t : Thread} (hw : mget s.waves k = some w) (ht : w.thread tid = some t)
    (hst : t.st = .ready) (hstop : w.stopped = false) (hword : ∀ n, fetch s w t.pc ≠ .word n) :
    instructionFetch s k tid = conclude (fetchFails s k t.pc (fetchingWith w t) (fetch s w t.pc)) k := by
  have hgo : (t.st != .ready || w.stopped) = false := by rw [hst, hstop]; rfl
  simp only [instructionFetch, hw, ht, hgo, Bool.false_eq_true, if_false]
  rfl

theorem instructionFetch_word {tid n : Nat} {t : Thread} (hw : mget s.waves k = some w) (ht : w.thread tid = some t)
    (hst : t.st = .ready) (hstop : w.stopped = false) (hword : fetch s w t.pc = .word n) : instructionFetch s k tid = s := by
  have hgo : (t.st != .ready || w.stopped) = false := by rw [hst, hstop]; rfl
  simp only [instructionFetch, hw, ht, hgo, Bool.false_eq_true, if_false, hword]

theorem fetchFails_trap {pc : W64} {tids : List Nat} (hw : mget s.waves k = some w) (hu : w.priv = none)
    (hlive : w.threads.any (·.live) = true) :
    fetchFails s k pc tids .trap = setW s k { w with causes := w.causes ++ [⟨cFetch, pc, 0#64, 0#32, 0, maskOf tids⟩] } := by
  simp only [fetchFails, meetCause, addCause, hw, hu, hlive, Option.isSome_none, Bool.false_eq_true, if_false, if_true]

theorem fetchFails_fault {pc : W64} {tids : List Nat} {r : Nat} (hw : mget s.waves k = some w) (hu : w.priv = none) :
    fetchFails s k pc tids (.fault r) = formSiding s k (kExec + kLane) (tids.map (fun n => (n, pc.toNat, r))) tids := by
  simp only [fetchFails, hw, hu, Option.isSome_none, Bool.false_eq_true, if_false]

theorem fetchFails_viol {pc : W64} {tids : List Nat} {pa : Nat} (hw : mget s.waves k = some w) :
    fetchFails s k pc tids (.viol pa) = freezeWave s k pc pc.toNat pa := by
  simp only [fetchFails, hw]

theorem fetchFails_away {pc : W64} {tids : List Nat} (hw : mget s.waves k = some w) :
    fetchFails s k pc tids .away = askFar s k pc.toNat 0 tids := by
  simp only [fetchFails, hw]

/-- Settles O42: the save limit, samples and fetches. -/
theorem limitsSamplesAndFetches : Obligations.LimitsSamplesAndFetches := by
  refine ⟨?_, ?_, ?_, ?_, ?_, fun s w pc h => fetch_misplaced h⟩
  · intro s k w p x hw hp hx hcode hpre hlim
    have hexec : exec (.saveLimitExpiry k) s = .next (nextFree (saveLimit s k)) := rfl
    rw [hexec, saveLimit_eq hw hp hx hcode hpre hlim]
  · intro s core m hm
    have hexec : exec (.sampleTake core) s = .next (nextFree (sampleTake s core)) := rfl
    rw [hexec, sampleTake_eq hm]
  · intro s cyc k w
    exact ⟨fun tid t hfind => sampleOf_live hfind, sampleOf_dead⟩
  · intro s a core v m hm hv ha
    exact flushSamples_one hm hv ha
  · intro s k tid w t hw ht hst hstop
    have hexec : exec (.instructionFetch k tid) s = .next (nextFree (instructionFetch s k tid)) := rfl
    have hlive : w.threads.any (·.live) = true :=
      List.any_eq_true.mpr ⟨t, List.mem_of_getElem? ht, by simp [Thread.live, hst]⟩
    have hfails := instructionFetch_fails hw ht hst hstop
    rw [hexec]
    refine ⟨fun n hn => ?_, fun hf hu => ?_, fun r hf hu => ?_, fun pa hf => ?_, fun hf => ?_⟩
    · rw [instructionFetch_word hw ht hst hstop hn]
    · rw [hfails (fun n => by rw [hf]; exact Fetched.noConfusion), hf, fetchFails_trap hw hu hlive]
      rfl
    · rw [hfails (fun n => by rw [hf]; exact Fetched.noConfusion), hf, fetchFails_fault hw hu]
      rfl
    · rw [hfails (fun n => by rw [hf]; exact Fetched.noConfusion), hf, fetchFails_viol hw]
    · rw [hfails (fun n => by rw [hf]; exact Fetched.noConfusion), hf, fetchFails_away hw]
      rfl

end Sys2Proof.Proofs.Samples
end

section

/-! PROOFS: results that arrive, and lanes of loads that are bound (02 R82, R83; 04 R152, R153; 08 R286, R295). -/

namespace Sys2Proof.Proofs.Results
open Sys2Proof Sys2Proof.Machine Sys2Proof.Terms Sys2Proof.Laws Sys2Proof.Proofs Sys2Proof.Proofs.Quiet Sys2Proof.Proofs.Return
  Sys2Proof.Proofs.Packed Sys2Proof.Proofs.Barriers

variable {s : State} {k : Nat} {w : Wave}

/-! ## Register copies that a result reaches -/

/-- Register copies after a result of `vals` in register `p`, or the pair that begins there. -/
def landed (p : Nat) (wide : Bool) (vals : List Nat) (m : FMap Cell) : FMap Cell :=
  if wide then putCells (putCells m p false 0 vals) (p + 1) false 0 (vals.map (· / 2 ^ 32)) else putCells m p false 0 vals

theorem zget_putCells_from_zero (m : FMap Cell) (spec key : Nat) {vals : List Nat} (hlen : vals.length ≤ 3) :
    zget (Cell.val 0#32) (putCells m spec false 0 vals) key =
      if key / 4 = spec then (vals[key % 4]?.map (fun v => Cell.val (BitVec.ofNat 32 v))).getD (zget (Cell.val 0#32) m key)
      else zget (Cell.val 0#32) m key := by
  rw [zget_putCells m spec false 0 vals key (by omega)]
  simp only [Bool.false_eq_true, false_and, if_false, Nat.zero_le, and_true, Nat.sub_zero]

theorem zget_landed (p : Spec) (wide : Bool) {vals : List Nat} (m : FMap Cell) (key : Nat) (hp : p.toNat < 0x68)
    (hlen : vals.length ≤ 3) :
    zget (Cell.val 0#32) (landed p.toNat wide vals m) key = cellAfter p wide vals key (zget (Cell.val 0#32) m key) := by
  have hne : key / 4 = p.toNat + 1 → ¬ key / 4 = p.toNat := by omega
  have hhigh : (vals.map (· / 2 ^ 32)).length ≤ 3 := by rwa [List.length_map]
  cases wide with
  | false =>
    simp only [landed, cellAfter, Bool.false_eq_true, false_and, if_false, if_neg (Nat.not_le.mpr hp), zget_putCells_from_zero _ _ _ hlen]
  | true =>
    simp only [landed, cellAfter, true_and, if_true, if_neg (Nat.not_le.mpr hp), zget_putCells_from_zero _ _ _ hlen,
      zget_putCells_from_zero _ _ _ hhigh, List.getElem?_map, Option.map_map]
    by_cases hk : key / 4 = p.toNat + 1
    · simp only [if_pos hk, if_neg (hne hk)]
      rfl
    · simp only [if_neg hk]

theorem deliver_eq {t : Thread} {id keep : Nat} {wide : Bool} {vals : List Nat} {p : Nat} (hl : t.live = true) (hp : p < 0x68)
    (hclob : t.clobbered = []) :
    t.deliver id (4 * p) wide vals keep =
      { t with regs := landed p wide vals t.regs, sec := if id < t.sec.born then { t.sec with regs := landed p wide vals t.sec.regs } else t.sec } := by
  have hkey : decide (4 * 0x68 ≤ 4 * p) = false := decide_eq_false (by omega)
  have hdiv : 4 * p / 4 = p := by omega
  simp only [Thread.deliver, hl, hkey, hclob, hdiv, List.contains_nil, Bool.false_and, Bool.or_false, Bool.not_true, Bool.false_eq_true,
    if_false]
  cases wide <;> rfl

theorem deliver_dead {t : Thread} {id key keep : Nat} {wide : Bool} {vals : List Nat} (hl : t.live = false) :
    t.deliver id key wide vals keep = t := by
  simp only [Thread.deliver, hl]
  rfl

/-! ## The wave after its result has arrived -/

theorem join_user {f : Nat} (hu : w.priv = none) : w.join f = { w with aflag := w.aflag ||| BitVec.ofNat 32 f } := by
  simp only [Wave.join, Wave.flag, hu]

theorem resultArrival_eq {id fl : Nat} {a : Access} {vals : List (Nat × List Nat)} (hw : mget s.waves k = some w)
    (ha : w.acc id = some a) (harr : arrivalOf s w a = some (vals, [], fl)) :
    resultArrival s k id = conclude (setW s k
      (if a.performed then ((deliverTo s w a vals).join fl).dropAcc id else (((deliverTo s w a vals).join fl).dropAcc id).countDone id)) k := by
  simp only [resultArrival, hw, ha, harr]
  rfl

/-- The thread of a lane after its result; the others stay. -/
def reached (s : State) (a : Access) (p : Nat) (wide : Bool) (n : Nat) (t : Thread) : Thread :=
  match (a.lanes.map fun l => (l.tid, l.data)).find? (fun e => e.1 == n) with
  | some e => t.deliver a.issued (4 * p) wide e.2 (freeOp s n 0 10)
  | none => t

theorem deliverTo_pair {a : Access} {p : Nat} {wide : Bool} (hd : a.dest = some (4 * p, wide)) (hp : p < 0x68) (hilk : w.ilk = false) :
    deliverTo s w a (a.lanes.map fun l => (l.tid, l.data)) = w.onTids (a.lanes.map (·.tid)) (reached s a p wide) := by
  have hkey : decide (1024 ≤ 4 * p) = false := decide_eq_false (by omega)
  unfold deliverTo
  rw [hd]
  simp only [hkey, hilk]
  rfl

theorem deliverTo_scalar {a : Access} {j tid v : Nat} {more : List Nat} (hd : a.dest = some (1024 + j, true)) (hilk : w.ilk = false)
    (hclob : ∀ t ∈ w.threads, t.clobbered = []) :
    deliverTo s w a [(tid, v :: more)] = { w with scal := zset 0#64 w.scal j (BitVec.ofNat 64 v) } := by
  have hkey : decide (1024 ≤ 1024 + j) = true := decide_eq_true (Nat.le_add_right ..)
  have hended : w.threads.any (fun t => t.clobbered.contains (1024 + j)) = false :=
    List.any_eq_false.mpr fun t ht => by simp [hclob t ht]
  have hstay : w.mapThreads (fun t => t) = w := mapThreads_self fun _ _ => rfl
  unfold deliverTo
  rw [hd]
  simp only [hkey, hilk, hended, Bool.false_eq_true, if_false, if_true, Bool.false_and, hstay, Nat.add_sub_cancel_left]

theorem reached_hit {a : Access} {p n : Nat} {wide : Bool} {t : Thread} {l : Lane} (hl : a.lanes.find? (fun l => l.tid == n) = some l) :
    reached s a p wide n t = t.deliver a.issued (4 * p) wide l.data (freeOp s n 0 10) := by
  simp only [reached, List.find?_map, Function.comp_def, hl, Option.map_some]

theorem contains_tid {a : Access} {n : Nat} : (a.lanes.map (·.tid)).contains n = (a.lanes.find? (fun l => l.tid == n)).isSome := by
  rw [Bool.eq_iff_iff, List.find?_isSome, List.contains_iff_mem, List.mem_map]
  simp only [beq_iff_eq]

/-- A thread of the wave after the result: only register copies change, as the lane's values say. -/
theorem thread_reached {a : Access} {p : Spec} {n : Nat} {wide : Bool} {t : Thread} (hp : p.toNat < 0x68) (hclob : t.clobbered = [])
    (hlen : ∀ l ∈ a.lanes, l.data.length ≤ 3) :
    let t' := if (a.lanes.map (·.tid)).contains n then reached s a p.toNat wide n t else t
    t' = { t with regs := t'.regs, sec := t'.sec } ∧ t'.sec = { t.sec with regs := t'.sec.regs } ∧
      ∀ key, cell t' key = match (if t.live then a.lanes.find? (fun l => l.tid == n) else none) with
        | some l => cellAfter p wide l.data key (cell t key)
        | none => cell t key := by
  cases hfind : a.lanes.find? (fun l => l.tid == n) with
  | none =>
    have hin : (a.lanes.map (·.tid)).contains n = false := by rw [contains_tid, hfind]; rfl
    simp only [hin, Bool.false_eq_true, if_false, ite_self, implies_true, and_self]
  | some l =>
    have hin : (a.lanes.map (·.tid)).contains n = true := by rw [contains_tid, hfind]; rfl
    simp only [hin, if_true, reached_hit hfind]
    by_cases hl : t.live = true
    · rw [deliver_eq hl hp hclob]
      refine ⟨rfl, by dsimp only; split <;> rfl, fun key => ?_⟩
      simp only [hl, if_true]
      exact zget_landed p wide t.regs key hp (hlen l (List.mem_of_find?_eq_some hfind))
    · rw [deliver_dead (Bool.eq_false_iff.mpr hl)]
      simp only [hl, Bool.false_eq_true, if_false, implies_true, and_self]

theorem resultArrival_pair {id fl : Nat} {a : Access} {p : Nat} {wide : Bool} (hw : mget s.waves k = some w) (ha : w.acc id = some a)
    (hop : a.op = .result fl) (hperf : a.performed = true) (hd : a.dest = some (4 * p, wide)) (hp : p < 0x68) (hilk : w.ilk = false)
    (hu : w.priv = none) :
    resultArrival s k id = conclude (setW s k { w with
      threads := (w.onTids (a.lanes.map (·.tid)) (reached s a p wide)).threads, aflag := w.aflag ||| BitVec.ofNat 32 fl,
      accs := w.accs.filter (fun x => x.id != id) }) k := by
  have harr : arrivalOf s w a = some (a.lanes.map (fun l => (l.tid, l.data)), [], fl) := by simp only [arrivalOf, hop]
  rw [resultArrival_eq hw ha harr, if_pos hperf, deliverTo_pair hd hp hilk, join_user (by exact hu)]
  rfl

theorem resultArrival_scalar {id fl j v : Nat} {a : Access} {l : Lane} {more : List Nat} (hw : mget s.waves k = some w)
    (ha : w.acc id = some a) (hop : a.op = .result fl) (hperf : a.performed = true) (hd : a.dest = some (1024 + j, true))
    (hlanes : a.lanes = [l]) (hdata : l.data = v :: more) (hilk : w.ilk = false) (hu : w.priv = none)
    (hclob : ∀ t ∈ w.threads, t.clobbered = []) :
    resultArrival s k id = conclude (setW s k { w with
      scal := zset 0#64 w.scal j (BitVec.ofNat 64 v), aflag := w.aflag ||| BitVec.ofNat 32 fl,
      accs := w.accs.filter (fun x => x.id != id) }) k := by
  have harr : arrivalOf s w a = some ([(l.tid, v :: more)], [], fl) := by simp only [arrivalOf, hop, hlanes, List.map_cons, List.map_nil, hdata]
  rw [resultArrival_eq hw ha harr, if_pos hperf, deliverTo_scalar hd hilk hclob, join_user (by exact hu)]
  rfl

theorem loadResults_common {a : Access} {l : Lane} {ty pa : Nat} (hlanes : a.lanes = [l]) (hpl : l.place = .single pa)
    (hcommon : a.common = true) :
    loadResults s w a ty [] = [(l.tid, [extTy ty (ofBytes (dieBytes s (dieOf w.core) pa (accSize a)))])] := by
  simp only [loadResults, hlanes, List.map_cons, List.map_nil, hcommon, hpl]
  simp only [readPlanes, placeClass, bindPlace, hpl]
  simp [loadVals, isAperture]

theorem resultArrival_scalarLoad {id ty j pa : Nat} {a : Access} {l : Lane} (hw : mget s.waves k = some w) (ha : w.acc id = some a)
    (hop : a.op = .load ty) (hd : a.dest = some (1024 + j, true)) (hlanes : a.lanes = [l]) (hpl : l.place = .single pa)
    (hcommon : a.common = true) (hmay : mayPerform w a = true) (hbad : badReads s a = []) (hilk : w.ilk = false) (hu : w.priv = none)
    (hclob : ∀ t ∈ w.threads, t.clobbered = []) :
    resultArrival s k id = conclude (setW s k { w with
      scal := zset 0#64 w.scal j (BitVec.ofNat 64 (extTy ty (ofBytes (dieBytes s (dieOf w.core) pa (accSize a))))),
      accs := w.accs.filter (fun x => x.id != id),
      ldq := countOff id w.ldq, stq := countOff id w.stq, enq := countOff id w.enq }) k := by
  have harr : arrivalOf s w a = some ([(l.tid, [extTy ty (ofBytes (dieBytes s (dieOf w.core) pa (accSize a)))])], [], 0) := by
    simp only [arrivalOf, hop, hmay, if_true, hbad, loadResults_common hlanes hpl hcommon]
  have hperf : a.performed = false := by
    simp only [mayPerform, Bool.and_eq_true, Bool.not_eq_true'] at hmay
    exact hmay.1.1
  rw [resultArrival_eq hw ha harr, if_neg (by simp [hperf]), deliverTo_scalar hd hilk hclob, join_user (by exact hu)]
  simp only [Wave.dropAcc, Wave.countDone, BitVec.or_zero]

theorem resultArrival_waits {id ty : Nat} {a : Access} (hw : mget s.waves k = some w) (ha : w.acc id = some a)
    (hop : a.op = .load ty) (hmay : mayPerform w a = false) : resultArrival s k id = s := by
  simp only [resultArrival, hw, ha, arrivalOf, hop, hmay, Bool.false_eq_true, if_false]

/-! ## One lane of a load (04 R152; 08 R286) -/

/-- A place whose bytes other lanes of the access may share. -/
def sharing (s : State) (l : Lane) : Bool := match bindPlace s l.place with
  | .single _ => true
  | .triple _ _ => true
  | .md32 _ => true
  | .host _ => true
  | _ => false

/-- A lower thread reads a byte of the lane. -/
def lowerFirst (s : State) (a : Access) (l : Lane) : Bool := a.lanes.any fun x =>
  decide (x.tid < l.tid) && sharing s x && overlap (footprint s x.place (accSize a) x.va) (footprint s l.place (accSize a) l.va)

/-- The lane of thread `tid`, bound where it may be. -/
def boundLane (s : State) (w : Wave) (a : Access) (tid : Nat) (l : Lane) : Lane :=
  if l.tid == tid && sharing s l && !lowerFirst s a l && (badGranule s l.place (accSize a) l.va).isNone then
    { l with place := .answered (placeClass s l.place), data := readPlanes s (dieOf w.core) l (accSize a) }
  else l

theorem bindLane_eq {id tid ty : Nat} {a : Access} (hw : mget s.waves k = some w) (ha : w.acc id = some a) (hop : a.op = .load ty)
    (hmay : mayPerform w a = true) :
    bindLane s k id tid = setW s k { w with
      accs := w.accs.map (fun x => if x.id == id then { x with lanes := x.lanes.map (boundLane s w a tid) } else x) } := by
  unfold bindLane
  rw [hw]
  dsimp only
  rw [ha]
  dsimp only
  rw [hop, hmay]
  rfl

theorem exec_bindLane {id tid : Nat} (hid : id < 2 ^ 64) :
    exec (.resultArrival k (id + 2 ^ 64 * (tid + 1))) s = .next (nextFree (bindLane s k id tid)) := by
  have hexec : exec (.resultArrival k (id + 2 ^ 64 * (tid + 1))) s = execResultArrival k (id + 2 ^ 64 * (tid + 1)) s := rfl
  have hnot : ¬ id + 2 ^ 64 * (tid + 1) < 2 ^ 64 := by omega
  have hmod : (id + 2 ^ 64 * (tid + 1)) % 2 ^ 64 = id := by omega
  have hdiv : (id + 2 ^ 64 * (tid + 1)) / 2 ^ 64 - 1 = tid := by omega
  rw [hexec, execResultArrival, if_neg hnot, hmod, hdiv]

theorem exec_resultArrival {id : Nat} (hid : id < 2 ^ 64) :
    exec (.resultArrival k id) s = .next (nextFree (resultArrival s k id)) := by
  have hexec : exec (.resultArrival k id) s = execResultArrival k id s := rfl
  rw [hexec, execResultArrival, if_pos hid]

theorem boundLane_free {a : Access} {tid pa : Nat} {l : Lane} (htid : l.tid = tid) (hpl : l.place = .single pa)
    (hbad : badGranule s (.single pa) (accSize a) l.va = none)
    (hfree : ∀ x ∈ a.lanes, x.tid < tid → overlap (footprint s x.place (accSize a) x.va) (footprint s l.place (accSize a) l.va) = false) :
    boundLane s w a tid l = { l with place := .answered 0, data := [ofBytes (dieBytes s (dieOf w.core) pa (accSize a))] } := by
  have hshare : sharing s l = true := by simp only [sharing, hpl, bindPlace]
  have hlower : lowerFirst s a l = false := by
    refine List.any_eq_false.mpr fun x hx => ?_
    by_cases hlt : x.tid < tid
    · simp only [hfree x hx hlt, Bool.and_false, Bool.false_eq_true, not_false_eq_true]
    · simp only [htid, decide_eq_false hlt, Bool.false_and, Bool.false_eq_true, not_false_eq_true]
  have hbad' : badGranule s l.place (accSize a) l.va = none := by rw [hpl]; exact hbad
  simp only [boundLane, htid, beq_self_eq_true, hshare, hlower, hbad', Option.isNone_none, Bool.not_false, Bool.and_self, if_true]
  simp only [hpl, placeClass, readPlanes, bindPlace]

theorem boundLane_behind {a : Access} {tid pa : Nat} {l x : Lane} (htid : l.tid = tid) (hx : x ∈ a.lanes) (hlt : x.tid < tid)
    (hpl : x.place = .single pa)
    (hover : overlap (footprint s x.place (accSize a) x.va) (footprint s l.place (accSize a) l.va) = true) :
    boundLane s w a tid l = l := by
  have hshare : sharing s x = true := by simp only [sharing, hpl, bindPlace]
  have hlower : lowerFirst s a l = true :=
    List.any_eq_true.mpr ⟨x, hx, by simp only [htid, decide_eq_true hlt, hshare, hover, Bool.and_self]⟩
  simp only [boundLane, hlower, Bool.not_true, Bool.and_false, Bool.false_and, Bool.false_eq_true, if_false]

theorem boundLane_other {a : Access} {tid : Nat} {l : Lane} (htid : l.tid ≠ tid) : boundLane s w a tid l = l := by
  simp only [boundLane, beq_eq_false_iff_ne.mpr htid, Bool.false_and, Bool.false_eq_true, if_false]

/-- Settles O43: results reach what they are owed to. -/
theorem resultsArrive : Obligations.ResultsArrive := by
  refine ⟨?_, ?_, ?_, ?_, ?_, ?_⟩
  · intro s k id fl w a p wide hid hw ha hop hperf hd hp hpw hilk hu hclob hnodup hlen
    refine ⟨_, by rw [exec_resultArrival hid, resultArrival_pair hw ha hop hperf hd hp hilk hu], ?_, fun n t ht => ?_, rfl⟩
    · exact onTids_threads_length ..
    · refine ⟨_, (thread_onTids w _ _ n).trans (by rw [ht]; rfl), ?_⟩
      exact thread_reached hp (hclob t (List.mem_of_getElem? ht)) hlen
  · intro s k id fl j v w a l more hid hw ha hop hperf hd hlanes hdata hilk hu hclob
    rw [exec_resultArrival hid, resultArrival_scalar hw ha hop hperf hd hlanes hdata hilk hu hclob]
  · intro s k id ty j pa w a l hid hw ha hop hd hlanes hpl hcommon hmay hbad hilk hu hclob
    rw [exec_resultArrival hid, resultArrival_scalarLoad hw ha hop hd hlanes hpl hcommon hmay hbad hilk hu hclob]
  · intro s k id w a ty hid hw ha hop hmay
    rw [exec_resultArrival hid, resultArrival_waits hw ha hop hmay]
  · intro s k id tid ty pa w a hid hw ha hop hmay hone hfree
    rw [exec_bindLane hid, bindLane_eq hw ha hop hmay]
    congr 4
    refine List.map_congr_left fun x hx => ?_
    by_cases hxid : x.id = id
    · obtain rfl := hone x hx hxid
      simp only [hxid, beq_self_eq_true, if_true]
      congr 1
      refine List.map_congr_left fun l hl => ?_
      by_cases htid : l.tid = tid
      · obtain ⟨hpl, hbad, hlow⟩ := hfree l hl htid
        rw [if_pos htid, boundLane_free htid hpl hbad hlow]
      · rw [if_neg htid, boundLane_other htid]
    · simp only [beq_eq_false_iff_ne.mpr hxid, if_neg hxid, Bool.false_eq_true, if_false]
  · intro s k id tid ty pa w a hid hw ha hop hmay hone hbehind
    have hsame : w.accs.map (fun x => if x.id == id then { x with lanes := x.lanes.map (boundLane s w a tid) } else x) = w.accs := by
      refine (List.map_congr_left fun x hx => ?_).trans (List.map_id _)
      by_cases hxid : x.id = id
      · obtain rfl := hone x hx hxid
        have hlanes : x.lanes.map (boundLane s w x tid) = x.lanes := by
          refine (List.map_congr_left fun l hl => ?_).trans (List.map_id _)
          by_cases htid : l.tid = tid
          · obtain ⟨y, hy, hlt, hpl, hover⟩ := hbehind l hl htid
            exact boundLane_behind htid hy hlt hpl hover
          · exact boundLane_other htid
        rw [hlanes]
        exact ite_self _
      · simp only [beq_eq_false_iff_ne.mpr hxid, Bool.false_eq_true, if_false]
        rfl
    rw [exec_bindLane hid, bindLane_eq hw ha hop hmay, hsame]

end Sys2Proof.Proofs.Results
end

section

/-! PROOFS: writes and atomics that are performed, and writes that a die makes visible (04 R152-R161; 08 R298, R299). -/

namespace Sys2Proof.Proofs.Writes
open Sys2Proof Sys2Proof.Machine Sys2Proof.Terms Sys2Proof.Laws Sys2Proof.Proofs Sys2Proof.Proofs.Quiet Sys2Proof.Proofs.Return
  Sys2Proof.Proofs.Packed Sys2Proof.Proofs.Barriers

variable {s : State} {k : Nat} {w : Wave}

/-! ## Operations on words (08 R299) -/

theorem atomNew_words (a b c : BitVec 32) :
    atomNew 0 a.toNat [b.toNat] = ((a + b).toNat, 0) ∧
      atomNew 3 a.toNat [b.toNat] = ((if b.slt a then b else a).toNat, 0) ∧
      atomNew 4 a.toNat [b.toNat] = ((if b.ult a then b else a).toNat, 0) ∧
      atomNew 5 a.toNat [b.toNat] = ((if a.slt b then b else a).toNat, 0) ∧
      atomNew 6 a.toNat [b.toNat] = ((if a.ult b then b else a).toNat, 0) ∧
      atomNew 7 a.toNat [b.toNat] = ((a &&& b).toNat, 0) ∧ atomNew 8 a.toNat [b.toNat] = ((a ||| b).toNat, 0) ∧
      atomNew 9 a.toNat [b.toNat] = ((a ^^^ b).toNat, 0) ∧ atomNew 10 a.toNat [b.toNat] = (b.toNat, 0) ∧
      atomNew 12 a.toNat [b.toNat, c.toNat] = ((if a = b then c else a).toNat, 0) := by
  refine ⟨?_, ?_, ?_, ?_, ?_, ?_, ?_, ?_, rfl, ?_⟩
  · simp only [atomNew, lget, BitVec.toNat_add]
  · simp only [atomNew, lget, sgn_toNat (n := 32) (by decide), BitVec.slt, decide_eq_true_eq, apply_ite BitVec.toNat]
  · simp only [atomNew, lget, BitVec.ult, decide_eq_true_eq, apply_ite BitVec.toNat]
    congr 1
    split <;> omega
  · simp only [atomNew, lget, sgn_toNat (n := 32) (by decide), BitVec.slt, decide_eq_true_eq, apply_ite BitVec.toNat]
  · simp only [atomNew, lget, BitVec.ult, decide_eq_true_eq, apply_ite BitVec.toNat]
    congr 1
    split <;> omega
  · simp only [atomNew, lget, BitVec.toNat_and]
  · simp only [atomNew, lget, BitVec.toNat_or]
  · simp only [atomNew, lget, BitVec.toNat_xor]
  · simp only [atomNew, lget, beq_iff_eq, BitVec.toNat_inj, apply_ite BitVec.toNat]

/-! ## Writes of one lane -/

theorem devPieces_single (pa n va : Nat) : devPieces s (.single pa) n va = [(pa, n)] := rfl

theorem storeAt_single {d cid core n pa : Nat} {l : Lane} {data : List Nat} (hpl : l.place = .single pa) :
    storeAt s d cid core l n data =
      writeDie (tagWrite s cid core [(pa, n)]) d pa (soft s pa (bytesOf n (lget 0 data 0))) := by
  simp only [storeAt, hpl, devPieces_single]
  rfl

theorem afterShare_single {a : Access} {l : Lane} {pa : Nat} (hlanes : a.lanes = [l]) (hpl : l.place = .single pa) :
    afterShare s k a = s := by
  have hnot : a.lanes.any (·.inShare) = false := by simp only [hlanes, List.any_cons, List.any_nil, Lane.inShare, hpl, Bool.or_self]
  unfold afterShare
  simp only [hnot]
  split <;> rfl

theorem storePerformed_single {id ty pa : Nat} {a : Access} {l : Lane} (hw : mget s.waves k = some w) (ha : w.acc id = some a)
    (hop : a.op = .store ty) (hlanes : a.lanes = [l]) (hpl : l.place = .single pa) (hmay : mayPerform w a = true)
    (hready : writeReady s w a = true) (hbad : badWrites s a = []) :
    storePerformed s k id = conclude
      (modW (writeDie (tagWrite s w.cid w.core [(pa, accSize a)]) (dieOf w.core) pa
          (soft s pa (bytesOf (accSize a) (lget 0 l.data 0)))) k
        (fun w => (((w.join 0).dropAcc id).countDone id).fate id [])) k := by
  have hrefused : ∀ v : Wave, refused v a [] = [] := fun v => by simp [refused]
  have hlane : performLanes (dieOf w.core) w a [] s 0 [l] = (storeAt s (dieOf w.core) w.cid w.core l (accSize a) l.data, 0) := by
    simp only [performLanes, performLane, hop, List.any_nil]
    rfl
  have hstamp : ∀ v : Wave, v.restamp s a = v := fun v => by simp only [Wave.restamp, hop]
  simp only [storePerformed, hw, ha, hop, hmay, hready, Bool.not_true, Bool.or_self, Bool.false_eq_true, if_false, hbad, hlanes, hlane,
    hstamp, hrefused, reportBad, afterShare_single hlanes hpl, storeAt_single hpl]

theorem atomicPerformed_single {id f pa : Nat} {a : Access} {l : Lane} (hw : mget s.waves k = some w) (ha : w.acc id = some a)
    (hop : a.op = .atomic f true) (hlanes : a.lanes = [l]) (hpl : l.place = .single pa) (hmay : mayPerform w a = true)
    (hready : writeReady s w a = true) (hbad : badReads s a = []) :
    let old := ofBytes (homeBytes s pa (accSize a))
    let r := atomNew f old l.data
    atomicPerformed s k id = conclude
      (modW (writeDie (tagWrite s w.cid w.core [(pa, accSize a)]) (dieOf w.core) pa (soft s pa (bytesOf (accSize a) r.1))) k
        (fun w => (({ w.join r.2 with
          accs := w.accs.map (fun (x : Access) =>
            if x.id = id then { x with lanes := [{ l with data := [old] }], performed := true } else x) }).countDone id).fate id [])) k := by
  intro old r
  have hlanes' : atomicLanes (dieOf w.core) w a [] s [l] =
      (storeAt s (dieOf w.core) w.cid w.core l (accSize a) [r.1], [{ l with data := [old] }], r.2) := by
    simp only [atomicLanes, atomicLane, performLane, hop, hpl, List.any_nil, Bool.false_eq_true, if_false, homeWord, Nat.or_zero]
    rfl
  simp only [atomicPerformed, hw, ha, hop, hmay, hready, Bool.not_true, Bool.or_self, Bool.false_eq_true, if_false, hbad, hlanes, hlanes',
    reportBad, afterShare_single hlanes hpl, storeAt_single hpl, List.map_nil, beq_iff_eq]
  rfl

theorem performed_waits {id : Nat} {a : Access} (hw : mget s.waves k = some w) (ha : w.acc id = some a)
    (h : mayPerform w a = false ∨ writeReady s w a = false) : storePerformed s k id = s ∧ atomicPerformed s k id = s := by
  have hnot : ∀ b : Bool, (b || !mayPerform w a || !writeReady s w a) = true := fun b => by
    obtain h | h := h <;> simp [h]
  constructor
  · unfold storePerformed
    simp (config := { zeta := false }) only [hw, ha]
    extract_lets isWrite
    rw [if_pos (hnot _)]
  · unfold atomicPerformed
    simp (config := { zeta := false }) only [hw, ha]
    extract_lets ok
    rw [if_pos (hnot _)]

/-! ## Writes that a die makes visible (04 R159) -/

theorem writeMadeVisible_shown {d id : Nat} {v : VWrite} (hfind : s.vis.find? (fun x => x.id == id) = some v) (hd : d < 4)
    (hnew : d ∉ v.seen) (hmay : mayShow s d v = true) (hone : ∀ x ∈ s.vis, x.id = id → x = v) :
    writeMadeVisible s d id =
      { s with
        vis := if v.seen.length = 3 then s.vis.filter (fun x => x.id != id)
          else s.vis.map (fun x => if x.id = id then { v with seen := d :: v.seen } else x),
        dclk := lmod s.dclk d (fun c => lmod c v.die (fun n => max n (lget 0 v.clk v.die))) } := by
  have hid : v.id = id := by simpa using List.find?_some hfind
  have hcond : (decide (d < 4) && !v.seen.contains d && mayShow s d v) = true := by
    rw [decide_eq_true hd, hmay, List.contains_eq_mem, decide_eq_false hnew]
    rfl
  have hvis : (if (d :: v.seen).length == 4 then s.vis.filter (fun x => x.id != v.id)
      else s.vis.map (fun x => if x.id == v.id then { x with seen := d :: v.seen } else x)) =
      if v.seen.length = 3 then s.vis.filter (fun x => x.id != id)
        else s.vis.map (fun x => if x.id = id then { v with seen := d :: v.seen } else x) := by
    simp only [List.length_cons, beq_iff_eq, hid, Nat.reduceEqDiff]
    split
    · rfl
    · refine List.map_congr_left fun x hx => ?_
      split
      · next h => rw [hone x hx h, hid]
      · rfl
  simp only [writeMadeVisible, hfind, hcond, if_true, showOn, hvis]

theorem writeMadeVisible_waits {d id : Nat} {v : VWrite} (hfind : s.vis.find? (fun x => x.id == id) = some v)
    (hmay : mayShow s d v = false) : writeMadeVisible s d id = s := by
  simp only [writeMadeVisible, hfind, hmay, Bool.and_false, Bool.false_eq_true, if_false]

/-- Settles O44: writes are performed once they may be, and shown once what comes before them is. -/
theorem writesArePerformedAndMadeVisible : Obligations.WritesArePerformedAndMadeVisible := by
  refine ⟨?_, ?_, ?_, atomNew_words, ?_, ?_, ?_⟩
  · intro s k id ty pa w a l hw ha hop hlanes hpl hmay hready hbad
    have hexec : exec (.storePerformed k id) s = .next (nextFree (storePerformed s k id)) := rfl
    rw [hexec, storePerformed_single hw ha hop hlanes hpl hmay hready hbad]
  · intro s k id f pa w a l hw ha hop hlanes hpl hmay hready hbad
    have hexec : exec (.atomicPerformed k id) s = .next (nextFree (atomicPerformed s k id)) := rfl
    rw [hexec, atomicPerformed_single hw ha hop hlanes hpl hmay hready hbad]
  · intro s k id w a hw ha h
    have hstore : exec (.storePerformed k id) s = .next (nextFree (storePerformed s k id)) := rfl
    have hatomic : exec (.atomicPerformed k id) s = .next (nextFree (atomicPerformed s k id)) := rfl
    obtain ⟨h1, h2⟩ := performed_waits hw ha h
    exact ⟨by rw [hstore, h1], by rw [hatomic, h2]⟩
  · intro a b
    simp only [atomNew, lget, BitVec.toNat_add]
  · intro s d id v hfind hd hnew hmay hone
    have hexec : exec (.writeMadeVisible d id) s = .next (nextFree (writeMadeVisible s d id)) := rfl
    rw [hexec, writeMadeVisible_shown hfind hd hnew hmay hone]
  · intro s d id v hfind hmay
    have hexec : exec (.writeMadeVisible d id) s = .next (nextFree (writeMadeVisible s d id)) := rfl
    rw [hexec, writeMadeVisible_waits hfind hmay]

end Sys2Proof.Proofs.Writes
end

section

/-! PROOFS: engine commands begin, throw, land, complete and issue their follow-on (04 R149, R163-R166; 09 R335-R345). -/

namespace Sys2Proof.Proofs.Commands
open Sys2Proof Sys2Proof.Machine Sys2Proof.Terms Sys2Proof.Laws Sys2Proof.Proofs Sys2Proof.Proofs.Barriers

variable {s : State} {cid con : Nat} {x : Context} {q : Consist} {c : Cmd} {l : List Cmd}

theorem headOf_consist (hcon : con < 64) (hx : mget s.contexts cid = some x) (hq : mget x.consists con = some q) (hcmds : q.cmds = c :: l) :
    headOf s cid con = some c := by
  simp only [headOf, if_neg (Nat.not_le.mpr hcon), hx, hq, Option.bind_some, hcmds, List.head?_cons]

theorem engineBegin_head (hcon : con < 64) (hx : mget s.contexts cid = some x) (hq : mget x.consists con = some q)
    (hcmds : q.cmds = c :: l) (hqf : q.frozen = false) (hcf : c.frozen = false) (hwait : c.waitPage = none) (herr : c.err = 0)
    (hbegun : c.begun = false) (hfatal : s.mgmt.fatal = false) :
    engineBegin s cid con =
      concludeAll (putHead (beginEngine s con c).1 cid con (beginEngine s con c).2) (contextWaves s cid) := by
  have hgo : (decide (64 ≤ con) || q.frozen || c.frozen || c.waitPage.isSome || c.err != 0 || s.mgmt.fatal) = false := by
    rw [decide_eq_false (Nat.not_le.mpr hcon), hqf, hcf, hwait, herr, hfatal]
    rfl
  simp only [engineBegin, headOf_consist hcon hx hq hcmds, hx, hq, Option.bind_some, Option.map_some, Option.getD_some, hgo, hbegun,
    Bool.not_false, Bool.false_eq_true, if_false, if_true]

/-! ## An `ecopy` begins (09 R339) -/

theorem lget_mem {d n : Nat} {codes : List Nat} (h : n < codes.length) : lget d codes n ∈ codes := by
  induction codes generalizing n with
  | nil => exact absurd h (Nat.not_lt_zero n)
  | cons a codes ih =>
    cases n with
    | zero => exact List.mem_cons_self
    | succ n => exact List.mem_cons_of_mem _ (ih (Nat.lt_of_succ_lt_succ h))

theorem pickCode_mem {codes : List Nat} (hne : codes ≠ []) : pickCode s codes ∈ codes := by
  have hlen := List.length_pos_iff.mpr hne
  refine lget_mem ?_
  rw [Nat.max_eq_right hlen]
  exact Nat.mod_lt _ hlen

theorem beginEngine_copy {u v : Nat} (hminor : c.minor = 0) (hfollow : c.follow = none) (hu : readRecord s con c c.x.toNat 64 = .ok u)
    (hv : readRecord s con c c.y.toNat 64 = .ok v) (hfmt : (tensorRec v).fmt ≠ 0x20) :
    let bad := recordCodes s c [u, v]
    let codes := if bad = [] then copyCodes s c (tensorRec u) (tensorRec v) else bad
    beginEngine s con c = if codes = [] then settleBegin s con { c with recs := [u, v] }
      else refuse s con { c with recs := [u, v] } (pickCode s codes) := by
  intro bad codes
  have hbegin : beginEngine s con c = beginCopy s con c := by simp only [beginEngine, hminor]
  have hok : allOk ([c.x.toNat, c.y.toNat].map (fun a => readRecord s con c a 64)) = .ok [u, v] := by
    simp only [List.map_cons, List.map_nil, hu, hv, allOk]
  have hcodes : (if (recordCodes s c [u, v] ++ ([] : List Nat)).isEmpty then copyCodes s c (tensorRec u) (tensorRec v)
      else recordCodes s c [u, v] ++ []) = codes := by
    simp only [List.append_nil, List.isEmpty_iff]
    rfl
  rw [hbegin, beginCopy, hok]
  simp only [hfollow, lget, hcodes, beq_eq_false_iff_ne.mpr hfmt, Bool.not_eq_true', List.isEmpty_eq_false_iff, ne_eq, ite_not,
    Bool.false_eq_true, if_false]

/-! ## Work thrown or landed (04 R149, R164, R165) -/

theorem pointsThrow_granule {p : Plan} {w : Work} {ws : List Work} {g : Batch} (hwork : working s cid con = some (c, p))
    (hworks : p.works.drop c.doneW = w :: ws) (hspace : p.dstSpace = 0) (hvis : s.vis = [])
    (hg : gatherAll s con c p ((w :: ws).takeWhile (fun x => x.dst.addr / 2 ^ 21 == w.dst.addr / 2 ^ 21)) Batch.init = (g, none)) :
    let r := andWalk con (applyBatch s c p g, keepBatch c g)
    pointsThrow s cid con = concludeAll (putHead r.1 cid con r.2) (contextWaves r.1 cid) := by
  have hgo : (p.dstSpace != 0 || !s.vis.isEmpty) = false := by rw [hspace, hvis]; rfl
  simp only [pointsThrow, hwork, hworks, hgo, Bool.false_eq_true, if_false, granule2m, hg]

theorem landWorks_eq {p : Plan} {ws : List Work} {g : Batch} (hg : gatherAll s con c p ws Batch.init = (g, none)) :
    let u := p.dstUnit.getD 0
    let r := andWalk con (applyBatch s c p g, keepBatch c g)
    let a := arriveWord (putHead r.1 cid con r.2) u (16 * p.aoff) g.share.length
    landWorks s cid con c p ws = concludeAll (concludeAll a (unitWaves a u)) (contextWaves a cid) := by
  simp only [landWorks, hg]

theorem arriveLanding_units {n : Nat} {p : Plan} {ws : List Work} {g : Batch} (hwork : working s cid con = some (c, p))
    (hws : ws = (landing n none 0 (p.works.drop c.doneW)).1) (hne : ws ≠ []) (hspace : p.dstSpace = 1) (hvis : s.vis = [])
    (hg : gatherAll s con c p ws Batch.init = (g, none)) : arriveLanding s cid con n = landWorks s cid con c p ws := by
  have hgo : (p.dstSpace != 1 || !s.vis.isEmpty) = false := by rw [hspace, hvis]; rfl
  simp only [arriveLanding, hwork, hgo, ← hws, List.isEmpty_eq_false_iff.mpr hne, Bool.false_eq_true, if_false, hg]

theorem getBytes_append (m : FMap Byte) (a i j : Nat) : getBytes m a (i + j) = getBytes m a i ++ getBytes m (a + i) j := by
  induction i generalizing a with
  | zero => simp [getBytes]
  | succ i ih => rw [Nat.add_right_comm, getBytes, getBytes, ih, List.cons_append, Nat.add_right_comm a 1 i, Nat.add_assoc a i 1]

theorem getBytes_length (m : FMap Byte) (a n : Nat) : (getBytes m a n).length = n := by
  induction n generalizing a with
  | zero => rfl
  | succ n ih => rw [getBytes, List.length_cons, ih]

theorem ofBytes_append (a b : List Byte) : ofBytes (a ++ b) = ofBytes a + 256 ^ a.length * ofBytes b := by
  induction a with
  | nil => simp [ofBytes]
  | cons x a ih => rw [List.cons_append, ofBytes, ofBytes, ih, List.length_cons, Nat.pow_succ]; ring

theorem ofBytes_lt (a : List Byte) : ofBytes a < 256 ^ a.length := by
  induction a with
  | nil => simp [ofBytes]
  | cons x a ih =>
    have := x.isLt
    rw [ofBytes, List.length_cons, Nat.pow_succ]
    omega

/-- The three words of an arrival word (04 R148), as twelve bytes hold them. -/
theorem arrival_fields (m : FMap Byte) (off : Nat) :
    bitsAt (ofBytes (getBytes m off 12)) 0 32 = ofBytes (getBytes m off 4) ∧
      bitsAt (ofBytes (getBytes m off 12)) 32 32 = ofBytes (getBytes m (off + 4) 4) ∧
      bitsAt (ofBytes (getBytes m off 12)) 64 32 = ofBytes (getBytes m (off + 8) 4) := by
  have hsplit : ofBytes (getBytes m off 12) = ofBytes (getBytes m off 4) +
      2 ^ 32 * (ofBytes (getBytes m (off + 4) 4) + 2 ^ 32 * ofBytes (getBytes m (off + 8) 4)) := by
    rw [show 12 = 4 + (4 + 4) from rfl, getBytes_append m off 4, getBytes_append m (off + 4) 4, ofBytes_append, ofBytes_append,
      getBytes_length, getBytes_length, Nat.add_assoc off 4 4, show 256 ^ 4 = 2 ^ 32 from by norm_num]
  have h0 := ofBytes_lt (getBytes m off 4)
  have h1 := ofBytes_lt (getBytes m (off + 4) 4)
  have h2 := ofBytes_lt (getBytes m (off + 8) 4)
  rw [getBytes_length] at h0 h1 h2
  rw [hsplit]
  generalize ofBytes (getBytes m off 4) = a at h0
  generalize ofBytes (getBytes m (off + 4) 4) = b at h1
  generalize ofBytes (getBytes m (off + 8) 4) = c at h2
  refine ⟨?_, ?_, ?_⟩ <;> unfold bitsAt <;> omega

theorem arriveWord_unit {u off n : Nat} {y : LUnit} (hy : mget s.units u = some y) :
    let target := ofBytes (getBytes y.share off 4)
    let count := (ofBytes (getBytes y.share (off + 4) 4) + n) % 2 ^ 32
    let gen := ofBytes (getBytes y.share (off + 8) 4)
    let v := target + (if target = 0 then count else count % target) * 2 ^ 32 +
      (if target = 0 then gen else (gen + count / target) % 2 ^ 32) * 2 ^ 64
    arriveWord s u off n = { s with units := mset s.units u { y with share := putBytes y.share off (bytesOf 16 v) } } := by
  intro target count gen v
  obtain ⟨htarget, hcount, hgen⟩ := arrival_fields y.share off
  have hshare : shareBytes s u off 12 = getBytes y.share off 12 := by rw [shareBytes, hy]; rfl
  have hput : ∀ bs, putShare s u off bs = { s with units := mset s.units u { y with share := putBytes y.share off bs } } := fun bs => by
    rw [putShare, modU, mmod_present hy]
  have hv : target + (advance target count gen).1 * 2 ^ 32 + (advance target count gen).2 * 2 ^ 64 = v := by
    simp only [v, advance, beq_iff_eq]
    split <;> rfl
  simp only [arriveWord, putArrival, hshare, htarget, hcount, hgen, hput]
  rw [← hv]

/-! ## Completion (09 R325, R335, R336, R339) -/

theorem milepost_completes (hcon : con < 64) (hx : mget s.contexts cid = some x) (hq : mget x.consists con = some q)
    (hcmds : q.cmds = c :: l) (hqf : q.frozen = false) (hdone : workDone s c = true) (hvis : s.vis = []) (herr : c.err = 0)
    (hnote : c.note = 0) (hfollow : c.follow = none) (hsent : c.sent = false) (himg : c.actImage = none) :
    let n := q.milepost + 1
    let a := modX (showShadow s c) cid
      (fun x => { x with consists := mset x.consists con { q with milepost := n, cmds := l } })
    let a := engineWrite a con (q.ring + 64 * (q.milepost % 2 ^ q.log2n) + 20) [0#8, 1#8] (uEngine con) c
    let a := engineWrite a con q.mpaddr (numBytes 8 (conTag con * 2 ^ 62 + n % 2 ^ 62)) (uEngine con) c
    let a := cmdFlags a c c.flags.toNat
    let a := match c.acc with
      | some id => countEverywhere a id
      | none => a
    let a := clearWaits (clearWaits a cid con n false) cid con n true
    milepost s cid con = concludeAll a (contextWaves a cid) := by
  have hgo : (decide (64 ≤ con) || q.frozen || !workDone s c || !followDone c || !s.vis.isEmpty) = false := by
    rw [decide_eq_false (Nat.not_le.mpr hcon), hqf, hdone, hvis, followDone, hfollow]
    rfl
  have hstat : statBytes c = [0#8, 1#8] := by
    simp only [statBytes, herr, hnote]
    rfl
  have hpop : popHead q.cmds = l := by rw [hcmds]; rfl
  have hnote' : (c.err == 0 && c.note != 0) = false := by rw [hnote]; simp
  have hqget : (mget s.contexts cid).bind (fun x => mget x.consists con) = some q := by rw [hx]; exact hq
  simp only [milepost, headOf_consist hcon hx hq hcmds, hqget, hgo, hstat, hpop, hnote', hsent, finishTable, himg, ite_self,
    Bool.false_eq_true, if_false] <;> rfl

/-! ## Follow-ons (09 R339) -/

theorem followOn_issues {v : Nat} (hcon : con < 64) (hx : mget s.contexts cid = some x) (hq : mget x.consists con = some q)
    (hcmds : q.cmds = c :: l) (hqf : q.frozen = false) (hfollow : c.follow = some v) (hsent : c.sent = false) (herr : c.err = 0)
    (hdone : workDone s c = true) (hvis : s.vis = []) (howner : (getC s c.core).owner = some c.unit)
    (hmay : followMayIssue s c (foHint v) = true) :
    let g : Cmd := { c with
      word := foWord v, hintw := foHint v, x := foX v, y := foY v, z := foZ v, acc := none, follow := none, slotSet := none,
      carried := some (con, c.seq.toNat % 2 ^ 62), begun := false, err := 0, note := 0, flags := 0#32, recs := [], idx := [],
      vals := [], doneW := 0, shadow := [], pages := [], nans := 0, sent := false, ahead := [], far := [] }
    let counted := g.minor = 1 ∨ g.minor = 2 ∨ g.minor = 6
    let a : State := { s with nextId := s.nextId + 1 }
    let a := if counted then countFollow a c s.nextId else a
    followOn s cid con = accept (putHead a cid con { c with sent := true }) c.core
      { g with acc := if counted then some s.nextId else none } := by
  intro g counted
  have hgo : (decide (64 ≤ con) || q.frozen || c.sent || c.err != 0 || !workDone s c || !s.vis.isEmpty) = false := by
    rw [decide_eq_false (Nat.not_le.mpr hcon), hqf, hsent, herr, hdone, hvis]
    rfl
  have hown : ((getC s c.core).owner != some c.unit) = false := by rw [howner, bne_self_eq_false]
  simp only [followOn, headOf_consist hcon hx hq hcmds, hfollow, hx, hq, Option.bind_some, Option.map_some, Option.getD_some, hgo, hown,
    hmay, Bool.not_true, Bool.false_eq_true, if_false, Bool.or_eq_true, beq_iff_eq, or_assoc]
  rfl

theorem followOn_refused {v : Nat} (hcon : con < 64) (hx : mget s.contexts cid = some x) (hq : mget x.consists con = some q)
    (hcmds : q.cmds = c :: l) (hqf : q.frozen = false) (hfollow : c.follow = some v) (hsent : c.sent = false) (herr : c.err = 0)
    (hdone : workDone s c = true) (hvis : s.vis = []) (howner : (getC s c.core).owner ≠ some c.unit) :
    followOn s cid con = concludeAll (putHead (cmdError s con c 0x0B) cid con { c with err := 0x0B })
      (contextWaves (cmdError s con c 0x0B) cid) := by
  have hgo : (decide (64 ≤ con) || q.frozen || c.sent || c.err != 0 || !workDone s c || !s.vis.isEmpty) = false := by
    rw [decide_eq_false (Nat.not_le.mpr hcon), hqf, hsent, herr, hdone, hvis]
    rfl
  have hown : ((getC s c.core).owner != some c.unit) = true := bne_iff_ne.mpr howner
  simp only [followOn, headOf_consist hcon hx hq hcmds, hfollow, hx, hq, Option.bind_some, Option.map_some, Option.getD_some, hgo, hown,
    Bool.false_eq_true, if_false, if_true]

/-- Settles O45: commands begin, throw, land, complete and issue their follow-on. -/
theorem engineCommandsBeginWorkAndComplete : Obligations.EngineCommandsBeginWorkAndComplete := by
  refine ⟨?_, ?_, ?_, ?_, ?_, ?_, ?_⟩
  · intro s cid con x q c l hcon hx hq hcmds hqf hcf hwait herr hbegun hfatal
    have hexec : exec (.engineCommandBegin cid con) s = .next (nextFree (engineBegin s cid con)) := rfl
    rw [hexec, engineBegin_head hcon hx hq hcmds hqf hcf hwait herr hbegun hfatal]
  · intro s con c u v hminor hfollow hu hv hfmt
    have hbegin := beginEngine_copy hminor hfollow hu hv hfmt
    refine ⟨fun hnil => ?_, fun hne => ?_⟩
    · rw [hbegin, if_pos hnil]
    · exact ⟨_, pickCode_mem hne, by rw [hbegin, if_neg hne, refuse]; rfl⟩
  · intro s cid con c p w l g hwork hworks hspace hvis hg
    have hexec : exec (.pointsThrow cid con) s = .next (nextFree (pointsThrow s cid con)) := rfl
    rw [hexec, pointsThrow_granule hwork hworks hspace hvis hg]
  · intro s cid con n c p ws g hwork hws hne hspace hvis hg
    have hexec : exec (.arrive cid con n) s = .next (nextFree (arriveLanding s cid con n)) := rfl
    rw [hexec, arriveLanding_units hwork hws hne hspace hvis hg, landWorks_eq hg]
  · intro s u off n y hy
    exact arriveWord_unit hy
  · intro s cid con x q c l hcon hx hq hcmds hqf hdone hvis herr hnote hfollow hsent himg
    have hexec : exec (.milepostWrite cid con) s = .next (nextFree (milepost s cid con)) := rfl
    rw [hexec]
    exact congrArg (fun a => Host.Outcome.next (nextFree a))
      (milepost_completes hcon hx hq hcmds hqf hdone hvis herr hnote hfollow hsent himg)
  · intro s cid con v x q c l hcon hx hq hcmds hqf hfollow hsent herr hdone hvis
    have hexec : exec (.followOnIssue cid con) s = .next (nextFree (followOn s cid con)) := rfl
    refine ⟨fun howner hmay => ?_, fun howner => ?_⟩
    · rw [hexec, followOn_issues hcon hx hq hcmds hqf hfollow hsent herr hdone hvis howner hmay]
    · rw [hexec, followOn_refused hcon hx hq hcmds hqf hfollow hsent herr hdone hvis howner]

end Sys2Proof.Proofs.Commands
end

section

/-! PROOFS: queues of the matrix unit, activation tables, collectives and publishing (04 R167-R170; 07 R275; 09 R317, R325, R332, R343). -/

namespace Sys2Proof.Proofs.Matrix
open Sys2Proof Sys2Proof.Machine Sys2Proof.Terms Sys2Proof.Laws Sys2Proof.Proofs Sys2Proof.Proofs.Barriers Sys2Proof.Proofs.Commands

variable {s : State} {c : Cmd} {l : List Cmd}

/-! ## Queues (09 R317, R325, R332) -/

theorem queueStart_begins {core queue : Nat} (hq : matQueue (getC s core) queue = c :: l) (hcf : c.frozen = false)
    (hwait : c.waitPage = none) (herr : c.err = 0) (hfatal : s.mgmt.fatal = false) (hfree : accFree (getC s core) queue c = true)
    (hbegun : c.begun = false) (hne : queue ≠ 0) :
    let r := beginMatrix s (64 + core) c
    queueStart s core queue = concludeAll (putQueue r.1 core queue (r.2 :: l)) (contextWaves s c.cid) := by
  have hdone : workDone s c = false := by simp only [workDone, hbegun, Bool.false_and]
  have hgo : (c.frozen || c.waitPage.isSome || c.err != 0 || s.mgmt.fatal || !accFree (getC s core) queue c || workDone s c) = false := by
    rw [hcf, hwait, herr, hfatal, hfree, hdone]
    rfl
  simp only [queueStart, hq, hgo, hbegun, beq_eq_false_iff_ne.mpr hne, Bool.false_and, Bool.false_eq_true, if_false]

theorem beginMatrix_multiply {ring u v z : Nat} (h3 : 3 ≤ c.minor) (h5 : c.minor ≤ 5) (hu : readRecord s ring c c.x.toNat 64 = .ok u)
    (hv : readRecord s ring c c.y.toNat 64 = .ok v) (hz : readRecord s ring c c.z.toNat 64 = .ok z)
    (hgood : ∀ t ∈ [u, v, z], goodRecord s c (tensorRec t) = 0)
    (hcodes : multiplyCodes { c with recs := [u, v, z] } (tensorRec u) (tensorRec v) (tensorRec z) (getC s c.core).mat = []) :
    let r := multiply { c with recs := [u, v, z] } (tensorRec u) (tensorRec v) (tensorRec z) (getC s c.core).mat
    beginMatrix s ring c = ({ s with cores := mset s.cores c.core { getC s c.core with mat := r.1 } },
      { c with recs := [u, v, z], begun := true, flags := BitVec.ofNat 32 r.2 }) := by
  have h6 : (c.minor == 6) = false := beq_eq_false_iff_ne.mpr (by omega)
  have haddrs : c.recordAddrs = [c.x.toNat, c.y.toNat, c.z.toNat] := by
    simp only [Cmd.recordAddrs, h6, decide_eq_true h3, Bool.false_eq_true, if_false, if_true]
  have hok : allOk (c.recordAddrs.map (fun a => readRecord s ring c a 64)) = .ok [u, v, z] := by
    simp only [haddrs, List.map_cons, List.map_nil, hu, hv, hz, allOk]
  have hbad : (([u, v, z].map tensorRec).map (goodRecord s c)).filter (· != 0) = [] := by
    rw [List.map_map]
    refine List.filter_eq_nil_iff.mpr fun n hn => ?_
    obtain ⟨t, ht, rfl⟩ := List.mem_map.mp hn
    simp only [Function.comp_apply, hgood t ht, bne_self_eq_false, Bool.false_eq_true, not_false_eq_true]
  have hminor : ∀ recs, ({ c with recs := recs } : Cmd).minor = c.minor := fun _ => rfl
  rw [beginMatrix, hok]
  simp only [hbad, lget, hminor, h6, decide_eq_true h3, decide_eq_true h5, hcodes, List.isEmpty_nil, Bool.not_true, Bool.and_self,
    Bool.false_eq_true, if_false, if_true]
  rfl

/-- 03 R129: the sum of an i32 element and a part's integer sum, saturated. -/
theorem narrowAdd_int (acc : BitVec 32) (i : Int) :
    narrowAdd acc.toNat ⟨.fin (decide (i < 0)) i.natAbs 1, 0⟩ =
      (let v := acc.toInt + i
       let w := max (-(2 ^ 31)) (min (2 ^ 31 - 1) v)
       ((BitVec.ofInt 32 w).toNat, if w = v then 0 else flASAT)) := by
  have hnear : nearestInt (decide (i < 0)) i.natAbs 1 = i := by
    have hhalf : (decide (1 < 2 * (i.natAbs % 1)) || (2 * (i.natAbs % 1) == 1 && i.natAbs % 2 == 1)) = false := by
      simp [Nat.mod_one]
    simp only [nearestInt, Nat.div_one, hhalf, snum, Bool.false_eq_true, if_false, decide_eq_true_eq]
    split <;> omega
  simp only [narrowAdd, hnear, sgn_toNat (n := 32) (by decide), wrap_eq, satI32, beq_iff_eq, Nat.zero_or]

theorem matrixComplete_done {core queue : Nat} (hq : matQueue (getC s core) queue = c :: l) (hdone : workDone s c = true)
    (hshown : queue < 2 ∨ s.vis = []) (hcarried : c.carried = none) :
    let b := showShadow s c
    let x := getC b core
    let a : State := { b with
      cores := mset b.cores core
        (if queue = 0 then { x with loadQ := l } else if queue = 1 then { x with compQ := l } else { x with storeQ := l }) }
    let a := cmdFlags a c c.flags.toNat
    let a := match c.acc with
      | some id => countEverywhere a id
      | none => a
    let a := lowerOwn a c
    matrixComplete s core queue = concludeAll a (contextWaves a c.cid) := by
  have hgo : (!workDone s c || (queue == 2 && !s.vis.isEmpty)) = false := by
    obtain h | h := hshown
    · rw [hdone, beq_eq_false_iff_ne.mpr (by omega)]
      rfl
    · rw [hdone, h]
      simp
  have hput : putQueue (showShadow s c) core queue l = { showShadow s c with
      cores := mset (showShadow s c).cores core
        (if queue = 0 then { getC (showShadow s c) core with loadQ := l }
         else if queue = 1 then { getC (showShadow s c) core with compQ := l } else { getC (showShadow s c) core with storeQ := l }) } := by
    simp only [putQueue, modC, beq_iff_eq]
  simp only [matrixComplete, hq, hgo, hput, hcarried, Bool.false_eq_true, if_false] <;> rfl

/-! ## Activation tables (07 R275) -/

theorem tableSwitch_eq {cid con core : Nat} {a : ActCopy} {img : List Byte} (hhead : headOf s cid con = some c)
    (hacts : mget (getC s core).acts cid = some a) (himg : c.actImage = some img) (hbegun : c.begun = true) (hcf : c.frozen = false)
    (hnew : a.switched ≠ c.acc.getD 0) :
    tableSwitch s cid con core =
      if oldRun s core cid a then s
      else
        let a' : ActCopy :=
          ⟨if a.cur = 0 then a.bankA else img, if a.cur = 0 then img else a.bankB, if a.cur = 0 then 1 else 0, c.acc.getD 0⟩
        { s with cores := mset s.cores core { getC s core with acts := mset (getC s core).acts cid a' } } := by
  simp only [tableSwitch, hhead, hacts, himg, hbegun, hcf, beq_eq_false_iff_ne.mpr hnew, Bool.not_true, Bool.false_or, beq_iff_eq]
  split
  · rfl
  · by_cases hcur : a.cur = 0
    · simp only [if_pos hcur]
      rfl
    · simp only [if_neg hcur]
      rfl

/-! ## Collectives (09 R343) -/

theorem collectiveRun_agrees {part group cseq : Nat} {p : Partition} {members : List (Nat × Nat)} {all : List Coll}
    (hp : mget s.parts part = some p) (hg : mget p.colls group = some members) :
    let xs := s.colls.filter (fun x => x.part == part && x.group == group && x.cseq == cseq)
    xs ≠ [] → (span 0 members.length).map (fun r => xs.find? (fun x => x.rank == r)) = all.map some → tickReached s xs = true →
    collReached s part group xs = true →
      ∃ agree : Bool, (agree = true ↔ ∀ x ∈ all, ∀ y ∈ xs.head?, (collDesc x.head).terms = (collDesc y.head).terms) ∧
        let a := all.foldl (collGive part group cseq agree (all.map (·.data))) s
        let b : State := { a with colls := a.colls.filter (fun x => !(x.part == part && x.group == group && x.cseq == cseq)) }
        collectiveRun s part group cseq = concludeAll b (b.waves.map (·.1)) := by
  intro xs hne hranks htick hreached
  obtain ⟨x0, rest, hxs⟩ := List.exists_cons_of_ne_nil hne
  have hhead : xs.head? = some x0 := by rw [hxs]; rfl
  have hsome : (all.map some).any (·.isNone) = false := List.any_eq_false.mpr fun o ho => by
    obtain ⟨x, -, rfl⟩ := List.mem_map.mp ho
    exact Bool.false_ne_true
  have hall : (all.map some).filterMap id = all := by simp [List.filterMap_map]
  refine ⟨all.all (fun x => decide ((collDesc x.head).terms = (collDesc x0.head).terms)), ?_, ?_⟩
  · simp [hhead]
  · have hget : (mget s.parts part).bind (fun p => mget p.colls group) = some members := by rw [hp]; exact hg
    intro a b
    unfold collectiveRun
    extract_lets mine ys
    have hys : ys = xs := rfl
    rw [hys, hhead, hget]
    simp only [hranks, hsome, htick, hreached, hall, Bool.not_true, Bool.or_self, Bool.false_eq_true, if_false]
    rfl

theorem foldl_wrapped_sum (n : Nat) (xs : List Nat) : xs.foldl (fun n x => (n + x) % 2 ^ 32) n % 2 ^ 32 = (n + xs.sum) % 2 ^ 32 := by
  induction xs generalizing n with
  | nil => simp
  | cons x xs ih => rw [List.foldl_cons, ih, List.sum_cons, Nat.mod_add_mod, Nat.add_assoc]

theorem collSum_int (xs : List Nat) : collSum 5 xs = xs.sum % 2 ^ 32 := by
  have hfold : collSum 5 xs = xs.foldl (fun n x => (n + x) % 2 ^ 32) 0 := rfl
  have hlt : xs.foldl (fun n x => (n + x) % 2 ^ 32) 0 < 2 ^ 32 := by
    induction xs using List.reverseRecOn with
    | nil => decide
    | append_singleton xs x _ => rw [List.foldl_concat]; exact Nat.mod_lt _ (by decide)
  rw [hfold, ← Nat.mod_eq_of_lt hlt, foldl_wrapped_sum, Nat.zero_add]

/-! ## Publishing (04 R167-R170) -/

theorem publishSwitch_ready {k id : Nat} {w : Wave} {a : Access} (hw : mget s.waves k = some w) (ha : w.acc id = some a)
    (hop : a.op = .publish) (hperf : a.performed = false) (hready : publishReady s w.cid id = true) (hvis : s.vis = []) :
    publishSwitch s k id =
      if s.ranges.any (fun e => e.2.owner == w.cid && !e.2.dead && allPinned s e.2) then publishAnswer s k id 0
      else publishAnswer (switchGroup s w.cid).1 k id (switchGroup s w.cid).2 := by
  have hget : (mget s.waves k).bind (fun w => (w.acc id).map (fun a => (w, a))) = some (w, a) := by
    rw [hw, Option.bind_some, ha, Option.map_some]
  simp only [publishSwitch, hget, hop, hperf, hready, hvis, List.isEmpty_nil, Bool.not_false, Bool.not_true, Bool.or_self,
    Bool.false_eq_true, if_false]

theorem switchGroup_unstaged {owner : Nat} (hranges : ∀ e ∈ s.ranges, e.2.owner = owner → e.2.dead = true ∨ e.2.stg = none)
    (hlt : groupVersion s owner < 2 ^ 32) :
    let v := if groupVersion s owner = 0xFFFFFFFF then 1 else groupVersion s owner + 1
    switchGroup s owner =
      ({ s with
          ranges := s.ranges.map (fun e => if e.2.owner == owner && !e.2.dead then (e.1, switchRange s v e.2) else e),
          groups := mset s.groups owner v }, v) := by
  intro v
  have hv : nextVersion (groupVersion s owner) = v := by
    simp only [nextVersion, v]
    split <;> split <;> omega
  have hstay : (s.ranges.filter (fun e => e.2.owner == owner && !e.2.dead)).foldl
      (fun s e => if e.2.stg.isSome then (span 0 (e.2.npages + 1)).foldl (fun s p => inherit s e.1 p) s else s) s = s := by
    refine List.foldlRecOn (motive := fun b => b = s) _ _ rfl fun b hb e he => ?_
    obtain ⟨hmem, hmine⟩ := List.mem_filter.mp he
    simp only [Bool.and_eq_true, beq_iff_eq, Bool.not_eq_true'] at hmine
    obtain ⟨hown, hdead⟩ := hmine
    have hstg : e.2.stg = none := (hranges e hmem hown).resolve_left (by simp [hdead])
    rw [hstg]
    exact hb
  simp only [switchGroup, hv, hstay]

/-- Settles O46: the matrix unit's queues, activation tables, collectives and publishing. -/
theorem matrixQueuesTablesCollectivesAndPublishing : Obligations.MatrixQueuesTablesCollectivesAndPublishing := by
  refine ⟨?_, ?_, ?_, ?_, ?_, ?_, ?_, ?_, ?_⟩
  · intro s core queue c l hq hcf hwait herr hfatal hfree hbegun hne
    have hexec : exec (.matrixQueueStart core queue) s = .next (nextFree (queueStart s core queue)) := rfl
    rw [hexec, queueStart_begins hq hcf hwait herr hfatal hfree hbegun hne]
  · intro s ring c u v z h3 h5 hu hv hz hgood hcodes
    exact beginMatrix_multiply h3 h5 hu hv hz hgood hcodes
  · intro acc i n hn
    rw [hn]
    exact narrowAdd_int acc i
  · intro s core queue c l hq hdone hshown hcarried
    have hexec : exec (.matrixInstructionComplete core queue) s = .next (nextFree (matrixComplete s core queue)) := rfl
    rw [hexec]
    exact congrArg (fun a => Host.Outcome.next (nextFree a)) (matrixComplete_done hq hdone hshown hcarried)
  · intro s cid con core c a img hhead hacts himg hbegun hcf hnew
    have hexec : exec (.activationTableSwitch cid con core) s = .next (nextFree (tableSwitch s cid con core)) := rfl
    rw [hexec, tableSwitch_eq hhead hacts himg hbegun hcf hnew]
  · intro s part group cseq p members all hp hg xs hne hranks htick hreached
    have hexec : exec (.collectiveExecute part group cseq) s = .next (nextFree (collectiveRun s part group cseq)) := rfl
    obtain ⟨agree, hagree, hrun⟩ := collectiveRun_agrees hp hg hne hranks htick hreached
    exact ⟨agree, hagree, by rw [hexec, hrun]⟩
  · intro d rank datas hd hop
    simp only [collResult, hop, hd, collSum_int]
  · intro s k id w a hw ha hop hperf hready hvis
    have hexec : exec (.publishSwitch k id) s = .next (nextFree (publishSwitch s k id)) := rfl
    rw [hexec, publishSwitch_ready hw ha hop hperf hready hvis]
  · intro s owner hranges v hlt
    exact switchGroup_unstaged hranges hlt

end Sys2Proof.Proofs.Matrix
end

section

/-! PROOFS: units claimed, stolen, placed and started (13 R391-R400; 02 R65). -/

namespace Sys2Proof.Proofs.Units
open Sys2Proof Sys2Proof.Machine Sys2Proof.Terms Sys2Proof.Laws Sys2Proof.Proofs Sys2Proof.Proofs.Quiet Sys2Proof.Proofs.Barriers

variable {s : State} {n j : Nat} {l : Launch}

theorem live_of_active (h : l.st = .active) : l.live = true := by rw [Launch.live, h]; rfl

theorem not_live (h : l.st ≠ .active) : l.live = false := beq_eq_false_iff_ne.mpr h

/-! ## Claims and steals (13 R394, R395) -/

theorem headReady_iff (hclaimed : claimedUnits s n j = []) (hserial : l.serial = none) :
    headReady s n j l = true ↔ (tryPlace s keepAll n l j (headWants s n l j)).isSome ∧ headWants s n l j ≠ [] := by
  have hfree : serialFree s n l = true := by simp only [serialFree, hserial, Option.isNone_none, Bool.true_or]
  simp only [headReady, hclaimed, hfree, List.isEmpty_nil, Bool.true_and, Bool.and_true, Bool.and_eq_true, Bool.not_eq_true',
    List.isEmpty_eq_false_iff]
  exact and_comm

theorem claimHead_fresh {q o : Nat} {rest : List Nat} (hl : mget s.launches n = some l) (hq : lget [] l.queues j = q :: rest)
    (hlt : q < 2 ^ 40) (hclaim : claimUnits l q = [o]) :
    claimHead s n j l = { s with
      launches := mset s.launches n { l with queues := lmod l.queues j (·.drop 1) },
      units := mset s.units s.nextId (newUnit n l j o), nextId := s.nextId + 1 } := by
  simp only [claimHead, hq, List.head?_cons, if_neg (Nat.not_le.mpr hlt), hclaim, List.foldl_cons, List.foldl_nil, popQueue, modL,
    mmod_present hl]

theorem junctionClaim_eq {q o : Nat} {rest : List Nat} (hl : mget s.launches n = some l) (hact : l.st = .active)
    (hclaimed : claimedUnits s n j = []) (hq : lget [] l.queues j = q :: rest) (hlt : q < 2 ^ 40) (hclaim : claimUnits l q = [o])
    (hserial : l.serial = none) :
    junctionClaim s j n =
      if (tryPlace s keepAll n l j (headWants s n l j)).isSome ∧ headWants s n l j ≠ [] then
        { s with
          launches := mset s.launches n { l with queues := lmod l.queues j (·.drop 1) },
          units := mset s.units s.nextId (newUnit n l j o), nextId := s.nextId + 1 }
      else s := by
  have hready := headReady_iff (s := s) (n := n) (j := j) (l := l) hclaimed hserial
  simp only [junctionClaim, hl, live_of_active hact, Bool.not_true, Bool.false_or, Bool.not_eq_true']
  by_cases h : headReady s n j l = true
  · rw [if_neg (by simp [h]), if_pos (hready.mp h), claimHead_fresh hl hq hlt hclaim]
  · rw [if_pos (Bool.eq_false_iff.mpr h), if_neg (mt hready.mpr h)]

theorem stealRequest_eq (hl : mget s.launches n = some l) (hact : l.st = .active) (hserial : l.serial = none) (hj : j < 4)
    (hq : lget [] l.queues j = []) (hsearch : mget l.searching j = none) (hclaimed : claimedUnits s n j = []) :
    stealRequest s j n =
      if dieCould s j n l then
        { s with launches := mset s.launches n { l with searching := mset l.searching j 1, asked := mset l.asked j s.cycle } }
      else s := by
  simp only [stealRequest, hl, live_of_active hact, hserial, decide_eq_false (Nat.not_le.mpr hj), hq, hsearch, hclaimed, List.isEmpty_nil,
    Option.isSome_none, Bool.not_true, Bool.or_self, Bool.false_or, Bool.not_eq_true', modL, mmod_present hl]
  cases dieCould s j n l <;> rfl

theorem stealReply_turn {victim k : Nat} (hl : mget s.launches n = some l) (hact : l.st = .active) (hsearch : mget l.searching j = some k)
    (hk : k < 4) (hvictim : victim = (j + k) % 4) (hturn : servesFirst s n victim j l = false) :
    stealReply s victim j n = match (lget [] l.queues victim).getLast? with
      | none => { s with launches := mset s.launches n { l with
          searching := mset l.searching j (k + 1), asked := mset l.asked j s.cycle } }
      | some t => { s with launches := mset s.launches n { l with
          queues := lmod (lset l.queues victim ((lget [] l.queues victim).take ((lget [] l.queues victim).length - 1))) j (fun x => x ++ [t]),
          searching := mdel l.searching j } } := by
  have hsame : (victim != (j + k) % 4) = false := by rw [← hvictim, bne_self_eq_false]
  simp only [stealReply, hl, hsearch, live_of_active hact, decide_eq_false (Nat.not_le.mpr hk), hsame, hturn, Bool.not_true, Bool.or_self,
    Bool.false_eq_true, if_false, modL, mmod_present hl] <;> rfl

theorem mem_permitted {e2 req g : Nat} :
    g ∈ permitted e2 req ↔ (g = 8 ∨ g = 16 ∨ g = 32 ∨ g = 64) ∧ g ≤ req ∧ e2 / g ≤ 32 := by
  simp only [permitted, List.mem_filter, List.mem_cons, List.not_mem_nil, or_false, Bool.and_eq_true, decide_eq_true_eq]
  constructor
  · rintro ⟨h, hs⟩
    exact ⟨by omega, hs⟩
  · rintro ⟨h, hs⟩
    exact ⟨by omega, hs⟩

/-! ## Placement (13 R397, R398) -/

theorem settlePlaced_eq {u : Nat} {x : LUnit} {p : Placed} {st : UState} {bind : LUnit → Nat × Nat → Bind}
    (hl : mget s.launches n = some l) (hx : mget s.units u = some x) :
    let x' : LUnit := { x with
      st := st, core := p.core, grant := p.grant, shBase := p.spot.shBase, nbBase := p.spot.nbBase, placedAt := s.cycle,
      die := some (p.core / 48), begun := false }
    settlePlaced n s u p st bind = { s with
      units := mset s.units u x',
      binds := p.spot.slots.foldl (fun m e => mset m (32 * p.core + e.2) (bind x' e)) s.binds,
      launches := mset s.launches n { l with
        waiting := 0, waitPrio := l.prio, placedFirst := some (l.placedFirst.getD s.cycle),
        grants := if (mget l.grants p.ord).isSome then l.grants else mset l.grants p.ord p.grant } } := by
  intro x'
  have hmod : modU s u (fun x => { x with
      st := st, core := p.core, grant := p.grant, shBase := p.spot.shBase, nbBase := p.spot.nbBase, placedAt := s.cycle,
      die := some (dieOf p.core), begun := false }) = { s with units := mset s.units u x' } := by
    rw [modU, mmod_present hx]
    rfl
  simp only [settlePlaced, hmod, mget_mset_same, modL, mmod_present hl]

theorem unitPlacement_one {u o : Nat} {x : LUnit} {w : Work2} {p : Placed} (hl : mget s.launches n = some l) (hact : l.st = .active)
    (hgang : nextGang s n j l = [(u, o)]) (horder : inOrder s n l = true) (hx : mget s.units u = some x)
    (hrefused : ∀ e ∈ s.units, hasRefused s e.1 = false) (htry : tryPlace s keepAll n l j [startWant l o] = some w) (hout : w.out = [p]) :
    let x' : LUnit := { x with
      st := .reserved, core := p.core, grant := p.grant, shBase := p.spot.shBase, nbBase := p.spot.nbBase, placedAt := s.cycle,
      die := some (p.core / 48), begun := false }
    unitPlacement s j n = { s with
      units := mset s.units u x',
      binds := p.spot.slots.foldl
        (fun m e => mset m (32 * p.core + e.2) (bindOf n l u x' e.1 e.2 1 l.xblk l.triple)) s.binds,
      launches := mset s.launches n { l with
        waiting := 0, waitPrio := l.prio, placedFirst := some (l.placedFirst.getD s.cycle),
        grants := (if (mget l.grants p.ord).isSome then l.grants else mset l.grants p.ord p.grant), domains := w.doms } } := by
  intro x'
  have hbad : s.units.filter (fun e => e.2.launch == n && e.2.junction == j && e.2.saved.isEmpty && hasRefused s e.1) = [] :=
    List.filter_eq_nil_iff.mpr fun e he => by simp [hrefused e he]
  simp only [unitPlacement, hl, hgang, hbad, List.map_nil, List.isEmpty_nil, Bool.not_true, live_of_active hact, List.isEmpty_cons, horder,
    Bool.or_self, Bool.false_eq_true, if_false, List.map_cons, htry, hout, List.zip_cons_cons, List.zip_nil_right, List.foldl_cons,
    List.foldl_nil, settlePlaced_eq hl hx]
  simp only [modL, mmod_present (mget_mset_same _ n _), mset_mset]
  rfl

/-! ## Dispatch (13 R400) -/

/-- The state in which a record's wave starts. -/
def charged (s : State) (key : Nat) (b : Bind) (u : LUnit) : State :=
  let a := fillTable (chargeUnit s b false) b.core b.cid
  { a with binds := mset a.binds key { b with state := if u.st = .saving then 4 else 3 } }

section Dispatch
variable {key : Nat} {b : Bind} {u : LUnit}

theorem no_earlier (h : ∀ e ∈ s.binds, e.1 / 32 = key / 32 → e.1 < key → e.2.pending = false) :
    s.binds.any (fun e => e.1 / 32 == key / 32 && decide (e.1 < key) && e.2.pending) = false :=
  List.any_eq_false.mpr fun e he => by
    by_cases h1 : e.1 / 32 = key / 32
    · by_cases h2 : e.1 < key
      · simp [h e he h1 h2]
      · simp [h2]
    · simp [h1]

theorem dispatch_refused (hb : mget s.binds key = some b) (hl : mget s.launches b.launch = some l) (hu : mget s.units b.unit = some u)
    (hpend : b.pending = true) (hfirst : ∀ e ∈ s.binds, e.1 / 32 = key / 32 → e.1 < key → e.2.pending = false)
    (hbad : ¬ (key = 32 * b.core + b.slot ∧ chargesFit s b = true)) :
    dispatch s key = { s with binds := mset s.binds key { b with state := 6 } } := by
  have hcond : (key != 32 * b.core + b.slot || !chargesFit s b) = true := by
    simp only [Bool.or_eq_true, bne_iff_ne, Bool.not_eq_true', ne_eq]
    by_contra hnot
    rw [not_or, not_not, Bool.not_eq_false] at hnot
    exact hbad hnot
  simp only [dispatch, hb, hl, hu, hpend, no_earlier hfirst, hcond, Bool.not_true, Bool.or_self, Bool.false_eq_true, if_false, if_true]

theorem dispatch_starts (hb : mget s.binds key = some b) (hl : mget s.launches b.launch = some l) (hu : mget s.units b.unit = some u)
    (hpend : b.pending = true) (hfirst : ∀ e ∈ s.binds, e.1 / 32 = key / 32 → e.1 < key → e.2.pending = false)
    (hfit : key = 32 * b.core + b.slot ∧ chargesFit s b = true) (hagain : (b.state == 2 && l.live) = false) :
    dispatch s key =
      if l.live then afterDet (setW (charged s key b u) key
        { firstWave (charged s key b u) b l with pre := if u.st = .saving then .requested else .none }) key
      else cancelWave (setW (charged s key b u) key (firstWave (charged s key b u) b l)) key := by
  have hcond : (key != 32 * b.core + b.slot || !chargesFit s b) = false := by
    rw [hfit.2, ← hfit.1, bne_self_eq_false]
    rfl
  have hpre : ∀ a, (firstWave a b l).pre = .none := fun _ => rfl
  simp only [dispatch, hb, hl, hu, hpend, no_earlier hfirst, hcond, hagain, Bool.not_true, Bool.or_self, Bool.false_eq_true, if_false,
    Bool.not_false, if_true, hpre, beq_iff_eq]
  cases l.live <;> rfl

end Dispatch

/-! ## The start of a wave (02 R65) -/

theorem span_getElem? (lo m i : Nat) : (span lo m)[i]? = if i < m then some (lo + i) else none := by
  induction m generalizing lo i with
  | zero => simp [span]
  | succ m ih =>
    cases i with
    | zero => simp [span]
    | succ i => simp [span, ih, Nat.add_assoc, Nat.add_comm 1 i]

/-- A thread of a wave that starts. -/
def freshThread (s : State) (b : Bind) (l : Launch) (lidx : Nat) : Thread :=
  { startThread (fun i => startDigest (b.uord * l.e2 + i)) b.xblk (b.wlog * b.grant) lidx l.entry with
    wake := s.cycle, runBank := actBank s b.core b.cid }

theorem firstWave_thread {b : Bind} {t : Thread} {i : Nat} (ht : (firstWave s b l).thread i = some t) :
    t = freshThread s b l (b.wlog * b.grant + i) := by
  have hthreads : (firstWave s b l).threads = (span (b.wlog * b.grant) b.grant).map (freshThread s b l) := by
    dsimp only [firstWave, Wave.mapThreads, startWave]
    rw [List.map_map]
    rfl
  rw [Wave.thread, hthreads, List.getElem?_map, span_getElem?] at ht
  split at ht
  · exact (Option.some.inj ht).symm
  · cases ht

theorem getLsbD_ones {g i : Nat} (hi : i < 64) : (BitVec.ofNat 64 (2 ^ g - 1)).getLsbD i = decide (i < g) := by
  rw [BitVec.getLsbD_ofNat, Nat.testBit_two_pow_sub_one]
  simp [hi]

theorem firstWave_starts {b : Bind} (w : Wave) (hw : w = firstWave s b l) :
    w.threads.length = b.grant ∧ w.grant = b.grant ∧ w.triple = b.triple ∧ w.det = b.det ∧ w.xblk = b.xblk ∧ w.nctl = l.nctl ∧
      w.aflag = 0#32 ∧ w.cm = 0#64 ∧ (∀ n < 64, w.em.getLsbD n = decide (n < b.grant)) ∧ w.scal = [] ∧ w.priv = none := by
  subst hw
  refine ⟨?_, rfl, rfl, rfl, rfl, rfl, rfl, rfl, fun n hn => getLsbD_ones hn, rfl, rfl⟩
  dsimp only [firstWave, Wave.mapThreads, startWave]
  rw [List.length_map, List.length_map, span_length]

theorem freshThread_starts (b : Bind) (lidx : Nat) :
    let t := freshThread s b l lidx
    t.lidx = lidx ∧ t.cohort = b.wlog * b.grant ∧ t.pc = l.entry ∧ t.st = .ready ∧ (∀ key, cell t key = .val 0#32) ∧ t.win = [] ∧
      t.opidx = 0#64 ∧ t.sec.entry = l.entry ∧ t.sec.mask = 0xFFFFF ∧
      t.digest = BitVec.ofNat 64 (mix 0x6A09E667F3BCC908 (b.uord * lget 64 l.ext 0 + lidx)) :=
  ⟨rfl, rfl, rfl, rfl, fun _ => rfl, rfl, rfl, rfl, rfl, rfl⟩

/-- Settles O47: units are claimed, stolen, placed and dispatched. -/
theorem unitsAreClaimedPlacedAndStarted : Obligations.UnitsAreClaimedPlacedAndStarted := by
  refine ⟨?_, ?_, ?_, fun _ _ _ => mem_permitted, ?_, ?_, ?_, ?_⟩
  · intro s j n q o rest l hl hact hclaimed hq hlt hclaim hserial
    have hexec : exec (.junctionClaim j n) s = .next (nextFree (junctionClaim s j n)) := rfl
    rw [hexec, junctionClaim_eq hl hact hclaimed hq hlt hclaim hserial]
  · intro s j n l hl hact hserial hj hq hsearch hclaimed
    have hexec : exec (.stealRequest j n) s = .next (nextFree (stealRequest s j n)) := rfl
    rw [hexec, stealRequest_eq hl hact hserial hj hq hsearch hclaimed]
  · intro s victim j n k l hl hact hsearch hk hvictim hturn
    have hexec : exec (.stealReply victim j n) s = .next (nextFree (stealReply s victim j n)) := rfl
    have hreply := stealReply_turn hl hact hsearch hk hvictim hturn
    refine ⟨fun hq => ?_, fun q t hq => ?_⟩
    · rw [hexec, hreply, hq]
      rfl
    · have htake : (q ++ [t]).take ((q ++ [t]).length - 1) = q := by simp
      rw [hexec, hreply, hq, htake, List.getLast?_concat]
  · intro s j n u o l x w p hl hact hgang horder hx hrefused htry hout
    have hexec : exec (.unitPlacement j n) s = .next (nextFree (unitPlacement s j n)) := rfl
    rw [hexec, unitPlacement_one hl hact hgang horder hx hrefused htry hout]
  · intro s die index b l u hb hstate hfirst hl hact hu
    have hexec : exec (.dispatch die index) s = .next (nextFree (dispatch s (1536 * die + index))) := rfl
    have hpend : b.pending = true := by rw [Bind.pending, hstate]; rfl
    have hagain : (b.state == 2 && l.live) = false := by rw [hstate]; rfl
    intro key a a'
    rw [hexec]
    split
    · next hfit =>
      rw [dispatch_starts hb hl hu hpend hfirst hfit hagain, if_pos (live_of_active hact)]
      rfl
    · next hbad => rw [dispatch_refused hb hl hu hpend hfirst hbad]
  · intro s die index b l u hb hpend hfirst hl hact hu
    have hexec : exec (.dispatch die index) s = .next (nextFree (dispatch s (1536 * die + index))) := rfl
    have hagain : (b.state == 2 && l.live) = false := by rw [not_live hact, Bool.and_false]
    intro key a a'
    rw [hexec]
    split
    · next hfit =>
      rw [dispatch_starts hb hl hu hpend hfirst hfit hagain, not_live hact]
      rfl
    · next hbad => rw [dispatch_refused hb hl hu hpend hfirst hbad]
  · intro s b l _ w
    obtain ⟨h1, h2, h3, h4, h5, h6, h7, h8, h9, h10, h11⟩ := firstWave_starts w rfl
    refine ⟨h1, h2, h3, h4, h5, h6, h7, h8, h9, h10, h11, fun n t ht => ?_⟩
    rw [firstWave_thread ht]
    exact freshThread_starts b _

end Sys2Proof.Proofs.Units
end

section

/-! PROOFS: launches age, make room, run out of time and end (12 R387; 13 R399-R407). -/

namespace Sys2Proof.Proofs.Launches
open Sys2Proof Sys2Proof.Machine Sys2Proof.Terms Sys2Proof.Laws Sys2Proof.Proofs Sys2Proof.Proofs.Barriers Sys2Proof.Proofs.Units

variable {s : State} {n : Nat} {l : Launch}

theorem priorityAging_eq (hl : mget s.launches n = some l) (hact : l.st = .active) :
    priorityAging s n = { s with launches := mset s.launches n { l with waitPrio := min 31 (l.prio + l.waiting / 2 ^ 26) } } := by
  simp only [priorityAging, modL, mmod_present hl, live_of_active hact, if_true]

/-! ## Units that make room (13 R401) -/

/-- The order in which victims are chosen, as an insertion. -/
theorem mem_inserted {α : Type} {p : α → α → Bool} {l : List α} {a : α} :
    a ∈ l.foldr (fun x out => out.takeWhile (p x) ++ [x] ++ out.dropWhile (p x)) [] ↔ a ∈ l := by
  induction l with
  | nil => rfl
  | cons x l ih =>
    have hmem : ∀ out : List α, a ∈ out.takeWhile (p x) ++ [x] ++ out.dropWhile (p x) ↔ a = x ∨ a ∈ out := fun out => by
      conv_rhs => rw [← List.takeWhile_append_dropWhile (p := p x) (l := out)]
      simp only [List.mem_append, List.mem_singleton]
      tauto
    rw [List.foldr_cons, hmem, ih, List.mem_cons]

theorem mem_victims {u : Nat} (hu : u ∈ victims s l) :
    ∃ x m, mget s.launches x.launch = some m ∧ (u, x) ∈ s.units ∧ x.st = .resident ∧ m.part = l.part ∧ m.prio + 2 ≤ l.waitPrio := by
  obtain ⟨e, he, rfl⟩ := List.mem_map.mp hu
  obtain ⟨⟨u, x⟩, hx, he⟩ := List.mem_filterMap.mp (mem_inserted.mp he)
  cases hm : mget s.launches x.launch with
  | none => simp [hm] at he
  | some m =>
    simp only [hm, Option.ite_none_right_eq_some, Bool.and_eq_true, beq_iff_eq, decide_eq_true_eq, Option.some.injEq] at he
    obtain ⟨⟨⟨hst, hpart⟩, hprio⟩, rfl⟩ := he
    exact ⟨x, m, hm, hx, hst, hpart, hprio⟩

/-- The victims that may go with all that goes with them. -/
def removable (s : State) (l : Launch) (j : Nat) (w : List Want) : List Nat :=
  (victims s l).filter (fun u => (party s u).all (victims s l).contains &&
    ((mget s.units u).map (fun x => tst (((mget s.parts l.part).map (·.cores)).getD 0) x.core &&
      (decide (2 ≤ tierDom l (gangTier l)) || (diesFor l j ((w.head?.map (·.ord)).getD 0)).contains (x.core / 48)))).getD false)

theorem party_of_removable {j u : Nat} {w : List Want} (hu : u ∈ removable s l j w) : ∀ v ∈ party s u, v ∈ victims s l := by
  obtain ⟨-, hcond⟩ := List.mem_filter.mp hu
  simp only [Bool.and_eq_true, List.all_eq_true, List.contains_iff_mem] at hcond
  exact hcond.1

theorem mem_chooseVictims {j v : Nat} {ws : List Want} {gone us : List Nat} (hv : v ∈ chooseVictims s n l j ws gone us) :
    v ∈ gone ∨ ∃ u ∈ us, v ∈ party s u := by
  induction us generalizing gone with
  | nil => exact .inl hv
  | cons u us ih =>
    rw [chooseVictims] at hv
    split at hv
    · exact .inl hv
    · obtain h | ⟨x, hx, hvx⟩ := ih hv
      · obtain h | h := List.mem_append.mp h
        · exact .inl h
        · exact .inr ⟨u, List.mem_cons_self, (List.mem_filter.mp h).1⟩
      · exact .inr ⟨x, List.mem_cons_of_mem _ hx, hvx⟩

theorem no_leaving (h : ∀ e ∈ s.units, e.2.st ≠ .saving) : s.units.filter (fun e => e.2.st == .saving) = [] :=
  List.filter_eq_nil_iff.mpr fun e he => by simp [h e he]

theorem preemptionDecision_early (hl : mget s.launches n = some l) (hwait : l.waiting < 2 ^ 22) : preemptionDecision s n = s := by
  simp only [preemptionDecision, hl, decide_eq_true hwait, Bool.or_true, Bool.true_or, if_true]

theorem preemptionDecision_eq {j : Nat} {w : List Want} {more : List (Nat × List Want)} (hl : mget s.launches n = some l)
    (hact : l.st = .active) (hwait : 2 ^ 22 ≤ l.waiting) (hleave : ∀ e ∈ s.units, e.2.st ≠ .saving)
    (hws : waitingWants s n l = (j, w) :: more) (hnone : ∀ p ∈ (j, w) :: more, tryPlace s keepAll n l p.1 p.2 = none) :
    preemptionDecision s n = (chooseVictims s n l j w [] (removable s l j w)).foldl requestUnit s := by
  have hfits : ((j, w) :: more).any (fun p => (tryPlace s (fun k => !([] : List Nat).contains k) n l p.1 p.2).isSome) = false :=
    List.any_eq_false.mpr fun p hp => by
      rw [show (fun k => !([] : List Nat).contains k) = keepAll from rfl, hnone p hp]
      exact Bool.false_ne_true
  have hkeep : ∀ us : List Nat, us.filter (fun u => !([] : List Nat).contains u) = us := fun us =>
    List.filter_eq_self.mpr fun _ _ => rfl
  simp only [preemptionDecision, hl, no_leaving hleave, List.map_nil, hws, hfits, live_of_active hact,
    decide_eq_false (Nat.not_lt.mpr hwait), Bool.not_true, Bool.or_self, Bool.false_eq_true, if_false, hkeep]
  rfl

theorem requestUnit_resident {u : Nat} {x : LUnit} (hx : mget s.units u = some x) (hst : x.st = .resident) :
    requestUnit s u = { s with
      units := mset s.units u { x with st := .saving },
      waves := s.waves.map (fun e => if e.2.unit = u then (e.1, { e.2 with pre := .requested }) else e),
      binds := s.binds.map (fun e => if e.2.unit = u ∧ e.2.state = 3 then (e.1, { e.2 with state := 4 }) else e) } := by
  simp only [requestUnit, hx, hst, bne_self_eq_false, Bool.false_eq_true, if_false, modU, mmod_present hx, beq_iff_eq, Bool.and_eq_true]

/-! ## Launches that are over (13 R402, R403, R407) -/

theorem timeLimit_eq (hl : mget s.launches n = some l) (hact : l.st = .active) :
    timeLimit s n =
      if l.resident < l.tlimit * 2 ^ 20 then s
      else match l.serial with
        | none => endLaunch (cancelLaunch s n) n 3 0 (brokenDigest s l)
        | some free => endLaunch (digestEntry (cancelLaunch s n) l free (brokenDigest s l) 3) n 4 3 (brokenDigest s l) := by
  simp only [timeLimit, hl, live_of_active hact, Bool.not_true, Bool.false_or, decide_eq_true_eq] <;> rfl

theorem launchComplete_ending {status dsub : Nat} {dig : W64} (hl : mget s.launches n = some l) (hst : l.st = .ending status dsub dig)
    (hbusy : launchBusy s n = false) : launchComplete s n = closeLaunch s n status dsub dig := by
  simp only [launchComplete, hl, hst, hbusy, Bool.false_eq_true, if_false]

theorem allDone_of (hleft : l.unitsLeft = 0) (hin : digestsIn l = true) (hbusy : launchBusy s n = false) : allDone s n l = true := by
  rw [allDone, hleft, hin, hbusy]
  rfl

theorem launchComplete_done (hl : mget s.launches n = some l) (hact : l.st = .active) (hserial : l.serial = none)
    (hleft : l.unitsLeft = 0) (hin : digestsIn l = true) (hbusy : launchBusy s n = false) :
    launchComplete s n =
      if l.digm = 0 then closeLaunch s n 1 0 0#64
      else if l.digm = 1 ∨ taskDigest s l = l.digest then closeLaunch s n 1 0 (taskDigest s l)
      else serialise s n (taskDigest s l) := by
  simp only [launchComplete, hl, hact, allDone_of hleft hin hbusy, hserial, Option.isSome_none, Bool.not_true, Bool.or_self,
    Bool.false_eq_true, if_false, beq_iff_eq, Bool.or_eq_true]

theorem serialEnd_done {free : W64} (hl : mget s.launches n = some l) (hact : l.st = .active) (hserial : l.serial = some free)
    (hleft : l.unitsLeft = 0) (hin : digestsIn l = true) (hbusy : launchBusy s n = false) :
    let t := taskDigest s l
    let sub := if t = l.digest then 1 else if t = free then 2 else 3
    serialEnd s n = closeLaunch (digestEntry s l free t sub) n (if t = l.digest then 1 else 4) sub t := by
  intro t sub
  have hsub : (if (sub == 1) = true then 1 else 4) = if t = l.digest then 1 else 4 := by
    simp only [sub]
    by_cases h : t = l.digest
    · simp [h]
    · by_cases hf : t = free <;> simp [h, hf]
  simp only [serialEnd, hl, hserial, live_of_active hact, allDone_of hleft hin hbusy, Bool.not_true, Bool.or_self, Bool.false_eq_true,
    if_false, beq_iff_eq] at hsub ⊢
  rw [← hsub]

theorem launchComplete_busy (hbusy : launchBusy s n = true) : launchComplete s n = s := by
  have hdone : ∀ l, allDone s n l = false := fun l => by rw [allDone, hbusy, Bool.not_true, Bool.and_false]
  unfold launchComplete
  simp only [hbusy, hdone, Bool.not_false, Bool.true_or, if_true]
  split
  · rfl
  · split <;> rfl

theorem serialEnd_busy (hbusy : launchBusy s n = true) : serialEnd s n = s := by
  have hdone : ∀ l, allDone s n l = false := fun l => by rw [allDone, hbusy, Bool.not_true, Bool.and_false]
  unfold serialEnd
  simp only [hdone, Bool.not_false, Bool.or_true, if_true]
  split
  · rfl
  · split <;> rfl

theorem launchBusy_false : launchBusy s n = false ↔
    (∀ e ∈ s.waves, e.2.launch ≠ n) ∧ (∀ e ∈ s.binds, e.2.launch = n → e.2.pending = false) ∧
    (∀ x ∈ s.contexts, ∀ q ∈ x.2.consists, ∀ c ∈ q.2.cmds, ∀ u, mget s.units c.unit = some u → u.launch ≠ n) ∧
    (∀ x ∈ s.cores, ∀ c ∈ x.2.loadQ ++ x.2.compQ ++ x.2.storeQ, ∀ u, mget s.units c.unit = some u → u.launch ≠ n) := by
  have hcmd : ∀ c : Cmd, ¬ ((mget s.units c.unit).map (·.launch)) = some n ↔
      ∀ u, mget s.units c.unit = some u → u.launch ≠ n := fun c => by
    cases mget s.units c.unit <;> simp
  simp only [launchBusy, Bool.or_eq_false_iff, List.any_eq_false, beq_iff_eq, hcmd, Bool.and_eq_true, not_and, Bool.not_eq_true,
    openCommands, List.mem_append, List.mem_flatMap, and_assoc]
  refine and_congr_right fun _ => and_congr_right fun _ => ⟨fun h => ⟨?_, ?_⟩, fun ⟨h1, h2⟩ c hc => ?_⟩
  · intro x hx q hq c hc
    exact h c (.inl ⟨x, hx, q, hq, hc⟩)
  · intro x hx c hc
    exact h c (.inr ⟨x, hx, hc⟩)
  · obtain ⟨x, hx, q, hq, hc⟩ | ⟨x, hx, hc⟩ := hc
    · exact h1 x hx q hq c hc
    · exact h2 x hx c hc

/-- Settles O48: launches age, make room, run out of time and end. -/
theorem launchesAgeMakeRoomAndEnd : Obligations.LaunchesAgeMakeRoomAndEnd := by
  refine ⟨?_, ?_, fun s l u hu => mem_victims hu, ?_, ?_, ?_, ?_, ?_, ?_, fun s n => launchBusy_false, ?_⟩
  · intro s n l hl hact
    have hexec : exec (.priorityAging n) s = .next (nextFree (priorityAging s n)) := rfl
    rw [hexec, priorityAging_eq hl hact]
  · intro s n j l w more hl hact hwait hleave hws hnone
    have hexec : exec (.preemptionDecision n) s = .next (nextFree (preemptionDecision s n)) := rfl
    refine ⟨_, fun u hu => ?_, by rw [hexec, preemptionDecision_eq hl hact hwait hleave hws hnone]⟩
    obtain h | ⟨v, hv, huv⟩ := mem_chooseVictims hu
    · cases h
    · exact party_of_removable hv u huv
  · intro s u x hx hst
    exact requestUnit_resident hx hst
  · intro s n l hl hact
    have hexec : exec (.timeLimitExpiry n) s = .next (nextFree (timeLimit s n)) := rfl
    rw [hexec, timeLimit_eq hl hact] <;> rfl
  · intro s n status dsub dig l hl hst hbusy
    have hexec : exec (.launchComplete n) s = .next (nextFree (launchComplete s n)) := rfl
    rw [hexec, launchComplete_ending hl hst hbusy]
  · intro s n l hl hact hserial hleft hin hbusy
    have hexec : exec (.launchComplete n) s = .next (nextFree (launchComplete s n)) := rfl
    rw [hexec, launchComplete_done hl hact hserial hleft hin hbusy]
  · intro s n free l hl hact hserial hleft hin hbusy
    have hexec : exec (.serialisedReexecutionEnd n) s = .next (nextFree (serialEnd s n)) := rfl
    rw [hexec, serialEnd_done hl hact hserial hleft hin hbusy]
  · intro s n hbusy
    have hc : exec (.launchComplete n) s = .next (nextFree (launchComplete s n)) := rfl
    have hs : exec (.serialisedReexecutionEnd n) s = .next (nextFree (serialEnd s n)) := rfl
    exact ⟨by rw [hc, launchComplete_busy hbusy], by rw [hs, serialEnd_busy hbusy]⟩
  · intro s n l hl
    simp only [serialise, modL, mmod_present hl, mget_mset_same]
    exact ⟨_, rfl, rfl, rfl, rfl, rfl⟩

end Sys2Proof.Proofs.Launches
end

section

/-! PROOFS: host requests are taken up and answered in order (15 R438-R440, R466). -/

namespace Sys2Proof.Proofs.Answers
open Sys2Proof Sys2Proof.Machine Sys2Proof.Terms Sys2Proof.Laws Sys2Proof.Proofs Sys2Proof.Proofs.Barriers

variable {s t : State} {fn queue v n : Nat} {f g : Func} {q : Queue} {k : Kind}

/-! ## Lists of queues -/

theorem lget_of_getElem? {α : Type} {d x : α} {l : List α} {i : Nat} (h : l[i]? = some x) : lget d l i = x := by
  induction l generalizing i with
  | nil => simp at h
  | cons y l ih =>
    cases i with
    | zero => simpa [lget] using h
    | succ i => simpa [lget] using ih (i := i) (by simpa using h)

theorem lget_lset_same {α : Type} {d x y : α} {l : List α} {i : Nat} (h : l[i]? = some x) : lget d (lset l i y) i = y := by
  induction l generalizing i with
  | nil => simp at h
  | cons z l ih =>
    cases i with
    | zero => rfl
    | succ i => simpa [lget, lset] using ih (i := i) (by simpa using h)

theorem lset_lset {α : Type} (l : List α) (i : Nat) (x y : α) : lset (lset l i x) i y = lset l i y := by
  induction l generalizing i with
  | nil => rfl
  | cons z l ih =>
    cases i with
    | zero => rfl
    | succ i => simp [lset, ih]

/-! ## The head of a queue (15 R440) -/

theorem headReq_arrived (h : Arrived s fn queue v f q) : headReq s fn queue = some (q, f) := by
  simp only [headReq, h.func, h.queue, h.answers, h.open_, decide_eq_true h.size.1, decide_eq_true h.size.2, bne_iff_ne.mpr h.some_,
    Bool.not_false, Bool.and_self, if_true]

theorem headReq_closed (hf : mget s.funcs fn = some f) (hq : f.queues[queue]? = some q)
    (h : fnAnswers s f = false ∨ q.qlog < 4 ∨ 12 < q.qlog ∨ q.qerr = true ∨ q.head = q.tail) : headReq s fn queue = none := by
  have hcond : (fnAnswers s f && decide (4 ≤ q.qlog) && decide (q.qlog ≤ 12) && !q.qerr && q.head != q.tail) = false := by
    obtain h | h | h | h | h := h
    · simp [h]
    · simp [Nat.not_le.mpr h]
    · simp [Nat.not_le.mpr h]
    · simp [h]
    · simp [h]
  simp only [headReq, hf, hq, hcond, Bool.false_eq_true, if_false]

theorem takeUp_arrived (h : Arrived s fn queue v f q) :
    takeUp k s fn queue =
      if k.mine (reqOf fn queue v) || !requestCodes.contains (reqOf fn queue v).opc then
        settle s fn queue v (answerTo k s (reqOf fn queue v))
      else s := by
  obtain ⟨bs, hbs, rfl⟩ := h.entry
  simp only [takeUp, headReq_arrived h, h.idle, Option.isSome_none, Bool.false_eq_true, if_false, h.reach, Bool.not_true, hbs]

theorem goOnReq_arrived {done : State → Req → Bool} (h : Arrived s fn queue v f q) :
    goOnReq k done s fn queue = takeUp k s fn queue := by
  simp only [goOnReq, headReq_arrived h, h.idle]

theorem takeUp_closed (h : headReq s fn queue = none) : takeUp k s fn queue = s := by simp only [takeUp, h]

theorem goOnReq_closed {done : State → Req → Bool} (h : headReq s fn queue = none) : goOnReq k done s fn queue = s := by
  simp only [goOnReq, h]

theorem goOnReq_idle {done : State → Req → Bool} (h : (headReq s fn queue).bind (fun p => p.1.cur) = none) :
    goOnReq k done s fn queue = takeUp k s fn queue := by
  unfold goOnReq
  cases hr : headReq s fn queue with
  | none => rw [takeUp_closed hr]
  | some p =>
    rw [hr] at h
    simp only [show p.1.cur = none from h]

theorem goOnDestroy_idle (h : (headReq s fn queue).bind (fun p => p.1.cur) = none) : goOnDestroy k s fn queue = takeUp k s fn queue := by
  simp only [goOnDestroy, h]

theorem exec_selfTest_waits (h : s.selfTest.isSome = true) : exec (.selfTest fn queue) s = .next (nextFree s) := by
  have hexec : exec (.selfTest fn queue) s =
      .next (nextFree (if s.selfTest.isSome then s else takeUp selfTestKind s fn queue)) := rfl
  rw [hexec, if_pos h]

/-- Where no request of a queue is under way, each request step takes up its head; a second self-test waits. -/
theorem request_steps {i : Instr} (hform : requestForm i = some (fn, queue, k)) :
    (¬waitsForTest s i → (headReq s fn queue).bind (fun p => p.1.cur) = none → exec i s = .next (nextFree (takeUp k s fn queue))) ∧
      (waitsForTest s i → exec i s = .next (nextFree s)) := by
  cases i
  case launch | contextCreate | invalidate | faultResolve | codeSwap | decayTableReload | rangeCreate | shardSet | collectiveGroup
    | partition | trunkConfigure | attest | powerLimit | errorRecord | predictiveThresholds =>
    cases hform
    exact ⟨fun _ _ => rfl, False.elim⟩
  case contextEnd | preempt =>
    cases hform
    exact ⟨fun _ hidle => congrArg (fun a => Host.Outcome.next (nextFree a)) (goOnReq_idle hidle), False.elim⟩
  case rangeDestroy =>
    cases hform
    exact ⟨fun _ hidle => congrArg (fun a => Host.Outcome.next (nextFree a)) (goOnDestroy_idle hidle), False.elim⟩
  case selfTest =>
    cases hform
    exact ⟨fun hnot _ => congrArg (fun a => Host.Outcome.next (nextFree a)) (if_neg hnot), exec_selfTest_waits⟩
  all_goals exact none_ne_some hform

theorem exec_request {i : Instr} (hform : requestForm i = some (fn, queue, k)) (hwait : ¬waitsForTest s i)
    (hidle : (headReq s fn queue).bind (fun p => p.1.cur) = none) : exec i s = .next (nextFree (takeUp k s fn queue)) :=
  (request_steps hform).1 hwait hidle

theorem exec_closed {i : Instr} (hform : requestForm i = some (fn, queue, k)) (h : headReq s fn queue = none) :
    exec i s = .next (nextFree s) := by
  by_cases hwait : waitsForTest s i
  · exact (request_steps hform).2 hwait
  · rw [exec_request hform hwait (by rw [h]; rfl), takeUp_closed h]

theorem exec_arrived {i : Instr} (hform : requestForm i = some (fn, queue, k)) (hwait : ¬waitsForTest s i)
    (h : Arrived s fn queue v f q) :
    exec i s = .next (nextFree
      (if k.mine (reqOf fn queue v) || !requestCodes.contains (reqOf fn queue v).opc then
        settle s fn queue v (answerTo k s (reqOf fn queue v))
      else s)) := by
  rw [exec_request hform hwait (by rw [headReq_arrived h]; exact h.idle), takeUp_arrived h]

/-! ## Answers (15 R466) -/

theorem answerTo_malformed {r : Req} (h : r.rsv ≠ 0 ∨ requestCodes.contains r.opc = false) : answerTo k s r = .status 5 := by
  have hcond : (r.rsv != 0 || !requestCodes.contains r.opc) = true := by
    simpa only [Bool.or_eq_true, bne_iff_ne, Bool.not_eq_true'] using h
  simp only [answerTo, hcond, if_true]

theorem answerTo_loaded {r : Req} {m : Nat} (hplain : r.rsv = 0) (hcode : requestCodes.contains r.opc = true) (hload : k.load s r = .ok m) :
    answerTo k s r =
      if r.fn != 0 && (k.pf0 || (k.names r m).any (fun c => !mayName s r c)) then .status 4 else k.act s r m := by
  have hcond : (r.rsv != 0 || !requestCodes.contains r.opc) = false := by rw [hplain, hcode]; rfl
  simp only [answerTo, hcond, Bool.false_eq_true, if_false, hload]

theorem answerTo_forbidden {r : Req} {m : Nat} (hplain : r.rsv = 0) (hcode : requestCodes.contains r.opc = true)
    (hload : k.load s r = .ok m) (hfn : r.fn ≠ 0) (h : k.pf0 = true ∨ ∃ c ∈ k.names r m, mayName s r c = false) :
    answerTo k s r = .status 4 := by
  have hcond : (r.fn != 0 && (k.pf0 || (k.names r m).any (fun c => !mayName s r c))) = true := by
    simpa only [Bool.and_eq_true, bne_iff_ne, Bool.or_eq_true, List.any_eq_true, Bool.not_eq_true'] using ⟨hfn, h⟩
  rw [answerTo_loaded hplain hcode hload, hcond]
  rfl

theorem answerTo_granted {r : Req} {m : Nat} (hplain : r.rsv = 0) (hcode : requestCodes.contains r.opc = true)
    (hload : k.load s r = .ok m) (h : r.fn = 0 ∨ k.pf0 = false ∧ ∀ c ∈ k.names r m, mayName s r c = true) :
    answerTo k s r = k.act s r m := by
  have hcond : (r.fn != 0 && (k.pf0 || (k.names r m).any (fun c => !mayName s r c))) = false := by
    obtain h | ⟨hpf, hnames⟩ := h
    · rw [h]; rfl
    · rw [hpf, List.any_eq_false.mpr fun c hc => by rw [hnames c hc]; exact Bool.false_ne_true]
      exact Bool.and_false _
  rw [answerTo_loaded hplain hcode hload, hcond]
  rfl

/-! ## Completions (15 R438) -/

theorem takeReq_eq (hg : mget t.funcs fn = some g) (hq : g.queues[queue]? = some q) :
    takeReq t fn queue v = { t with funcs := mset t.funcs fn { g with queues := lset g.queues queue { q with cur := some v } } } := by
  simp only [takeReq, hg, lget_of_getElem? hq, putHostQueue, mmod_present hg]

theorem completeReq_with_funcs (t : State) (fs : FMap Func) (cpl tag n : Nat) :
    completeReq { t with funcs := fs } cpl tag n = { completeReq t cpl tag n with funcs := fs } := by
  unfold completeReq sysWrite
  split <;> rfl

theorem answered_eq (hg : mget t.funcs fn = some g) (hq : g.queues[queue]? = some q)
    (hreach : fnReach t fn (bitsAt v 320 64) 8 = true) :
    answered t fn queue v n = { completeReq t (bitsAt v 320 64) (bitsAt v 288 32) n with
      funcs := mset t.funcs fn { g with
        queues := lset g.queues queue { q with head := (q.head + 1) % 2 ^ q.qlog, cur := none, came := q.came.drop 1 } } } := by
  have hreach' : ∀ fs, fnReach { t with funcs := fs } fn (bitsAt v 320 64) 8 = true := fun _ => hreach
  rw [answered, takeReq_eq hg hq]
  simp only [finishRequest, mget_mset_same, lget_lset_same hq, hreach', if_true, completeReq_with_funcs, lset_lset, mset_mset]

theorem sysWrite_keeps (t : State) (a : Nat) (bs : List Byte) :
    (sysWrite t a bs).launches = t.launches ∧ (sysWrite t a bs).contexts = t.contexts ∧ (sysWrite t a bs).waves = t.waves ∧
      (sysWrite t a bs).cores = t.cores ∧ (sysWrite t a bs).mgmt = t.mgmt := by
  by_cases h : a + bs.length ≤ memSize
  · rw [sysWrite, if_pos h]
    exact ⟨rfl, rfl, rfl, rfl, rfl⟩
  · rw [sysWrite, if_neg h]
    exact ⟨rfl, rfl, rfl, rfl, rfl⟩

/-- Settles O52: requests are answered in order. -/
theorem requestsAreAnsweredInOrder : Obligations.RequestsAreAnsweredInOrder := by
  refine ⟨?_, ?_, ?_, fun s fn queue h => exec_selfTest_waits h⟩
  · intro i s fn queue v k f q hform hwait harr r
    have hexec := exec_arrived hform hwait harr
    refine ⟨fun hbad hmine => ?_, fun hcode hmine => ?_, fun hmine hplain hcode n hload hfn hnames => ?_⟩
    · have htaken : (k.mine r || !requestCodes.contains r.opc) = true := by
        simpa only [Bool.or_eq_true, Bool.not_eq_true'] using hmine
      rw [hexec, if_pos htaken, answerTo_malformed hbad]
      rfl
    · rw [hexec, hmine, hcode]
      rfl
    · rw [hexec, hmine, answerTo_forbidden hplain hcode hload hfn hnames]
      rfl
  · intro i s fn queue k f q hform hf hq h
    exact exec_closed hform (headReq_closed hf hq h)
  · intro s t fn queue v n f g q harr hg hqueues hreach
    have hq : g.queues[queue]? = some q := by rw [hqueues]; exact harr.queue
    obtain ⟨h1, h2, h3, h4, h5⟩ := sysWrite_keeps t (bitsAt v 320 64) (numBytes 8 (bitsAt v 288 32 * 2 ^ 32 + n))
    refine ⟨_, answered_eq hg hq hreach, rfl, rfl, ?_, h1, h2, h3, h4, h5⟩
    rw [← hqueues]
    exact mget_mset_same ..

end Sys2Proof.Proofs.Answers
end

section

/-! PROOFS: the Signalbox's own steps complete (12 R387; 13 R401-R407; 15 R455-R462). -/

namespace Sys2Proof.Proofs.Signalbox
open Sys2Proof Sys2Proof.Machine Sys2Proof.Terms Sys2Proof.Laws Sys2Proof.Proofs Sys2Proof.Proofs.Barriers Sys2Proof.Proofs.Units
  Sys2Proof.Proofs.Launches Sys2Proof.Proofs.Answers

variable {s : State} {n : Nat} {l : Launch}

/-- The first victim alone where that is enough. -/
theorem chooseVictims_first {j u : Nat} {ws : List Want} {us : List Nat} (hnone : tryPlace s keepAll n l j ws = none)
    (hfits : (tryPlace s (fun k => !(party s u).contains k) n l j ws).isSome = true) :
    chooseVictims s n l j ws [] (u :: us) = party s u := by
  have hkeep : (tryPlace s (fun k => !([] : List Nat).contains k) n l j ws).isSome = false := by
    rw [show (fun k => !([] : List Nat).contains k) = keepAll from rfl, hnone]
    rfl
  have hall : (party s u).filter (fun x => !([] : List Nat).contains x) = party s u := List.filter_eq_self.mpr fun _ _ => rfl
  rw [chooseVictims, hkeep, hall, List.nil_append]
  cases us with
  | nil => rfl
  | cons v us =>
    rw [chooseVictims, if_pos hfits]
    rfl

/-! ## Life-cycle tokens (15 R455, R462) -/

theorem lcApply_passes (htoken : tokenOk s.mgmt = true) :
    let m : Mgmt := { s.mgmt with lcnonce := Config.nonce s.freeCount, lcbuf := [], lcs := s.mgmt.lcs + 1, lccmd := 1, sel := 0x32 }
    let r := verified (resetMgmt m false s.freeCount) (bootFailure (s.mgmt.lcs + 1) s.freeCount)
    lcApply s = wipeDevice s (if s.mgmt.lcs = 2 then { r with indices := 0, blocksLeft := 0 } else r) := by
  intro m r
  have hlcs : (s.mgmt.lcs + 1 == 3) = decide (s.mgmt.lcs = 2) := by
    rw [beq_eq_decide, Bool.eq_iff_iff, decide_eq_true_eq, decide_eq_true_eq]
    omega
  simp only [lcApply, htoken, if_true, hlcs, decide_eq_true_eq]
  rfl

theorem exec_lcApply (hcmd : s.mgmt.lccmd ≠ 1) : exec .lcApply s = .next (nextFree (lcApply s)) := by
  have hexec : exec .lcApply s = execLcApply s := rfl
  rw [hexec, execLcApply, if_neg (by simpa using hcmd)]

/-! ## Attestation (15 R457-R459) -/

theorem attest_answers {fn queue v d : Nat} (hasks : Asks s fn queue v 0x13)
    (hload : readPay s (reqOf fn queue v) (reqOf fn queue v).pay 64 1 = .ok d) (hturn : attestBefore s (reqOf fn queue v) = false)
    (hindex : s.mgmt.indices ≠ 0)
    (hreach : fnReach s fn (reqOf fn queue v).arg
      (reportBody s fn d ++ (Config.xmssSign (nextIndex s.mgmt) (reportBody s fn d)).toList).length = true) :
    takeUp attestKind s fn queue = answered
      (sysWrite { s with mgmt := { s.mgmt with indices := s.mgmt.indices - 1 } } (reqOf fn queue v).arg
        (reportBody s fn d ++ (Config.xmssSign (nextIndex s.mgmt) (reportBody s fn d)).toList)) fn queue v 1 := by
  obtain ⟨⟨f, q, harr⟩, hcode, hplain⟩ := hasks
  have hmine : attestKind.mine (reqOf fn queue v) = true := by
    simp only [attestKind, hcode, beq_self_eq_true]
  have hknown : requestCodes.contains (reqOf fn queue v).opc = true := by rw [hcode]; rfl
  have hgrant := answerTo_granted (s := s) (k := attestKind) hplain hknown hload (.inr ⟨rfl, by simp [attestKind]⟩)
  have hact : attestKind.act s (reqOf fn queue v) d = attestAct s (reqOf fn queue v) d := if_neg (by rw [hturn]; exact Bool.false_ne_true)
  have hfn : (reqOf fn queue v).fn = fn := rfl
  rw [takeUp_arrived harr, hmine, Bool.true_or, if_pos rfl, hgrant, hact]
  simp only [attestAct, beq_eq_false_iff_ne.mpr hindex, hfn, hreach, Bool.not_true, Bool.false_eq_true, if_false]
  rfl

/-- Settles O60: the Signalbox's steps complete with what the statement gives. -/
theorem signalboxStepsComplete : Obligations.SignalboxStepsComplete := by
  refine ⟨?_, ?_, ?_, ?_, ?_, ?_⟩
  · intro s n l hl hact
    have hexec : exec (.priorityAging n) s = .next (nextFree (priorityAging s n)) := rfl
    rw [hexec, priorityAging_eq hl hact]
  · intro s n j l w more vs hl hact hleave hws hnone hvs
    have hexec : exec (.preemptionDecision n) s = .next (nextFree (preemptionDecision s n)) := rfl
    have hvs : vs = removable s l j w := hvs
    refine ⟨fun hwait => ?_, fun hwait => by rw [hexec, preemptionDecision_early hl hwait]⟩
    have hdecide := preemptionDecision_eq hl hact hwait hleave hws hnone
    rw [← hvs] at hdecide
    refine ⟨by rw [hexec, hdecide], fun u us hcons hfits => ?_⟩
    rw [hexec, hdecide, hcons, chooseVictims_first (hnone _ List.mem_cons_self) hfits]
  · intro s n l hl hact hlimit
    have hexec : exec (.timeLimitExpiry n) s = .next (nextFree (timeLimit s n)) := rfl
    have heq := timeLimit_eq hl hact
    rw [if_neg (Nat.not_lt.mpr hlimit)] at heq
    refine ⟨fun hserial => ?_, fun free hserial => ?_⟩
    · rw [hexec, heq, hserial]
    · rw [hexec, heq, hserial]
  · intro s n l hl hbusy
    have hexec : exec (.launchComplete n) s = .next (nextFree (launchComplete s n)) := rfl
    have hend : exec (.serialisedReexecutionEnd n) s = .next (nextFree (serialEnd s n)) := rfl
    refine ⟨fun status dsub dig hst => by rw [hexec, launchComplete_ending hl hst hbusy], fun hact hserial hleft => ?_,
      fun free hact hserial hleft hin => by rw [hend, serialEnd_done hl hact hserial hleft hin hbusy]⟩
    refine ⟨fun hdigm => ?_, fun hdigm hin hsame => ?_, fun hdigm hone hin hdiff => ?_⟩
    · have hin : digestsIn l = true := by rw [digestsIn, hdigm]; rfl
      rw [hexec, launchComplete_done hl hact hserial hleft hin hbusy, if_pos hdigm]
    · rw [hexec, launchComplete_done hl hact hserial hleft hin hbusy, if_neg hdigm, if_pos hsame]
    · rw [hexec, launchComplete_done hl hact hserial hleft hin hbusy, if_neg hdigm, if_neg (not_or.mpr ⟨hone, hdiff⟩)]
  · intro s hcmd htoken
    rw [exec_lcApply hcmd, lcApply_passes htoken]
  · intro s fn queue v d r body report hasks hload hturn hindex hreach
    have hexec : exec (.attest fn queue) s = .next (nextFree (takeUp attestKind s fn queue)) := rfl
    rw [hexec, attest_answers hasks hload hturn hindex hreach]

end Sys2Proof.Proofs.Signalbox
end

section

/-! PROOFS: units are saved and resumed, and code swaps retire (02 R88; 12 R372, R378-R383, R386). -/

namespace Sys2Proof.Proofs.Saved
open Sys2Proof Sys2Proof.Machine Sys2Proof.Terms Sys2Proof.Laws Sys2Proof.Proofs Sys2Proof.Proofs.Barriers Sys2Proof.Proofs.Units

variable {s : State} {u : Nat} {x : LUnit}

theorem mem_unitWaves {e : Nat × Wave} (he : e ∈ s.waves) (hu : e.2.unit = u) : e.1 ∈ unitWaves s u :=
  List.mem_map.mpr ⟨e, List.mem_filter.mpr ⟨he, beq_iff_eq.mpr hu⟩, rfl⟩

theorem all_of_unit {p : Nat × Wave → Bool} (h : ∀ e ∈ s.waves, e.2.unit = u → p e = true) :
    (s.waves.filter (fun e => e.2.unit == u)).all p = true :=
  List.all_eq_true.mpr fun e he => h e (List.mem_filter.mp he).1 (eq_of_beq (List.mem_filter.mp he).2)

theorem ne_nil_of_unit (h : ∃ e ∈ s.waves, e.2.unit = u) : s.waves.filter (fun e => e.2.unit == u) ≠ [] := by
  obtain ⟨e, he, hu⟩ := h
  exact List.ne_nil_of_mem (List.mem_filter.mpr ⟨he, beq_iff_eq.mpr hu⟩)

/-! ## Saving (12 R380, R381) -/

theorem handlersStart_ready (hx : mget s.units u = some x) (hst : x.st = .saving) (hmown : x.mown = false)
    (hsampler : (getC s x.core).sampler = none) (hquiet : unitQuiet s u x = true) (hex : ∃ e ∈ s.waves, e.2.unit = u)
    (hpoint : ∀ e ∈ s.waves, e.2.unit = u → atPoint s e.2 = true ∧ e.2.pre ≠ .handler ∧ e.2.pre ≠ .saved)
    (hbinds : ∀ e ∈ s.binds, e.2.unit = u → e.2.pending = false ∧ e.2.state ≠ 6) :
    handlersStart s u =
      ((unitWaves s u).filter (fun k => ((mget s.waves k).map (fun w => w.threads.any (·.live))).getD false)).foldl startSave s := by
  have hall : (s.waves.filter (fun e => e.2.unit == u)).all (fun e => atPoint s e.2) = true :=
    all_of_unit fun e he hu => (hpoint e he hu).1
  have hnone : (unitWaves s u).isEmpty = false := List.isEmpty_eq_false_iff.mpr fun h =>
    ne_nil_of_unit hex (List.map_eq_nil_iff.mp h)
  have hpre : (s.waves.filter (fun e => e.2.unit == u)).any (fun e => e.2.pre == .handler || e.2.pre == .saved) = false :=
    List.any_eq_false.mpr fun e he => by
      obtain ⟨he, hu⟩ := List.mem_filter.mp he
      obtain ⟨-, h1, h2⟩ := hpoint e he (eq_of_beq hu)
      simp [h1, h2]
  have hbind : s.binds.any (fun e => e.2.unit == u && (e.2.pending || e.2.state == 6)) = false :=
    List.any_eq_false.mpr fun e he => by
      by_cases hu : e.2.unit = u
      · obtain ⟨h1, h2⟩ := hbinds e he hu
        simp [h1, h2]
      · simp [hu]
  have hsame : preemptSampler s x.core x.cid = s := by simp only [preemptSampler, hsampler]
  simp only [handlersStart, hx, hst, hall, hquiet, hnone, hpre, hbind, hmown, hsame, bne_self_eq_false, Bool.not_true, Bool.or_self,
    Bool.false_eq_true, if_false]

theorem startSave_eq {k : Nat} {w : Wave} (hw : mget s.waves k = some w) :
    startSave s k = enterTrap
      { s with
        waves := mset s.waves k (stoppedWave w),
        cores := mset s.cores w.core { getC s w.core with reqs := (getC s w.core).reqs.filter (fun r => r.1 != k) } }
      k ⟨cPreempt, 0#64, 0#64, 0#32, 0, maskOf w.liveTids⟩ 0 := by
  simp only [startSave, hw]
  rfl

/-! ## Rollback (02 R88) -/

/-- The copy of register copy `key` after a rollback. -/
def rolledCell (t : Thread) (key : Nat) : Cell :=
  if t.sec.liveIn (key / 4) then zget (Cell.val 0#32) t.sec.regs key
  else if 32 ≤ key / 4 ∧ key / 4 < 0x60 then zget (Cell.val 0#32) t.regs key
  else Cell.undef

theorem zget_listed {α : Type} [DecidableEq α] (z : α) (F : Nat → α) (l : List Nat) (key : Nat) :
    zget z ((l.map fun k => (k, F k)).filter (fun e => e.2 != z)) key = if key ∈ l then F key else z := by
  induction l with
  | nil => simp [zget]
  | cons k l ih =>
    rw [List.map_cons, List.filter_cons]
    by_cases hk : key = k
    · subst hk
      rw [if_pos List.mem_cons_self]
      split
      · simp only [zget, mget, beq_self_eq_true, if_true, Option.getD_some]
      · next h =>
        have hzero : F key = z := by simpa using h
        rw [ih, hzero, ite_self]
    · have hne : (key == k) = false := beq_eq_false_iff_ne.mpr hk
      simp only [List.mem_cons, hk, false_or]
      split
      · simp only [zget, mget, hne, Bool.false_eq_true, if_false]
        exact ih
      · exact ih

/-- The register copies that a wave holds. -/
def heldKeys (triple : Bool) (xblk : Nat) : List Nat :=
  (span 0 (32 * (xblk + 1)) ++ span 0x60 8).flatMap fun p => (if triple then [0, 1, 2] else [0]).map fun k => 4 * p + k

theorem rollRegs_eq (triple : Bool) (xblk : Nat) (t : Thread) :
    rollRegs triple xblk t = ((heldKeys triple xblk).map fun k => (k, rolledCell t k)).filter (fun e => e.2 != Cell.val 0#32) := by
  unfold rollRegs heldKeys
  rw [List.map_flatMap]
  refine congrArg (List.filter _) (List.flatMap_congr fun p _ => ?_)
  rw [List.map_map]
  refine List.map_congr_left fun k hk => ?_
  have hlt : k < 4 := by
    split at hk
    · simp only [List.mem_cons, List.not_mem_nil, or_false] at hk
      omega
    · simp only [List.mem_cons, List.not_mem_nil, or_false] at hk
      omega
  have hdiv : (4 * p + k) / 4 = p := by omega
  simp only [Function.comp_apply, rolledCell, hdiv, Bool.and_eq_true, decide_eq_true_eq]

theorem mem_heldKeys {triple : Bool} {xblk p i : Nat} (hi : i = 0 ∨ triple = true ∧ i ≤ 2)
    (hp : p < 32 * (xblk + 1) ∨ 0x60 ≤ p ∧ p < 0x68) : 4 * p + i ∈ heldKeys triple xblk := by
  refine List.mem_flatMap.mpr ⟨p, ?_, List.mem_map.mpr ⟨i, ?_, rfl⟩⟩
  · rw [List.mem_append, mem_span, mem_span]
    omega
  · obtain rfl | ⟨rfl, hi⟩ := hi
    · cases triple <;> simp
    · simp only [if_true, List.mem_cons, List.not_mem_nil, or_false]
      omega

theorem rollBack_live (triple : Bool) (xblk : Nat) {t : Thread} (hl : t.live = true) :
    let r := rollBack triple xblk t
    r.pc = t.sec.entry ∧ r.opidx = t.sec.opidx ∧ r.win = [] ∧ r.hint = none ∧ r.wimm = none ∧ r.digest = t.sec.digest ∧
      r.lidx = t.lidx ∧ r.cohort = t.cohort ∧ r.sec = t.sec ∧ (r.st = if t.st = .atBarrier then .atBarrier else .ready) ∧
      r.regs = rollRegs triple xblk t := by
  simp only [rollBack, hl, Bool.not_true, Bool.false_eq_true, if_false, beq_iff_eq, and_self]

theorem cell_rollBack {triple : Bool} {xblk p i : Nat} {t : Thread} (hl : t.live = true) (hi : i = 0 ∨ triple = true ∧ i ≤ 2)
    (hp : p < 32 * (xblk + 1) ∨ 0x60 ≤ p ∧ p < 0x68) :
    cell (rollBack triple xblk t) (4 * p + i) =
      if t.sec.liveIn p then zget (Cell.val 0#32) t.sec.regs (4 * p + i)
      else if 32 ≤ p ∧ p < 0x60 then cell t (4 * p + i) else .undef := by
  have hdiv : (4 * p + i) / 4 = p := by omega
  obtain ⟨-, -, -, -, -, -, -, -, -, -, hregs⟩ := rollBack_live triple xblk hl
  rw [cell, hregs, rollRegs_eq, zget_listed, if_pos (mem_heldKeys hi hp), rolledCell, hdiv]
  rfl

/-! ## Waves that leave (12 R372, R380, R381) -/

theorem waveLeaves_saved {k : Nat} {w : Wave} {p : Priv} (hw : mget s.waves k = some w) (hp : w.priv = some p)
    (hcode : p.cause.code = cPreempt) (hpre : w.pre = .handler) (hld : w.ldq = []) (hst : w.stq = []) (howes : w.owes = false)
    (hexit : atExit w 1 = true) :
    waveLeaves s k = unitLeaves
      { setW s k { w with pre := .saved } with binds := mmod s.binds k (fun b => { b with state := 0 }) } w.unit := by
  simp only [waveLeaves, hw, hp, Option.map_some, Option.getD_some, hcode, hpre, hexit, hld, hst, howes, bne_self_eq_false,
    List.isEmpty_nil, Bool.not_true, Bool.or_self, Bool.false_eq_true, if_false]

theorem unitLeaves_waits (h : ∃ e ∈ s.waves, e.2.unit = u ∧ e.2.pre ≠ .saved ∧ ∃ t ∈ e.2.threads, t.live = true) :
    unitLeaves s u = s := by
  obtain ⟨e, he, hu, hpre, t, ht, hl⟩ := h
  have hlive : e ∈ (s.waves.filter (fun e => e.2.unit == u)).filter (fun e => e.2.threads.any (·.live)) :=
    List.mem_filter.mpr ⟨List.mem_filter.mpr ⟨he, beq_iff_eq.mpr hu⟩, List.any_eq_true.mpr ⟨t, ht, hl⟩⟩
  have hany : ((s.waves.filter (fun e => e.2.unit == u)).filter (fun e => e.2.threads.any (·.live))).any
      (fun e => e.2.pre != .saved) = true := List.any_eq_true.mpr ⟨e, hlive, bne_iff_ne.mpr hpre⟩
  simp only [unitLeaves, hany, Bool.or_true, if_true]
  split <;> rfl

theorem mem_mset_other {α : Type} {m : FMap α} {k : Nat} {v : α} {e : Nat × α} (he : e ∈ m) (hne : e.1 ≠ k) : e ∈ mset m k v := by
  induction m with
  | nil => cases he
  | cons a m ih =>
    obtain ⟨a, y⟩ := a
    rw [mset]
    split
    · next hk =>
      obtain rfl | he := List.mem_cons.mp he
      · exact absurd (eq_of_beq hk).symm hne
      · exact List.mem_cons_of_mem _ he
    · split
      · exact List.mem_cons_of_mem _ he
      · obtain rfl | he := List.mem_cons.mp he
        · exact List.mem_cons_self
        · exact List.mem_cons_of_mem _ (ih he)

theorem unitLeaves_all (hx : mget s.units u = some x) (hex : ∃ e ∈ s.waves, e.2.unit = u)
    (hall : ∀ e ∈ s.waves, e.2.unit = u → e.2.pre = .saved ∧ e.2.det = false ∧ ∃ t ∈ e.2.threads, t.live = true) :
    unitLeaves s u = requeue
      { s with
        waves := s.waves.filter (fun e => e.2.unit != u), binds := s.binds.filter (fun e => e.2.unit != u),
        units := mset s.units u { x with
          st := .saved, share := [], lateFlags := 0#32, oldGrant := none,
          gone := (s.waves.filter (fun e => e.2.unit == u)).foldl
            (fun m e => (e.2.threads.filter (fun t => !t.live)).foldl (fun m t => mset m t.lidx t.digest) m) x.gone,
          saved := (s.waves.filter (fun e => e.2.unit == u)).filterMap (fun e => keepWave e.2) },
        cores := mset s.cores x.core { getC s x.core with
          owner := if (getC s x.core).owner = some u then none else (getC s x.core).owner } } u := by
  have hmine : ∀ e ∈ s.waves.filter (fun e => e.2.unit == u), e.2.pre = .saved ∧ e.2.det = false ∧ ∃ t ∈ e.2.threads, t.live = true :=
    fun e he => hall e (List.mem_filter.mp he).1 (eq_of_beq (List.mem_filter.mp he).2)
  have hlive : (s.waves.filter (fun e => e.2.unit == u)).filter (fun e => e.2.threads.any (·.live)) =
      s.waves.filter (fun e => e.2.unit == u) := List.filter_eq_self.mpr fun e he => by
    obtain ⟨-, -, t, ht, hl⟩ := hmine e he
    exact List.any_eq_true.mpr ⟨t, ht, hl⟩
  have hpre : (s.waves.filter (fun e => e.2.unit == u)).any (fun e => e.2.pre != .saved) = false :=
    List.any_eq_false.mpr fun e he => by
      obtain ⟨h, -⟩ := hmine e he
      simp [h]
  have hdet : (s.waves.filter (fun e => e.2.unit == u)).any (fun e => e.2.det) = false :=
    List.any_eq_false.mpr fun e he => by
      obtain ⟨-, h, -⟩ := hmine e he
      simp [h]
  simp only [unitLeaves, hx, hlive, List.isEmpty_eq_false_iff.mpr (ne_nil_of_unit hex), hpre, hdet, Bool.or_self, Bool.false_eq_true,
    if_false, modU, mmod_present hx, modC, beq_iff_eq]
  rfl

/-! ## Resuming (12 R382, R383) -/

theorem unitResume_placed {l : Launch} {w : Work2} (hx : mget s.units u = some x) (hl : mget s.launches x.launch = some l)
    (hact : l.st = .active) (hst : x.st = .claimed) (hsaved : x.saved ≠ []) (hrefused : hasRefused s u = false)
    (horder : inOrder s x.launch l = true) :
    let gang := (savedGang s x.launch l x.ord).map (·.2)
    (∀ e ∈ gang, e.2.st = .claimed) → tryPlace s keepAll x.launch l x.junction (resumeWants s x.launch l x.ord) = some w →
    (∀ e ∈ gang.zip w.out, seenOn s (e.1.2.die.getD (e.2.core / 48)) (e.2.core / 48) = true) →
      let a := (gang.zip w.out).foldl (fun s e => settleResumed x.launch l s e.1.1 e.2) (refreshContext s x.cid)
      unitResume s u = modL a x.launch (fun l => { l with domains := w.doms }) := by
  intro gang hgang htry hseen a
  have hclaimed : gang.all (fun e => e.2.st == .claimed) = true := List.all_eq_true.mpr fun e he => beq_iff_eq.mpr (hgang e he)
  have hseen' : (gang.zip w.out).all (fun e => seenOn s (e.1.2.die.getD (dieOf e.2.core)) (dieOf e.2.core)) = true :=
    List.all_eq_true.mpr hseen
  have hsaved' : x.saved.isEmpty = false := List.isEmpty_eq_false_iff.mpr hsaved
  have hst' : (x.st != .claimed) = false := by rw [hst]; rfl
  simp only [unitResume, hx, hl, live_of_active hact, hsaved', hrefused, horder, hst', htry]
  rw [show (savedGang s x.launch l x.ord).map (·.2) = gang from rfl, hclaimed, hseen']
  rfl

theorem settleResumed_eq {n : Nat} {l : Launch} {p : Placed} (hx : mget s.units u = some x) :
    let old := ((x.saved.head?).map (·.grant)).getD p.grant
    ∃ bind, (∀ y q, (bind y q).state = 2 ∧ (bind y q).unit = u ∧ (bind y q).grant = y.grant ∧ (bind y q).slot = q.2) ∧
      settleResumed n l s u p = modU (settlePlaced n s u p .resuming bind) u
        (fun y => { y with rslc := if old = p.grant then y.rslc else y.rslc + 1 }) := by
  intro old
  refine ⟨fun y q => bindOf n l u y q.1 q.2 2 (((sourceWave x y.grant q.1).map (·.xblk)).getD 0)
    (((sourceWave x y.grant q.1).map (·.triple)).getD false), fun y q => ⟨rfl, rfl, rfl, rfl⟩, ?_⟩
  simp only [settleResumed, hx, beq_iff_eq]
  rfl

theorem resumeRelease_ready (hx : mget s.units u = some x) (hst : x.st = .resuming)
    (hbinds : ∀ e ∈ s.binds, e.2.unit = u → e.2.pending = false) (hex : ∃ e ∈ s.waves, e.2.unit = u)
    (hall : ∀ e ∈ s.waves, e.2.unit = u → atExit e.2 0 = true ∧ (∃ p, e.2.priv = some p ∧ p.cause.code = cResume) ∧ e.2.stq = [] ∧
      e.2.owes = false ∧
      agreeing (x.saved.filter (fun v => decide (v.wlog * v.grant < (e.2.wlog + 1) * e.2.grant) &&
        decide (e.2.wlog * e.2.grant < (v.wlog + 1) * v.grant))) = true) :
    let a : State := { s with units := mset s.units u { x with
      st := .resident, saved := [], lateFlags := 0#32, oldGrant := none, mat := none } }
    let ks := unitWaves s u
    resumeRelease s u = concludeAll (ks.foldl (fun s k => modW s k loseRest) (ks.foldl returnTrap a)) ks := by
  intro a ks
  have hpend : s.binds.any (fun e => e.2.unit == u && e.2.pending) = false := List.any_eq_false.mpr fun e he => by
    by_cases hu : e.2.unit = u
    · simp [hbinds e he hu]
    · simp [hu]
  have hready : (s.waves.filter (fun e => e.2.unit == u)).all (fun e => !e.2.threads.any (·.live) ||
      (atExit e.2 0 && ((e.2.priv.map (fun p => p.cause.code)).getD 0) == cResume && e.2.stq.isEmpty && !e.2.owes)) = true :=
    all_of_unit fun e he hu => by
      obtain ⟨hexit, ⟨p, hp, hcode⟩, hstq, howes, -⟩ := hall e he hu
      simp only [hexit, hp, Option.map_some, Option.getD_some, hcode, beq_self_eq_true, hstq, List.isEmpty_nil, howes, Bool.not_false,
        Bool.and_self, Bool.or_true]
  have hagree : (s.waves.filter (fun e => e.2.unit == u)).all (fun e => agreeing (x.saved.filter (fun v =>
      decide (v.wlog * v.grant < (e.2.wlog + 1) * e.2.grant) && decide (e.2.wlog * e.2.grant < (v.wlog + 1) * v.grant)))) = true :=
    all_of_unit fun e he hu => (hall e he hu).2.2.2.2
  simp only [resumeRelease, hx, hst, hpend, List.isEmpty_eq_false_iff.mpr (ne_nil_of_unit hex), hready, hagree, bne_self_eq_false,
    Bool.not_true, Bool.or_self, Bool.false_eq_true, if_false, modU, mmod_present hx]
  rfl

theorem codeRetire_eq {cid epoch fn queue : Nat} {pages : List Nat} {y : Context} (hy : mget s.contexts cid = some y)
    (hfind : y.retiring.find? (fun r => r.1 == epoch) = some (epoch, pages, fn, queue)) :
    codeRetire s cid epoch =
      if holdsEpoch s cid epoch then s
      else finishRequest (modX (pages.foldl (fun s p => unmapPage s cid y p) s) cid (fun c =>
        { c with retiring := c.retiring.filter (fun x => x.1 != epoch), retired := c.retired ++ pages })) fn queue 1 := by
  simp only [codeRetire, hy, hfind]

/-- Settles O49: units are saved and resumed; code swaps retire. -/
theorem unitsAreSavedAndResumed : Obligations.UnitsAreSavedAndResumed := by
  refine ⟨?_, fun s k w hw => startSave_eq hw, ?_, ?_, ?_, ?_, ?_, ?_, ?_⟩
  · intro s u x hx hst hmown hsampler hquiet hex hpoint hbinds
    have hexec : exec (.preemptionHandlerStart u) s = .next (nextFree (handlersStart s u)) := rfl
    rw [hexec, handlersStart_ready hx hst hmown hsampler hquiet hex hpoint hbinds]
  · intro triple xblk t hl _ r
    obtain ⟨h1, h2, h3, h4, h5, h6, h7, h8, h9, h10, -⟩ := rollBack_live triple xblk hl
    exact ⟨h1, h2, h3, h4, h5, h6, h7, h8, h9, h10, fun p i hi hp => cell_rollBack hl hi hp⟩
  · intro s k w p hw hp hcode hpre hld hst howes hexit a
    have hexec : exec (.waveLeavesCore k) s = .next (nextFree (waveLeaves s k)) := rfl
    refine ⟨by rw [hexec, waveLeaves_saved hw hp hcode hpre hld hst howes hexit], fun ⟨e, he, hne, hwait⟩ _ => ?_⟩
    exact unitLeaves_waits ⟨e, mem_mset_other he hne, hwait⟩
  · intro s u x hx hex hall
    exact unitLeaves_all hx hex hall
  · intro s u x l w hx hl hact hst hsaved hrefused horder gang hgang htry hseen a
    have hexec : exec (.unitResume u) s = .next (nextFree (unitResume s u)) := rfl
    rw [hexec, unitResume_placed hx hl hact hst hsaved hrefused horder hgang htry hseen]
  · intro s n u l x p hx
    exact settleResumed_eq hx
  · intro s u x hx hst hbinds hex hall a ks
    have hexec : exec (.resumeRelease u) s = .next (nextFree (resumeRelease s u)) := rfl
    rw [hexec, resumeRelease_ready hx hst hbinds hex hall]
  · intro s cid epoch fn queue pages y hy hfind
    have hexec : exec (.codeSwapRetire cid epoch) s = .next (nextFree (codeRetire s cid epoch)) := rfl
    rw [hexec, codeRetire_eq hy hfind]

end Sys2Proof.Proofs.Saved
end

section
/-! PROOFS. A word of the whole wave that its owner has refused, of no thread (14 R435). -/

set_option Elab.async false -- one proof at a time: the check bounds memory

namespace Sys2Proof.Proofs.RefusedWord

open Sys2Proof Sys2Proof.Machine Sys2Proof.Terms Sys2Proof.Laws Sys2Proof.Proofs

/-- The lane of a scalar load whose page another device owns. -/
def farLane : Lane := ⟨0, 0x400000, .remote 1 1 0x400000 0 0, []⟩

/-- The scalar load. -/
def farLoad : Access :=
  { id := 7, op := .load 0, lanes := [farLane], dest := none, addr := 0x1000000#64, word := 0x06000000, after := [], performed := false,
    user := true, folds := [], slot := none, packed := [0] }

/-- The word that waits for the owner, listed for no thread; the owner has refused its lane. -/
def refused : Held :=
  { addr := 0x1000000#64, accs := [farLoad], got := [(7, { farLane with place := .failed })], tids := [], dest := none, scal := none,
    kinds := 0, own := false, last := false }

/-- A wave of eight threads at user level that waits with the word. -/
def waiting : Wave :=
  { startWave 0 0 1 0 0 0 8 0 2 0 0#32 false false false (fun _ => 0#64) 0x1000000#64 with held := [refused] }

def device : State := { State.reset with waves := [(0, waiting)] }

/-- Whether wave 0 holds a siding. -/
def holdsSiding (s : State) : Option Bool := (mget s.waves 0).map (fun w => !w.sidings.isEmpty)

theorem addSiding_not_empty (f : Siding) (l : List Siding) : (addSiding f l).isEmpty = false := by
  unfold addSiding
  split
  · next h =>
    cases l with
    | nil => cases h
    | cons x l => rfl
  · simp

/-- A wave whose threads go into a siding holds one, also where the threads are none. -/
theorem holdsSiding_toSiding {s : State} {w : Wave} {kinds : Nat} {faults : List (Nat × Nat × Nat)} {tids : List Nat} :
    holdsSiding (toSiding (setW s 0 w) 0 kinds false faults tids) = some true := by
  simp only [holdsSiding, toSiding, formSiding, setW_waves, mget_mset_same, Bool.false_eq_true, if_false, Option.map_some,
    addSiding_not_empty, Bool.not_false]

/-- The word lands with no thread to put into a siding. -/
theorem holdsSiding_landHeld : holdsSiding (landHeld device 0 waiting refused) = some false := rfl

/-- Refutes O50: a word of the whole wave that its owner has refused goes, where it is listed for no thread, without a siding. -/
theorem not_translationsFaultsAndShardedAccesses : ¬Obligations.TranslationsFaultsAndShardedAccesses := by
  rintro ⟨-, -, -, -, -, -, hland⟩
  obtain ⟨-, haway, -⟩ := hland device 0 waiting refused rfl
  obtain ⟨w, hstated, -⟩ := haway (by decide) rfl
  have hsame := congrArg holdsSiding hstated
  rw [holdsSiding_landHeld, show refused.own = false from rfl, holdsSiding_toSiding] at hsame
  exact absurd hsame (by decide)

end Sys2Proof.Proofs.RefusedWord
end

section
/-! PROOFS: memory errors, scrub passes and the windows of predictive counters (14 R423, R424; 15 R447, R448, R453). -/

set_option Elab.async false -- one proof at a time: the check bounds memory

namespace Sys2Proof.Proofs.Errors

open Sys2Proof Sys2Proof.Machine Sys2Proof.Terms Sys2Proof.Laws Sys2Proof.Proofs

variable {s : State} {g cid core part : Nat}

/-! ## Evicted lines -/

/-- A granule of the device once it is held as poisoned. -/
def withPoison (s : State) (g : Nat) : State :=
  { s with poison := if g ∈ s.poison then s.poison else g :: s.poison, latent := s.latent.filter (· != g) }

theorem poisonGranule_own (hg : g < memSize / 32) : poisonGranule s g = withPoison s g := by
  have hnear : ¬farGranules ≤ g := by
    have : memSize / 32 = 2 ^ 34 := by decide
    have : 2 ^ 34 ≤ farGranules := by decide
    omega
  simp only [poisonGranule, withPoison, hnear, if_false, List.contains_iff_mem]

theorem lineEviction_dirty (hg : g < 2 ^ 40) (htag : mget s.tags (lineOf g) = some (cid, core)) :
    lineEviction s g = (g :: s.latent.filter (fun x => x != g && lineOf x == lineOf g)).foldl (evictedGranule cid core)
      { s with tags := mdel s.tags (lineOf g) } := by
  have hothers : (fun x => !([g] : List Nat).contains x && lineOf x == lineOf g) = fun x => x != g && lineOf x == lineOf g := by
    funext x
    rw [List.contains_cons, List.contains_nil, Bool.or_false]
    rfl
  simp only [lineEviction, Nat.not_le.mpr hg, if_false, htag, Option.isSome_some, if_true, evictLine, hothers,
    List.singleton_append]

theorem lineEviction_forced :
    lineEviction s (g + 2 ^ 40) = match mget s.tags (lineOf g) with
      | none => s
      | some (cid, core) => (s.latent.filter (fun x => lineOf x == lineOf g)).foldl (evictedGranule cid core)
        { s with tags := mdel s.tags (lineOf g) } := by
  rw [lineEviction, if_pos (Nat.le_add_left _ _), Nat.add_sub_cancel, evictLine]
  cases mget s.tags (lineOf g) <;> rfl

theorem lineEviction_clean (hg : g < 2 ^ 40) (htag : mget s.tags (lineOf g) = none) :
    lineEviction s g = { s with
      latent := if memSize / 32 ≤ g ∨ g ∈ s.poison ∨ g ∈ s.latent then s.latent else g :: s.latent } := by
  simp only [lineEviction, Nat.not_le.mpr hg, if_false, htag, Option.isSome_none, Bool.false_eq_true, Bool.or_eq_true,
    decide_eq_true_eq, List.contains_iff_mem, or_assoc]

theorem mget_mapEntries {α : Type} {m : FMap α} {k : Nat} {f : Nat × α → Nat × α} (hf : ∀ e, (f e).1 = e.1) :
    mget (m.map f) k = (mget m k).map (fun v => (f (k, v)).2) := by
  induction m with
  | nil => rfl
  | cons e m ih =>
    obtain ⟨a, v⟩ := e
    have ha : (f (a, v)).1 = a := hf _
    simp only [List.map_cons, mget, ha]
    split
    · next hk => rw [eq_of_beq hk, Option.map_some]
    · exact ih

theorem endTags_tag {line c : Nat} (htag : mget s.tags line = some (c, core)) :
    mget (endTags s cid part).tags line = some (if c = cid then cid + 2 ^ 16 * (part + 1) else c, core) := by
  have hkeys : ∀ e : Nat × Nat × Nat, (if e.2.1 == cid then (e.1, (cid + 2 ^ 16 * (part + 1), e.2.2)) else e).1 = e.1 :=
    fun e => by split <;> rfl
  refine (mget_mapEntries hkeys).trans ?_
  rw [htag, Option.map_some]
  by_cases hc : c = cid
  · rw [if_pos hc, if_pos (beq_iff_eq.mpr hc)]
  · rw [if_neg hc, if_neg (by simpa using hc)]

theorem evictedGranule_running (hg : g < memSize / 32) {c : Context} (hc : mget s.contexts cid = some c) (hend : c.ended = false) :
    ∃ addr ord wlog : Nat,
      evictedGranule cid core s g = ringEntry (withPoison s g) cid addr 0 (g * 32) cData 3 0 ord wlog core 0xFF := by
  have hc' : mget (withPoison s g).contexts cid = some c := hc
  rw [evictedGranule, poisonGranule_own hg, hc', Option.map_some, hend]
  exact ⟨_, _, _, rfl⟩

theorem evictedGranule_device (hg : g < memSize / 32) (hc : mget s.contexts cid = none) :
    ∃ cls unit, (cls = 3 ∨ cls = 7) ∧ evictedGranule cid core s g = devError (withPoison s g) cls unit (cid % 2 ^ 16)
      (if cid < 2 ^ 16 then partOf (withPoison s g) cid else cid / 2 ^ 16 - 1) (g * 32) := by
  have hc' : mget (withPoison s g).contexts cid = none := hc
  rw [evictedGranule, poisonGranule_own hg, hc']
  refine ⟨_, _, ?_, rfl⟩
  split
  · exact .inr rfl
  · exact .inl rfl

/-! ## Scrub passes and counters -/

section Scrub
variable {pile unit n : Nat}

theorem scrubFound_own (hg : g < memSize / 32) :
    scrubFound s g = devError (withPoison s g) 3 (freeUnit s) 0xFFFF 0xFF (g * 32) := by
  rw [scrubFound, if_pos hg, poisonGranule_own hg]

theorem unitId_pile {p : Nat} : unitId 5 (8 + p) 0 0 = 5 * 2 ^ 28 + (8 + p) * 2 ^ 24 := by
  rw [unitId]
  omega

theorem scrubPass_found :
    scrubPass s pile g unit 0 =
      if pile / 8 % 2 = 1 then endWindow (scrubFound s g) (unitId 5 (8 + pile % 8) 0 0) else scrubFound s g := by
  have hnone (b : Bool) : (b && 0 != 0) = false := by rw [bne_self_eq_false, Bool.and_false]
  simp only [scrubPass, hnone, Bool.false_eq_true, if_false, beq_iff_eq]

theorem scrubPass_counts (hg : memSize / 32 ≤ g) (hn : 0 < n) (hunit : unit < 2 ^ 32) (hpile : unit / 2 ^ 24 = 5 * 2 ^ 4 + 8 + pile % 8) :
    scrubPass s pile g unit n =
      let bank := unit / 2 ^ 16 * 2 ^ 16 + 0xFFFF
      let a := if unit = bank then countEvents s bank n else countEvents (countEvents s bank n) unit n
      if pile / 8 % 2 = 1 then endWindow a (unit / 2 ^ 24 * 2 ^ 24) else a := by
  have hwin : unitId 5 (8 + pile % 8) 0 0 = unit / 2 ^ 24 * 2 ^ 24 := by
    simp only [unitId]
    omega
  have hown : windowOf unit = unit / 2 ^ 24 * 2 ^ 24 := by
    rw [windowOf, if_pos (beq_iff_eq.mpr (by omega))]
  have hmeant : (windowOf unit == unit / 2 ^ 24 * 2 ^ 24 && decide (unit < 2 ^ 32) && n != 0) = true := by
    rw [hown, beq_self_eq_true, decide_eq_true hunit, bne_iff_ne.mpr (Nat.pos_iff_ne_zero.mp hn)]
    rfl
  simp only [scrubPass, scrubFound, Nat.not_lt.mpr hg, if_false, hwin, hmeant, if_true, beq_iff_eq]

theorem predictiveWindow_eq :
    predictiveWindow s unit n =
      let a := if unit / 2 ^ 28 = 6 ∨ n % 2 ^ 32 = 0 then s else countEvents s unit (n % 2 ^ 32)
      if 2 ^ 32 ≤ n then a else endWindow a unit := by
  simp only [predictiveWindow, Bool.or_eq_true, beq_iff_eq]

theorem countEvents_eq {key : Nat} :
    countEvents s key n =
      let old := zget 0 s.mgmt.counters key
      let c : Mgmt := { s.mgmt with counters := zset 0 s.mgmt.counters key (old + n) }
      if old < thresholdOf s.mgmt key ∧ thresholdOf s.mgmt key ≤ old + n then
        devError (event { s with mgmt := { c with crossings := zset 0 s.mgmt.crossings key (zget 0 s.mgmt.crossings key + 1) } } 0 5
          (key % 2 ^ 32) (key % 2 ^ 32)) 2 (key % 2 ^ 32) 0xFFFF 0xFF 0
      else { s with mgmt := c } := by
  have hthreshold (l : FMap Nat) : thresholdOf { s.mgmt with counters := l } key = thresholdOf s.mgmt key := rfl
  simp only [countEvents, hthreshold, Bool.and_eq_true, decide_eq_true_eq]

end Scrub

/-- Settles O51: lines that are evicted, scrub passes and predictive counters by an equation for each. -/
theorem memoryErrorsAndPredictiveCounters : Obligations.MemoryErrorsAndPredictiveCounters := by
  refine ⟨?_, ?_, ?_, ?_, ?_, ?_, ?_, ?_, ?_, ?_⟩
  · intro s g cid core hg htag
    have hexec : exec (.lineEvictionError g) s = .next (nextFree (lineEviction s g)) := rfl
    rw [hexec, lineEviction_dirty hg htag]
  · intro s g
    have hexec : exec (.lineEvictionError (g + 2 ^ 40)) s = .next (nextFree (lineEviction s (g + 2 ^ 40))) := rfl
    exact congrArg (fun a => Host.Outcome.next (nextFree a)) lineEviction_forced
  · intro s cid part line c core htag
    exact endTags_tag htag
  · intro s g cid part core hg hcid hnone
    obtain ⟨cls, unit, hcls, heq⟩ := evictedGranule_device (core := core) hg hnone
    rw [if_neg (by omega), show (cid + 2 ^ 16 * (part + 1)) % 2 ^ 16 = cid by omega,
      show (cid + 2 ^ 16 * (part + 1)) / 2 ^ 16 - 1 = part by omega] at heq
    exact ⟨cls, unit, hcls, heq⟩
  · intro s g cid core hg hcid
    refine ⟨fun x hx hend => evictedGranule_running hg hx hend, fun hnone => ?_⟩
    obtain ⟨cls, unit, hcls, heq⟩ := evictedGranule_device (core := core) hg hnone
    rw [if_pos hcid, Nat.mod_eq_of_lt hcid] at heq
    exact ⟨cls, unit, hcls, heq⟩
  · intro s g hg htag
    have hexec : exec (.lineEvictionError g) s = .next (nextFree (lineEviction s g)) := rfl
    rw [hexec, lineEviction_clean hg htag]
  · intro s pile g unit hg
    have hexec : exec (.scrubPass pile g unit 0) s = .next (nextFree (scrubPass s pile g unit 0)) := rfl
    refine ⟨freeUnit s, ?_⟩
    rw [hexec, scrubPass_found, scrubFound_own hg, unitId_pile]
    exact rfl
  · intro s pile g unit n hg hn hunit hpile
    have hexec : exec (.scrubPass pile g unit n) s = .next (nextFree (scrubPass s pile g unit n)) := rfl
    rw [hexec, scrubPass_counts hg hn hunit hpile]
  · intro s unit n hunit hkind
    have hmeant : (unit / 2 ^ 28 == 5 || decide (2 ^ 32 ≤ unit)) = false := by
      rw [beq_eq_false_iff_ne.mpr hkind, decide_eq_false (Nat.not_le.mpr hunit)]
      rfl
    have hexec : exec (.predictiveWindow unit n) s =
      .next (nextFree (if unit / 2 ^ 28 == 5 || decide (2 ^ 32 ≤ unit) then s else predictiveWindow s unit n)) := rfl
    rw [hexec, hmeant, predictiveWindow_eq]
    exact rfl
  · intro s key n
    exact countEvents_eq

end Sys2Proof.Proofs.Errors
end

section
/-! PROOFS: launches, and the creation, end and pre-emption of contexts (12 R365, R376, R380; 13 R388-R390). -/

set_option Elab.async false -- one proof at a time: the check bounds memory

namespace Sys2Proof.Proofs.ContextRequests

open Sys2Proof Sys2Proof.Machine Sys2Proof.Terms Sys2Proof.Laws Sys2Proof.Proofs Sys2Proof.Proofs.Answers

variable {s : State} {fn queue v opc m : Nat} {k : Kind} {i : Instr}

/-! ## Requests that are permitted, and requests under way (15 R440, R466) -/

/-- The function may submit the request. -/
def Permits (k : Kind) (s : State) (r : Req) (m : Nat) : Prop :=
  r.fn = 0 ∨ k.pf0 = false ∧ ∀ c ∈ k.names r m, mayName s r c = true

/-- A request that is well formed and permitted takes its effect. -/
theorem exec_asked (hform : requestForm i = some (fn, queue, k)) (hasks : Asks s fn queue v opc) (hwait : ¬waitsForTest s i)
    (hmine : k.mine (reqOf fn queue v) = true) (hknown : requestCodes.contains opc = true)
    (hload : k.load s (reqOf fn queue v) = .ok m) (hmay : Permits k s (reqOf fn queue v) m) :
    exec i s = .next (nextFree (settle s fn queue v (k.act s (reqOf fn queue v) m))) := by
  obtain ⟨⟨f, q, harr⟩, hcode, hplain⟩ := hasks
  rw [exec_arrived hform hwait harr, hmine, Bool.true_or, if_pos rfl,
    answerTo_granted hplain (by rw [hcode]; exact hknown) hload hmay]

theorem headReq_underWay (h : UnderWay s fn queue v opc) : ∃ q f, headReq s fn queue = some (q, f) ∧ q.cur = some v := by
  obtain ⟨⟨f, q, hf, hq, hans, hmin, hmax, hopen, hsome, hcur⟩, -⟩ := h
  refine ⟨q, f, ?_, hcur⟩
  simp only [headReq, hf, hq, hans, hopen, decide_eq_true hmin, decide_eq_true hmax, bne_iff_ne.mpr hsome, Bool.not_false,
    Bool.and_self, if_true]

/-- A request under way completes once it is over, and is left till then. -/
theorem goOnReq_underWay {done : State → Req → Bool} (h : UnderWay s fn queue v opc)
    (hmine : k.mine (reqOf fn queue v) = true) :
    goOnReq k done s fn queue = if done s (reqOf fn queue v) = true then finishRequest s fn queue 1 else s := by
  obtain ⟨q, f, hhead, hcur⟩ := headReq_underWay h
  simp only [goOnReq, hhead, hcur, hmine, Bool.true_and]

theorem mine_of_opc {r : Req} {n : Nat} (h : r.opc = n) : (r.opc == n) = true := beq_iff_eq.mpr h

theorem mayName_missing {r : Req} {cid : Nat} (h : mget s.contexts cid = none) : mayName s r cid = true := by
  simp only [mayName, h, Bool.or_true]

theorem readPay_read {r : Req} {a n align : Nat} {bs : List Byte} (halign : a % align = 0) (hn : n ≠ 0) (hreach : fnReach s r.fn a n = true)
    (hread : sysRead s a n = some bs) : readPay s r a n align = .ok (ofBytes bs) := by
  simp only [readPay, halign, bne_self_eq_false, beq_eq_false_iff_ne.mpr hn, hreach, hread, Bool.not_true, Bool.false_eq_true, if_false]

/-! ## Launches (13 R388-R390) -/

theorem launchPay_read {r : Req} {c : Context} {bs : List Byte} (hc : liveContext s r.cid = some c) (halign : r.pay % 128 = 0)
    (harg : r.arg = 0) (hread : sbRead s r.cid r.pay 128 = some bs) (hcompl : bitsAt (ofBytes bs) 448 64 % 32 = 0) :
    launchPay s r = .ok (ofBytes bs) := by
  have hplain : (r.pay % 128 != 0 || r.arg != 0) = false := by rw [halign, harg]; rfl
  simp only [launchPay, hplain, hc, Option.isNone_some, hread, Pay.check, hcompl, beq_self_eq_true, Bool.false_eq_true, if_false, if_true]

theorem settle_launch {r : Req} {c : Context} (hc : liveContext s r.cid = some c) :
    settle s fn queue v (launchAct s r m) =
      if launchError s (launchOf s r c.part m) = 0 then answered (acceptLaunch s (launchOf s r c.part m)) fn queue v 1
      else answered (writeCompletion s (launchOf s r c.part m) 2 (launchError s (launchOf s r c.part m)) 0 0#64) fn queue v 2 := by
  simp only [launchAct, hc, beq_iff_eq]
  split <;> rfl

theorem check_eq_zero {b : Bool} {n x : Nat} : (if !b then n + 1 else x) = 0 ↔ b = true ∧ x = 0 := by
  cases b <;> simp

theorem launchError_eq_zero {l : Launch} : launchError s l = 0 ↔ versionOk l.record = true ∧ extentsOk l = true ∧ tiersOk l = true ∧
    rangesOk l = true ∧ addressesOk l = true ∧ devicesOk l = true ∧ placeable s l = true ∧ prioOk s l = true := by
  simp only [launchError, check_eq_zero, and_true]

/-! ## Contexts (12 R365, R376, R380) -/

/-- A context is created in this state. -/
def withContext (s : State) (cid : Nat) (c : Context) : State :=
  { s with contexts := mset s.contexts cid c, cores := s.cores.map (fun e => (e.1, { e.2 with acts := mdel e.2.acts cid })) }

theorem settle_create {r : Req} {d : Nat} :
    settle s fn queue v (createAct s r d) =
      if bitsAt d 0 488 = 0 ∧ cidFree s (descrCid d) = true ∧ (mget s.parts (descrPart d)).isSome = true then
        answered (readConsists (loadGammas (writeEpoch (withContext s (descrCid d) (freshContext r d)) (freshContext r d)) (descrCid d))
          (descrCid d)) fn queue v 1
      else answered s fn queue v 2 := by
  by_cases h : bitsAt d 0 488 = 0 ∧ cidFree s (descrCid d) = true ∧ (mget s.parts (descrPart d)).isSome = true
  · obtain ⟨hplain, hfree, hpart⟩ := h
    have hgo : (bitsAt d 0 488 != 0 || !cidFree s (descrCid d) || (mget s.parts (descrPart d)).isNone) = false := by
      rw [hplain, hfree, ← Option.not_isSome, hpart]; rfl
    have hact : createAct s r d = .complete 1 (readConsists (loadGammas (writeEpoch
        (withContext s (descrCid d) (freshContext r d)) (freshContext r d)) (descrCid d)) (descrCid d)) :=
      if_neg (by rw [hgo]; exact Bool.false_ne_true)
    rw [hact, if_pos ⟨hplain, hfree, hpart⟩]
    rfl
  · have hgo : (bitsAt d 0 488 != 0 || !cidFree s (descrCid d) || (mget s.parts (descrPart d)).isNone) = true := by
      by_contra hnot
      refine h ?_
      simpa [not_or, Option.isSome_iff_ne_none, and_assoc] using hnot
    have hact : createAct s r d = .status 2 := if_pos hgo
    rw [hact, if_neg h]
    rfl

theorem settle_preempt {r : Req} :
    settle s fn queue v (preemptKind.act s r m) =
      if (liveContext s r.cid).isNone = true then answered s fn queue v 2
      else if preemptUnits s r (· == .resuming) ≠ [] then s
      else takeReq ((preemptUnits s r (· == .resident)).foldl requestUnit s) fn queue v := by
  simp only [preemptKind]
  split
  · rfl
  · by_cases h : preemptUnits s r (· == .resuming) = []
    · rw [h]
      rfl
    · rw [if_pos h, if_pos (by simpa using h)]
      rfl

/-- Settles O53: launches, and the creation, end and pre-emption of contexts, each by the effect of its kind. -/
theorem launchAndContextRequests : Obligations.LaunchAndContextRequests := by
  refine ⟨?_, fun _ _ => launchError_eq_zero, ?_, ?_, ?_⟩
  · intro s fn queue v c bs r hasks hmay hc halign harg hread hcompl l
    rw [exec_asked (k := launchKind) rfl hasks id (mine_of_opc hasks.code) (by decide) (launchPay_read hc halign harg hread hcompl)
      (.inr ⟨rfl, fun c hc => by rwa [List.mem_singleton.mp hc]⟩)]
    exact congrArg (fun a => Host.Outcome.next (nextFree a)) (settle_launch hc)
  · intro s fn queue v bs r d cid c hasks halign hreach hread hdescr hmay hmay' hpart
    have hload : createKind.load s r = .ok d := by
      show (readPay s r r.pay 128 128).check (fun v => descrOk (v / 2 ^ 488 * 2 ^ 488)) = .ok d
      rw [readPay_read halign (by decide) hreach hread]
      exact if_pos hdescr
    have hown : (r.fn != 0 && descrPart d != r.fn - 1) = false := by
      obtain h | h := hpart
      · rw [show r.fn = 0 from h]; rfl
      · rw [show descrPart d = r.fn - 1 from h, bne_self_eq_false, Bool.and_false]
    have hact : createKind.act s r d = createAct s r d := if_neg (by rw [hown]; exact Bool.false_ne_true)
    rw [exec_asked (k := createKind) rfl hasks id (mine_of_opc hasks.code) (by decide) hload (.inr ⟨rfl, fun c hc => by
      obtain h | h := List.mem_pair.mp hc
      · rwa [h]
      · rwa [h]⟩), hact, settle_create]
    rfl
  · intro s fn queue v r
    refine ⟨fun hasks hmay hsome => ?_, fun hasks hnone => ?_, fun hway => ?_⟩
    · rw [exec_asked (k := endKind) rfl hasks id (mine_of_opc hasks.code) (by decide) rfl (.inr ⟨rfl, fun c hc => by rwa [List.mem_singleton.mp hc]⟩)]
      have hact : endKind.act s r 0 = .later (endContext s r.cid none) :=
        if_neg (by rw [← Option.not_isSome, hsome]; exact Bool.false_ne_true)
      rw [hact]
      rfl
    · rw [exec_asked (k := endKind) rfl hasks id (mine_of_opc hasks.code) (by decide) rfl
        (.inr ⟨rfl, fun c hc => by rw [List.mem_singleton.mp hc]; exact mayName_missing hnone⟩)]
      have hact : endKind.act s r 0 = .status 2 := if_pos (by rw [hnone]; rfl)
      rw [hact]
      rfl
    · exact congrArg (fun a => Host.Outcome.next (nextFree a)) (goOnReq_underWay hway (mine_of_opc hway.code))
  · intro s fn queue v r
    refine ⟨fun hasks hbits hdie hmay => ?_, fun hway => ?_⟩
    · have hload : preemptKind.load s r = .ok 0 := if_pos (by rw [hbits, decide_eq_true hdie]; rfl)
      rw [exec_asked (k := preemptKind) rfl hasks id (mine_of_opc hasks.code) (by decide) hload
        (.inr ⟨rfl, fun c hc => by rwa [List.mem_singleton.mp hc]⟩), settle_preempt]
    · refine congrArg (fun a => Host.Outcome.next (nextFree a)) ((goOnReq_underWay hway (mine_of_opc hway.code)).trans ?_)
      simp only [preemptOver, List.isEmpty_iff]
      rfl

end Sys2Proof.Proofs.ContextRequests
end

section
/-! PROOFS: invalidations, fault records resolved, code swaps, decay tables, versioned ranges, shard sets and collective groups
(12 R366, R386; 14 R415, R420, R430-R433; 15 R445). -/

set_option Elab.async false -- one proof at a time: the check bounds memory

namespace Sys2Proof.Proofs.MemoryRequests

open Sys2Proof Sys2Proof.Machine Sys2Proof.Terms Sys2Proof.Laws Sys2Proof.Proofs Sys2Proof.Proofs.Barriers Sys2Proof.Proofs.ContextRequests

variable {s : State} {fn queue v m : Nat} {r : Req}

theorem check_ok {p : Pay} {f : Nat → Bool} (hp : p = .ok m) (hf : f m = true) : p.check f = .ok m := by
  rw [hp]
  exact if_pos hf

theorem permits_none {k : Kind} (hpf : k.pf0 = false) (h : ∀ r n, k.names r n = []) : Permits k s r m :=
  .inr ⟨hpf, fun _ hc => absurd (h r m ▸ hc) List.not_mem_nil⟩

theorem permits_one {k : Kind} {cid : Nat} (hpf : k.pf0 = false) (h : k.names r m = [cid]) (hmay : mayName s r cid = true) :
    Permits k s r m :=
  .inr ⟨hpf, fun _ hc => by
    rw [h, List.mem_singleton] at hc
    rwa [hc]⟩

/-! ## Fault records (14 R420) -/

/-- The bits of the pages in a list. -/
def pageMask (l : List Nat) : Nat := l.foldl (fun n a => n ||| 2 ^ (a / 32768 % 64)) 0

/-- The record with the pages of a resolve answered. -/
def resolvedRec (w : Nat) (x : Resolve) : Nat := orField (orField w 256 64 (pageMask x.cancel)) 256 64 (pageMask x.replay)

section Resolve
variable {p : Partition}

theorem resolve_unclaimed (hp : mget s.parts (reqPart s r) = some p)
    (h : p.seqNext ≤ r.arg ∨ recState (readRec s p r.arg) ≠ 2 ∨ bitsAt (readRec s p r.arg) 320 64 ≠ r.arg) :
    resolveAct s r m = .status 2 := by
  have hgo : (decide (p.seqNext ≤ r.arg) || recState (readRec s p r.arg) != 2 || bitsAt (readRec s p r.arg) 320 64 != r.arg) = true := by
    simpa only [Bool.or_eq_true, decide_eq_true_eq, bne_iff_ne, or_assoc] using h
  simp only [resolveAct, hp, hgo, if_true]

/-- A claimed record: its pages are answered, and it leaves the list where all of them are. -/
theorem resolve_claimed {ended : Bool} (hp : mget s.parts (reqPart s r) = some p) (hseq : r.arg < p.seqNext)
    (hstate : recState (readRec s p r.arg) = 2) (hown : bitsAt (readRec s p r.arg) 320 64 = r.arg)
    (hended : (bitsAt (resolvedRec (readRec s p r.arg) (resolveOf r.arg (readRec s p r.arg))) 256 64 ==
      bitsAt (resolvedRec (readRec s p r.arg) (resolveOf r.arg (readRec s p r.arg))) 448 64) = ended) :
    resolveAct s r m =
      let w := readRec s p r.arg
      let x := resolveOf r.arg w
      let b := writeRec (applyResolve s (bitsAt w 112 16) x) p r.arg
        (if ended then setField (resolvedRec w x) 0 8 3 else resolvedRec w x)
      .complete 1 (if ended then
        { b with parts := mmod b.parts (reqPart s r) (fun p => { p with recs := p.recs.filter (fun x => x.1 != r.arg) }) } else b) := by
  have hgo : (decide (p.seqNext ≤ r.arg) || recState (readRec s p r.arg) != 2 || bitsAt (readRec s p r.arg) 320 64 != r.arg) = false := by
    rw [decide_eq_false (Nat.not_le.mpr hseq), hstate, hown, bne_self_eq_false, bne_self_eq_false]
    rfl
  subst hended
  simp only [resolveAct, hp, hgo, Bool.false_eq_true, if_false]
  rfl

end Resolve

/-! ## Ranges (14 R430, R431) -/

/-- Groups of versioned ranges once a range has left its group (14 R431). -/
def groupsLeft (s : State) (vrn owner : Nat) : FMap Nat :=
  if ∃ e ∈ mdel s.ranges vrn, e.2.owner = owner ∧ e.2.leaving = false then s.groups else mdel s.groups owner

theorem rangeDestroy_eq {x : VRange} (hx : mget s.ranges (r.arg % 2 ^ 10) = some x) (hleave : x.leaving = false)
    (hmay : mayName s r x.owner = true) :
    rangeDestroyAct s r m =
      let vrn := r.arg % 2 ^ 10
      let a := dropTlb s (TlbEnt.inRange vrn)
      if rangePinned s x = true ∨ (∃ e ∈ commandsOf s x.owner, writesRange s vrn e.1 e.2 = true) then .status 3
      else if rangeInUse s vrn = true then
        .later { a with ranges := mset s.ranges vrn { x with dead := true, leaving := true }, groups := groupsLeft s vrn x.owner }
      else .complete 1 { a with ranges := mdel s.ranges vrn, groups := groupsLeft s vrn x.owner } := by
  have hown : (r.fn != 0 && !mayName s r x.owner) = false := by rw [hmay]; exact Bool.and_false _
  have hgroups : (if (mdel s.ranges (r.arg % 2 ^ 10)).any (fun e => e.2.owner == x.owner && !e.2.leaving) = true then s.groups
      else mdel s.groups x.owner) = groupsLeft s (r.arg % 2 ^ 10) x.owner := by
    simp only [groupsLeft, List.any_eq_true, Bool.and_eq_true, beq_iff_eq, Bool.not_eq_true']
  simp only [rangeDestroyAct, hx, hleave, hown, Bool.false_eq_true, if_false, ← hgroups, Bool.or_eq_true, List.any_eq_true]
  rfl

/-- Settles O54: each memory request by the effect of its kind. -/
theorem memoryRequests : Obligations.MemoryRequests := by
  refine ⟨?_, ?_, ?_, ?_, ?_, ?_, ?_, ?_, ?_⟩
  · intro s fn queue v p r cid done a i hasks hread hok hmay
    rw [exec_asked (k := invalKind) rfl hasks id (mine_of_opc hasks.code) (by decide) (check_ok hread hok) (permits_one rfl rfl hmay)]
    by_cases hreach : fnReach s fn done 8 = true
    · have hact : invalKind.act s r p = .later { a with invals := s.invals ++ [i], nextId := s.nextId + 1 } :=
        if_neg (by rw [show fnReach s r.fn (bitsAt p 128 64) 8 = true from hreach]; exact Bool.false_ne_true)
      rw [hact, if_pos hreach]
      rfl
    · have hact : invalKind.act s r p = .viol done := if_pos (by rw [Bool.not_eq_true']; exact Bool.eq_false_iff.mpr hreach)
      rw [hact, if_neg hreach]
      rfl
  · intro s fn queue v p r part w x a mask w' b hasks hmay hp
    have hexec := exec_asked (i := .faultResolve fn queue) (k := resolveKind) rfl hasks id (mine_of_opc hasks.code)
      (by decide) rfl (permits_one (m := 0) rfl rfl hmay)
    refine ⟨fun hbad => ?_, fun hseq hstate hown hopen => ?_, fun hseq hstate hown hend => ?_⟩
    · rw [hexec, show resolveKind.act s r 0 = .status 2 from resolve_unclaimed (m := 0) hp hbad]
      rfl
    · have hact : resolveKind.act s r 0 = .complete 1 (writeRec a p r.arg w') :=
        resolve_claimed (m := 0) hp hseq hstate hown (beq_eq_false_iff_ne.mpr hopen)
      rw [hexec, hact]
      rfl
    · have hact : resolveKind.act s r 0 = .complete 1
          { b with parts := mmod b.parts part (fun p => { p with recs := p.recs.filter (fun x => x.1 != r.arg) }) } :=
        resolve_claimed (m := 0) hp hseq hstate hown (beq_iff_eq.mpr hend)
      rw [hexec, hact]
      rfl
  · intro s fn queue v p c r c' hasks hread hwords hmay hc
    have hlist : (words64 r.arg p).all (fun a => a % 32768 == 0 && decide (a < 2 ^ 56)) = true :=
      List.all_eq_true.mpr fun a ha => by
        obtain ⟨halign, hlt⟩ := hwords a ha
        rw [halign, decide_eq_true hlt]
        rfl
    rw [exec_asked (k := swapKind) rfl hasks id (mine_of_opc hasks.code) (by decide) (check_ok hread hlist) (permits_one rfl rfl hmay)]
    have hact : swapKind.act s r p = if s.vis = [] then .later (writeEpoch { s with contexts := mset s.contexts r.cid c' } c') else .wait := by
      show swapAct s r p = _
      simp only [swapAct, hc]
      cases hvis : s.vis with
      | nil => rfl
      | cons y l => rfl
    rw [hact]
    by_cases hvis : s.vis = []
    · rw [if_pos hvis, if_pos hvis]
      rfl
    · rw [if_neg hvis, if_neg hvis]
      rfl
  · intro s fn queue v r hasks hmay
    rw [exec_asked (k := reloadKind) rfl hasks id (mine_of_opc hasks.code) (by decide) rfl (permits_one (m := 0) rfl rfl hmay)]
    have hact : reloadKind.act s r 0 = if (liveContext s r.cid).isNone then .status 2 else .complete 1 (loadGammas s r.cid) := rfl
    rw [hact]
    split <;> rfl
  · intro s fn queue v p r owner version x hasks hcreate hread hmay
    have hmine : rangeCreateKind.mine r = true := by
      show (r.opc == 0x09 && !tst r.arg 63) = true
      rw [hcreate, mine_of_opc hasks.code]
      rfl
    rw [exec_asked (k := rangeCreateKind) rfl hasks id hmine (by decide) hread (permits_one rfl rfl hmay)]
    have hact : rangeCreateKind.act s r p = if !rangeOk s r.arg p x then .status 2
        else .complete 1 { s with ranges := mset s.ranges r.arg x, groups := mset s.groups owner version } := rfl
    rw [hact]
    cases hok : rangeOk s r.arg p x <;> rfl
  · intro s fn queue v x r vrn a left groups hasks hdestroy hplain hx hleave hmay
    have hmine : rangeDestroyKind.mine r = true := by
      show (r.opc == 0x09 && tst r.arg 63) = true
      rw [hdestroy, mine_of_opc hasks.code]
      rfl
    have hload : rangeDestroyKind.load s r = .ok 0 := if_pos (beq_iff_eq.mpr hplain)
    rw [exec_asked (k := rangeDestroyKind) rfl hasks id hmine (by decide) hload (permits_none rfl fun _ _ => rfl),
      show rangeDestroyKind.act s r 0 = _ from rangeDestroy_eq (m := 0) hx hleave hmay]
    dsimp only
    split
    · rfl
    · split <;> rfl
  · intro s fn queue v r vrn hway hdestroy
    obtain ⟨q, f, hhead, hcur⟩ := headReq_underWay hway
    have hmine : rangeDestroyKind.mine (reqOf fn queue v) = true := by
      show ((reqOf fn queue v).opc == 0x09 && tst r.arg 63) = true
      rw [hdestroy, mine_of_opc hway.code]
      rfl
    have hstep : goOnDestroy rangeDestroyKind s fn queue =
        if rangeInUse s vrn = true then s else finishRequest { s with ranges := mdel s.ranges vrn } fn queue 1 := by
      simp only [goOnDestroy, hhead, Option.bind_some, hcur, hmine, Bool.true_and, destroyOver, Bool.not_eq_true', ← Bool.not_eq_true,
        ite_not]
      rfl
    exact congrArg (fun a => Host.Outcome.next (nextFree a)) hstep
  · intro s fn queue v p part r hasks harg hread hmay hpart
    have hload : shardKind.load s r = .ok p := (if_neg (by rw [decide_eq_true_eq]; exact Nat.not_le.mpr harg)).trans hread
    rw [exec_asked (k := shardKind) rfl hasks id (mine_of_opc hasks.code) (by decide) hload (permits_one rfl rfl hmay)]
    have hact : shardKind.act s r p = if (∃ m ∈ membersOf p, m.2 = s.trunk.devn) then .complete 1 { s with
        parts := mset s.parts (reqPart s r) { part with shards := mset part.shards r.arg (membersOf p) } } else .status 2 := by
      show shardAct s r p = _
      simp only [shardAct, hpart, Option.isNone_some, Bool.false_or, mmod_present hpart, Bool.not_eq_true', ← Bool.not_eq_true, ite_not,
        List.any_eq_true, beq_iff_eq]
    rw [hact]
    split <;> rfl
  · intro s fn queue v p part r hasks harg hread hmay hpart
    have hload : groupKind.load s r = .ok p := (if_neg (by rw [decide_eq_true_eq]; exact Nat.not_le.mpr harg)).trans hread
    rw [exec_asked (k := groupKind) rfl hasks id (mine_of_opc hasks.code) (by decide) hload (permits_one rfl rfl hmay)]
    have hact : groupKind.act s r p = if (membersOf p).eraseDups.length = (membersOf p).length then .complete 1 { s with
        parts := mset s.parts (reqPart s r) { part with colls := mset part.colls r.arg (membersOf p) } } else .status 2 := by
      show groupAct s r p = _
      simp only [groupAct, hpart, Option.isNone_some, Bool.false_or, mmod_present hpart, decide_eq_true_eq, ne_eq, ite_not]
    rw [hact]
    split <;> rfl

end Sys2Proof.Proofs.MemoryRequests
end

section
/-! PROOFS: requests about the device: partitions, self-test, Trunk, attestation, power, the error record and predictive thresholds
(14 R425, R428; 15 R446, R449, R452, R453, R457-R459, R463). -/

set_option Elab.async false -- one proof at a time: the check bounds memory

namespace Sys2Proof.Proofs.DeviceRequests

open Sys2Proof Sys2Proof.Machine Sys2Proof.Terms Sys2Proof.Laws Sys2Proof.Proofs Sys2Proof.Proofs.Barriers Sys2Proof.Proofs.ContextRequests
open Sys2Proof.Proofs.MemoryRequests Sys2Proof.Proofs.Answers

variable {s : State} {fn queue v m u : Nat} {r : Req}

/-! ## Lines that a slice drops (15 R449) -/

theorem writeHome_tags (a : Nat) (bs : List Byte) : (writeHome s a bs).tags = s.tags := rfl

theorem sysWrite_tags (a : Nat) (bs : List Byte) : (sysWrite s a bs).tags = s.tags := by
  unfold sysWrite
  split <;> rfl

theorem event_tags (fn kind unit info : Nat) : (event s fn kind unit info).tags = s.tags := by
  unfold event
  generalize numBytes 16 = put
  split
  · rfl
  · extract_lets src seq f' n drop
    clear_value src seq f' n
    split
    · rfl
    · rw [sysWrite_tags]

theorem devError_tags (cls unit cid part paddr : Nat) : (devError s cls unit cid part paddr).tags = s.tags := by
  obtain ⟨on, t, t', hdev, ht, ht'⟩ : ∃ (on : Bool) (t t' : State),
      devError s cls unit cid part paddr = event (if on then t else t') 0 4 unit s.mgmt.ecount ∧ t.tags = s.tags ∧ t'.tags = s.tags :=
    ⟨_, _, _, rfl, (writeHome_tags _ _).trans (writeHome_tags _ _), rfl⟩
  rw [hdev, event_tags]
  split
  · exact ht
  · exact ht'

theorem sbPut_tags (pl : SbPlace) (bs : List Byte) : (sbPut s pl bs).tags = s.tags := by
  cases pl with
  | dev pas =>
    rw [sbPut]
    induction pas generalizing s with
    | nil => rfl
    | cons pa pas ih => rw [List.foldl_cons, ih, writeHome_tags]
  | _ => rfl

theorem ringWrite_tags (cid va : Nat) (bs : List Byte) : (ringWrite s cid va bs).tags = s.tags := by
  unfold ringWrite
  split
  · exact devError_tags ..
  · exact event_tags ..
  · exact sbPut_tags ..

theorem ringEntry_tags (cid addr info0 info1 cause sub eng ord wlog core slot : Nat) :
    (ringEntry s cid addr info0 info1 cause sub eng ord wlog core slot).tags = s.tags := by
  unfold ringEntry
  split
  · rfl
  · dsimp only
    rw [ringWrite_tags, ringWrite_tags]
    rfl

theorem evictedGranule_tags (cid core g : Nat) : (evictedGranule cid core s g).tags = s.tags := by
  have hpoison : (poisonGranule s g).tags = s.tags := by
    unfold poisonGranule
    split <;> rfl
  unfold evictedGranule
  dsimp only
  split
  · rw [devError_tags, hpoison]
  · rw [ringEntry_tags, hpoison]

theorem foldl_evictedGranule_tags (cid core : Nat) (l : List Nat) : (l.foldl (evictedGranule cid core) s).tags = s.tags := by
  induction l generalizing s with
  | nil => rfl
  | cons g l ih => rw [List.foldl_cons, ih, evictedGranule_tags]

theorem evictLine_tag (bad : List Nat) (line j : Nat) : mget (evictLine s bad line).tags j = if j = line then none else mget s.tags j := by
  unfold evictLine
  split
  · next hnone =>
    split
    · next hj => rw [hj, hnone]
    · rfl
  · rw [foldl_evictedGranule_tags]
    exact mget_mdel _ _ _

theorem foldl_evictLine_tag (l : List Nat) (j : Nat) :
    mget (l.foldl (fun s l => evictLine s [] l) s).tags j = if j ∈ l then none else mget s.tags j := by
  induction l generalizing s with
  | nil => simp
  | cons line l ih =>
    rw [List.foldl_cons, ih, evictLine_tag]
    by_cases hl : j ∈ l
    · rw [if_pos hl, if_pos (List.mem_cons_of_mem _ hl)]
    · by_cases hj : j = line
      · rw [if_neg hl, if_pos hj, if_pos (hj ▸ List.mem_cons_self)]
      · rw [if_neg hl, if_neg hj, if_neg (by simp [hl, hj])]

theorem mget_of_not_key {α : Type} {l : FMap α} {j : Nat} (h : j ∉ l.map (·.1)) : mget l j = none := by
  induction l with
  | nil => rfl
  | cons e l ih =>
    obtain ⟨hne, hl⟩ := not_or.mp (List.mem_cons.not.mp h)
    exact (if_neg (by simpa using hne)).trans (ih hl)

theorem dropSlice_tag (line : Nat) :
    mget (dropSlice s u).tags line = if u ∉ s.mgmt.fenced ∧ Config.sliceOf s.mgmt.fenced line = u then none else mget s.tags line := by
  have hserved : servedBy s u line = true ↔ u ∉ s.mgmt.fenced ∧ Config.sliceOf s.mgmt.fenced line = u := by
    simp [servedBy]
  rw [dropSlice, foldl_evictLine_tag]
  simp only [List.mem_filter, hserved]
  by_cases hown : u ∉ s.mgmt.fenced ∧ Config.sliceOf s.mgmt.fenced line = u
  · by_cases hkey : line ∈ s.tags.map (·.1)
    · rw [if_pos ⟨hkey, hown⟩, if_pos hown]
    · rw [if_neg (fun h => hkey h.1), if_pos hown, mget_of_not_key hkey]
  · rw [if_neg (fun h => hown h.2), if_neg hown]

theorem testUnit_slice (hkind : u / 2 ^ 28 = 3) : testUnit s u true = dropSlice s u := by
  have hcore : coreOfUnit u = none := by
    rw [coreOfUnit, hkind]
    rfl
  simp only [testUnit, hcore, hkind, beq_self_eq_true, if_true]

/-! ## Self-tests (15 R449) -/

/-- A wave or a placed unit is on the core. -/
theorem coreHeld_iff {c : Nat} : (s.waves.any (fun e => e.2.core == c) || s.units.any (fun e => e.2.placed && e.2.core == c)) = true ↔
    (∃ e ∈ s.waves, e.2.core = c) ∨ (∃ e ∈ s.units, e.2.placed = true ∧ e.2.core = c) := by
  simp only [Bool.or_eq_true, List.any_eq_true, beq_iff_eq, Bool.and_eq_true]

/-- A unit of the test is on a core that is held. -/
def TestHeld (s : State) (t : SelfTest) : Prop :=
  ∃ u ∈ t.units, ∃ c, coreOfUnit u = some c ∧ ((∃ e ∈ s.waves, e.2.core = c) ∨ (∃ e ∈ s.units, e.2.placed = true ∧ e.2.core = c))

/-- The test waits for a core of this unit. -/
def unitHeld (s : State) (u : Nat) : Bool :=
  match coreOfUnit u with
  | none => false
  | some c => s.waves.any (fun e => e.2.core == c) || s.units.any (fun e => e.2.placed && e.2.core == c)

theorem testHeld_iff {t : SelfTest} : t.units.any (unitHeld s) = true ↔ TestHeld s t := by
  have hone (u : Nat) : unitHeld s u = true ↔ ∃ c, coreOfUnit u = some c ∧
      ((∃ e ∈ s.waves, e.2.core = c) ∨ (∃ e ∈ s.units, e.2.placed = true ∧ e.2.core = c)) := by
    unfold unitHeld
    cases coreOfUnit u with
    | none => simp
    | some c => simp only [coreHeld_iff, Option.some.injEq, exists_eq_left']
  simp only [List.any_eq_true, hone, TestHeld]

/-- What the event of a test says: the unit where it was one. -/
def testInfo (s : State) (t : SelfTest) : Nat :=
  match t.units with
  | [u] => u
  | _ => (freeVal s 9750).toNat

/-- The units of a test once they are tested. -/
def tested (s : State) (t : SelfTest) (pass : Nat) : State :=
  (enumFrom 0 t.units).foldl (fun s e => testUnit s e.2 (tst pass e.1)) { s with selfTest := none }

theorem selfTestDone_eq {t : SelfTest} {pass : Nat} (ht : s.selfTest = some t) :
    selfTestDone s pass =
      if t.units.any (unitHeld s) then s
      else
        event (finishRequest (tested s t pass) t.fn t.queue 1) t.fn 6 uSignalbox
          (testInfo (finishRequest (tested s t pass) t.fn t.queue 1) t) := by
  simp only [selfTestDone, ht]
  rfl

/-! ## Trunk (15 R446) -/

/-- A unit of a launch over more devices is placed. -/
theorem trunkBusy_iff {e : LUnit} :
    (e.placed && ((mget s.launches e.launch).map (fun l => decide (2 ≤ l.ndev))).getD false) = true ↔
      ¬(e.placed = true → ∀ l, mget s.launches e.launch = some l → l.ndev < 2) := by
  cases mget s.launches e.launch with
  | none => simp
  | some l =>
    simp
    intro _
    rfl

/-! ## Attestation (15 R457-R459) -/

/-- A report with its signature. -/
def attestReport (s : State) (fn d : Nat) : List Byte :=
  reportBody s fn d ++ (Config.xmssSign (nextIndex s.mgmt) (reportBody s fn d)).toList

theorem attestAct_eq {d : Nat} :
    attestAct s r d =
      if s.mgmt.indices = 0 then .status 2
      else if fnReach s r.fn r.arg (attestReport s r.fn d).length = true then
        .complete 1 (sysWrite { s with mgmt := { s.mgmt with indices := s.mgmt.indices - 1 } } r.arg (attestReport s r.fn d))
      else .viol r.arg := by
  have hact : attestAct s r d = if s.mgmt.indices == 0 then .status 2
      else if !fnReach s r.fn r.arg (attestReport s r.fn d).length then .viol r.arg
      else .complete 1 (sysWrite { s with mgmt := { s.mgmt with indices := s.mgmt.indices - 1 } } r.arg (attestReport s r.fn d)) := rfl
  rw [hact]
  simp only [beq_iff_eq, Bool.not_eq_true', ← Bool.not_eq_true, ite_not]

/-! ## Power and the error record (15 R452, R463) -/

theorem powerLimit_load (h : 600 ≤ r.arg ∧ r.arg ≤ 2400 ∧ r.arg % 25 = 0) : powerKind.load s r = .ok 0 := by
  obtain ⟨hmin, hmax, hstep⟩ := h
  exact if_pos (by rw [decide_eq_true hmin, decide_eq_true hmax, hstep]; rfl)

theorem powerLimit_bad (h : ¬(600 ≤ r.arg ∧ r.arg ≤ 2400 ∧ r.arg % 25 = 0)) : powerKind.load s r = .bad :=
  if_neg fun hgo => h (by simpa only [Bool.and_eq_true, decide_eq_true_eq, beq_iff_eq, and_assoc] using hgo)

theorem answerTo_bad {k : Kind} (h : k.load s r = .bad) : answerTo k s r = .status 5 := by
  simp only [answerTo, h, ite_self]

/-- Settles O55: each request about the device by the effect of its kind. -/
theorem deviceRequests : Obligations.DeviceRequests := by
  refine ⟨?_, ?_, ?_, ?_, ?_, ?_, ?_, ?_, ?_, ?_⟩
  · intro s queue v d r old p a hasks harg hread hfields
    have hload : partitionKind.load s r = .ok d :=
      (if_neg (by rw [decide_eq_true_eq]; exact Nat.not_le.mpr harg)).trans (check_ok hread hfields)
    rw [exec_asked (k := partitionKind) rfl hasks id (mine_of_opc hasks.code) (by decide) hload (.inl rfl)]
    have hgo : (!partApart s r.arg p || (movedCores p old).any
        (fun c => s.waves.any (fun e => e.2.core == c) || s.units.any (fun e => e.2.placed && e.2.core == c))) = true ↔
        ¬(partApart s r.arg p = true ∧ ∀ c ∈ movedCores p old,
          (∀ e ∈ s.waves, e.2.core ≠ c) ∧ (∀ e ∈ s.units, e.2.placed = true → e.2.core ≠ c)) := by
      simp only [Bool.or_eq_true, Bool.not_eq_true', List.any_eq_true, beq_iff_eq, Bool.and_eq_true, not_and_or, not_forall,
        Bool.not_eq_true, ne_eq, not_not, exists_prop]
    have hact : partitionKind.act s r d = if partApart s r.arg p = true ∧ ∀ c ∈ movedCores p old,
          (∀ e ∈ s.waves, e.2.core ≠ c) ∧ (∀ e ∈ s.units, e.2.placed = true → e.2.core ≠ c) then
        .complete 1 { a with parts := mset a.parts r.arg p } else .status 2 := by
      by_cases h : partApart s r.arg p = true ∧ ∀ c ∈ movedCores p old,
          (∀ e ∈ s.waves, e.2.core ≠ c) ∧ (∀ e ∈ s.units, e.2.placed = true → e.2.core ≠ c)
      · exact (if_neg (fun hbad => hgo.mp hbad h)).trans (if_pos h).symm
      · exact (if_pos (hgo.mpr h)).trans (if_neg h).symm
    rw [hact]
    split <;> rfl
  · intro s queue v n d r hasks hnone hcount hmin hmax hread htestable
    have hload : selfTestKind.load s r = .ok d := by
      have hfirst : (readPay s r r.arg 4 1).check (fun n => decide (1 ≤ n) && decide (n ≤ 64)) = .ok n :=
        check_ok hcount (by rw [decide_eq_true hmin, decide_eq_true hmax]; rfl)
      simp only [selfTestKind, hfirst]
      exact check_ok hread (List.all_eq_true.mpr htestable)
    have hwait : ¬waitsForTest s (.selfTest 0 queue) := fun h => by
      rw [show waitsForTest s (.selfTest 0 queue) = (s.selfTest.isSome = true) from rfl, hnone] at h
      cases h
    rw [exec_asked (k := selfTestKind) rfl hasks hwait (mine_of_opc hasks.code) (by decide) hload (.inl rfl)]
    rfl
  · intro s pass t ht held
    have hexec : exec (.selfTestDone pass) s = .next (nextFree (selfTestDone s pass)) := rfl
    refine ⟨fun h => ?_, fun h => ⟨testInfo (finishRequest (tested s t pass) t.fn t.queue 1) t, fun u hu => ?_, ?_⟩⟩
    · rw [hexec, selfTestDone_eq ht, if_pos (testHeld_iff.mpr h)]
    · rw [testInfo, hu]
    · rw [hexec, selfTestDone_eq ht, if_neg (fun hany => h (testHeld_iff.mp hany))]
      rfl
  · intro s pass hnone
    have hexec : exec (.selfTestDone pass) s = .next (nextFree (selfTestDone s pass)) := rfl
    rw [hexec, selfTestDone, hnone]
  · intro s u hkind a
    exact ⟨fun line => by rw [show a = dropSlice s u from testUnit_slice hkind, dropSlice_tag], rfl⟩
  · intro s queue v h d r hasks hhead hroutes hread hlinks
    have hload : trunkKind.load s r = .ok d := by
      have hfirst : (readPay s r r.pay 16 1).check (fun v => bitsAt v 16 12 != 0) = .ok h := check_ok hhead (bne_iff_ne.mpr hroutes)
      simp only [trunkKind, hfirst]
      exact check_ok hread (List.all_eq_true.mpr fun e he => bne_iff_ne.mpr (hlinks e he))
    rw [exec_asked (k := trunkKind) rfl hasks id (mine_of_opc hasks.code) (by decide) hload (.inl rfl)]
    have hbusy : (s.units.any (fun e => e.2.placed && ((mget s.launches e.2.launch).map (fun l => decide (2 ≤ l.ndev))).getD false) ||
        !routesOk d) = true ↔ ¬(routesOk d = true ∧
          ∀ e ∈ s.units, e.2.placed = true → ∀ l, mget s.launches e.2.launch = some l → l.ndev < 2) := by
      simp only [Bool.or_eq_true, Bool.not_eq_true', List.any_eq_true, trunkBusy_iff, not_and_or, Bool.not_eq_true, not_forall,
        exists_prop, or_comm]
    have hact : trunkKind.act s r d = if routesOk d = true ∧
          ∀ e ∈ s.units, e.2.placed = true → ∀ l, mget s.launches e.2.launch = some l → l.ndev < 2 then
        .complete 1 { s with
          trunk := { s.trunk with devn := bitsAt d 0 16, links := bitsAt d 28 18, routes := routesOf d, down := [] } } else .status 2 := by
      by_cases hfree : routesOk d = true ∧ ∀ e ∈ s.units, e.2.placed = true → ∀ l, mget s.launches e.2.launch = some l → l.ndev < 2
      · exact (if_neg (fun hbad => hbusy.mp hbad hfree)).trans (if_pos hfree).symm
      · exact (if_pos (hbusy.mpr hfree)).trans (if_neg hfree).symm
    rw [hact]
    split <;> rfl
  · intro s fn queue v d r body report hasks hread
    have hexec := exec_asked (i := .attest fn queue) (k := attestKind) rfl hasks id (mine_of_opc hasks.code) (by decide) hread
      (permits_none rfl fun _ _ => rfl)
    refine ⟨fun hbefore => ?_, fun hturn => ?_⟩
    · rw [hexec, show attestKind.act s r d = .wait from if_pos hbefore]
      rfl
    · have hact : attestKind.act s r d = attestAct s r d := if_neg (by rw [hturn]; exact Bool.false_ne_true)
      rw [hexec, hact, attestAct_eq]
      by_cases hindex : s.mgmt.indices = 0
      · rw [if_pos hindex, if_pos hindex]
        rfl
      · rw [if_neg hindex, if_neg hindex]
        by_cases hreach : fnReach s fn r.arg report.length = true
        · exact congrArg (fun a => Host.Outcome.next (nextFree a)) ((congrArg (settle s fn queue v) (if_pos hreach)).trans (if_pos hreach).symm)
        · exact congrArg (fun a => Host.Outcome.next (nextFree a)) ((congrArg (settle s fn queue v) (if_neg hreach)).trans (if_neg hreach).symm)
  · intro s queue v r hasks
    by_cases h : 600 ≤ r.arg ∧ r.arg ≤ 2400 ∧ r.arg % 25 = 0
    · rw [exec_asked (k := powerKind) rfl hasks id (mine_of_opc hasks.code) (by decide) (powerLimit_load h) (.inl rfl), if_pos h]
      rfl
    · obtain ⟨⟨f, q, harr⟩, hcode, hplain⟩ := hasks
      rw [exec_arrived (k := powerKind) rfl id harr, show powerKind.mine (reqOf 0 queue v) = true from mine_of_opc hcode, Bool.true_or,
        if_pos rfl, answerTo_bad (powerLimit_bad h), if_neg h]
      rfl
  · intro s queue v d r a hasks hread
    rw [exec_asked (k := errorRecordKind) rfl hasks id (mine_of_opc hasks.code) (by decide) hread (.inl rfl)]
    have hact : errorRecordKind.act s r d = if errorRecordOk s d then .complete 1 (setErrorRecord s d) else .status 2 := rfl
    have hset : setErrorRecord s d = if bitsAt d 0 8 = 0 then a else writeHome a (bitsAt d 64 64) (bytesOf 8 0) := by
      simp only [setErrorRecord, beq_iff_eq]
      rfl
    rw [hact, hset]
    split <;> rfl
  · intro s queue v d r hasks hread
    rw [exec_asked (k := thresholdsKind) rfl hasks id (mine_of_opc hasks.code) (by decide) hread (.inl rfl)]
    have hact : thresholdsKind.act s r d =
        if bitsAt d 64 64 = 0 ∧ 1 ≤ bitsAt d 8 8 ∧ 1 ≤ bitsAt d 0 8 ∧ bitsAt d 0 8 ≤ 16 then
          .complete 1 { s with mgmt := { s.mgmt with thresholds := (thresholdsOf d, []) :: s.mgmt.thresholds } } else .status 2 := by
      simp only [thresholdsKind, Bool.and_eq_true, beq_iff_eq, decide_eq_true_eq, and_assoc]
    rw [hact]
    split <;> rfl

end Sys2Proof.Proofs.DeviceRequests
end

section
/-! PROOFS: doorbells and register writes (15 R437, R440, R441, R461). -/

set_option Elab.async false -- one proof at a time: the check bounds memory

namespace Sys2Proof.Proofs.Registers

open Sys2Proof Sys2Proof.Machine Sys2Proof.Terms Sys2Proof.Laws Sys2Proof.Proofs Sys2Proof.Proofs.Barriers

variable {s : State} {fn queue value reg : Nat} {f : Func} {q : Queue}

/-- A function's queue is put. -/
def withQueue (s : State) (fn queue : Nat) (f : Func) (q : Queue) : State :=
  { s with funcs := mset s.funcs fn { f with queues := lset f.queues queue q } }

theorem putHostQueue_eq (hf : mget s.funcs fn = some f) : putHostQueue s fn queue q = withQueue s fn queue f q := by
  rw [putHostQueue, mmod_present hf, withQueue]

/-! ## Doorbells (15 R440) -/

section Doorbell
variable {t : Nat} (hf : mget s.funcs fn = some f) (hq : f.queues[queue]? = some q)
include hf hq

theorem doorbell_silent {relaxed : Bool} (hans : fnAnswers s f = false) : doorbell s fn queue value relaxed = s := by
  simp only [doorbell, hf, hq, hans, Bool.not_false, if_true]

theorem doorbell_relaxed (hans : fnAnswers s f = true) :
    doorbell s fn queue value true = devError s 6 (uHost fn) 0xFFFF (if fn = 0 then 0xFF else fn - 1) 0 := by
  simp only [doorbell, hf, hq, hans, Bool.not_true, Bool.false_eq_true, if_false, if_true, beq_iff_eq]

theorem doorbell_bad (hans : fnAnswers s f = true) (hbad : badTail q (value % 2 ^ 32) = true) :
    doorbell s fn queue value false = withQueue s fn queue f { q with qerr := true } := by
  simp only [doorbell, hf, hq, hans, hbad, Bool.not_true, Bool.false_eq_true, if_false, if_true, putHostQueue_eq hf]

theorem doorbell_moves (hans : fnAnswers s f = true) (hgood : badTail q (value % 2 ^ 32) = false) :
    doorbell s fn queue value false =
      { withQueue s fn queue f { q with
          tail := value % 2 ^ 32
          came := q.came ++ List.replicate (ringDist (2 ^ q.qlog) q.tail (value % 2 ^ 32)) s.nextId } with nextId := s.nextId + 1 } := by
  have hf' : mget ({ s with nextId := s.nextId + 1 } : State).funcs fn = some f := hf
  simp only [doorbell, hf, hq, hans, hgood, Bool.not_true, Bool.false_eq_true, if_false, putHostQueue_eq hf']
  rfl

end Doorbell

theorem badTail_true {t : Nat} (h : 2 ^ q.qlog ≤ t ∨ (q.head ≠ q.tail ∧ ringDist (2 ^ q.qlog) q.tail q.head < ringDist (2 ^ q.qlog) q.tail t)) :
    badTail q t = true := by
  simpa only [badTail, Bool.or_eq_true, decide_eq_true_eq, Bool.and_eq_true, bne_iff_ne] using h

theorem badTail_false {t : Nat} (hin : t < 2 ^ q.qlog)
    (h : q.head = q.tail ∨ ringDist (2 ^ q.qlog) q.tail t ≤ ringDist (2 ^ q.qlog) q.tail q.head) : badTail q t = false := by
  rw [badTail, decide_eq_false (Nat.not_le.mpr hin), Bool.false_or]
  obtain h | h := h
  · rw [h, bne_self_eq_false, Bool.false_and]
  · rw [decide_eq_false (Nat.not_lt.mpr h), Bool.and_false]

/-! ## Register writes (15 R437, R441) -/

section Bar
variable (hf : mget s.funcs fn = some f)
include hf

theorem barWrite_silent (hq : f.queues[reg / 32]? = some q) (hans : fnAnswers s f = false) : barWrite s fn reg value = s := by
  simp only [barWrite, hf, hq, hans, Bool.not_false, if_true]

theorem barWrite_qbase (hq : f.queues[queue]? = some q) (hans : fnAnswers s f = true) :
    barWrite s fn (32 * queue + 24) value =
      if q.qlog ≠ 0 ∧ q.head ≠ q.tail then s else withQueue s fn queue f { q with qbase := value % 2 ^ 64 } := by
  have hqueue : (32 * queue + 24) / 32 = queue := by omega
  have hfield : (32 * queue + 24) % 32 = 24 := by omega
  simp only [barWrite, hf, hqueue, hq, hans, hfield, Bool.not_true, Bool.false_eq_true, if_false, beq_self_eq_true, if_true,
    putHostQueue_eq hf, queueBusy, Bool.and_eq_true, bne_iff_ne]

theorem barWrite_evbase (hq : f.queues[0]? = some q) (hans : fnAnswers s f = true) :
    barWrite s fn 16 value = { s with funcs := mset s.funcs fn (setRing f (value % 2 ^ 64) f.evlog) } := by
  have hqueue : f.queues[16 / 32]? = some q := hq
  simp only [barWrite, hf, hqueue, hans, Bool.not_true, Bool.false_eq_true, if_false]
  rfl

/-- A queue whose QLOG and QERR are written. -/
def withQlog (q : Queue) (value : Nat) : Queue :=
  { q with
    qlog := if q.qlog ≠ 0 ∧ q.head ≠ q.tail then q.qlog else bitsAt (value % 2 ^ 64) 56 8, qerr := q.qerr && !tst (value % 2 ^ 64) 0 }

omit hf in
theorem withQlog_eq (q : Queue) (value : Nat) :
    (let q := if queueBusy q then q else { q with qlog := bitsAt (value % 2 ^ 64) 56 8 }
     ({ q with qerr := q.qerr && !tst (value % 2 ^ 64) 0 } : Queue)) = withQlog q value := by
  simp only [withQlog, queueBusy, Bool.and_eq_true, bne_iff_ne]
  split <;> rfl

theorem barWrite_qlog (hq : f.queues[queue]? = some q) (hans : fnAnswers s f = true) :
    barWrite s fn (32 * queue) value =
      if queue = 0 then
        { s with funcs := mset s.funcs fn (setRing { f with queues := lset f.queues 0 (withQlog q value) } f.evbase
          (bitsAt (value % 2 ^ 64) 48 8)) }
      else withQueue s fn queue f (withQlog q value) := by
  have hqueue : 32 * queue / 32 = queue := by omega
  have hfield : 32 * queue % 32 = 0 := by omega
  have hfirst : (32 * queue == 0) = decide (queue = 0) :=
    Bool.eq_iff_iff.mpr (by rw [beq_iff_eq, decide_eq_true_eq]; omega)
  have hput := withQlog_eq q value
  simp only [barWrite, hf, hqueue, hq, hans, hfield, hfirst, Bool.not_true, Bool.false_eq_true, if_false, beq_self_eq_true, if_true,
    show (0 == 24) = false from rfl, show (0 == 16) = false from rfl, decide_eq_true_eq, putHostQueue_eq hf, hput]
  split
  · next h =>
    rw [h, withQueue, mmod_present (mget_mset_same _ _ _), mset_mset]
  · rfl

end Bar

theorem tst_wrapped : tst (value % 2 ^ 64) 0 = tst value 0 := by
  have hbit : value % 2 ^ 64 / 2 ^ 0 % 2 = value / 2 ^ 0 % 2 := by omega
  rw [tst, tst, hbit]

/-! ## The management port (15 R461) -/

theorem portWrite_index (hreg : reg < 2 ^ 8) (h : (reg ≠ 0x10 ∧ reg ≠ 0x20) ∨ 2 ^ 64 ≤ value) :
    portWrite s reg value = { s with mgmt := { s.mgmt with sel := reg } } := by
  rw [portWrite, Mgmt.select, Nat.mod_eq_of_lt hreg]
  obtain ⟨hpc, herr⟩ | h := h
  · rw [beq_eq_false_iff_ne.mpr hpc, beq_eq_false_iff_ne.mpr herr]
    split <;> rfl
  · rw [if_pos h]

/-- Settles O56: doorbells and register writes, each by its equation. -/
theorem doorbellsAndRegisters : Obligations.DoorbellsAndRegisters := by
  refine ⟨?_, ?_, ?_, ?_⟩
  · intro s fn queue value relaxed f q hf hq n t put
    have hexec : ∀ relaxed, exec (.doorbellWrite fn queue value relaxed) s = .next (nextFree (doorbell s fn queue value relaxed)) :=
      fun _ => rfl
    refine ⟨fun hans => ?_, fun hans => ⟨?_, fun hbad => ?_, fun hin hdist => ?_⟩⟩
    · rw [hexec, doorbell_silent hf hq hans]
    · rw [hexec, doorbell_relaxed hf hq hans]
    · rw [hexec, doorbell_bad hf hq hans (badTail_true hbad)]
      rfl
    · rw [hexec, doorbell_moves hf hq hans (badTail_false hin hdist)]
      rfl
  · intro s fn queue value f q hfn hf hq put
    have hexec : ∀ reg, exec (.registerWrite fn reg value) s = .next (nextFree (barWrite s fn reg value)) := fun reg =>
      congrArg (fun a => Host.Outcome.next (nextFree a)) (if_neg (by rw [beq_iff_eq]; omega))
    refine ⟨fun hans reg hreg => ?_, fun hans => ⟨?_, fun hzero => ?_, fun hother => ?_, fun hzero => ?_⟩⟩
    · rw [hexec, barWrite_silent hf (hreg ▸ hq) hans]
    · rw [hexec, barWrite_qbase hf hq hans]
      rfl
    · subst hzero
      rw [hexec, barWrite_evbase hf hq hans]
    · rw [hexec, barWrite_qlog hf hq hans, if_neg hother, withQlog, tst_wrapped]
      rfl
    · subst hzero
      have hqlog := barWrite_qlog (value := value) hf hq hans
      rw [if_pos rfl, withQlog, tst_wrapped] at hqlog
      exact (hexec 0).trans (congrArg (fun a => Host.Outcome.next (nextFree a)) hqlog)
  · intro f base log2n
    simp only [setRing, Bool.and_eq_true, beq_iff_eq]
  · intro s value
    have hexec : ∀ reg, exec (.registerWrite 9 reg value) s = .next (nextFree (portWrite s reg value)) := fun _ => rfl
    refine ⟨fun hvalue => ⟨?_, ?_⟩, fun reg hreg h => ?_⟩
    · rw [hexec, portWrite, if_neg (Nat.not_le.mpr hvalue)]
      rfl
    · rw [hexec, portWrite, if_neg (Nat.not_le.mpr hvalue)]
      rfl
    · rw [hexec, portWrite_index hreg h]

end Sys2Proof.Proofs.Registers
end

section
/-! PROOFS: flits, links, exchange ticks and retrains (15 R442-R444, R448). -/

set_option Elab.async false -- one proof at a time: the check bounds memory

namespace Sys2Proof.Proofs.Links

open Sys2Proof Sys2Proof.Machine Sys2Proof.Terms Sys2Proof.Laws Sys2Proof.Proofs

variable {s : State} {link flow seq : Nat} {body : List Nat}

/-! ## Flits in the order of their flow (15 R443) -/

theorem deliver_held : (deliver s flow body).trunk.held = s.trunk.held := by
  unfold deliver
  split
  · unfold farJoin
    split
    · rfl
    · split <;> rfl
  all_goals rfl

theorem drainFlow_none {n : Nat} (h : ∀ x ∈ s.trunk.held, x.1 = flow → x.2.1 ≠ zget 0 s.trunk.flows flow) : drainFlow flow n s = s := by
  cases n with
  | zero => rfl
  | succ n =>
    have hfind : s.trunk.held.find? (fun x => x.1 == flow && x.2.1 == zget 0 s.trunk.flows flow) = none :=
      List.find?_eq_none.mpr fun x hx hmatch => by
        obtain ⟨hflow, hseq⟩ := Bool.and_eq_true_iff.mp hmatch
        exact h x hx (eq_of_beq hflow) (eq_of_beq hseq)
    simp only [drainFlow, hfind]

theorem takeFlit_before (h : seq < zget 0 s.trunk.flows flow) : takeFlit s flow seq body = s := by
  simp only [takeFlit, decide_eq_true h, Bool.true_or, if_true]

/-- The flit is held. -/
def holding (s : State) (flow seq : Nat) (body : List Nat) : State :=
  { s with trunk := { s.trunk with held := s.trunk.held ++ [(flow, seq, body)] } }

theorem takeFlit_new (hseq : zget 0 s.trunk.flows flow ≤ seq) (hnew : ∀ x ∈ s.trunk.held, x.1 = flow → x.2.1 ≠ seq) :
    takeFlit s flow seq body = drainFlow flow (s.trunk.held.length + 1) (holding s flow seq body) := by
  have hgo : (decide (seq < zget 0 s.trunk.flows flow) || s.trunk.held.any (fun x => x.1 == flow && x.2.1 == seq)) = false := by
    rw [decide_eq_false (Nat.not_lt.mpr hseq), Bool.false_or, List.any_eq_false]
    intro x hx hmatch
    obtain ⟨hflow, hown⟩ := Bool.and_eq_true_iff.mp hmatch
    exact hnew x hx (eq_of_beq hflow) (eq_of_beq hown)
  simp only [takeFlit, hgo, Bool.false_eq_true, if_false, List.length_append, List.length_singleton]
  rfl

theorem takeFlit_early (hseq : zget 0 s.trunk.flows flow < seq)
    (hheld : ∀ x ∈ s.trunk.held, x.1 = flow → x.2.1 ≠ zget 0 s.trunk.flows flow ∧ x.2.1 ≠ seq) :
    takeFlit s flow seq body = holding s flow seq body := by
  rw [takeFlit_new hseq.le fun x hx hflow => (hheld x hx hflow).2]
  refine drainFlow_none fun x hx hflow => ?_
  obtain hx | hx := List.mem_append.mp hx
  · exact (hheld x hx hflow).1
  · rw [List.mem_singleton.mp hx]
    exact hseq.ne'

theorem takeFlit_turn (hseq : seq = zget 0 s.trunk.flows flow) (hheld : ∀ x ∈ s.trunk.held, x.1 ≠ flow) :
    takeFlit s flow seq body =
      deliver { s with trunk := { s.trunk with flows := zset 0 s.trunk.flows flow (seq + 1) } } flow body := by
  subst hseq
  have hothers : ∀ n, ∀ x ∈ s.trunk.held, ¬(x.1 == flow && x.2.1 == n) = true := fun n x hx hmatch =>
    hheld x hx (eq_of_beq (Bool.and_eq_true_iff.mp hmatch).1)
  have hfind (n : Nat) : (s.trunk.held ++ [(flow, n, body)]).find? (fun x => x.1 == flow && x.2.1 == n) = some (flow, n, body) := by
    rw [List.find?_append, List.find?_eq_none.mpr (hothers n)]
    simp
  have hleft (n : Nat) : (s.trunk.held ++ [(flow, n, body)]).filter (fun x => !(x.1 == flow && x.2.1 == n)) = s.trunk.held := by
    rw [List.filter_append, List.filter_eq_self.mpr fun x hx => by
      rw [Bool.not_eq_true', Bool.eq_false_iff]
      exact hothers n x hx]
    simp
  rw [takeFlit_new le_rfl fun x hx hflow => absurd hflow (hheld x hx)]
  simp only [drainFlow, holding, hfind, hleft]
  exact drainFlow_none fun x hx hflow => absurd hflow (hheld x (by rwa [deliver_held] at hx))

/-- The link's flits are received. -/
theorem flit_open {up : Bool} {n : Nat} (hup : up = true) (hn : n < 65) : (!up || decide (65 ≤ n)) = false := by
  rw [hup, decide_eq_false (Nat.not_le.mpr hn)]
  rfl

theorem flitReceive_bad (hup : linkUp s link = true) (hn : zget 0 s.trunk.retries link < 65) :
    flitReceive s link flow seq false body = countEvents
      { s with trunk := { s.trunk with retries := zset 0 s.trunk.retries link (zget 0 s.trunk.retries link + 1) } } (uLink link) 1 := by
  rw [flitReceive, flit_open hup hn]
  rfl

theorem flitReceive_fine (hup : linkUp s link = true) (hn : zget 0 s.trunk.retries link < 65) :
    flitReceive s link flow seq true body =
      takeFlit { s with trunk := { s.trunk with retries := zset 0 s.trunk.retries link 0 } } flow seq body := by
  rw [flitReceive, flit_open hup hn]
  rfl

/-- Settles O57: flits, links, ticks and retrains, each by its equation. -/
theorem trunkLinksAndTicks : Obligations.TrunkLinksAndTicks := by
  have hclass : ∀ s, 1 ≤ freeClass s ∧ freeClass s ≤ 6 := fun s => by
    unfold freeClass
    omega
  refine ⟨?_, ?_, ?_, ?_⟩
  · intro s link flow seq ok body n next fine
    have hexec : ∀ ok, exec (.trunkFlitReceive link flow seq ok body) s = .next (nextFree (flitReceive s link flow seq ok body)) :=
      fun _ => rfl
    refine ⟨fun hdown => ?_, fun hup hn => ?_⟩
    · have hstop : (!linkUp s link || decide (65 ≤ n)) = true := by
        simpa only [Bool.or_eq_true, Bool.not_eq_true', decide_eq_true_eq] using hdown
      rw [hexec, flitReceive, if_pos hstop]
    · have hbad : flitReceive s link flow seq false body =
          countEvents { s with trunk := { s.trunk with retries := zset 0 s.trunk.retries link (n + 1) } } (uLink link) 1 :=
        flitReceive_bad hup hn
      have hfine : flitReceive s link flow seq true body = takeFlit fine flow seq body := flitReceive_fine hup hn
      refine ⟨?_, fun hseq => ?_, fun hseq hheld => ?_, fun hseq hheld => ?_⟩
      · rw [hexec, hbad]
      · rw [hexec, hfine, takeFlit_before (s := fine) hseq]
      · rw [hexec, hfine, takeFlit_early (s := fine) hseq hheld]
        rfl
      · rw [hexec, hfine, takeFlit_turn (s := fine) hseq hheld, ← hseq]
  · intro s link
    have hexec : exec (.linkDown link) s = .next (nextFree (linkFail s link)) := rfl
    refine ⟨fun hup hn => ⟨freeClass s, (hclass s).1, (hclass s).2, ?_⟩, fun hstop => ?_⟩
    · have hgo : (!linkUp s link || decide (zget 0 s.trunk.retries link < 65)) = false := by
        rw [hup, decide_eq_false (Nat.not_lt.mpr hn)]
        rfl
      rw [hexec, linkFail, hgo]
      rfl
    · have hgo : (!linkUp s link || decide (zget 0 s.trunk.retries link < 65)) = true := by
        simpa only [Bool.or_eq_true, Bool.not_eq_true', decide_eq_true_eq] using hstop
      rw [hexec, linkFail, if_pos hgo]
  · intro s
    have hexec : exec .tickLoss s = .next (nextFree (tickLoss s)) := rfl
    refine ⟨rfl, fun hfirst hgap => ⟨freeClass s, (hclass s).1, (hclass s).2, ?_⟩, fun hstop => ?_⟩
    · have hgo : (s.tickLost || decide (s.tickGap ≤ 2 ^ 30)) = false := by
        rw [hfirst, decide_eq_false (Nat.not_le.mpr hgap)]
        rfl
      rw [hexec, tickLoss, hgo]
      rfl
    · have hgo : (s.tickLost || decide (s.tickGap ≤ 2 ^ 30)) = true := by
        simpa only [Bool.or_eq_true, decide_eq_true_eq] using hstop
      rw [hexec, tickLoss, if_pos hgo]
  · intro s unit below hunit key t m
    have hexec : exec (.linkRetrain unit below) s = .next (nextFree (retrain s unit below)) := rfl
    refine ⟨fun hkind => ?_, fun hsix hseven => ?_⟩
    · have hgo : ((unit / 2 ^ 28 == 6 || unit / 2 ^ 28 == 7) && decide (unit < 2 ^ 32)) = true := by
        rw [decide_eq_true hunit, Bool.and_true]
        simpa only [Bool.or_eq_true, beq_iff_eq] using hkind
      rw [hexec, retrain, if_pos hgo]
      simp only [decide_eq_true_eq]
      rfl
    · have hgo : ((unit / 2 ^ 28 == 6 || unit / 2 ^ 28 == 7) && decide (unit < 2 ^ 32)) = false := by
        rw [beq_eq_false_iff_ne.mpr hsix, beq_eq_false_iff_ne.mpr hseven]
        rfl
      rw [hexec, retrain, hgo]
      rfl

end Sys2Proof.Proofs.Links
end

section
/-! PROOFS: resets, the end of a wipe, and life-cycle tokens (15 R449, R454, R456, R457, R461, R462). -/

set_option Elab.async false -- one proof at a time: the check bounds memory

namespace Sys2Proof.Proofs.Resets

open Sys2Proof Sys2Proof.Machine Sys2Proof.Terms Sys2Proof.Laws Sys2Proof.Proofs Sys2Proof.Proofs.Signalbox

variable {s : State} {part : Nat} {p : Partition}

/-! ## The whole device (15 R454, R456) -/

/-- What a device that is wiped holds: nothing but its host memory and its management registers. -/
structure Wiped (s t : State) (m : Mgmt) : Prop where
  booting : t.booting = true
  mem : t.mem = []
  host : t.hostMem = s.hostMem
  waves : t.waves = []
  contexts : t.contexts = []
  launches : t.launches = []
  parts : t.parts = []
  cores : t.cores = []
  ranges : t.ranges = []
  trunk : t.trunk = State.reset.trunk
  funcs : ∀ fn f, mget t.funcs fn = some f → f.wiping = true ∧ f.frozen = false
  mgmt : t.mgmt = m

theorem mem_of_mget {α : Type} {l : FMap α} {k : Nat} {v : α} (h : mget l k = some v) : (k, v) ∈ l := by
  induction l with
  | nil => cases h
  | cons e l ih =>
    obtain ⟨a, x⟩ := e
    rw [mget] at h
    split at h
    · next hk =>
      rw [eq_of_beq hk, Option.some.inj h]
      exact List.mem_cons_self
    · exact List.mem_cons_of_mem _ (ih h)

theorem wiped_wipeDevice (s : State) (m : Mgmt) : Wiped s (nextFree (wipeDevice s m)) m where
  booting := rfl
  mem := rfl
  host := rfl
  waves := rfl
  contexts := rfl
  launches := rfl
  parts := rfl
  cores := rfl
  ranges := rfl
  trunk := rfl
  funcs fn f hf := by
    have hinit : ∀ e ∈ State.reset.funcs, e.2.frozen = false := by decide
    obtain ⟨e, he, heq⟩ := List.mem_map.mp (mem_of_mget hf)
    cases heq
    exact ⟨rfl, hinit e he⟩
  mgmt := rfl

theorem resetMgmt_cold (m : Mgmt) (tries : Nat) :
    (resetMgmt m true tries).blocksLeft = m.blocksLeft - 1 ∧ (resetMgmt m true tries).indices = if m.blocksLeft = 0 then 0 else 64 := by
  by_cases h : m.blocksLeft = 0
  · simp [resetMgmt, h]
  · simp [resetMgmt, h]

/-- BOOT after firmware has been verified (15 R456). -/
theorem verified_bootStat (m : Mgmt) (failure : Option Nat) : (verified m failure).bootStat = if failure = none then 1 else 2 := by
  cases failure <;> rfl

theorem failure_eq_none {ok : Bool} {f : Option Nat} {n : Nat} : (if ok then f else some n) = none ↔ ok = true ∧ f = none := by
  cases ok <;> simp

/-! ## A partition (15 R454) -/

/-- The partition's contexts have ended and its launches are recorded. -/
def partEnded (s : State) (part : Nat) : State :=
  let s := (partContexts s part).foldl (fun s c => modX (endContext s c none) c (fun x =>
    { x with consists := x.consists.map (fun q => (q.1, { q.2 with cmds := [] })) })) s
  ((s.launches.filter (fun e => e.2.part == part)).map (·.1)).foldl closeEnding s

/-- Its waves, bind records and what the device keeps for it are gone. -/
def partCleared (s : State) (part : Nat) (p : Partition) : State :=
  { s with
    waves := s.waves.filter (fun e => !tst p.cores e.2.core), binds := s.binds.filter (fun e => !tst p.cores e.2.core),
    units := s.units.map (fun e => if tst p.cores e.2.core && e.2.placed then (e.1, { e.2 with st := .done, share := [], bars := [] }) else e),
    gsteps := zset 0#64 s.gsteps part 0#64, parts := mset s.parts part { p with recs := [], heldFaults := [] },
    invals := s.invals.filter (fun v => v.fn != part + 1), colls := s.colls.filter (fun x => x.part != part),
    funcs := mmod s.funcs (part + 1) (fun _ => { Func.init with wiping := true }) }

theorem partitionReset_eq (hp : mget s.parts part = some p) :
    partitionReset s part = p.regions.foldl (fun s r => wipeStretch s (regionBytes r))
      (((span 0 192).filter (tst p.cores)).foldl wipeCore (partCleared (partEnded s part) part p)) := by
  simp only [partitionReset, hp]
  rfl

theorem foldl_keeps {α β : Type} {f : State → α → State} {g : State → β} (h : ∀ s a, g (f s a) = g s) (l : List α) :
    g (l.foldl f s) = g s := by
  induction l generalizing s with
  | nil => rfl
  | cons a l ih => rw [List.foldl_cons, ih, h]

theorem foldl_wipeCore_core (l : List Nat) (c : Nat) :
    mget (l.foldl wipeCore s).cores c = if c ∈ l then none else mget s.cores c := by
  induction l generalizing s with
  | nil => simp
  | cons d l ih =>
    rw [List.foldl_cons, ih, wipeCore, mget_mdel]
    by_cases hl : c ∈ l
    · rw [if_pos hl, if_pos (List.mem_cons_of_mem _ hl)]
    · by_cases hd : c = d
      · rw [if_neg hl, if_pos hd, if_pos (hd ▸ List.mem_cons_self)]
      · rw [if_neg hl, if_neg hd, if_neg (by simp [hl, hd])]

theorem homeByte_wipeStretch (r : Nat × Nat) (a : Nat) :
    homeByte (wipeStretch s r) a = if r.1 ≤ a ∧ a < r.1 + r.2 then 0#8 else homeByte s a := by
  have hmem : (wipeStretch s r).mem = clearRange r.1 r.2 s.mem := rfl
  rw [homeByte, zget, hmem, mget_clearRange]
  split
  · rfl
  · rfl

theorem homeByte_foldl_wipeStretch (l : List (Nat × Nat)) (a : Nat) :
    homeByte (l.foldl (fun s r => wipeStretch s (regionBytes r)) s) a =
      if ∃ r ∈ l, (regionBytes r).1 ≤ a ∧ a < (regionBytes r).1 + (regionBytes r).2 then 0#8 else homeByte s a := by
  induction l generalizing s with
  | nil => simp
  | cons r l ih =>
    rw [List.foldl_cons, ih, homeByte_wipeStretch]
    by_cases hl : ∃ r ∈ l, (regionBytes r).1 ≤ a ∧ a < (regionBytes r).1 + (regionBytes r).2
    · rw [if_pos hl, if_pos (List.exists_mem_cons_of_exists hl)]
    · by_cases hr : (regionBytes r).1 ≤ a ∧ a < (regionBytes r).1 + (regionBytes r).2
      · rw [if_neg hl, if_pos hr, if_pos (List.exists_mem_cons_of l hr)]
      · rw [if_neg hl, if_neg hr, if_neg (by rw [List.exists_mem_cons_iff, not_or]; exact ⟨hr, hl⟩)]

/-- What the wiping of regions and of cores leaves. -/
theorem foldl_wiping_keeps {β : Type} {g : State → β} (hstretch : ∀ s r, g (wipeStretch s r) = g s) (hcore : ∀ s c, g (wipeCore s c) = g s)
    (rs : List (Nat × Nat)) (cs : List Nat) :
    g (rs.foldl (fun s r => wipeStretch s (regionBytes r)) (cs.foldl wipeCore s)) = g s :=
  (foldl_keeps (fun s r => hstretch s (regionBytes r)) rs).trans (foldl_keeps hcore cs)

theorem exec_partitionReset (hpart : part < 8) (hboot : s.booting = false) :
    exec (.partitionReset part) s = .next (nextFree (partitionReset s part)) :=
  congrArg (fun a => Host.Outcome.next (nextFree a)) (if_pos (by rw [decide_eq_true hpart, hboot]; rfl))

theorem exec_partitionReset_none (h : 8 ≤ part ∨ s.booting = true) : exec (.partitionReset part) s = .next (nextFree s) := by
  refine congrArg (fun a => Host.Outcome.next (nextFree a)) (if_neg fun hgo => ?_)
  obtain ⟨hpart, hboot⟩ := Bool.and_eq_true_iff.mp hgo
  obtain h | h := h
  · exact absurd (of_decide_eq_true hpart) (Nat.not_lt.mpr h)
  · rw [h] at hboot
    cases hboot

/-! ## Tokens (15 R462) -/

theorem tokenOk_spec {m : Mgmt} (h : tokenOk m = true) : m.lcbuf.length = 9764 ∧ m.lcs < 3 ∧ (lget 0#8 m.lcbuf 0).toNat = m.lcs + 1 ∧
    ofBytes ((m.lcbuf.drop 8).take 8) = m.lcnonce.toNat ∧ ofBytes ((m.lcbuf.drop 16).take 16) = Config.serial.toNat ∧
    Config.xmssVerify (m.lcbuf.take 32) (m.lcbuf.drop 32) = true := by
  simp only [tokenOk, Bool.and_eq_true, beq_iff_eq, decide_eq_true_eq] at h
  obtain ⟨⟨⟨⟨⟨hlength, hnext⟩, hstate⟩, hnonce⟩, hserial⟩, hsigned⟩ := h
  exact ⟨hlength, hstate, hnext, hnonce, hserial, hsigned⟩

theorem lcApply_wipes (htoken : tokenOk s.mgmt = true) : ∃ m, lcApply s = wipeDevice s m ∧ m.lcs = s.mgmt.lcs + 1 ∧ m.lccmd = 1 ∧
    m.bootStat = (if bootFailure (s.mgmt.lcs + 1) s.freeCount = none then 1 else 2) ∧ m.lcbuf = [] := by
  refine ⟨_, lcApply_passes htoken, ?_⟩
  split
  · exact ⟨rfl, rfl, verified_bootStat s.mgmt _, rfl⟩
  · exact ⟨rfl, rfl, verified_bootStat s.mgmt _, rfl⟩

/-- Settles O58: resets, the end of a wipe and tokens, each by what it leaves. -/
theorem resetsAndLifeCycle : Obligations.ResetsAndLifeCycle := by
  refine ⟨?_, ?_, ?_, fun s part h => exec_partitionReset_none h, ?_, ?_, fun m => tokenOk_spec, fun s byte => ⟨rfl, rfl⟩⟩
  · intro s ok
    obtain ⟨hblocks, hindices⟩ := resetMgmt_cold s.mgmt s.freeCount
    let failure := if ok then bootFailure s.mgmt.lcs s.freeCount else some ((freeVal s 9770).toNat % 3)
    have hw := wiped_wipeDevice s (verified (resetMgmt s.mgmt true s.freeCount) failure)
    refine ⟨_, rfl, hw.booting, hw.mem, hw.host, hw.waves, hw.contexts, hw.launches, hw.parts, hw.cores, hw.ranges, hw.trunk, hw.funcs,
      ?_, fun hok => ?_, rfl, rfl, rfl, hblocks, hindices⟩
    · refine (verified_bootStat _ failure).trans (if_congr failure_eq_none rfl rfl)
    · subst hok
      rfl
  · intro s
    refine ⟨fun hheld => ?_, fun hrun => ?_⟩
    · exact congrArg (fun a => Host.Outcome.next (nextFree a)) (if_pos (beq_iff_eq.mpr hheld))
    · have hexec : exec .deviceReset s = .next (nextFree (wipeDevice s (resetMgmt s.mgmt false s.freeCount))) :=
        congrArg (fun a => Host.Outcome.next (nextFree a)) (if_neg (by rw [beq_iff_eq]; exact hrun))
      have hw := wiped_wipeDevice s (resetMgmt s.mgmt false s.freeCount)
      exact ⟨_, hexec, hw.booting, hw.mem, hw.host, hw.waves, hw.contexts, hw.launches, hw.parts, hw.cores, hw.ranges, hw.trunk,
        hw.funcs, rfl, rfl, rfl, rfl, rfl⟩
  · intro s part p hpart hboot hp
    refine ⟨_, exec_partitionReset hpart hboot, ?_⟩
    rw [partitionReset_eq hp]
    generalize partEnded s part = t
    have hkeep {β : Type} (g : State → β) (hfree : ∀ s, g (nextFree s) = g s) (hstretch : ∀ s r, g (wipeStretch s r) = g s)
        (hcore : ∀ s c, g (wipeCore s c) = g s) : g (nextFree (p.regions.foldl (fun s r => wipeStretch s (regionBytes r))
          (((span 0 192).filter (tst p.cores)).foldl wipeCore (partCleared t part p)))) = g (partCleared t part p) :=
      (hfree _).trans (foldl_wiping_keeps hstretch hcore _ _)
    refine ⟨?_, fun f hf => ?_, fun e he => ?_, fun c hc hown => ?_, fun r hr a hlo hhi => ?_, ?_⟩
    · rw [hkeep State.gsteps (fun _ => rfl) (fun _ _ => rfl) fun _ _ => rfl]
      exact zget_zset_same 0#64 t.gsteps part 0#64
    · rw [hkeep State.funcs (fun _ => rfl) (fun _ _ => rfl) fun _ _ => rfl, partCleared, mget_mmod, if_pos rfl] at hf
      obtain ⟨g, -, hg⟩ := Option.map_eq_some_iff.mp hf
      exact hg.symm
    · rw [hkeep State.waves (fun _ => rfl) (fun _ _ => rfl) fun _ _ => rfl] at he
      simpa using (List.mem_filter.mp he).2
    · have hcores : ∀ x : State, (nextFree (p.regions.foldl (fun s r => wipeStretch s (regionBytes r)) x)).cores = x.cores := fun x =>
        foldl_keeps (f := fun s r => wipeStretch s (regionBytes r)) (g := State.cores) (fun _ _ => rfl) p.regions
      rw [hcores, foldl_wipeCore_core, if_pos (List.mem_filter.mpr ⟨mem_span.mpr ⟨Nat.zero_le _, by omega⟩, hown⟩)]
    · refine (homeByte_foldl_wipeStretch _ a).trans (if_pos ⟨r, hr, hlo, hhi⟩)
    · rw [hkeep State.parts (fun _ => rfl) (fun _ _ => rfl) fun _ _ => rfl]
      exact mget_mset_same _ _ _
  · intro s
    have hexec : exec .wipeComplete s = .next (nextFree (wipeComplete s)) := rfl
    refine ⟨fun hheld => ?_, fun hrun => ?_⟩
    · rw [hexec, wipeComplete, if_pos (beq_iff_eq.mpr hheld)]
    · rw [hexec, wipeComplete, if_neg (by rw [beq_iff_eq]; exact hrun)]
      simp only [Bool.and_eq_true, beq_iff_eq]
  · intro s
    refine ⟨fun hbusy => ?_, fun hcmd htoken => ?_, fun hcmd htoken => ⟨Config.nonce s.freeCount, ?_⟩⟩
    · exact congrArg (fun a => Host.Outcome.next (nextFree a)) (if_pos (beq_iff_eq.mpr hbusy))
    · obtain ⟨m, hpass, hlcs, hlccmd, hboot, hbuf⟩ := lcApply_wipes htoken
      have hw := wiped_wipeDevice s m
      refine ⟨_, (exec_lcApply hcmd).trans (by rw [hpass]), ?_⟩
      rw [hw.mgmt]
      exact ⟨hlcs, hlccmd, hboot, hbuf, hw.booting, hw.mem, hw.waves, hw.contexts, hw.host⟩
    · rw [exec_lcApply hcmd, lcApply, if_neg (by rw [htoken]; exact Bool.false_ne_true)]
      rfl

end Sys2Proof.Proofs.Resets
end

section
/-! PROOFS: the clock, the power of a cycle, and the host's atomics (14 R418, R419, R427; 15 R436, R461, R463). -/

set_option Elab.async false -- one proof at a time: the check bounds memory

namespace Sys2Proof.Proofs.Clocks

open Sys2Proof Sys2Proof.Machine Sys2Proof.Terms Sys2Proof.Laws Sys2Proof.Proofs Sys2Proof.Proofs.Errors Sys2Proof.Proofs.Resets

variable {s : State} {fn addr op size operand : Nat} {f : Func}

/-! ## The clock (15 R463) -/

theorem exec_clockLower : exec .clockLower s = .next (nextFree (clockLower s)) := rfl

theorem exec_clockRaise : exec .clockRaise s = .next (nextFree (clockRaise s)) := rfl

theorem clockLower_steps (hhot : 2 ^ 22 ≤ s.mgmt.hot) (hclock : 1000 < s.mgmt.clock) :
    clockLower s = { s with mgmt := { s.mgmt with clock := max 1000 (s.mgmt.clock - 100), hot := 0 } } :=
  if_neg (by rw [decide_eq_false (Nat.not_lt.mpr hhot), decide_eq_false (Nat.not_le.mpr hclock)]; exact Bool.false_ne_true)

theorem clockLower_stays (h : s.mgmt.hot < 2 ^ 22 ∨ s.mgmt.clock ≤ 1000) : clockLower s = s :=
  if_pos (by simpa only [Bool.or_eq_true, decide_eq_true_eq] using h)

theorem clockRaise_steps (hcool : 2 ^ 26 ≤ s.mgmt.cool) (htherm : s.mgmt.therm = false) (hclock : s.mgmt.clock < 3000) :
    clockRaise s = { s with mgmt := { s.mgmt with clock := min 3000 (s.mgmt.clock + 100), cool := 0 } } :=
  if_neg (by
    rw [decide_eq_false (Nat.not_lt.mpr hcool), htherm, decide_eq_false (Nat.not_le.mpr hclock)]
    exact Bool.false_ne_true)

theorem clockRaise_stays (h : s.mgmt.cool < 2 ^ 26 ∨ s.mgmt.therm = true ∨ 3000 ≤ s.mgmt.clock) : clockRaise s = s :=
  if_pos (by simpa only [Bool.or_eq_true, decide_eq_true_eq, or_assoc] using h)

/-! ## The power of a cycle (15 R461, R463) -/

/-- No sampler has a sample to write. -/
def NoSample (s : State) : Prop := ∀ c m, (getC s c).sampler = some m → m.pending = []

theorem noSample_of_cores (h : ∀ e ∈ s.cores, ∀ m, e.2.sampler = some m → m.pending = []) : NoSample s := by
  intro c m hm
  rw [getC] at hm
  cases hc : mget s.cores c with
  | none =>
    rw [hc] at hm
    cases hm
  | some x =>
    rw [hc] at hm
    exact h (c, x) (mem_of_mget hc) m hm

theorem flushSamples_idle (h : NoSample s) (core : Nat) : (flushSamples s core).mgmt = s.mgmt ∧ NoSample (flushSamples s core) := by
  cases hm : (getC s core).sampler with
  | none =>
    rw [flushSamples, hm]
    exact ⟨rfl, h⟩
  | some m =>
    have hnone := h core m hm
    have hflush : flushSamples s core = modC s core (fun c => { c with sampler := some { m with pending := [] } }) := by
      rw [flushSamples, hm]
      simp only [hnone, List.foldl_nil]
    rw [hflush]
    refine ⟨rfl, fun c m' hm' => ?_⟩
    rw [getC, modC_cores, mget_mset] at hm'
    split at hm'
    · cases hm'
      rfl
    · exact h c m' hm'

theorem foldl_flushSamples_idle (h : NoSample s) (l : List Nat) : (l.foldl flushSamples s).mgmt = s.mgmt := by
  induction l generalizing s with
  | nil => rfl
  | cons c l ih =>
    obtain ⟨hmgmt, hnone⟩ := flushSamples_idle h c
    rw [List.foldl_cons, ih hnone, hmgmt]

theorem countDead_mgmt : (countDead s).mgmt = s.mgmt := by
  refine foldl_keeps (g := State.mgmt) (fun t c => ?_) _
  extract_lets n
  clear_value n
  split <;> rfl

theorem measured_eq (t : State) : ∃ p ≤ 2400, ∃ q, measured t = { t.mgmt with
    power := BitVec.ofNat 32 p, temp := q, hot := if t.mgmt.plim < p then t.mgmt.hot + 1 else 0,
    cool := if 100 * p < 95 * t.mgmt.plim then t.mgmt.cool + 1 else 0 } :=
  ⟨_, Nat.min_le_left _ _, _, rfl⟩

theorem passCycle_mgmt (h : NoSample s) : ∃ t : State, t.mgmt = s.mgmt ∧ (passCycle s).mgmt = measured t :=
  ⟨_, countDead_mgmt.trans (foldl_flushSamples_idle h _), rfl⟩

/-! ## Read-only bytes (14 R418) -/

theorem place_values (a : Nat) (bs : List Byte) : (place a bs).map (·.2) = bs := by
  induction bs generalizing a with
  | nil => rfl
  | cons b bs ih => rw [place, List.map_cons, ih]

theorem mem_place {a : Nat} {bs : List Byte} {e : Nat × Byte} (h : e ∈ place a bs) : ∃ j < bs.length, e.1 = a + j := by
  induction bs generalizing a with
  | nil => cases h
  | cons b bs ih =>
    obtain h | h := List.mem_cons.mp h
    · exact ⟨0, Nat.succ_pos _, by rw [h]; rfl⟩
    · obtain ⟨j, hj, he⟩ := ih h
      exact ⟨j + 1, Nat.succ_lt_succ hj, by omega⟩

theorem soft_eq {pa : Nat} {bs : List Byte} (h : ∀ j < bs.length, readOnly s (pa + j) = false) : soft s pa bs = bs := by
  have hsame : softList s (place pa bs) = place pa bs := by
    refine (List.map_congr_left fun e he => ?_).trans (List.map_id _)
    obtain ⟨j, hj, hpa⟩ := mem_place he
    rw [hpa, h j hj]
    rfl
  rw [soft, hsame, place_values]

/-! ## The host's atomics (15 R436) -/

/-- An atomic that a function may issue. -/
structure Proper (s : State) (fn addr op size : Nat) (f : Func) : Prop where
  func : mget s.funcs fn = some f
  answers : fnAnswers s f = true
  width : size = 4 ∨ size = 8
  aligned : addr % size = 0
  inside : addr + size ≤ memSize
  known : op < 2

theorem pcieAtomic_proper (h : Proper s fn addr op size f) :
    pcieAtomic s fn addr op size operand =
      if fn != 0 && !physOk s (fn - 1) true addr size then freezeFn s fn addr
      else if !s.vis.isEmpty then s
      else
        (badGranule s (.single addr) size addr).elim
          (writeHome s addr (soft s addr (bytesOf size (hostAtomic op size operand (ofBytes (homeBytes s addr size))))))
          (fun g => poisonGranule s g.1) := by
  have hsize : (size != 4 && size != 8) = false := by
    obtain h | h := h.width <;> rw [h] <;> rfl
  have hgo : (!fnAnswers s f || (size != 4 && size != 8) || addr % size != 0 || decide (memSize < addr + size) || decide (2 ≤ op)) = false := by
    rw [h.answers, hsize, h.aligned, decide_eq_false (Nat.not_lt.mpr h.inside), decide_eq_false (Nat.not_le.mpr h.known)]
    rfl
  simp only [pcieAtomic, h.func, hgo, Bool.false_eq_true, if_false]
  cases badGranule s (.single addr) size addr <;> rfl

theorem pcieAtomic_frozen (h : Proper s fn addr op size f) (hfn : fn ≠ 0) (hphys : physOk s (fn - 1) true addr size = false) :
    pcieAtomic s fn addr op size operand = freezeFn s fn addr := by
  rw [pcieAtomic_proper h, bne_iff_ne.mpr hfn, hphys]
  rfl

theorem reaches {b : Bool} (h : fn = 0 ∨ b = true) : (fn != 0 && !b) = false := by
  obtain h | h := h
  · rw [h]; rfl
  · rw [h]; exact Bool.and_false _

theorem pcieAtomic_waits (h : Proper s fn addr op size f) (hphys : fn = 0 ∨ physOk s (fn - 1) true addr size = true) (hvis : s.vis ≠ []) :
    pcieAtomic s fn addr op size operand = s := by
  rw [pcieAtomic_proper h, reaches hphys, if_neg Bool.false_ne_true, if_pos (by simpa using hvis)]

theorem pcieAtomic_writes (h : Proper s fn addr op size f) (hphys : fn = 0 ∨ physOk s (fn - 1) true addr size = true) (hvis : s.vis = [])
    (hgood : badGranule s (.single addr) size addr = none) :
    pcieAtomic s fn addr op size operand =
      writeHome s addr (soft s addr (bytesOf size (hostAtomic op size operand (ofBytes (homeBytes s addr size))))) := by
  rw [pcieAtomic_proper h, reaches hphys, if_neg Bool.false_ne_true, hvis, if_neg (by simp), hgood, Option.elim_none]

theorem pcieAtomic_poisons {g : Nat} {b : Bool} (h : Proper s fn addr op size f)
    (hphys : fn = 0 ∨ physOk s (fn - 1) true addr size = true) (hvis : s.vis = [])
    (hbad : badGranule s (.single addr) size addr = some (g, b)) : pcieAtomic s fn addr op size operand = poisonGranule s g := by
  rw [pcieAtomic_proper h, reaches hphys, if_neg Bool.false_ne_true, hvis, if_neg (by simp), hbad, Option.elim_some]

theorem pcieAtomic_odd (hfour : size ≠ 4) (height : size ≠ 8) : pcieAtomic s fn addr op size operand = s := by
  unfold pcieAtomic
  split
  · rfl
  · rw [bne_iff_ne.mpr hfour, bne_iff_ne.mpr height]
    exact if_pos (by simp)

/-- A bad granule that bytes of the device meet is one of the device. -/
theorem badGranule_own {g : Nat} {b : Bool} (hin : addr + size ≤ memSize) (hbad : badGranule s (.single addr) size addr = some (g, b)) :
    g < memSize / 32 := by
  have hmeets : ∀ gs, ([(addr, size)] : List (Nat × Nat)).findSome? (meets gs) = some g → g < memSize / 32 := by
    intro gs h
    have hfound : meets gs (addr, size) = some g := by
      rw [List.findSome?_cons] at h
      cases hm : meets gs (addr, size) with
      | none =>
        rw [hm] at h
        cases h
      | some x => rwa [hm] at h
    have hmatch : (decide (g * 32 < addr + size) && decide (addr < g * 32 + 32)) = true :=
      List.find?_some (p := fun g => decide (g * 32 < addr + size) && decide (addr < g * 32 + 32)) hfound
    have hlow := of_decide_eq_true (Bool.and_eq_true_iff.mp hmatch).1
    have hwhole : memSize = 32 * 2 ^ 34 := by decide
    omega
  have hpieces : devPieces s (.single addr) size addr = [(addr, size)] := rfl
  simp only [badGranule, hpieces] at hbad
  split at hbad
  · next hfirst =>
    cases hbad
    exact hmeets _ hfirst
  · obtain ⟨x, hx, heq⟩ := Option.map_eq_some_iff.mp hbad
    cases heq
    exact hmeets _ hx

/-- Settles O59: the clock, the power of a cycle and the host's atomics. -/
theorem clocksAndHostAtomics : Obligations.ClocksAndHostAtomics := by
  refine ⟨?_, fun s pa bs h => soft_eq h, ?_, ?_, ?_⟩
  · intro s
    refine ⟨rfl, rfl, fun hhot hclock => ?_, fun hhot hmin hmax => ?_, fun h => ?_, fun hcool htherm hclock => ?_,
      fun hcool htherm hmin hmax => ?_, fun h => ?_, fun hnone => ?_⟩
    · rw [exec_clockLower, clockLower_steps hhot (by omega), Nat.max_eq_right (by omega)]
    · rw [exec_clockLower, clockLower_steps hhot hmin, Nat.max_eq_left (by omega)]
    · rw [exec_clockLower, clockLower_stays h]
    · rw [exec_clockRaise, clockRaise_steps hcool htherm (by omega), Nat.min_eq_right (by omega)]
    · rw [exec_clockRaise, clockRaise_steps hcool htherm hmax, Nat.min_eq_left (by omega)]
    · rw [exec_clockRaise, clockRaise_stays h]
    · obtain ⟨t, ht, hpass⟩ := passCycle_mgmt (noSample_of_cores hnone)
      obtain ⟨p, hp, q, hmeasured⟩ := measured_eq t
      exact ⟨p, hp, q, by rw [hpass, hmeasured, ht]⟩
  · intro s fn addr op size operand f hf hans hsize halign hin hop old
    have hproper : ∀ op < 2, Proper s fn addr op size f := fun op hop => ⟨hf, hans, hsize, halign, hin, hop⟩
    have hexec : ∀ op, exec (.pcieAtomicop fn addr op size operand) s = .next (nextFree (pcieAtomic s fn addr op size operand)) :=
      fun _ => rfl
    refine ⟨fun hfn hphys => ?_, fun hphys hvis => ?_, fun hphys hvis hgood => ⟨?_, ?_⟩⟩
    · rw [hexec, pcieAtomic_frozen (hproper op hop) hfn hphys]
    · rw [hexec, pcieAtomic_waits (hproper op hop) hphys hvis]
    · rw [hexec, pcieAtomic_writes (hproper 0 (by decide)) hphys hvis hgood]
      rfl
    · rw [hexec, pcieAtomic_writes (hproper 1 (by decide)) hphys hvis hgood]
      simp only [hostAtomic, beq_iff_eq, one_ne_zero, if_false]
      rfl
  · intro s fn addr op size operand hfour height
    have hexec : exec (.pcieAtomicop fn addr op size operand) s = .next (nextFree (pcieAtomic s fn addr op size operand)) := rfl
    rw [hexec, pcieAtomic_odd hfour height]
  · intro s fn addr op size operand g b hbad hsize halign hin hop hfn hvis hfunc
    obtain ⟨f, hf, hans⟩ := hfunc
    have hexec : exec (.pcieAtomicop fn addr op size operand) s = .next (nextFree (pcieAtomic s fn addr op size operand)) := rfl
    rw [hexec, pcieAtomic_poisons ⟨hf, hans, hsize, halign, hin, hop⟩ (.inl hfn) hvis hbad, poisonGranule_own (badGranule_own hin hbad)]
    rfl

end Sys2Proof.Proofs.Clocks
end
